-- ==== Sys2Proof/Word.lean ====
section
/-! DEFINITION. The plain words of the PJ8 block: bytes, register words, and the index types that name its parts.
Everything a test could show wrong about them (bit fields, byte order) is in Sys2Proof/Machine/Bits.lean. -/
namespace Sys2Proof

/-- One byte. -/
abbrev Byte := BitVec 8

/-- A BAR0 register as one access reads or writes it. -/
abbrev Word := BitVec 32

/-- A 64-bit count, address, tick or cookie. -/
abbrev DWord := BitVec 64

/-- A partition, 0 to 35 (00_scope.md, Table 0-7; partition windows of Table 14-4). -/
abbrev PartId := Fin 36

/-- A logical core, 0 to 287 (01_organization.md). -/
abbrev CoreId := Fin 288

/-- A core site, 0 to 319 (01_organization.md). -/
abbrev SiteId := Fin 320

/-- A memory stack, 0 to 23 (01_organization.md). -/
abbrev StackId := Fin 24

/-- A network port, 0 to 7 (10_network_ports.md). -/
abbrev NetPort := Fin 8

/-- A host port, 0 or 1 (14_host_interface.md). -/
abbrev HostPort := Fin 2

/-- The largest of a list of numbers, 0 for none. -/
def maxOf (l : List Nat) : Nat := l.foldl Nat.max 0

/-- The sum of a list of numbers. -/
def sumOf (l : List Nat) : Nat := l.foldl (· + ·) 0

end Sys2Proof
end

