-- ==== Sys2Proof/Syntax.lean ====
section
/-! DEFINITION. The commands of the PJ8 block: one constructor of Instr per row of spec/opcode_table.json, with the
operands the row's rule gives it. A descriptor row carries the descriptor as the ring holds it (Table 14-8, R661); an
event row carries what arrives from outside (a packet, a reading, a cycle count). -/
namespace Sys2Proof

/-- A descriptor in a submission ring: the ring it lies in, the header fields of Table 14-8 (OPCODE is the command's
own) and bytes 16 to 63. -/
structure Desc where
  part : PartId
  ring : Fin 64
  ver : Byte
  fence : Bool
  tag : Word
  cookie : DWord
  body : BitVec 384
  deriving DecidableEq, Repr

/-- An internal queue of Table 1-6, by its row and the core, stack or hub it belongs to: 16 grains or 32 tile-row updates of a
core, 256 line requests of a core, 1,024 bursts of a stack, 4,096 tokens of a hub, 512 lines of a hub. -/
inductive QueueId where
  | grains (c : CoreId)
  | tarn (c : CoreId)
  | lines (c : CoreId)
  | bursts (n : StackId)
  | tokens (hub : Fin 2)
  | intake (hub : Fin 2)
  deriving DecidableEq, Repr

/-- What has gone wrong in a burst at the DRAM: for each of its four codewords the dies whose symbol is in error and what the symbol
is XORed with, and whether only the next read meets it (R279 to R281). -/
structure BurstErr where
  words : List (List (Fin 19 × Byte))
  transient : Bool
  deriving DecidableEq, Repr

/-- The header fields of a tier message (Table 9-5) and the MSN it came under. -/
structure TierHdr where
  lend : Byte
  status : Byte
  tag : Word
  offset : DWord
  length : DWord
  msn : BitVec 24
  deriving DecidableEq, Repr


/-- The header of a received Gnoxel packet (Table 11-2) with what its frame tells: the port and source address it came from, whether the
network marked it CE, and the AES-256-GCM tag it ended with (R381; nothing reads it where the packet is not protected). Its payload or
body comes beside it as the cipher's counter stream opens it (notes/assumptions/72.md). -/
structure GnxHdr where
  port : NetPort
  src : BitVec 128
  ver : Byte
  type : Byte
  last : Bool
  enc : Bool
  solicit : Bool
  path : Fin 64
  dcid : BitVec 16
  scid : BitVec 16
  pkey : Word
  psn : Word
  msn : BitVec 24
  offset : Word
  plen : BitVec 16
  tstamp : Word
  ce : Bool
  tag : BitVec 128
  deriving DecidableEq, Repr

/-- A received CLOSE and its reason (Table 11-3). -/
structure CloseIn where
  h : GnxHdr
  reason : DWord
  deriving DecidableEq, Repr

/-- What a received frame is, after its length, FCS and tag (Table 10-3). -/
inductive FrameKind where
  | macControl
  | gnoxel (h : GnxHdr) (ownAddr plainIp csumOk csumZero : Bool)
  | ptp (encap : Fin 3) (csumOk csumZero : Bool)
  | arp (ip : BitVec 128) (mac : BitVec 48)
  | neighbour (ip : BitVec 128) (mac : BitVec 48)
  | echo
  | portControl
  | badIpChecksum
  | other
  deriving DecidableEq, Repr

/-- A received frame: its length, whether its FCS is good, its VLAN tag if any, the codewords corrected (in units of
1,024) and uncorrectable while it arrived, and what it is. -/
structure FrameIn where
  len : Nat
  fcsOk : Bool
  vid : Option (BitVec 12)
  fecCorr : Nat
  fecUnc : Nat
  kind : FrameKind
  deriving DecidableEq, Repr


/-- A received OPEN (Table 11-3) with the addresses its packet travelled between. -/
structure GnxOpen where
  src : BitVec 128
  dst : BitVec 128
  scid : BitVec 16
  pkey : Word
  lo : Byte
  hi : Byte
  mtu : BitVec 16
  mode : Fin 4
  enc : Bool
  addrs : List (BitVec 128)
  part : Byte
  peerPart : Byte
  nonce : BitVec 128
  deriving DecidableEq, Repr

/-- An ACK body (Table 11-6). -/
structure GnxAck where
  cumPsn : Word
  sack : BitVec 256
  posted : DWord
  ret : DWord
  rcvBytes : DWord
  ceBytes : DWord
  echo : Word
  msnLow : BitVec 24
  deriving DecidableEq, Repr

/-- A CREDIT body (Table 11-7). -/
structure GnxCredit where
  grant : DWord
  slotTick : DWord
  slotCum : DWord
  posted : DWord
  deriving DecidableEq, Repr

/-- A packet that reached an established channel's engine (Table 11-3), with its body; an ACK comes with the low half of cluster time in
ns. -/
inductive GnxIn where
  | openAck (h : GnxHdr) (nonce peerNonce : BitVec 128)
  | data (h : GnxHdr) (payload : List Byte)
  | ack (h : GnxHdr) (b : GnxAck) (now : Word)
  | credit (h : GnxHdr) (b : GnxCredit)
  | close (h : GnxHdr) (reason : DWord)
  | addr (h : GnxHdr) (addr : BitVec 128) (withdrawn : Bool)
  | viol (h : GnxHdr) (code : Byte) (msn : BitVec 24) (ofs : Word)
  | violAck (h : GnxHdr) (psn : Word)
  | nak (h : GnxHdr) (msn : BitVec 24) (ofs : Word)
  deriving DecidableEq, Repr

/-- A PTP message (R51, R52, R366), each time in ns: an Announce and whether the master it describes is better than this unit; a Sync, by how
much its receive time lies after its origin time with the correction (for a two-step Sync the origin time is yet to come), and the
Follow_Up that completes it; a Delay_Req and a Pdelay_Req with their sender (its port identity) and sequence number; a Delay_Resp, by how
much the master's receive time lies after this unit's send time; a Pdelay_Resp, by how much the round trip is longer than the
responder's turnaround. -/
inductive PtpMsg where
  | announce (better : Bool)
  | sync (twoStep : Bool) (late : Int)
  | followUp (late : Int)
  | delayReq (src : BitVec 80) (seq : BitVec 16)
  | delayResp (back : Int)
  | pdelayReq (src : BitVec 80) (seq : BitVec 16)
  | pdelayResp (trip : Int)
  deriving DecidableEq, Repr

/-- A PTP message with the domain it names (R52). -/
structure PtpIn where
  domain : Byte
  msg : PtpMsg
  deriving DecidableEq, Repr

/-- A Neighbor Solicitation: who asks, and for which address (R358). -/
structure Solicit where
  src : BitVec 128
  target : BitVec 128
  deriving DecidableEq, Repr

/-- An echo request: who asks, and the length of its frame (R361). -/
structure EchoAsk where
  src : BitVec 128
  len : BitVec 16
  deriving DecidableEq, Repr

/-- The header fields of a received cluster-control message (Table 13-3). -/
structure ClHdr where
  ver : Byte
  src : Fin 64
  job : DWord
  epoch : DWord
  step : DWord
  deriving DecidableEq, Repr

/-- What a member states of itself when a membership forms (R45, R63): the range of its cluster-control versions, its TICK_LEN
and its EPOCH. -/
structure ClStated where
  lo : Byte
  hi : Byte
  tickLen : Word
  epochS : DWord
  epochNs : Word
  deriving DecidableEq, Repr


/-- What a poll finds of one ring in host memory (R510, R516): a ring pair (0 to 63) or the event ring (64) of a partition, or
the port's module event ring (65); SQ_TAIL and CQ_HEAD as read, whether a read failed, and the opcodes and descriptors that lie
from SQ_HEAD on. -/
structure RingRead where
  part : PartId
  ring : Fin 66
  tail : DWord
  head : DWord
  err : Bool
  descs : List (Byte × Desc)
  deriving DecidableEq, Repr

/-- A firmware image as a load brings it (R567 to R569): whether its signature verifies against the fused key, its SVN and version,
and the SHA3-512 digests of its stages for MR0 to MR3. -/
structure FwBlob where
  sigOk : Bool
  svn : Fin 65
  major : Byte
  minor : Byte
  build : BitVec 16
  stages : List (BitVec 512)
  deriving DecidableEq, Repr

/-- A whole item of the calibration set (Table 16-3): gain and offset of the 13 current-sense channels, offsets of the 840
temperature sensors, preset and seed of the 96 lanes, seeds of the 192 DRAM channels, or the 17 power-model coefficients. -/
inductive CalItem where
  | sense (xs : List (Word × BitVec 16))
  | thermal (xs : List Byte)
  | presets (xs : List (Byte × BitVec 24))
  | seeds (xs : List (BitVec 4096))
  | coeffs (xs : List Word)
  deriving DecidableEq, Repr

/-- What a telemetry read asks for (R577, R608): the latest record, a kept record by TSEQ, or the calibration set. -/
inductive TelSel where
  | latest
  | seq (n : Word)
  | calibration
  deriving DecidableEq, Repr

/-- A maintenance activity that ends of itself: repair access to a stack, the calibration write, or the firmware load. -/
inductive MaintEnd where
  | repair (n : StackId)
  | calibration
  | load
  deriving DecidableEq, Repr

/-- The settings of management function 0x0B; one that is none keeps its value (Table 15-7). -/
structure PortSetup where
  setupPort : Option HostPort
  cxl0 : Option Bool
  cxl1 : Option Bool
  macs : List (NetPort × BitVec 48)
  maintVid : Option (BitVec 12)
  deriving DecidableEq, Repr


/-- What one partition, or the module overhead line, did in an interval as the power model counts it (R606): multiply-accumulate
rows by class, vectors, 64-byte lines, network bytes and engine bytes. -/
structure Acts where
  f4 : Word
  f8 : Word
  f16 : Word
  s32 : Word
  vectors : Word
  lines : Word
  net : Word
  engine : Word
  deriving DecidableEq, Repr

/-- What a partition's cores counted in an interval (Table 4-9): cycles at activity step 8 without an operand, without a Tarn write
credit, and with a row that the issue limit withheld (R150), and ramp-ups from step 0 (R152). -/
structure Stalls where
  opnd : Word
  tarn : Word
  limit : Word
  ramps : Word
  deriving DecidableEq, Repr

/-- What the current-sense channels and the activity counters read for the interval a tick boundary closes (R596, R604, R606): input
energy in µJ and charge in µC, the highest 10 µs input power in W, the energies of rails CR0 to CR7 in µJ, the rows issued
(dummy group-cycles / 8 added) by core and phase, the counts of each partition and of the overhead line (36), and the stalls of each partition's cores. -/
structure Meter where
  ein : Word
  qin : Word
  peak : BitVec 16
  rails : List Word
  rows : List (CoreId × Fin 16 × Word)
  acts : List (Fin 37 × Acts)
  stalls : List (PartId × Stalls)
  deriving DecidableEq, Repr

/-- The commands, in the order of spec/opcode_table.json. -/
inductive Instr where
  /-- TICK_BOUNDARY (R83): At each tick boundary the module latches issue limits, refills memory and network budgets and closes per-tick accounts. -/
  | tickBoundary (k : DWord) (m : Meter)
  /-- REGISTER_WRITE (R522): A BAR0 write to a register with no row of its own, checked field by field and clamped, sealed or ignored as the rules give. -/
  | registerWrite (q : HostPort) (addr : BitVec 28) (len : Fin 5) (v : Word)
  /-- BAR0_CROSSING_READ (R500): A BAR0 read that crosses a register boundary completes with Unsupported Request and no data. -/
  | bar0CrossingRead (q : HostPort) (addr : BitVec 28) (len : BitVec 12)
  /-- QUEUE_ITEM_ISSUE (R32): A producer issues one item to its consumer while its cumulative grant exceeds its cumulative issue count. -/
  | queueItemIssue (q : QueueId) (taken : Word)
  /-- TIME_UNIT_TAKEOVER (R21): When HD2's PTP time unit fails, HD3's unit takes over before the next boundary and the change is reported. -/
  | timeUnitTakeover
  /-- PTP_EVENT_MESSAGE_RX (R51): A PTP message received on a port is timestamped and fed to the time unit, which slews toward the master. -/
  | ptpEventMessageRx (n : NetPort) (m : PtpIn)
  /-- PTP_PORT_FAILOVER (R54): After 3 announce intervals without a master or on link loss, the time unit moves to PTP_ALT and reports it. -/
  | ptpPortFailover
  /-- PTP_PORT_RETURN (R54): After PTP_PORT has had a master for 16 announce intervals, the time unit moves back to it. -/
  | ptpPortReturn
  /-- HOLDOVER_ENTRY (R59): On losing every PTP master the time unit enters holdover and keeps placing boundaries. -/
  | holdoverEntry
  /-- FREE_RUN_ENTRY (R59): When holdover has lasted HOLDOVER, the time unit enters free-run and reports it. -/
  | freeRunEntry
  /-- PPS_EDGE (R60): A TICK_PPS_IN rising edge with no PTP master aligns whole seconds while PPS_EN is 1. -/
  | ppsEdge
  /-- WHOLE_SECOND (R61): At each whole second of cluster time with TICKOUT 0b10, TICK_OUT is driven high for 1 µs. -/
  | wholeSecond
  /-- TICK_OUT_PULSE_END (R61): 1 µs after a boundary or second, the TICK_OUT pulse ends. -/
  | tickOutPulseEnd
  /-- TICK_BEACON_RX (R367): A received tick beacon yields the skew to the partner's boundary, updates BCN_SKEW and may emit a time event. -/
  | tickBeaconRx (n : NetPort) (seq : Word) (bound : DWord) (rx : Int)
  /-- TICK_PLAN_CHECK (R66): A tick plan fetched at boundary k-R-1 arrives and is checked before any grain of its tick is released. -/
  | tickPlanCheck (p : PartId)
  /-- STEP_BEGIN (R74): A kicked step begins at the later of the boundary after the previous step and the first boundary R+1 ticks after the kick. -/
  | stepBegin (p : PartId)
  /-- GRAIN_START (R75): A core starts a grain once its boundary has passed, earlier grains are done, its wait is met and its plan has passed its check. -/
  | grainStart (c : Fin 288) (ofs : Word)
  /-- GRAIN_COMPLETE (R71): A grain completes; its status is written, its signal posted and its flags and excesses recorded. -/
  | grainComplete (c : Fin 288) (ofs : Word)
  /-- GRAIN_OVERRUN (R77): At a tick's deadline an unfinished or unstarted grain is an overrun: event, OVERRUN set, OVR_COUNT raised. -/
  | grainOverrun (c : Fin 288)
  /-- HANG_FENCE (R81): A core whose grain retires nothing for HANG_TICKS ticks outside declared waits is fenced. -/
  | hangFence (c : Fin 288)
  /-- DELAY_GRAIN_ELAPSED (R449): A delay grain's BUDGET elapses and it ends unless a filler grain still runs on the core. -/
  | delayGrainElapsed (c : Fin 288)
  /-- DIGEST_ROOT_FORMED (R225): The SHA3 engines finish a shard's digest tree and write its root. -/
  | digestRootFormed (p : PartId) (i : Fin 4096)
  /-- STEP_KICK (R74): Descriptor 0x10 queues a step of a registered plan. -/
  | stepKick (d : Desc)
  /-- PLAN_REGISTER (R73): Descriptor 0x11 registers a step plan after checking its header and table. -/
  | planRegister (d : Desc)
  /-- PLAN_RELEASE (R73): Descriptor 0x12 releases a plan once no step uses it. -/
  | planRelease (d : Desc)
  /-- STEP_HOLD (R72): Descriptor 0x13 lets the running step end and completes queued kicks as held. -/
  | stepHold (d : Desc)
  /-- RESOURCE_RELEASE_COMPLETE (R662): A release or destroy that waited for its resource to go idle completes and frees the identifier. -/
  | resourceReleaseComplete (p : PartId)
  /-- SHARD_REGISTER (R216): Descriptor 0x14 enters a shard from its image after range and overlap checks. -/
  | shardRegister (d : Desc)
  /-- SHARD_RELEASE (R216): Descriptor 0x15 releases a shard once PEND is clear and no step names it. -/
  | shardRelease (d : Desc)
  /-- SHARD_QUERY (R216): Descriptor 0x16 writes a shard entry as it stands to OUT_PVA. -/
  | shardQuery (d : Desc)
  /-- DISPATCH_CONTEXT_REGISTER (R250): Descriptor 0x17 registers a dispatch context and posts its receive buffers. -/
  | dispatchContextRegister (d : Desc)
  /-- DISPATCH_CONTEXT_RELEASE (R251): Descriptor 0x18 releases a context once no round is open and its buffers are returned. -/
  | dispatchContextRelease (d : Desc)
  /-- ROUTER_RECORD_ACCEPT (R253): The dispatch network side accepts a router record into the open round or refuses it as dropped. -/
  | routerRecordAccept (p : PartId)
  /-- ROUND_COLLECTION_DEADLINE (R252): DEADLINE ticks after a round opened, its collection closes. -/
  | roundCollectionDeadline (p : PartId) (n : Fin 16)
  /-- DISPATCH_MESSAGE_RX (R257): A dispatch message is placed row by row into its round's bank or held, and its buffer reposted. -/
  | dispatchMessageRx (cid : Fin 16384)
  /-- HELD_DISPATCH_PLACE (R254): A message held for a future round is placed once RX_NEXT has risen far enough. -/
  | heldDispatchPlace (p : PartId) (n : Fin 16)
  /-- RECEIVE_ROUND_DEADLINE (R258): DEADLINE ticks after its first message, a receive round closes, pads rows, writes counts and posts IN_SIG. -/
  | receiveRoundDeadline (p : PartId) (n : Fin 16) (b : Fin 2)
  /-- RETURN_MESSAGE_RX (R261): Returned rows are placed at their assignment slots and marked RETURNED. -/
  | returnMessageRx (cid : Fin 16384)
  /-- RETURN_ROUND_DEADLINE (R261): DEADLINE ticks after ASG_SIG, the return closes, posts RET_SIG and counts missing entries dropped. -/
  | returnRoundDeadline (p : PartId) (n : Fin 16) (b : Fin 2)
  /-- NEAR_MEMORY_ADD (R238): A near-memory reduction unit applies an atomic read-modify-write addition to one line at the stack. -/
  | nearMemoryAdd (p : PartId) (core : CoreId) (pva : DWord) (anchor : Int) (srcs : List (Fin 32 × BitVec 128))
  /-- MERE_REQUEST (R293): A translated line request is served by the owning Mere slice under its hint or passed to the stack controller. -/
  | mereRequest (p : PartId) (core : Option CoreId) (engine : Fin 10) (pva : DWord) (hint : Fin 4) (data : List Byte) (early : Bool) (waited : Word) (errs : List BurstErr)
  /-- LOCATE_FAILING_DIES (R284): After poisoning a line the controller writes test patterns to locate failing dies, remaps and re-poisons. -/
  | locateFailingDies (n : StackId) (dies : List (Fin 19))
  /-- REMAP_COPY_COMPLETE (R289): A row copy into a spare finishes and held requests to the row are served from the spare. -/
  | remapCopyComplete (n : StackId)
  /-- PATROL_SCRUB_READ (R285): The controller patrol-reads the next burst of its stack, correcting or poisoning it. -/
  | patrolScrubRead (n : StackId) (e : BurstErr)
  /-- SENSOR_READ (R598): Every 10 µs the module reads all temperature sensors and applies their offsets. -/
  | sensorRead (readings : List Int) (vin : BitVec 16) (iin : BitVec 16)
  /-- CRITICAL_TEMPERATURE_END (R601): After every die has read 5 °C below critical for 1 ms, THERM_N goes high and restore begins. -/
  | criticalTemperatureEnd
  /-- THERMAL_TRIP (R603): Ten consecutive trip readings record the trip, turn off rails and enter Off. -/
  | thermalTrip
  /-- KEEP_RELEASE (R298): Descriptor 0x2A unpins the partition's lines in a range. -/
  | keepRelease (d : Desc)
  /-- TRANSPOSE_COPY (R303): Descriptor 0x2B writes a transposed copy of a matrix through the transpose gatherers. -/
  | transposeCopy (d : Desc)
  /-- SET_MASK_WRITE (R274): A SET_MASK write defines a stack set, or zeroes it when it would share a stack. -/
  | setMaskWrite (q : HostPort) (i : Fin 32) (mask : BitVec 24)
  /-- EXTENT_WRITE (R42): An EXT_BASE or EXT_LEN write is checked for overlap, capacity and quota and clamped. -/
  | extentWrite (q : HostPort) (p : PartId) (i : Fin 16) (len : Bool) (v : Word)
  /-- RANGE_TABLE_EDIT (R40): A memory-and-tiers descriptor edits a range-table entry, rejected as a no-op when it breaks the checks. -/
  | rangeTableEdit (d : Desc) (i : Fin 1024) (entry : BitVec 128)
  /-- INV_READ (R312): Wrapper instruction 0x01 returns free spare rows per die, channel and bank. -/
  | invRead (n : StackId)
  /-- FUSE_READ (R312): Wrapper instruction 0x02 returns the hard-repaired rows of one die. -/
  | fuseRead (n : StackId) (die : Fin 19)
  /-- SPPR (R291): Wrapper instruction 0x03 soft-repairs one die row and adds it to the repair list. -/
  | sppr (n : StackId) (die : Fin 19) (chan : Fin 8) (bank : Fin 16) (row : BitVec 16)
  /-- HPPR (R292): Wrapper instruction 0x04 burns repair fuses for a row, verifies and removes it from the list. -/
  | hppr (n : StackId) (die : Fin 19) (chan : Fin 8) (bank : Fin 16) (row : BitVec 16) (verified : Bool)
  /-- MBIST (R313): Wrapper instruction 0x05 runs destructive self-test over a bank range and poisons it. -/
  | mbist (n : StackId) (lo : Fin 16) (hi : Fin 16) (failing : List (Fin 19 × Fin 8 × Fin 16 × BitVec 16))
  /-- LIST_READ (R312): Wrapper instruction 0x06 returns the stack's repair list and marks. -/
  | listRead (n : StackId)
  /-- BYPASS (R313): Wrapper instruction 0x3F, or any undefined code, selects the bypass register. -/
  | bypass (n : StackId) (code : Byte)
  /-- OBJECT_CREATE (R318): Descriptor 0x20 creates a building tier object in a free slot. -/
  | objectCreate (d : Desc)
  /-- OBJECT_WRITE (R319): Descriptor 0x21 writes bytes into a building object's backing copies. -/
  | objectWrite (d : Desc)
  /-- OBJECT_SEAL (R318): Descriptor 0x22 seals an object once its earlier writes complete. -/
  | objectSeal (d : Desc)
  /-- OBJECT_RETIRE (R320): Descriptor 0x23 moves an object to retiring and waits until it can be freed. -/
  | objectRetire (d : Desc)
  /-- OBJECT_FREE (R320): A retiring object with no references, reads or recent access is freed and its generation raised. -/
  | objectFree (p : PartId) (slot : Fin 4096)
  /-- OBJECT_QUERY (R319): Descriptor 0x24 writes an object image as it stands. -/
  | objectQuery (d : Desc)
  /-- TIER_COPY (R319): Descriptor 0x25 copies bytes of a sealed object into device memory. -/
  | tierCopy (d : Desc)
  /-- PROMOTION_LIST_REGISTER (R329): Descriptor 0x26 registers a promotion list for a plan. -/
  | promotionListRegister (d : Desc)
  /-- PROMOTION_LIST_RELEASE (R329): Descriptor 0x27 releases a promotion list when none of its work is in flight. -/
  | promotionListRelease (d : Desc)
  /-- LEND_REGISTER (R326): Descriptor 0x28 lends a region of device memory over a channel. -/
  | lendRegister (d : Desc)
  /-- LEND_RELEASE (R327): Descriptor 0x29 ends a lend once no message is in flight, dropping sealed extents. -/
  | lendRelease (d : Desc)
  /-- GRANULE_READ_COMPLETE (R322): A 4 KiB granule arrives from a lower tier, fills the granule buffer and serves waiting reads or copies. -/
  | granuleReadComplete (p : PartId) (h : Word) (g : Word) (data : List Byte)
  /-- GRANULE_READ_FAIL (R325): A granule read fails or times out and is retried on another copy or reported as failed. -/
  | granuleReadFail (p : PartId) (h : Word) (g : Word)
  /-- TIER_READ_REQUEST_RX (R326): A lender answers a read request for sealed lend bytes with data or a status. -/
  | tierReadRequestRx (cid : Fin 16384) (h : TierHdr)
  /-- TIER_READ_DATA_RX (R324): The borrower receives read data for a neighbour chunk. -/
  | tierReadDataRx (cid : Fin 16384) (h : TierHdr) (data : List Byte)
  /-- TIER_WRITE_RX (R326): A lender writes received bytes into its region, or reports a read-only violation. -/
  | tierWriteRx (cid : Fin 16384) (h : TierHdr) (data : List Byte)
  /-- TIER_SEAL_RX (R326): A lender seals an extent of the lend, up to 256. -/
  | tierSealRx (cid : Fin 16384) (h : TierHdr)
  /-- TIER_UNSEAL_RX (R326): A lender unseals an extent of the lend. -/
  | tierUnsealRx (cid : Fin 16384) (h : TierHdr)
  /-- TIER_STATUS_RX (R326): The requester receives a lender's status reply. -/
  | tierStatusRx (cid : Fin 16384) (h : TierHdr)
  /-- PROMOTION_COPY_COMPLETE (R330): A promotion's copy finishes, the shard is registered and SIG posted. -/
  | promotionCopyComplete (p : PartId) (plan : Byte) (i : Fin 4096)
  /-- DEMOTION_COMPLETE (R334): A demotion's write seals OBJ_ALT, exchanges the handles and releases the shard. -/
  | demotionComplete (p : PartId) (plan : Byte) (i : Fin 4096) (failed : Bool)
  /-- INTAKE (R337): Descriptor 0x70 converts, re-lays or decodes weights into device memory or a swap side. -/
  | intake (d : Desc)
  /-- INTAKE_COMPLETE (R340): An intake's last output line enters the write queue, or a fault stops it, and it completes with its status. -/
  | intakeComplete (hub : Fin 2)
  /-- SWAP_SET_REGISTER (R342): Descriptor 0x60 creates a swap set's read-only range-table entry on side 0. -/
  | swapSetRegister (d : Desc)
  /-- SWAP (R344): Descriptor 0x61 schedules a switch of a swap set at a named tick. -/
  | swap (d : Desc)
  /-- SWAP_SET_RELEASE (R342): Descriptor 0x62 removes a swap set once no swap is pending. -/
  | swapSetRelease (d : Desc)
  /-- SWAP_SWITCH (R345): At the first boundary at or after B where conditions hold, the swap set turns to its other side. -/
  | swapSwitch (p : PartId) (n : Fin 64)
  /-- NETWORK_LINK_UP (R349): A network port gains link after negotiation and training. -/
  | networkLinkUp (n : NetPort)
  /-- NETWORK_LINK_DOWN (R355): A port losing link discards its queued frames, emits a link event and goes down. -/
  | networkLinkDown (n : NetPort)
  /-- FRAME_RX (R361): A received frame is filtered and delivered by Table 10-3 or discarded and counted. -/
  | frameRx (n : NetPort) (f : FrameIn)
  /-- ARP_REQUEST_RX (R358): The port responder answers an ARP request for its address. -/
  | arpRequestRx (n : NetPort) (target : Word)
  /-- NEIGHBOR_SOLICITATION_RX (R358): The port responder answers an IPv6 Neighbor Solicitation. -/
  | neighborSolicitationRx (n : NetPort) (a : Solicit)
  /-- ECHO_REQUEST_RX (R361): With ECHO_EN set, an echo request is answered within the rate limit. -/
  | echoRequestRx (n : NetPort) (a : EchoAsk)
  /-- NEIGHBOUR_AGE_OUT (R358): A neighbour table entry ages out after 60 s. -/
  | neighbourAgeOut (n : NetPort) (ip : BitVec 128)
  /-- HELLO_SEND (R354): Every 1 s while link lasts the port sends a hello port-control frame. -/
  | helloSend (n : NetPort)
  /-- HELLO_RX (R354): A hello from an Ebquel partner sets PARTNER. -/
  | helloRx (n : NetPort) (vendor : BitVec 16)
  /-- PARTNER_TIMEOUT (R354): 3 s without a hello clears PARTNER. -/
  | partnerTimeout (n : NetPort)
  /-- WIDTH_REQUEST_RX (R369): A partner's width request is accepted or refused. -/
  | widthRequestRx (n : NetPort) (neww : Fin 9) (bound : DWord) (seq : Word)
  /-- WIDTH_ACCEPT_RX (R369): A width accept schedules the change at BOUND. -/
  | widthAcceptRx (n : NetPort)
  /-- WIDTH_REFUSE_RX (R369): A width refuse leaves the width unchanged with a port width event. -/
  | widthRefuseRx (n : NetPort)
  /-- WIDTH_REPLY_TIMEOUT (R369): No reply within 1 tick leaves the width unchanged. -/
  | widthReplyTimeout (n : NetPort)
  /-- WIDTH_CHANGE (R370): At boundary BOUND both ends hold queues and bring lanes up or idle them. -/
  | widthChange (n : NetPort)
  /-- PCS_RELOCK_COMPLETE (R370): The PCS relocks at the new width and queues resume. -/
  | pcsRelockComplete (n : NetPort)
  /-- RELOCK_TIMEOUT (R370): A relock not done in 100 µs retrains at full width with a relock failed event. -/
  | relockTimeout (n : NetPort)
  /-- PORT_PARK (R373): Once drained and quiet for 2 ticks, a port's lanes idle, PARKED is set and an event emitted. -/
  | portPark (n : NetPort)
  /-- PORT_TEST_FRAME_RX (R629): Firmware echoes a received port test frame as KIND 0x07. -/
  | portTestFrameRx (n : NetPort) (len : BitVec 16) (seq : Word)
  /-- PORT_TEST_ECHO_RX (R629): An echo of a test frame is counted with its round trip. -/
  | portTestEchoRx (n : NetPort) (seq : Word) (bad : Bool) (rtt : Word)
  /-- CHANNEL_OPEN (R382): Descriptor 0x30 starts a pending channel open. -/
  | channelOpen (d : Desc)
  /-- CHANNEL_CLOSE (R388): Descriptor 0x31 closes a channel, ending sends and returning buffers. -/
  | channelClose (d : Desc)
  /-- BUFFER_POST (R393): Descriptor 0x32 posts a receive buffer on a channel. -/
  | bufferPost (d : Desc)
  /-- BUFFER_REVOKE (R397): Descriptor 0x33 revokes a posted buffer. -/
  | bufferRevoke (d : Desc)
  /-- SEND (R390): Descriptor 0x34 sends a message as packets. -/
  | send (d : Desc)
  /-- CHANNEL_QUERY (R382): Descriptor 0x35 writes the channel record. -/
  | channelQuery (d : Desc)
  /-- OPEN_RESEND (R383): Every 1 ms a pending open resends OPEN. -/
  | openResend (cid : Fin 16384)
  /-- OPEN_TIMEOUT (R384): A pending open unmatched within OPEN_TMO completes with status 0x02. -/
  | openTimeout (cid : Fin 16384)
  /-- OPEN_RX (R383): A received OPEN is matched against pending opens and answered with OPEN_ACK. -/
  | openRx (o : GnxOpen)
  /-- OPEN_ACK_RX (R383): An OPEN_ACK establishes the channel once both sides have acknowledged. -/
  | openAckRx (h : GnxHdr) (nonce : BitVec 128) (peerNonce : BitVec 128)
  /-- DATA_RX (R394): A DATA packet is checked, bound to a buffer and placed. -/
  | dataRx (h : GnxHdr) (payload : List Byte)
  /-- ACK_RX (R400): An ACK updates SRTT, judges losses and completes acknowledged sends. -/
  | ackRx (h : GnxHdr) (b : GnxAck) (now : Word)
  /-- CREDIT_RX (R403): A CREDIT raises the sender's grant if higher. -/
  | creditRx (h : GnxHdr) (b : GnxCredit)
  /-- CLOSE_RX (R388): A received CLOSE closes the local end and emits a channel event. -/
  | closeRx (m : CloseIn)
  /-- ADDR_RX (R386): An ADDR withdrawal or restoration recomputes the remote address list. -/
  | addrRx (h : GnxHdr) (addr : BitVec 128) (withdrawn : Bool)
  /-- VIOL_RX (R408): A VIOL is answered with VIOL_ACK and the sender's action taken. -/
  | violRx (h : GnxHdr) (code : Byte) (msn : BitVec 24) (ofs : Word)
  /-- VIOL_ACK_RX (R407): A VIOL_ACK stops repetition of the VIOL. -/
  | violAckRx (h : GnxHdr) (psn : Word)
  /-- NAK_RX (R393): A not-ready NAK schedules a resend after one tick and counts RNR. -/
  | nakRx (h : GnxHdr) (msn : BitVec 24) (ofs : Word)
  /-- NAK_RESEND (R393): One tick after a NAK the sender resends the refused range. -/
  | nakResend (cid : Fin 16384)
  /-- RETRANSMIT_TIMEOUT (R400): RTO passes for a packet, which is resent, or the channel fails after RETRY_MAX. -/
  | retransmitTimeout (cid : Fin 16384) (psn : Word)
  /-- NO_PATH_TIMEOUT (R387): A channel with no path for OPEN_TMO fails with status 0x06. -/
  | noPathTimeout (cid : Fin 16384)
  /-- CLOSE_TIMEOUT (R388): 16 ticks after a close, CLOSE stops being resent. -/
  | closeTimeout (cid : Fin 16384)
  /-- SLOT_GRANT_EXPIRY (R405): At boundary k+1 unused slot credits of tick k are added to EXPIRED_CUM. -/
  | slotGrantExpiry (cid : Fin 16384)
  /-- GROUP_REGISTER (R412): Descriptor 0x40 registers a collective group and posts pool buffers. -/
  | groupRegister (d : Desc)
  /-- GROUP_RELEASE (R413): Descriptor 0x41 releases a group and returns its buffers. -/
  | groupRelease (d : Desc)
  /-- SHEAF_REGISTER (R425): Descriptor 0x42 registers a sheaf. -/
  | sheafRegister (d : Desc)
  /-- SHEAF_RELEASE (R438): Descriptor 0x43 releases a sheaf, entering held contributions as chaff. -/
  | sheafRelease (d : Desc)
  /-- COLLECTIVE_LIST_REGISTER (R416): Descriptor 0x44 registers a plan's collective list. -/
  | collectiveListRegister (d : Desc)
  /-- COLLECTIVE_LIST_RELEASE (R416): Descriptor 0x45 releases a collective list. -/
  | collectiveListRelease (d : Desc)
  /-- ACTIVATION_LEDGER_REGISTER (R443): Descriptor 0x46 registers an activation ledger. -/
  | activationLedgerRegister (d : Desc)
  /-- ACTIVATION_LEDGER_RELEASE (R443): Descriptor 0x47 releases an activation ledger. -/
  | activationLedgerRelease (d : Desc)
  /-- PERMUTE (R439): Descriptor 0x48 starts re-sharding a tensor by leaf moves. -/
  | permute (d : Desc)
  /-- CHAFF_LEDGER_SET (R438): Descriptor 0x49 sets the chaff ledger ring. -/
  | chaffLedgerSet (d : Desc)
  /-- FILLER_LIST_POST (R445): Descriptor 0x4A posts a filler list for a host partition. -/
  | fillerListPost (d : Desc)
  /-- FILLER_LIST_WITHDRAW (R450): Descriptor 0x4B withdraws a filler list's pending grains. -/
  | fillerListWithdraw (d : Desc)
  /-- COLLECTIVE_ENTRY_BEGIN (R417): A list entry begins at START_TIDX once its signal wait is met. -/
  | collectiveEntryBegin (p : PartId) (idx : Fin 1024)
  /-- COLLECTIVE_ENTRY_DEADLINE (R418): An entry not complete by DL_TIDX plus SH_GRACE fails with a collective fault. -/
  | collectiveEntryDeadline (p : PartId) (idx : Fin 1024)
  /-- CONTRIBUTION_RX (R427): A sheaf contribution message is held or discarded by its step. -/
  | contributionRx (cid : Fin 16384)
  /-- GATHER_PIECE_RX (R419): An all-gather piece is placed and forwarded within the node. -/
  | gatherPieceRx (cid : Fin 16384)
  /-- BROADCAST_PIECE_RX (R423): A broadcast piece is placed and forwarded within the node. -/
  | broadcastPieceRx (cid : Fin 16384)
  /-- ALL_TO_ALL_BLOCK_RX (R424): An all-to-all block is placed at its source's offset. -/
  | allToAllBlockRx (cid : Fin 16384)
  /-- PRESENCE_MAP_RX (R429): A replica's presence map is taken into the record. -/
  | presenceMapRx (cid : Fin 16384)
  /-- SHEAF_CLOSE (R427): At T_c the sheaf closes and the presence map is sent. -/
  | sheafClose (p : PartId) (n : Fin 1024)
  /-- MAPS_AWAITED_TIMEOUT (R429): Maps awaited past REC_TMO emit a sheaf event once. -/
  | mapsAwaitedTimeout (p : PartId) (n : Fin 1024)
  /-- SHEAF_RECORD_FINAL (R430): With every map in and the bank free, the CRUs start the gleaning merge. -/
  | sheafRecordFinal (p : PartId) (n : Fin 1024)
  /-- SHEAF_MERGE_COMPLETE (R431): The CRUs finish writing G, C and the record, then post POST_SIG. -/
  | sheafMergeComplete (p : PartId) (n : Fin 1024)
  /-- P2P_RING_SLOT_RX (R421): A receiver takes a peer-to-peer ring slot in SEQ order and writes its acknowledgement word. -/
  | p2pRingSlotRx (p : PartId) (g : Fin 16) (k : Fin 64)
  /-- P2P_STALL_TIMEOUT (R508): A stalled peer-to-peer ring falls back to Gnoxel for the member. -/
  | p2pStallTimeout (p : PartId) (g : Fin 16) (rank : Fin 64)
  /-- PERMUTE_LEAF_RX (R441): A permute leaf is placed, digested and answered VERIFIED or MISMATCH. -/
  | permuteLeafRx (cid : Fin 16384)
  /-- PERMUTE_CONTROL_RX (R440): A READY, VERIFIED, MISMATCH or DONE message advances the permute. -/
  | permuteControlRx (cid : Fin 16384)
  /-- JOB_REGISTER (R454): Descriptor 0x50 registers the partition's job. -/
  | jobRegister (d : Desc)
  /-- JOB_LEAVE (R459): Descriptor 0x51 leaves the job. -/
  | jobLeave (d : Desc)
  /-- CHECKPOINT_SET (R485): Descriptor 0x52 sets the checkpoint buddies. -/
  | checkpointSet (d : Desc)
  /-- CURSOR_WRITE (R483): Descriptor 0x53 copies the runtime cursor for the next checkpoint. -/
  | cursorWrite (d : Desc)
  /-- CHECKPOINT_TAKE (R486): Descriptor 0x54 requests a checkpoint at the next digest commit. -/
  | checkpointTake (d : Desc)
  /-- STEP_REPLAY (R471): Descriptor 0x55 reruns a failed step's updates and seeks commit. -/
  | stepReplay (d : Desc)
  /-- ROLLBACK (R492): Descriptor 0x56 rolls the partition back to a checkpoint. -/
  | rollback (d : Desc)
  /-- MEMBER_RESTORE (R491): Descriptor 0x57 restores a rank's shards from a checkpoint slot. -/
  | memberRestore (d : Desc)
  /-- RENEW_SEND (R457): Every LEASE_TICKS/16 ticks an active member sends RENEW. -/
  | renewSend (p : PartId)
  /-- RENEW_RX (R457): A RENEW records its sender heard. -/
  | renewRx (p : PartId) (h : ClHdr) (state : Fin 4) (commit : DWord) (ckjob : DWord) (heard : DWord)
  /-- LEASE_EXPIRY (R458): A member that no longer hears a quorum loses its lease and enters hold. -/
  | leaseExpiry (p : PartId)
  /-- CANDIDATE_TIMEOUT (R459): A member hearing nothing from some members becomes a candidate and may propose. -/
  | candidateTimeout (p : PartId)
  /-- PROPOSE_RX (R459): A PROPOSE is accepted or ignored. -/
  | proposeRx (p : PartId) (h : ClHdr) (e : DWord) (mask : DWord) (proposer : Fin 64)
  /-- ACCEPT_RX (R459): An ACCEPT is recorded toward forming the new epoch. -/
  | acceptRx (p : PartId) (h : ClHdr) (e : DWord) (mask : DWord) (proposer : Fin 64) (st : ClStated)
  /-- ROOTS_RX (R467): A replica's root is compared with the local root. -/
  | rootsRx (p : PartId) (h : ClHdr) (i : Fin 4096) (tensor : Word) (root : BitVec 512)
  /-- READY_RX (R464): A READY is recorded and the step committed when every member is ready. -/
  | readyRx (p : PartId) (h : ClHdr)
  /-- NOTREADY_RX (R466): A NOTREADY ends the step with an error completion. -/
  | notreadyRx (p : PartId) (h : ClHdr) (cause : Byte)
  /-- TREE_RX (R468): A TREE message continues the bisection of differing digest trees. -/
  | treeRx (p : PartId) (h : ClHdr) (i : Fin 4096) (level : Byte) (first : Word) (digs : List (BitVec 512)) (evidence : Word)
  /-- CKDONE_RX (R488): A CKDONE is recorded and the checkpoint becomes job-complete when all arrive. -/
  | ckdoneRx (p : PartId) (h : ClHdr)
  /-- PAUSE_RX (R493): A PAUSE stops new steps for a member's firmware activation. -/
  | pauseRx (p : PartId) (h : ClHdr) (answer : Bool)
  /-- JOIN_RX (R461): A JOIN leads to a new epoch with the sender as spare or active member. -/
  | joinRx (p : PartId) (h : ClHdr) (active : Bool) (st : ClStated)
  /-- ACTIVATION_ALLOWANCE_TIMEOUT (R494): A member not rejoined within UPD_TICKS is treated as missing. -/
  | activationAllowanceTimeout (p : PartId) (r : Fin 64)
  /-- CORE_UNCORRECTABLE_ERROR (R472): An uncorrectable error in a core's Tarn or stores fences the core. -/
  | coreUncorrectableError (c : Fin 288)
  /-- CORE_REBUILD_COMPLETE (R477): A rebuild of a core finishes and a grain replay event is emitted. -/
  | coreRebuildComplete (c : Fin 288) (times : List (Word × Word))
  /-- REFETCH_COMPLETE (R482): A shared-weight refetch completes or fails and emits a shared weight event. -/
  | refetchComplete (r : Fin 4) (g : Word) (failed : Bool)
  /-- PCIE_LINK_UP (R497): A host port link trains up. -/
  | pcieLinkUp (q : HostPort) (gen : Fin 5) (width : Fin 3) (cxl : Bool) (cache : Bool)
  /-- PCIE_LINK_DOWN (R530): A host port loses link and detaches. -/
  | pcieLinkDown (q : HostPort)
  /-- PERST_ASSERT (R530): HPn_PERST_N asserted resets the host domain of the port. -/
  | perstAssert (q : HostPort)
  /-- PERST_RELEASE (R624): HPn_PERST_N released; the port trains, answering with CRS before host release. -/
  | perstRelease (q : HostPort)
  /-- HOT_RESET (R530): A hot reset resets the port's host domain and detaches. -/
  | hotReset (q : HostPort)
  /-- LINK_DISABLE (R530): Link disable detaches the port. -/
  | linkDisable (q : HostPort)
  /-- FUNCTION_LEVEL_RESET (R530): A Function Level Reset detaches the port. -/
  | functionLevelReset (q : HostPort)
  /-- D3HOT_ENTRY (R530): Entry to D3hot detaches the port. -/
  | d3hotEntry (q : HostPort)
  /-- AER_UNCORRECTABLE_ERROR (R538): AER reports an uncorrectable error with a host port event. -/
  | aerUncorrectableError (q : HostPort)
  /-- CONFIGURATION_REQUEST (R624): A configuration request before host release is answered with Retry Status. -/
  | configurationRequest (q : HostPort)
  /-- ATTACH (R529): A write of ATTACH agrees a host-interface version and sets ATTACHED. -/
  | attach (q : HostPort)
  /-- DETACH (R530): A write of DETACH unbinds, destroys ring pairs and clears ATTACHED. -/
  | detach (q : HostPort)
  /-- DOORBELL_POLL_ROUND (R516): A poll round reads control blocks, consumes descriptors and drains the backlog. -/
  | doorbellPollRound (q : HostPort) (reads : List RingRead)
  /-- CXL_SNOOP (R516): A snoop of a watched line leads to a re-read within 1 µs. -/
  | cxlSnoop (q : HostPort)
  /-- MSIX_COALESCE_TIMEOUT (R526): COAL_US after the first uncovered record, the MSI-X message is sent. -/
  | msixCoalesceTimeout (p : PartId) (ring : Fin 65)
  /-- UNDEFINED_OPCODE (R519): A descriptor with undefined opcode or version completes as a reported no-op. -/
  | undefinedOpcode (opcode : Byte) (d : Desc)
  /-- RING_PAIR_CREATE (R517): Descriptor 0x19 creates a ring pair. -/
  | ringPairCreate (d : Desc)
  /-- RING_PAIR_DESTROY (R518): Descriptor 0x1A destroys a ring pair once its work completes. -/
  | ringPairDestroy (d : Desc)
  /-- REGION_REGISTER (R502): Descriptor 0x2C places a registered region in BAR2. -/
  | regionRegister (d : Desc)
  /-- REGION_RELEASE (R506): Descriptor 0x2D releases a region when no access is in flight. -/
  | regionRelease (d : Desc)
  /-- BAR2_READ (R503): A host read through BAR2 is translated and served, or misses. -/
  | bar2Read (q : HostPort) (ofs : DWord) (len : BitVec 12)
  /-- BAR2_WRITE (R503): A host write through BAR2 is translated and applied in order, or discarded. -/
  | bar2Write (q : HostPort) (ofs : DWord) (data : List Byte)
  /-- BAR2_RESIZE (R504): A Resizable BAR change releases regions that no longer fit. -/
  | bar2Resize (q : HostPort) (log : Fin 7)
  /-- RING0_BIND (R532): AQ_EN set binds ring pair 0 and zeroes its module counts. -/
  | ring0Bind (q : HostPort) (p : PartId)
  /-- RING0_UNBIND (R532): AQ_EN cleared unbinds ring pair 0. -/
  | ring0Unbind (q : HostPort) (p : PartId)
  /-- EVENT_RING_BIND (R531): EQ_EN set binds the event ring and writes backlog records first. -/
  | eventRingBind (q : HostPort) (p : PartId)
  /-- EVENT_RING_UNBIND (R532): EQ_EN cleared unbinds the event ring. -/
  | eventRingUnbind (q : HostPort) (p : PartId)
  /-- MODULE_RING_BIND (R531): MQ_EN set binds a port's module event ring. -/
  | moduleRingBind (q : HostPort)
  /-- MODULE_RING_UNBIND (R532): MQ_EN cleared unbinds a port's module event ring. -/
  | moduleRingUnbind (q : HostPort)
  /-- MSEAL_WRITE (R533): A write of MSEAL starts a module seal change. -/
  | msealWrite (q : HostPort)
  /-- PSEAL_WRITE (R533): A write of a partition seal bit starts a partition seal change. -/
  | psealWrite (q : HostPort) (p : PartId)
  /-- SEAL_CHANGE_END (R535): A seal change ends, the seal counts as set and a seal event is emitted. -/
  | sealChangeEnd (c : Option PartId)
  /-- SESSION_OPEN (R571): A TLS session opens on the management port, or is refused. -/
  | sessionOpen (cred : Option (BitVec 512)) (ok : Bool)
  /-- CREATE_PARTITION (R540): Management function 0x01 creates a partition. -/
  | createPartition (sess : Fin 4) (part : Byte) (cgroups : BitVec 36) (conf : Bool) (q : HostPort) (quota : BitVec 16) (shared : Byte)
  /-- TEAR_DOWN_PARTITION (R557): Management function 0x02 starts a partition teardown. -/
  | tearDownPartition (sess : Fin 4) (part : Byte)
  /-- TEARDOWN_STEP_END (R557): At the boundary after the last grain, teardown ends steps, closes and releases resources and rings. -/
  | teardownStepEnd (p : PartId)
  /-- TEARDOWN_SCRUB_COMPLETE (R563): The scrub finishes, keys are zeroed and the signed scrub record issued. -/
  | teardownScrubComplete (p : PartId)
  /-- LOAD_KEY (R547): Management function 0x03 loads a key slot. -/
  | loadKey (sess : Fin 4) (part : Byte) (slot : Byte) (form : Fin 3) (key : BitVec 512) (good : Bool)
  /-- SHARED_REGION_CREATE (R564): Management function 0x04 creates a shared weight region and fills it. -/
  | sharedRegionCreate (sess : Fin 4) (r : Byte) (base : BitVec 18) (len : BitVec 12) (owner : PartId) (handle : Word)
  /-- SHARED_REGION_GRANT (R565): Management function 0x04 grants a shared region as a shared extent. -/
  | sharedRegionGrant (sess : Fin 4) (r : Byte) (part : Byte)
  /-- SHARED_REGION_REVOKE (R565): Management function 0x04 revokes a partition's grant of a region. -/
  | sharedRegionRevoke (sess : Fin 4) (r : Byte) (part : Byte)
  /-- SHARED_REGION_REMOVE (R565): Management function 0x04 removes a region no partition holds. -/
  | sharedRegionRemove (sess : Fin 4) (r : Byte)
  /-- FIRMWARE_LOAD (R567): Management function 0x05 loads firmware into the inactive image. -/
  | firmwareLoad (sess : Fin 4) (image : FwBlob)
  /-- FIRMWARE_ACTIVATE (R493): Management function 0x06 activates new firmware by warm reset, pausing the job if any. -/
  | firmwareActivate (sess : Fin 4)
  /-- COMMIT_SVN (R568): Management function 0x07 burns SVN fuses up to the running image's SVN. -/
  | commitSvn (sess : Fin 4)
  /-- CALIBRATION_WRITE (R607): Management function 0x08 writes calibration items and clears CAL_FACT. -/
  | calibrationWrite (sess : Fin 4) (items : List CalItem)
  /-- RESERVE_CORE_POLICY (R26): Management function 0x09 sets the reserve-core policy. -/
  | reserveCorePolicy (sess : Fin 4) (mode : Fin 4)
  /-- FENCE_CORE (R472): Management function 0x0A fences a core. -/
  | fenceCore (sess : Fin 4) (c : CoreId)
  /-- ASSIGN_RESERVE_SITE (R574): Management function 0x0A assigns a reserve site in manual mode. -/
  | assignReserveSite (sess : Fin 4) (c : CoreId) (site : SiteId)
  /-- SET_UP_PORT_SETTINGS (R573): Management function 0x0B sets set-up port, CXL offer, MAC addresses and MAINT_VID for next cold reset. -/
  | setUpPortSettings (sess : Fin 4) (x : PortSetup)
  /-- ATTESTATION_REPORT (R570): Management function 0x0C returns a signed attestation report. -/
  | attestationReport (sess : Fin 4) (nonce : BitVec 512) (part : Option PartId)
  /-- TELEMETRY_READ (R577): Management function 0x0D returns a kept telemetry record or the calibration set. -/
  | telemetryRead (sess : Fin 4) (x : TelSel)
  /-- TELEMETRY_SUBSCRIBE (R577): Management function 0x0D subscribes a session to telemetry records. -/
  | telemetrySubscribe (sess : Fin 4)
  /-- GRAIN_TRACE (R555): Management function 0x0D runs a grain trace, refused for confidential partitions. -/
  | grainTrace (sess : Fin 4) (part : Byte) (on : Bool)
  /-- ADDRESS_SAMPLING (R555): Management function 0x0D runs address sampling, refused for confidential partitions. -/
  | addressSampling (sess : Fin 4) (part : Byte) (n : Word)
  /-- DEBUG_WINDOW_OPEN (R556): Management function 0x0E opens a debug window. -/
  | debugWindowOpen (sess : Fin 4) (minutes : BitVec 16)
  /-- DEBUG_WINDOW_CLOSE (R556): Management function 0x0E closes a debug window. -/
  | debugWindowClose (sess : Fin 4)
  /-- DEBUG_WINDOW_EXPIRY (R556): A debug window closes when its minutes run out. -/
  | debugWindowExpiry
  /-- ENROL_CREDENTIAL (R572): Management function 0x0F enrols an operator credential and extends MR5. -/
  | enrolCredential (sess : Fin 4) (digest : BitVec 512)
  /-- REMOVE_CREDENTIAL (R572): Management function 0x0F removes a credential if one remains. -/
  | removeCredential (sess : Fin 4) (idx : Fin 8)
  /-- SUPPLY_FLAG_CLEAR (R585): Management function 0x10 clears SUP_UNST and the dip history. -/
  | supplyFlagClear (sess : Fin 4)
  /-- MODULE_RESET (R614): Management function 0x11 raises a warm or cold software reset. -/
  | moduleReset (sess : Fin 4) (cold : Bool)
  /-- PORT_TEST (R629): Management function 0x12 requests a port test under the arbiter. -/
  | portTest (sess : Fin 4) (n : NetPort) (len : Option (BitVec 16)) (rate : Option Byte) (secs : Option (BitVec 16)) (dest : Option (BitVec 48))
  /-- LANE_MARGINING (R630): Management function 0x13 requests lane margining of a host port under the arbiter. -/
  | laneMargining (sess : Fin 4) (q : HostPort) (secs : Option (BitVec 16))
  /-- MAINTENANCE_GRANT (R632): The arbiter starts a queued activity once it is compatible and not overtaking. -/
  | maintenanceGrant (access : Option StackId)
  /-- MAINTENANCE_END (R631): A maintenance activity ends and the arbiter reports it. -/
  | maintenanceEnd (which : MaintEnd)
  /-- PORT_TEST_END (R629): A port test's duration ends and its results are returned. -/
  | portTestEnd (n : NetPort)
  /-- LANE_MARGINING_END (R630): Lane margining's duration ends, Margining Ready clears and results return. -/
  | laneMarginingEnd (q : HostPort) (lanes : List (Byte × Byte))
  /-- TELEMETRY_RECORD (R576): Once per second the management controller composes a telemetry record. -/
  | telemetryRecord (occ : List (BitVec 16))
  /-- SUPPLY_WARNING (R581): Four low samples latch the supply warning, drop limits to 8 and count a dip. -/
  | supplyWarning (vin : BitVec 16)
  /-- SUPPLY_WARNING_CLEAR (R583): After 1 ms above the release threshold the warning clears and restore begins. -/
  | supplyWarningClear (vin : BitVec 16)
  /-- BROWN_OUT (R586): Four samples below VRST_TH raise the brown-out reset source. -/
  | brownOut (vin : BitVec 16)
  /-- BROWN_OUT_RELEASE (R586): After 10 ms above the release threshold the brown-out source is released. -/
  | brownOutRelease (vin : BitVec 16)
  /-- CAP_COMPUTE (R593): Before each boundary the cap controller computes each core's limit for the next interval. -/
  | capCompute
  /-- POWER_EXCURSION (R591): 10 µs power above 1,600 W forces every limit to 8 until the next boundary. -/
  | powerExcursion (pin : BitVec 16)
  /-- IDLE_ENTRY (R609): After IDLE_TICKS ticks without work the module enters Idle. -/
  | idleEntry
  /-- STILL_ENTRY (R610): After STILL_TICKS in Idle with STILL_EN set the module enters Still. -/
  | stillEntry
  /-- POWER_ON (R614): The input stays above 45.0 V for 10 ms after power loss and a cold reset begins. -/
  | powerOn
  /-- INPUT_LOSS (R611): The input falls below 30.0 V and the module loses power. -/
  | inputLoss
  /-- BULK_CHARGED (R642): The input switch finishes charging the bulk capacitance. -/
  | bulkCharged
  /-- INPUT_SWITCH_OPEN (R643): Overcurrent opens the input switch, recorded as loss of input. -/
  | inputSwitchOpen (cause : Fin 2) (peak : BitVec 16)
  /-- RAIL_OUT_OF_REGULATION (R644): A rail leaving regulation drives MOD_PWRGD low. -/
  | railOutOfRegulation (out : Bool)
  /-- MOD_RESET_ASSERT (R614): MOD_RESET_N low for 1 µs raises a warm reset. -/
  | modResetAssert (low : Bool)
  /-- MOD_RESET_COLD (R614): MOD_RESET_N still low 100 ms after falling makes the reset cold. -/
  | modResetCold
  /-- WATCHDOG_EXPIRY (R614): The management watchdog not serviced for 2,000 ms raises a warm reset. -/
  | watchdogExpiry
  /-- SWRST_WRITE (R635): A write of 0xD1 to SWRST raises a warm reset; other values are ignored with a clamp record. -/
  | swrstWrite (q : HostPort) (v : Byte)
  /-- DBGRST (R614): The TAP instruction DBGRST in an open debug window raises a warm reset. -/
  | dbgrst
  /-- CLOCK_FAILURE (R614): A reference or PLL off frequency for 10 µs raises a warm reset. -/
  | clockFailure
  /-- LOCK_UP (R617): LOCK_TICKS ticks without progress during a step raise the lock-up reset. -/
  | lockUp
  /-- MEMORY_DOMAIN_ASSERT (R618): Once write-back ends and stacks are in self-refresh, the memory domain is asserted. -/
  | memoryDomainAssert
  /-- SELF_REFRESH_TIMEOUT (R616): A stack not in self-refresh 100 µs after assertion escalates the reset to cold. -/
  | selfRefreshTimeout
  /-- RESET_RELEASE (R619): After at least 100 µs of assertion the domains begin release in order. -/
  | resetRelease
  /-- DOMAIN_RELEASE (R619): A domain reports ready and the next domain is released. -/
  | domainRelease (us : Word)
  /-- CORE_RESET (R626): A CORE_RST bit resets one logical core. -/
  | coreReset (q : HostPort) (c : CoreId)
  /-- FABRIC_STOP_RESET (R627): A FAB_RST bit resets a die fabric stop, or is refused. -/
  | fabricStopReset (q : HostPort) (i : Fin 12)
  /-- MEMORY_CONTROLLER_RESET (R627): A MEMC_RST bit resets a stack controller after any repair access. -/
  | memoryControllerReset (q : HostPort) (n : StackId)
  /-- NETWORK_PORT_RESET (R626): An ENG_RST bit resets a network port as a link loss. -/
  | networkPortReset (q : HostPort) (n : NetPort)
  /-- HOST_PORT_RESET (R626): An ENG_RST bit resets a host port with detach. -/
  | hostPortReset (q : HostPort) (n : HostPort)
  /-- INTAKE_ENGINE_RESET (R626): An ENG_RST bit resets an intake engine after draining. -/
  | intakeEngineReset (q : HostPort) (hub : Fin 2)
  /-- DISPATCH_ENGINE_RESET (R626): An ENG_RST bit resets a dispatch network side, closing open rounds. -/
  | dispatchEngineReset (q : HostPort) (hub : Fin 2)
  /-- TIER_ENGINE_RESET (R626): An ENG_RST bit resets a tier engine after draining. -/
  | tierEngineReset (q : HostPort) (hub : Fin 2)
  /-- CHECKPOINT_ENGINE_RESET (R626): An ENG_RST bit resets a checkpoint engine, failing a checkpoint in progress. -/
  | checkpointEngineReset (q : HostPort) (hub : Fin 2)
  /-- SHA3_ENGINE_RESET (R626): An ENG_RST bit resets a SHA3 engine; the other does every tree. -/
  | sha3EngineReset (q : HostPort) (hub : Fin 2)
  /-- TIME_UNIT_RESET (R626): An ENG_RST bit resets a PTP time unit; the other takes over. -/
  | timeUnitReset (q : HostPort) (hub : Fin 2)
  /-- ENGINE_DRAIN_END (R626): After 1 ms of drain, consumed descriptors of the reset engine end with 0xE2. -/
  | engineDrainEnd (b : Fin 22)
  /-- BLOCK_RESET_RELEASE (R625): A block reset is released, the block resumes from cumulative counts and an event is emitted. -/
  | blockResetRelease (block : Fin 12) (index : Fin 288) (us : Word)
  /-- REGISTER_READ (R553): A BAR0 read within one register returns its value, latches the high half of a 64-bit counter when it reads the low half, and returns zero for a confidential partition's window read through the other port. -/
  | registerRead (q : HostPort) (addr : BitVec 28) (len : Fin 5)
  /-- MANAGEMENT_SESSION_CLOSE (R577): A management TLS session closes, ending its telemetry subscription and freeing one of the four session places. -/
  | managementSessionClose (sess : Fin 4)
  /-- MSIX_VECTOR_UNMASK (R526): A host write to the MSI-X table or function mask in BAR4 unmasks a vector, and the module sends the message held pending for it. -/
  | msixVectorUnmask (q : HostPort) (v : Option (Fin 2048)) (masked : Bool)
  /-- DEVICE_MEMORY_ZEROED (R623): The cold-start zeroing of every line of device memory completes; scrub records are issued for interrupted teardowns, HPn_BUSY_N goes high and the first telemetry record is sent. -/
  | deviceMemoryZeroed
  /-- WARM_RESET_SCRUB_COMPLETE (R561): The scrub of a confidential partition that began at a warm reset finishes, and the partition, back in created with its keys kept, receives a signed scrub record with CAUSE warm reset. -/
  | warmResetScrubComplete (p : PartId)
  deriving DecidableEq, Repr

end Sys2Proof
end

