-- ==== Sys2Proof/Config.lean ====
section
/-! DEFINITION. The free values: what the spec leaves open and the machine still produces. Each is a constant with no
body, so no proof can see its value; the functions take the number of the draw (State.freeCtr) or the operands the
value depends on. Every one is named in notes/assumptions/2.md. -/
namespace Sys2Proof.Config

/-- Which unpinned way of a full Mere set the pseudo-LRU replaces: the spec names the policy and no algorithm (R297). -/
opaque mereVictim : Nat → Nat

/-- Whether an error pattern beyond Table 8-3 is noticed at all (R279: the code makes no promise). -/
opaque beyondDetected : Nat → Bool

/-- The byte an undetected pattern beyond Table 8-3 returns, by draw and byte of the burst (R279). -/
opaque beyondByte : Nat → Nat → Byte

/-- Which spare row of a die's bank a repair takes: the spec says a free one (R288). -/
opaque spareRow : Nat → Nat

/-- The element bits of an MX block whose scale is 0xFF, by format code and place: R94 and R97 give the scale and say
nothing of the bits under it. -/
opaque mxNanElem : Nat → Nat → Nat

/-- How far an elementary function's result lies from the correctly rounded one, by function and operand bits: the spec
bounds it at 2 units in the last place and names no algorithm (R179, R202). Taken modulo 5, less 2. -/
opaque elemOffset : Nat → Nat → Int

/-- The 16-byte nonce of a channel open; the spec gives no value (R383). -/
opaque openNonce : Nat → BitVec 128

/-- Nanoseconds since the last boundary or whole second, by draw: the model has no clock between them (R365, R367, Table 11-2). -/
opaque lapse : Nat → BitVec 32

/-- The second of an edge of TICK_PPS_IN, which the management controller gives, and how far in ns (signed) the unit's own whole second
lay from it, by draw (R60). -/
opaque timeOfDay : Nat → BitVec 48
opaque edgeOffset : Nat → BitVec 32

/-- The Gnoxel header and the source UDP port of a frame of firmware's own channel, by draw: the spec gives that channel no CID, key or
sequence (R455). -/
opaque firmwareHead : Nat → BitVec 256
opaque firmwarePort : Nat → BitVec 16

/-- The byte at place i of a granule that a first partial write of a neighbour object leaves unwritten, by draw (R321): the granule is
encrypted whole and the spec says nothing of the bytes around. -/
opaque buildByte : Nat → Nat → Byte

/-- The module's serial number, as its management controller reports it (Table 13-2): each module has its own. -/
opaque serialNumber : BitVec 64

/-- Which of the two opcodes of the memory-and-tiers family that no table takes a range-table edit has: 01_organization.md puts the
edit into the family (0x20 to 0x2F, R16), and Tables 8-5, 9-1, 9-7 and 14-9 list 0x20 to 0x2D and none of them is its (R40). -/
opaque rangeEditLast : Bool

/-- The opcode of a range-table edit: 0x2E or 0x2F. -/
def rangeEditOpcode : BitVec 8 := if rangeEditLast then 0x2F else 0x2E

/-- The boot measurement a measurement register holds at the end of a cold start, by register 0 to 5 (R569): the spec gives no
firmware image to measure. -/
opaque bootMeasure : Nat → BitVec 512

/-- The SHA3-512 digest of stage i of the firmware the module is made with (R569). -/
opaque factoryStage : Nat → BitVec 512

/-- The factory gain (binary32, bits 31 to 0) and offset (mA, bits 47 to 32) of a current-sense channel (Table 16-3). -/
opaque factorySense : Nat → BitVec 48

/-- The factory preset (bits 7 to 0) and receiver seed of a SerDes lane (Table 16-3). -/
opaque factoryPreset : Nat → BitVec 32

/-- The factory training seeds of a DRAM channel (Table 16-3). -/
opaque factorySeed : Nat → BitVec 4096

/-- The factory value of a power-model coefficient as binary32 bits, by its place in Table 16-3. -/
opaque factoryCoeff : Nat → BitVec 32

/-- The factory offset of a temperature sensor in 0.25 °C, by sensor (Table 16-3). -/
opaque factoryOffset : Nat → BitVec 8

/-- A key the module draws from its own random source, by draw (R546, R547). -/
opaque randomKey : Nat → BitVec 512

/-- The keys a cold start draws, by draw (0 the one before State.reset): the firmware key, and those of shared regions 0 to 3 (R546). -/
opaque coldKey : Nat → Nat → BitVec 512

/-- The ML-DSA-87 signature of the identity key over a message (R563, R566, R570). -/
opaque signature : List (BitVec 8) → BitVec 37016

/-- The boot KEM public key, by draw at each cold start (R566). -/
opaque bootKem : Nat → BitVec 12544

/-- The null encoding of a resource, by the clamp code of the field that names it: R523 puts it into APPLIED and gives none. -/
opaque nullEncoding : Nat → BitVec 64

/-- The low byte of the clamp code of a field whose rule gives no code, by block and place: R18 gives the high byte alone. -/
opaque codeLow : Nat → Nat → BitVec 8

end Sys2Proof.Config
end

