-- ==== Sys2Proof/Machine/Bits.lean ====
section
/-! DEFINITION. Bit fields, byte order, signed readings and sparse tables: the small helpers every family uses.
Everything the module stores or sends is little-endian (R13, R520), so byte order is decided here once. -/
namespace Sys2Proof.Machine

/-- Bits [lo + w - 1 : lo] of x. -/
def fldN (x lo w : Nat) : Nat := (x >>> lo) % 2 ^ w

/-- x with bits [lo + w - 1 : lo] replaced by v. -/
def setFld (x lo w v : Nat) : Nat := x - (fldN x lo w) * 2 ^ lo + (v % 2 ^ w) * 2 ^ lo

/-- Bit i of x. -/
def bitN (x i : Nat) : Bool := (x >>> i) % 2 == 1

/-- 1 for true, 0 for false. -/
def b2n (b : Bool) : Nat := if b then 1 else 0

/-- The number little-endian bytes spell. -/
def leNat : List Byte → Nat
  | [] => 0
  | b :: bs => b.toNat + 256 * leNat bs

/-- The n little-endian bytes of x, x taken modulo 2^(8 n). -/
def leBytes : Nat → Nat → List Byte
  | 0, _ => []
  | n + 1, x => BitVec.ofNat 8 x :: leBytes n (x / 256)

/-- Bytes [ofs, ofs + n) of a byte string, zero past its end. -/
def bytesAt (bs : List Byte) (ofs n : Nat) : List Byte :=
  let t := (bs.drop ofs).take n
  t ++ List.replicate (n - t.length) 0

/-- The little-endian number in bytes [ofs, ofs + n) of a byte string. -/
def leAt (bs : List Byte) (ofs n : Nat) : Nat := leNat (bytesAt bs ofs n)

/-- The signed value of a w-bit two's complement field. -/
def signedN (w x : Nat) : Int := if 2 * (x % 2 ^ w) < 2 ^ w then (x % 2 ^ w : Nat) else ((x % 2 ^ w : Nat) : Int) - (2 ^ w : Nat)

/-- The w-bit two's complement field of a signed value. -/
def toField (w : Nat) (i : Int) : Nat := (i % ((2 ^ w : Nat) : Int)).toNat

/-- A signed value held to the range of a w-bit two's complement field. -/
def satSigned (w : Nat) (i : Int) : Int :=
  let hi : Int := ((2 ^ (w - 1) : Nat) : Int) - 1
  if hi < i then hi else if i < -hi - 1 then -hi - 1 else i

/-- x held to at most m. -/
def capN (m x : Nat) : Nat := if m < x then m else x

/-- Base-2 logarithm of x rounded up; 0 for 0 and 1. -/
def ceilLog2 (x : Nat) : Nat := if x ≤ 1 then 0 else Nat.log2 (x - 1) + 1

/-- x rounded up to a multiple of m. -/
def roundUp (x m : Nat) : Nat := if m = 0 then x else (x + m - 1) / m * m

/-- The quotient a / b rounded up, 0 for b = 0. -/
def ceilDiv (a b : Nat) : Nat := if b = 0 then 0 else (a + b - 1) / b

/-- The entry of a sparse table at key k. -/
def tget? {α : Type} (t : List (Nat × α)) (k : Nat) : Option α :=
  match t with
  | [] => none
  | (j, v) :: r => if j = k then some v else tget? r k

/-- The entry of a sparse table at key k, d where the table lists none. -/
def tgetD {α : Type} (t : List (Nat × α)) (k : Nat) (d : α) : α := (tget? t k).getD d

/-- The table with key k holding v, keys kept rising. -/
def tput {α : Type} (t : List (Nat × α)) (k : Nat) (v : α) : List (Nat × α) :=
  match t with
  | [] => [(k, v)]
  | (j, w) :: r => if j < k then (j, w) :: tput r k v else if j = k then (k, v) :: r else (k, v) :: (j, w) :: r

/-- The table without key k. -/
def tdel {α : Type} (t : List (Nat × α)) (k : Nat) : List (Nat × α) := t.filter (fun e => e.1 != k)

/-- Whether the table lists key k. -/
def thas {α : Type} (t : List (Nat × α)) (k : Nat) : Bool := (tget? t k).isSome

/-- The table with its entry at k changed by f, unchanged where it lists none. -/
def tmod {α : Type} (t : List (Nat × α)) (k : Nat) (f : α → α) : List (Nat × α) :=
  match tget? t k with
  | none => t
  | some v => tput t k (f v)

/-- Every value of the table changed by f, with its key. -/
def tmap {α β : Type} (t : List (Nat × α)) (f : Nat → α → β) : List (Nat × β) := t.map (fun e => (e.1, f e.1 e.2))

/-- The lowest number below n that the table does not list. -/
def tfree {α : Type} (t : List (Nat × α)) (n : Nat) : Option Nat := (List.range n).find? (fun k => !thas t k)

/-- The keys of a table are strictly rising. -/
def keysRising {α : Type} : List (Nat × α) → Bool
  | [] => true
  | [_] => true
  | a :: b :: r => a.1 < b.1 && keysRising (b :: r)

/-- An element of a list at place i, d past its end. -/
def nthD {α : Type} (l : List α) (i : Nat) (d : α) : α := (l[i]?).getD d

/-- Apply f over the numbers 0 to n - 1 in turn. -/
def iterN {α : Type} (n : Nat) (f : Nat → α → α) (a : α) : α := (List.range n).foldl (fun a i => f i a) a

/-- The numbers of the set bits of a mask below n, rising. -/
def bitsOf (n mask : Nat) : List Nat := (List.range n).filter (fun i => bitN mask i)

/-- The mask whose set bits are the numbers of a list. -/
def maskOf (l : List Nat) : Nat := l.foldl (fun m i => m ||| 2 ^ i) 0

end Sys2Proof.Machine
end

