-- ==== Sys2Proof/Machine/Code.lean ====
section
/-! DEFINITION. The memory code (08_memory.md, R271, R278 to R282): Reed-Solomon over GF(2^8), one codeword of 19 symbols per beat,
its check symbols, its syndromes, the poison pattern, and the decoder with none, one or two marked dies. A symbol is a number below
256, and symbol i of a codeword lies on die i. -/
namespace Sys2Proof.Machine

/-- A field element times α, modulo x^8 + x^4 + x^3 + x^2 + 1 (R278). -/
def gfTimesX (a : Nat) : Nat := if a < 128 then 2 * a else Nat.xor (2 * a) 0x11D

/-- The product of two field elements, by the bits of the second. -/
def gfMul (a b : Nat) : Nat :=
  ((List.range 8).foldl (fun (x : Nat × Nat) i => (if bitN b i then Nat.xor x.1 x.2 else x.1, gfTimesX x.2)) (0, a)).1

/-- α^n. -/
def gfExp (n : Nat) : Nat := iterN n (fun _ a => gfTimesX a) 1

/-- The inverse of a field element other than 0: its 254th power. -/
def gfInv (a : Nat) : Nat := iterN 253 (fun _ x => gfMul x a) a

/-- The coefficients of the generator (x + α^0)(x + α^1)(x + α^2) below its leading one, the highest first (R278). -/
def rsGenerator : List Nat :=
  let times := fun (p : List Nat) (r : Nat) => ((p ++ [0]).zip (0 :: p)).map (fun (e : Nat × Nat) => Nat.xor e.1 (gfMul e.2 r))
  (times (times (times [1] 1) 2) 4).drop 1

/-- The three check symbols D16 to D18 of 16 data symbols: the remainder of the data, D0 the coefficient of x^18, on division by the
generator (R278). -/
def rsCheck (data : List Nat) : List Nat :=
  data.foldl (fun c d =>
    let f := Nat.xor d (nthD c 0 0)
    (rsGenerator.zip (c.drop 1 ++ [0])).map (fun (e : Nat × Nat) => Nat.xor e.2 (gfMul f e.1))) [0, 0, 0]

/-- The codeword of a beat: byte i of its 16 data bytes on die i, the check symbols on D16 to D18 (R271). -/
def codeword (beat : List Byte) : List Nat := let d := beat.map (fun b => b.toNat); d ++ rsCheck d

/-- Syndrome j of a received word: its value at α^j. -/
def rsSyndrome (w : List Nat) (j : Nat) : Nat := w.foldl (fun a c => Nat.xor (gfMul a (gfExp j)) c) 0

/-- The locator of a die: its coefficient is that of x^(18 - die). -/
def rsLocator (die : Nat) : Nat := gfExp (18 - die)

/-- The pattern a poisoned codeword's check symbols are XORed with (R282). -/
def poisonPattern : List Nat := List.replicate 16 0 ++ [0x5A, 0xA5, 0x3C]

/-- A codeword as it stands in the dies: poisoned or not, and its symbols in error XORed in. -/
def rsStored (beat : List Byte) (poison : Bool) (errs : List (Nat × Nat)) : List Nat :=
  let w := codeword beat
  let w := if poison then (w.zip poisonPattern).map (fun e => Nat.xor e.1 e.2) else w
  ((List.range 19).zip w).map (fun e => errs.foldl (fun a x => if x.1 = e.1 then Nat.xor a x.2 else a) e.2)

/-- What the decoder finds in one codeword (Table 8-3, R282); beyond is a pattern the code makes no promise about (R279). A corrected
word comes with the dies whose symbols were corrected. -/
inductive Decode where
  | clean
  | corrected (dies : List Nat)
  | poisoned
  | uncorrectable
  | beyond
  deriving DecidableEq, Repr

/-- The decoder on three syndromes, with the marked dies as erasures (Table 8-3, R282). -/
def rsDecode (marks : List Nat) (s0 s1 s2 : Nat) : Decode :=
  let found := fun (l : List (Nat × Nat)) => Decode.corrected ((l.filter (fun e => e.2 != 0)).map (fun e => e.1))
  if s0 = 0 && s1 = 0 && s2 = 0 then .clean
  else if [s0, s1, s2] = (List.range 3).map (rsSyndrome poisonPattern) then .poisoned
  else match marks with
    | [] =>
      match (List.range 19).find? (fun p => s0 != 0 && gfMul s0 (rsLocator p) == s1 && gfMul s1 (rsLocator p) == s2) with
      | some p => found [(p, s0)]
      | none => .uncorrectable
    | [m] =>
      let x := rsLocator m
      let t0 := Nat.xor s1 (gfMul x s0)
      let t1 := Nat.xor s2 (gfMul x s1)
      if t0 = 0 && t1 = 0 then found [(m, s0)]
      else match (List.range 19).find? (fun p => p != m && t0 != 0 && gfMul t0 (rsLocator p) == t1) with
        | some p =>
          let e := gfMul t0 (gfInv (Nat.xor x (rsLocator p)))
          found [(p, e), (m, Nat.xor s0 e)]
        | none => .uncorrectable
    | m :: n :: _ =>
      let x := rsLocator m
      let y := rsLocator n
      let b := gfMul (Nat.xor s1 (gfMul x s0)) (gfInv (Nat.xor x y))
      let a := Nat.xor s0 b
      if Nat.xor (gfMul (gfMul a x) x) (gfMul (gfMul b y) y) = s2 then found [(m, a), (n, b)] else .uncorrectable

/-- Whether a pattern of symbols in error has more of them than Table 8-3 covers: three without a mark, two beside one mark or two. -/
def rsBeyond (marks : List Nat) (dies : List Nat) : Bool :=
  let u := (dies.filter (fun d => !marks.contains d)).length
  match marks.length with
  | 0 => decide (3 ≤ u)
  | _ => decide (2 ≤ u)

/-- Decoding one codeword as it stands, with the stack's marked dies (R279, R282): a poisoned one with a further symbol in error is
uncorrectable, with more there is no promise. -/
def decodeWord (marks : List Nat) (beat : List Byte) (poison : Bool) (errs : List (Nat × Nat)) : Decode :=
  let bad := ((errs.filter (fun e => e.2 != 0)).map (fun e => e.1)).eraseDups
  if poison then (if bad = [] then .poisoned else if bad.length = 1 then .uncorrectable else .beyond)
  else if rsBeyond marks bad then .beyond
  else
    let w := rsStored beat poison errs
    rsDecode marks (rsSyndrome w 0) (rsSyndrome w 1) (rsSyndrome w 2)

end Sys2Proof.Machine
end

