-- ==== Sys2Proof/Machine/Crypto.lean ====
section
/-! DEFINITION. The codes and ciphers the spec names by their standards: CRC-32C (Tables 2-2, 2-3, 3-6), SHA3-512 of
FIPS 202 (digest trees, measurements), AES-256-XTS of FIPS 197 and IEEE 1619 (R321, R544), KMAC256 of SP 800-185 and AES-256-GCM of SP
800-38D (R381). Their definitions are
those standards'; see notes/assumptions/12.md. -/
namespace Sys2Proof.Machine

/-! ## CRC-32C -/

/-- Eight steps of the reflected CRC-32C register. -/
def crcStep : Nat → Nat → Nat
  | 0, c => c
  | n + 1, c => crcStep n (if c % 2 = 1 then Nat.xor (c / 2) 0x82F63B78 else c / 2)

/-- CRC-32C of a byte string. -/
def crc32c (bs : List Byte) : Nat :=
  Nat.xor (bs.foldl (fun c b => crcStep 8 (Nat.xor c b.toNat)) 0xFFFFFFFF) 0xFFFFFFFF

/-! ## SHA3-512 -/

/-- A 64-bit lane rotated left. -/
def rotl64 (x n : Nat) : Nat := (x * 2 ^ (n % 64) + x / 2 ^ (64 - n % 64)) % 2 ^ 64

/-- When the walk that takes lane (x, y) to lane (y, 2x + 3y) modulo 5, begun at lane (1, 0), comes to lane x + 5y; 0 for the lane it never
comes to. FIPS 202 turns the t-th lane of the walk by t(t + 1)/2. -/
def laneTurn : List Nat := [0, 1, 19, 7, 13, 8, 24, 3, 10, 23, 2, 4, 18, 17, 21, 14, 9, 5, 6, 16, 20, 11, 22, 15, 12]

/-- How far rho turns lane i. -/
def rhoOf (i : Nat) : Nat := let t := nthD laneTurn i 0; t * (t + 1) / 2

/-- The bit register iota draws from (FIPS 202, algorithm 5): eight bits, x^8 + x^6 + x^5 + x^4 + 1. -/
def iotaNext (r : Nat) : Nat := if 128 ≤ r then Nat.xor (2 * r - 256) 0x71 else 2 * r

/-- The constant of a round from the register at its start, bit j of seven at place 2^j - 1, and the register after. -/
def iotaDraw (r : Nat) : Nat × Nat :=
  (List.range 7).foldl (fun (a : Nat × Nat) j => (a.1 + a.2 % 2 * 2 ^ (2 ^ j - 1), iotaNext a.2)) (0, r)

/-- One round of Keccak-f[1600] over 25 lanes. -/
def keccakRound (a : List Nat) (rc : Nat) : List Nat :=
  let g := fun (l : List Nat) i => nthD l i 0
  let c := (List.range 5).map (fun x => (List.range 5).foldl (fun v y => Nat.xor v (g a (x + 5 * y))) 0)
  let d := (List.range 5).map (fun x => Nat.xor (g c ((x + 4) % 5)) (rotl64 (g c ((x + 1) % 5)) 1))
  let t := (List.range 25).map (fun i => rotl64 (Nat.xor (g a i) (g d (i % 5))) (rhoOf i))
  -- pi: lane (x, y) comes from lane ((x + 3 y) mod 5, x)
  let b := (List.range 25).map (fun i => g t ((i % 5 + 3 * (i / 5)) % 5 + 5 * (i % 5)))
  let e := (List.range 25).map (fun i =>
    let y := 5 * (i / 5)
    Nat.xor (g b i) (Nat.land (Nat.xor (g b (y + (i % 5 + 1) % 5)) (2 ^ 64 - 1)) (g b (y + (i % 5 + 2) % 5))))
  match e with
  | [] => []
  | z :: r => Nat.xor z rc :: r

/-- Keccak-f[1600]: 24 rounds. -/
def keccakF (a : List Nat) : List Nat :=
  ((List.range 24).foldl (fun (x : List Nat × Nat) _ => let (rc, r) := iotaDraw x.2; (keccakRound x.1 rc, r)) (a, 1)).1

/-- A message absorbed in n blocks of rate bytes, from a state on. -/
def keccakAbsorb (rate : Nat) : Nat → List Nat → List Byte → List Nat
  | 0, a, _ => a
  | n + 1, a, m =>
    keccakAbsorb rate n (keccakF ((List.range 25).map (fun i => if 8 * i < rate then Nat.xor (nthD a i 0) (leAt m (8 * i) 8) else nthD a i 0))) (m.drop rate)

/-- The sponge of FIPS 202 for outputs of no more than one block: the message, its domain bits with the first bit of the padding, and the
last bit of the block. -/
def sponge (rate domain out : Nat) (m : List Byte) : List Byte :=
  let gap := rate - m.length % rate
  let pad := leBytes gap (domain + 2 ^ (8 * gap - 1))
  ((keccakAbsorb rate ((m.length + gap) / rate) (List.replicate 25 0) (m ++ pad)).flatMap (leBytes 8)).take out

/-- SHA3-512 of a byte string: 64 bytes. -/
def sha3_512 (m : List Byte) : List Byte := sponge 72 6 64 m

/-- SHA3-512 as a number, its bytes little-endian. -/
def sha3Nat (m : List Byte) : Nat := leNat (sha3_512 m)

/-! ## AES-256-XTS -/

/-- Multiplication by x in GF(2^8) modulo x^8 + x^4 + x^3 + x + 1. -/
def xtime (a : Nat) : Nat := let b := 2 * a; if 256 ≤ b then Nat.xor (b - 256) 0x1B else b

/-- The product in GF(2^8), over the low k bits of b. -/
def gmulBits : Nat → Nat → Nat → Nat
  | 0, _, _ => 0
  | k + 1, a, b => Nat.xor (if b % 2 = 1 then a else 0) (gmulBits k (xtime a) (b / 2))

def gmul (a b : Nat) : Nat := gmulBits 8 a b

/-- a^254, the inverse in GF(2^8) (0 for 0). -/
def ginv (a : Nat) : Nat := (List.range 6).foldl (fun r _ => let s := gmul r r; gmul s a) a |> fun r => gmul r r

/-- The AES S-box: the inverse and the affine map. -/
def sbox (a : Nat) : Nat :=
  let b := ginv a
  let rot := fun n => (b * 2 ^ n + b / 2 ^ (8 - n)) % 256
  Nat.xor (Nat.xor (Nat.xor (Nat.xor b (rot 1)) (rot 2)) (Nat.xor (rot 3) (rot 4))) 0x63

/-- The inverse S-box: the inverse affine map and the inverse. -/
def invSbox (a : Nat) : Nat :=
  let rot := fun n => (a * 2 ^ n + a / 2 ^ (8 - n)) % 256
  ginv (Nat.xor (Nat.xor (rot 1) (Nat.xor (rot 3) (rot 6))) 0x05)

/-- The next word of the AES-256 key schedule: word i from the words before it. -/
def aesKeyWord (ws : List (List Nat)) (i : Nat) : List Nat :=
  let t := nthD ws (i - 1) []
  let t := if i % 8 = 0 then
      match (t.drop 1 ++ t.take 1).map sbox with
      | b :: r => Nat.xor b ((List.range (i / 8 - 1)).foldl (fun a _ => xtime a) 1) :: r
      | [] => []
    else if i % 8 = 4 then t.map sbox else t
  (nthD ws (i - 8) []).zipWith Nat.xor t

/-- The 60 words of the AES-256 key schedule. -/
def aesSchedule (key : List Nat) : List (List Nat) :=
  (List.range 52).foldl (fun ws i => ws ++ [aesKeyWord ws (i + 8)]) ((List.range 8).map (fun i => (key.drop (4 * i)).take 4))

/-- Round key r as 16 bytes. -/
def aesRoundKey (ws : List (List Nat)) (r : Nat) : List Nat := ((ws.drop (4 * r)).take 4).flatten

def xorL (a b : List Nat) : List Nat := a.zipWith Nat.xor b

/-- ShiftRows over the column-major state, row r by k x r columns. -/
def shiftRows (k : Nat) (s : List Nat) : List Nat :=
  (List.range 16).map (fun i => nthD s (i % 4 + 4 * ((i / 4 + k * (i % 4)) % 4)) 0)

/-- MixColumns by the circulant of four coefficients. -/
def mixCols (c : List Nat) (s : List Nat) : List Nat :=
  (List.range 16).map (fun i => (List.range 4).foldl
    (fun v j => Nat.xor v (gmul (nthD c ((j + 4 - i % 4) % 4) 0) (nthD s (4 * (i / 4) + j) 0))) 0)

/-- AES-256 encryption of 16 bytes under a schedule. -/
def aesEnc (ws : List (List Nat)) (s : List Nat) : List Nat :=
  let s := xorL s (aesRoundKey ws 0)
  let s := (List.range 13).foldl (fun s r => xorL (mixCols [2, 3, 1, 1] (shiftRows 1 (s.map sbox))) (aesRoundKey ws (r + 1))) s
  xorL (shiftRows 1 (s.map sbox)) (aesRoundKey ws 14)

/-- AES-256 decryption of 16 bytes under a schedule. -/
def aesDec (ws : List (List Nat)) (s : List Nat) : List Nat :=
  let s := xorL s (aesRoundKey ws 14)
  let s := (List.range 13).foldl
    (fun s r => mixCols [14, 11, 13, 9] (xorL ((shiftRows 3 s).map invSbox) (aesRoundKey ws (13 - r)))) s
  xorL ((shiftRows 3 s).map invSbox) (aesRoundKey ws 0)

/-- The XTS tweak times alpha in GF(2^128), as 16 little-endian bytes. -/
def xtsMul (t : List Nat) : List Nat :=
  let x := t.foldr (fun b a => b + 256 * a) 0
  let y := if 2 ^ 127 ≤ x then Nat.xor (2 * x % 2 ^ 128) 0x87 else 2 * x
  (leBytes 16 y).map BitVec.toNat

/-- n blocks of XTS, the tweak moved on block by block. -/
def xtsBlocks (f : List Nat → List Nat) : Nat → List Nat → List Nat → List Nat
  | 0, _, _ => []
  | n + 1, t, d => xorL (f (xorL (d.take 16) t)) t ++ xtsBlocks f n (xtsMul t) (d.drop 16)

/-- AES-256-XTS over whole blocks under a 64-byte key (bytes 0 to 31 the data key, 32 to 63 the tweak key) and a 16-byte
tweak; dec chooses decryption. -/
def xts (dec : Bool) (key : List Byte) (tweak : List Byte) (data : List Byte) : List Byte :=
  let k := key.map BitVec.toNat
  let k1 := aesSchedule (k.take 32)
  let t := aesEnc (aesSchedule (k.drop 32)) (tweak.map BitVec.toNat)
  let f := if dec then aesDec k1 else aesEnc k1
  (xtsBlocks f (data.length / 16) t (data.map BitVec.toNat)).map (BitVec.ofNat 8)

/-! ## KMAC256 (SP 800-185) -/

/-- Bytes of a number, highest first, no more than it needs and at least one. -/
def beShort (x : Nat) : List Byte := (leBytes (Nat.max 1 ((Nat.log2 x + 8) / 8)) x).reverse

/-- A bit length before and after a string. -/
def leftEncode (x : Nat) : List Byte := let b := beShort x; BitVec.ofNat 8 b.length :: b
def rightEncode (x : Nat) : List Byte := let b := beShort x; b ++ [BitVec.ofNat 8 b.length]
def encodeString (m : List Byte) : List Byte := leftEncode (8 * m.length) ++ m

/-- A string with its block length before it, zeros filling its last block. -/
def bytepad (m : List Byte) (w : Nat) : List Byte :=
  let z := leftEncode w ++ m
  z ++ List.replicate ((w - z.length % w) % w) 0

/-- The bytes of an ASCII string. -/
def ascii (t : String) : List Byte := t.toList.map (fun c => BitVec.ofNat 8 c.toNat)

/-- KMAC256 of data under a key and a customisation string, out bytes of it (up to one block). -/
def kmac256 (key data custom : List Byte) (out : Nat) : List Byte :=
  sponge 136 4 out (bytepad (encodeString (ascii "KMAC") ++ encodeString custom) 136 ++ bytepad (encodeString key) 136 ++ data ++ rightEncode (8 * out))

/-! ## AES-256-GCM (SP 800-38D) -/

/-- The product in GCM's field, whose elements are 128-bit strings with their first bit the highest here; over the low k bits of y. -/
def ghashMul : Nat → Nat → Nat → Nat
  | 0, _, _ => 0
  | k + 1, x, y =>
    let v := ghashMul k (x / 2 |> fun h => if x % 2 = 1 then Nat.xor h (0xE1 * 2 ^ 120) else h) y
    if bitN y k then Nat.xor v x else v

/-- A big-endian number of 16 bytes. -/
def beNat (bs : List Byte) : Nat := bs.foldl (fun a b => 256 * a + b.toNat) 0

/-- GHASH over n blocks. -/
def ghash (h : Nat) : Nat → Nat → List Byte → Nat
  | 0, a, _ => a
  | n + 1, a, m => ghash h n (ghashMul 128 (Nat.xor a (beNat ((m.take 16) ++ List.replicate (16 - m.length) 0))) h) (m.drop 16)

/-- AES-256 in counter mode from counter block nonce || c on, over n blocks. -/
def ctrBlocks (ws : List (List Nat)) (nonce : List Byte) : Nat → Nat → List Byte → List Byte
  | 0, _, _ => []
  | n + 1, c, m =>
    let k := (aesEnc ws ((nonce ++ (leBytes 4 c).reverse).map BitVec.toNat)).map (BitVec.ofNat 8)
    (m.take 16).zipWith (fun a b => a ^^^ b) k ++ ctrBlocks ws nonce n (c + 1) (m.drop 16)

/-- A plain text encrypted under a 32-byte key and a 12-byte nonce: the cipher text and its 16-byte tag over it and the additional data. -/
def gcmSeal (key nonce aad plain : List Byte) : List Byte × List Byte :=
  let ws := aesSchedule (key.map BitVec.toNat)
  let h := beNat ((aesEnc ws (List.replicate 16 0)).map (BitVec.ofNat 8))
  let ct := ctrBlocks ws nonce ((plain.length + 15) / 16) 2 plain
  let zeros := fun (m : List Byte) => m ++ List.replicate ((16 - m.length % 16) % 16) 0
  let m := zeros aad ++ zeros ct ++ (leBytes 8 (8 * aad.length)).reverse ++ (leBytes 8 (8 * ct.length)).reverse
  let t := (leBytes 16 (ghash h (m.length / 16) 0 m)).reverse
  (ct, ctrBlocks ws nonce 1 1 t)

end Sys2Proof.Machine
end

