-- ==== Sys2Proof/Machine/State.lean ====
section
/-! DEFINITION. The state of the PJ8 block as plain data: every register, table, queue, counter, buffer and pin the spec
gives the module, the queue of the commands that are waiting, and the state right after a completed cold start.
Sparse tables are lists of (key, value) pairs sorted by key; what an unlisted key stands for is each table's default. -/
namespace Sys2Proof.Machine

/-- A sparse table: (key, value) pairs, keys rising. -/
abbrev Tab (α : Type) := List (Nat × α)

/-! ## Register fields (Tables 1-9 to 17-7) -/

/-- The BAR0 blocks of Table 14-4. -/
inductive Blk where
  | ident | cad | mem | tier | net | gnx | host | mq | pwr | rst | part
  deriving DecidableEq, Repr

/-- Register access codes (R15, Table 0-5). -/
inductive Acc where
  | ro | rw | rwl | wo | rws
  deriving DecidableEq, Repr

/-- The reset value of a field, as the register tables give it: a number, or a rule over the register's index. -/
inductive RstV where
  | const (n : Nat)
  | idx
  | idxDiv (n : Nat)
  | blkDiv (n : Nat)
  | siteState
  | siteCore
  | dscp (j : Nat)
  | boot
  deriving DecidableEq, Repr

/-- What the module does with a written value (R522): takes any value; a numeric range with its field code; or the
defined encodings lo to hi, a reserved encoding taking the field's Reset value. -/
inductive Clamp where
  | any
  | range (lo hi code : Nat)
  | enc (lo hi reset code : Nat)
  deriving DecidableEq, Repr

/-- One register field: its block, the offset of its register within the block, the stride and count of a repeated
register, its lowest bit, its width, its access code, its reset value and its clamp. -/
structure Fld where
  blk : Blk
  off : Nat
  stride : Nat
  count : Nat
  lo : Nat
  w : Nat
  acc : Acc
  rst : RstV
  clamp : Clamp
  deriving DecidableEq, Repr

/-! ## Records and rings (14_host_interface.md) -/

/-- A completion, event or clamp record (Tables 14-10 to 14-12) before it is laid into its ring. -/
inductive Rec where
  | cpl (opcode status cflags tag cookie tick result : Nat)
  | event (type part : Nat) (redacted : Bool) (tick : Nat) (words : List Nat)
  | clamp (reason field part csrc opcode site requested applied : Nat)
  deriving DecidableEq, Repr

/-- Where a record goes (R521): the completion ring of one ring pair life, a partition's event ring, or a port's
module event ring. -/
inductive Route where
  | cpl (part ring life : Nat)
  | part (p : Nat)
  | port (q : Nat)
  deriving DecidableEq, Repr

/-- A record on its way to a ring, or waiting in a backlog (R525). -/
structure OutRec where
  route : Route
  record : Rec
  deriving DecidableEq, Repr

/-- A consumed descriptor that has not completed: where its completion record goes and what the record carries. -/
structure DRef where
  part : Nat
  ring : Nat
  life : Nat
  num : Nat
  opcode : Nat
  ver : Nat
  tag : Nat
  cookie : Nat
  clamped : Bool
  deriving DecidableEq, Repr

/-- A ring: a ring pair, an event ring or a module event ring, with its four cumulative counts (R509, R510). -/
structure Ring where
  life : Nat
  stopped : Bool
  log : Nat
  sqBase : Nat
  cqBase : Nat
  cb : Nat
  pay : Nat
  vec : Nat
  vecEn : Bool
  coalCnt : Nat
  coalUs : Nat
  sqTail : Nat
  sqHead : Nat
  cqHead : Nat
  cqTail : Nat
  sinceMsg : Nat
  outstanding : List DRef
  waiting : List (Nat × Nat × Desc)
  destroyer : Option DRef
  deriving DecidableEq, Repr

/-- One MSI-X vector: its mask and pending bits (R526). -/
structure MsixVec where
  masked : Bool
  pending : Bool
  deriving DecidableEq, Repr

/-- A registered region of BAR2 (R502): partition, PVA, length in 2 MiB units, PERM and its BAR2 offset in 2 MiB, and a release that
waits for the accesses in flight (R506). -/
structure Region where
  part : Nat
  pva : Nat
  len : Nat
  perm : Nat
  ofs : Nat
  releasing : Option DRef
  deriving DecidableEq, Repr

/-- A BAR2 access that waits for device memory: its offset, its length and, for a write, its bytes. -/
structure Bar2Req where
  ofs : Nat
  len : Nat
  data : Option (List Byte)
  deriving DecidableEq, Repr

/-- One host port (14_host_interface.md): pins, Margining Ready, MSI-X function mask and vectors, regions, backlog, records lost
since their last event, the tick of its last BAR2 miss event, a snooped line not yet read again, whether it has still to train
before it takes submissions (R528), whether the next link up follows a module reset (R538), and the BAR2 accesses that wait for device
memory. -/
structure HPort where
  perstN : Bool
  rdyN : Bool
  busyN : Bool
  marginingReady : Bool
  msixFnMask : Bool
  vectors : Tab MsixVec
  regions : Tab Region
  backlog : List OutRec
  lostPending : Nat
  missTick : Option Nat
  snooped : Bool
  training : Bool
  afterReset : Bool
  waiting : List Bar2Req
  deriving DecidableEq, Repr

/-- A seal change in progress (R535): the module seal, or a partition's. -/
inductive SealChange where
  | module
  | part (p : Nat)
  deriving DecidableEq, Repr

/-- What the module last answered a read of the host with: nothing yet, data of a number of bytes and whether they are poisoned,
Unsupported Request, or Configuration Request Retry Status. -/
inductive HostAnswer where
  | none
  | data (bytes : List Byte) (poison : Bool)
  | unsupported
  | retry
  deriving DecidableEq, Repr

/-- The host side: rings by key, rings that are gone while descriptors consumed from them have not completed (by life, with the
key they had), the two ports, host memory as the module last read or wrote it, the seal changes, and the last answer to a
read. -/
structure HostState where
  rings : Tab Ring
  gone : Tab (Nat × Ring)
  nextLife : Nat
  ports : Tab HPort
  mem : List Host.Cell
  sealing : List SealChange
  answer : HostAnswer
  deriving DecidableEq, Repr

/-- A host port at the end of a cold start: PERST_N and BUSY_N high, RDY_N high, nothing placed. -/
def HPort.init : HPort :=
  { perstN := true, rdyN := true, busyN := true, marginingReady := false, msixFnMask := false, vectors := [],
    regions := [], backlog := [], lostPending := 0, missTick := none, snooped := false, training := false, afterReset := true, waiting := [] }

/-! ## Organization and cadence (01_organization.md, 02_cadence.md) -/

/-- A range-table entry (Table 1-8), VBASE, LENGTH and TGT_REF in their own units. -/
structure RtEntry where
  target : Nat
  perm : Nat
  hint : Nat
  vbase : Nat
  len : Nat
  tref : Nat
  deriving DecidableEq, Repr

/-- One queue of Table 1-6: its four cumulative counts and the breach stop (R32 to R35), and by how much its counts already broke each
check of R88 when it last resumed (the model's own record: a breach that has been reported; the counts themselves never change for
it, R12). -/
structure Queue where
  granted : Nat
  issued : Nat
  consumed : Nat
  returned : Nat
  stopped : Bool
  excess : Nat
  beyond : Nat
  deriving DecidableEq, Repr

/-- The PTP time unit (R51 to R61): whether a boundary has been placed, whether it has a PTP master or takes its seconds from
TICK_PPS_IN, the units out of service, the TICK_OUT pin, the beacon skews of the last 256 ticks by tick, the mean path delay to the
master (R52), how late the Sync in hand is, the receive time of a two-step Sync whose Follow_Up is to come, and the next sequence number
of the messages it sends. -/
structure TimeState where
  placed : Bool
  hasMaster : Bool
  ppsMaster : Bool
  failed : List Nat
  tickOut : Bool
  beacons : List (Nat × Int)
  pathDelay : Int
  late : Int
  awaitsFollow : Bool
  seq : Nat
  deriving DecidableEq, Repr

/-- A registered step plan (Table 2-2); releasing holds the release descriptor that waits (R662). -/
structure Plan where
  nticks : Nat
  statStride : Nat
  tptPva : Nat
  statPva : Nat
  releasing : Option DRef
  deriving DecidableEq, Repr

/-- A grain of a fetched tick plan: the step run and tick it belongs to, its core, the byte offset of its record in its
tick plan, its 256-bit record, where its status goes, and its progress. A filler grain stands at its host's tick. A grain of a block replay or a step
replay (R470, R471) runs again, with no signal of its own. -/
structure Grain where
  run : Nat
  stepNo : Nat
  tick : Nat
  tidx : Nat
  lcore : Nat
  ofs : Nat
  word : Nat
  statPva : Nat
  clamped : Bool
  overrun : Bool
  filler : Bool
  again : Bool
  deriving DecidableEq, Repr

/-- A grain that a core runs: the grain, the tick and cycle offset it started at, whether it ran ahead, the range table
in force at its start (R38), its unit descriptor as read at DESC_PVA, what its unit read at its start (a program's
words, a segment list) and the unit code and clamps it met there, its replay mark, whether it waits before its unit
starts (R218), the first tick of the ticks in a row that count towards HANG_TICKS (R81), the code and flags its unit ended with
while it still waits on its partition's memory budget (R84) or on the dispatch engine (R188), and, of a router grain that runs again, how
many of its last records the engine has still to take (R478). -/
structure Running where
  grain : Grain
  part : Nat
  startTick : Nat
  startOfs : Nat
  rt : Tab RtEntry
  desc : Nat
  pre : List Nat
  code : Nat
  clamped : Bool
  replayed : Bool
  waiting : Bool
  since : Nat
  ran : Option (Nat × Nat)
  resume : Option Nat
  deriving DecidableEq, Repr

/-- How a step stands. -/
inductive StepPhase where
  | queued | running | ending
  deriving DecidableEq, Repr

/-- A kicked step (R72 to R74): its plan, its descriptor, the first boundary after it was consumed, the tick it begins at,
the tick plans already checked, what stands against its commit and the rank that said so, whether no further tick of it runs (R67), the update grains it
has started (R470, R471), whether it replays a failed step (R471), and whether it has been found ready (R463). -/
structure StepRun where
  id : Nat
  plan : Nat
  stepNo : Nat
  desc : Option DRef
  consumed : Nat
  first : Nat
  nticks : Nat
  statStride : Nat
  tptPva : Nat
  statPva : Nat
  phase : StepPhase
  checked : Nat
  fail : Option Nat
  failFrom : Option Nat
  stopped : Bool
  updates : List Grain
  replay : Bool
  ready : Bool
  deriving DecidableEq, Repr

/-- The steps-and-plans side of a partition, with its 64 signals (R65). -/
structure PCad where
  signals : Tab Nat
  plans : Tab Plan
  steps : List StepRun
  nextRun : Nat
  lastTick : Option Nat
  lastStep : Option Nat
  work : List Grain
  holds : List DRef
  deriving DecidableEq, Repr

/-! ## Stacked memory and the Mere (08_memory.md) -/

/-- One line of a Mere slice (R293 to R297): the partition that allocated it, whether it is dirty, the partition whose pin holds it,
its LAST mark, its poison bit and its 128 bytes. -/
structure MereLine where
  part : Nat
  dirty : Bool
  pin : Option Nat
  last : Bool
  poison : Bool
  data : List Byte
  deriving DecidableEq, Repr

/-- One row of one die: die, channel, bank and row (Tables 8-1 and 8-2). -/
structure DieRow where
  die : Nat
  chan : Nat
  bank : Nat
  row : Nat
  deriving DecidableEq, Repr

/-- Whether a line is pinned. -/
def MereLine.pinned (m : MereLine) : Bool := m.pin.isSome

/-- Symbols in error of one codeword: the dies and what each symbol is XORed with, never zero, dies rising (R271). -/
abbrev SymErrs := List (Nat × Nat)

/-- What stands wrong in a burst at the DRAM: for each of its four codewords the symbols in error that every read meets, and those
the next read alone meets (R279 to R281). -/
structure BurstFault where
  stay : List SymErrs
  once : List SymErrs
  deriving DecidableEq, Repr

/-- One stack and its controller: CAM entries, per-row error tallies of the scrub interval, row copies in progress with the spare
each has taken, the rows whose remap and the dies whose mark this interval has refused, repair list and hard repairs (R280 to R292),
the spare rows used of each die's bank (a mask of 32), patrol address and repair access. -/
structure Stack where
  cam : List (DieRow × Nat)
  tallies : List (DieRow × Nat)
  copying : List (DieRow × Nat)
  denied : List DieRow
  refused : List Nat
  locating : List (Nat × List Nat)
  repairList : List DieRow
  hardRepairs : List DieRow
  used : Tab Nat
  patrol : Nat
  access : Bool
  selfRefresh : Bool
  bypass : Bool
  deriving DecidableEq, Repr

/-- The tokens left of a partition's two buckets in this tick, in 64-byte lines (R304), and the lines that wait for a refill (R84), by
2 × stack, one more for run-ahead traffic. -/
structure Tokens where
  guar : Nat
  be : Nat
  owed : Tab Nat
  deriving DecidableEq, Repr

/-- A shared weight region (R564): its first GiB of the interleaved space and its GiB, and its backing copy: the partition and
handle of the sealed host-tier object. -/
structure SharedRegion where
  base : Nat
  len : Nat
  owner : Nat
  handle : Nat
  deriving DecidableEq, Repr

/-- A line request that waits (R84, R289, R312): its partition, who asks, the hint it carries, whether it runs ahead, its stack
address, and the bytes a write brings (none for a read). -/
structure HeldReq where
  part : Nat
  who : Nat
  hint : Nat
  early : Bool
  pa : Nat
  data : List Byte
  deriving DecidableEq, Repr

/-- Device memory: the bytes of the stacks by stack address (stack x 2^37 + SA), the lines written since they were last
scrubbed, poisoned lines, the bursts (stack address / 64) with symbols in error, Mere lines by line
number, the stacks, the line requests that wait, oldest first, the token buckets, the lines drawn in this tick (State.drawKey), the
memory thermal limits of the zones, the lines that met a memory error since
every partition last ended a step (R469), the shared regions, the cores whose grain took a poisoned-line code on a granule of
one (R481), the draw that made the firmware key and the shared-region keys (R546), the blocks each transpose gatherer has assembled, by base die
(R301), and what the last line request was answered with:
its bytes and whether they are poisoned. -/
structure MemState where
  dram : List Host.Cell
  written : List Nat
  poison : List Nat
  errs : Tab BurstFault
  mere : Tab MereLine
  stackTab : Tab Stack
  held : List HeldReq
  tokens : Tab Tokens
  drawn : Tab Nat
  lm : Tab Nat
  hits : Tab Nat
  misses : Tab Nat
  evid : List Nat
  shared : Tab SharedRegion
  took : List (Nat × Nat)
  keyDraw : Nat
  gathers : Tab Nat
  answer : Option (List Byte × Bool)
  deriving DecidableEq, Repr

/-- A stack as a cold start leaves it, with nothing repaired. -/
def Stack.init : Stack :=
  { cam := [], tallies := [], copying := [], denied := [], refused := [], locating := [], repairList := [], hardRepairs := [], used := [], patrol := 0, access := false,
    selfRefresh := false, bypass := false }

/-! ## Cores (04_matrix_engine.md to 06_vector_and_isafen.md) -/

/-- A tile row of the Tarn: its tag (FORM 0 empty, 1 anchored, 2 strict; anchor; OPEN; PART) and its 64 slots of 128 bits
(Tables 3-11 and 5-1). A row the table does not list is empty. -/
structure TarnRow where
  form : Nat
  anchor : Int
  opn : Bool
  part : Nat
  slots : List Nat
  deriving DecidableEq, Repr

/-- A shard entry (Table 6-8) as the module holds it; an index with no entry is not VALID. With the pending version: the
step run and STEP_NO it belongs to, the ranges recorded (grain key, first element, count; R220), whether its SH_LAST
grain has completed and its tree started, and its root once formed. Beside it the steps whose commits made the current set
and the version the other set still holds (R489), and a release that waits. -/
structure Shard where
  cur : Nat
  pend : Bool
  broken : Bool
  nstate : Nat
  mfmt : Nat
  tensor : Nat
  efirst : Nat
  nelem : Nat
  rowLen : Nat
  slots : Nat
  setA : Nat
  setB : Nat
  commits : Nat
  root : Nat
  run : Nat
  stepNo : Nat
  ranges : List (Nat × Nat × Nat)
  lastDone : Bool
  rootNew : Option Nat
  stepCur : Nat
  stepOther : Option Nat
  releasing : Option DRef
  deriving DecidableEq, Repr

/-! ## Memory tiers and weight intake (09_tiers_and_weights.md) -/

/-- A neighbour replica of an object (Table 9-2): its channel, the lend at the lender and the offset in it. -/
structure ObjRep where
  chan : Nat
  lend : Nat
  loff : Nat
  deriving DecidableEq, Repr

/-- A slot of a partition's object table (Table 9-2, R318): its generation, its state (0 free, 1 building, 2 sealed,
3 retiring), its image, and what waits on it. -/
structure Obj where
  gen : Nat
  state : Nat
  tier : Nat
  hmode : Nat
  nrep : Nat
  lineage : Nat
  ver : Nat
  length : Nat
  haddr0 : Nat
  haddr1 : Nat
  reps : List ObjRep
  lastRead : Option Nat
  pendingWrites : List DRef
  sealer : Option DRef
  retirer : Option DRef
  recreate : Option (Nat × Nat)
  deriving DecidableEq, Repr

/-- A 4 KiB granule in a hub's granule buffer (R322). -/
structure Granule where
  hub : Nat
  part : Nat
  handle : Nat
  gran : Nat
  data : List Byte
  deriving DecidableEq, Repr

/-- Who makes a demand read of an object (R322): a core's grain, a descriptor, a channel's send, an intake hub or a BAR2 port. -/
inductive Asker where
  | core (c : Nat)
  | desc (d : DRef)
  | chan (cid : Nat)
  | intake (hub : Nat)
  | bar2 (port : Nat)
  deriving DecidableEq, Repr

/-- A granule a demand read waits for (R322, R325): who asks, its partition, object and number, and the answer once there is one: its
bytes, or none where every copy failed. -/
structure Demand where
  asker : Asker
  part : Nat
  handle : Nat
  gran : Nat
  answer : Option (Option (List Byte))
  deriving DecidableEq, Repr

/-- A read in flight (R323 to R325): its object, first granule and granules (one host granule, or a neighbour chunk), its
class (0 demand, 1 bulk), the copy it was sent to (host port, or replica), the copies tried before, the tag of its request
message, and the tier operation it serves. -/
structure TierRead where
  part : Nat
  handle : Nat
  gran : Nat
  n : Nat
  cls : Nat
  copy : Nat
  rounds : Nat
  tag : Nat
  op : Option Nat
  deriving DecidableEq, Repr

/-- What a bulk read serves: a tier copy with its destination, a promotion list's entry, an intake on a hub, or a checkpoint. -/
inductive TierFor where
  | copy (d : DRef) (dst : Nat)
  | promo (plan idx : Nat)
  | intake (hub : Nat)
  | ckpt
  deriving DecidableEq, Repr

/-- A bulk read under way: its object and span, what it serves, the granules not yet asked for, those asked for, those that
have come, and whether a granule failed on every copy. -/
structure TierOp where
  part : Nat
  handle : Nat
  ofs : Nat
  len : Nat
  use : TierFor
  queue : List Nat
  wait : List Nat
  got : Tab (List Byte)
  failed : Bool
  deriving DecidableEq, Repr

/-- A message to a lender that waits for its status: its kind (from 0x80 on, a message of the checkpoint engine), and the
object write it belongs to. -/
structure TierMsg where
  part : Nat
  kind : Nat
  write : Option DRef
  deriving DecidableEq, Repr

/-- A lend at the lender (R326): its partition, channel and region, its sealed extents and a release that waits. -/
structure Lend where
  part : Nat
  chan : Nat
  pva : Nat
  len : Nat
  extents : List (Nat × Nat)
  releasing : Option DRef
  deriving DecidableEq, Repr

/-- A promotion list entry (Table 9-6): the fields the module keeps and updates, the commit ROOT as 512 bits, the runs that have
promoted or skipped it with their first ticks, the tick of the commit its demotion follows, and whether another demotion is owed
(R332 to R335). -/
structure PromoEntry where
  shard : Nat
  mode : Nat
  state : Nat
  startTidx : Nat
  sig : Nat
  objCur : Nat
  objAlt : Nat
  shePva : Nat
  commits : Nat
  root : Nat
  copying : Option Nat
  touched : Tab Nat
  reading : Bool
  failed : Bool
  since : Nat
  owed : Bool
  deriving DecidableEq, Repr

/-- A registered promotion list (R329): where it lies, its entries, and a release that waits. -/
structure PromoList where
  pva : Nat
  entries : List PromoEntry
  releasing : Option DRef
  deriving DecidableEq, Repr

/-- A swap of a set that has been taken and not yet made (R344, R345): its descriptor, the STEP_NO it names (or the step run that starts
next), its tick index, the tick itself once the step has begun, the intakes and object writes consumed before it that it waits for, and
whether the switch has been made while grains of the old side still run. -/
structure SwapOp where
  desc : DRef
  stepNo : Option Nat
  run : Nat
  tidx : Nat
  tick : Option Nat
  before : List DRef
  switched : Bool
  deriving DecidableEq, Repr

/-- A swap set (R342): its two sides, its range, its range-table index, its active side, the fault marks of its sides,
a swap under way and a release that waits. -/
structure SwapSet where
  tgt0 : Nat
  tgt1 : Nat
  ref0 : Nat
  ref1 : Nat
  hint : Nat
  len : Nat
  vbase : Nat
  index : Nat
  active : Nat
  faulted : List Nat
  op : Option SwapOp
  releasing : Option DRef
  deriving DecidableEq, Repr

/-- An intake in progress (Table 9-8): its descriptor, its 1,024-bit block and place, its hub, the bulk read of its tier
object if it has one, and the set whose swap it waits for (R343). -/
structure IntakeOp where
  desc : DRef
  block : Nat
  blkPva : Nat
  hub : Nat
  op : Option Nat
  deriving DecidableEq, Repr

/-- The tier side of a partition. -/
structure PTier where
  objs : Tab Obj
  promos : Tab PromoList
  swaps : Tab SwapSet
  lends : Tab Lend
  deriving DecidableEq, Repr

/-- The tier and intake engines of the module: the granule buffers, the granules of building neighbour objects that are written in part
(in the clear), the reads in flight, the demand reads that wait and who is asking now, the bulk reads, messages, intakes and counters. -/
structure TierState where
  gbuf : List Granule
  builds : List Granule
  asking : Option Asker
  demand : List Demand
  reads : List TierRead
  ops : Tab TierOp
  nextOp : Nat
  msgs : Tab TierMsg
  nextTag : Nat
  intakes : List IntakeOp
  bytes : Tab Nat
  hits : Nat
  deriving DecidableEq, Repr

/-! ## Network ports (10_network_ports.md) -/

/-- The header of a Gnoxel packet (Table 11-2), with FLAGS as its three bits. -/
structure GnxHead where
  ver : Nat
  type : Nat
  last : Bool
  enc : Bool
  solicit : Bool
  path : Nat
  dcid : Nat
  scid : Nat
  pkey : Nat
  psn : Nat
  msn : Nat
  offset : Nat
  plen : Nat
  tstamp : Nat
  deriving DecidableEq, Repr

/-- What a frame the module sends carries: a Gnoxel packet (destination address, source UDP port, header, payload or body as it leaves, and
the tag of a protected one), a port-control frame, an answer or a question of the port responder (1 ARP, 2 Neighbor Advertisement, 3 echo
reply, 4 ARP request or Neighbor Solicitation), a PTP message (its messageType and bytes), or a packet of a cluster-control message of
firmware (destination address, KIND, place and length of the packet's payload in the message, header and body fields). -/
inductive TxBody where
  | gnx (dst sport : Nat) (head : GnxHead) (body tag : List Byte)
  | portCtl (kind neww bound seq : Nat)
  | responder (kind : Nat) (words : List Nat)
  | ptp (kind : Nat) (bytes : List Byte)
  | cluster (dst kind ofs n : Nat) (words : List Nat)
  deriving DecidableEq, Repr

/-- A frame in a transmit queue or on the wire. -/
structure TxFrame where
  port : Nat
  queue : Nat
  len : Nat
  part : Nat
  body : TxBody
  deriving DecidableEq, Repr

/-- The IP header of a frame as it leaves (R357, R358, R360): the family, addresses, DSCP above the two ECN bits, TTL or Hop Limit, the
protocol, the header checksum of IPv4, and the UDP ports and checksum. -/
structure IpHead where
  v6 : Bool
  src : Nat
  dst : Nat
  tos : Nat
  hops : Nat
  proto : Nat
  headSum : Option Nat
  udp : Option (Nat × Nat × Nat)
  deriving DecidableEq, Repr

/-- A frame that has left: the frame, the VLAN it is tagged with if any (Table 10-4), and its IP header if it has one. -/
structure Wire where
  frame : TxFrame
  vid : Option Nat
  ip : Option IpHead
  deriving DecidableEq, Repr

/-- A port test under way (R629): its settings, frames sent, echoes received and those with a payload error, and the least, sum
and greatest round trip in ns. -/
structure PortTest where
  len : Nat
  rate : Nat
  secs : Nat
  dest : Nat
  sent : Nat
  echoes : Nat
  errs : Nat
  least : Nat
  sum : Nat
  most : Nat
  deriving DecidableEq, Repr

/-- A network port beside its registers: its transmit queues while it holds them, the hello clock, the traffic it judges
(bytes sent and received, this tick and the ticks of its window), a width request and a width change under way, a park
under way, its neighbour table and the addresses it has asked for, its port test, the events it emitted in this tick, and the delay of
its link in ns as measured last (R366). -/
structure NPort where
  queued : List TxFrame
  held : Bool
  lastHello : Nat
  txNow : Nat
  rxNow : Nat
  txWin : List Nat
  rxWin : List Nat
  lastRx : Nat
  asked : Option (Nat × Nat × Nat)
  change : Option (Nat × Nat)
  parking : Option Nat
  unparking : Bool
  neighbours : Tab (Nat × Nat)
  soliciting : List Nat
  echoes : Nat
  skewTick : Option Nat
  events : List Nat
  test : Option PortTest
  fecUnc : Nat
  reqSeq : Nat
  txBytes : Nat
  rxBytes : Nat
  peerDelay : Int
  deriving DecidableEq, Repr

/-- A port with nothing sent, received or asked. -/
def NPort.init : NPort :=
  { queued := [], held := false, lastHello := 0, txNow := 0, rxNow := 0, txWin := [], rxWin := [], lastRx := 0, asked := none,
    change := none, parking := none, unparking := false, neighbours := [], soliciting := [], echoes := 0, skewTick := none,
    events := [], test := none, fecUnc := 0, reqSeq := 0, txBytes := 0, rxBytes := 0, peerDelay := 0 }

/-! ## Gnoxel channels (11_gnoxel_transport.md) -/

/-- Who a send or a posted buffer answers to: a descriptor, or an engine of the module with a word of its own (0 dispatch,
1 tier, 2 collective, 3 checkpoint, 4 cluster control). -/
inductive GnxOwner where
  | desc (d : DRef)
  | engine (e key : Nat)
  deriving DecidableEq, Repr

/-- A posted buffer: its TAG, place and length, the MSN bound to it, whether the peer knows of it, and its owner. -/
structure GnxBuf where
  tag : Nat
  pva : Nat
  len : Nat
  bound : Option Nat
  announced : Bool
  owner : GnxOwner
  deriving DecidableEq, Repr

/-- A message being received (R392 to R395): the tag of its buffer, the offsets placed with their lengths, its fixed
length, and the violation that ended it. -/
structure RxMsg where
  msn : Nat
  tag : Nat
  placed : List (Nat × Nat)
  fixed : Option Nat
  ended : Option Nat
  deriving DecidableEq, Repr

/-- A send (R390, R391): its MSN, its bytes (held by an engine, or read from pva), the offset to send next, the
offsets acknowledged, those to resend (with the resends so far and the path that lost it), those a NAK refused (with the
tick and the resends so far), and its owner. -/
structure TxMsg where
  msn : Nat
  pva : Nat
  len : Nat
  data : Option (List Byte)
  started : Bool
  next : Nat
  acked : List Nat
  again : List (Nat × Nat × Nat)
  refused : List (Nat × Nat × Nat)
  owner : GnxOwner
  deriving DecidableEq, Repr

/-- A packet in flight: PSN, message, offset, path, tick sent, and how often its range has been resent. -/
structure Flight where
  psn : Nat
  msn : Nat
  offset : Nat
  path : Nat
  tick : Nat
  tries : Nat
  deriving DecidableEq, Repr

/-- A violation found and not yet acknowledged (R407): its code, MSN, OFFSET, the PKEY received, and how often it went out. -/
structure GnxViol where
  code : Nat
  msn : Nat
  offset : Nat
  pkey : Nat
  scid : Nat
  psn : Nat
  src : Nat
  path : Nat
  count : Nat
  deriving DecidableEq, Repr

/-- A Gnoxel channel (Tables 11-4 and 11-5): its ends and settings, its state (1 pending, 2 established, 3 closing), the
cumulative counts of both directions, what is posted, sending, in flight and being received, and its rate control. -/
structure Chan where
  gen : Nat
  part : Nat
  peerPart : Nat
  queue : Nat
  mode : Nat
  enc : Bool
  kslot : Nat
  key : Nat
  npath : Nat
  grantTick : Nat
  pkey : Nat
  peerIp : Nat
  state : Nat
  version : Nat
  opener : Option GnxOwner
  order : Nat
  nonce : Nat
  peerNonce : Nat
  peerCid : Nat
  peerLo : Nat
  peerHi : Nat
  ackSent : Bool
  ackSeen : Bool
  addrs : List Nat
  withdrawn : List Nat
  maxPay : Nat
  posted : Nat
  consumed : Nat
  returned : Nat
  msgStart : Nat
  msgDone : Nat
  granted : Nat
  grantSeen : Nat
  used : Nat
  expired : Nat
  slotTick : Nat
  slotGranted : Nat
  slotSeen : Nat
  slotSeenTick : Nat
  slotNext : Option (Nat × Nat)
  grantLeft : Nat
  peerPosted : Nat
  peerRet : Nat
  sends : List TxMsg
  nextMsn : Nat
  nextPsn : Nat
  cumAcked : Nat
  flights : List Flight
  nextPath : Nat
  rest : Tab Nat
  bufs : List GnxBuf
  taken : List GnxBuf
  msgs : List RxMsg
  rcvLow : Nat
  doneMsns : List Nat
  cumPsn : Nat
  seen : List Nat
  rcvBytes : Nat
  ceBytes : Nat
  sinceAck : Nat
  ctlPsn : Nat
  peerCtl : Nat
  rate : Nat
  alpha : Nat
  clean : Nat
  step : Nat
  peerRcv : Nat
  peerCe : Nat
  lastRcv : Nat
  lastCe : Nat
  timedOut : Bool
  budget : Nat
  srtt : Nat
  retx : Nat
  viols : List GnxViol
  violTick : Option Nat
  stopped : Bool
  closeTick : Nat
  pathAcked : Tab (Nat × Nat)
  deriving DecidableEq, Repr

/-- The network side of the module: its ports, whether a boundary has passed since the module seal was set (R353), the frames sent (the model's own record of what left), cluster time in
nanoseconds at the last boundary or whole second, the packets that a hub's fabric stop in reset holds (those to send, and those received),
the channels, the generations of the CIDs, the sends of engines that
ended otherwise than acknowledged (engine, key, status), and the former channels of a warm reset by CID. -/
structure NetState where
  ports : Tab NPort
  sealPassed : Bool
  sent : List Wire
  now : Nat
  heldTx : List TxFrame
  heldRx : List GnxIn
  chans : Tab Chan
  gens : Tab Nat
  nextOrder : Nat
  ends : List (Nat × Nat × Nat)
  former : List (Nat × Chan)
  deriving DecidableEq, Repr

/-! ## Expert dispatch (07_index_and_dispatch.md) -/

/-- A router record on its way to the dispatch engine (Table 5-5): the core whose grain formed it, its token, context,
valid counts, BAD, and its (EXPERT, GATEV) entries. -/
structure RouterRec where
  part : Nat
  core : Nat
  token : Nat
  dctx : Nat
  nsel : Nat
  next : Nat
  bad : Bool
  entries : List (Nat × Nat)
  deriving DecidableEq, Repr
/-- A sending bank of a context (R252 to R261): its round, the tick it opened in, its records by token, its phase
(0 collecting, 1 sent, 2 closed), the tick its sends were handed over, its assignment entries by slot (Table 7-7, 128
bits), the tokens its passes took (R265), and its counts in the order of Table 7-9 (records to lost in transit). -/
structure SendBank where
  round : Nat
  opened : Nat
  recs : Tab RouterRec
  phase : Nat
  sentTick : Nat
  asg : Tab Nat
  assigned : Nat
  counts : List Nat
  deriving DecidableEq, Repr

/-- A receiving bank of a context (R257, R258): its round, the tick of its first message, whether it is closed, the TOTAL
of each source that sent LAST, the rows counted from each source, the rows placed by (LEXP, SRC), the header (token,
choice) of each placed row, and the sources whose rows the local path brought. -/
structure RecvBank where
  round : Nat
  first : Nat
  closed : Bool
  totals : Tab Nat
  counted : Tab Nat
  counts : Tab Nat
  hdrs : Tab (Nat × Nat)
  received : Nat
  deriving DecidableEq, Repr

/-- A dispatch context (Table 7-5): its image, its channels, the rounds opened, its banks by parity, RX_NEXT and the rounds
closed at or above it, the messages held with the channel their buffer belongs to (R254), refused records and late
messages since the last close, the rows of each source placed, late and refused, the round and the rows received of the last receive
round closed in each bank, and the sums of the step report. -/
structure DispCtx where
  img : Nat
  chans : List Nat
  rounds : Nat
  send : Tab SendBank
  recv : Tab RecvBank
  rxNext : Nat
  closedRounds : List Nat
  held : List (Option (Nat × GnxBuf) × List Byte)
  oor : Nat
  dup : Nat
  late : Nat
  srcs : Tab (Nat × Nat × Nat)
  got : Tab (Nat × Nat)
  stepRounds : Nat
  stepCounts : List Nat
  releasing : Option DRef
  deriving DecidableEq, Repr

/-! ## Collectives (12_collectives_and_steps.md) -/

/-- A member of a group (Table 12-2): its channel, node and peer-to-peer place; the ring slots sent and acknowledged, those
taken here, the slots not yet acknowledged (SEQ, entry key, message), those waiting for a slot, the tick its acknowledgement
last moved, and whether it fell back to Gnoxel (R421, R508). -/
structure CollMember where
  chan : Nat
  node : Nat
  p2p : Bool
  port : Nat
  addr : Nat
  sent : Nat
  acked : Nat
  taken : Nat
  flight : List (Nat × Nat × List Byte)
  queue : List (Nat × List Byte)
  moved : Nat
  fallback : Bool
  deriving DecidableEq, Repr

/-- A collective group (Table 12-2). -/
structure CollGroup where
  n : Nat
  repl : Nat
  self : Nat
  bufLog : Nat
  ringSlots : Nat
  ringLog : Nat
  pool : Nat
  ring : Nat
  members : List CollMember
  releasing : Option DRef
  deriving DecidableEq, Repr

/-- A contribution to a sheaf (R426, R427): its source and step, the bytes of its parts by their offset, the buffers that
hold them, and the tick it completed in. -/
structure Contrib where
  src : Nat
  step : Nat
  parts : Tab (List Byte)
  bufs : List (Nat × GnxBuf)
  done : Option Nat
  deriving DecidableEq, Repr

/-- A close under way (R427 to R430): its step and tick, its RFLAGS, this member's map (PRES_MAP, then LATE_MAP of 1 to 8),
what has been reported of its waiting, and the agreed maps once final, with the CHAFF_MAP of its decisions. -/
structure SheafClose where
  step : Nat
  tick : Nat
  rflags : Nat
  own : List Nat
  toldMaps : Bool
  toldBank : Bool
  final : Option (List Nat)
  chaff : Nat
  deriving DecidableEq, Repr

/-- A sheaf (Table 12-5): its image, the contributions held, the last step closed, the expected contributions not yet decided
(step, rank), the close under way, the step that holds each bank, the maps of the other replicas (by 2 x rank + parity of
the step: step, whether marked complete, map), and the map this member has sent for a step before its close. -/
structure Sheaf where
  group : Nat
  cfmt : Nat
  nElem : Nat
  expMask : Nat
  anchor : Nat
  decay : Nat
  resPva : Nat
  corrPva : Nat
  recPva : Nat
  contribs : List Contrib
  closed : Option Nat
  undecided : List (Nat × Nat)
  close : Option SheafClose
  banks : Tab Nat
  maps : Tab (Nat × Bool × List Nat)
  early : Option (Nat × List Nat)
  releasing : Option DRef
  deriving DecidableEq, Repr

/-- A collective list (Table 12-4): its entries of 512 bits. -/
structure CollList where
  entries : List Nat
  releasing : Option DRef
  deriving DecidableEq, Repr

/-- A list entry in a step run: whether it has begun, whether it has failed, the pieces it still awaits with the bytes placed
of each (offset, length), the messages sent and not yet acknowledged, and whether POST_SIG and SENT_SIG have been posted. -/
structure EntryRun where
  run : Nat
  idx : Nat
  begun : Bool
  failed : Bool
  need : List Nat
  parts : Tab (List (Nat × Nat))
  unsent : Nat
  posted : Bool
  sentDone : Bool
  deriving DecidableEq, Repr

/-- An activation ledger (Table 12-9): its place, its entries of 256 bits, the state of each in the running step (0 not
written, 1 live, 2 freed, 3 fault), and the peak of its live bytes. -/
structure ActLedger where
  pva : Nat
  entries : List Nat
  states : Tab Nat
  peak : Nat
  releasing : Option DRef
  deriving DecidableEq, Repr

/-- A filler list (Table 12-1, 0x4A): its host, its grains still pending by number, those running, and its withdrawal. -/
structure FillerList where
  desc : DRef
  host : Nat
  pva : Nat
  stat : Nat
  srStep : Nat
  grains : Tab Nat
  running : List Nat
  withdrawn : Option DRef
  deriving DecidableEq, Repr

/-- An entry of a shard map of a permute: start, length and rank. -/
structure PermRange where
  start : Nat
  len : Nat
  rank : Nat
  deriving DecidableEq, Repr

/-- A permute under way (R439 to R442): its group, place and maps, the digest of the maps and the ranks that agreed, the
leaves a READY was sent for and those one came for, the leaves in scratch (with their slot there), the digests formed, the
leaves sent (with the mismatches answered), those verified at their new places as sender and as receiver, the parts placed
of leaves coming in, the mismatches found, and the ranks that are done. -/
structure Permute where
  desc : DRef
  group : Nat
  self : Nat
  tensor : Nat
  region : Nat
  scratchPva : Nat
  scratchMax : Nat
  total : Nat
  blkPva : Nat
  old : List PermRange
  new : List PermRange
  mapDig : Nat
  agreed : List Nat
  started : Bool
  asked : List Nat
  ready : List Nat
  scratch : Tab Nat
  digs : Tab Nat
  sent : Tab Nat
  sentOk : List Nat
  gotOk : List Nat
  parts : Tab (List (Nat × Nat))
  bad : Tab Nat
  doneFrom : List Nat
  deriving DecidableEq, Repr

/-- The collective side of a partition: groups, sheaves, lists and ledgers by plan, the entries of the running step, filler
lists, the permute, map digests that came before it (by 64 x group + rank), the contributions decided by the closes of steps not yet committed,
and the chaff ring. -/
structure PColl where
  groups : Tab CollGroup
  sheaves : Tab Sheaf
  lists : Tab CollList
  ledgers : Tab ActLedger
  runs : List EntryRun
  fillers : List FillerList
  permute : Option Permute
  permEarly : Tab Nat
  decided : Tab Nat
  chaffN : Nat
  chaffPva : Nat
  deriving DecidableEq, Repr

/-! ## Long-run continuity (13_continuity.md) -/

/-- A member entry of a job image (Table 13-2). -/
structure JobMember where
  modId : Nat
  addr : Nat
  domain : Nat
  buddy0 : Option Nat
  buddy1 : Option Nat
  role : Nat
  part : Nat
  deriving DecidableEq, Repr

/-- A job as a member holds it: its image, the active ranks, the agreed cluster-control version, the tick each rank was last
heard in and what it reported (COMMIT, CKJOB), the ranks excused until a tick (R493), the proposal accepted last (epoch,
proposer, mask) with the ranks that accepted it, what has been received (READY: rank, step, epoch; ROOTS: step, rank, shard, root;
CKDONE: rank, step), the ranks asking to join, the version ranges the members stated, the tick of the last RENEW, the step after which it pauses (R493), the members that answered this module's own PAUSE, the restart of
this module's own firmware under way, a JOIN still to be sent after a restart, and a leave that waits. -/
structure Job where
  n : Nat
  self : Nat
  anchor : Nat
  jobId : Nat
  members : List JobMember
  active : List Nat
  version : Nat
  heard : Tab Nat
  reports : Tab (Nat × Nat)
  excused : Tab Nat
  accepted : Option (Nat × Nat × Nat)
  accepts : List Nat
  readies : List (Nat × Nat × Nat)
  roots : List (Nat × Nat × Nat × Nat)
  ckdone : List (Nat × Nat)
  joined : List Nat
  stated : Tab (Nat × Nat)
  lastRenew : Nat
  pauseAt : Option Nat
  pauseAcks : List Nat
  restarting : Bool
  joinOwed : Bool
  leaving : Option DRef
  deriving DecidableEq, Repr

/-- A buddy and its two slots (Table 13-1, 0x52): its rank, channel and lend, the step each slot holds complete, the leaf
digests each slot last received (by 2 x offset + slot), and, while a checkpoint is written to it, the slot, the tags of the
messages whose status is awaited, the leaves written and whether a status failed. -/
structure Buddy where
  rank : Nat
  chan : Nat
  lend : Nat
  steps : Tab Nat
  digests : Tab (List Nat)
  slot : Nat
  waiting : List Nat
  leaves : Nat
  failed : Bool
  deriving DecidableEq, Repr

/-- A checkpoint in progress (R486 to R488): its step, the shards at its commit with their numbers, the promotion-list entries
at rest (plan, entry, bulk read), whether everything has been read and sent, and the checkpoint takes it serves. -/
structure Ckpt where
  step : Nat
  takes : List DRef
  shards : List (Nat × Shard)
  rest : List (Nat × Nat × Nat)
  sent : Bool
  deriving DecidableEq, Repr

/-- A restore under way (R491, R492): what it serves, the rank and target step, the shard images to register (number, image),
where the cursor goes, the buddies left to try, the channel and lend being read with the slot's base, whether the manifest
has come, the chunks awaited (tag, offset), the bytes that came by offset, the manifest, and the sets read from a copy of the same
checkpoint that failed a check. -/
structure Restore where
  desc : Option DRef
  rollback : Bool
  rank : Nat
  target : Nat
  list : List (Nat × List Byte)
  outPva : Nat
  tries : List Nat
  chan : Nat
  lend : Nat
  base : Nat
  gotMan : Bool
  wait : List (Nat × Nat)
  got : Tab (List Byte)
  man : List Byte
  kept : List (List Byte)
  deriving DecidableEq, Repr

/-- A step that ended without commit and may be replayed (R471): its number, plan, and update grains. -/
structure FailedStep where
  stepNo : Nat
  plan : Nat
  updates : List Grain
  deriving DecidableEq, Repr

/-- A differing leaf under comparison (R468, R469): the leaf, a replica's rank, its digest and whether it holds evidence. -/
structure LeafDiff where
  leaf : Nat
  rank : Nat
  digest : Nat
  evidence : Bool
  deriving DecidableEq, Repr

/-- A comparison of a shard's trees under way (R468): whether this member has begun it, the
nodes that have come and those still awaited (rank, level, first), and the differing leaves found. -/
structure Compare where
  begun : Bool
  seen : List (Nat × Nat × Nat)
  expect : List (Nat × Nat × Nat)
  diffs : List LeafDiff
  deriving DecidableEq, Repr

/-- The continuity side of a partition: its job, the buddies and slot length, a checkpoint set that waits for the lenders'
statuses (tags awaited), the cursor, pending checkpoint takes, the checkpoint in progress, its manifests of the last two
checkpoints by step, a restore, the step that may be replayed, the shards under comparison, the rounds of replay by shard,
and the cores with evidence in this step. -/
structure PCont where
  job : Option Job
  buddies : List Buddy
  slotLen : Nat
  setting : Option (DRef × List Buddy × Nat × List Nat)
  cursor : List Byte
  takes : List DRef
  ckpt : Option Ckpt
  mans : Tab (List Byte)
  restore : Option Restore
  failed : Option FailedStep
  compares : Tab Compare
  rounds : Tab Nat
  evidence : List Nat
  deriving DecidableEq, Repr

/-- A finished grain of a core's replay window (R473): the grain, its part, whether it was a Tarn writer, an operand load,
and whether it completed after the latest spill point. -/
structure Done where
  grain : Grain
  part : Nat
  desc : Nat
  writer : Bool
  load : Bool
  fresh : Bool
  deriving DecidableEq, Repr


/-! ## Management (15_partitions_security.md) -/

/-- What the management controller has sent, as the model's own record: a function's reply with the clamp records it produced
(R573), what a wrapper instruction returned (Table 8-7), and signed or unsigned records: 1 attestation report, 2 scrub record,
3 telemetry record, 4 the calibration set, each to the sessions named; a grain of a trace, and a sampled request (Table 15-3). -/
inductive MgmtOut where
  | reply (sess fn status : Nat) (words : List Nat) (clamps : List Rec)
  | wrapper (stack code : Nat) (words : List Nat)
  | record (kind : Nat) (sessions : List Nat) (bytes : List Byte) (signature : Nat)
  | trace (sess part core gid unit tick ofs cycles : Nat)
  | sample (sess pva : Nat)
  deriving DecidableEq, Repr

/-- A management session (R571, R572, R577): whether it came in with the claim code, the credential it authenticated with, and
whether it subscribes to telemetry. -/
structure Session where
  claim : Bool
  cred : Nat
  subscribed : Bool
  deriving DecidableEq, Repr

/-- A firmware image in module flash (R567 to R569): whether it verifies, its SVN, its version, and the SHA3-512 digests of its
stages for MR0 to MR3. -/
structure FwImage where
  good : Bool
  svn : Nat
  major : Nat
  minor : Nat
  build : Nat
  stages : List Nat
  deriving DecidableEq, Repr

/-- What a scrub record says of the life scrubbed (Table 15-5): its partition, the tick stage 1 began, GEN, CONF, its cores, its
ledger energy and its extents in GiB. -/
structure CutScrub where
  part : Nat
  begin : Nat
  gen : Nat
  conf : Bool
  cores : Nat
  ledger : Nat
  extents : List (Nat × Nat)
  deriving DecidableEq, Repr

/-- A teardown in progress, kept in module flash (R557, R562): its stage, the tick stage 1 began at, and, once its record has been
issued incomplete, the stacks whose part of the scrub is held and what the second record will say (R559). -/
structure Teardown where
  stage : Nat
  begin : Nat
  held : List Nat
  rest : Option CutScrub
  deriving DecidableEq, Repr

/-- The items of the calibration set that have been written (Table 16-3); an item that is not listed has its factory value:
gain bits and offset of a current-sense channel, a sensor's offset in 0.25 °C, a lane's preset and seed, a channel's DRAM
seed, and a power-model coefficient as binary32 bits. -/
structure Calib where
  sense : Tab (Nat × Int)
  thermal : Tab Int
  presets : Tab (Nat × Nat)
  seeds : Tab Nat
  coeffs : Tab Nat
  deriving DecidableEq, Repr

/-- The management side: sessions, enrolled credentials by index (their digests), the two images, settings that wait for the
next cold reset (0 set-up port, 1 and 2 CXL_OFFER of the ports, 3 to 10 MAC addresses, 11 MAINT_VID), teardowns in progress,
scrub records kept, those owed after a cold reset, the calibration set, telemetry kept (the last 64 records and record 0 while
unread), TSEQ and where its span began (tick, EIN), the trace and the sampling under way with their session, the confidential
partitions a warm reset scrubs, and what has been sent; the requests counted for the sampling, whether the next boot starts the
other image, and whether an activation waits for its job to pause (R493). -/
structure MgmtState where
  sessions : Tab Session
  creds : Tab Nat
  images : Tab FwImage
  setup : Tab Nat
  tears : Tab Teardown
  scrubs : List (List Byte)
  cut : List CutScrub
  cal : Calib
  records : List (Nat × List Byte)
  first : Option (List Byte)
  tseq : Nat
  spanTick : Nat
  spanEin : Nat
  trace : Option (Nat × Nat)
  sampling : Option (Nat × Nat × Nat)
  warmScrubs : Tab Nat
  sent : List MgmtOut
  sampled : Nat
  switchImage : Bool
  pausing : Bool
  deriving DecidableEq, Repr

/-! ## Power and heat (16_power_thermal.md) -/

/-- The supply monitor, the cap controller, the thermal laws and the ledger beside their registers: 10 µs sensor rounds so far,
the dips of the last 60 s by round, the lowest VIN of the dip, the restore boundaries left after a supply clear and after a
critical temperature (R584, R602), the zones' die and hub limits, whether the fast limiter has acted in this tick, the estimates
(e_row by 16 x core + phase and e_base, in units of 2^-32 µJ; one that is not listed stands at its coefficient), last_served,
the limits granted for the next interval and those latched (64 where not listed) with the partitions capped in it, each core's
last phase, e_in of the last closed interval and
its first-order remainders (R10), the tick of each partition's last capped event, whether work has been done since the last
boundary, the ticks without work, and those in Idle. -/
structure PowerState where
  rounds : Nat
  dips : List Nat
  vlow : Nat
  rSupply : Nat
  rCrit : Nat
  ld : Tab Nat
  lhub : Tab Nat
  fast : Bool
  unreach : Bool
  eRow : Tab Int
  eBase : Option Int
  lastServed : Nat
  next : Tab Nat
  latched : Tab Nat
  capped : List Nat
  phases : Tab Nat
  einPrev : Nat
  rests : Tab Nat
  cappedAt : Tab Nat
  recal : Bool
  worked : Bool
  quiet : Nat
  idleFor : Nat
  deriving DecidableEq, Repr

/-! ## Reset and maintenance (17_reset_and_startup.md, 18_module_hardware.md) -/

/-- What a maintenance activity does once it is granted: repair access, a port test and lane margining with their settings and clamp
records, a calibration write, a firmware load, an activation, a teardown scrub, a debug window; each with its session. -/
inductive ActWork where
  | repair
  | portTest (sess len rate secs dest : Nat) (clamps : List Rec)
  | margining (sess secs : Nat) (clamps : List Rec)
  | calibration (sess : Nat) (items : List CalItem)
  | load (sess : Nat) (image : FwImage)
  | activate (sess : Nat)
  | scrub
  | debug (sess minutes : Nat) (clamps : List Rec)
  deriving DecidableEq, Repr

/-- An activity of the maintenance arbiter (R631, Table 17-9): its column, the stack, port or partition it names, and its work. -/
structure Activity where
  col : Nat
  res : Nat
  work : ActWork
  deriving DecidableEq, Repr

/-- A block in reset (R625, R626): whether its 1 ms of drain has ended and the descriptors that ended with 0xE2. -/
structure BlockReset where
  drained : Bool
  ended : Nat
  deriving DecidableEq, Repr

/-- The reset controller: a reset under way (whether cold, its first source, the sources seen, whether it escalated), the
domains released so far of the five after the always-on domain (5: no reset), whether the memory domain has been asserted,
MOD_RESET_N, a brown-out source raised, power (input present, bulk charged, switch open, MOD_PWRGD), whether the module is Off
or in recovery, THERM_N and VWARN_N, the trip and the switch
opening kept in flash until reported, whether device memory has been zeroed and step 9 done, blocks in reset by block x 512 +
index, activities running and queued, the activities a reset ended, ticks without progress (R617) and whether anything has
progressed since the last boundary. -/
structure ResetState where
  cold : Bool
  src : Nat
  seen : Nat
  escal : Bool
  stage : Nat
  memIn : Bool
  pinLow : Bool
  brown : Bool
  powered : Bool
  charged : Bool
  switchOpen : Bool
  pwrgd : Bool
  off : Bool
  recovery : Bool
  thermN : Bool
  vwarnN : Bool
  trip : Option (Nat × Nat × Nat)
  switched : Option (Nat × Nat)
  ready : Bool
  blocks : Tab BlockReset
  running : List Activity
  queue : List Activity
  ended : List Activity
  stuck : Nat
  progress : Bool
  deriving DecidableEq, Repr

/-! ## The whole -/

/-- One partition, as the module holds it beside its registers. -/
structure PartState where
  rt : Tab RtEntry
  rtNext : Tab RtEntry
  rtWait : List DRef
  keys : Tab Nat
  sharedExt : Tab Nat
  cad : PCad
  tier : PTier
  stalls : Tab Nat
  shards : Tab Shard
  dctx : Tab DispCtx
  coll : PColl
  cont : PCont
  deriving DecidableEq, Repr

/-- A partition with nothing registered. -/
def PartState.init : PartState :=
  { rt := [],
    rtNext := [],
    rtWait := [],
    keys := [],
    sharedExt := [],
    cad := { signals := [], plans := [], steps := [], nextRun := 0, lastTick := none, lastStep := none, work := [], holds := [] },
    tier := { objs := [], promos := [], swaps := [], lends := [] },
    stalls := [],
    shards := [],
    dctx := [],
    coll := { groups := [], sheaves := [], lists := [], ledgers := [], runs := [], fillers := [], permute := none, permEarly := [], decided := [], chaffN := 0, chaffPva := 0 },
    cont := { job := none, buddies := [], slotLen := 0, setting := none, cursor := [], takes := [], ckpt := none, mans := [], restore := none, failed := none, compares := [], rounds := [], evidence := [] } }

/-- One logical core: its grain, its stores and its registers. -/
structure CoreState where
  fenced : Bool
  run : Option Running
  filler : Option Running
  tarn : Tab TarnRow
  spill : Tab TarnRow
  opStore : List Host.Cell
  vregs : List (List Nat)
  sregs : List Nat
  window : List Done
  spillTick : Option Nat
  asked : Bool
  lost : Bool
  rebuild : Bool
  step : Nat
  lastPart : Option Nat
  noFill : Bool
  oldSite : Nat
  deriving DecidableEq, Repr

/-- A core after reset: it runs nothing and its stores are empty. -/
def CoreState.init : CoreState :=
  { fenced := false,
    run := none,
    filler := none,
    tarn := [],
    spill := [],
    opStore := [],
    vregs := [],
    sregs := [],
    window := [],
    spillTick := none,
    asked := false,
    lost := false,
    rebuild := false,
    step := 0,
    lastPart := none,
    noFill := false,
    oldSite := 0 }


/-- The reasons the block could stop with a fault. The spec gives no condition that stops the block: every failure it
describes is recorded, answered or reported while the block goes on. So there is no constructor, nobody raises one, and
that is safe: nothing is hidden behind a stop. -/
inductive Fault where
  deriving DecidableEq, Repr

/-- The reasons a command has no meaning. -/
inductive Refusal where
  /-- Raised by the dispatch for a command the model gives no meaning; safe: no claim follows from a command that stops. -/
  | notModelled (mnemonic : String)
  deriving DecidableEq, Repr

/-- The PJ8 block. -/
structure State where
  pending : List Instr
  freeCtr : Nat
  regs : Tab Nat
  latches : Tab Nat
  out : List OutRec
  time : TimeState
  queues : Tab Queue
  parts : Tab PartState
  cores : Tab CoreState
  host : HostState
  mem : MemState
  tiers : TierState
  routers : List RouterRec
  net : NetState
  mgmt : MgmtState
  power : PowerState
  rst : ResetState
  deriving DecidableEq, Repr

/-- The module at the end of a cold start (Table 17-5, step 9): every register at its Reset value, every domain
released, nothing created, attached, bound, sealed or queued, and every byte of device memory zero (R623). The values
the spec does not state are those of notes/assumptions/3.md. -/
def State.reset : State :=
  { pending := [],
    freeCtr := 0,
    regs := [],
    latches := [],
    out := [],
    time := { placed := false, hasMaster := false, ppsMaster := false, failed := [], tickOut := false, beacons := [],
              pathDelay := 0, late := 0, awaitsFollow := false, seq := 0 },
    queues := [],
    parts := [],
    cores := [],
    host := { rings := [], gone := [], nextLife := 0, ports := [], mem := [], sealing := [], answer := .none },
    mem := { dram := [], written := [], poison := [], errs := [], mere := [], stackTab := [], held := [], tokens := [], drawn := [], lm := [], hits := [], misses := [], evid := [], shared := [], took := [], keyDraw := 0, gathers := [], answer := none },
    tiers := { gbuf := [], builds := [], asking := none, demand := [], reads := [], ops := [], nextOp := 0, msgs := [], nextTag := 0, intakes := [], bytes := [], hits := 0 },
    routers := [],
    net := { ports := [], sealPassed := false, sent := [], now := 0, heldTx := [], heldRx := [], chans := [], gens := [], nextOrder := 0, ends := [], former := [] },
    mgmt := { sessions := [], creds := [], images := [], setup := [], tears := [], scrubs := [], cut := [], cal := { sense := [], thermal := [], presets := [], seeds := [], coeffs := [] }, records := [], first := none, tseq := 0, spanTick := 0, spanEin := 0, trace := none, sampling := none, warmScrubs := [], sent := [], sampled := 0, switchImage := false, pausing := false },
    power := { rounds := 0, dips := [], vlow := 0, rSupply := 0, rCrit := 0, ld := [], lhub := [], fast := false, unreach := false, eRow := [], eBase := none, lastServed := 287, next := [], latched := [], capped := [], phases := [], einPrev := 0, rests := [], cappedAt := [], recal := false, worked := false, quiet := 0, idleFor := 0 },
    rst := { cold := true, src := 1, seen := 1, escal := false, stage := 5, memIn := false, pinLow := false, brown := false, powered := true, charged := true, switchOpen := false, pwrgd := true, off := false, recovery := false, thermN := true, vwarnN := true, trip := none, switched := none, ready := true, blocks := [], running := [], queue := [], ended := [], stuck := 0, progress := false } }

end Sys2Proof.Machine
end

