-- ==== Sys2Proof/Machine/Regs.lean ====
section
/-! DEFINITION. Every BAR0 register field of the PJ8, from the register tables of spec/ (Tables 1-9 to 17-7): its place,
width, access, reset value and clamp. A 64-bit counter of an L and an H half is one field of 64 bits at its L offset.
A reset value marked in notes/assumptions/3.md is the model's choice, because the table gives a word and no number. -/
namespace Sys2Proof.Machine

/-! Table 1-9. Partition window p at 0x0010_0000 + p x 0x0001_0000. -/

/-- EXT_BASE, Table 1-9. -/
def F.pExtBase : Fld := ⟨.part, 0x0200, 8, 16, 0, 18, .rwl, .const 0, .any⟩
/-- EXT_LEN, Table 1-9. -/
def F.pExtLen : Fld := ⟨.part, 0x0204, 8, 16, 0, 12, .rwl, .const 0, .any⟩
/-- RT_SIZE, Table 1-9. -/
def F.pRtSize : Fld := ⟨.part, 0x0280, 0, 1, 0, 11, .rwl, .const 256, .range 1 1024 0x1003⟩
/-- TR_FAULTS, Table 1-9. -/
def F.pTrFaults : Fld := ⟨.part, 0x0284, 0, 1, 0, 32, .ro, .const 0, .any⟩

/-- The fields of Table 1-9. -/
def F.t1_9_part : List Fld :=
  [F.pExtBase, F.pExtLen, F.pRtSize, F.pTrFaults]

/-! Table 1-10. Identity, seal and module security registers, BAR0 0x0000_0000. -/

/-- PRODUCT, Table 1-10. -/
def F.idProduct : Fld := ⟨.ident, 0x0000, 0, 1, 0, 16, .ro, .const 776, .any⟩
/-- VENDOR, Table 1-10. -/
def F.idVendor : Fld := ⟨.ident, 0x0000, 0, 1, 16, 16, .ro, .const 60316, .any⟩
/-- STEPPING, Table 1-10. -/
def F.idStepping : Fld := ⟨.ident, 0x0004, 0, 1, 0, 8, .ro, .const 1, .any⟩
/-- FW_BUILD, Table 1-10. -/
def F.idFwBuild : Fld := ⟨.ident, 0x0008, 0, 1, 0, 16, .ro, .const 0, .any⟩
/-- FW_MINOR, Table 1-10. -/
def F.idFwMinor : Fld := ⟨.ident, 0x0008, 0, 1, 16, 8, .ro, .const 0, .any⟩
/-- FW_MAJOR, Table 1-10. -/
def F.idFwMajor : Fld := ⟨.ident, 0x0008, 0, 1, 24, 8, .ro, .const 1, .any⟩
/-- HIF_MIN, Table 1-10. -/
def F.idHifMin : Fld := ⟨.ident, 0x000C, 0, 1, 0, 8, .ro, .const 16, .any⟩
/-- HIF_MAX, Table 1-10. -/
def F.idHifMax : Fld := ⟨.ident, 0x000C, 0, 1, 8, 8, .ro, .const 18, .any⟩
/-- GNX_MIN, Table 1-10. -/
def F.idGnxMin : Fld := ⟨.ident, 0x000C, 0, 1, 16, 8, .ro, .const 16, .any⟩
/-- GNX_MAX, Table 1-10. -/
def F.idGnxMax : Fld := ⟨.ident, 0x000C, 0, 1, 24, 8, .ro, .const 17, .any⟩
/-- CIF_MIN, Table 1-10. -/
def F.idCifMin : Fld := ⟨.ident, 0x0010, 0, 1, 0, 8, .ro, .const 16, .any⟩
/-- CIF_MAX, Table 1-10. -/
def F.idCifMax : Fld := ⟨.ident, 0x0010, 0, 1, 8, 8, .ro, .const 16, .any⟩
/-- ACTIVE, Table 1-10. -/
def F.idActive : Fld := ⟨.ident, 0x0014, 0, 1, 0, 9, .ro, .const 288, .any⟩
/-- RESERVE, Table 1-10. -/
def F.idReserve : Fld := ⟨.ident, 0x0014, 0, 1, 9, 6, .ro, .const 32, .any⟩
/-- FENCED, Table 1-10. -/
def F.idFenced : Fld := ⟨.ident, 0x0014, 0, 1, 15, 6, .ro, .const 0, .any⟩
/-- SITE, Table 1-10. -/
def F.idSite : Fld := ⟨.ident, 0x1000, 4, 288, 0, 9, .ro, .idx, .any⟩
/-- GROUP, Table 1-10. -/
def F.idGroup : Fld := ⟨.ident, 0x1000, 4, 288, 9, 6, .ro, .idxDiv 8, .any⟩
/-- SPANS, Table 1-10. -/
def F.idSpans : Fld := ⟨.ident, 0x1000, 4, 288, 15, 1, .ro, .const 0, .any⟩
/-- STATE, Table 1-10. -/
def F.idState : Fld := ⟨.ident, 0x1800, 4, 320, 0, 2, .ro, .siteState, .any⟩
/-- LCORE, Table 1-10. -/
def F.idLcore : Fld := ⟨.ident, 0x1800, 4, 320, 2, 9, .ro, .siteCore, .any⟩

/-- The fields of Table 1-10. -/
def F.t1_10_ident : List Fld :=
  [F.idProduct, F.idVendor, F.idStepping, F.idFwBuild, F.idFwMinor, F.idFwMajor,
   F.idHifMin, F.idHifMax, F.idGnxMin, F.idGnxMax, F.idCifMin, F.idCifMax,
   F.idActive, F.idReserve, F.idFenced, F.idSite, F.idGroup, F.idSpans,
   F.idState, F.idLcore]

/-! Table 2-1. Cadence registers, BAR0 0x0048_0000. -/

/-- TICK_LEN, Table 2-1. -/
def F.cadTickLen : Fld := ⟨.cad, 0x0000, 0, 1, 0, 10, .rwl, .const 50, .range 10 500 0x0101⟩
/-- EPOCH_SL, Table 2-1. -/
def F.cadEpochSl : Fld := ⟨.cad, 0x0004, 0, 1, 0, 32, .rwl, .const 0, .any⟩
/-- EPOCH_SH, Table 2-1. -/
def F.cadEpochSh : Fld := ⟨.cad, 0x0008, 0, 1, 0, 16, .rwl, .const 0, .any⟩
/-- EPOCH_NS, Table 2-1. -/
def F.cadEpochNs : Fld := ⟨.cad, 0x000C, 0, 1, 0, 30, .rwl, .const 0, .range 0 999999999 0x0102⟩
/-- PTP_PORT, Table 2-1. -/
def F.cadPtpPort : Fld := ⟨.cad, 0x0010, 0, 1, 0, 3, .rwl, .const 0, .any⟩
/-- PTP_ALT, Table 2-1. -/
def F.cadPtpAlt : Fld := ⟨.cad, 0x0010, 0, 1, 3, 3, .rwl, .const 4, .any⟩
/-- PPS_EN, Table 2-1. -/
def F.cadPpsEn : Fld := ⟨.cad, 0x0010, 0, 1, 6, 1, .rwl, .const 0, .any⟩
/-- GM_ALLOW, Table 2-1. -/
def F.cadGmAllow : Fld := ⟨.cad, 0x0010, 0, 1, 7, 1, .rwl, .const 0, .any⟩
/-- PROFILE, Table 2-1. -/
def F.cadProfile : Fld := ⟨.cad, 0x0010, 0, 1, 8, 2, .rwl, .const 0, .enc 0 1 0 0x0105⟩
/-- DOMAIN, Table 2-1. -/
def F.cadDomain : Fld := ⟨.cad, 0x0010, 0, 1, 16, 7, .rwl, .const 0, .any⟩
/-- TICKOUT, Table 2-1. -/
def F.cadTickout : Fld := ⟨.cad, 0x0014, 0, 1, 0, 2, .rwl, .const 0, .enc 0 2 0 0x0105⟩
/-- HOLDOVER, Table 2-1. -/
def F.cadHoldover : Fld := ⟨.cad, 0x0018, 0, 1, 0, 14, .rwl, .const 1000, .range 0 10000 0x0103⟩
/-- HANG_TICKS, Table 2-1. -/
def F.cadHangTicks : Fld := ⟨.cad, 0x001C, 0, 1, 0, 8, .rwl, .const 16, .range 2 255 0x0104⟩
/-- STATE, Table 2-1. -/
def F.cadState : Fld := ⟨.cad, 0x0020, 0, 1, 0, 2, .ro, .const 0, .any⟩
/-- SRC, Table 2-1. -/
def F.cadSrc : Fld := ⟨.cad, 0x0020, 0, 1, 2, 1, .ro, .const 0, .any⟩
/-- PORT_NOW, Table 2-1. -/
def F.cadPortNow : Fld := ⟨.cad, 0x0020, 0, 1, 3, 3, .ro, .const 0, .any⟩
/-- OFFSET, Table 2-1. -/
def F.cadOffset : Fld := ⟨.cad, 0x0024, 0, 1, 0, 32, .ro, .const 0, .any⟩
/-- TICK_NOW, Table 2-1. -/
def F.cadTickNow : Fld := ⟨.cad, 0x0028, 0, 1, 0, 64, .ro, .const 0, .any⟩
/-- GRAIN_MAX, Table 2-1. -/
def F.cadGrainMax : Fld := ⟨.cad, 0x0030, 0, 1, 0, 20, .ro, .const 88200, .any⟩
/-- BCN_SKEW, Table 2-1. -/
def F.cadBcnSkew : Fld := ⟨.cad, 0x0034, 0, 1, 0, 32, .ro, .const 0, .any⟩

/-- The fields of Table 2-1. -/
def F.t2_1_cad : List Fld :=
  [F.cadTickLen, F.cadEpochSl, F.cadEpochSh, F.cadEpochNs, F.cadPtpPort, F.cadPtpAlt,
   F.cadPpsEn, F.cadGmAllow, F.cadProfile, F.cadDomain, F.cadTickout, F.cadHoldover,
   F.cadHangTicks, F.cadState, F.cadSrc, F.cadPortNow, F.cadOffset, F.cadTickNow,
   F.cadGrainMax, F.cadBcnSkew]

/-! Table 2-7. Partition window p at 0x0010_0000 + p x 0x0001_0000. -/

/-- RUNAHEAD, Table 2-7. -/
def F.pRunahead : Fld := ⟨.part, 0x0300, 0, 1, 0, 2, .rwl, .const 1, .range 0 2 0x0106⟩
/-- OVR_COUNT, Table 2-7. -/
def F.pOvrCount : Fld := ⟨.part, 0x0304, 0, 1, 0, 32, .ro, .const 0, .any⟩
/-- BUDX_COUNT, Table 2-7. -/
def F.pBudxCount : Fld := ⟨.part, 0x0308, 0, 1, 0, 32, .ro, .const 0, .any⟩
/-- STEP_LO, Table 2-7. -/
def F.pStepLo : Fld := ⟨.part, 0x030C, 0, 1, 0, 32, .ro, .const 0, .any⟩
/-- STEPQ, Table 2-7. -/
def F.pStepq : Fld := ⟨.part, 0x0310, 0, 1, 0, 3, .ro, .const 0, .any⟩

/-- The fields of Table 2-7. -/
def F.t2_7_part : List Fld :=
  [F.pRunahead, F.pOvrCount, F.pBudxCount, F.pStepLo, F.pStepq]

/-! Table 3-16. Partition window p at 0x0010_0000 + p x 0x0001_0000. -/

/-- SR_SEED_L, Table 3-16. -/
def F.pSrSeedL : Fld := ⟨.part, 0x0400, 0, 1, 0, 32, .rwl, .const 0, .any⟩
/-- SR_SEED_H, Table 3-16. -/
def F.pSrSeedH : Fld := ⟨.part, 0x0404, 0, 1, 0, 32, .rwl, .const 0, .any⟩
/-- FLAG_EVT, Table 3-16. -/
def F.pFlagEvt : Fld := ⟨.part, 0x0408, 0, 1, 0, 4, .rwl, .const 0, .any⟩
/-- DEF_RM, Table 3-16. -/
def F.pDefRm : Fld := ⟨.part, 0x0408, 0, 1, 4, 2, .rwl, .const 0, .enc 0 1 0 0x1005⟩
/-- FL_MTX, Table 3-16. -/
def F.pFlMtx : Fld := ⟨.part, 0x040C, 0, 1, 0, 4, .ro, .const 0, .any⟩
/-- FL_VEC, Table 3-16. -/
def F.pFlVec : Fld := ⟨.part, 0x040C, 0, 1, 4, 4, .ro, .const 0, .any⟩
/-- FL_INTK, Table 3-16. -/
def F.pFlIntk : Fld := ⟨.part, 0x040C, 0, 1, 8, 4, .ro, .const 0, .any⟩
/-- FL_CRU, Table 3-16. -/
def F.pFlCru : Fld := ⟨.part, 0x040C, 0, 1, 12, 4, .ro, .const 0, .any⟩
/-- RETRY_CNT, Table 3-16. -/
def F.pRetryCnt : Fld := ⟨.part, 0x0410, 0, 1, 0, 32, .ro, .const 0, .any⟩

/-- The fields of Table 3-16. -/
def F.t3_16_part : List Fld :=
  [F.pSrSeedL, F.pSrSeedH, F.pFlagEvt, F.pDefRm, F.pFlMtx, F.pFlVec,
   F.pFlIntk, F.pFlCru, F.pRetryCnt]

/-! Table 4-9. Partition window p at 0x0010_0000 + p x 0x0001_0000. -/

/-- FEED_DEPTH, Table 4-9. -/
def F.pFeedDepth : Fld := ⟨.part, 0x0500, 0, 1, 0, 6, .rwl, .const 8, .range 2 32 0x1101⟩
/-- OS_RES, Table 4-9. -/
def F.pOsRes : Fld := ⟨.part, 0x0500, 0, 1, 6, 4, .rwl, .const 8, .range 0 12 0x1102⟩
/-- ROWS, Table 4-9. -/
def F.pRows : Fld := ⟨.part, 0x0504, 0, 1, 0, 64, .ro, .const 0, .any⟩
/-- STALL_OPND, Table 4-9. -/
def F.pStallOpnd : Fld := ⟨.part, 0x050C, 0, 1, 0, 32, .ro, .const 0, .any⟩
/-- STALL_TARN, Table 4-9. -/
def F.pStallTarn : Fld := ⟨.part, 0x0510, 0, 1, 0, 32, .ro, .const 0, .any⟩
/-- STALL_LIM, Table 4-9. -/
def F.pStallLim : Fld := ⟨.part, 0x0514, 0, 1, 0, 32, .ro, .const 0, .any⟩
/-- RAMPS, Table 4-9. -/
def F.pRamps : Fld := ⟨.part, 0x0518, 0, 1, 0, 32, .ro, .const 0, .any⟩
/-- MTX_FAULTS, Table 4-9. -/
def F.pMtxFaults : Fld := ⟨.part, 0x051C, 0, 1, 0, 32, .ro, .const 0, .any⟩

/-- The fields of Table 4-9. -/
def F.t4_9_part : List Fld :=
  [F.pFeedDepth, F.pOsRes, F.pRows, F.pStallOpnd, F.pStallTarn, F.pStallLim,
   F.pRamps, F.pMtxFaults]

/-! Table 5-9. Partition window p at 0x0010_0000 + p x 0x0001_0000. -/

/-- FILL_ROWS, Table 5-9. -/
def F.pFillRows : Fld := ⟨.part, 0x0600, 0, 1, 0, 5, .rwl, .const 0, .range 0 16 0x0201⟩
/-- ROWS_OUT, Table 5-9. -/
def F.pRowsOut : Fld := ⟨.part, 0x0604, 0, 1, 0, 64, .ro, .const 0, .any⟩
/-- ROUTED, Table 5-9. -/
def F.pRouted : Fld := ⟨.part, 0x060C, 0, 1, 0, 64, .ro, .const 0, .any⟩
/-- OPEN_RESTART, Table 5-9. -/
def F.pOpenRestart : Fld := ⟨.part, 0x0614, 0, 1, 0, 32, .ro, .const 0, .any⟩
/-- OUT_FAULTS, Table 5-9. -/
def F.pOutFaults : Fld := ⟨.part, 0x0618, 0, 1, 0, 32, .ro, .const 0, .any⟩

/-- The fields of Table 5-9. -/
def F.t5_9_part : List Fld :=
  [F.pFillRows, F.pRowsOut, F.pRouted, F.pOpenRestart, F.pOutFaults]

/-! Table 6-12. Partition window p at 0x0010_0000 + p x 0x0001_0000. -/

/-- HALT_EVT, Table 6-12. -/
def F.pHaltEvt : Fld := ⟨.part, 0x0700, 0, 1, 0, 1, .rwl, .const 0, .any⟩
/-- SHARDS, Table 6-12. -/
def F.pShards : Fld := ⟨.part, 0x0704, 0, 1, 0, 13, .ro, .const 0, .any⟩
/-- VECS, Table 6-12. -/
def F.pVecs : Fld := ⟨.part, 0x0708, 0, 1, 0, 64, .ro, .const 0, .any⟩
/-- HALTS, Table 6-12. -/
def F.pHalts : Fld := ⟨.part, 0x0710, 0, 1, 0, 32, .ro, .const 0, .any⟩
/-- VEC_FAULTS, Table 6-12. -/
def F.pVecFaults : Fld := ⟨.part, 0x0714, 0, 1, 0, 32, .ro, .const 0, .any⟩
/-- DIG_LEAVES, Table 6-12. -/
def F.pDigLeaves : Fld := ⟨.part, 0x0718, 0, 1, 0, 32, .ro, .const 0, .any⟩
/-- DIG_FAILS, Table 6-12. -/
def F.pDigFails : Fld := ⟨.part, 0x071C, 0, 1, 0, 32, .ro, .const 0, .any⟩

/-- The fields of Table 6-12. -/
def F.t6_12_part : List Fld :=
  [F.pHaltEvt, F.pShards, F.pVecs, F.pHalts, F.pVecFaults, F.pDigLeaves,
   F.pDigFails]

/-! Table 7-12. Partition window p at 0x0010_0000 + p x 0x0001_0000. -/

/-- CTX_MAX, Table 7-12. -/
def F.pCtxMax : Fld := ⟨.part, 0x0800, 0, 1, 0, 5, .rwl, .const 4, .range 1 16 0x0801⟩
/-- IDX_OOR, Table 7-12. -/
def F.pIdxOor : Fld := ⟨.part, 0x0804, 0, 1, 0, 32, .ro, .const 0, .any⟩
/-- IDX_FAULTS, Table 7-12. -/
def F.pIdxFaults : Fld := ⟨.part, 0x0808, 0, 1, 0, 32, .ro, .const 0, .any⟩
/-- SCAT, Table 7-12. -/
def F.pScat : Fld := ⟨.part, 0x080C, 0, 1, 0, 64, .ro, .const 0, .any⟩
/-- DTOK, Table 7-12. -/
def F.pDtok : Fld := ⟨.part, 0x0814, 0, 1, 0, 64, .ro, .const 0, .any⟩
/-- DSENT, Table 7-12. -/
def F.pDsent : Fld := ⟨.part, 0x081C, 0, 1, 0, 64, .ro, .const 0, .any⟩
/-- DRECV, Table 7-12. -/
def F.pDrecv : Fld := ⟨.part, 0x0824, 0, 1, 0, 64, .ro, .const 0, .any⟩
/-- DRET, Table 7-12. -/
def F.pDret : Fld := ⟨.part, 0x082C, 0, 1, 0, 64, .ro, .const 0, .any⟩
/-- DDROP, Table 7-12. -/
def F.pDdrop : Fld := ⟨.part, 0x0834, 0, 1, 0, 64, .ro, .const 0, .any⟩
/-- LATE_IN, Table 7-12. -/
def F.pLateIn : Fld := ⟨.part, 0x083C, 0, 1, 0, 32, .ro, .const 0, .any⟩

/-- The fields of Table 7-12. -/
def F.t7_12_part : List Fld :=
  [F.pCtxMax, F.pIdxOor, F.pIdxFaults, F.pScat, F.pDtok, F.pDsent,
   F.pDrecv, F.pDret, F.pDdrop, F.pLateIn]

/-! Table 8-8. Memory registers, BAR0 0x0050_0000. -/

/-- CONF_SPLIT, Table 8-8. -/
def F.memConfSplit : Fld := ⟨.mem, 0x0000, 0, 1, 0, 7, .rwl, .const 0, .range 0 120 0x0403⟩
/-- SCRUB_HRS, Table 8-8. -/
def F.memScrubHrs : Fld := ⟨.mem, 0x0004, 0, 1, 0, 8, .rwl, .const 12, .range 1 168 0x0404⟩
/-- DIE_MARK_EN, Table 8-8. -/
def F.memDieMarkEn : Fld := ⟨.mem, 0x0004, 0, 1, 8, 1, .rwl, .const 1, .any⟩
/-- ROW_CE_TH, Table 8-8. -/
def F.memRowCeTh : Fld := ⟨.mem, 0x0008, 0, 1, 0, 8, .rwl, .const 8, .range 1 255 0x0405⟩
/-- DIE_ROWS_TH, Table 8-8. -/
def F.memDieRowsTh : Fld := ⟨.mem, 0x0008, 0, 1, 8, 12, .rwl, .const 64, .range 16 4095 0x0408⟩
/-- STK_TLIM, Table 8-8. -/
def F.memStkTlim : Fld := ⟨.mem, 0x000C, 0, 1, 0, 7, .rwl, .const 95, .range 85 100 0x0406⟩
/-- ILV_GIB, Table 8-8. -/
def F.memIlvGib : Fld := ⟨.mem, 0x0010, 0, 1, 0, 12, .ro, .const 3072, .any⟩
/-- FW_RES_GIB, Table 8-8. -/
def F.memFwResGib : Fld := ⟨.mem, 0x0010, 0, 1, 12, 8, .ro, .const 24, .any⟩
/-- SET_MASK, Table 8-8. -/
def F.memSetMask : Fld := ⟨.mem, 0x0100, 4, 32, 0, 24, .rwl, .const 0, .any⟩
/-- STK_STATE, Table 8-8. -/
def F.memStkState : Fld := ⟨.mem, 0x1000, 64, 24, 0, 2, .ro, .const 0, .any⟩
/-- TEMP, Table 8-8. -/
def F.memTemp : Fld := ⟨.mem, 0x1000, 64, 24, 8, 8, .ro, .const 0, .any⟩
/-- MARK0, Table 8-8. -/
def F.memMark0 : Fld := ⟨.mem, 0x1000, 64, 24, 16, 5, .ro, .const 31, .any⟩
/-- MARK1, Table 8-8. -/
def F.memMark1 : Fld := ⟨.mem, 0x1000, 64, 24, 21, 5, .ro, .const 31, .any⟩
/-- REFRESH, Table 8-8. -/
def F.memRefresh : Fld := ⟨.mem, 0x1000, 64, 24, 26, 2, .ro, .const 0, .any⟩
/-- CE_COUNT, Table 8-8. -/
def F.memCeCount : Fld := ⟨.mem, 0x1004, 64, 24, 0, 32, .ro, .const 0, .any⟩
/-- UE_COUNT, Table 8-8. -/
def F.memUeCount : Fld := ⟨.mem, 0x1008, 64, 24, 0, 32, .ro, .const 0, .any⟩
/-- CAM_USED, Table 8-8. -/
def F.memCamUsed : Fld := ⟨.mem, 0x100C, 64, 24, 0, 13, .ro, .const 0, .any⟩
/-- REMAPS, Table 8-8. -/
def F.memRemaps : Fld := ⟨.mem, 0x1010, 64, 24, 0, 32, .ro, .const 0, .any⟩
/-- POISONED, Table 8-8. -/
def F.memPoisoned : Fld := ⟨.mem, 0x1014, 64, 24, 0, 32, .ro, .const 0, .any⟩
/-- SPARES, Table 8-8. -/
def F.memSpares : Fld := ⟨.mem, 0x1018, 64, 24, 0, 17, .ro, .const 77824, .any⟩

/-- The fields of Table 8-8. -/
def F.t8_8_mem : List Fld :=
  [F.memConfSplit, F.memScrubHrs, F.memDieMarkEn, F.memRowCeTh, F.memDieRowsTh, F.memStkTlim,
   F.memIlvGib, F.memFwResGib, F.memSetMask, F.memStkState, F.memTemp, F.memMark0,
   F.memMark1, F.memRefresh, F.memCeCount, F.memUeCount, F.memCamUsed, F.memRemaps,
   F.memPoisoned, F.memSpares]

/-! Table 8-9. Partition window p at 0x0010_0000 + p x 0x0001_0000. -/

/-- GUAR_FR, Table 8-9. -/
def F.pGuarFr : Fld := ⟨.part, 0x0900, 0, 1, 0, 11, .rwl, .const 0, .range 0 1024 0x0401⟩
/-- BE_FR, Table 8-9. -/
def F.pBeFr : Fld := ⟨.part, 0x0900, 0, 1, 11, 11, .rwl, .const 1024, .range 0 1024 0x0402⟩
/-- KEEP_MAX, Table 8-9. -/
def F.pKeepMax : Fld := ⟨.part, 0x0904, 0, 1, 0, 6, .rwl, .const 32, .range 0 32 0x0301⟩
/-- GLINES, Table 8-9. -/
def F.pGlines : Fld := ⟨.part, 0x0908, 0, 1, 0, 64, .ro, .const 0, .any⟩
/-- BLINES, Table 8-9. -/
def F.pBlines : Fld := ⟨.part, 0x0910, 0, 1, 0, 64, .ro, .const 0, .any⟩
/-- BW_WAIT, Table 8-9. -/
def F.pBwWait : Fld := ⟨.part, 0x0918, 0, 1, 0, 32, .ro, .const 0, .any⟩
/-- KEEP_NOW, Table 8-9. -/
def F.pKeepNow : Fld := ⟨.part, 0x091C, 0, 1, 0, 16, .ro, .const 0, .any⟩
/-- KEEP_DENY, Table 8-9. -/
def F.pKeepDeny : Fld := ⟨.part, 0x0920, 0, 1, 0, 32, .ro, .const 0, .any⟩
/-- MERE_HITS, Table 8-9. -/
def F.pMereHits : Fld := ⟨.part, 0x0924, 0, 1, 0, 32, .ro, .const 0, .any⟩
/-- MERE_MISS, Table 8-9. -/
def F.pMereMiss : Fld := ⟨.part, 0x0928, 0, 1, 0, 32, .ro, .const 0, .any⟩

/-- The fields of Table 8-9. -/
def F.t8_9_part : List Fld :=
  [F.pGuarFr, F.pBeFr, F.pKeepMax, F.pGlines, F.pBlines, F.pBwWait,
   F.pKeepNow, F.pKeepDeny, F.pMereHits, F.pMereMiss]

/-! Table 9-11. Tier registers, BAR0 0x0050_2000. -/

/-- BULK_TAGS0, Table 9-11. -/
def F.tierBulkTags0 : Fld := ⟨.tier, 0x0000, 0, 1, 0, 9, .rwl, .const 192, .range 0 256 0x0502⟩
/-- BULK_TAGS1, Table 9-11. -/
def F.tierBulkTags1 : Fld := ⟨.tier, 0x0000, 0, 1, 16, 9, .rwl, .const 192, .range 0 256 0x0502⟩
/-- NB_TMO, Table 9-11. -/
def F.tierNbTmo : Fld := ⟨.tier, 0x0004, 0, 1, 0, 16, .rwl, .const 10000, .range 100 65535 0x0503⟩
/-- NB_RETRY, Table 9-11. -/
def F.tierNbRetry : Fld := ⟨.tier, 0x0004, 0, 1, 16, 3, .rwl, .const 3, .range 1 7 0x0504⟩
/-- HRD0, Table 9-11. -/
def F.tierHrd0 : Fld := ⟨.tier, 0x0008, 0, 1, 0, 32, .ro, .const 0, .any⟩
/-- HRD1, Table 9-11. -/
def F.tierHrd1 : Fld := ⟨.tier, 0x000C, 0, 1, 0, 32, .ro, .const 0, .any⟩
/-- NRD, Table 9-11. -/
def F.tierNrd : Fld := ⟨.tier, 0x0010, 0, 1, 0, 32, .ro, .const 0, .any⟩
/-- TWR, Table 9-11. -/
def F.tierTwr : Fld := ⟨.tier, 0x0014, 0, 1, 0, 32, .ro, .const 0, .any⟩
/-- GBUF_HIT, Table 9-11. -/
def F.tierGbufHit : Fld := ⟨.tier, 0x0018, 0, 1, 0, 32, .ro, .const 0, .any⟩
/-- RD_FAIL, Table 9-11. -/
def F.tierRdFail : Fld := ⟨.tier, 0x001C, 0, 1, 0, 32, .ro, .const 0, .any⟩

/-- The fields of Table 9-11. -/
def F.t9_11_tier : List Fld :=
  [F.tierBulkTags0, F.tierBulkTags1, F.tierNbTmo, F.tierNbRetry, F.tierHrd0, F.tierHrd1,
   F.tierNrd, F.tierTwr, F.tierGbufHit, F.tierRdFail]

/-! Table 9-12. Partition window p at 0x0010_0000 + p x 0x0001_0000. -/

/-- OBJ_MAX, Table 9-12. -/
def F.pObjMax : Fld := ⟨.part, 0x0A00, 0, 1, 0, 13, .rwl, .const 256, .range 0 4096 0x0501⟩
/-- OBJ_USED, Table 9-12. -/
def F.pObjUsed : Fld := ⟨.part, 0x0A04, 0, 1, 0, 13, .ro, .const 0, .any⟩
/-- PROMOS, Table 9-12. -/
def F.pPromos : Fld := ⟨.part, 0x0A08, 0, 1, 0, 32, .ro, .const 0, .any⟩
/-- PSKIPS, Table 9-12. -/
def F.pPskips : Fld := ⟨.part, 0x0A0C, 0, 1, 0, 32, .ro, .const 0, .any⟩
/-- DEMOS, Table 9-12. -/
def F.pDemos : Fld := ⟨.part, 0x0A10, 0, 1, 0, 32, .ro, .const 0, .any⟩
/-- TIER_FAIL, Table 9-12. -/
def F.pTierFail : Fld := ⟨.part, 0x0A14, 0, 1, 0, 32, .ro, .const 0, .any⟩
/-- INTK_MIB, Table 9-12. -/
def F.pIntkMib : Fld := ⟨.part, 0x0A18, 0, 1, 0, 32, .ro, .const 0, .any⟩
/-- SWAPS, Table 9-12. -/
def F.pSwaps : Fld := ⟨.part, 0x0A1C, 0, 1, 0, 32, .ro, .const 0, .any⟩

/-- The fields of Table 9-12. -/
def F.t9_12_part : List Fld :=
  [F.pObjMax, F.pObjUsed, F.pPromos, F.pPskips, F.pDemos, F.pTierFail,
   F.pIntkMib, F.pSwaps]

/-! Table 10-7. Port registers, port n at 0x0040_0000 + n x 0x0001_0000. -/

/-- SPEED, Table 10-7. -/
def F.npSpeed : Fld := ⟨.net, 0x0000, 0, 1, 0, 3, .rwl, .const 0, .enc 0 4 0 0x0F01⟩
/-- PMD_OPT, Table 10-7. -/
def F.npPmdOpt : Fld := ⟨.net, 0x0000, 0, 1, 3, 1, .rwl, .const 0, .any⟩
/-- SHED_EN, Table 10-7. -/
def F.npShedEn : Fld := ⟨.net, 0x0000, 0, 1, 4, 1, .rwl, .const 1, .any⟩
/-- PARK_EN, Table 10-7. -/
def F.npParkEn : Fld := ⟨.net, 0x0000, 0, 1, 5, 1, .rwl, .const 0, .any⟩
/-- PGROUP, Table 10-7. -/
def F.npPgroup : Fld := ⟨.net, 0x0000, 0, 1, 6, 3, .rwl, .blkDiv 4, .any⟩
/-- ECHO_EN, Table 10-7. -/
def F.npEchoEn : Fld := ⟨.net, 0x0000, 0, 1, 9, 1, .rwl, .const 0, .any⟩
/-- POLARITY, Table 10-7. -/
def F.npPolarity : Fld := ⟨.net, 0x0000, 0, 1, 10, 8, .rwl, .const 0, .any⟩
/-- MTU, Table 10-7. -/
def F.npMtu : Fld := ⟨.net, 0x0004, 0, 1, 0, 14, .rwl, .const 9000, .range 1500 9000 0x0F03⟩
/-- HOPS, Table 10-7. -/
def F.npHops : Fld := ⟨.net, 0x0004, 0, 1, 14, 8, .rwl, .const 64, .range 1 255 0x0F04⟩
/-- IP_MODE, Table 10-7. -/
def F.npIpMode : Fld := ⟨.net, 0x0004, 0, 1, 22, 2, .rwl, .const 1, .enc 1 3 1 0x0F05⟩
/-- PTP_ENC, Table 10-7. -/
def F.npPtpEnc : Fld := ⟨.net, 0x0004, 0, 1, 24, 2, .rwl, .const 0, .enc 0 2 0 0x0F05⟩
/-- MAC_L, Table 10-7. -/
def F.npMacL : Fld := ⟨.net, 0x0008, 0, 1, 0, 32, .ro, .const 0, .any⟩
/-- MAC_H, Table 10-7. -/
def F.npMacH : Fld := ⟨.net, 0x000C, 0, 1, 0, 16, .ro, .const 0, .any⟩
/-- MAINT_VID, Table 10-7. -/
def F.npMaintVid : Fld := ⟨.net, 0x000C, 0, 1, 16, 12, .ro, .const 1, .any⟩
/-- IPV4, Table 10-7. -/
def F.npIpv4 : Fld := ⟨.net, 0x0010, 0, 1, 0, 32, .rwl, .const 0, .any⟩
/-- IPV6_i, Table 10-7. -/
def F.npIpv6 : Fld := ⟨.net, 0x0014, 4, 4, 0, 32, .rwl, .const 0, .any⟩
/-- DSCP, Table 10-7. -/
def F.npDscp0 : Fld := ⟨.net, 0x0024, 4, 2, 0, 6, .rwl, .dscp 0, .any⟩
/-- DSCP, Table 10-7. -/
def F.npDscp1 : Fld := ⟨.net, 0x0024, 4, 2, 8, 6, .rwl, .dscp 1, .any⟩
/-- DSCP, Table 10-7. -/
def F.npDscp2 : Fld := ⟨.net, 0x0024, 4, 2, 16, 6, .rwl, .dscp 2, .any⟩
/-- DSCP, Table 10-7. -/
def F.npDscp3 : Fld := ⟨.net, 0x0024, 4, 2, 24, 6, .rwl, .dscp 3, .any⟩
/-- SHED_WIN, Table 10-7. -/
def F.npShedWin : Fld := ⟨.net, 0x002C, 0, 1, 0, 13, .rwl, .const 256, .range 16 4096 0x0F06⟩
/-- SHED_LO, Table 10-7. -/
def F.npShedLo : Fld := ⟨.net, 0x002C, 0, 1, 13, 7, .rwl, .const 40, .range 10 45 0x0F07⟩
/-- RISE_HI, Table 10-7. -/
def F.npRiseHi : Fld := ⟨.net, 0x002C, 0, 1, 20, 7, .rwl, .const 85, .range 50 95 0x0F08⟩
/-- PARK_MIN, Table 10-7. -/
def F.npParkMin : Fld := ⟨.net, 0x002C, 0, 1, 27, 3, .rwl, .const 1, .range 1 4 0x0F09⟩
/-- LINK, Table 10-7. -/
def F.npLink : Fld := ⟨.net, 0x0100, 0, 1, 0, 1, .ro, .const 0, .any⟩
/-- PSEAL, Table 10-7. -/
def F.npPseal : Fld := ⟨.net, 0x0100, 0, 1, 1, 1, .ro, .const 1, .any⟩
/-- PMODE, Table 10-7. -/
def F.npPmode : Fld := ⟨.net, 0x0100, 0, 1, 2, 2, .ro, .const 0, .any⟩
/-- PARTNER, Table 10-7. -/
def F.npPartner : Fld := ⟨.net, 0x0100, 0, 1, 4, 1, .ro, .const 0, .any⟩
/-- PARKED, Table 10-7. -/
def F.npParked : Fld := ⟨.net, 0x0100, 0, 1, 5, 1, .ro, .const 0, .any⟩
/-- WIDTH, Table 10-7. -/
def F.npWidth : Fld := ⟨.net, 0x0100, 0, 1, 6, 4, .ro, .const 0, .any⟩
/-- TXF, Table 10-7. -/
def F.npTxf : Fld := ⟨.net, 0x0200, 0, 1, 0, 64, .ro, .const 0, .any⟩
/-- RXF, Table 10-7. -/
def F.npRxf : Fld := ⟨.net, 0x0208, 0, 1, 0, 64, .ro, .const 0, .any⟩
/-- TX_MIB, Table 10-7. -/
def F.npTxMib : Fld := ⟨.net, 0x0210, 0, 1, 0, 32, .ro, .const 0, .any⟩
/-- RX_MIB, Table 10-7. -/
def F.npRxMib : Fld := ⟨.net, 0x0214, 0, 1, 0, 32, .ro, .const 0, .any⟩
/-- FCS_ERR, Table 10-7. -/
def F.npFcsErr : Fld := ⟨.net, 0x0218, 0, 1, 0, 32, .ro, .const 0, .any⟩
/-- FEC_CORR, Table 10-7. -/
def F.npFecCorr : Fld := ⟨.net, 0x021C, 0, 1, 0, 32, .ro, .const 0, .any⟩
/-- FEC_UNC, Table 10-7. -/
def F.npFecUnc : Fld := ⟨.net, 0x0220, 0, 1, 0, 32, .ro, .const 0, .any⟩
/-- CSUM_DROP, Table 10-7. -/
def F.npCsumDrop : Fld := ⟨.net, 0x0224, 0, 1, 0, 32, .ro, .const 0, .any⟩
/-- FILT_DROP, Table 10-7. -/
def F.npFiltDrop : Fld := ⟨.net, 0x0228, 0, 1, 0, 32, .ro, .const 0, .any⟩
/-- MACC_IGN, Table 10-7. -/
def F.npMaccIgn : Fld := ⟨.net, 0x022C, 0, 1, 0, 32, .ro, .const 0, .any⟩
/-- LINK_DISC, Table 10-7. -/
def F.npLinkDisc : Fld := ⟨.net, 0x0230, 0, 1, 0, 32, .ro, .const 0, .any⟩
/-- LINK_DOWN, Table 10-7. -/
def F.npLinkDown : Fld := ⟨.net, 0x0234, 0, 1, 0, 32, .ro, .const 0, .any⟩
/-- WCHG, Table 10-7. -/
def F.npWchg : Fld := ⟨.net, 0x0238, 0, 1, 0, 32, .ro, .const 0, .any⟩
/-- PARKS, Table 10-7. -/
def F.npParks : Fld := ⟨.net, 0x023C, 0, 1, 0, 32, .ro, .const 0, .any⟩
/-- TXQ, Table 10-7. -/
def F.npTxq : Fld := ⟨.net, 0x0300, 4, 8, 0, 32, .ro, .const 0, .any⟩

/-- The fields of Table 10-7. -/
def F.t10_7_net : List Fld :=
  [F.npSpeed, F.npPmdOpt, F.npShedEn, F.npParkEn, F.npPgroup, F.npEchoEn,
   F.npPolarity, F.npMtu, F.npHops, F.npIpMode, F.npPtpEnc, F.npMacL,
   F.npMacH, F.npMaintVid, F.npIpv4, F.npIpv6, F.npDscp0, F.npDscp1,
   F.npDscp2, F.npDscp3, F.npShedWin, F.npShedLo, F.npRiseHi, F.npParkMin,
   F.npLink, F.npPseal, F.npPmode, F.npPartner, F.npParked, F.npWidth,
   F.npTxf, F.npRxf, F.npTxMib, F.npRxMib, F.npFcsErr, F.npFecCorr,
   F.npFecUnc, F.npCsumDrop, F.npFiltDrop, F.npMaccIgn, F.npLinkDisc, F.npLinkDown,
   F.npWchg, F.npParks, F.npTxq]

/-! Table 11-11. Gnoxel registers, BAR0 0x0049_0000. -/

/-- RTO_MIN, Table 11-11. -/
def F.gnxRtoMin : Fld := ⟨.gnx, 0x0000, 0, 1, 0, 14, .rwl, .const 200, .range 10 10000 0x0601⟩
/-- RETRY_MAX, Table 11-11. -/
def F.gnxRetryMax : Fld := ⟨.gnx, 0x0000, 0, 1, 14, 4, .rwl, .const 7, .range 1 15 0x0602⟩
/-- OPEN_TMO, Table 11-11. -/
def F.gnxOpenTmo : Fld := ⟨.gnx, 0x0004, 0, 1, 0, 16, .rwl, .const 10000, .range 1 60000 0x0603⟩
/-- RATE_INIT, Table 11-11. -/
def F.gnxRateInit : Fld := ⟨.gnx, 0x0008, 0, 1, 0, 10, .rwl, .const 100, .range 1 800 0x0604⟩
/-- RATE_MIN, Table 11-11. -/
def F.gnxRateMin : Fld := ⟨.gnx, 0x0008, 0, 1, 10, 10, .rwl, .const 1, .range 1 100 0x0605⟩
/-- AI_STEP, Table 11-11. -/
def F.gnxAiStep : Fld := ⟨.gnx, 0x0008, 0, 1, 20, 10, .rwl, .const 5, .range 1 100 0x0606⟩
/-- UNK_CID, Table 11-11. -/
def F.gnxUnkCid : Fld := ⟨.gnx, 0x000C, 0, 1, 0, 32, .ro, .const 0, .any⟩
/-- MALFORMED, Table 11-11. -/
def F.gnxMalformed : Fld := ⟨.gnx, 0x0010, 0, 1, 0, 32, .ro, .const 0, .any⟩
/-- VER_DROP, Table 11-11. -/
def F.gnxVerDrop : Fld := ⟨.gnx, 0x0014, 0, 1, 0, 32, .ro, .const 0, .any⟩
/-- CHAN_OPEN, Table 11-11. -/
def F.gnxChanOpen : Fld := ⟨.gnx, 0x0018, 0, 1, 0, 15, .ro, .const 0, .any⟩

/-- The fields of Table 11-11. -/
def F.t11_11_gnx : List Fld :=
  [F.gnxRtoMin, F.gnxRetryMax, F.gnxOpenTmo, F.gnxRateInit, F.gnxRateMin, F.gnxAiStep,
   F.gnxUnkCid, F.gnxMalformed, F.gnxVerDrop, F.gnxChanOpen]

/-! Table 11-12. Partition window p at 0x0010_0000 + p x 0x0001_0000. -/

/-- CHAN_MAX, Table 11-12. -/
def F.pChanMax : Fld := ⟨.part, 0x0B00, 0, 1, 0, 15, .rwl, .const 256, .range 0 16384 0x0607⟩
/-- MSG_TX, Table 11-12. -/
def F.pMsgTx : Fld := ⟨.part, 0x0B04, 0, 1, 0, 64, .ro, .const 0, .any⟩
/-- MSG_RX, Table 11-12. -/
def F.pMsgRx : Fld := ⟨.part, 0x0B0C, 0, 1, 0, 64, .ro, .const 0, .any⟩
/-- RETX, Table 11-12. -/
def F.pRetx : Fld := ⟨.part, 0x0B14, 0, 1, 0, 32, .ro, .const 0, .any⟩
/-- DUP_PKT, Table 11-12. -/
def F.pDupPkt : Fld := ⟨.part, 0x0B18, 0, 1, 0, 32, .ro, .const 0, .any⟩
/-- RNR, Table 11-12. -/
def F.pRnr : Fld := ⟨.part, 0x0B1C, 0, 1, 0, 32, .ro, .const 0, .any⟩
/-- VIOL_CNT, Table 11-12. -/
def F.pViolCnt : Fld := ⟨.part, 0x0B20, 0, 1, 0, 32, .ro, .const 0, .any⟩

/-- The fields of Table 11-12. -/
def F.t11_12_part : List Fld :=
  [F.pChanMax, F.pMsgTx, F.pMsgRx, F.pRetx, F.pDupPkt, F.pRnr,
   F.pViolCnt]

/-! Table 12-12. Partition window p at 0x0010_0000 + p x 0x0001_0000. -/

/-- GLEAN_WIN, Table 12-12. -/
def F.pGleanWin : Fld := ⟨.part, 0x0C00, 0, 1, 0, 4, .rwl, .const 2, .range 0 8 0x0701⟩
/-- SH_GRACE, Table 12-12. -/
def F.pShGrace : Fld := ⟨.part, 0x0C00, 0, 1, 4, 5, .rwl, .const 5, .range 1 25 0x0702⟩
/-- NBUF, Table 12-12. -/
def F.pNbuf : Fld := ⟨.part, 0x0C00, 0, 1, 9, 4, .rwl, .const 4, .range 2 15 0x0703⟩
/-- LATE_PKTS, Table 12-12. -/
def F.pLatePkts : Fld := ⟨.part, 0x0C00, 0, 1, 13, 7, .rwl, .const 4, .range 1 64 0x0704⟩
/-- FILL_BY, Table 12-12. -/
def F.pFillBy : Fld := ⟨.part, 0x0C04, 0, 1, 0, 6, .rwl, .const 63, .any⟩
/-- REC_TMO, Table 12-12. -/
def F.pRecTmo : Fld := ⟨.part, 0x0C04, 0, 1, 6, 11, .rwl, .const 200, .range 10 2000 0x0706⟩
/-- EXP, Table 12-12. -/
def F.pExp : Fld := ⟨.part, 0x0C08, 0, 1, 0, 64, .ro, .const 0, .any⟩
/-- ONTIME, Table 12-12. -/
def F.pOntime : Fld := ⟨.part, 0x0C10, 0, 1, 0, 64, .ro, .const 0, .any⟩
/-- GLEAN, Table 12-12. -/
def F.pGlean : Fld := ⟨.part, 0x0C18, 0, 1, 0, 64, .ro, .const 0, .any⟩
/-- CHAFF, Table 12-12. -/
def F.pChaff : Fld := ⟨.part, 0x0C20, 0, 1, 0, 64, .ro, .const 0, .any⟩
/-- PENDING, Table 12-12. -/
def F.pPending : Fld := ⟨.part, 0x0C28, 0, 1, 0, 32, .ro, .const 0, .any⟩
/-- CHAFF_ARR, Table 12-12. -/
def F.pChaffArr : Fld := ⟨.part, 0x0C2C, 0, 1, 0, 32, .ro, .const 0, .any⟩
/-- CHAFF_WP, Table 12-12. -/
def F.pChaffWp : Fld := ⟨.part, 0x0C30, 0, 1, 0, 32, .ro, .const 0, .any⟩
/-- FILL_GRAINS, Table 12-12. -/
def F.pFillGrains : Fld := ⟨.part, 0x0C34, 0, 1, 0, 32, .ro, .const 0, .any⟩
/-- FILL_EXCESS, Table 12-12. -/
def F.pFillExcess : Fld := ⟨.part, 0x0C38, 0, 1, 0, 32, .ro, .const 0, .any⟩
/-- ACT_PEAK, Table 12-12. -/
def F.pActPeak : Fld := ⟨.part, 0x0C3C, 0, 1, 0, 32, .ro, .const 0, .any⟩
/-- COLL_FAULTS, Table 12-12. -/
def F.pCollFaults : Fld := ⟨.part, 0x0C40, 0, 1, 0, 32, .ro, .const 0, .any⟩
/-- COLL_BAD, Table 12-12. -/
def F.pCollBad : Fld := ⟨.part, 0x0C44, 0, 1, 0, 32, .ro, .const 0, .any⟩

/-- The fields of Table 12-12. -/
def F.t12_12_part : List Fld :=
  [F.pGleanWin, F.pShGrace, F.pNbuf, F.pLatePkts, F.pFillBy, F.pRecTmo,
   F.pExp, F.pOntime, F.pGlean, F.pChaff, F.pPending, F.pChaffArr,
   F.pChaffWp, F.pFillGrains, F.pFillExcess, F.pActPeak, F.pCollFaults, F.pCollBad]

/-! Table 13-6. Partition window p at 0x0010_0000 + p x 0x0001_0000. -/

/-- LEASE_TICKS, Table 13-6. -/
def F.pLeaseTicks : Fld := ⟨.part, 0x0D00, 0, 1, 0, 16, .rwl, .const 2000, .range 64 65535 0x0A01⟩
/-- FREERUN_OK, Table 13-6. -/
def F.pFreerunOk : Fld := ⟨.part, 0x0D00, 0, 1, 16, 1, .rwl, .const 0, .any⟩
/-- RPL_ROUNDS, Table 13-6. -/
def F.pRplRounds : Fld := ⟨.part, 0x0D00, 0, 1, 17, 2, .rwl, .const 1, .range 1 3 0x0A02⟩
/-- CKPT_EVERY, Table 13-6. -/
def F.pCkptEvery : Fld := ⟨.part, 0x0D04, 0, 1, 0, 16, .rwl, .const 0, .any⟩
/-- RETAIN, Table 13-6. -/
def F.pRetain : Fld := ⟨.part, 0x0D04, 0, 1, 16, 1, .rwl, .const 0, .any⟩
/-- RPL_TICKS, Table 13-6. -/
def F.pRplTicks : Fld := ⟨.part, 0x0D04, 0, 1, 17, 8, .rwl, .const 0, .any⟩
/-- UPD_TICKS, Table 13-6. -/
def F.pUpdTicks : Fld := ⟨.part, 0x0D08, 0, 1, 0, 16, .rwl, .const 40000, .range 1000 65535 0x0A04⟩
/-- JSTATE, Table 13-6. -/
def F.pJstate : Fld := ⟨.part, 0x0D0C, 0, 1, 0, 2, .ro, .const 0, .any⟩
/-- RANK, Table 13-6. -/
def F.pRank : Fld := ⟨.part, 0x0D0C, 0, 1, 2, 6, .ro, .const 0, .any⟩
/-- N_ACT, Table 13-6. -/
def F.pNAct : Fld := ⟨.part, 0x0D0C, 0, 1, 8, 7, .ro, .const 0, .any⟩
/-- EPOCH, Table 13-6. -/
def F.pEpoch : Fld := ⟨.part, 0x0D10, 0, 1, 0, 64, .ro, .const 0, .any⟩
/-- COMMIT, Table 13-6. -/
def F.pCommit : Fld := ⟨.part, 0x0D18, 0, 1, 0, 64, .ro, .const 0, .any⟩
/-- CKJOB, Table 13-6. -/
def F.pCkjob : Fld := ⟨.part, 0x0D20, 0, 1, 0, 64, .ro, .const 0, .any⟩
/-- GRPL, Table 13-6. -/
def F.pGrpl : Fld := ⟨.part, 0x0D28, 0, 1, 0, 32, .ro, .const 0, .any⟩
/-- SPILLS, Table 13-6. -/
def F.pSpills : Fld := ⟨.part, 0x0D2C, 0, 1, 0, 32, .ro, .const 0, .any⟩
/-- BLOCK_RPL, Table 13-6. -/
def F.pBlockRpl : Fld := ⟨.part, 0x0D30, 0, 1, 0, 32, .ro, .const 0, .any⟩
/-- STEP_RPL, Table 13-6. -/
def F.pStepRpl : Fld := ⟨.part, 0x0D34, 0, 1, 0, 32, .ro, .const 0, .any⟩
/-- ROLLBACKS, Table 13-6. -/
def F.pRollbacks : Fld := ⟨.part, 0x0D38, 0, 1, 0, 32, .ro, .const 0, .any⟩
/-- REFETCH, Table 13-6. -/
def F.pRefetch : Fld := ⟨.part, 0x0D3C, 0, 1, 0, 32, .ro, .const 0, .any⟩

/-- The fields of Table 13-6. -/
def F.t13_6_part : List Fld :=
  [F.pLeaseTicks, F.pFreerunOk, F.pRplRounds, F.pCkptEvery, F.pRetain, F.pRplTicks,
   F.pUpdTicks, F.pJstate, F.pRank, F.pNAct, F.pEpoch, F.pCommit,
   F.pCkjob, F.pGrpl, F.pSpills, F.pBlockRpl, F.pStepRpl, F.pRollbacks,
   F.pRefetch]

/-! Table 14-16. Identity, seal and module security registers, BAR0 0x0000_0000. -/

/-- MSEAL, Table 14-16. -/
def F.idMseal : Fld := ⟨.ident, 0x0100, 0, 1, 0, 1, .wo, .const 0, .any⟩
/-- PSEAL_L, Table 14-16. -/
def F.idPsealL : Fld := ⟨.ident, 0x0104, 0, 1, 0, 32, .wo, .const 0, .any⟩
/-- PSEAL_H, Table 14-16. -/
def F.idPsealH : Fld := ⟨.ident, 0x0108, 0, 1, 0, 4, .wo, .const 0, .any⟩
/-- MSEALED, Table 14-16. -/
def F.idMsealed : Fld := ⟨.ident, 0x0110, 0, 1, 0, 1, .ro, .const 0, .any⟩
/-- SEALING, Table 14-16. -/
def F.idSealing : Fld := ⟨.ident, 0x0110, 0, 1, 1, 1, .ro, .const 0, .any⟩
/-- PSEALED_L, Table 14-16. -/
def F.idPsealedL : Fld := ⟨.ident, 0x0114, 0, 1, 0, 32, .ro, .const 0, .any⟩
/-- PSEALED_H, Table 14-16. -/
def F.idPsealedH : Fld := ⟨.ident, 0x0118, 0, 1, 0, 4, .ro, .const 0, .any⟩

/-- The fields of Table 14-16. -/
def F.t14_16_ident : List Fld :=
  [F.idMseal, F.idPsealL, F.idPsealH, F.idMsealed, F.idSealing, F.idPsealedL,
   F.idPsealedH]

/-! Table 14-17. Host port block n at 0x0001_0000 + n x 0x8000. -/

/-- DRV_MIN, Table 14-17. -/
def F.hpDrvMin : Fld := ⟨.host, 0x0000, 0, 1, 0, 8, .rw, .const 0, .any⟩
/-- DRV_MAX, Table 14-17. -/
def F.hpDrvMax : Fld := ⟨.host, 0x0000, 0, 1, 8, 8, .rw, .const 0, .any⟩
/-- ATTACH, Table 14-17. -/
def F.hpAttach : Fld := ⟨.host, 0x0004, 0, 1, 0, 1, .wo, .const 0, .any⟩
/-- DETACH, Table 14-17. -/
def F.hpDetach : Fld := ⟨.host, 0x0004, 0, 1, 1, 1, .wo, .const 0, .any⟩
/-- HIF_AGREED, Table 14-17. -/
def F.hpHifAgreed : Fld := ⟨.host, 0x0008, 0, 1, 0, 8, .ro, .const 0, .any⟩
/-- ATTACHED, Table 14-17. -/
def F.hpAttached : Fld := ⟨.host, 0x0008, 0, 1, 8, 1, .ro, .const 0, .any⟩
/-- CXL_MODE, Table 14-17. -/
def F.hpCxlMode : Fld := ⟨.host, 0x0008, 0, 1, 9, 1, .ro, .const 0, .any⟩
/-- CXL_CACHE, Table 14-17. -/
def F.hpCxlCache : Fld := ⟨.host, 0x0008, 0, 1, 10, 1, .ro, .const 0, .any⟩
/-- LINK_GEN, Table 14-17. -/
def F.hpLinkGen : Fld := ⟨.host, 0x0008, 0, 1, 11, 3, .ro, .const 0, .any⟩
/-- LINK_WIDTH, Table 14-17. -/
def F.hpLinkWidth : Fld := ⟨.host, 0x0008, 0, 1, 14, 5, .ro, .const 0, .any⟩
/-- CXL_OFFER, Table 14-17. -/
def F.hpCxlOffer : Fld := ⟨.host, 0x0008, 0, 1, 19, 1, .ro, .const 1, .any⟩
/-- SETUP_PT, Table 14-17. -/
def F.hpSetupPt : Fld := ⟨.host, 0x0008, 0, 1, 20, 1, .ro, .const 0, .any⟩
/-- BAR2_LOG, Table 14-17. -/
def F.hpBar2Log : Fld := ⟨.host, 0x0008, 0, 1, 21, 3, .ro, .const 0, .any⟩
/-- DB_POLL, Table 14-17. -/
def F.hpDbPoll : Fld := ⟨.host, 0x000C, 0, 1, 0, 7, .rwl, .const 2, .range 1 100 0x0E02⟩
/-- WATCH_EN, Table 14-17. -/
def F.hpWatchEn : Fld := ⟨.host, 0x000C, 0, 1, 7, 1, .rwl, .const 1, .any⟩
/-- P2P_TMO, Table 14-17. -/
def F.hpP2pTmo : Fld := ⟨.host, 0x000C, 0, 1, 8, 8, .rwl, .const 16, .range 1 255 0x0E03⟩
/-- DESC, Table 14-17. -/
def F.hpDesc : Fld := ⟨.host, 0x0100, 0, 1, 0, 64, .ro, .const 0, .any⟩
/-- CPL, Table 14-17. -/
def F.hpCpl : Fld := ⟨.host, 0x0108, 0, 1, 0, 64, .ro, .const 0, .any⟩
/-- REC_LOST, Table 14-17. -/
def F.hpRecLost : Fld := ⟨.host, 0x0110, 0, 1, 0, 32, .ro, .const 0, .any⟩
/-- BAR2_MISS, Table 14-17. -/
def F.hpBar2Miss : Fld := ⟨.host, 0x0114, 0, 1, 0, 32, .ro, .const 0, .any⟩
/-- POLL_RND, Table 14-17. -/
def F.hpPollRnd : Fld := ⟨.host, 0x0118, 0, 1, 0, 32, .ro, .const 0, .any⟩
/-- BACKLOG, Table 14-17. -/
def F.hpBacklog : Fld := ⟨.host, 0x011C, 0, 1, 0, 17, .ro, .const 0, .any⟩
/-- MSIX_SENT, Table 14-17. -/
def F.hpMsixSent : Fld := ⟨.host, 0x0120, 0, 1, 0, 32, .ro, .const 0, .any⟩
/-- P2P_FALLBK, Table 14-17. -/
def F.hpP2pFallbk : Fld := ⟨.host, 0x0124, 0, 1, 0, 32, .ro, .const 0, .any⟩

/-- The fields of Table 14-17. -/
def F.t14_17_host : List Fld :=
  [F.hpDrvMin, F.hpDrvMax, F.hpAttach, F.hpDetach, F.hpHifAgreed, F.hpAttached,
   F.hpCxlMode, F.hpCxlCache, F.hpLinkGen, F.hpLinkWidth, F.hpCxlOffer, F.hpSetupPt,
   F.hpBar2Log, F.hpDbPoll, F.hpWatchEn, F.hpP2pTmo, F.hpDesc, F.hpCpl,
   F.hpRecLost, F.hpBar2Miss, F.hpPollRnd, F.hpBacklog, F.hpMsixSent, F.hpP2pFallbk]

/-! Table 14-18. Module event ring binding n at 0x0080_0000 + n x 0x1000. -/

/-- MQ_EN, Table 14-18. -/
def F.mqEn : Fld := ⟨.mq, 0x0000, 0, 1, 0, 1, .rw, .const 0, .any⟩
/-- MQ_LOG, Table 14-18. -/
def F.mqLog : Fld := ⟨.mq, 0x0000, 0, 1, 1, 5, .rw, .const 6, .range 6 16 0x0E04⟩
/-- MQ_VEC, Table 14-18. -/
def F.mqVec : Fld := ⟨.mq, 0x0000, 0, 1, 6, 11, .rw, .const 0, .any⟩
/-- MQ_VEC_EN, Table 14-18. -/
def F.mqVecEn : Fld := ⟨.mq, 0x0000, 0, 1, 17, 1, .rw, .const 0, .any⟩
/-- MQ_BASE_L, Table 14-18. -/
def F.mqBaseL : Fld := ⟨.mq, 0x0004, 0, 1, 6, 26, .rw, .const 0, .any⟩
/-- MQ_BASE_H, Table 14-18. -/
def F.mqBaseH : Fld := ⟨.mq, 0x0008, 0, 1, 0, 32, .rw, .const 0, .any⟩
/-- MQ_CB_L, Table 14-18. -/
def F.mqCbL : Fld := ⟨.mq, 0x000C, 0, 1, 7, 25, .rw, .const 0, .any⟩
/-- MQ_CB_H, Table 14-18. -/
def F.mqCbH : Fld := ⟨.mq, 0x0010, 0, 1, 0, 32, .rw, .const 0, .any⟩
/-- MQ_PAY_L, Table 14-18. -/
def F.mqPayL : Fld := ⟨.mq, 0x0014, 0, 1, 6, 26, .rw, .const 0, .any⟩
/-- MQ_PAY_H, Table 14-18. -/
def F.mqPayH : Fld := ⟨.mq, 0x0018, 0, 1, 0, 32, .rw, .const 0, .any⟩

/-- The fields of Table 14-18. -/
def F.t14_18_mq : List Fld :=
  [F.mqEn, F.mqLog, F.mqVec, F.mqVecEn, F.mqBaseL, F.mqBaseH,
   F.mqCbL, F.mqCbH, F.mqPayL, F.mqPayH]

/-! Table 14-19. Partition window p at 0x0010_0000 + p x 0x0001_0000. -/

/-- AQ_EN, Table 14-19. -/
def F.pAqEn : Fld := ⟨.part, 0x0E00, 0, 1, 0, 1, .rw, .const 0, .any⟩
/-- EQ_EN, Table 14-19. -/
def F.pEqEn : Fld := ⟨.part, 0x0E00, 0, 1, 1, 1, .rw, .const 0, .any⟩
/-- AQ_LOG, Table 14-19. -/
def F.pAqLog : Fld := ⟨.part, 0x0E00, 0, 1, 2, 5, .rw, .const 6, .range 6 16 0x0E04⟩
/-- EQ_LOG, Table 14-19. -/
def F.pEqLog : Fld := ⟨.part, 0x0E00, 0, 1, 7, 5, .rw, .const 6, .range 6 16 0x0E04⟩
/-- AQ_VEC, Table 14-19. -/
def F.pAqVec : Fld := ⟨.part, 0x0E04, 0, 1, 0, 11, .rw, .const 0, .any⟩
/-- AQ_VEC_EN, Table 14-19. -/
def F.pAqVecEn : Fld := ⟨.part, 0x0E04, 0, 1, 11, 1, .rw, .const 0, .any⟩
/-- EQ_VEC, Table 14-19. -/
def F.pEqVec : Fld := ⟨.part, 0x0E04, 0, 1, 12, 11, .rw, .const 0, .any⟩
/-- EQ_VEC_EN, Table 14-19. -/
def F.pEqVecEn : Fld := ⟨.part, 0x0E04, 0, 1, 23, 1, .rw, .const 0, .any⟩
/-- AQ_SQ_L, Table 14-19. -/
def F.pAqSqL : Fld := ⟨.part, 0x0E08, 0, 1, 6, 26, .rw, .const 0, .any⟩
/-- AQ_SQ_H, Table 14-19. -/
def F.pAqSqH : Fld := ⟨.part, 0x0E0C, 0, 1, 0, 32, .rw, .const 0, .any⟩
/-- AQ_CQ_L, Table 14-19. -/
def F.pAqCqL : Fld := ⟨.part, 0x0E10, 0, 1, 6, 26, .rw, .const 0, .any⟩
/-- AQ_CQ_H, Table 14-19. -/
def F.pAqCqH : Fld := ⟨.part, 0x0E14, 0, 1, 0, 32, .rw, .const 0, .any⟩
/-- AQ_CB_L, Table 14-19. -/
def F.pAqCbL : Fld := ⟨.part, 0x0E18, 0, 1, 7, 25, .rw, .const 0, .any⟩
/-- AQ_CB_H, Table 14-19. -/
def F.pAqCbH : Fld := ⟨.part, 0x0E1C, 0, 1, 0, 32, .rw, .const 0, .any⟩
/-- EQ_BASE_L, Table 14-19. -/
def F.pEqBaseL : Fld := ⟨.part, 0x0E20, 0, 1, 6, 26, .rw, .const 0, .any⟩
/-- EQ_BASE_H, Table 14-19. -/
def F.pEqBaseH : Fld := ⟨.part, 0x0E24, 0, 1, 0, 32, .rw, .const 0, .any⟩
/-- EQ_CB_L, Table 14-19. -/
def F.pEqCbL : Fld := ⟨.part, 0x0E28, 0, 1, 7, 25, .rw, .const 0, .any⟩
/-- EQ_CB_H, Table 14-19. -/
def F.pEqCbH : Fld := ⟨.part, 0x0E2C, 0, 1, 0, 32, .rw, .const 0, .any⟩
/-- EQ_PAY_L, Table 14-19. -/
def F.pEqPayL : Fld := ⟨.part, 0x0E30, 0, 1, 6, 26, .rw, .const 0, .any⟩
/-- EQ_PAY_H, Table 14-19. -/
def F.pEqPayH : Fld := ⟨.part, 0x0E34, 0, 1, 0, 32, .rw, .const 0, .any⟩
/-- RINGS_MAX, Table 14-19. -/
def F.pRingsMax : Fld := ⟨.part, 0x0E38, 0, 1, 0, 7, .rwl, .const 8, .range 1 64 0x0E08⟩
/-- HOST_PORT, Table 14-19. -/
def F.pHostPort : Fld := ⟨.part, 0x0E38, 0, 1, 7, 1, .ro, .const 0, .any⟩
/-- RINGS, Table 14-19. -/
def F.pRings : Fld := ⟨.part, 0x0E38, 0, 1, 8, 7, .ro, .const 0, .any⟩

/-- The fields of Table 14-19. -/
def F.t14_19_part : List Fld :=
  [F.pAqEn, F.pEqEn, F.pAqLog, F.pEqLog, F.pAqVec, F.pAqVecEn,
   F.pEqVec, F.pEqVecEn, F.pAqSqL, F.pAqSqH, F.pAqCqL, F.pAqCqH,
   F.pAqCbL, F.pAqCbH, F.pEqBaseL, F.pEqBaseH, F.pEqCbL, F.pEqCbH,
   F.pEqPayL, F.pEqPayH, F.pRingsMax, F.pHostPort, F.pRings]

/-! Table 15-8. Identity, seal and module security registers, BAR0 0x0000_0000. -/

/-- FUSE_SVN, Table 15-8. -/
def F.idFuseSvn : Fld := ⟨.ident, 0x0200, 0, 1, 0, 7, .ro, .const 0, .any⟩
/-- FW_SVN, Table 15-8. -/
def F.idFwSvn : Fld := ⟨.ident, 0x0200, 0, 1, 7, 7, .ro, .const 0, .any⟩
/-- CAL_FACT, Table 15-8. -/
def F.idCalFact : Fld := ⟨.ident, 0x0200, 0, 1, 14, 1, .ro, .const 1, .any⟩
/-- CLAIMED, Table 15-8. -/
def F.idClaimed : Fld := ⟨.ident, 0x0200, 0, 1, 15, 1, .ro, .const 0, .any⟩
/-- DBG_OPEN, Table 15-8. -/
def F.idDbgOpen : Fld := ⟨.ident, 0x0200, 0, 1, 16, 1, .ro, .const 0, .any⟩
/-- IMAGE, Table 15-8. -/
def F.idImage : Fld := ⟨.ident, 0x0200, 0, 1, 17, 1, .ro, .const 0, .any⟩
/-- RSV_MODE, Table 15-8. -/
def F.idRsvMode : Fld := ⟨.ident, 0x0200, 0, 1, 18, 2, .ro, .const 0, .any⟩
/-- MR, Table 15-8. -/
def F.idMr : Fld := ⟨.ident, 0x0400, 64, 8, 0, 512, .ro, .boot, .any⟩

/-- The fields of Table 15-8. -/
def F.t15_8_ident : List Fld :=
  [F.idFuseSvn, F.idFwSvn, F.idCalFact, F.idClaimed, F.idDbgOpen, F.idImage,
   F.idRsvMode, F.idMr]

/-! Table 15-9. Partition window p at 0x0010_0000 + p x 0x0001_0000. -/

/-- PSTATE, Table 15-9. -/
def F.pPstate : Fld := ⟨.part, 0x0F00, 0, 1, 0, 2, .ro, .const 0, .any⟩
/-- CONF, Table 15-9. -/
def F.pConf : Fld := ⟨.part, 0x0F00, 0, 1, 2, 1, .ro, .const 0, .any⟩
/-- GEN, Table 15-9. -/
def F.pGen : Fld := ⟨.part, 0x0F04, 0, 1, 0, 32, .ro, .const 0, .any⟩
/-- KEYS, Table 15-9. -/
def F.pKeys : Fld := ⟨.part, 0x0F08, 0, 1, 0, 16, .ro, .const 0, .any⟩
/-- MKEY_GEN, Table 15-9. -/
def F.pMkeyGen : Fld := ⟨.part, 0x0F08, 0, 1, 16, 1, .ro, .const 0, .any⟩
/-- MEM_QUOTA, Table 15-9. -/
def F.pMemQuota : Fld := ⟨.part, 0x0F0C, 0, 1, 0, 12, .ro, .const 0, .any⟩
/-- SHARED, Table 15-9. -/
def F.pShared : Fld := ⟨.part, 0x0F0C, 0, 1, 12, 4, .ro, .const 0, .any⟩
/-- CGRP_L, Table 15-9. -/
def F.pCgrpL : Fld := ⟨.part, 0x0F10, 0, 1, 0, 32, .ro, .const 0, .any⟩
/-- CGRP_H, Table 15-9. -/
def F.pCgrpH : Fld := ⟨.part, 0x0F14, 0, 1, 0, 4, .ro, .const 0, .any⟩
/-- SCRUBS, Table 15-9. -/
def F.pScrubs : Fld := ⟨.part, 0x0F18, 0, 1, 0, 32, .ro, .const 0, .any⟩

/-- The fields of Table 15-9. -/
def F.t15_9_part : List Fld :=
  [F.pPstate, F.pConf, F.pGen, F.pKeys, F.pMkeyGen, F.pMemQuota,
   F.pShared, F.pCgrpL, F.pCgrpH, F.pScrubs]

/-! Table 16-5. Power and thermal registers, BAR0 0x0060_0000. -/

/-- PCAP, Table 16-5. -/
def F.pwrPcap : Fld := ⟨.pwr, 0x0000, 0, 1, 0, 11, .rws, .const 1200, .range 700 1400 0x0B01⟩
/-- VWARN_TH, Table 16-5. -/
def F.pwrVwarnTh : Fld := ⟨.pwr, 0x0004, 0, 1, 0, 9, .rwl, .const 440, .range 420 460 0x0B02⟩
/-- VRST_TH, Table 16-5. -/
def F.pwrVrstTh : Fld := ⟨.pwr, 0x0004, 0, 1, 16, 9, .rwl, .const 400, .range 380 410 0x0B03⟩
/-- IDLE_TICKS, Table 16-5. -/
def F.pwrIdleTicks : Fld := ⟨.pwr, 0x0008, 0, 1, 0, 16, .rwl, .const 200, .range 1 65535 0x0B04⟩
/-- STILL_EN, Table 16-5. -/
def F.pwrStillEn : Fld := ⟨.pwr, 0x0008, 0, 1, 16, 1, .rwl, .const 0, .any⟩
/-- STILL_TICKS, Table 16-5. -/
def F.pwrStillTicks : Fld := ⟨.pwr, 0x0008, 0, 1, 17, 15, .rwl, .const 20000, .range 1000 32767 0x0B05⟩
/-- DIE_TLIM, Table 16-5. -/
def F.pwrDieTlim : Fld := ⟨.pwr, 0x000C, 0, 1, 0, 7, .rwl, .const 100, .range 85 105 0x0B06⟩
/-- HUB_TLIM, Table 16-5. -/
def F.pwrHubTlim : Fld := ⟨.pwr, 0x000C, 0, 1, 8, 7, .rwl, .const 95, .range 85 105 0x0B07⟩
/-- MSTATE, Table 16-5. -/
def F.pwrMstate : Fld := ⟨.pwr, 0x0010, 0, 1, 0, 2, .ro, .const 0, .any⟩
/-- VWARN, Table 16-5. -/
def F.pwrVwarn : Fld := ⟨.pwr, 0x0010, 0, 1, 2, 1, .ro, .const 0, .any⟩
/-- SUP_UNST, Table 16-5. -/
def F.pwrSupUnst : Fld := ⟨.pwr, 0x0010, 0, 1, 3, 1, .ro, .const 0, .any⟩
/-- TCRIT, Table 16-5. -/
def F.pwrTcrit : Fld := ⟨.pwr, 0x0010, 0, 1, 4, 1, .ro, .const 0, .any⟩
/-- RESTORE, Table 16-5. -/
def F.pwrRestore : Fld := ⟨.pwr, 0x0010, 0, 1, 5, 3, .ro, .const 0, .any⟩
/-- CAP_EFF, Table 16-5. -/
def F.pwrCapEff : Fld := ⟨.pwr, 0x0010, 0, 1, 8, 11, .ro, .const 1200, .any⟩
/-- DIPS, Table 16-5. -/
def F.pwrDips : Fld := ⟨.pwr, 0x0010, 0, 1, 19, 4, .ro, .const 0, .any⟩
/-- VIN, Table 16-5. -/
def F.pwrVin : Fld := ⟨.pwr, 0x0014, 0, 1, 0, 16, .ro, .const 0, .any⟩
/-- IIN, Table 16-5. -/
def F.pwrIin : Fld := ⟨.pwr, 0x0014, 0, 1, 16, 16, .ro, .const 0, .any⟩
/-- PIN_TICK, Table 16-5. -/
def F.pwrPinTick : Fld := ⟨.pwr, 0x0018, 0, 1, 0, 16, .ro, .const 0, .any⟩
/-- PIN_PEAK, Table 16-5. -/
def F.pwrPinPeak : Fld := ⟨.pwr, 0x0018, 0, 1, 16, 16, .ro, .const 0, .any⟩
/-- EXC_CNT, Table 16-5. -/
def F.pwrExcCnt : Fld := ⟨.pwr, 0x001C, 0, 1, 0, 32, .ro, .const 0, .any⟩
/-- EIN, Table 16-5. -/
def F.pwrEin : Fld := ⟨.pwr, 0x0020, 0, 1, 0, 64, .ro, .const 0, .any⟩
/-- EOH, Table 16-5. -/
def F.pwrEoh : Fld := ⟨.pwr, 0x0028, 0, 1, 0, 64, .ro, .const 0, .any⟩
/-- LEDGER_EP, Table 16-5. -/
def F.pwrLedgerEp : Fld := ⟨.pwr, 0x0030, 0, 1, 0, 32, .ro, .const 1, .any⟩
/-- QIN, Table 16-5. -/
def F.pwrQin : Fld := ⟨.pwr, 0x0034, 0, 1, 0, 64, .ro, .const 0, .any⟩
/-- DIPS_TOT, Table 16-5. -/
def F.pwrDipsTot : Fld := ⟨.pwr, 0x003C, 0, 1, 0, 32, .ro, .const 0, .any⟩
/-- ZTEMP, Table 16-5. -/
def F.pwrZtemp : Fld := ⟨.pwr, 0x0040, 4, 10, 0, 8, .ro, .const 0, .any⟩
/-- ZLIM, Table 16-5. -/
def F.pwrZlim : Fld := ⟨.pwr, 0x0040, 4, 10, 8, 7, .ro, .const 64, .any⟩
/-- ZTEMP_MAX, Table 16-5. -/
def F.pwrZtempMax : Fld := ⟨.pwr, 0x0040, 4, 10, 16, 8, .ro, .const 0, .any⟩

/-- The fields of Table 16-5. -/
def F.t16_5_pwr : List Fld :=
  [F.pwrPcap, F.pwrVwarnTh, F.pwrVrstTh, F.pwrIdleTicks, F.pwrStillEn, F.pwrStillTicks,
   F.pwrDieTlim, F.pwrHubTlim, F.pwrMstate, F.pwrVwarn, F.pwrSupUnst, F.pwrTcrit,
   F.pwrRestore, F.pwrCapEff, F.pwrDips, F.pwrVin, F.pwrIin, F.pwrPinTick,
   F.pwrPinPeak, F.pwrExcCnt, F.pwrEin, F.pwrEoh, F.pwrLedgerEp, F.pwrQin,
   F.pwrDipsTot, F.pwrZtemp, F.pwrZlim, F.pwrZtempMax]

/-! Table 16-6. Partition window p at 0x0010_0000 + p x 0x0001_0000. -/

/-- ISSUE_PREF, Table 16-6. -/
def F.pIssuePref : Fld := ⟨.part, 0x1000, 4, 16, 0, 7, .rwl, .const 64, .range 8 64 0x0B08⟩
/-- EPRIO, Table 16-6. -/
def F.pEprio : Fld := ⟨.part, 0x1000, 4, 16, 8, 2, .rwl, .const 1, .any⟩
/-- PEN, Table 16-6. -/
def F.pPen : Fld := ⟨.part, 0x1040, 0, 1, 0, 64, .ro, .const 0, .any⟩
/-- LIM_AVG, Table 16-6. -/
def F.pLimAvg : Fld := ⟨.part, 0x1048, 0, 1, 0, 7, .ro, .const 0, .any⟩
/-- CAPPED_TK, Table 16-6. -/
def F.pCappedTk : Fld := ⟨.part, 0x104C, 0, 1, 0, 32, .ro, .const 0, .any⟩

/-- The fields of Table 16-6. -/
def F.t16_6_part : List Fld :=
  [F.pIssuePref, F.pEprio, F.pPen, F.pLimAvg, F.pCappedTk]

/-! Table 17-7. Reset registers, BAR0 0x0070_0000. -/

/-- SWRST, Table 17-7. -/
def F.rstSwrst : Fld := ⟨.rst, 0x0000, 0, 1, 0, 8, .wo, .const 0, .any⟩
/-- LOCK_TICKS, Table 17-7. -/
def F.rstLockTicks : Fld := ⟨.rst, 0x0004, 0, 1, 0, 16, .rwl, .const 1000, .range 16 65535 0x0C01⟩
/-- LOCK_EN, Table 17-7. -/
def F.rstLockEn : Fld := ⟨.rst, 0x0004, 0, 1, 16, 1, .rwl, .const 1, .any⟩
/-- LAST_SRC, Table 17-7. -/
def F.rstLastSrc : Fld := ⟨.rst, 0x0008, 0, 1, 0, 4, .ro, .const 1, .any⟩
/-- LAST_COLD, Table 17-7. -/
def F.rstLastCold : Fld := ⟨.rst, 0x0008, 0, 1, 4, 1, .ro, .const 1, .any⟩
/-- ESCAL, Table 17-7. -/
def F.rstEscal : Fld := ⟨.rst, 0x0008, 0, 1, 5, 1, .ro, .const 0, .any⟩
/-- SRC_SEEN, Table 17-7. -/
def F.rstSrcSeen : Fld := ⟨.rst, 0x0008, 0, 1, 6, 8, .ro, .const 1, .any⟩
/-- WARM_CNT, Table 17-7. -/
def F.rstWarmCnt : Fld := ⟨.rst, 0x000C, 0, 1, 0, 32, .ro, .const 0, .any⟩
/-- COLD_CNT, Table 17-7. -/
def F.rstColdCnt : Fld := ⟨.rst, 0x0010, 0, 1, 0, 32, .ro, .const 1, .any⟩
/-- RST_US, Table 17-7. -/
def F.rstRstUs : Fld := ⟨.rst, 0x0014, 0, 1, 0, 32, .ro, .const 0, .any⟩
/-- CORE_RST, Table 17-7. -/
def F.rstCoreRst : Fld := ⟨.rst, 0x0100, 4, 9, 0, 32, .wo, .const 0, .any⟩
/-- FAB_RST, Table 17-7. -/
def F.rstFabRst : Fld := ⟨.rst, 0x0140, 0, 1, 0, 12, .wo, .const 0, .any⟩
/-- MEMC_RST, Table 17-7. -/
def F.rstMemcRst : Fld := ⟨.rst, 0x0144, 0, 1, 0, 24, .wo, .const 0, .any⟩
/-- ENG_RST, Table 17-7. -/
def F.rstEngRst : Fld := ⟨.rst, 0x0148, 0, 1, 0, 22, .wo, .const 0, .any⟩
/-- CORE_INR, Table 17-7. -/
def F.rstCoreInr : Fld := ⟨.rst, 0x0180, 4, 9, 0, 32, .ro, .const 0, .any⟩
/-- FAB_INR, Table 17-7. -/
def F.rstFabInr : Fld := ⟨.rst, 0x01C0, 0, 1, 0, 12, .ro, .const 0, .any⟩
/-- MEMC_INR, Table 17-7. -/
def F.rstMemcInr : Fld := ⟨.rst, 0x01C4, 0, 1, 0, 24, .ro, .const 0, .any⟩
/-- ENG_INR, Table 17-7. -/
def F.rstEngInr : Fld := ⟨.rst, 0x01C8, 0, 1, 0, 22, .ro, .const 0, .any⟩
/-- MNT_RUN, Table 17-7. -/
def F.rstMntRun : Fld := ⟨.rst, 0x0200, 0, 1, 0, 8, .ro, .const 0, .any⟩
/-- MNT_Q, Table 17-7. -/
def F.rstMntQ : Fld := ⟨.rst, 0x0200, 0, 1, 8, 8, .ro, .const 0, .any⟩

/-- The fields of Table 17-7. -/
def F.t17_7_rst : List Fld :=
  [F.rstSwrst, F.rstLockTicks, F.rstLockEn, F.rstLastSrc, F.rstLastCold, F.rstEscal,
   F.rstSrcSeen, F.rstWarmCnt, F.rstColdCnt, F.rstRstUs, F.rstCoreRst, F.rstFabRst,
   F.rstMemcRst, F.rstEngRst, F.rstCoreInr, F.rstFabInr, F.rstMemcInr, F.rstEngInr,
   F.rstMntRun, F.rstMntQ]

/-- Every register field the spec gives the module, table by table. -/
def F.all : List Fld :=
  F.t1_9_part ++ F.t1_10_ident ++ F.t2_1_cad ++ F.t2_7_part ++ F.t3_16_part ++
  F.t4_9_part ++ F.t5_9_part ++ F.t6_12_part ++ F.t7_12_part ++ F.t8_8_mem ++
  F.t8_9_part ++ F.t9_11_tier ++ F.t9_12_part ++ F.t10_7_net ++ F.t11_11_gnx ++
  F.t11_12_part ++ F.t12_12_part ++ F.t13_6_part ++ F.t14_16_ident ++ F.t14_17_host ++
  F.t14_18_mq ++ F.t14_19_part ++ F.t15_8_ident ++ F.t15_9_part ++ F.t16_5_pwr ++
  F.t16_6_part ++ F.t17_7_rst

end Sys2Proof.Machine
end

