-- ==== Sys2Proof/Machine/Ops.lean ====
section
/-! DEFINITION. The named operations every family uses: register fields, partitions and cores, bytes of memory,
records on their way to their rings, the completion of descriptors, and the close of a command. -/
namespace Sys2Proof
open Machine

/-- Bits [lo + w - 1 : lo] of a descriptor, counted from bit 0 of byte 16 (R661). -/
def Desc.fld (d : Desc) (lo w : Nat) : Nat := fldN d.body.toNat lo w

/-- The w-bit field of a descriptor that begins at byte n of the descriptor. -/
def Desc.at (d : Desc) (n w : Nat) : Nat := fldN d.body.toNat ((n - 16) * 8) w

/-- A 128-bit address field from byte n of a descriptor, its first byte highest. -/
def Desc.addr (d : Desc) (n : Nat) : Nat := (List.range 16).foldl (fun a i => a * 256 + d.at (n + i) 8) 0

end Sys2Proof

namespace Sys2Proof.Machine

/-! ## Register fields (R13 to R15) -/

/-- Where block number b of a kind begins in BAR0 (Table 14-4 and the tables of each chapter). -/
def Blk.base : Blk → Nat → Nat
  | .ident, _ => 0
  | .host, n => 0x10000 + n * 0x8000
  | .part, p => 0x100000 + p * 0x10000
  | .net, n => 0x400000 + n * 0x10000
  | .cad, _ => 0x480000
  | .gnx, _ => 0x490000
  | .mem, _ => 0x500000
  | .tier, _ => 0x502000
  | .pwr, _ => 0x600000
  | .rst, _ => 0x700000
  | .mq, n => 0x800000 + n * 0x1000

/-- How many blocks of a kind there are. -/
def Blk.count : Blk → Nat
  | .host => 2
  | .mq => 2
  | .net => 8
  | .part => 36
  | _ => 1

/-- The BAR0 offset of the register that holds a field. -/
def Fld.addr (f : Fld) (b i : Nat) : Nat := f.blk.base b + f.off + f.stride * i

/-- The key of a field in the register file: its BAR0 offset and its lowest bit. -/
def Fld.key (f : Fld) (b i : Nat) : Nat := f.addr b i * 64 + f.lo

/-- The Reset value of a field (R15), the Reset column of its table. -/
def Fld.resetVal (f : Fld) (b i : Nat) : Nat :=
  match f.rst with
  | .const n => n
  | .idx => i
  | .idxDiv n => i / n
  | .blkDiv n => b / n
  | .siteState => if i < 288 then 0 else 1
  | .siteCore => if i < 288 then i else 0x1FF
  | .boot => if i < 6 then (Config.bootMeasure i).toNat else 0
  | .dscp j => nthD [0, 8, 10, 18, 26, 34, 46, 48] (4 * i + j) 0

/-- The value of register field f in block b at index i. -/
def State.rd (s : State) (f : Fld) (b : Nat := 0) (i : Nat := 0) : Nat :=
  (tget? s.regs (f.key b i)).getD (f.resetVal b i)

/-- Register field f in block b at index i set to v, v taken to the field's width. A field at its Reset value is not
listed, so equal register files are equal data. -/
def State.wr (s : State) (f : Fld) (v : Nat) (b : Nat := 0) (i : Nat := 0) : State :=
  let w := v % 2 ^ f.w
  { s with regs := if w = f.resetVal b i then tdel s.regs (f.key b i) else tput s.regs (f.key b i) w }

/-- A saturating counter field raised by n. -/
def State.inc (s : State) (f : Fld) (n : Nat) (b : Nat := 0) (i : Nat := 0) : State :=
  s.wr f (capN (2 ^ f.w - 1) (s.rd f b i + n)) b i

/-- A 64-bit cumulative counter raised by n. -/
def State.add (s : State) (f : Fld) (n : Nat) (b : Nat := 0) (i : Nat := 0) : State := s.wr f (s.rd f b i + n) b i

/-- A one-bit field as a truth value. -/
def State.flag (s : State) (f : Fld) (b : Nat := 0) (i : Nat := 0) : Bool := s.rd f b i == 1

/-- The current tick number (R55). -/
def State.tick (s : State) : Nat := s.rd F.cadTickNow

/-! ## Partitions, cores and module blocks -/

/-- What the module holds of partition p beside its registers. -/
def State.part (s : State) (p : Nat) : PartState := tgetD s.parts p PartState.init

/-- Partition p changed by f. -/
def State.modPart (s : State) (p : Nat) (f : PartState → PartState) : State := { s with parts := tput s.parts p (f (s.part p)) }

/-- The steps-and-plans side of partition p changed by f. -/
def State.modCad (s : State) (p : Nat) (f : PCad → PCad) : State := s.modPart p (fun x => { x with cad := f x.cad })

/-- Logical core c. -/
def State.core (s : State) (c : Nat) : CoreState := tgetD s.cores c CoreState.init

/-- Logical core c changed by f. -/
def State.modCore (s : State) (c : Nat) (f : CoreState → CoreState) : State := { s with cores := tput s.cores c (f (s.core c)) }

/-- Stack n. -/
def State.stack (s : State) (n : Nat) : Stack := tgetD s.mem.stackTab n Stack.init

/-- Stack n changed by f. -/
def State.modStack (s : State) (n : Nat) (f : Stack → Stack) : State :=
  { s with mem := { s.mem with stackTab := tput s.mem.stackTab n (f (s.stack n)) } }

/-- Host port q. -/
def State.port (s : State) (q : Nat) : HPort := tgetD s.host.ports q HPort.init

/-- Host port q changed by f. -/
def State.modPort (s : State) (q : Nat) (f : HPort → HPort) : State :=
  { s with host := { s.host with ports := tput s.host.ports q (f (s.port q)) } }

/-- PSTATE of partition p: 0 free, 1 created, 2 sealed, 3 scrubbing (Table 15-9). -/
def State.pstate (s : State) (p : Nat) : Nat := s.rd F.pPstate p

/-- Whether partition p is confidential (Table 15-9). -/
def State.confidential (s : State) (p : Nat) : Bool := s.flag F.pConf p

/-- The host port of partition p. -/
def State.portOf (s : State) (p : Nat) : Nat := s.rd F.pHostPort p

/-- Whether the stop of hub die HDq, q below 2, is in reset: traffic through it is held at its producers (Table 17-6). -/
def State.hostStopped (s : State) (q : Nat) : Bool := bitN (s.rd F.rstFabInr) (8 + q)

/-- Whether the tier engine of HDq holds its reads: it, or its die's stop, is in reset (Table 17-6). -/
def State.tierHolds (s : State) (q : Nat) : Bool := bitN (s.rd F.rstEngInr) (14 + q) || s.hostStopped q

/-- Whether the partition's seal bit counts as set (R533, R535). -/
def State.psealed (s : State) (p : Nat) : Bool :=
  if p < 32 then bitN (s.rd F.idPsealedL) p else bitN (s.rd F.idPsealedH) (p - 32)

/-- The partition's bit of PSEALED set or cleared. -/
def State.setPsealed (s : State) (p : Nat) (v : Bool) : State :=
  if p < 32 then s.wr F.idPsealedL (setFld (s.rd F.idPsealedL) p 1 (b2n v))
  else s.wr F.idPsealedH (setFld (s.rd F.idPsealedH) (p - 32) 1 (b2n v))

/-- Whether every seal partition p needs is set (R534). -/
def State.sealedFor (s : State) (p : Nat) : Bool := s.flag F.idMsealed && s.psealed p

/-- The core groups partition p holds (Table 15-9). -/
def State.cgroups (s : State) (p : Nat) : Nat := s.rd F.pCgrpL p + 2 ^ 32 * s.rd F.pCgrpH p

/-- Whether logical core c belongs to partition p. -/
def State.ownsCore (s : State) (p c : Nat) : Bool := bitN (s.cgroups p) (c / 8) && (c < 288)

/-- The partition that holds logical core c, if any. -/
def State.partOfCore (s : State) (c : Nat) : Option Nat :=
  (List.range 36).find? (fun p => s.pstate p != 0 && s.ownsCore p c)

/-- The partitions that are not free. -/
def State.liveParts (s : State) : List Nat := (List.range 36).filter (fun p => s.pstate p != 0)

/-- The compute die of logical core c: its site divided by 40 (01_organization.md). -/
def State.dieOf (s : State) (c : Nat) : Nat := s.rd F.idSite 0 c / 40

/-- A fresh free value's number: the counter the opaque functions of Config are applied to, then raised. -/
def State.fresh (s : State) : Nat × State := (s.freeCtr, { s with freeCtr := s.freeCtr + 1 })

/-! ## Bytes by address -/

/-- The byte a sparse memory holds at an address; an unlisted address reads as zero. -/
def cellGet (m : List Host.Cell) (a : Nat) : Byte :=
  match m with
  | [] => 0
  | (b, v) :: r => if b = a then v else if a < b then 0 else cellGet r a

/-- A sparse memory with address a holding v; writing zero removes the entry, so equal memories are equal lists. -/
def cellPut (m : List Host.Cell) (a : Nat) (v : Byte) : List Host.Cell :=
  match m with
  | [] => if v = 0 then [] else [(a, v)]
  | (b, w) :: r =>
    if b < a then (b, w) :: cellPut r a v
    else if b = a then (if v = 0 then r else (a, v) :: r)
    else if v = 0 then (b, w) :: r else (a, v) :: (b, w) :: r

/-- The canonical form of a sparse memory: addresses strictly rising and no entry equal to zero. -/
def cellsWf : List Host.Cell → Bool
  | [] => true
  | [c] => c.2 != 0
  | a :: b :: r => a.2 != 0 && decide (a.1 < b.1) && cellsWf (b :: r)

/-- n bytes from address a. -/
def cellsRead (m : List Host.Cell) (a n : Nat) : List Byte := (List.range n).map (fun i => cellGet m (a + i))

/-- Bytes stored from address a on. -/
def cellsWrite (m : List Host.Cell) (a : Nat) : List Byte → List Host.Cell
  | [] => m
  | b :: bs => cellsWrite (cellPut m a b) (a + 1) bs

/-- Addresses [a, a + n) made zero. -/
def cellsClear (m : List Host.Cell) (a n : Nat) : List Host.Cell := m.filter (fun c => c.1 < a || a + n ≤ c.1)

/-- The key of a host bus address of port q in the host memory the module knows. -/
def hostAddr (q a : Nat) : Nat := q * 2 ^ 64 + a % 2 ^ 64

/-- n bytes of host memory of port q from bus address a. -/
def State.hostRead (s : State) (q a n : Nat) : List Byte := (List.range n).map (fun i => cellGet s.host.mem (hostAddr q (a + i)))

/-- Bytes written to host memory of port q from bus address a. -/
def State.hostWrite (s : State) (q a : Nat) (bs : List Byte) : State :=
  { s with host := { s.host with mem := cellsWrite s.host.mem (hostAddr q a) bs } }

/-! ## Records (R17, R520 to R524) -/

/-- PART of a record that names no partition (Tables 14-11, 14-12). -/
def noPart : Nat := 0x3F

/-- A signed number as a 64-bit payload word. -/
def sword (i : Int) : Nat := toField 64 i

/-- A record put on its way to a ring. -/
def State.emit (s : State) (r : Route) (x : Rec) : State := { s with out := s.out ++ [⟨r, x⟩] }

/-- An event that names partition p, to its event ring (R521). -/
def State.event (s : State) (type p : Nat) (words : List Nat) : State :=
  s.emit (.part p) (.event type p false s.tick words)

/-- An event to the module event ring of port q alone (R521). -/
def State.eventAt (s : State) (q type part : Nat) (words : List Nat) : State :=
  s.emit (.port q) (.event type part false s.tick words)

/-- An event that names no partition, to the module event ring of each port (R521). -/
def State.eventAll (s : State) (type : Nat) (words : List Nat) : State :=
  (s.eventAt 0 type noPart words).eventAt 1 type noPart words

/-- An event on both module event rings that concerns partition p: of a confidential partition the words at the places in
hide (its PVA, DPA, column, TOKEN, GRAIN_ID and logical core) are zero and REDACTED is set (R521, R554). -/
def State.eventRedacted (s : State) (type p : Nat) (words hide : List Nat) : State :=
  let c := s.confidential p
  let w := if c then ((List.range words.length).zip words).map (fun e => if hide.contains e.1 then 0 else e.2) else words
  let x := Rec.event type p c s.tick w
  (s.emit (.port 0) x).emit (.port 1) x

/-- Clamp sources (Table 14-12): a register write, a descriptor or image, a grain. -/
def csrcWrite : Nat := 0
def csrcDesc : Nat := 1
def csrcGrain : Nat := 2

/-- A clamp record of a grain of partition p (R521, Table 14-12). -/
def State.clampGrain (s : State) (p c gid : Nat) (reason field requested applied : Nat) : State :=
  s.emit (.part p) (.clamp reason field p (csrcGrain + 4 * s.portOf p) 0 (gid + c * 2 ^ 16) requested applied)

/-- A clamp record of a register write through port q; a partition window's goes to the partition's ring. -/
def State.clampReg (s : State) (q : Nat) (part : Option Nat) (reason field addr requested applied : Nat) : State :=
  match part with
  | some p => s.emit (.part p) (.clamp reason field p (csrcWrite + 4 * q) 0 addr requested applied)
  | none => s.emit (.port q) (.clamp reason field noPart (csrcWrite + 4 * q) 0 addr requested applied)

/-! ## Rings (R509 to R515) -/

/-- The key of ring r of partition p among the rings: 0 to 63 its ring pairs, 64 its event ring. -/
def pairKey (p r : Nat) : Nat := p * 66 + r
def eventKey (p : Nat) : Nat := p * 66 + 64
def moduleKey (q : Nat) : Nat := 36 * 66 + q

/-- The port a ring key belongs to. -/
def State.keyPort (s : State) (k : Nat) : Nat := if k < 36 * 66 then s.portOf (k / 66) else k - 36 * 66

def State.ring? (s : State) (k : Nat) : Option Ring := tget? s.host.rings k

def State.putRing (s : State) (k : Nat) (r : Ring) : State := { s with host := { s.host with rings := tput s.host.rings k r } }

def State.delRing (s : State) (k : Nat) : State := { s with host := { s.host with rings := tdel s.host.rings k } }

/-- The ring a route leads to, if one is bound; a completion route leads only to the ring life it names, but ring 0 is never destroyed:
it takes its records at its next binding (R525, R530). -/
def State.routeKey? (s : State) : Route → Option Nat
  | .cpl p r life =>
    match s.ring? (pairKey p r) with
    | some x => if x.life = life || r == 0 then some (pairKey p r) else none
    | none => none
  | .part p => if thas s.host.rings (eventKey p) then some (eventKey p) else none
  | .port q => if thas s.host.rings (moduleKey q) then some (moduleKey q) else none

/-- The port whose backlog keeps a record of a route. -/
def State.routePort (s : State) : Route → Nat
  | .cpl p _ _ => s.portOf p
  | .part p => s.portOf p
  | .port q => q

/-- PHASE of record n in a ring of the given entries (R514). -/
def phaseOf (n entries : Nat) : Nat := (n / entries + 1) % 2

/-- The 32 bytes of record number n (Tables 14-10 to 14-12). -/
def recBytes (n entries : Nat) : Rec → List Byte
  | .cpl opcode status cflags tag cookie tick result =>
    leBytes 1 (1 + 128 * phaseOf n entries) ++ leBytes 1 opcode ++ leBytes 1 status ++ leBytes 1 cflags ++ leBytes 4 tag ++
      leBytes 8 cookie ++ leBytes 8 tick ++ leBytes 8 result
  | .event type part redacted tick words =>
    leBytes 1 (2 + 128 * phaseOf n entries) ++ leBytes 1 type ++ leBytes 1 part ++
      leBytes 1 (b2n (decide (2 < words.length)) + 2 * b2n redacted) ++ leBytes 4 n ++ leBytes 8 tick ++
      leBytes 8 (nthD words 0 0) ++ leBytes 8 (nthD words 1 0)
  | .clamp reason field part csrc opcode site requested applied =>
    leBytes 1 (3 + 128 * phaseOf n entries) ++ leBytes 1 reason ++ leBytes 2 field ++ leBytes 1 part ++ leBytes 1 csrc ++
      leBytes 1 opcode ++ leBytes 1 0 ++ leBytes 4 site ++ leBytes 4 0 ++ leBytes 8 requested ++ leBytes 8 applied

/-- The words an event writes to its payload slot: all of them when there are more than two (R520). -/
def recPayload : Rec → List Byte
  | .event _ _ _ _ words => if 2 < words.length then words.flatMap (leBytes 8) else []
  | _ => []

/-- Whether a record is a completion record. -/
def Rec.isCpl : Rec → Bool
  | .cpl .. => true
  | _ => false

/-- The completion record with ORPHAN set (R528, R530). -/
def Rec.orphan : Rec → Rec
  | .cpl o st cf t c k r => .cpl o st (if bitN cf 2 then cf else cf + 4) t c k r
  | x => x

/-- Whether a ring has room for one more record (R511, R525). -/
def Ring.room (r : Ring) : Bool := !r.stopped && (r.cqTail - r.cqHead < 2 ^ r.log)

/-- An MSI-X message of vector v of port q: sent, or held pending while the vector or the function is masked (R526). -/
def State.msixSend (s : State) (q v : Nat) : State :=
  let h := s.port q
  let x := tgetD h.vectors v { masked := true, pending := false }
  if h.msixFnMask || x.masked then s.modPort q (fun h => { h with vectors := tput h.vectors v { x with pending := true } })
  else s.inc F.hpMsixSent 1 q

/-- Whether ring r sends its message on a record when it has n records since its last message (R526). -/
def State.msixDue (s : State) (q : Nat) (r : Ring) (n : Nat) : Bool :=
  r.vecEn && (s.rd F.hpHifAgreed q < 0x12 || r.coalCnt ≤ n || r.coalUs == 0)

/-- A record written into the ring at key k: its bytes, its payload slot, CQ_TAIL, the counts, RDY_N and the ring's
message (R509, R514, R526, R527). -/
def State.writeRec (s : State) (k : Nat) (r : Ring) (x : Rec) : State :=
  let q := s.keyPort k
  let n := r.cqTail
  let e := 2 ^ r.log
  let s := s.hostWrite q (r.cqBase + n % e * 32) (recBytes n e x)
  let s := if recPayload x = [] then s else s.hostWrite q (r.pay + n % e * 256) (recPayload x)
  let s := s.hostWrite q (r.cb + 72) (leBytes 8 (n + 1))
  let due := s.msixDue q r (r.sinceMsg + 1)
  let s := s.putRing k { r with cqTail := n + 1, sinceMsg := if due then 0 else r.sinceMsg + 1 }
  let s := if x.isCpl then s.add F.hpCpl 1 q else s
  let s := s.modPort q (fun h => { h with rdyN := false })
  if due then s.msixSend q r.vec else s

/-- The most records a port's backlog keeps (R525). -/
def backlogMax : Nat := 65536

/-- A record put into the backlog of port q, or discarded and counted when the backlog is full (R525). -/
def State.toBacklog (s : State) (q : Nat) (o : OutRec) : State :=
  let h := s.port q
  if h.backlog.length < backlogMax then
    (s.modPort q (fun h => { h with backlog := h.backlog ++ [o], rdyN := false })).wr F.hpBacklog (h.backlog.length + 1) q
  else (s.modPort q (fun h => { h with lostPending := h.lostPending + 1 })).inc F.hpRecLost 1 q

/-- A record whose completion ring is gone becomes an orphan of its partition's event ring (R530, R531). -/
def State.resolve (s : State) (o : OutRec) : OutRec :=
  match o.route with
  | .cpl p r _ => if r = 0 then ⟨.cpl p 0 0, o.record⟩ else if (s.routeKey? o.route).isSome then o else ⟨.part p, o.record.orphan⟩
  | _ => o

/-- One record delivered: into its ring when the ring has room and nothing older waits for it, else into the backlog
(R514, R525). -/
def State.deliver (s : State) (o : OutRec) : State :=
  let o := s.resolve o
  let q := s.routePort o.route
  match s.routeKey? o.route with
  | none => s.toBacklog q o
  | some k =>
    match s.ring? k with
    | none => s.toBacklog q o
    | some r =>
      if r.room && !(s.port q).backlog.any (fun b => b.route == o.route) then s.writeRec k r o.record
      else s.toBacklog q o

/-- Every record on its way delivered, oldest first; until the host domain has been released they wait behind the reset event
(R621). -/
def State.flush (s : State) : State := if s.rst.stage < 4 then s else s.out.foldl State.deliver { s with out := [] }

/-- The close of a command: its records are delivered and the block goes on. Every meaning ends here. -/
def finish (s : State) : Host.Outcome State Fault Refusal := .next s.flush

/-- One waiting record of port q's backlog written if its ring has room, or kept. -/
def State.drainOne (s : State) (q : Nat) (o : OutRec) : State :=
  let o := s.resolve o
  let keep := fun (s : State) => s.modPort q (fun h => { h with backlog := h.backlog ++ [o] })
  match s.routeKey? o.route with
  | none => keep s
  | some k =>
    match s.ring? k with
    | none => keep s
    | some r => if r.room && !(s.port q).backlog.any (fun b => b.route == o.route) then s.writeRec k r o.record else keep s

/-- The backlog of port q drained in order into the rings that have room, and the event of records lost once the module
event ring has room (R521, R525). -/
def State.drain (s : State) (q : Nat) : State :=
  let b := (s.port q).backlog
  let s := s.modPort q (fun h => { h with backlog := [] })
  let s := b.foldl (fun s o => s.drainOne q o) s
  let s := s.wr F.hpBacklog (s.port q).backlog.length q
  let lost := (s.port q).lostPending
  match s.ring? (moduleKey q) with
  | none => s
  | some r =>
    if lost = 0 || !r.room then s
    else (s.modPort q (fun h => { h with lostPending := 0 })).eventAt q 0x27 noPart
      [q, noPart, 0xFF, 4, 0, 0, 0, 0, lost, 0]

/-! ## Descriptors (R511 to R513, R519, R524, R661) -/

/-- The ring life a descriptor was consumed from changed by f, whether it is bound or gone. -/
def State.modLife (s : State) (d : DRef) (f : Ring → Ring) : State :=
  let k := pairKey d.part d.ring
  let gone := { s with host := { s.host with gone := tmod s.host.gone d.life (fun e => (e.1, f e.2)) } }
  match s.ring? k with
  | none => gone
  | some r => if r.life = d.life then s.putRing k (f r) else gone

/-- A consumed descriptor as its ring life holds it, while it has not completed (R512). -/
def State.owed? (s : State) (d : DRef) : Option DRef :=
  let find := fun (r : Ring) => r.outstanding.find? (fun x => x.num == d.num)
  let gone := (tget? s.host.gone d.life).bind (fun e => find e.2)
  match s.ring? (pairKey d.part d.ring) with
  | none => gone
  | some r => if r.life = d.life then find r else gone

/-- The engine side of a completion: the descriptor no longer stands against its ring (R512). -/
def State.settle (s : State) (d : DRef) : State :=
  s.modLife d (fun r => { r with outstanding := r.outstanding.filter (fun x => x.num != d.num), waiting := r.waiting.filter (fun w => w.2.1 != d.num) })

/-- A clamp record of a descriptor of partition p (R521, Table 14-12); its completion will say CLAMPED (R524). -/
def State.clampDesc (s : State) (d : DRef) (reason field requested applied : Nat) : State :=
  (s.modLife d (fun r => { r with outstanding := r.outstanding.map (fun x => if x.num = d.num then { x with clamped := true } else x) })).emit
    (.part d.part) (.clamp reason field d.part (csrcDesc + 4 * s.portOf d.part) d.opcode d.tag requested applied)

/-- Something has progressed since the last boundary: a grain, or an engine's descriptor (R617). -/
def State.moved (s : State) : State := { s with rst := { s.rst with progress := true } }

/-- The completion record of a consumed descriptor, exactly one for each (R512, Table 14-10). -/
def State.complete (s : State) (d : DRef) (status : Nat) (noop : Bool) (result : Nat) : State :=
  match s.owed? d with
  | none => s
  | some x => (s.settle d).moved.emit (.cpl d.part d.ring d.life)
    (.cpl d.opcode status (b2n (d.clamped || x.clamped) + 2 * b2n noop) d.tag d.cookie s.tick result)

/-- A descriptor completed as done with no result. -/
def State.done (s : State) (d : DRef) : State := s.complete d 0 false 0

/-- The null encoding a clamp record of reason 0x05 gives as APPLIED (R523): the spec says that there is one and not what it is, so it
is a free value by field code (notes/assumptions/2.md). -/
def nullOf (field : Nat) : Nat := (Config.nullEncoding field).toNat

/-- A clamp code of a field whose rule gives none: its block (Table 0-7) over a free low byte, by the block and the field's place
among those without a code (R18, notes/assumptions/2.md). -/
def freeCode (block n : Nat) : Nat := block * 256 + (Config.codeLow block n).toNat

/-- A descriptor with a field set to the null resource (R523, R524): one clamp record of reason 0x05, then a reported
no-op with status 0x01. -/
def State.nullDesc (s : State) (d : DRef) (field requested : Nat) : State :=
  (s.clampDesc d 5 field requested (nullOf field)).complete { d with clamped := true } 1 true 0

/-- A reported no-op with status 0x01 that no field clamp explains. -/
def State.noop (s : State) (d : DRef) : State := s.complete d 1 true 0

/-- Whether the port takes submissions: BUSY_N is high (R528). -/
def State.portReady (s : State) (q : Nat) : Bool := (s.port q).busyN

/-- Whether the module may consume a descriptor of ring k of partition p now (R511, R528, R534). -/
def State.mayConsume (s : State) (p : Nat) (r : Ring) : Bool :=
  let q := s.portOf p
  !r.stopped && r.destroyer.isNone && decide (r.sqHead - r.cqHead < 2 ^ r.log) && s.sealedFor p &&
    s.flag F.hpAttached q && s.portReady q && s.pstate p == 2

/-- Work has come (R609, R610): the module returns to Active, from Still with memory out of self-refresh and its ports training; causes 1 descriptor or doorbell, 2 Gnoxel packet, 3 BAR2 access,
4 management function. -/
def State.wake (s : State) (cause : Nat) : State :=
  let old := s.rd F.pwrMstate
  let s := { s with power := { s.power with worked := true } }
  if old = 0 then s
  else
    let s := { s with power := { s.power with quiet := 0, idleFor := 0 } }
    let s := if old = 2 then
        { s with
          mem := { s.mem with stackTab := tmap s.mem.stackTab (fun _ x => { x with selfRefresh := false }) }
          net := { s.net with ports := (List.range 8).foldl (fun t n =>
            if s.flag F.npParked n then tput t n { tgetD t n NPort.init with unparking := true } else t) s.net.ports } }
      else s
    (s.wr F.pwrMstate 0).eventAll 0x2E [old, 0, cause, s.tick]

/-- A Gnoxel packet heard (R609, R610): one for a partition returns the module to Active, and any does out of Still, where PTP_PORT alone
listens. -/
def State.heard (s : State) (mine : Bool) : State := if mine || s.rd F.pwrMstate == 2 then s.wake 2 else s

/-- A BAR2 access ends Idle (R609); it does not end Still (R610; notes/assumptions/141.md). -/
def State.wakeBar2 (s : State) : State := if s.rd F.pwrMstate = 2 then s else s.wake 3

/-- A descriptor consumed from its ring: SQ_HEAD, DESC and the ring's outstanding list move on; the answer is what the
descriptor's later completion needs. None when R511 does not let the module consume it. -/
def State.consume (s : State) (opcode : Nat) (d : Desc) : Option (DRef × State) :=
  let p := d.part.val
  let k := pairKey p d.ring.val
  match s.ring? k with
  | none => none
  | some r =>
    if s.mayConsume p r then
      let n := r.sqHead
      let x : DRef := ⟨p, d.ring.val, r.life, n, opcode, d.ver.toNat, d.tag.toNat, d.cookie.toNat, false⟩
      let r := { r with sqHead := n + 1, sqTail := Nat.max r.sqTail (n + 1), outstanding := r.outstanding ++ [x] }
      let s := ((s.putRing k r).add F.hpDesc 1 (s.portOf p)).wake 1
      let s := s.hostWrite (s.portOf p) (r.cb + 64) (leBytes 8 (n + 1))
      some (x, s)
    else none

/-- Whether the descriptor must wait for the earlier ones of its ring (R513): FENCE counts from host-interface version 1.1 on. -/
def State.fenceWaits (s : State) (r : DRef) (d : Desc) : Bool :=
  d.fence && decide (0x11 ≤ s.rd F.hpHifAgreed (s.portOf r.part)) &&
    match s.ring? (pairKey r.part r.ring) with
    | some x => x.outstanding.any (fun y => y.num < r.num)
    | none => false

/-- Whether a descriptor's VER is outside 0x10 to the agreed version (R47, R519). -/
def State.verBad (s : State) (d : Desc) : Bool := decide (d.ver.toNat < 0x10) || decide (s.rd F.hpHifAgreed (s.portOf d.part.val) < d.ver.toNat)

end Sys2Proof.Machine
end

