-- ==== Sys2Proof/Machine/Memory.lean ====
section
/-! DEFINITION. The stacks, their code and their repair, and the Mere slices (08_memory.md): how a DPA falls onto a
stack, how a line request is served, what an error does, and the wrapper instructions. -/
namespace Sys2Proof.Machine

/-! ## Physical addresses (R272 to R277) -/

/-- 2^30. -/
def gib : Nat := 2 ^ 30

/-- The stacks a DPA is hashed over, its granule within them and where its space begins in each stack; none where it
lies outside the space its form permits or its stack set is undefined (R272 to R275). -/
def State.space? (s : State) (dpa : Nat) : Option (List Nat × Nat × Nat) :=
  let c := s.rd F.memConfSplit
  if dpa < 2 ^ 47 then
    if dpa < 24 * (128 - c) * gib then some (List.range 24, dpa / 4096, 0) else none
  else if dpa < 2 ^ 48 then
    let members := bitsOf 24 (s.rd F.memSetMask 0 (fldN dpa 42 5))
    if fldN dpa 0 42 < members.length * c * gib then some (members, fldN dpa 12 30, (128 - c) * gib) else none
  else none

/-- The rotation f of a stack-local granule: the XOR of its 5-bit groups (R275). -/
def foldGroups (l : Nat) : Nat := (List.range 7).foldl (fun f i => Nat.xor f (fldN l (5 * i) 5)) 0

/-- The stack address of a DPA: stack x 2^37 + SA (R275). -/
def State.locate? (s : State) (dpa : Nat) : Option Nat :=
  match s.space? dpa with
  | none => none
  | some (members, g, base) =>
    let n := members.length
    let l := g / n
    let idx := (g % n + foldGroups l % n) % n
    some (nthD members idx 0 * 2 ^ 37 + base + l * 4096 + dpa % 4096)

/-- The DPA of a stack address, the inverse of locate? (R275); 0 where no space holds it. -/
def State.dpaOf (s : State) (pa : Nat) : Nat :=
  let c := s.rd F.memConfSplit
  let stk := pa / 2 ^ 37
  let sa := pa % 2 ^ 37
  let back := fun (members : List Nat) (base : Nat) =>
    let n := members.length
    let l := (sa - base) / 4096
    let idx := (members.idxOf? stk).getD 0
    (l * n + (idx + n - foldGroups l % n) % n) * 4096 + sa % 4096
  if sa < (128 - c) * gib then back (List.range 24) 0
  else
    match (List.range 32).find? (fun t => bitN (s.rd F.memSetMask 0 t) stk) with
    | none => 0
    | some t => 2 ^ 47 + t * 2 ^ 42 + back (bitsOf 24 (s.rd F.memSetMask 0 t)) ((128 - c) * gib)

/-- The fields of a stack-local address (Table 8-2), the bank after the XOR of R276. -/
def saChan (pa : Nat) : Nat := fldN pa 7 3
def saCol (pa : Nat) : Nat := 2 * fldN pa 10 7 + fldN pa 6 1
def saRow (pa : Nat) : Nat := fldN pa 21 16
def saBank (pa : Nat) : Nat := Nat.xor (fldN pa 17 4) (fldN pa 21 4)

/-- The stack of a stack address. -/
def paStack (pa : Nat) : Nat := pa / 2 ^ 37

/-- The die's row that holds a stack address. -/
def dieRowOf (pa die : Nat) : DieRow := ⟨die, saChan pa, saBank pa, saRow pa⟩

/-- The Mere slice of a line number (stack address / 128) and its set (R277). -/
def mereSlice (line : Nat) : Nat := paStack (line * 128) / 3
def mereSet (line : Nat) : Nat :=
  let sa := line * 128 % 2 ^ 37
  (Nat.xor (Nat.xor (fldN sa 7 15) (fldN sa 22 15)) (paStack (line * 128) % 3 * 0x2AAA)) % 32768

/-- The memory side changed by f. -/
def State.setMem (s : State) (f : MemState → MemState) : State := { s with mem := f s.mem }

/-! ## Token buckets (R304 to R306, R310) -/

/-- The module's pin capacity for one tick in 64-byte lines, P (R304). -/
def State.pinLines (s : State) : Nat := 384000 * s.rd F.cadTickLen

/-- The lines one stack carries in a tick: its pin rate scaled by L_m of its zone (R310). -/
def State.stackCap (s : State) (stk : Nat) : Nat := s.pinLines / 24 * tgetD s.mem.lm (stk / 3) 64 / 64

/-- A partition's full buckets for one tick (R304, R83). -/
def State.fullTokens (s : State) (p : Nat) : Tokens :=
  ⟨s.rd F.pGuarFr p * s.pinLines / 1024, s.rd F.pBeFr p * s.pinLines / 1024, []⟩

/-- The buckets of a partition as they stand; one that no boundary has filled yet has them full (DESIGN CHOICE,
notes/assumptions/99.md). -/
def State.tokensOf (s : State) (p : Nat) : Tokens := tgetD s.mem.tokens p (s.fullTokens p)

/-- Where MemState.drawn counts the lines of a stack, and those of a partition's class on it (0 guaranteed, 1 best effort). -/
def drawKey (stk : Nat) : Nat := stk
def drawKeyOf (p stk cls : Nat) : Nat := 24 + (24 * p + stk) * 2 + cls

/-- How many of n lines partition p may draw now on a class of a stack: what its bucket holds, what the stack has left, and no more
than the class's share of the stack scaled by L_m (R306, R310). -/
def State.mayDraw (s : State) (p stk cls n : Nat) : Nat :=
  let t := s.tokensOf p
  let f := s.fullTokens p
  let share := (if cls = 0 then f.guar else f.be) * tgetD s.mem.lm (stk / 3) 64 / 64
  Nat.min (Nat.min n (if cls = 0 then t.guar else t.be))
    (Nat.min (share - tgetD s.mem.drawn (drawKeyOf p stk cls) 0) (s.stackCap stk - tgetD s.mem.drawn (drawKey stk) 0))

/-- n lines drawn by partition p on a class of a stack, and counted (Table 8-9). -/
def State.drawLines (s : State) (p stk cls n : Nat) : State :=
  if n = 0 then s
  else
    let t := s.tokensOf p
    let t := if cls = 0 then { t with guar := t.guar - n } else { t with be := t.be - n }
    let d := tput s.mem.drawn (drawKey stk) (tgetD s.mem.drawn (drawKey stk) 0 + n)
    let d := tput d (drawKeyOf p stk cls) (tgetD d (drawKeyOf p stk cls) 0 + n)
    (s.setMem (fun m => { m with tokens := tput m.tokens p t, drawn := d })).add (if cls = 0 then F.pGlines else F.pBlines) n p

/-- n bursts of a stack charged to partition p: the guaranteed bucket first for current-tick traffic, then best effort; run-ahead
traffic draws on best effort only (R86, R305, R306). What neither gives waits for the next refill (R84). -/
def State.charge (s : State) (p stk n : Nat) (early : Bool) : State :=
  if n = 0 || 36 ≤ p then s
  else
    let g := if early then 0 else s.mayDraw p stk 0 n
    let s := s.drawLines p stk 0 g
    let b := s.mayDraw p stk 1 (n - g)
    let s := s.drawLines p stk 1 b
    let k := 2 * stk + b2n early
    if g + b = n then s
    else
      let t := s.tokensOf p
      s.setMem (fun m => { m with tokens := tput m.tokens p { t with owed := tput t.owed k (tgetD t.owed k 0 + (n - g - b)) } })

/-- Whether lines of partition p wait for the next refill (R84). -/
def State.owesLines (s : State) (p : Nat) : Bool := (s.tokensOf p).owed != []

/-- Whether a request of partition p to a stack finds a token (R84, R86): behind lines that wait it does not. -/
def State.hasTokens (s : State) (p stk : Nat) (early : Bool) : Bool :=
  !s.owesLines p && (s.mayDraw p stk 1 1 != 0 || (!early && s.mayDraw p stk 0 1 != 0))

/-- Every partition's memory budgets full again, what was left discarded (R83, R304); the lines that waited draw first. -/
def State.refillTokens (s : State) (ps : List Nat) : State :=
  let owed := ps.map (fun p => (p, (s.tokensOf p).owed))
  let t := s.setMem (fun m => { m with tokens := ps.foldl (fun t p => tput t p (s.fullTokens p)) [], drawn := [] })
  owed.foldl (fun s e => e.2.foldl (fun s w => s.charge e.1 (w.1 / 2) w.2 (w.1 % 2 == 1)) s) t

/-- Cycles a request of a partition waited on an empty bucket, in units of 1,024 (Table 8-9). -/
def State.waitedOn (s : State) (p n : Nat) : State :=
  let t := tgetD (s.part p).stalls 40 0 + n
  if n = 0 then s
  else (s.modPart p (fun x => { x with stalls := tput x.stalls 40 t })).wr F.pBwWait (capN (2 ^ 32 - 1) (t / 1024)) p

/-- Whether a stack takes requests: in service or throttled, not in repair access, not offline, and neither its controller nor the stop
of its compute die in reset (R312, R559, Table 17-6). -/
def State.stackServes (s : State) (n : Nat) : Bool :=
  decide (s.rd F.memStkState 0 n < 2) && !bitN (s.rd F.rstMemcInr) n && !bitN (s.rd F.rstFabInr) (n / 3)

/-- The stacks a partition's allotment lies in. -/
def State.holdsStack (s : State) (p n : Nat) : Bool :=
  (List.range 16).any (fun i => s.rd F.pExtLen p i != 0 && (match s.space? (s.rd F.pExtBase p i * gib) with
    | some (l, _, _) => l.contains n
    | none => false))

/-- Whether requests of partition p are held: a stack it holds capacity on takes none (R312, Table 17-6). -/
def State.memHeld (s : State) (p : Nat) : Bool := (List.range 24).any (fun n => !s.stackServes n && s.holdsStack p n)

/-- Whether work of partition p on device memory waits: for a refill, or for a stack to serve again. -/
def State.memWaits (s : State) (p : Nat) : Bool := s.owesLines p || s.memHeld p

/-! ## What a line is encrypted under (R544 to R546) -/

def State.setMere (s : State) (m : Tab MereLine) : State := s.setMem (fun x => { x with mere := m })

/-- The partition whose extents hold a DPA; 0x3F when none (Table 8-10). -/
def State.extentOwner (s : State) (dpa : Nat) : Nat :=
  ((List.range 36).find? (fun p => s.pstate p != 0 && (List.range 16).any (fun i =>
    decide (s.rd F.pExtBase p i * gib ≤ dpa) && decide (dpa < (s.rd F.pExtBase p i + s.rd F.pExtLen p i) * gib)))).getD noPart

/-- The shared region a DPA lies in (R564). -/
def State.sharedAt? (s : State) (dpa : Nat) : Option (Nat × SharedRegion) :=
  s.mem.shared.find? (fun e => decide (e.2.base * gib ≤ dpa) && decide (dpa < (e.2.base + e.2.len) * gib))

/-- Whether a DPA lies in the part of the interleaved space that firmware reserves (R272). -/
def State.inReserve (s : State) (dpa : Nat) : Bool :=
  decide (24 * (127 - s.rd F.memConfSplit) * gib ≤ dpa) && decide (dpa < 24 * (128 - s.rd F.memConfSplit) * gib)

/-- The key a line of device memory is encrypted under: its region's shared-region key, the firmware key of the reserve (R546), or the
memory key of the partition whose ordinary extent holds it (R544); none where no partition holds it or no key is loaded. -/
def State.lineKey? (s : State) (dpa : Nat) : Option Nat :=
  match s.sharedAt? dpa with
  | some (r, _) => some (Config.coldKey s.mem.keyDraw (1 + r)).toNat
  | none =>
    if s.inReserve dpa then some (Config.coldKey s.mem.keyDraw 0).toNat else tget? (s.part (s.extentOwner dpa)).keys 0

/-- The tweak of a line's encryption: DPA bits [47:7] and 64 zero bits (R544). -/
def lineTweak (dpa : Nat) : List Byte := leBytes 8 (fldN dpa 7 41) ++ leBytes 8 0

/-- What a line that nothing has written since it was scrubbed reads as: the XTS decryption of zero bytes under its key (R560); zero
where it has none. -/
def State.freshLine (s : State) (line : Nat) : List Byte :=
  let dpa := s.dpaOf (line * 128)
  match s.lineKey? dpa with
  | none => List.replicate 128 0
  | some k => xts true (leBytes 64 k) (lineTweak dpa) (List.replicate 128 0)

/-! ## The stack's copy of a line -/

/-- The 128 bytes the stack's controller returns of a line, decrypted (R545). -/
def State.stackLine (s : State) (line : Nat) : List Byte :=
  if s.mem.written.contains line then cellsRead s.mem.dram (line * 128) 128 else s.freshLine line

/-- A number put into a rising list, once. -/
def insertUp (l : List Nat) (x : Nat) : List Nat :=
  if l.contains x then l else l.filter (fun y => y < x) ++ x :: l.filter (fun y => x < y)

/-- The codewords of bursts written anew: no symbol of theirs is in error. -/
def State.clearErrs (s : State) (bursts : List Nat) : State :=
  if s.mem.errs = [] then s else s.setMem (fun m => { m with errs := m.errs.filter (fun e => !bursts.contains e.1) })

/-- The bytes of a line in its stack. -/
def State.stackPut (s : State) (line : Nat) (d : List Byte) : State :=
  { s with mem := { s.mem with dram := cellsWrite s.mem.dram (line * 128) d, written := insertUp s.mem.written line } }

/-- A whole line stored in its stack, in fresh codewords. -/
def State.stackStore (s : State) (line : Nat) (d : List Byte) : State := (s.stackPut line d).clearErrs [2 * line, 2 * line + 1]

/-- Every line of a range of stack addresses scrubbed: zero bytes and a valid code, without encryption (Table 15-4). -/
def State.stackScrub (s : State) (pick : Nat → Bool) : State :=
  { s with mem := { s.mem with
      dram := s.mem.dram.filter (fun c => !pick (c.1 / 128)), written := s.mem.written.filter (fun l => !pick l),
      poison := s.mem.poison.filter (fun l => !pick l), errs := s.mem.errs.filter (fun e => !pick (e.1 / 2)) } }

/-- Whether the stack's copy of a line is poisoned: its check symbols carry the poison pattern (R282, poisonPattern). -/
def State.stackPoison (s : State) (line : Nat) : Bool := s.mem.poison.contains line

/-- The poison mark of the stack's copy of a line set or cleared, marks kept rising. -/
def State.setPoison (s : State) (line : Nat) (v : Bool) : State :=
  let r := s.mem.poison.filter (fun l => l != line)
  { s with mem := { s.mem with poison := if v then r.filter (fun l => l < line) ++ line :: r.filter (fun l => line < l) else r } }

/-- A line's bytes with bs laid over them from byte ofs. -/
def overlay (d : List Byte) (ofs : Nat) (bs : List Byte) : List Byte :=
  d.take ofs ++ bs ++ d.drop (ofs + bs.length)

/-! ## Row repair and die marks (R284 to R290) -/

/-- The marked dies of a stack (R286). -/
def State.marks (s : State) (stk : Nat) : List Nat := [s.rd F.memMark0 0 stk, s.rd F.memMark1 0 stk].filter (fun d => d < 19)

/-- Where a die's bank keeps its spare rows. -/
def DieRow.bankKey (r : DieRow) : Nat := (r.die * 8 + r.chan) * 16 + r.bank

/-- The spare rows a die's bank has free, of its 32 (Table 8-1), and how many. -/
def Stack.freeSpares (k : Stack) (bank : Nat) : List Nat := (List.range 32).filter (fun i => !bitN (tgetD k.used bank 0) i)
def Stack.sparesLeft (k : Stack) (r : DieRow) : Nat := (k.freeSpares r.bankKey).length

/-- A repair event (Table 8-10): actions 1 remapped, 2 CAM full, 3 no spare, 4 die marked, 5 mark refused, 6 soft
repair, 7 hard repair. -/
def State.repairEvent (s : State) (stk : Nat) (r : DieRow) (action : Nat) : State :=
  s.eventAll 0x13 [stk, r.die, r.chan, r.bank, r.row, action, s.rd F.memCamUsed 0 stk, (s.stack stk).sparesLeft r]

/-- A free spare row of a die's bank taken, of the controller's choice: none where the bank has none left. -/
def State.takeSpare (s : State) (n : Nat) (r : DieRow) : Option Nat × State :=
  let free := (s.stack n).freeSpares r.bankKey
  if free = [] then (none, s)
  else
    let (i, s) := s.fresh
    let x := nthD free (Config.spareRow i % free.length) 0
    let s := s.modStack n (fun k => { k with used := tput k.used r.bankKey (tgetD k.used r.bankKey 0 + 2 ^ x) })
    (some x, s.wr F.memSpares (s.rd F.memSpares 0 n - 1) 0 n)

/-- A remap refused with its event, told once in a scrub interval (R290). -/
def State.denyRemap (s : State) (stk : Nat) (r : DieRow) (action : Nat) : State :=
  (s.modStack stk (fun k => { k with denied := k.denied ++ [r] })).repairEvent stk r action

/-- A row remap begun (R288): a spare taken and the copy under way; or refused with its event (R290), the copies under way counted
against the CAM. Rows of a marked die are remapped no more (R287), and a row already steered or in copy is left alone. -/
def State.remap (s : State) (stk : Nat) (r : DieRow) : State :=
  let k := s.stack stk
  if k.copying.any (fun e => e.1 == r) || k.cam.any (fun e => e.1 == r) || k.denied.contains r || (s.marks stk).contains r.die then s
  else if 4096 ≤ s.rd F.memCamUsed 0 stk + k.copying.length then s.denyRemap stk r 2
  else match s.takeSpare stk r with
    | (none, s) => s.denyRemap stk r 3
    | (some x, s) => s.modStack stk (fun k => { k with copying := k.copying ++ [(r, x)] })

/-- A row copied: its CAM entry steers every later access to the spare (R288). -/
def State.copyDone (s : State) (n : Nat) (c : DieRow × Nat) : State :=
  let s := s.modStack n (fun k => { k with copying := k.copying.erase c, cam := k.cam ++ [c] })
  ((s.wr F.memCamUsed (s.rd F.memCamUsed 0 n + 1) 0 n).inc F.memRemaps 1 0 n).repairEvent n c.1 1

/-- Whether a stack address lies in a row in copy (R289). -/
def State.inCopy (s : State) (pa : Nat) : Bool := (s.stack (paStack pa)).copying.any (fun c => c.1 == dieRowOf pa c.1.die)

/-- The row of a stack address ready for an access of the module's own: an access that meets a copy is held until it is done, and then
served from the spare (R289). -/
def State.rowReady (s : State) (pa : Nat) : State :=
  ((s.stack (paStack pa)).copying.filter (fun c => c.1 == dieRowOf pa c.1.die)).foldl (fun s c => s.copyDone (paStack pa) c) s

/-- The error tally of one die and row of a stack. -/
def Stack.tally (k : Stack) (r : DieRow) : Nat := ((k.tallies.find? (fun e => e.1 == r)).map (fun e => e.2)).getD 0

/-- The distinct rows in which a die's symbols were corrected in this scrub interval. -/
def Stack.dieRows (k : Stack) (die : Nat) : Nat := (k.tallies.filter (fun e => e.1.die == die)).length

/-- A die whose tallies stand in DIE_ROWS_TH rows or more marked, or its mark refused, told once in an interval (R286, R287). -/
def State.markDie (s : State) (stk : Nat) (r : DieRow) : State :=
  let k := s.stack stk
  if !s.flag F.memDieMarkEn || k.dieRows r.die < s.rd F.memDieRowsTh || (s.marks stk).contains r.die || k.refused.contains r.die then s
  else if s.rd F.memMark0 0 stk = 31 then (s.wr F.memMark0 r.die 0 stk).repairEvent stk r 4
  else if s.rd F.memMark1 0 stk = 31 then (s.wr F.memMark1 r.die 0 stk).repairEvent stk r 4
  else (s.modStack stk (fun k => { k with refused := k.refused ++ [r.die] })).repairEvent stk r 5

/-- A die's row held to the two thresholds (R286, R288). -/
def State.judgeRow (s : State) (stk : Nat) (r : DieRow) : State :=
  (if s.rd F.memRowCeTh ≤ (s.stack stk).tally r then s.remap stk r else s).markDie stk r

/-- One corrected symbol of a die's row tallied (R280). -/
def State.tallyRow (s : State) (stk : Nat) (r : DieRow) : State :=
  let n := (s.stack stk).tally r + 1
  (s.modStack stk (fun k => { k with tallies := (r, n) :: k.tallies.filter (fun e => e.1 != r) })).judgeRow stk r

/-- The tallies of every stack held to thresholds just written. -/
def State.judgeAll (s : State) : State :=
  (List.range 24).foldl (fun s n => (s.stack n).tallies.foldl (fun s e => s.judgeRow n e.1) s) s

/-- A line met an error: evidence in the steps that run (R469). -/
def State.noteEvidence (s : State) (line : Nat) : State := { s with mem := { s.mem with evid := insertUp s.mem.evid line } }

/-! ## Reading a burst (R278 to R283) -/

/-- Symbols in error of one codeword added to others, die by die. -/
def symAdd (a b : SymErrs) : SymErrs :=
  (List.range 19).filterMap (fun d =>
    let x := Nat.xor (tgetD a d 0) (tgetD b d 0)
    if x = 0 then none else some (d, x))

/-- Four codewords' errors added to four. -/
def burstAdd (a b : List SymErrs) : List SymErrs := (List.range 4).map (fun i => symAdd (nthD a i []) (nthD b i []))

/-- What has gone wrong in a burst put into it: symbols every read meets from now on, or the next one alone. -/
def State.putErr (s : State) (b : Nat) (e : BurstErr) : State :=
  let w : List SymErrs := (List.range 4).map (fun i => (nthD e.words i []).foldl (fun a x => symAdd a [(x.1.val, x.2.toNat)]) [])
  if w.all (fun l => l == []) then s
  else
    let f := tgetD s.mem.errs b ⟨[], []⟩
    let f := if e.transient then { f with once := burstAdd f.once w } else { f with stay := burstAdd f.stay w }
    s.setMem (fun m => { m with errs := tput m.errs b f })

/-- A burst's standing errors replaced, and its passing ones gone. -/
def State.setStay (s : State) (b : Nat) (l : List SymErrs) : State :=
  s.setMem (fun m => { m with errs := if l.all (fun w => w == []) then tdel m.errs b else tput m.errs b ⟨l, []⟩ })

/-- A burst corrected: CE_COUNT and the tallies of the dies whose symbols were corrected (R280). -/
def State.correctedBurst (s : State) (pa : Nat) (dies : List Nat) : State :=
  let stk := paStack pa
  dies.foldl (fun s d => s.tallyRow stk (dieRowOf pa d)) ((s.noteEvidence (pa / 128)).inc F.memCeCount 1 0 stk)

/-- A line poisoned after an uncorrectable read (R281): the mark, UE_COUNT, POISONED for a line that was not poisoned before, the memory
error event of the source (1 demand, 2 patrol) to the partition and the module rings, and the location of the failing dies pending. -/
def State.poisonLine (s : State) (pa p source : Nat) : State :=
  let stk := paStack pa
  let line := pa / 128
  let fresh := !s.stackPoison line
  let s := ((s.setPoison line true).noteEvidence line).inc F.memUeCount 1 0 stk
  let s := if fresh then s.inc F.memPoisoned 1 0 stk else s
  let s := s.modStack stk (fun k => if k.locating.any (fun e => e.1 == line) then k else { k with locating := k.locating ++ [(line, [])] })
  let w := [stk, saChan pa, saBank pa, saRow pa, saCol pa, s.dpaOf pa, p, source]
  if p < 36 then (s.event 0x12 p w).eventRedacted 0x12 p w [4, 5] else s.eventAll 0x12 w

/-- The dies a decode corrected. -/
def Decode.dies : Decode → List Nat
  | .corrected l => l
  | _ => []

/-- What the decoder makes of the four codewords of a burst with symbols in error, the line's data and poison as they stood. -/
def decodeBurst (marks : List Nat) (burst : List Byte) (po : Bool) (w : List SymErrs) : List Decode :=
  (List.range 4).map (fun i => decodeWord marks (bytesAt burst (16 * i) 16) po (nthD w i []))

/-- One burst read (R279 to R282): po says whether its line was poisoned before the read of the line. A codeword beyond what the code
covers may go unnoticed and then returns bytes nothing fixes; a burst with an uncorrectable codeword is read once more, and if that
fails too its line is poisoned. Corrected codewords count whatever the others are, and are written back where a corrected symbol lies on
an unmarked die. The answer says whether the line is now to be poisoned. -/
def State.burstRead (s : State) (b p source : Nat) (po : Bool) : Bool × State :=
  match tget? s.mem.errs b with
  | none => (false, s)
  | some f =>
    let pa := b * 64
    let marks := s.marks (paStack pa)
    let burst := bytesAt (s.stackLine (b / 2)) (b % 2 * 64) 64
    let both := burstAdd f.stay f.once
    let (n, s) := s.fresh
    let ds := decodeBurst marks burst po both
    let unseen := (List.range 4).filter (fun i => nthD ds i .clean == .beyond && !Config.beyondDetected n)
    let bad := fun (l : List Decode) => (List.range 4).any (fun i => !unseen.contains i &&
      (nthD l i .clean == .uncorrectable || nthD l i .clean == .beyond))
    let dies := ((ds.flatMap Decode.dies).eraseDups)
    let fixed := (List.range 4).filter (fun i => (nthD ds i .clean).dies.any (fun d => !marks.contains d))
    let stay := (List.range 4).map (fun i => if fixed.contains i || unseen.contains i then [] else nthD f.stay i [])
    let s := s.setStay b stay
    let s := if unseen = [] then s
      else
        let d := unseen.foldl (fun d i => overlay d (16 * i) ((List.range 16).map (fun j => Config.beyondByte n (16 * i + j)))) burst
        s.stackPut (b / 2) (overlay (s.stackLine (b / 2)) (b % 2 * 64) d)
    if !bad ds then (false, if dies = [] then s else s.correctedBurst pa dies)
    else if !bad (decodeBurst marks burst po stay) then
      (false, s.correctedBurst pa ((both.flatMap (fun w => w.map (fun e => e.1))).eraseDups))
    else (true, ((if dies = [] then s else s.correctedBurst pa dies).poisonLine pa p source))

/-- Bursts (0, 1) of a line read from its stack for partition p, its row ready; a line newly poisoned is written in fresh codewords. -/
def State.stackFetch (s : State) (line p source : Nat) (bursts : List Nat) : State :=
  let s := s.rowReady (line * 128)
  let po := s.stackPoison line
  let (bad, s) := bursts.foldl (fun (a : Bool × State) i =>
    let (x, s) := a.2.burstRead (2 * line + i) p source po
    (a.1 || x, s)) (false, s)
  if bad then s.clearErrs [2 * line, 2 * line + 1] else s

/-! ## Lines of the Mere (R293 to R297) -/

/-- A line written back to its stack: its bytes and its poison, charged to the partition that allocated it (R282, R297). -/
def State.writeBack (s : State) (line : Nat) (m : MereLine) (early : Bool) : State :=
  (((s.rowReady (line * 128)).stackStore line m.data).setPoison line m.poison).charge m.part (paStack (line * 128)) 2 early

/-- The lines of a slice's set, by line number. -/
def State.setLines (s : State) (line : Nat) : List (Nat × MereLine) :=
  s.mem.mere.filter (fun e => mereSlice e.1 == mereSlice line && mereSet e.1 == mereSet line)

/-- The lines partition p has pinned in the slice of a line. -/
def State.pinsIn (s : State) (p line : Nat) : Nat :=
  (s.mem.mere.filter (fun e => e.2.pin == some p && mereSlice e.1 == mereSlice line)).length

/-- KEEP_NOW of partition p as its pinned lines stand. -/
def State.keepNow (s : State) (p : Nat) : State :=
  if 36 ≤ p then s
  else s.wr F.pKeepNow ((s.mem.mere.filter (fun e => e.2.pin == some p)).length * 128 / 2 ^ 20) p

/-- KEEP_NOW of the partition whose pin a line that leaves the Mere held. -/
def State.unpinned (s : State) (m : MereLine) : State :=
  match m.pin with
  | some q => s.keepNow q
  | none => s

/-- Whether partition p may pin a further line here: KEEP_MAX MiB per slice, and two ways of the set stay unpinned. -/
def State.mayPin (s : State) (p line : Nat) : Bool :=
  decide ((s.pinsIn p line + 1) * 128 ≤ s.rd F.pKeepMax p * 2 ^ 20) &&
    decide (((s.setLines line).filter (fun e => e.2.pinned)).length < 14)

/-- Room for one line in its set: a free way, or an unpinned victim of the slice's choice, written back if dirty (R297). -/
def State.makeRoom (s : State) (line : Nat) (early : Bool) : State :=
  if (s.setLines line).length < 16 then s
  else
    let free := (s.setLines line).filter (fun e => !e.2.pinned)
    let (n, s) := s.fresh
    match free[Config.mereVictim n % free.length]? with
    | none => s
    | some (l, m) =>
      let s := s.setMere (tdel s.mem.mere l)
      if m.dirty then s.writeBack l m early else s

/-- A line placed in the Mere; a pin that R296 does not allow leaves it unpinned and counts in KEEP_DENY. -/
def State.place (s : State) (line : Nat) (m : MereLine) (early : Bool) : State :=
  let s := s.makeRoom line early
  let ok := !m.pinned || s.mayPin m.part line
  let s := s.setMere (tput s.mem.mere line { m with pin := if ok then m.pin else none })
  (if ok then s else s.inc F.pKeepDeny 1 m.part).keepNow m.part

/-- One Mere hit or miss counted, in units of 1,024 lines (Table 8-9). -/
def State.countMere (s : State) (p : Nat) (hit : Bool) : State :=
  if 36 ≤ p then s
  else if hit then
    let n := tgetD s.mem.hits p 0 + 1
    ({ s with mem := { s.mem with hits := tput s.mem.hits p n } }).wr F.pMereHits (capN (2 ^ 32 - 1) (n / 1024)) p
  else
    let n := tgetD s.mem.misses p 0 + 1
    ({ s with mem := { s.mem with misses := tput s.mem.misses p n } }).wr F.pMereMiss (capN (2 ^ 32 - 1) (n / 1024)) p

/-- The hint codes of Table 8-4. -/
def hintStream : Nat := 1
def hintKeep : Nat := 2
def hintLast : Nat := 3

/-- The pin a request of partition p under a hint asks for. -/
def pinFor (p hint : Nat) : Option Nat := if hint = hintKeep then some p else none

/-- An access of partition p under a hint other than LAST clears the LAST mark of a line of its own (R294). -/
def MereLine.unmark (m : MereLine) (p : Nat) : MereLine := if m.part = p then { m with last := false } else m

/-- A line pinned on a hit under KEEP, if R296 allows it; it still carries the partition that allocated it. -/
def State.pinHit (s : State) (p line : Nat) (m : MereLine) : State :=
  if m.pinned then s
  else if s.mayPin p line then (s.setMere (tput s.mem.mere line { m.unmark p with pin := some p })).keepNow p
  else (s.setMere (tput s.mem.mere line (m.unmark p))).inc F.pKeepDeny 1 p

/-- A read hit (Table 8-4, R294): STREAM changes nothing, KEEP pins, LAST drops an unpinned line, dirty data discarded;
a read of another partition leaves a LAST line and its mark in place. -/
def State.readHit (s : State) (p hint line : Nat) (m : MereLine) : State :=
  if hint = hintStream then s
  else if hint = hintKeep then s.pinHit p line m
  else if m.pinned then s
  else if m.last && m.part ≠ p then s
  else if hint = hintLast then s.setMere (tdel s.mem.mere line)
  else if m.last then s.setMere (tput s.mem.mere line { m with last := false })
  else s

/-- One line read by partition p under a hint: its bytes, its poison, and the state after (Table 8-4). -/
def State.lineRead (s : State) (p hint line : Nat) (early : Bool) : List Byte × Bool × State :=
  match tget? s.mem.mere line with
  | some m => (m.data, m.poison, (s.readHit p hint line m).countMere p true)
  | none =>
    let s := ((s.countMere p false).charge p (paStack (line * 128)) 2 early).stackFetch line p 1 [0, 1]
    let d := s.stackLine line
    let po := s.stackPoison line
    if hint = hintStream || hint = hintLast then (d, po, s)
    else (d, po, s.place line ⟨p, false, pinFor p hint, false, po, d⟩ early)

/-- Whether a write of n bytes at byte ofs of a line touches its burst b, and whether it covers a codeword of 16 bytes of it in part. -/
def burstTouched (ofs n b : Nat) : Bool := decide (ofs < 64 * b + 64) && decide (64 * b < ofs + n)
def burstPartial (ofs n b : Nat) : Bool :=
  burstTouched ofs n b && (Nat.max ofs (64 * b) % 16 != 0 || Nat.min (ofs + n) (64 * b + 64) % 16 != 0)

/-- The bursts a write of n bytes at byte ofs of a line costs at the stack: one for each burst it touches, and one more
read where it covers a codeword of 16 bytes only in part (R305). -/
def writeBursts (ofs n : Nat) : Nat :=
  sumOf ([0, 1].map (fun b => b2n (burstTouched ofs n b) + b2n (burstPartial ofs n b)))

/-- Bytes written to a line in its stack past the Mere: the codewords covered in part are read first (R305), the line stays poisoned
unless it is written whole (R283). -/
def State.stackWrite (s : State) (p line ofs : Nat) (bs : List Byte) (poisonIn early : Bool) : State :=
  let n := bs.length
  let s := s.stackFetch line p 1 ([0, 1].filter (burstPartial ofs n))
  let po := poisonIn || (s.stackPoison line && n != 128)
  let s := (s.stackPut line (overlay (s.stackLine line) ofs bs)).clearErrs (([0, 1].filter (burstTouched ofs n)).map (fun b => 2 * line + b))
  (s.setPoison line po).charge p (paStack (line * 128)) (writeBursts ofs n) early

/-- One line written by partition p under a hint, bytes bs from byte ofs of the line. A whole-line write clears poison,
a partial write leaves the line poisoned (R283); poisonIn poisons what is written (R303). -/
def State.lineWrite (s : State) (p hint line ofs : Nat) (bs : List Byte) (poisonIn early : Bool) : State :=
  let whole := bs.length == 128
  match tget? s.mem.mere line with
  | some m =>
    let m := { m with data := overlay m.data ofs bs, dirty := true, poison := poisonIn || (m.poison && !whole) }
    let s := (s.setMere (tput s.mem.mere line m)).countMere p true
    if m.pinned then s
    else if hint = hintKeep then s.pinHit p line m
    else s.setMere (tput s.mem.mere line (if hint = hintLast then { m with last := true } else m.unmark p))
  | none =>
    let s := s.countMere p false
    if hint = hintStream then s.stackWrite p line ofs bs poisonIn early
    else
      let s := if whole then s else (s.charge p (paStack (line * 128)) 2 early).stackFetch line p 1 [0, 1]
      let po := poisonIn || (s.stackPoison line && !whole)
      s.place line ⟨p, true, pinFor p hint, hint == hintLast, po, overlay (s.stackLine line) ofs bs⟩ early

/-- The 128 bytes the module's coherent memory holds of a line: the Mere's copy where it holds the line. -/
def State.peekLine (s : State) (line : Nat) : List Byte :=
  match tget? s.mem.mere line with
  | some m => m.data
  | none => s.stackLine line

/-- The byte the module's coherent memory holds at a stack address. -/
def State.peek (s : State) (pa : Nat) : Byte := nthD (s.peekLine (pa / 128)) (pa % 128) 0

/-- Every dirty line of a set of slices written back, and every one of their lines dropped with its pin (R294, R299). -/
def State.flushMere (s : State) (pick : Nat → Bool) : State :=
  let out := s.mem.mere.filter (fun e => pick e.1)
  let s := out.foldl (fun s e => if e.2.dirty then (s.stackStore e.1 e.2.data).setPoison e.1 e.2.poison else s) s
  let s := s.setMere (s.mem.mere.filter (fun e => !pick e.1))
  (List.range 36).foldl (fun s p => if s.rd F.pKeepNow p = 0 then s else s.keepNow p) s

end Sys2Proof.Machine
end

