-- ==== Sys2Proof/Machine/Access.lean ====
section
/-! DEFINITION. How a request of a partition reaches bytes: translation (R36 to R41), the lines of device memory behind
it, and the granules of a tier object (R317 to R323). Every engine's reads and writes pass here. -/
namespace Sys2Proof.Machine

/-- 2 MiB, the granularity of range-table entries. -/
def mib2 : Nat := 2 ^ 21

/-- Who makes a request: the partition, its logical core or engine code (Table 14-21, an engine's with 2^16 added), the range table it is translated
under, its hint, and whether it runs ahead of its tick (R86). -/
structure Ctx where
  part : Nat
  who : Nat
  rt : Tab RtEntry
  hint : Nat
  early : Bool
  deriving DecidableEq, Repr

/-- Where a translated request goes: a DPA, or a byte of a tier object, each with its range's hint. -/
inductive Place where
  | dpa (a hint : Nat)
  | obj (handle ofs : Nat)
  deriving DecidableEq, Repr

/-- The valid entry that maps a PVA. -/
def rtFind (rt : Tab RtEntry) (pva : Nat) : Option RtEntry :=
  (rt.find? (fun e => decide (e.2.vbase * mib2 ≤ pva) && decide (pva < (e.2.vbase + e.2.len) * mib2))).map (fun e => e.2)

/-- The DPA of an allotment offset, and whether its extent is a shared one (R41, R565): the extents are walked in order. -/
def State.walk (s : State) (p ofs : Nat) : Option (Nat × Bool) :=
  ((List.range 16).foldl (fun (a : Nat × Option (Nat × Bool)) i =>
    match a.2 with
    | some _ => a
    | none =>
      let len := s.rd F.pExtLen p i * gib
      if a.1 < len then (a.1, some (s.rd F.pExtBase p i * gib + a.1, thas (s.part p).sharedExt i)) else (a.1 - len, none))
    (ofs, none)).2

/-- The slot of a tier object handle, and its generation (R317). -/
def hSlot (h : Nat) : Nat := h % 2 ^ 12
def hGen (h : Nat) : Nat := h / 2 ^ 12 % 2 ^ 20

/-- The object a handle of partition p names, if its slot and generation hold (R317). -/
def State.obj? (s : State) (p h : Nat) : Option Obj :=
  if s.rd F.pObjMax p ≤ hSlot h then none
  else match tget? (s.part p).tier.objs (hSlot h) with
    | none => none
    | some o => if o.gen = hGen h && o.state != 0 then some o else none

/-- Translation of one byte (R36, R37, R39, R41, R319, R565): the place, or the cause of the fault (1 no entry,
2 permission, 3 beyond allotment). -/
def State.xlate (s : State) (p : Nat) (rt : Tab RtEntry) (pva : Nat) (write : Bool) : Except Nat Place :=
  match rtFind rt pva with
  | none => .error 1
  | some e =>
    let ofs := pva - e.vbase * mib2
    if e.perm != 1 && e.perm != 3 then .error 2
    else if e.target = 0 then
      match s.walk p (e.tref * mib2 + ofs) with
      | none => .error 3
      | some (a, shared) => if write && (e.perm != 3 || shared) then .error 2 else .ok (.dpa a e.hint)
    else if write then .error 2
    else match s.obj? p e.tref with
      | none => .error 1
      | some o => if o.state != 2 then .error 1 else if o.length ≤ ofs then .error 3 else .ok (.obj e.tref ofs)

/-- Whether [pva, pva + n) lies wholly in the partition's ranges with the access asked; the check makes no request and
reports nothing (R665). -/
def State.mappedFuel (s : State) (p : Nat) (rt : Tab RtEntry) (write : Bool) : Nat → Nat → Nat → Bool
  | 0, _, n => n == 0
  | k + 1, pva, n =>
    if n = 0 then true
    else match rtFind rt pva with
      | none => false
      | some e =>
        let stop := Nat.min ((e.vbase + e.len) * mib2) (pva + n)
        (s.xlate p rt pva write).isOk && (s.xlate p rt (stop - 1) write).isOk && s.mappedFuel p rt write k stop (pva + n - stop)

/-- Whether a range is mapped, over every entry of the table. -/
def State.mapped (s : State) (p : Nat) (rt : Tab RtEntry) (pva n : Nat) (write : Bool) : Bool :=
  decide (pva + n ≤ 2 ^ 48) && s.mappedFuel p rt write (rt.length + 1) pva n

/-- The translation fault event and count (R37, Table 1-12): access kinds 1 read, 2 write, 3 near-memory addition. -/
def State.xfault (s : State) (p who pva kind cause : Nat) : State :=
  (s.event 0x01 p [p, who % 2 ^ 16, pva, kind, cause]).inc F.pTrFaults 1 p

/-- The pieces of [a, a + n) that lie within one 128-byte line each: address and length. -/
def lineChunks (a n : Nat) : List (Nat × Nat) :=
  if n = 0 then []
  else (List.range ((a + n - 1) / 128 - a / 128 + 1)).map (fun i =>
    let lo := if i = 0 then a else (a / 128 + i) * 128
    (lo, Nat.min (a + n) ((a / 128 + i + 1) * 128) - lo))

/-! ## Granules (R317, R321 to R323) -/

/-- Where granule g of a host object lies on port q (Table 9-2). -/
def Obj.hostAddr (o : Obj) (q g : Nat) : Nat :=
  let base := if q = 0 then o.haddr0 else o.haddr1
  if o.hmode = 3 then base + g / 2 * 4096 else base + g * 4096

/-- The tweak of a granule's encryption: LINEAGE, VER and g as 32-bit words and four zero bytes (R321). -/
def granTweak (o : Obj) (g : Nat) : List Byte := leBytes 4 o.lineage ++ leBytes 4 o.ver ++ leBytes 4 g ++ leBytes 4 0

/-- A granule as it lies in a lower tier: encrypted under the memory key for a confidential partition (R321). -/
def State.granCrypt (s : State) (p : Nat) (o : Obj) (g : Nat) (dec : Bool) (d : List Byte) : List Byte :=
  if s.confidential p then
    match tget? (s.part p).keys 0 with
    | none => d
    | some k => xts dec (leBytes 64 k) (granTweak o g) d
  else d

/-- Host read tags in use on a port. -/
def State.tagsUsed (s : State) (q : Nat) : Nat :=
  (s.tiers.reads.filter (fun r => match s.obj? r.part r.handle with
    | some o => o.tier == 1 && r.copy == q
    | none => false)).length

/-- The host port a granule of a host object is asked of: by HMODE, the freer of the two when mirrored (R323). -/
def State.granPort (s : State) (o : Obj) (g : Nat) : Nat :=
  match o.hmode with
  | 0 => 0
  | 1 => 1
  | 3 => g % 2
  | _ => if s.tagsUsed 1 < s.tagsUsed 0 then 1 else 0

/-- The granules a hub's 16 MiB buffer holds. -/
def gbufMax : Nat := 4096

/-- A granule put into its hub's buffer as the newest; the hub's least recently used entry leaves when it is full (R322). -/
def State.gbufPut (s : State) (x : Granule) : State :=
  let old := s.tiers.gbuf.filter (fun y => !(y.part == x.part && y.handle == x.handle && y.gran == x.gran))
  let full := gbufMax ≤ (old.filter (fun y => y.hub == x.hub)).length
  let old := if full then
      match old.find? (fun y => y.hub == x.hub) with
      | none => old
      | some v => old.erase v
    else old
  { s with tiers := { s.tiers with gbuf := old ++ [x] } }

/-- The buffered granule, if any. -/
def State.gbufGet (s : State) (p h g : Nat) : Option Granule :=
  s.tiers.gbuf.find? (fun y => y.part == p && y.handle == h && y.gran == g)

/-- MiB counters of the tier engine keep their bytes: counter k raised by n bytes, its register in whole MiB. -/
def State.tierMib (s : State) (f : Fld) (b k n : Nat) : State :=
  let t := tgetD s.tiers.bytes k 0 + n
  ({ s with tiers := { s.tiers with bytes := tput s.tiers.bytes k t } }).wr f (capN (2 ^ 32 - 1) (t / 2 ^ 20)) b

/-- A buffer hit counted in units of 1,024 (Table 9-11). -/
def State.gbufHit (s : State) : State :=
  let n := s.tiers.hits + 1
  ({ s with tiers := { s.tiers with hits := n } }).wr F.tierGbufHit (capN (2 ^ 32 - 1) (n / 1024))

/-- An object changed by f, keyed by its slot. -/
def State.modObj (s : State) (p slot : Nat) (f : Obj → Obj) : State :=
  s.modPart p (fun x => { x with tier := { x.tier with objs := tmod x.tier.objs slot f } })

def State.setTiers (s : State) (f : TierState → TierState) : State := { s with tiers := f s.tiers }

/-- The tier event (Table 9-13): causes 1 failed over, 2 failed, 3 promotion failed, 4 demotion failed, 5 entry lost. -/
def State.tierEvent (s : State) (p handle gran copy cause plan shard : Nat) : State :=
  s.event 0x15 p [p, handle, gran, copy, cause, plan, shard]

/-! ### Demand reads that wait (R322 to R325) -/

/-- Whether an asker still waits for a granule. -/
def State.demandWaits (s : State) (a : Asker) : Bool := s.tiers.demand.any (fun d => d.asker == a && d.answer.isNone)

/-- What an asker does, as far as its demand reads let it: where it met a granule that is not at hand, nothing of it happens but that it
asks for the granule, and the answer is true. Nested uses belong to the outer asker. -/
def State.demandGet {α : Type} (s : State) (a : Asker) (f : State → α × State) : Bool × α × State :=
  if s.tiers.asking.isSome then (false, f s)
  else
    let (x, t) := f (s.setTiers (fun x => { x with asking := some a }))
    if t.demandWaits a then (true, x, s.setTiers (fun y => { y with demand := t.tiers.demand }))
    else (false, x, t.setTiers (fun y => { y with asking := none, demand := y.demand.filter (fun d => d.asker != a) }))

/-- The same where only the state is of interest. -/
def State.demandTry (s : State) (a : Asker) (f : State → State) : Bool × State :=
  let (w, _, s) := s.demandGet a (fun s => ((), f s))
  (w, s)

/-- The answer an asker's granule has, if it has asked for it. -/
def State.demand? (s : State) (p h g : Nat) : Option Demand :=
  s.tiers.asking.bind (fun a => s.tiers.demand.find? (fun d => d.asker == a && d.part == p && d.handle == h && d.gran == g))

/-- A read of an object now (R320). -/
def State.readNow (s : State) (p h : Nat) : State := s.modObj p (hSlot h) (fun o => { o with lastRead := some s.tick })

/-- The 4 KiB of granule g of an object (R322, R323): what a demand read of the asker has brought, or the buffer's copy. An asker whose
granule is neither asks for it, and gets none now; who cannot wait has the host backing fetched at once
(notes/assumptions/107.md). -/
def State.granule (s : State) (p h g : Nat) : Option (List Byte) × State :=
  match s.demand? p h g with
  | some d => match d.answer with
    | some x => (x, s.readNow p h)
    | none => (none, s)
  | none =>
    match s.gbufGet p h g with
    | some x => (some x.data, ((s.gbufHit).gbufPut x).readNow p h)
    | none =>
      match s.obj? p h, s.tiers.asking with
      | none, _ => (none, s)
      | some _, some a => (none, s.setTiers (fun t => { t with demand := t.demand ++ [⟨a, p, h, g, none⟩] }))
      | some o, none =>
        if o.tier = 1 then
          let q := s.granPort o g
          let d := s.granCrypt p o g true (s.hostRead q (o.hostAddr q g) 4096)
          let s := s.tierMib (if q = 0 then F.tierHrd0 else F.tierHrd1) 0 q 4096
          (some d, (s.readNow p h).gbufPut ⟨q, p, h, g, d⟩)
        else (none, s)

/-! ## Reads and writes by PVA -/

/-- The hint a request carries: its descriptor's, else its range's (R293). -/
def useHint (h dflt : Nat) : Nat := if h = 0 then dflt else h

/-- A core's grain met a poisoned line of a shared region (R481): the core and the 4 KiB granule. -/
def State.tookPoison (s : State) (who dpa : Nat) : State :=
  if who < 288 && (s.sharedAt? dpa).isSome && !s.mem.took.contains (who, dpa / 4096) then
    { s with mem := { s.mem with took := s.mem.took ++ [(who, dpa / 4096)] } }
  else s

/-- One piece of a line read at its place: bytes and poison. -/
def State.readPlace (s : State) (c : Ctx) (x : Place) (n : Nat) : List Byte × Bool × State :=
  match x with
  | .dpa a h =>
    match s.locate? a with
    | none => (List.replicate n 0, true, s)
    | some pa =>
      let (d, po, s) := s.lineRead c.part (useHint c.hint h) (pa / 128) c.early
      (bytesAt d (pa % 128) n, po, if po then s.tookPoison c.who a else s)
  | .obj h ofs =>
    match s.granule c.part h (ofs / 4096) with
    | (none, s) => (List.replicate n 0, true,
      if s.tiers.asking.isSome then s else (s.inc F.tierRdFail 1).tierEvent c.part h (ofs / 4096) 0 2 0 0)
    | (some d, s) => (bytesAt d (ofs % 4096) n, false, s)

/-! ## Line requests that wait (R84, R289, R312) -/

/-- Whether a line request must wait: its stack takes none, its row is in copy, or its partition has no token for a miss. -/
def State.reqWaits (s : State) (r : HeldReq) : Bool :=
  let stk := paStack r.pa
  !thas s.mem.mere (r.pa / 128) && (!s.stackServes stk || s.inCopy r.pa || (decide (r.part < 36) && !s.hasTokens r.part stk r.early))

/-- A line request served: read when it brings no bytes, else written. The answer is kept as what the requester gets. -/
def State.serveReq (s : State) (r : HeldReq) : State :=
  let line := r.pa / 128
  if r.data = [] then
    let (d, po, s) := s.lineRead r.part r.hint line r.early
    let s := if po then s.tookPoison r.who (s.dpaOf (line * 128)) else s
    { s with mem := { s.mem with answer := some (d, po) } }
  else
    let s := s.lineWrite r.part r.hint line (r.pa % 128) r.data false r.early
    { s with mem := { s.mem with answer := none } }

/-- A line request taken: served now, or held until it can be; behind a held request to its line it waits its turn. -/
def State.takeReq (s : State) (r : HeldReq) : State :=
  if s.reqWaits r || s.mem.held.any (fun h => h.pa / 128 == r.pa / 128) then s.setMem (fun m => { m with held := m.held ++ [r] })
  else s.serveReq r

/-- The held requests looked at again, oldest first. -/
def State.serveHeld (s : State) : State :=
  if s.mem.held = [] then s
  else s.mem.held.foldl State.takeReq (s.setMem (fun m => { m with held := [] }))

/-- What a read of a range gives: its bytes, whether any line was poisoned, whether a translation fault (already
reported) stopped it, and the PVA of the first line that failed. -/
structure ReadOut where
  bytes : List Byte
  poison : Bool
  fault : Bool
  pva : Nat
  deriving DecidableEq, Repr

/-- The code of a read that failed: a poisoned line was met before a fault that ended it. -/
def ReadOut.code (x : ReadOut) (fault poison : Nat) : Nat := if x.poison then poison else if x.fault then fault else 0

/-- One request of a partition under address sampling: one PVA in every N goes to the session (Table 15-3). -/
def State.sampleReq (s : State) (p pva : Nat) : State :=
  match s.mgmt.sampling with
  | none => s
  | some (sess, q, n) =>
    if q != p then s
    else
      let k := s.mgmt.sampled + 1
      { s with mgmt := { s.mgmt with sampled := k % n, sent := if k % n = 0 then s.mgmt.sent ++ [.sample sess pva] else s.mgmt.sent } }

/-- n bytes read from a PVA (R36, R37): line by line, stopped by the first translation fault. -/
def State.readPva (s : State) (c : Ctx) (pva n : Nat) : ReadOut × State :=
  (lineChunks pva n).foldl (fun (a : ReadOut × State) ch =>
    if a.1.fault then a
    else match a.2.xlate c.part c.rt ch.1 false with
      | .error k => ({ a.1 with fault := true, pva := if a.1.poison then a.1.pva else ch.1 }, a.2.xfault c.part c.who ch.1 1 k)
      | .ok x =>
        let (d, po, s) := (a.2.sampleReq c.part ch.1).readPlace c x ch.2
        (⟨a.1.bytes ++ d, a.1.poison || po, false, if a.1.poison then a.1.pva else if po then ch.1 else 0⟩, s))
    (⟨[], false, false, 0⟩, s)

/-- Bytes written at a PVA, line by line, stopped by the first translation fault; poisonIn poisons the lines written. -/
def State.writePva (s : State) (c : Ctx) (pva : Nat) (bs : List Byte) (poisonIn : Bool) : Bool × State :=
  (lineChunks pva bs.length).foldl (fun (a : Bool × State) ch =>
    if a.1 then a
    else match a.2.xlate c.part c.rt ch.1 true with
      | .error k => (true, a.2.xfault c.part c.who ch.1 2 k)
      | .ok (.obj _ _) => (true, a.2.xfault c.part c.who ch.1 2 2)
      | .ok (.dpa d h) =>
        match a.2.locate? d with
        | none => (true, a.2.xfault c.part c.who ch.1 2 3)
        | some pa =>
          (false, (a.2.sampleReq c.part ch.1).lineWrite c.part (useHint c.hint h) (pa / 128) (pa % 128) (bytesAt bs (ch.1 - pva) ch.2) poisonIn c.early))
    (false, s)

/-- The context of an engine of the module working for partition p under the range table in force. -/
def State.engCtx (s : State) (p engine : Nat) : Ctx := ⟨p, 2 ^ 16 + 0x100 + engine, (s.part p).rt, 0, false⟩

/-- The engine codes of Table 14-21. -/
def engIntake : Nat := 0
def engTier : Nat := 1
def engCkpt : Nat := 2
def engDispatch : Nat := 3
def engColl : Nat := 4
def engSha3 : Nat := 5
def engGnx : Nat := 6
def engBar2 : Nat := 7
def engPlan : Nat := 8
def engDesc : Nat := 9

/-- The header, image, list or table a descriptor names, read by the descriptor engine (R665): a read that fails
translation or meets poison answers none, its fault already reported. -/
def State.descRead (s : State) (p pva n : Nat) : Option (List Byte) × State :=
  let (r, s) := s.readPva (s.engCtx p engDesc) pva n
  (if r.fault || r.poison then none else some r.bytes, s)

/-! ## The transpose gatherers (R300 to R302) -/

/-- A byte a gatherer or a feeder holds: the byte, the code its line failed with (0 none, 6 translation, 7 poison), and the PVA of that
failure. -/
structure GByte where
  byte : Byte
  code : Nat
  pva : Nat
  deriving DecidableEq, Repr

/-- The elements of a block's side for elements of e bytes: 128 bytes of them (R300). -/
def blockSide (e : Nat) : Nat := 128 / e

/-- The gatherer of a compute die that takes the block at an address: address bits [14:12] modulo 3 (R301). -/
def gathererOf (die pva : Nat) : Nat := 3 * die + fldN pva 12 3 % 3

/-- The source line of one row of a block: read once, as one line, or as two when it is not aligned (R302). -/
def State.gatherLine (s : State) (c : Ctx) (pva n : Nat) : List GByte × State :=
  (lineChunks pva n).foldl (fun (a : List GByte × State) ch =>
    let (x, s) := a.2.readPva c ch.1 ch.2
    let code := x.code 6 7
    (a.1 ++ (bytesAt x.bytes 0 ch.2).map (fun b => ⟨b, code, x.pva⟩), s)) ([], s)

/-- One block, or the part of it a matrix has: nr source rows ld bytes apart, n bytes of each from pva on, assembled in a gatherer of the
compute die that asks (R300, R301). -/
def State.gatherBlock (s : State) (c : Ctx) (die pva ld nr n : Nat) : List (List GByte) × State :=
  let k := gathererOf die pva
  iterN nr (fun r (a : List (List GByte) × State) =>
    let (row, s) := a.2.gatherLine c (pva + r * ld) n
    (a.1 ++ [row], s)) ([], s.setMem (fun m => { m with gathers := tput m.gathers k (tgetD m.gathers k 0 + 1) }))

/-- The output line of a block that holds its source column i, elements of e bytes. -/
def blockColumn (rows : List (List GByte)) (e i : Nat) : List GByte := rows.flatMap (fun r => (r.drop (i * e)).take e)

/-- The first failure among the bytes a unit takes: its code and PVA, (0, 0) when there is none. -/
def firstBad (l : List GByte) : Nat × Nat :=
  match l.find? (fun b => b.code != 0) with
  | some b => (b.code, b.pva)
  | none => (0, 0)

/-! ## Descriptors started (R511 to R513, R519) -/

/-- The opcodes whose descriptors make requests of device memory when they start: those that name a header, an image, a list or a
table there, or bytes to move (R665). -/
def memOp (op : Nat) : Bool :=
  ([0x11, 0x14, 0x16, 0x17, 0x20, 0x21, 0x24, 0x25, 0x26, 0x2B, 0x34, 0x35, 0x40, 0x42, 0x44, 0x46, 0x48, 0x4A, 0x50, 0x53, 0x54, 0x57, 0x70] :
    List Nat).contains op

/-- Whether the checkpoint engine still has a descriptor of this kind before it: a checkpoint set waits for the lenders' answers to the one
before and for the checkpoint in progress, a rollback or restore for the restore in progress (Table 13-1). -/
def State.ckptBusy (s : State) (p op : Nat) : Bool :=
  let c := (s.part p).cont
  (op == 0x52 && (c.setting.isSome || c.ckpt.isSome)) || ((op == 0x56 || op == 0x57) && c.restore.isSome)

/-- Whether a descriptor of partition p may start as far as device memory and the checkpoint engine go: one that makes requests of memory
waits while the partition's lines wait for a refill (R84) or a stack it holds capacity on takes no request (R312, Table 17-6). -/
def State.memStart (s : State) (p op : Nat) : Bool := (!memOp op || !s.memWaits p) && !s.ckptBusy p op

/-- A descriptor taken from its ring and started, held behind its FENCE, for device memory or for a granule of an object it reads, or
ended for its VER; nothing happens while
R511 does not let the module consume it, and the descriptor stays in the host's ring. -/
def withDesc (opcode : Nat) (d : Desc) (s : State) (run : DRef → Desc → State → State) : State :=
  match s.consume opcode d with
  | none => s
  | some (r, s) =>
    if s.verBad d then s.complete r 0xE1 true 0
    else
      let wait := fun (s : State) =>
        let k := pairKey r.part r.ring
        match s.ring? k with
        | none => s
        | some x => s.putRing k { x with waiting := x.waiting ++ [(opcode, r.num, d)] }
      if s.fenceWaits r d || !s.memStart r.part opcode then wait s
      else match s.demandTry (.desc r) (run r d) with
        | (true, s) => wait s
        | (false, s) => s

end Sys2Proof.Machine
end

