-- ==== Sys2Proof/Machine/Numbers.lean ====
section
/-! DEFINITION. Number formats, rounding, micro-scaled blocks and the anchored accumulator (03_numbers.md). A value is
held exactly, as a signed dyadic, an infinity or a NaN, and is rounded once where a rule rounds it. -/
namespace Sys2Proof.Machine

/-! ## Exact values -/

/-- An exact value: (-1)^neg x m x 2^e, an infinity, or a NaN. -/
inductive Num where
  | fin (neg : Bool) (m : Nat) (e : Int)
  | inf (neg : Bool)
  | nan
  deriving DecidableEq, Repr

/-- Positive zero. -/
def Num.zero : Num := .fin false 0 0

/-- Whether a value is a zero of either sign. -/
def Num.isZero : Num → Bool
  | .fin _ m _ => m == 0
  | _ => false

/-- Whether a value is a NaN. -/
def Num.isNan : Num → Bool
  | .nan => true
  | _ => false

/-- Whether a value is an infinity. -/
def Num.isInf : Num → Bool
  | .inf _ => true
  | _ => false

/-- The sign bit of a value; a NaN counts as positive (R92). -/
def Num.neg? : Num → Bool
  | .fin n _ _ => n
  | .inf n => n
  | .nan => false

/-- The value with its sign changed. -/
def Num.negate : Num → Num
  | .fin n m e => .fin (!n) m e
  | .inf n => .inf (!n)
  | .nan => .nan

/-- The magnitude of a value. -/
def Num.abs : Num → Num
  | .fin _ m e => .fin false m e
  | .inf _ => .inf false
  | .nan => .nan

/-- The value times 2^k. -/
def Num.scale (k : Int) : Num → Num
  | .fin n m e => .fin n m (e + k)
  | x => x

/-- The exponent of the leading bit of m x 2^e, for m not zero. -/
def leadExp (m : Nat) (e : Int) : Int := (Nat.log2 m : Int) + e

/-- A signed integer multiple of 2^e as a value. -/
def Num.ofInt (i : Int) (e : Int) : Num := .fin (decide (i < 0)) i.natAbs e

/-- The signed integer of m and its sign. -/
def signedInt (neg : Bool) (m : Nat) : Int := if neg then -(m : Int) else (m : Int)

/-- Two finite values over one exponent: their integers and the exponent. -/
def align (n1 : Bool) (m1 : Nat) (e1 : Int) (n2 : Bool) (m2 : Nat) (e2 : Int) : Int × Int × Int :=
  let e := if m1 = 0 then e2 else if m2 = 0 then e1 else if e1 ≤ e2 then e1 else e2
  let a := if m1 = 0 then 0 else signedInt n1 (m1 * 2 ^ (e1 - e).toNat)
  let b := if m2 = 0 then 0 else signedInt n2 (m2 * 2 ^ (e2 - e).toNat)
  (a, b, e)

/-- Comparison of two values that are not NaN: less, equal (both zeros equal) or greater. -/
def Num.cmp (x y : Num) : Ordering :=
  match x, y with
  | .inf a, .inf b => if a = b then .eq else if a then .lt else .gt
  | .inf a, _ => if a then .lt else .gt
  | _, .inf b => if b then .gt else .lt
  | .fin n1 m1 e1, .fin n2 m2 e2 =>
    let (a, b, _) := align n1 m1 e1 n2 m2 e2
    if a < b then .lt else if a = b then .eq else .gt
  | _, _ => .eq

/-! ## Flags (Table 3-15): a mask of overflow, underflow, inexact and invalid, in that bit order -/

def flOvf : Nat := 1
def flUnf : Nat := 2
def flInx : Nat := 4
def flInv : Nat := 8

/-- Two flag masks ORed. -/
def flOr (a b : Nat) : Nat := Nat.lor a b

/-- A flag mask when a condition holds. -/
def flIf (c : Bool) (f : Nat) : Nat := if c then f else 0

/-! ## Formats (Tables 3-1, 3-2) -/

/-- A floating element format: exponent and fraction widths, bias, the encoding of max normal, whether it has
infinities, and its canonical NaN if it has one (R92). -/
structure FFmt where
  eb : Nat
  fb : Nat
  bias : Nat
  maxEnc : Nat
  hasInf : Bool
  nanEnc : Option Nat
  deriving DecidableEq, Repr

def fmtF32 : FFmt := ⟨8, 23, 127, 0x7F7FFFFF, true, some 0x7FC00000⟩
def fmtF16 : FFmt := ⟨5, 10, 15, 0x7BFF, true, some 0x7E00⟩
def fmtBF16 : FFmt := ⟨8, 7, 127, 0x7F7F, true, some 0x7FC0⟩
def fmtE4M3 : FFmt := ⟨4, 3, 7, 0x7E, false, some 0x7F⟩
def fmtE5M2 : FFmt := ⟨5, 2, 15, 0x7B, true, some 0x7E⟩
def fmtE3M2 : FFmt := ⟨3, 2, 3, 0x1F, false, none⟩
def fmtE2M3 : FFmt := ⟨2, 3, 1, 0x1F, false, none⟩
def fmtE2M1 : FFmt := ⟨2, 1, 1, 0x7, false, none⟩

/-- The element bits of a format, sign included. -/
def FFmt.bits (f : FFmt) : Nat := 1 + f.eb + f.fb

/-- The largest normal's exponent: emax of R95. -/
def FFmt.emax (f : FFmt) : Int := (f.maxEnc / 2 ^ f.fb : Nat) - (f.bias : Int)

/-- The format of an unscaled floating FMT code (Table 3-1, 0x00 to 0x04). -/
def plainFmt? : Nat → Option FFmt
  | 0 => some fmtF32
  | 1 => some fmtF16
  | 2 => some fmtBF16
  | 3 => some fmtE4M3
  | 4 => some fmtE5M2
  | _ => none

/-- The element format of an MX FMT code (Table 3-1, 0x05 to 0x09). -/
def mxFmt? : Nat → Option FFmt
  | 5 => some fmtE4M3
  | 6 => some fmtE5M2
  | 7 => some fmtE3M2
  | 8 => some fmtE2M3
  | 9 => some fmtE2M1
  | _ => none

/-- Whether a format code is a micro-scaled one. -/
def isMx (f : Nat) : Bool := 5 ≤ f && f ≤ 9

/-- The bits of one element of a FMT code, scales apart (Table 3-1). -/
def elemBits : Nat → Nat
  | 0 => 32
  | 1 => 16
  | 2 => 16
  | 3 => 8
  | 4 => 8
  | 5 => 8
  | 6 => 8
  | 7 => 6
  | 8 => 6
  | 9 => 4
  | 10 => 8
  | 11 => 32
  | 12 => 128
  | _ => 0

/-- The exact value of an element's bits (Table 3-2). -/
def decodeF (f : FFmt) (x : Nat) : Num :=
  let neg := bitN x (f.eb + f.fb)
  let ef := fldN x f.fb f.eb
  let fr := fldN x 0 f.fb
  let top := ef == 2 ^ f.eb - 1
  if f.hasInf && top then (if fr = 0 then .inf neg else .nan)
  else if f.nanEnc.isSome && top && fr == 2 ^ f.fb - 1 then .nan
  else if ef = 0 then .fin neg fr (1 - (f.bias : Int) - f.fb)
  else .fin neg (fr + 2 ^ f.fb) ((ef : Int) - f.bias - f.fb)

/-- The exact value of binary32 bits. -/
def ofF32 (x : Nat) : Num := decodeF fmtF32 x

/-! ## Rounding (R102 to R107) -/

/-- How a conversion rounds: to nearest even, or stochastically with the draw r of R105. -/
inductive Rnd where
  | near
  | stoch (r : Nat)
  deriving DecidableEq, Repr

/-- m x 2^sh rounded to an integer, and whether it changed. -/
def roundInt (rm : Rnd) (m : Nat) (sh : Int) : Nat × Bool :=
  if 0 ≤ sh then (m * 2 ^ sh.toNat, false)
  else
    let k := (-sh).toNat
    let hi := m / 2 ^ k
    let rem := m % 2 ^ k
    let up := match rm with
      | .near => decide (2 ^ k < 2 * rem) || (2 * rem == 2 ^ k && hi % 2 == 1)
      | .stoch r => decide (r < (if 16 ≤ k then rem / 2 ^ (k - 16) else rem * 2 ^ (16 - k)))
    (if up then hi + 1 else hi, rem != 0)

/-- A finite nonzero magnitude rounded to a format: its encoding without sign, whether it overflowed, and the flags of
R103 and R104. An overflow answers the encoding of max normal. -/
def roundMag (f : FFmt) (rm : Rnd) (m : Nat) (e : Int) : Nat × Bool × Nat :=
  let emin : Int := 1 - f.bias
  let k := leadExp m e
  let q := if k < emin then emin - f.fb else k - f.fb
  let (n, inx) := roundInt rm m (e - q)
  let (n', _) := roundInt rm m (e - (k - f.fb))
  let tiny := decide (leadExp n' (k - f.fb) < emin)
  let (n, q) := if n = 2 ^ (f.fb + 1) then (2 ^ f.fb, q + 1) else (n, q)
  let enc := if n < 2 ^ f.fb then n else ((q + f.fb + f.bias).toNat) * 2 ^ f.fb + (n - 2 ^ f.fb)
  let mid := match rm with
    | .near =>
      let mx := decodeF f f.maxEnc
      match mx with
      | .fin _ mm me => (Num.fin false m e).cmp (.fin false (2 * mm + 1) (me - 1)) != .lt
      | _ => false
    | .stoch _ => false
  if f.maxEnc < enc || mid then (f.maxEnc, true, flOr flOvf flInx)
  else (enc, false, flOr (flIf inx flInx) (flIf ((tiny && inx) || n == 0) flUnf))

/-- The canonical NaN of a format; a format without one is reached only through its block's scale. -/
def nanOf (f : FFmt) : Nat := f.nanEnc.getD 0

/-- The encoding of an infinity of a format that has one. -/
def infOf (f : FFmt) (neg : Bool) : Nat := b2n neg * 2 ^ (f.eb + f.fb) + (2 ^ f.eb - 1) * 2 ^ f.fb

/-- A value converted to a plain format: its bits and its flags (R102 to R107, Table 3-3, R659). -/
def convert (f : FFmt) (rm : Rnd) (sat : Bool) (x : Num) : Nat × Nat :=
  match x with
  | .nan => (nanOf f, 0)
  | .inf n => if f.hasInf then (infOf f n, 0) else (nanOf f, flOvf)
  | .fin n m e =>
    let sg := b2n n * 2 ^ (f.eb + f.fb)
    if m = 0 then (sg, 0)
    else
      let (enc, ov, fl) := roundMag f rm m e
      if ov && !sat then (if f.hasInf then infOf f n else nanOf f, fl) else (sg + enc, fl)

/-- A value rounded to binary32 to nearest even: its bits and its flags. -/
def toF32 (x : Num) : Nat × Nat := convert fmtF32 .near false x

/-! ## Philox4x32-10 (R105) -/

/-- One round of Philox4x32: the multipliers and the word exchange of the generator. -/
def philoxRound (c : Nat × Nat × Nat × Nat) (k0 k1 : Nat) : Nat × Nat × Nat × Nat :=
  let (c0, c1, c2, c3) := c
  let p0 := 0xD2511F53 * c0
  let p1 := 0xCD9E8D57 * c2
  (Nat.xor (Nat.xor (p1 / 2 ^ 32) c1) k0, p1 % 2 ^ 32, Nat.xor (Nat.xor (p0 / 2 ^ 32) c3) k1, p0 % 2 ^ 32)

/-- Ten rounds, the key raised by the Weyl constants between rounds. -/
def philox (c : Nat × Nat × Nat × Nat) (k0 k1 : Nat) : Nat × Nat × Nat × Nat :=
  (List.range 10).foldl
    (fun c i => philoxRound c ((k0 + i * 0x9E3779B9) % 2 ^ 32) ((k1 + i * 0xBB67AE85) % 2 ^ 32)) c

/-- What a stochastic conversion needs beside its element index: the tensor identifier, STEP_NO and SR_SEED (R105). -/
structure SrKey where
  tensor : Nat
  step : Nat
  seed : Nat
  deriving DecidableEq, Repr

/-- The draw r of an element: bits [31:16] of word 0 (R105). -/
def srDraw (k : SrKey) (elem : Nat) : Nat :=
  (philox (fldN elem 0 32, fldN elem 32 32, k.tensor % 2 ^ 32, k.step % 2 ^ 32) (fldN k.seed 0 32) (fldN k.seed 32 32)).1 / 2 ^ 16

/-- The rounding of one element under RM resolved to 0 or 1. -/
def rndOf (rm : Nat) (k : SrKey) (elem : Nat) : Rnd := if rm = 1 then .stoch (srDraw k elem) else .near

/-! ## Micro-scaled blocks (R94 to R98, R660) -/

/-- The exact value of an MX element under its block scale (R94). -/
def decodeMx (f : FFmt) (scale x : Nat) : Num :=
  if scale = 0xFF then .nan else (decodeF f x).scale ((scale : Int) - 127)

/-- The largest magnitude of a list of finite values, as m and e; (0, 0) when all are zero. -/
def maxMag (xs : List Num) : Nat × Int :=
  xs.foldl (fun a x => match x with
    | .fin _ m e => if m = 0 then a else if a.1 = 0 then (m, e)
        else if (Num.fin false a.1 a.2).cmp (.fin false m e) == .lt then (m, e) else a
    | _ => a) (0, 0)

/-- One element of an MX block against scale exponent sc: bits, flags, and whether it lies beyond the block's range at
the top scale (R96, R660). -/
def mxElem (f : FFmt) (rm : Rnd) (sc : Int) (top sat : Bool) (x : Num) : Nat × Nat × Bool :=
  match x with
  | .fin n m e =>
    let sg := b2n n * 2 ^ (f.eb + f.fb)
    if m = 0 then (sg, 0, false)
    else
      let past := top && ((Num.fin false m (e - sc)).cmp (decodeF f f.maxEnc) == .gt)
      if past then (sg + f.maxEnc, flOr flOvf flInx, !sat)
      else
        let (enc, ov, fl) := roundMag f rm m (e - sc)
        (sg + enc, if ov then flInx else fl, false)
  | _ => (0, 0, false)

/-- A block of values converted to an MX format: the scale byte, the elements' bits and the flags. -/
def toMx (fmt : Nat) (f : FFmt) (sat : Bool) (xs : List (Num × Rnd)) : Nat × List Nat × Nat :=
  let vs := xs.map (fun p => p.1)
  let nanBits := (List.range xs.length).map (fun i => Config.mxNanElem fmt i % 2 ^ f.bits)
  if vs.any Num.isNan || vs.any Num.isInf then (0xFF, nanBits, flIf (vs.any Num.isInf) flOvf)
  else
    let (m, e) := maxMag vs
    if m = 0 then (0, xs.map (fun _ => 0), 0)
    else
      let want := leadExp m e - f.emax
      let sc : Int := if want < -127 then -127 else if 127 < want then 127 else want
      let els := xs.map (fun p => mxElem f p.2 sc (decide (127 < want)) sat p.1)
      let fl := els.foldl (fun a x => flOr a x.2.1) 0
      if els.any (fun x => x.2.2) then (0xFF, nanBits, fl)
      else ((sc + 127).toNat, els.map (fun x => x.1), fl)

/-- Bytes of one block of the element array (Table 3-4). -/
def mxBlockBytes (fmt : Nat) : Nat := elemBits fmt * 4

/-- Elements of w bits packed from bit 0 upward into little-endian bytes: Table 3-4's packing for 8, 6 and 4 bits. -/
def packBits (w : Nat) (xs : List Nat) : List Byte :=
  leBytes ((w * xs.length + 7) / 8) (xs.foldr (fun x a => a * 2 ^ w + x % 2 ^ w) 0)

/-- n elements of w bits read back from packed bytes. -/
def unpackBits (w n : Nat) (bs : List Byte) : List Nat :=
  let x := leNat bs
  (List.range n).map (fun i => fldN x (w * i) w)

/-! ## The anchored accumulator (R108 to R115) -/

/-- A slot: its 125-bit total, its CLASS (0 finite, 1 +infinity, 2 -infinity, 3 NaN) and INEXACT (Table 3-11). -/
structure Slot where
  t : Nat
  cls : Nat
  inx : Bool
  deriving DecidableEq, Repr

/-- An empty slot: all zero. -/
def Slot.empty : Slot := ⟨0, 0, false⟩

/-- The 128 bits of a slot (Table 3-11). -/
def Slot.word (s : Slot) : Nat := s.t % 2 ^ 125 + (s.cls % 4) * 2 ^ 125 + b2n s.inx * 2 ^ 127

/-- The slot that 128 bits spell. -/
def slotOf (w : Nat) : Slot := ⟨fldN w 0 125, fldN w 125 2, bitN w 127⟩

/-- The signed total of a slot. -/
def Slot.total (s : Slot) : Int := signedN 125 s.t

/-- Whether a slot is in window overflow: EXT is not five copies of bit 119 (R108). -/
def Slot.overflowed (s : Slot) : Bool := fldN s.t 119 6 != 0 && fldN s.t 119 6 != 0x3F

/-- CLASS after an addend's class, and whether the pair is invalid (Table 3-12). -/
def classJoin (a b : Nat) : Nat × Bool :=
  if a = 3 || b = 3 then (3, false)
  else if a = 0 then (b, false)
  else if b = 0 || a = b then (a, false)
  else (3, true)

/-- The class of an infinity of a sign. -/
def infClass (neg : Bool) : Nat := if neg then 2 else 1

/-- A class combined into a slot, with the invalid flag of Table 3-12. -/
def Slot.joinClass (s : Slot) (c : Nat) : Slot × Nat :=
  let (k, inv) := classJoin s.cls c
  ({ s with cls := k }, flIf inv flInv)

/-- What adding an addend to a slot gives: the slot, the flags, and whether step 3 of R110 made it an infinity (R118). -/
structure Added where
  slot : Slot
  flags : Nat
  hit : Bool
  deriving DecidableEq, Repr

/-- An addend x added into a slot of anchor a (R110). -/
def Slot.addend (s : Slot) (a : Int) (x : Num) : Added :=
  match x with
  | .nan => let (s, f) := s.joinClass 3; ⟨s, f, false⟩
  | .inf n => let (s, f) := s.joinClass (infClass n); ⟨s, f, false⟩
  | .fin neg m e =>
    let (n, inx) := roundInt .near m (e - (a - 95))
    let fl := flOr (flIf inx flInx) (flIf (m != 0 && n == 0) flUnf)
    let s := { s with inx := s.inx || inx }
    let i := signedInt neg n
    if i < -(2 ^ 119) || (2 ^ 119 - 1) < i then
      let (s, f) := s.joinClass (infClass neg)
      ⟨s, flOr (flOr fl f) flOvf, true⟩
    else ⟨{ s with t := toField 125 (s.total + i) }, fl, false⟩

/-- Two slots of one anchor merged (R111). -/
def Slot.merge (s r : Slot) : Slot × Nat :=
  let (k, inv) := classJoin s.cls r.cls
  (⟨(s.t + r.t) % 2 ^ 125, k, s.inx || r.inx⟩, flIf inv flInv)

/-- A slot read into an exact value, with the flag of R114. -/
def Slot.read (s : Slot) (a : Int) : Num × Nat :=
  if s.cls = 3 then (.nan, 0)
  else if s.cls = 1 then (.inf false, 0)
  else if s.cls = 2 then (.inf true, 0)
  else if s.overflowed then (.inf (bitN s.t 124), flOvf)
  else (.ofInt s.total (a - 95), 0)

/-- A slot of anchor b added into a slot of anchor a (R111, R112). -/
def Slot.addSlot (s : Slot) (a : Int) (r : Slot) (b : Int) : Added :=
  if a = b then let (x, f) := s.merge r; ⟨x, f, false⟩
  else
    let (x, f) := r.read b
    let y := s.addend a x
    ⟨{ y.slot with inx := y.slot.inx || r.inx }, flOr f y.flags, y.hit⟩

/-! ## binary32 arithmetic (R120, R122): the exact result, rounded once to nearest even -/

/-- The exact sum, or none where +infinity meets -infinity. A zero sum is -0 only of two -0 (IEEE 754-2019). -/
def addNum (x y : Num) : Option Num :=
  match x, y with
  | .nan, _ => some .nan
  | _, .nan => some .nan
  | .inf a, .inf b => if a = b then some (.inf a) else none
  | .inf a, _ => some (.inf a)
  | _, .inf b => some (.inf b)
  | .fin n1 m1 e1, .fin n2 m2 e2 =>
    let (a, b, e) := align n1 m1 e1 n2 m2 e2
    if a + b = 0 then some (.fin (n1 && n2 && m1 == 0 && m2 == 0) 0 0) else some (.ofInt (a + b) e)

/-- The exact product, or none for zero times infinity. -/
def mulNum (x y : Num) : Option Num :=
  match x, y with
  | .nan, _ => some .nan
  | _, .nan => some .nan
  | .inf a, .inf b => some (.inf (a != b))
  | .inf a, .fin n m _ => if m = 0 then none else some (.inf (a != n))
  | .fin n m _, .inf b => if m = 0 then none else some (.inf (n != b))
  | .fin n1 m1 e1, .fin n2 m2 e2 => some (.fin (n1 != n2) (m1 * m2) (if m1 * m2 = 0 then 0 else e1 + e2))

/-- An exact result rounded to binary32; none is an invalid operation (R92, Table 3-3). -/
def roundF32 (x : Option Num) : Nat × Nat :=
  match x with
  | none => (0x7FC00000, flInv)
  | some v => toF32 v

/-- The canonical binary32 NaN. -/
def f32Nan : Nat := 0x7FC00000

/-- A binary32 value as the module writes it on: a NaN is the canonical one, its payload and sign gone (R92). -/
def canonF32 (a : Nat) : Nat := if (ofF32 a).isNan then f32Nan else a

def f32Add (a b : Nat) : Nat × Nat := roundF32 (addNum (ofF32 a) (ofF32 b))
def f32Sub (a b : Nat) : Nat × Nat := roundF32 (addNum (ofF32 a) (ofF32 b).negate)
def f32Mul (a b : Nat) : Nat × Nat := roundF32 (mulNum (ofF32 a) (ofF32 b))

/-- a x b + c, rounded once (R120). -/
def f32Fma (a b c : Nat) : Nat × Nat :=
  roundF32 (match mulNum (ofF32 a) (ofF32 b) with
    | none => if (ofF32 c).isNan then some .nan else none
    | some p => addNum p (ofF32 c))

/-- The exact quotient to at least 80 bits and a sticky bit, or none for 0/0 and infinity over infinity; the second part is the
IEEE divide-by-zero case, which raises no flag of Table 3-15. -/
def divNum (x y : Num) : Option Num :=
  match x, y with
  | .nan, _ => some .nan
  | _, .nan => some .nan
  | .inf _, .inf _ => none
  | .inf a, .fin n _ _ => some (.inf (a != n))
  | .fin n _ _, .inf b => some (.fin (n != b) 0 0)
  | .fin n1 m1 e1, .fin n2 m2 e2 =>
    if m2 = 0 then (if m1 = 0 then none else some (.inf (n1 != n2)))
    else if m1 = 0 then some (.fin (n1 != n2) 0 0)
    else
      let k := 80 + Nat.log2 m2
      let q := m1 * 2 ^ k / m2
      let r := m1 * 2 ^ k % m2
      some (.fin (n1 != n2) (2 * q + b2n (r != 0)) (e1 - e2 - k - 1))

def f32Div (a b : Nat) : Nat × Nat := roundF32 (divNum (ofF32 a) (ofF32 b))

/-- The integer square root of n, one bit of the answer at a time from bit k - 1 down. -/
def isqrtBits : Nat → Nat → Nat → Nat
  | 0, _, r => r
  | k + 1, n, r => isqrtBits k n (if (r + 2 ^ k) * (r + 2 ^ k) ≤ n then r + 2 ^ k else r)

/-- The square root to more than 60 bits and a sticky bit; none for a negative operand other than -0. -/
def sqrtNum (x : Num) : Option Num :=
  match x with
  | .nan => some .nan
  | .inf n => if n then none else some (.inf false)
  | .fin n m e =>
    if m = 0 then some (.fin n 0 0)
    else if n then none
    else
      let odd := e % 2 != 0
      let m' := (if odd then 2 * m else m) * 2 ^ 128
      let e' := (if odd then e - 1 else e) - 128
      let r := isqrtBits ((Nat.log2 m' + 2) / 2 + 1) m' 0
      some (.fin false (2 * r + b2n (r * r != m')) (e' / 2 - 1))

def f32Sqrt (a : Nat) : Nat × Nat := roundF32 (sqrtNum (ofF32 a))

end Sys2Proof.Machine
end

