-- ==== Sys2Proof/Machine/Elementary.lean ====
section
/-! DEFINITION. The elementary functions of the output path and of Isafen (R179, R202). The spec bounds their error at 2
units in the last place of the correctly rounded result and names no algorithm: the model takes the correctly rounded
result moved by a free number of units from -2 to 2 (notes/assumptions/5.md). -/
namespace Sys2Proof.Machine

/-- Fractional bits of the fixed-point working values. -/
def fxBits : Nat := 128

/-- The natural logarithm of 2 with fxBits fractional bits. -/
def fxLn2 : Nat := 0xB17217F7D1CF79ABC9E3B39803F2F6AF

/-- A finite value as a fixed-point number, cut toward zero. -/
def fxOf (neg : Bool) (m : Nat) (e : Int) : Int :=
  let k := e + fxBits
  signedInt neg (if 0 ≤ k then m * 2 ^ k.toNat else m / 2 ^ (-k).toNat)

/-- A fixed-point number as a value. -/
def fxNum (x : Int) : Num := .ofInt x (-(fxBits : Int))

/-- e^x of a fixed-point number: x = n ln 2 + r, the series of e^r, times 2^n. -/
def fxExp (x : Int) : Num :=
  let n := x / (fxLn2 : Int)
  let r := (x - n * fxLn2).toNat
  let one := 2 ^ fxBits
  let s := (List.range 44).foldl (fun (a : Nat × Nat) i => (a.1 + a.2, a.2 * r / one / (i + 1))) (0, one)
  .fin false s.1 (n - fxBits)

/-- The natural logarithm of a positive value as a fixed-point number: by its leading exponent and the series of
2 atanh((m - 1) / (m + 1)). -/
def fxLn (m : Nat) (e : Int) : Int :=
  let k := Nat.log2 m
  let one := 2 ^ fxBits
  let f := m * one / 2 ^ k
  let z := (f - one) * one / (f + one)
  let z2 := z * z / one
  let s := (List.range 48).foldl (fun (a : Nat × Nat) i => (a.1 + a.2 / (2 * i + 1), a.2 * z2 / one)) (0, z)
  (2 * s.1 : Nat) + ((k : Int) + e) * fxLn2

/-- A fixed-point argument held to a range beyond which the exponential lies far outside binary32. -/
def fxClamp (x : Int) : Int :=
  let top : Int := 1000 * 2 ^ fxBits
  if top < x then top else if x < -top then -top else x

/-- 1 / (1 + e^-x) of a fixed-point number. -/
def fxSigmoid (x : Int) : Num :=
  let one : Num := .fin false 1 0
  let ex := fxExp (fxClamp (-(x.natAbs : Int)))
  match addNum one ex with
  | some d => (divNum (if x < 0 then ex else one) d).getD .nan
  | none => .nan

/-- The functions, by name. -/
inductive Elem where
  | exp | exp2 | ln | log2 | rsqrt | tanh | gelu | silu | sigmoid
  deriving DecidableEq, Repr

/-- The number of a function in the free offset. -/
def Elem.num : Elem → Nat
  | .exp => 0
  | .exp2 => 1
  | .ln => 2
  | .log2 => 3
  | .rsqrt => 4
  | .tanh => 5
  | .gelu => 6
  | .silu => 7
  | .sigmoid => 8

/-- tanh of a finite value: its series near zero, by exponentials elsewhere. -/
def tanhNum (n : Bool) (m : Nat) (e : Int) : Num :=
  if m = 0 then .fin n 0 0
  else if leadExp m e < -12 then
    let x3 := m * m * m
    ((addNum (.fin n m e) ((divNum (.fin (!n) x3 (3 * e)) (.fin false 3 0)).getD .nan)).bind (fun a =>
      addNum a ((divNum (.fin n (2 * x3 * m * m) (5 * e)) (.fin false 15 0)).getD .nan))).getD .nan
  else
    let ex := fxExp (fxClamp (2 * fxOf true m e))
    let one : Num := .fin false 1 0
    let q := (addNum one ex.negate).bind (fun a => (addNum one ex).bind (fun b => divNum a b))
    if n then (q.getD .nan).negate else q.getD .nan

/-- Twice the inner argument of the GELU approximation, 2 x 0.7978845608 (x + 0.044715 x^3), in fixed point (Table 5-4). -/
def geluArg (n : Bool) (m : Nat) (e : Int) : Int :=
  if 10 < leadExp m e then (if n then -(2000 * 2 ^ fxBits) else 2000 * 2 ^ fxBits)
  else
    let x := fxOf n m e
    let one : Int := 2 ^ fxBits
    let x3 := x * x / one * x / one
    2 * 7978845608 * (x * 1000000 + 44715 * x3) / (10000000000 * 1000000)

/-- The value a function is approximated to on a finite operand, before any rounding; none is an invalid operation. -/
def elemFin (f : Elem) (n : Bool) (m : Nat) (e : Int) : Option Num :=
  let x : Num := .fin n m e
  match f with
  | .exp => some (if m = 0 then .fin false 1 0 else if 11 < leadExp m e then (if n then .fin false 1 (-1500) else .fin false 1 1500)
      else fxExp (fxClamp (fxOf n m e)))
  | .exp2 => some (if m = 0 then .fin false 1 0 else if 11 < leadExp m e then (if n then .fin false 1 (-1500) else .fin false 1 1500)
      else fxExp (fxClamp (fxOf n m e * fxLn2 / 2 ^ fxBits)))
  | .ln => if m = 0 then some (.inf true) else if n then none else some (fxNum (fxLn m e))
  | .log2 => if m = 0 then some (.inf true) else if n then none else divNum (fxNum (fxLn m e)) (fxNum fxLn2)
  | .rsqrt => if m = 0 then some (.inf n) else if n then none else (divNum (.fin false 1 0) x).bind sqrtNum
  | .tanh => some (tanhNum n m e)
  | .gelu => if m = 0 then some x else mulNum x (fxSigmoid (geluArg n m e))
  | .silu => if m = 0 then some x else mulNum x (fxSigmoid (fxClamp (fxOf n m e)))
  | .sigmoid => some (fxSigmoid (fxClamp (fxOf n m e)))

/-- A function of an infinity, by its formula under IEEE 754-2019 special values (R180, R202). -/
def elemInf (f : Elem) (n : Bool) : Option Num :=
  match f with
  | .exp => some (if n then Num.zero else .inf false)
  | .exp2 => some (if n then Num.zero else .inf false)
  | .ln => if n then none else some (.inf false)
  | .log2 => if n then none else some (.inf false)
  | .rsqrt => if n then none else some Num.zero
  | .tanh => some (.fin n 1 0)
  | .gelu => if n then none else some (.inf false)
  | .silu => if n then none else some (.inf false)
  | .sigmoid => some (if n then Num.zero else .fin false 1 0)

/-- The exponent of a value that is a power of two. -/
def powOf? (n : Bool) (m : Nat) (e : Int) : Option Int := if !n && m != 0 && m == 2 ^ Nat.log2 m then some (Nat.log2 m + e) else none

/-- A finite value as an integer, if it is one. -/
def intOf? (n : Bool) (m : Nat) (e : Int) : Option Int :=
  if 0 ≤ e then some (signedInt n (m * 2 ^ e.toNat)) else if m % 2 ^ (-e).toNat = 0 then some (signedInt n (m / 2 ^ (-e).toNat)) else none

/-- The exact value of a function where it is a binary fraction: e^0, 2 to an integer, the logarithms of 1 and the log2 of a power of two,
the rsqrt of an even power of two, and each function of a zero; none where every result is a rounded one. -/
def elemExact (f : Elem) (n : Bool) (m : Nat) (e : Int) : Option Num :=
  match f with
  | .exp => if m = 0 then some (.fin false 1 0) else none
  | .exp2 => if 11 < leadExp m e && m != 0 then none else (intOf? n m e).map (fun k => .fin false 1 k)
  | .ln => if m = 0 then some (.inf true) else if powOf? n m e = some 0 then some Num.zero else none
  | .log2 => if m = 0 then some (.inf true) else (powOf? n m e).map (fun k => .ofInt k 0)
  | .rsqrt => if m = 0 then some (.inf n)
    else match powOf? n m e with
      | some k => if k % 2 = 0 then some (.fin false 1 (-(k / 2))) else none
      | none => none
  | .sigmoid => if m = 0 then some (.fin false 1 (-1)) else none
  | _ => if m = 0 then some (.fin n 0 0) else none

/-- Whether an exact value is one that no error moves: a zero, an infinity or one (notes/assumptions/5.md). -/
def firmNum : Num → Bool
  | .fin _ m e => m == 0 || (Num.fin false m e).cmp (.fin false 1 0) == .eq
  | _ => true

/-- A rounded result moved by the free number of units, and the flags of what is written: inexact, since it is not the exact value, and
overflow or underflow by its own magnitude (Table 3-15, R104). -/
def elemMoved (f : Elem) (x b : Nat) : Nat × Nat :=
  let mag : Int := (b % 2 ^ 31 : Nat) + (Config.elemOffset f.num x % 5 - 2)
  let mag := if mag < 0 then 0 else if 0x7F800000 < mag then 0x7F800000 else mag
  (b / 2 ^ 31 * 2 ^ 31 + mag.toNat, flOr flInx (flOr (flIf (0x7F800000 ≤ mag) flOvf) (flIf (mag < 0x00800000) flUnf)))

/-- A function of binary32 bits: binary32 bits and flags. An exact result that the free offset leaves where it is keeps its own flags; any
other is a rounded one. -/
def elemF32 (f : Elem) (x : Nat) : Nat × Nat :=
  match ofF32 x with
  | .nan => (f32Nan, 0)
  | .inf n => roundF32 (elemInf f n)
  | .fin n m e =>
    match elemExact f n m e with
    | some y =>
      let (b, fl) := toF32 y
      if firmNum y || (elemMoved f x b).1 = b then (b, fl) else elemMoved f x b
    | none =>
      match elemFin f n m e with
      | none => (f32Nan, flInv)
      | some v => elemMoved f x (toF32 v).1

end Sys2Proof.Machine
end

