-- ==== Sys2Proof/Machine/Tarn.lean ====
section
/-! DEFINITION. The Tarn of a core: tile rows, ownership and lending, carry chains (05_tarn_and_epilogue.md, R160 to
R171), and what a running grain's unit needs to know. -/
namespace Sys2Proof.Machine

/-- What a grain's unit works with: its core, the partition it works for, the partition that owns the core, its request
context, GRAIN_ID, CARRY, STRICT, whether it is a filler grain, and the STEP_NO of its stochastic rounding. -/
structure GCtx where
  core : Nat
  part : Nat
  owner : Nat
  ctx : Ctx
  gid : Nat
  carry : Bool
  strict : Bool
  filler : Bool
  stepNo : Nat
  run : Nat
  deriving DecidableEq, Repr

/-- What a unit gives back when its grain ends: its unit code (0 for none), the flags raised, whether a field was
clamped, and the state. -/
structure UnitOut where
  code : Nat
  flags : Nat
  clamped : Bool
  st : State

/-- An empty row. -/
def TarnRow.empty : TarnRow := ⟨0, 0, false, 0, []⟩

/-- Tile row r of core c; a row not listed is empty. -/
def State.tarnRow (s : State) (c r : Nat) : TarnRow := tgetD (s.core c).tarn r TarnRow.empty

/-- Tile row r of core c replaced; an empty row that no partition's grain has written is not listed. -/
def State.setRow (s : State) (c r : Nat) (x : TarnRow) : State :=
  s.modCore c (fun k => { k with tarn := if x = TarnRow.empty then tdel k.tarn r else tput k.tarn r x })

/-- The tile rows of core c as another state has them: what a run that is discarded wrote there is gone, and every line it read stays
charged and cached (R118, R144). -/
def State.keepTarn (s : State) (c : Nat) (before : State) : State := s.modCore c (fun k => { k with tarn := (before.core c).tarn })

/-- Slot n of a row, 128 bits; an empty row reads as zero slots (R162). -/
def TarnRow.slot (x : TarnRow) (n : Nat) : Nat := nthD x.slots n 0

/-- A row's slots with slot n replaced. -/
def TarnRow.setSlot (x : TarnRow) (n v : Nat) : TarnRow :=
  let l := x.slots ++ List.replicate (64 - x.slots.length) 0
  { x with slots := l.take n ++ v :: l.drop (n + 1) }

/-- Every slot of a row marked NaN (R149, R175): CLASS NaN in anchored form; the canonical NaN in bits [31:0] in strict form, bits
[126:32] zero, INEXACT as it was. An empty row takes the grain's form (R162): strict, or anchored at a. -/
def TarnRow.markNan (x : TarnRow) (strict : Bool) (a : Int) : TarnRow :=
  if x.form = 2 || x.form = 0 && strict then
    { x with form := 2, slots := (List.range 64).map (fun n => f32Nan + 2 ^ 127 * b2n (bitN (x.slot n) 127)) }
  else { x with
    form := 1
    anchor := if x.form = 0 then a else x.anchor
    slots := (List.range 64).map (fun n => { slotOf (x.slot n) with cls := 3 : Slot }.word) }

/-- The tag of a row as Table 5-1 lays it out. -/
def TarnRow.tag (x : TarnRow) : Nat :=
  x.form + 4 * (if x.form = 1 then toField 10 x.anchor else 0) + 2 ^ 12 * b2n x.opn + 2 ^ 13 * x.part

/-- The rows a grain may use on its core, as [first, past the last): the owner's rows, or the lent rows for a filler
grain, which it addresses by their index (R165). -/
def State.rowWindow (s : State) (g : GCtx) : Nat × Nat :=
  let lent := 64 * s.rd F.pFillRows g.owner
  if g.filler then (2048 - lent, 2048) else (0, 2048 - lent)

/-- Whether rows [base, base + n) as the grain names them are usable by it (R166). -/
def State.rowsOk (s : State) (g : GCtx) (base n : Nat) : Bool :=
  let w := s.rowWindow g
  decide (w.1 + base + n ≤ w.2)

/-- The tile row a grain's row index names. -/
def State.rowAt (s : State) (g : GCtx) (r : Nat) : Nat := (s.rowWindow g).1 + r

/-- A Tarn row event (Table 5-10): causes 1 not owned, 2 open row restarted. -/
def State.tarnEvent (s : State) (g : GCtx) (unit first cause n : Nat) : State :=
  s.event 0x0C g.part [g.part, g.core, g.gid, unit, first, cause, n]

/-- OPEN set or cleared on the rows a completed grain wrote, by its CARRY, and PART set (R169, Table 5-1). -/
def State.closeRows (s : State) (g : GCtx) (rows : List Nat) : State :=
  rows.foldl (fun s r =>
    let x := s.tarnRow g.core r
    s.setRow g.core r { x with opn := g.carry, part := g.part }) s

/-- Rows restarted by a grain with START (R171): each open row is emptied and counted once, one event for the grain. -/
def State.restartRows (s : State) (g : GCtx) (unit : Nat) (rows : List Nat) : State :=
  let opn := rows.eraseDups.filter (fun r => (s.tarnRow g.core r).opn)
  match opn with
  | [] => s
  | r :: _ => (s.tarnEvent g unit r 2 opn.length).inc F.pOpenRestart opn.length g.part

/-- Every lent row of a core emptied before the first grain of another partition runs on them (R167). -/
def State.emptyLent (s : State) (g : GCtx) : State :=
  let lent := 64 * s.rd F.pFillRows g.owner
  let rows := (s.core g.core).tarn.filter (fun e => 2048 - lent ≤ e.1)
  if g.filler && rows.any (fun e => e.2.part != g.part) then
    s.modCore g.core (fun k => { k with tarn := k.tarn.filter (fun e => e.1 < 2048 - lent) })
  else s

/-- The value a slot of a row holds, with the flag its reading raises: R114 in anchored form, binary32 in strict form. -/
def TarnRow.value (x : TarnRow) (n : Nat) : Num × Nat :=
  if x.form = 1 then (slotOf (x.slot n)).read x.anchor
  else if x.form = 2 then (ofF32 (fldN (x.slot n) 0 32), 0)
  else (Num.zero, 0)

/-- A row made anchored at anchor a if it is empty (R116, R162); a strict row met by an anchored grain has each binary32
value entered as one addend (R121). The addend is the value alone: an INEXACT bit of the strict slot is not carried into the anchored
one, where the spec says nothing of it (DESIGN CHOICE, notes/assumptions/100.md). -/
def TarnRow.toAnchored (x : TarnRow) (a : Int) : TarnRow × Nat :=
  if x.form = 1 then (x, 0)
  else if x.form = 2 then
    let r := (List.range 64).map (fun n => Slot.empty.addend a (ofF32 (fldN (x.slot n) 0 32)))
    ({ x with form := 1, anchor := a, slots := r.map (fun y => y.slot.word) }, r.foldl (fun f y => flOr f y.flags) 0)
  else ({ x with form := 1, anchor := a, slots := List.replicate 64 0 }, 0)

/-- A row made strict: an anchored row's slots are read to binary32 under round to nearest even (R121); INEXACT of a
slot stays in bit 127. -/
def TarnRow.toStrict (x : TarnRow) : TarnRow × Nat :=
  if x.form = 2 then (x, 0)
  else if x.form = 1 then
    let r := (List.range 64).map (fun n =>
      let sl := slotOf (x.slot n)
      let (v, f) := sl.read x.anchor
      let (b, g) := toF32 v
      (b + 2 ^ 127 * b2n (sl.inx || bitN g 2), flOr f g))
    ({ x with form := 2, anchor := 0, slots := r.map (fun y => y.1) }, r.foldl (fun f y => flOr f y.2) 0)
  else ({ x with form := 2, anchor := 0, slots := List.replicate 64 0 }, 0)

/-- The fields of an anchor control (Table 3-13): anchor, AUTO, RETRY_MAX. -/
def acAnchor (a : Nat) : Int := signedN 10 (fldN a 0 10)
def acAuto (a : Nat) : Bool := bitN a 10
def acRetry (a : Nat) : Nat := fldN a 11 2

/-- A numeric field clamped to a range by a grain: the value to use, and the state with the clamp record if any (R522). -/
def State.clampG (s : State) (g : GCtx) (field v lo hi : Nat) : Nat × Bool × State :=
  if v < lo then (lo, true, s.clampGrain g.part g.core g.gid 1 field v lo)
  else if hi < v then (hi, true, s.clampGrain g.part g.core g.gid 2 field v hi)
  else (v, false, s)

/-- v held to [lo, hi]. -/
def clampN (v lo hi : Nat) : Nat := if v < lo then lo else if hi < v then hi else v

/-- The anchor retry event (R119, Table 3-17): the first row whose anchor moves, old and new anchors, run number and
exhausted. -/
def State.retryEvent (s : State) (g : GCtx) (run row : Nat) (old new : Int) (exhausted : Nat) : State :=
  s.event 0x09 g.part [g.part, g.core, g.gid, row, toField 10 old, toField 10 new, run, exhausted]

end Sys2Proof.Machine
end

