-- ==== Sys2Proof/Machine/Operands.lean ====
section
/-! DEFINITION. Operand forms that several units share: the conversion control byte, elements of arrays in memory, and
the check of a span a unit is about to write. -/
namespace Sys2Proof.Machine

/-- A conversion control byte resolved (Table 3-8, R101): format, stochastic or not, SAT. -/
structure Conv where
  fmt : Nat
  rm : Nat
  sat : Bool
  deriving DecidableEq, Repr

/-- The conversion a control byte names for partition p: RM 0b10 takes DEF_RM, the reserved 0b11 takes 0b00. -/
def State.convOf (s : State) (p byte : Nat) : Conv :=
  let rm := fldN byte 5 2
  ⟨fldN byte 0 5, if rm = 2 then s.rd F.pDefRm p else if rm = 3 then 0 else rm, bitN byte 7⟩

/-- Whether a control byte's RM is the reserved encoding. -/
def convRmBad (byte : Nat) : Bool := fldN byte 5 2 == 3

/-- The stochastic-rounding key of partition p (R105). -/
def State.srKey (s : State) (p tensor stepNo : Nat) : SrKey := ⟨tensor, stepNo, s.rd F.pSrSeedL p + 2 ^ 32 * s.rd F.pSrSeedH p⟩

/-- A value converted to a plain format under a conversion: bits and flags. -/
def Conv.one (c : Conv) (k : SrKey) (elem : Nat) (x : Num) : Nat × Nat :=
  match plainFmt? c.fmt with
  | some f => convert f (rndOf c.rm k elem) c.sat x
  | none => (0, 0)

/-- Values converted to one MX block: scale, packed bytes and flags. A short block is padded with +0 (R181). -/
def Conv.block (c : Conv) (k : SrKey) (xs : List (Num × Nat)) : Nat × List Byte × Nat :=
  match mxFmt? c.fmt with
  | some f =>
    let l := xs.map (fun x => (x.1, rndOf c.rm k x.2)) ++ List.replicate (32 - xs.length) (Num.zero, Rnd.near)
    let (sc, els, fl) := toMx c.fmt f c.sat l
    (sc, packBits (elemBits c.fmt) els, fl)
  | none => (0, [], 0)

/-- n elements of a plain or MX array at consecutive places from pva, MX scales at spva: the values. -/
def decodeArray (fmt n : Nat) (els scales : List Byte) : List Num :=
  match plainFmt? fmt with
  | some f => (unpackBits (elemBits fmt) n els).map (decodeF f)
  | none =>
    match mxFmt? fmt with
    | some f =>
      let bits := unpackBits (elemBits fmt) n els
      (List.range n).map (fun i => decodeMx f (leAt scales (i / 32) 1) (nthD bits i 0))
    | none => []

/-- The first place of [pva, pva + n) that a table does not map with the access asked, and the cause (R37, R177). -/
def State.spanBadFuel (s : State) (p : Nat) (rt : Tab RtEntry) (write : Bool) : Nat → Nat → Nat → Option (Nat × Nat)
  | 0, pva, n => if n = 0 then none else some (pva, 1)
  | k + 1, pva, n =>
    if n = 0 then none
    else match rtFind rt pva with
      | none => some (pva, 1)
      | some e =>
        let stop := Nat.min ((e.vbase + e.len) * mib2) (pva + n)
        match s.xlate p rt pva write, s.xlate p rt (stop - 1) write with
        | .error c, _ => some (pva, c)
        | _, .error c => some (stop - 1, c)
        | _, _ => s.spanBadFuel p rt write k stop (pva + n - stop)

/-- The first unmapped place of a span under a request context, if any. -/
def State.spanBad (s : State) (c : Ctx) (pva n : Nat) (write : Bool) : Option (Nat × Nat) :=
  s.spanBadFuel c.part c.rt write (c.rt.length + 1) pva n

/-- The first line of n bytes from a PVA on that a request may not write, as the translation stands. -/
def State.writeStop (s : State) (c : Ctx) (pva n : Nat) : Nat :=
  (((lineChunks pva n).find? (fun ch => match s.xlate c.part c.rt ch.1 true with
    | .error _ => true
    | .ok (.obj _ _) => true
    | .ok _ => false)).map (fun ch => ch.1)).getD pva

/-- Pieces written one after another, stopped by the first translation fault: the PVA that stopped it. -/
def State.writeAll (s : State) (c : Ctx) (ws : List (Nat × List Byte)) : Option Nat × State :=
  ws.foldl (fun (a : Option Nat × State) w =>
    if a.1.isSome then a
    else
      let (bad, s) := a.2.writePva c w.1 w.2 false
      (if bad then some (s.writeStop c w.1 w.2.length) else none, s)) (none, s)

/-- A candidate of a ranking: its position, its element index for rounding, its exact value and its binary32 rank value. -/
structure Cand where
  pos : Nat
  elem : Nat
  value : Num
  rank : Nat
  deriving DecidableEq, Repr

/-- Whether candidate a ranks before b (R184): equal values, +0 and -0 among them, by the lower position. -/
def Cand.before (smallest : Bool) (a b : Cand) : Bool :=
  let x := ofF32 a.rank
  let y := ofF32 b.rank
  if x.isNan && y.isNan then decide (a.pos < b.pos)
  else if x.isNan then true
  else if y.isNan then false
  else match x.cmp y with
    | .eq => decide (a.pos < b.pos)
    | .gt => !smallest
    | .lt => smallest

/-- A candidate put into its place in a ranked list of at most n. -/
def rankInsert (smallest : Bool) (n : Nat) (c : Cand) (l : List Cand) : List Cand :=
  (l.takeWhile (fun x => x.before smallest c) ++ c :: l.dropWhile (fun x => x.before smallest c)).take n

/-- The first n of a list of candidates in rank order. -/
def rankTop (smallest : Bool) (n : Nat) (l : List Cand) : List Cand := l.foldl (fun a c => rankInsert smallest n c a) []

end Sys2Proof.Machine
end

