-- ==== Sys2Proof/Machine/Index.lean ====
section
/-! DEFINITION. The index engine and the near-memory reduction units (07_index_and_dispatch.md, R231 to R249): gathers,
scatter-adds, segmented reduces and set operations on sorted lists. -/
namespace Sys2Proof.Machine

/-! ## Near-memory additions (R238 to R240, R283) -/

/-- One addition into a slot: a floating value (format and bits), or an anchored slot. -/
structure NmSrc where
  fmt : Nat
  bits : Nat
  deriving DecidableEq, Repr

/-- A source added into a slot of the given anchor: R110 for a floating element, R111 for an anchored slot. -/
def NmSrc.into (x : NmSrc) (a : Int) (sl : Slot) : Slot × Nat :=
  if x.fmt = 12 then sl.merge (slotOf x.bits)
  else match plainFmt? x.fmt with
    | some f => let y := sl.addend a (decodeF f x.bits); (y.slot, y.flags)
    | none => (sl, 0)

/-- The Mere's copy of a line written back if dirty, and dropped (R239). -/
def State.dropLine (s : State) (line : Nat) (early : Bool) : State :=
  match tget? s.mem.mere line with
  | none => s
  | some m =>
    let s := s.setMere (tdel s.mem.mere line)
    (if m.dirty then s.writeBack line m early else s).unpinned m

/-- Additions into the slots of one line at its stack: whether the line was poisoned (nothing is added, R283), the flags
and the state. Both bursts are charged (R305) and the slots counted. -/
def State.nmLine (s : State) (p pa : Nat) (a : Int) (adds : List (Nat × NmSrc)) (early : Bool) : Bool × Nat × State :=
  let line := pa / 128
  let s := ((s.dropLine line early).charge p (paStack pa) 2 early).stackFetch line p 1 [0, 1]
  if s.stackPoison line then (true, 0, s)
  else
    let r := adds.foldl (fun (x : List Byte × Nat) ad =>
      let (sl, f) := ad.2.into a (slotOf (leAt x.1 (16 * ad.1) 16))
      (overlay x.1 (16 * ad.1) (leBytes 16 sl.word), flOr x.2 f)) (s.stackLine line, 0)
    (false, r.2, (s.stackStore line r.1).add F.pScat adds.length p)

/-- Additions into consecutive slots from a PVA: the code (0, 0x67 or 0x68), the PVA of the failure, flags and state. An
address within a slot names that slot. -/
def State.nmAdd (s : State) (c : Ctx) (pva : Nat) (a : Int) (srcs : List NmSrc) : Nat × Nat × Nat × State :=
  let base := pva / 16 * 16
  (lineChunks base (16 * srcs.length)).foldl (fun (x : Nat × Nat × Nat × State) ch =>
    if x.1 != 0 then x
    else
      let adds := (List.range (ch.2 / 16)).map (fun i => (ch.1 % 128 / 16 + i, nthD srcs ((ch.1 - base) / 16 + i) ⟨12, 0⟩))
      match x.2.2.2.xlate c.part c.rt ch.1 true with
      | .error k => (0x67, ch.1, x.2.2.1, x.2.2.2.xfault c.part c.who ch.1 3 k)
      | .ok (.obj _ _) => (0x67, ch.1, x.2.2.1, x.2.2.2.xfault c.part c.who ch.1 3 2)
      | .ok (.dpa d _) =>
        match x.2.2.2.locate? d with
        | none => (0x67, ch.1, x.2.2.1, x.2.2.2.xfault c.part c.who ch.1 3 3)
        | some pa =>
          let (po, f, s) := x.2.2.2.nmLine c.part pa a adds c.early
          (if po then 0x68 else 0, ch.1, flOr x.2.2.1 f, s)) (0, 0, 0, s)

/-! ## The descriptor (R231 to R233, R248) -/

/-- The fields of an index descriptor, clamped (Table 7-1). -/
structure IdxD where
  op : Nat
  sfmt : Nat
  dfmt : Nat
  segOp : Nat
  indirect : Bool
  shint : Nat
  dhint : Nat
  conv : Conv
  anchor : Int
  elems : Nat
  n : Nat
  rows : Nat
  src : Nat
  dst : Nat
  idx : Nat
  idx2 : Nat
  sld : Nat
  dld : Nat
  n2 : Nat
  cnt : Nat
  tensor : Nat
  deriving DecidableEq, Repr

/-- The descriptor's fields, clamped (R248). -/
def State.idxOf (s : State) (p d : Nat) : IdxD :=
  let f := fun lo w => fldN d lo w
  { op := f 8 4, sfmt := f 12 5, dfmt := f 17 5, segOp := f 22 2, indirect := bitN d 24, shint := f 25 2, dhint := f 27 2,
    conv := s.convOf p (f 32 8), anchor := acAnchor (f 40 16), elems := Nat.max 1 (f 64 24), n := Nat.max 1 (f 96 32),
    rows := f 128 64, src := f 192 64, dst := f 256 64, idx := f 320 64, idx2 := f 384 64, sld := f 448 32, dld := f 480 32,
    n2 := f 512 32, cnt := f 544 64, tensor := f 608 32 }

/-- Whether the OP is a set operation, and whether it uses an anchor or a conversion. -/
def IdxD.sets (x : IdxD) : Bool := 3 ≤ x.op
def IdxD.anchored (x : IdxD) : Bool := x.op == 1 || (x.op == 2 && x.segOp == 0)
def IdxD.converts (x : IdxD) : Bool := x.op == 2 && x.segOp == 0

/-- The clamps of an index grain, in ascending field code (R248, R101, R233). -/
def State.idxClamps (s : State) (g : GCtx) (d : Nat) : Bool × State :=
  let x := s.idxOf g.part d
  let c1 := fldN d 64 24 == 0
  let c2 := fldN d 96 32 == 0
  let c3 := x.converts && convRmBad (fldN d 32 8)
  let c4 := x.anchored && acAuto (fldN d 40 16)
  let cl := fun (s : State) (c : Bool) (reason field req app : Nat) =>
    if c then s.clampGrain g.part g.core g.gid reason field req app else s
  (c1 || c2 || c3 || c4, cl (cl (cl (cl s c1 1 0x1301 0 1) c2 1 0x1302 0 1) c3 3 0x13F1 3 0) c4 8 0x13F2 1 0)

/-- Whether the formats lie in Table 7-2. -/
def IdxD.fmtsOk (x : IdxD) : Bool :=
  let plain := fun f => decide (f ≤ 4)
  match x.op with
  | 0 => (plain x.sfmt || x.sfmt == 10 || x.sfmt == 11 || x.sfmt == 12) && x.dfmt == x.sfmt
  | 1 => (plain x.sfmt || x.sfmt == 12) && x.dfmt == 12
  | 2 =>
    if x.segOp = 0 then (plain x.sfmt || x.sfmt == 12) && plain x.conv.fmt && x.dfmt == x.conv.fmt
    else plain x.sfmt && x.dfmt == x.sfmt
  | _ => true

/-- Bytes of a source and of a destination row. -/
def IdxD.srcBytes (x : IdxD) : Nat := x.elems * elemBits x.sfmt / 8
def IdxD.dstBytes (x : IdxD) : Nat := x.elems * elemBits x.dfmt / 8

/-- The span of n rows. -/
def rowSpan (pva ld bytes n : Nat) : List (Nat × Nat) := if n = 0 then [] else [(pva, (n - 1) * ld + bytes)]

/-- The spans an index grain writes, and those it reads. -/
def IdxD.outs (x : IdxD) : List (Nat × Nat) :=
  if x.sets then [(x.dst, 4 * x.rows), (x.cnt, 4)]
  else rowSpan x.dst x.dld x.dstBytes (if x.op = 1 then x.rows else x.n)
def IdxD.ins (x : IdxD) : List (Nat × Nat) :=
  if x.sets then (x.idx, 4 * x.n) :: (if x.op = 6 then [] else [(x.idx2, 4 * x.n2)])
  else rowSpan x.src x.sld x.srcBytes (if x.op = 1 then x.n else x.rows) ++ [(x.idx, 4 * (if x.op = 2 then x.n + 1 else x.n))] ++
    (if x.op = 2 && x.indirect then [(x.idx2, 4 * x.n2)] else [])

/-- The index fault event of a grain and, when it ends with FAULT, its count (Tables 7-12, 7-13). -/
def State.idxFault (s : State) (g : GCtx) (code pva pos count done : Nat) : State :=
  let s := s.event 0x0F g.part [g.part, g.core, g.gid, code, pva, pos, count, done]
  if code = 0x63 then s else s.inc F.pIdxFaults 1 g.part

/-- n INT32 entries of a list from entry i: the values, the code and PVA of a failure. -/
def State.readInts (s : State) (c : Ctx) (pva i n : Nat) : List Int × Nat × Nat × State :=
  let (r, s) := s.readPva c (pva + 4 * i) (4 * n)
  ((List.range n).map (fun k => signedN 32 (leAt r.bytes (4 * k) 4)), r.code 0x67 0x68, r.pva, s)

/-- The first offset that makes a list invalid (R242): a negative first one, one below its predecessor, or a last one past the limit of
members. -/
def offsetBad? (limit : Nat) (l : List Int) : Option Nat :=
  if nthD l 0 (-1) < 0 then some 0
  else match (List.range (l.length - 1)).find? (fun i => decide (nthD l (i + 1) 0 < nthD l i 0)) with
    | some i => some (i + 1)
    | none => if (limit : Int) < nthD l (l.length - 1) 0 then some (l.length - 1) else none

/-- Of n INT32 entries of a list from its start, those before the first line that fails; the code and PVA of the failure. -/
def State.readSome (s : State) (c : Ctx) (pva n : Nat) : List Int × Nat × Nat × State :=
  let (l, code, a, s) := s.readInts c pva 0 n
  (if code = 0 then l else l.take ((a - pva) / 4), code, a, s)

/-- An index grain at its start: clamps and the checks of Table 7-4, the offset list of a segmented reduce among them.
The answer is the code, whether a field was clamped, the offsets, and the state. -/
def State.idxStart (s : State) (g : GCtx) (d : Nat) : Nat × Bool × List Nat × State :=
  let (cl, s) := s.idxClamps g d
  let x := s.idxOf g.part d
  let fail := fun (s : State) (code pva pos : Nat) => (code, cl, ([] : List Nat), s.idxFault g code pva pos 0 0)
  if fldN d 0 8 != 0x10 || 7 ≤ x.op || (x.op = 2 && x.segOp = 3) then fail s 0x61 0 0
  else if !x.fmtsOk then fail s 0x62 0 0
  else
    let (off, code, pva, s) := if x.op = 2 then s.readInts g.ctx x.idx 0 (x.n + 1) else ([], 0, 0, s)
    if code != 0 then fail s code pva 0
    else match if x.op = 2 then offsetBad? (if x.indirect then x.n2 else x.rows) off else none with
    | some i => fail s 0x64 0 i
    | none =>
    if x.outs.any (fun o => x.ins.any (fun i => decide (o.1 < i.1 + i.2) && decide (i.1 < o.1 + o.2) && o.2 != 0 && i.2 != 0)) then
      fail s 0x69 0 0
    else (0, cl, off.map Int.toNat, s)

/-! ## Running -/

/-- The run of an index grain: state, fault, first offending position and the count of those out of range, indices completed, flags, and
the source lines fetched in the present window of 64 indices (R237). -/
structure IdxRun where
  st : State
  code : Nat
  pva : Nat
  oor : Option Nat
  nOor : Nat
  done : Nat
  flags : Nat
  window : Nat
  lines : Tab (List Byte)

/-- Whether an index is padding, counting one out of range (R236). -/
def IdxRun.pad (r : IdxRun) (x : IdxD) (pos : Nat) (i : Int) : Bool × IdxRun :=
  if i = -1 then (true, r)
  else if i < 0 || (x.rows : Int) ≤ i then (true, { r with oor := some (r.oor.getD pos), nOor := r.nOor + 1 })
  else (false, r)

/-- A read of source row i for the index at place pos, line by line: a line the window has fetched is not fetched again (R237); the first
failure stops the run. -/
def IdxRun.row (r : IdxRun) (g : GCtx) (x : IdxD) (pos i : Nat) : List Byte × IdxRun :=
  let r := if r.window = pos / 64 then r else { r with window := pos / 64, lines := [] }
  (lineChunks (x.src + i * x.sld) x.srcBytes).foldl (fun (a : List Byte × IdxRun) ch =>
    let k := ch.1 / 128
    let take := fun (bs : List Byte) => a.1 ++ bytesAt bs (ch.1 - 128 * k) ch.2
    if a.2.code != 0 then a
    else match tget? a.2.lines k with
      | some bs => (take bs, a.2)
      | none =>
        let (o, s) := a.2.st.readPva { g.ctx with hint := x.shint } (128 * k) 128
        let c := o.code 0x67 0x68
        (take o.bytes, { a.2 with st := s, code := c, pva := if c = 0 then a.2.pva else ch.1, lines := if c = 0 then tput a.2.lines k o.bytes else a.2.lines })) ([], r)

/-- A destination row written. -/
def IdxRun.put (r : IdxRun) (g : GCtx) (x : IdxD) (i : Nat) (bs : List Byte) : IdxRun :=
  let (bad, s) := r.st.writeAll { g.ctx with hint := x.dhint } [(x.dst + i * x.dld, bs)]
  { r with st := s, code := if bad.isSome then 0x67 else 0, pva := bad.getD 0 }

/-- The elements of a row as near-memory sources. -/
def IdxD.srcs (x : IdxD) (bs : List Byte) : List NmSrc :=
  let w := elemBits x.sfmt / 8
  (List.range x.elems).map (fun c => ⟨x.sfmt, leAt bs (c * w) w⟩)

/-- One index of a gather or scatter-add (R234, R235). -/
def IdxRun.one (r : IdxRun) (g : GCtx) (x : IdxD) (pos : Nat) (i : Int) : IdxRun :=
  if r.code != 0 then r
  else
    let (pad, r) := r.pad x pos i
    let r :=
      if x.op = 0 then
        if pad then r.put g x pos (List.replicate x.dstBytes 0)
        else
          let (bs, r) := r.row g x pos i.toNat
          if r.code != 0 then r else r.put g x pos bs
      else if pad then r
      else
        let (bs, r) := r.row g x pos pos
        if r.code != 0 then r
        else
          let (c, a, f, s) := r.st.nmAdd { g.ctx with hint := x.dhint } (x.dst + i.toNat * x.dld) x.anchor (x.srcs bs)
          { r with st := s, code := c, pva := a, flags := flOr r.flags f }
    if r.code = 0 then { r with done := r.done + 1 } else r

/-- A gather or scatter-add, by windows of 64 indices (R237). -/
def IdxRun.windows (r : IdxRun) (g : GCtx) (x : IdxD) : IdxRun :=
  iterN ((x.n + 63) / 64) (fun w r =>
    if r.code != 0 then r
    else
      let n := Nat.min 64 (x.n - 64 * w)
      let (l, c, a, s) := r.st.readInts g.ctx x.idx (64 * w) n
      let r := { r with st := s, code := c, pva := a }
      ((List.range n).zip l).foldl (fun r p => r.one g x (64 * w + p.1) p.2) r) r

/-- The better of two elements of a max or min, as exact values with their bits: NaN from NaN, +0 above -0, an equal
value keeps the earlier one (R243). -/
def idxPick (big : Bool) (f : FFmt) (a b : Nat) : Nat :=
  let x := decodeF f a
  let y := decodeF f b
  if x.isNan || y.isNan then nanOf f
  else match x.cmp y with
    | .gt => if big then a else b
    | .lt => if big then b else a
    | .eq => if x.neg? == y.neg? then a else if x.neg? == big then b else a

/-- One segment of a segmented reduce (R241, R243). -/
def IdxRun.segment (r : IdxRun) (g : GCtx) (x : IdxD) (key : SrKey) (seg a b : Nat) : IdxRun :=
  if r.code != 0 then r
  else
    let ks := (List.range (b - a)).map (· + a)
    let (mem, r) : List Int × IdxRun :=
      if x.indirect && ks != [] then
        let (l, c, p, s) := r.st.readInts g.ctx x.idx2 a (b - a)
        (l, { r with st := s, code := c, pva := p })
      else (ks.map Int.ofNat, r)
    let got := (ks.zip mem).foldl (fun (y : List (List Byte) × IdxRun) p =>
      if y.2.code != 0 then y
      else
        let (pad, r) := if x.indirect then y.2.pad x p.1 p.2 else (false, y.2)
        if pad then (y.1, r)
        else
          let (bs, r) := r.row g x p.1 p.2.toNat
          (y.1 ++ [bs], r)) ([], r)
    let r := got.2
    if r.code != 0 then r
    else
      let w := elemBits x.sfmt / 8
      let col := fun c => got.1.map (fun bs => leAt bs (c * w) w)
      let out := (List.range x.elems).map (fun c =>
        if got.1 = [] then ((0 : Nat), 0)
        else if x.segOp = 0 then
          let acc := (col c).foldl (fun (z : Slot × Nat) b =>
            let (sl, f) := (NmSrc.mk x.sfmt b).into x.anchor z.1
            (sl, flOr z.2 f)) (Slot.empty, 0)
          let (v, f) := acc.1.read x.anchor
          let (o, f2) := x.conv.one key (seg * x.elems + c) v
          (o, flOr acc.2 (flOr f f2))
        else match plainFmt? x.sfmt with
          | none => (0, 0)
          | some f => match col c with
            | [] => (0, 0)
            | h :: t => (t.foldl (fun z b => idxPick (x.segOp == 1) f z b) (if (decodeF f h).isNan then nanOf f else h), 0))
      let dw := elemBits x.dfmt / 8
      let r := r.put g x seg (out.flatMap (fun o => leBytes dw o.1))
      if r.code != 0 then r else { r with done := r.done + 1, flags := out.foldl (fun f o => flOr f o.2) r.flags }

/-- How a set operation ended. -/
inductive SetEnd where
  | whole | fell | cutA | cutB
  deriving DecidableEq, Repr

/-- What a set operation gives: its values in ascending order, how it ended, the position of an element found below its predecessor, and
the entries of list A it consumed. -/
structure SetOut where
  out : List Int
  why : SetEnd
  pos : Nat
  used : Nat
  deriving DecidableEq, Repr

/-- A set operation over two signed lists (R245, R247), of which na and nb entries could be read and which end there or go on (ta, tb). The
first of the further arguments bounds the steps. -/
def setMerge (op na nb : Nat) (ta tb : Bool) : Nat → Option Int → Option Int → List Int → List Int → List Int → SetOut
  | 0, _, _, la, _, out => ⟨out, .whole, 0, na - la.length⟩
  | k + 1, pa, pb, la, lb, out =>
    let falls := fun (p : Option Int) (l : List Int) => match p, l with
      | some y, h :: _ => decide (h < y)
      | _, _ => false
    let used := na - la.length
    if falls pa la then ⟨out, .fell, used, used⟩
    else if falls pb lb then ⟨out, .fell, nb - lb.length, used⟩
    else if la = [] ∧ ta then ⟨out, .cutA, 0, used⟩
    else if lb = [] ∧ tb then ⟨out, .cutB, 0, used⟩
    else
      let v? := match la, lb with
        | a :: _, b :: _ => some (if a < b then a else b)
        | a :: _, [] => some a
        | [], b :: _ => some b
        | [], [] => none
      match v? with
      | none => ⟨out, .whole, 0, used⟩
      | some v =>
        let inA := la.head? == some v
        let inB := lb.head? == some v
        let keep := if op = 3 then inA && inB else if op = 5 then inA && !inB else true
        setMerge op na nb ta tb k (if inA then some v else pa) (if inB then some v else pb) (la.dropWhile (· == v)) (lb.dropWhile (· == v))
          (if keep then out ++ [v] else out)

/-- A set operation (R245 to R247): the output formed before a list falls, or before a line of it fails, stands (R249). -/
def IdxRun.setOp (r : IdxRun) (g : GCtx) (x : IdxD) : IdxRun :=
  let (la, ca, pa, s) := r.st.readSome { g.ctx with hint := x.shint } x.idx x.n
  let (lb, cb, pb, s) := if x.op = 6 then ([], 0, 0, s) else s.readSome { g.ctx with hint := x.shint } x.idx2 x.n2
  let m := setMerge x.op la.length lb.length (ca != 0) (cb != 0) (la.length + lb.length + 1) none none la lb []
  let w := m.out.take x.rows
  let cx := { g.ctx with hint := x.dhint }
  let (bad, s) := s.writeAll cx ([(x.dst, w.flatMap (fun v => leBytes 4 (toField 32 v)))] ++ (match m.why with
    | .whole => [(x.cnt, leBytes 4 m.out.length)]
    | .fell => [(x.cnt, leBytes 4 w.length)]
    | _ => []))
  let (code, pva) : Nat × Nat := match bad, m.why with
    | some a, _ => (0x67, a)
    | none, .cutA => (ca, pa)
    | none, .cutB => (cb, pb)
    | none, .fell => (0x65, 0)
    | none, .whole => (if x.rows < m.out.length then 0x66 else 0, 0)
  { r with st := s, code := code, pva := pva, oor := if m.why == .fell then some m.pos else r.oor, done := m.used }

/-- An index grain run to its end: its reads and writes, IDX_OOR, its event and its code (R236, R249). -/
def State.idxRun (s : State) (g : GCtx) (d : Nat) (off : List Nat) : UnitOut :=
  let x := s.idxOf g.part d
  let r0 : IdxRun := ⟨s, 0, 0, none, 0, 0, 0, 0, []⟩
  let r := if x.sets then r0.setOp g x
    else if x.op = 2 then
      let key := s.srKey g.part x.tensor g.stepNo
      iterN x.n (fun i r => r.segment g x key i (nthD off i 0) (nthD off (i + 1) 0)) r0
    else r0.windows g x
  let s := r.st.inc F.pIdxOor r.nOor g.part
  let s := if r.code != 0 then s.idxFault g r.code (if r.code = 0x67 || r.code = 0x68 then r.pva else 0) (r.oor.getD 0) r.nOor r.done
    else if r.nOor != 0 then s.idxFault g 0x63 0 (r.oor.getD 0) r.nOor r.done else s
  ⟨if r.code != 0 then r.code else if r.nOor != 0 then 0x63 else 0, r.flags, false, s⟩

end Sys2Proof.Machine
end

