-- ==== Sys2Proof/Machine/Shards.lean ====
section
/-! DEFINITION. Shards of optimizer state, their versions and their digest trees (06_vector_and_isafen.md, R216 to R228),
and the shapes that the streams of Isafen share with them. -/
namespace Sys2Proof.Machine

/-- Positions of element e under a shape: ELEM, ROW, COL, ONE (R205). -/
def shapePos (shape base rl e : Nat) : Nat :=
  match shape with
  | 0 => e - base
  | 1 => e / rl - base / rl
  | 2 => e % rl
  | _ => 0

/-- The least and greatest positions of elements [e0, e1] under a shape. -/
def shapeSpan (shape base rl e0 e1 : Nat) : Nat × Nat :=
  if shape = 2 && e0 / rl != e1 / rl then (0, rl - 1) else (shapePos shape base rl e0, shapePos shape base rl e1)

/-- x rounded up to whole 4 KiB pages. -/
def pad4k (x : Nat) : Nat := roundUp x 4096

/-- Bytes of one element of an array of a shard, binary32 or BF16. -/
def stateBytes (fmt : Nat) : Nat := if fmt = 2 then 2 else 4

/-- One array of a shard set: its format, shape, element count and byte offset in the set. Array 0 is the master. -/
structure ShArray where
  fmt : Nat
  shape : Nat
  count : Nat
  ofs : Nat
  deriving DecidableEq, Repr

/-- Elements of an array at a shape (Table 6-8). -/
def Shard.count (x : Shard) (shape : Nat) : Nat :=
  match shape with
  | 0 => x.nelem
  | 1 => (x.efirst + x.nelem - 1) / x.rowLen - x.efirst / x.rowLen + 1
  | 2 => x.rowLen
  | _ => 1

/-- Format and shape of state slot j. -/
def Shard.slotFmt (x : Shard) (j : Nat) : Nat := fldN x.slots (7 * j) 5
def Shard.slotShape (x : Shard) (j : Nat) : Nat := fldN x.slots (7 * j + 5) 2

/-- The arrays of a set, in order, and IMG_LEN. -/
def Shard.arrays (x : Shard) : List ShArray × Nat :=
  ((x.mfmt, 0) :: (List.range x.nstate).map (fun j => (x.slotFmt j, x.slotShape j))).foldl
    (fun (a : List ShArray × Nat) fs =>
      let n := x.count fs.2
      (a.1 ++ [⟨fs.1, fs.2, n, a.2⟩], a.2 + pad4k (n * stateBytes fs.1))) ([], 0)

def Shard.imgLen (x : Shard) : Nat := x.arrays.2

/-- 1 MiB, the span of a leaf. -/
def leafBytes : Nat := 2 ^ 20

/-- Leaves of a version's tree. -/
def Shard.leaves (x : Shard) : Nat := ceilDiv x.imgLen leafBytes

/-- The node counts of a tree's levels, from n leaves up; the first argument bounds the depth. -/
def treeLevels : Nat → Nat → List Nat
  | 0, n => [n]
  | k + 1, n => if n ≤ 1 then [n] else n :: treeLevels k ((n + 1) / 2)

/-- SET_LEN (Table 6-8). -/
def Shard.setLen (x : Shard) : Nat := x.imgLen + pad4k (64 * (sumOf (treeLevels 64 x.leaves) + 1))

/-- The current set and the other one. -/
def Shard.curSet (x : Shard) : Nat := if x.cur = 0 then x.setA else x.setB
def Shard.otherSet (x : Shard) : Nat := if x.cur = 0 then x.setB else x.setA

/-- Elements the recorded ranges of the pending version cover. -/
def Shard.covered (x : Shard) : Nat := sumOf (x.ranges.map (fun r => r.2.2))

/-- A shard of partition p. -/
def State.shard? (s : State) (p i : Nat) : Option Shard := tget? (s.part p).shards i

/-- A shard of partition p replaced. -/
def State.putShard (s : State) (p i : Nat) (x : Shard) : State := s.modPart p (fun q => { q with shards := tput q.shards i x })

/-- The shard's 128-byte entry as it stands (Table 6-8). -/
def Shard.image (x : Shard) : List Byte :=
  leBytes 4 (0x10 + 2 ^ 8 + x.cur * 2 ^ 9 + b2n x.pend * 2 ^ 10 + b2n x.broken * 2 ^ 11 + x.nstate * 2 ^ 12 + x.mfmt * 2 ^ 15) ++
    leBytes 4 x.tensor ++ leBytes 8 x.efirst ++ leBytes 8 x.nelem ++ leBytes 4 x.rowLen ++ leBytes 4 x.slots ++
    leBytes 8 x.setA ++ leBytes 8 x.setB ++ leBytes 8 x.commits ++ leBytes 8 0 ++ leBytes 64 x.root

/-- The shard an entry image describes, its pending marks clear (R216). -/
def shardOf (b : List Byte) : Shard :=
  let w := leAt b 0 4
  { cur := fldN w 9 1, pend := false, broken := false, nstate := fldN w 12 3, mfmt := fldN w 15 5, tensor := leAt b 4 4,
    efirst := leAt b 8 8, nelem := leAt b 16 8, rowLen := leAt b 24 4, slots := fldN (leAt b 28 4) 0 28, setA := leAt b 32 8,
    setB := leAt b 40 8, commits := leAt b 48 8, root := leAt b 64 64, run := 0, stepNo := 0, ranges := [],
    lastDone := false, rootNew := none, stepCur := 0, stepOther := none, releasing := none }

/-- Whether two spans share a byte. -/
def spansMeet (a n b m : Nat) : Bool := decide (a < b + m) && decide (b < a + n) && n != 0 && m != 0

/-- The conditions of R216 on an entry image for partition p. -/
def State.shardOk (s : State) (p : Nat) (b : List Byte) : Bool :=
  let x := shardOf b
  let rt := (s.part p).rt
  let fmtOk := fun f => f == 0 || f == 2
  leAt b 0 1 == 0x10 && decide (x.nstate ≤ 4) && fmtOk x.mfmt && decide (1 ≤ x.nelem) && decide (x.nelem ≤ 2 ^ 40) &&
    decide (1 ≤ x.rowLen) && (List.range x.nstate).all (fun j => fmtOk (x.slotFmt j)) && x.setA % 4096 == 0 && x.setB % 4096 == 0 &&
    s.mapped p rt x.setA x.setLen true && s.mapped p rt x.setB x.setLen true && !spansMeet x.setA x.setLen x.setB x.setLen &&
    (s.part p).shards.all (fun e => [e.2.setA, e.2.setB].all (fun y =>
      !spansMeet y e.2.setLen x.setA x.setLen && !spansMeet y e.2.setLen x.setB x.setLen))

/-- SHARDS of partition p as its table stands. -/
def State.countShards (s : State) (p : Nat) : State := s.wr F.pShards (s.part p).shards.length p

/-- A pending version marked BROKEN, with its digest event (R215, R223, R224, R228): causes 1 coverage, 2 late write,
3 memory, 4 grain fault. -/
def State.breakShard (s : State) (p i cause : Nat) : State :=
  match s.shard? p i with
  | none => s
  | some x =>
    if x.broken then s
    else
      let s := s.putShard p i { x with broken := true, rootNew := none }
      (s.event 0x0E p [p, i, x.stepNo, x.commits + 1, cause, x.covered]).inc F.pDigFails 1 p

/-- SHA3-512 of a leaf, a node and the root (R225). -/
def leafDigest (i : Nat) (bs : List Byte) : Nat := sha3Nat (0x00 :: leBytes 8 i ++ bs)
def nodeDigest (l r : Nat) : Nat := sha3Nat (0x01 :: leBytes 64 l ++ leBytes 64 r)
def Shard.rootDigest (x : Shard) (top : Nat) : Nat :=
  sha3Nat (0x02 :: leBytes 4 x.tensor ++ leBytes 8 x.efirst ++ leBytes 8 x.nelem ++ leBytes 8 (x.commits + 1) ++ leBytes 64 top)

/-- The next level of a tree: nodes in pairs, an odd last one passed up (R225). -/
def treeUp : List Nat → List Nat
  | a :: b :: r => nodeDigest a b :: treeUp r
  | l => l

/-- Every level of a tree from its leaves up; the first argument bounds the depth. -/
def treeAll : Nat → List Nat → List (List Nat)
  | 0, l => [l]
  | k + 1, l => if l.length ≤ 1 then [l] else l :: treeAll k (treeUp l)

/-- The leaves of a set read and hashed by the SHA3 engines; a poisoned or failing line answers none. -/
def State.hashLeaves (s : State) (p : Nat) (x : Shard) (set : Nat) : Option (List Nat) × State :=
  let c := s.engCtx p engSha3
  iterN x.leaves (fun i (a : Option (List Nat) × State) =>
    match a.1 with
    | none => a
    | some l =>
      let n := Nat.min leafBytes (x.imgLen - i * leafBytes)
      let (r, s) := a.2.readPva { c with early := true } (set + i * leafBytes) n
      if r.fault || r.poison then (none, s) else (some (l ++ [leafDigest i r.bytes]), s.inc F.pDigLeaves 1 p)) (some [], s)

/-- The digest tree of the pending version formed and written at set offset IMG_LEN (R225 to R228). -/
def State.formRoot (s : State) (p i : Nat) (x : Shard) : State :=
  let set := x.otherSet
  match s.hashLeaves p x set with
  | (none, s) => s.breakShard p i 3
  | (some l, s) =>
    let levels := treeAll 64 l
    let top := nthD ((levels.getLast?).getD []) 0 0
    let root := x.rootDigest top
    let bs := (levels.flatten ++ [root]).flatMap (leBytes 64)
    let (_, s) := s.writePva { s.engCtx p engSha3 with early := true } (set + x.imgLen) bs false
    s.putShard p i { x with rootNew := some root }

/-- What an update grain records at its start (R217, R220): its range, in place of its original's for a replay, and
PEND. The answer is false where code 0x0045 applies. -/
def State.beginUpdate (s : State) (p i key run stepNo first n : Nat) (replay : Bool) : Bool × State :=
  match s.shard? p i with
  | none => (false, s)
  | some x =>
    let old := if x.pend then x.ranges else []
    let old := if replay then old.filter (fun r => r.1 != key) else old
    if old.any (fun r => spansMeet r.2.1 r.2.2 first n) || 4096 ≤ old.length then (false, s)
    else
      let x := if x.pend then x else { x with run := run, stepNo := stepNo, lastDone := false, rootNew := none }
      (true, s.putShard p i { x with pend := true, ranges := old ++ [(key, first, n)] })

/-- What the completion of an update grain does to its shard (R215, R223, R224): the answer says whether it takes code
0x004A, which any grain takes, SH_LAST set or not, that completes once the tree has started and is no replay. -/
def State.endUpdate (s : State) (p i : Nat) (last faulted replay : Bool) : Bool × State :=
  match s.shard? p i with
  | none => (false, s)
  | some x =>
    if faulted then (false, s.breakShard p i 4)
    else if x.lastDone && !replay then (true, s.breakShard p i 2)
    else if x.lastDone && replay then (false, s.putShard p i { x with rootNew := none })
    else if last then
      if x.covered = x.nelem then (false, s.putShard p i { x with lastDone := true }) else (false, s.breakShard p i 1)
    else (false, s)

/-- At a step's end, every version of its run committed (R219): CUR inverted, COMMITS raised, ROOT copied, PEND clear. -/
def State.commitShards (s : State) (p run : Nat) : State :=
  s.modPart p (fun q => { q with shards := tmap q.shards (fun _ x =>
    match x.rootNew with
    | some r =>
      if x.pend && x.run == run && !x.broken then
        { x with
          cur := 1 - x.cur, commits := x.commits + 1, root := r, pend := false, ranges := [], lastDone := false, rootNew := none,
          stepCur := x.stepNo, stepOther := some x.stepCur }
      else x
    | none => x) })

/-- At a step's end without commit, every pending version of its run discarded (R219). -/
def State.discardShards (s : State) (p run : Nat) : State :=
  s.modPart p (fun q => { q with shards := tmap q.shards (fun _ x =>
    if x.pend && x.run == run then
      { x with pend := false, broken := false, ranges := [], lastDone := false, rootNew := none }
    else x) })

end Sys2Proof.Machine
end

