-- ==== Sys2Proof/Machine/Isafen.lean ====
section
/-! DEFINITION. The vector engine and Isafen (06_vector_and_isafen.md, R197 to R215): the program check, the interpreter,
its streams and accumulator sets, map grains and update grains. -/
namespace Sys2Proof.Machine

/-! ## Words and the program check (R201, R204) -/

/-- An instruction word's fields (Table 6-2). -/
structure IsaWord where
  opc : Nat
  d : Nat
  a : Nat
  b : Nat
  c : Nat
  imm : Nat
  deriving DecidableEq, Repr

/-- The fields of a word. -/
def isaWord (w : Nat) : IsaWord := ⟨fldN w 0 8, fldN w 8 4, fldN w 12 4, fldN w 16 4, fldN w 20 4, fldN w 32 32⟩

/-- Whether Table 6-3 allows an opcode in the prologue, and in the body. -/
def inPrologue (o : Nat) : Bool := o == 0 || (0x20 ≤ o && o ≤ 0x2C) || o == 0x32 || o == 0x3D || o == 0x3F
def inBody (o : Nat) : Bool :=
  o ≤ 0x13 || (0x18 ≤ o && o ≤ 0x1C) || (0x20 ≤ o && o ≤ 0x2C) || o == 0x30 || o == 0x31 || o == 0x33 || o == 0x34 || o == 0x3F

/-- One word's own checks of Table 6-4: opcode and section, streams, sets with their EN bits. -/
def isaWordOk (body : Bool) (en : Nat → Bool) (w : IsaWord) : Bool :=
  (if body then inBody w.opc else inPrologue w.opc) &&
    (w.opc != 0x30 || w.a ≤ 6) && (w.opc != 0x31 || w.d ≤ 5) &&
    (w.opc != 0x33 || (w.a ≤ 3 && en w.a)) && (w.opc != 0x34 || (w.d ≤ 3 && en w.d))

/-- The prologue and the body of a program that passes Table 6-4. -/
def isaSplit? (en : Nat → Bool) (words : List IsaWord) : Option (List IsaWord × List IsaWord) :=
  let pro := words.takeWhile (fun w => w.opc != 0x3F)
  let rest := (words.dropWhile (fun w => w.opc != 0x3F)).drop 1
  let body := rest.takeWhile (fun w => w.opc != 0x3F)
  if pro.length + body.length + 2 = words.length && rest.length = body.length + 1 && body != [] &&
      pro.all (isaWordOk false en) && body.all (isaWordOk true en) then some (pro, body)
  else none

/-! ## binary32 operations of Table 6-3 (R202) -/

/-- The order of VMAX and its kin: NaN from NaN, +0 above -0. -/
def f32Pick (big : Bool) (a b : Nat) : Nat :=
  let x := ofF32 a
  let y := ofF32 b
  if x.isNan || y.isNan then f32Nan
  else match x.cmp y with
    | .gt => if big then a else b
    | .lt => if big then b else a
    | .eq => if bitN a 31 == big then b else a

/-- 1.0 when a comparison holds, +0 otherwise and for a NaN. -/
def f32Test (eq : Bool) (a b : Nat) : Nat :=
  let x := ofF32 a
  let y := ofF32 b
  if !x.isNan && !y.isNan && (x.cmp y == if eq then .eq else .lt) then 0x3F800000 else 0

/-- A value's sign as +1 or -1; a zero or NaN passes. -/
def f32Sign (a : Nat) : Nat :=
  let x := ofF32 a
  if x.isNan then f32Nan else if x.isZero then a else 0x3F800000 + 2 ^ 31 * b2n x.neg?

/-- A value with its sign cleared or inverted; a NaN is the canonical one (R92). -/
def f32Abs (a : Nat) : Nat := if (ofF32 a).isNan then f32Nan else a % 2 ^ 31
def f32Neg (a : Nat) : Nat := if (ofF32 a).isNan then f32Nan else Nat.xor a (2 ^ 31)

/-- A choice by the third operand: neither +0 nor -0. -/
def f32Sel (a b c : Nat) : Nat := if c % 2 ^ 31 != 0 then a else b

/-- A lane operation of opcodes 0x01 to 0x13, a NaN in any form it takes. -/
def laneRaw (o a b c : Nat) : Nat × Nat :=
  match o with
  | 0x01 => f32Add a b
  | 0x02 => f32Sub a b
  | 0x03 => f32Mul a b
  | 0x04 => f32Fma a b c
  | 0x05 => f32Fma (Nat.xor a (2 ^ 31)) b c
  | 0x06 => f32Div a b
  | 0x07 => f32Sqrt a
  | 0x08 => elemF32 .rsqrt a
  | 0x09 => (f32Pick true a b, 0)
  | 0x0A => (f32Pick false a b, 0)
  | 0x0B => (f32Abs a, 0)
  | 0x0C => (f32Neg a, 0)
  | 0x0D => (f32Sign a, 0)
  | 0x0E => elemF32 .exp a
  | 0x0F => elemF32 .ln a
  | 0x10 => (f32Test false a b, 0)
  | 0x11 => (f32Test true a b, 0)
  | 0x12 => (f32Sel a b c, 0)
  | _ => (a, 0)

/-- A lane operation: the NaN it writes is the canonical one (R92). -/
def laneOp (o a b c : Nat) : Nat × Nat := (canonF32 (laneRaw o a b c).1, (laneRaw o a b c).2)

/-- A scalar operation of opcodes 0x20 to 0x2C, a NaN in any form it takes. -/
def scalarRaw (o a b c imm : Nat) : Nat × Nat :=
  match o with
  | 0x20 => f32Add a b
  | 0x21 => f32Sub a b
  | 0x22 => f32Mul a b
  | 0x23 => f32Fma a b c
  | 0x24 => f32Div a b
  | 0x25 => f32Sqrt a
  | 0x26 => elemF32 .exp2 a
  | 0x27 => elemF32 .log2 a
  | 0x28 => (f32Pick true a b, 0)
  | 0x29 => (f32Pick false a b, 0)
  | 0x2A => (imm, 0)
  | 0x2B => (f32Test false a b, 0)
  | _ => (f32Sel a b c, 0)

/-- A scalar operation: the NaN it writes is the canonical one (R92). -/
def scalarOp (o a b c imm : Nat) : Nat × Nat := (canonF32 (scalarRaw o a b c imm).1, (scalarRaw o a b c imm).2)

/-! ## The descriptor (R211, R212) -/

/-- A stream in use: its format, shape, place of position 0, and the base and row length of its shape. -/
structure VStream where
  en : Bool
  fmt : Nat
  shape : Nat
  pva : Nat
  base : Nat
  rl : Nat
  deriving DecidableEq, Repr

/-- A stream not in use. -/
def VStream.off : VStream := ⟨false, 0, 0, 0, 0, 1⟩

/-- An accumulator set: its rows, shape, START, anchor control, base and row length. -/
structure AccSet where
  en : Bool
  row : Nat
  shape : Nat
  start : Bool
  anch : Nat
  deriving DecidableEq, Repr

/-- Stream entry i of a descriptor (Table 6-6): inputs 0 to 6, outputs 7 to 12. -/
def vEntry (d i base rl : Nat) : VStream :=
  let e := fldN d (512 + 128 * i) 128
  ⟨bitN e 71, fldN e 64 5, fldN e 69 2, fldN e 0 64, base, rl⟩

/-- The conversion byte of output W's entry. -/
def vConvW (d : Nat) : Nat := fldN d (512 + 128 * 8 + 72) 8

/-- Accumulator set j of a descriptor. -/
def vAcc (d j : Nat) : AccSet :=
  let a := fldN d (2176 + 16 * j) 16
  ⟨bitN a 13, fldN a 0 11, fldN a 11 2, bitN a 14, fldN d (2240 + 16 * j) 16⟩

/-- What an Isafen grain works with once it has passed start. -/
structure VD where
  update : Bool
  last : Bool
  shard : Nat
  tensor : Nat
  rl : Nat
  e0 : Nat
  n : Nat
  progPva : Nat
  progLen : Nat
  paramPva : Nat
  wspva : Nat
  sheafPva : Nat
  deriving DecidableEq, Repr

/-- The header fields of a descriptor, clamped (R214). -/
def vOf (update : Bool) (d : Nat) : VD :=
  { update := update, last := bitN d 8, shard := fldN d 24 12, tensor := fldN d 64 32, rl := Nat.max 1 (fldN d 96 32),
    e0 := fldN d 128 64, n := Nat.max 1 (fldN d 192 32), progPva := fldN d 256 64,
    progLen := if fldN d 16 8 = 0 then 256 else fldN d 16 8, paramPva := fldN d 320 64, wspva := fldN d 384 64,
    sheafPva := fldN d 448 64 }

/-- The row length and the base of the accumulator shapes: the shard's for an update grain. -/
def VD.rowLen (x : VD) (sh : Option Shard) : Nat := (sh.map (fun y => Nat.max 1 y.rowLen)).getD x.rl
def VD.accBase (x : VD) (sh : Option Shard) : Nat := (sh.map (fun y => y.efirst)).getD x.e0

/-- The input streams (R206, R217): an update grain's M and states come from the shard's current set. -/
def VD.inputs (x : VD) (d : Nat) (sh : Option Shard) : List VStream :=
  match sh with
  | none => (List.range 7).map (fun i => vEntry d i x.e0 x.rl)
  | some y =>
    let ar := y.arrays.1
    (List.range 7).map (fun i =>
      if i = 1 || i = 2 then vEntry d i x.e0 (x.rowLen sh)
      else
        let k := if i = 0 then 0 else i - 2
        match ar[k]? with
        | some a => ⟨true, a.fmt, a.shape, y.curSet + a.ofs, y.efirst, x.rowLen sh⟩
        | none => .off)

/-- The output streams, in output order: an update grain's M' and states go to the other set. -/
def VD.outputs (x : VD) (d : Nat) (sh : Option Shard) : List VStream :=
  match sh with
  | none => (List.range 6).map (fun i => vEntry d (7 + i) x.e0 x.rl)
  | some y =>
    let ar := y.arrays.1
    (List.range 6).map (fun i =>
      if i = 1 then vEntry d 8 x.e0 (x.rowLen sh)
      else
        let k := if i = 0 then 0 else i - 1
        match ar[k]? with
        | some a => ⟨true, a.fmt, a.shape, y.otherSet + a.ofs, y.efirst, x.rowLen sh⟩
        | none => .off)

/-- Bytes of one element of a stream; an MX format counts its elements in bits. -/
def VStream.size (v : VStream) : Nat := elemBits v.fmt / 8

/-- The byte spans of elements [e0, e1] of a stream; an MX stream has its blocks from their first byte and its scales. -/
def VStream.spans (v : VStream) (wspva e0 e1 : Nat) : List (Nat × Nat) :=
  if !v.en then []
  else
    let (lo, hi) := shapeSpan v.shape v.base v.rl e0 e1
    if isMx v.fmt then
      [(v.pva + lo / 32 * mxBlockBytes v.fmt, ((hi + 1 - lo / 32 * 32) * elemBits v.fmt + 7) / 8), (wspva + lo / 32, hi / 32 + 1 - lo / 32)]
    else [(v.pva + lo * v.size, (hi + 1 - lo) * v.size)]

/-- Whether an enabled entry of the descriptor fits its role (R212). -/
def vEntryOk (d : Nat) (e0 i : Nat) : Bool :=
  let v := vEntry d i e0 1
  if !v.en then true
  else if i < 7 then v.fmt ≤ 4 || v.fmt == 12
  else if i = 8 then 1 ≤ v.fmt && v.fmt ≤ 9 && v.shape == 0 && (!isMx v.fmt || e0 % 32 == 0)
  else v.fmt == 0 || v.fmt == 2

/-- The entries a grain uses. -/
def VD.used (x : VD) : List Nat := if x.update then [1, 2, 8] else List.range 13

/-- The tile rows an enabled set covers over the grain's elements: first and last as the grain names them. -/
def VD.accRows (x : VD) (a : AccSet) (sh : Option Shard) : Nat × Nat :=
  let (lo, hi) := shapeSpan a.shape (x.accBase sh) (x.rowLen sh) x.e0 (x.e0 + x.n - 1)
  (a.row + lo / 64, a.row + hi / 64)

/-! ## Start (R198, R213, Table 6-7) -/

/-- The Isafen grain event and count (Tables 6-12, 6-13). -/
def State.vecFault (s : State) (g : GCtx) (x : VD) (code pva vecs : Nat) : State :=
  (s.event 0x0D g.part [g.part, g.core, g.gid, if x.update then 2 else 1, code, if x.update then x.shard else 0, pva, vecs]).inc
    F.pVecFaults 1 g.part

/-- Whether the grain's AUTO anchors are honoured: every set it accumulates into that has AUTO is on a grain that starts
every set it writes and is not STRICT (R117). -/
def vAutos (strict : Bool) (d : Nat) (body : List IsaWord) : List Nat × Bool :=
  let accs := ((body.filter (fun w => w.opc == 0x34)).map (fun w => w.d)).eraseDups
  let autos := accs.filter (fun j => acAuto (vAcc d j).anch)
  (autos, autos != [] && !strict && accs.all (fun j => (vAcc d j).start))

/-- A check that a grain's start makes: the code of the first that fails, its PVA, and the first row not owned. -/
structure VCheck where
  code : Nat
  pva : Nat
  row : Option Nat
  deriving DecidableEq, Repr

/-- The checks of Table 6-7 that read no memory, after the program is at hand. -/
def State.vCheck (s : State) (g : GCtx) (x : VD) (d : Nat) (words : List IsaWord) : VCheck :=
  let sh := if x.update then s.shard? g.part x.shard else none
  let e1 := x.e0 + x.n - 1
  let sets := (List.range 4).map (vAcc d)
  let rows := (sets.filter (fun a => a.en)).map (fun a => x.accRows a sh)
  let ins := (x.inputs d sh).flatMap (fun v => v.spans x.wspva x.e0 e1)
  let outs := (x.outputs d sh).flatMap (fun v => v.spans x.wspva x.e0 e1)
  let own := (sh.map (fun y => y.otherSet)).getD 0
  let shSets := (s.part g.part).shards.flatMap (fun e =>
    [e.2.setA, e.2.setB].filterMap (fun b => if x.update && e.1 = x.shard && b = own then none else some (b, e.2.setLen)))
  if fldN d 0 8 != 0x10 then ⟨0x41, 0, none⟩
  else if (isaSplit? (fun j => (vAcc d j).en) words).isNone then ⟨0x42, 0, none⟩
  else if !(x.used.all (vEntryOk d x.e0)) then ⟨0x43, 0, none⟩
  else if x.update && (sh.isNone || (sh.map (fun y => y.broken)).getD false) then ⟨0x44, 0, none⟩
  else if (sh.map (fun y => x.e0 < y.efirst || y.efirst + y.nelem < x.e0 + x.n)).getD false then ⟨0x45, 0, none⟩
  else match rows.find? (fun r => 2047 < r.2 || !s.rowsOk g r.1 (r.2 + 1 - r.1)) with
    | some r => ⟨0x46, 0, some r.1⟩
    | none =>
      if outs.any (fun o => (ins ++ shSets).any (fun i => spansMeet o.1 o.2 i.1 i.2)) then ⟨0x47, 0, none⟩ else ⟨0, 0, none⟩

/-- What an Isafen grain has read by the end of its start: program words, the parameter block and, for an update grain,
the sheaf record's NPRES, S2 and NEXP. -/
structure VPre where
  words : List Nat
  param : List Nat
  rcd : List Nat
  deriving DecidableEq, Repr

/-- The read of a start: bytes, or the code and PVA of the failure. -/
def State.vRead (s : State) (g : GCtx) (pva n : Nat) : List Byte × Nat × Nat × State :=
  let (r, s) := s.readPva g.ctx pva n
  (r.bytes, r.code 0x48 0x49, r.pva, s)

/-- The clamps of an Isafen grain (R214, R117, R101). -/
def State.vClamps (s : State) (g : GCtx) (update : Bool) (d : Nat) : Bool × State :=
  let c1 := fldN d 192 32 == 0
  let c2 := !update && fldN d 96 32 == 0
  let s := if c1 then s.clampGrain g.part g.core g.gid 1 0x1201 0 1 else s
  (c1 || c2, if c2 then s.clampGrain g.part g.core g.gid 1 0x1202 0 1 else s)

/-- The number of words the start hands to the body: PROG_LEN words, then 64 parameters, then 3 counts. -/
def VPre.list (x : VPre) : List Nat := x.words ++ x.param ++ x.rcd

/-- An Isafen grain at its start. The answer is the unit code, whether a field was clamped, what the start read, and the
state; an update grain that passes has its range recorded and PEND set. -/
def State.vecStart (s : State) (g : GCtx) (update : Bool) (d key : Nat) (replay : Bool) : Nat × Bool × List Nat × State :=
  let x := vOf update d
  let (cl, s) := s.vClamps g update d
  let fail := fun (s : State) (c : VCheck) =>
    let s := match c.row with
      | some r => s.tarnEvent g (if update then 2 else 1) (s.rowAt g r) 1 0
      | none => s
    (c.code, cl, ([] : List Nat), s.vecFault g x c.code c.pva 0)
  if fldN d 0 8 != 0x10 then fail s ⟨0x41, 0, none⟩
  else
    let (bs, c, a, s) := s.vRead g x.progPva (8 * x.progLen)
    if c != 0 then fail s ⟨c, a, none⟩
    else
      let ws := (List.range x.progLen).map (fun i => leAt bs (8 * i) 8)
      let ck := s.vCheck g x d (ws.map isaWord)
      if ck.code != 0 then fail s ck
      else
        let (pb, c, a, s) := s.vRead g x.paramPva 256
        if c != 0 then fail s ⟨c, a, none⟩
        else
          let (rb, c, a, s) := if update then s.vRead g x.sheafPva 256 else ([], 0, 0, s)
          if c != 0 then fail s ⟨c, a, none⟩
          else
            let (ok, s) := if update then s.beginUpdate g.part x.shard key g.run g.stepNo x.e0 x.n replay else (true, s)
            if !ok then fail s ⟨0x45, 0, none⟩
            else
              let body := ((isaSplit? (fun j => (vAcc d j).en) (ws.map isaWord)).map (fun p => p.2)).getD []
              let wbad := (vEntry d 8 0 1).en && convRmBad (vConvW d)
              let (autos, hon) := vAutos g.strict d body
              let abad := autos != [] && !hon
              let s := if wbad then s.clampGrain g.part g.core g.gid 3 0x12F1 3 0 else s
              let s := if abad then s.clampGrain g.part g.core g.gid 8 0x12F2 1 0 else s
              let pre : VPre := ⟨ws, (List.range 64).map (fun i => leAt pb (4 * i) 4), [leAt rb 18 2, leAt rb 20 4, leAt rb 16 2]⟩
              (0, cl || wbad || abad, pre.list, s)

/-! ## The interpreter -/

/-- The run of a program: the state, its registers, the stores of the present vector by output stream, flags, the tile
rows it has accumulated into, the anchors its rows are given (a rerun raises them), a fault, the vectors completed, and those of every
run of the grain so far (R158). -/
structure VRun where
  st : State
  v : List (List Nat)
  sr : List Nat
  stores : Tab (List Nat)
  flags : Nat
  rows : List Nat
  hits : List Nat
  anchors : Tab Int
  code : Nat
  pva : Nat
  vecs : Nat
  ran : Nat
  halted : Bool

/-- What a run is over: the grain, its header, descriptor, streams, and the seed of W's rounding. -/
structure VEnv where
  g : GCtx
  x : VD
  d : Nat
  rl : Nat
  accBase : Nat
  ins : List VStream
  outs : List VStream
  conv : Conv
  key : SrKey
  pre : List Nat

/-- A list with place i replaced. -/
def setNth {α : Type} (l : List α) (i : Nat) (a : α) : List α := l.take i ++ a :: l.drop (i + 1)

/-- Register reads. -/
def VRun.vec (r : VRun) (i : Nat) : List Nat := nthD r.v i []
def VRun.scal (r : VRun) (i : Nat) : Nat := nthD r.sr i 0

/-- The active lanes of vector q (R199). -/
def VEnv.lanes (e : VEnv) (q : Nat) : Nat := Nat.min 64 (e.x.n - 64 * q)

/-- A vector register written. -/
def VRun.setVec (r : VRun) (i : Nat) (l : List (Nat × Nat)) (act : Nat) : VRun :=
  { r with v := setNth r.v i (l.map (fun p => p.1)), flags := (l.take act).foldl (fun f p => flOr f p.2) r.flags }

/-- A scalar register written. -/
def VRun.setScal (r : VRun) (i : Nat) (p : Nat × Nat) : VRun := { r with sr := setNth r.sr i p.1, flags := flOr r.flags p.2 }

/-- An element of a stream as binary32, with its flags (R206): an anchored one is read at the anchor of set 0. -/
def VEnv.elemIn (e : VEnv) (fmt bits : Nat) : Nat × Nat :=
  if fmt = 12 then
    let (y, f) := (slotOf bits).read (acAnchor (vAcc e.d 0).anch)
    let (b, f2) := toF32 y
    (b, flOr f f2)
  else match plainFmt? fmt with
    | some f => (toF32 (decodeF f bits)).1 |> fun b => (b, 0)
    | none => (0, 0)

/-- LD of stream i for vector q (R206). -/
def VRun.load (r : VRun) (e : VEnv) (q : Nat) (w : IsaWord) : VRun :=
  let v := nthD e.ins w.a .off
  let act := e.lanes q
  if !v.en || act = 0 then r.setVec w.d (List.replicate 64 (0, 0)) 0
  else
    let e0 := e.x.e0 + 64 * q
    let pos := (List.range act).map (fun l => shapePos v.shape v.base v.rl (e0 + l))
    let one := fun (a : Tab Nat × Nat × Nat × State) (p n : Nat) =>
      if a.2.1 != 0 then a
      else
        let (bs, c, pv, s) := a.2.2.2.vRead e.g (v.pva + p * v.size) (n * v.size)
        ((List.range n).foldl (fun t i => tput t (p + i) (leAt bs (i * v.size) v.size)) a.1, c, pv, s)
    let got := if v.shape = 0 then one ([], 0, 0, r.st) (nthD pos 0 0) act else pos.eraseDups.foldl (fun a p => one a p 1) ([], 0, 0, r.st)
    let r := { r with st := got.2.2.2, code := got.2.1, pva := got.2.2.1 }
    if r.code != 0 then r
    else r.setVec w.d (pos.map (fun p => e.elemIn v.fmt (tgetD got.1 p 0)) ++ List.replicate (64 - act) (0, 0)) act

/-- The tile row and slot of a lane in accumulator set j. -/
def VEnv.accPlace (e : VEnv) (s : State) (j el : Nat) : Nat × Nat :=
  let a := vAcc e.d j
  let i := shapePos a.shape e.accBase e.rl el
  (s.rowAt e.g (a.row + i / 64), i % 64)

/-- The anchor a row takes when the grain writes it empty (R116, R210, R118). -/
def VRun.anchorOf (r : VRun) (e : VEnv) (j row : Nat) : Int := tgetD r.anchors row (acAnchor (vAcc e.d j).anch)

/-- LDA of set j for vector q (R209). -/
def VRun.loadAcc (r : VRun) (e : VEnv) (q : Nat) (w : IsaWord) : VRun :=
  let act := e.lanes q
  let one := fun l =>
    let (row, n) := e.accPlace r.st w.a (e.x.e0 + 64 * q + l)
    let (y, f) := (r.st.tarnRow e.g.core row).value n
    let (b, f2) := toF32 y
    (b, flOr f f2)
  r.setVec w.d ((List.range act).map one ++ List.replicate (64 - act) (0, 0)) act

/-- ACC into set j for vector q (R209): each active lane one addend. -/
def VRun.accumulate (r : VRun) (e : VEnv) (q : Nat) (w : IsaWord) : VRun :=
  (List.range (e.lanes q)).foldl (fun r l =>
    let (row, n) := e.accPlace r.st w.d (e.x.e0 + 64 * q + l)
    let (tr, f0) := (r.st.tarnRow e.g.core row).toAnchored (r.anchorOf e w.d row)
    let y := (slotOf (tr.slot n)).addend tr.anchor (ofF32 (nthD (r.vec w.a) l 0))
    { r with
      st := r.st.setRow e.g.core row { (tr.setSlot n y.slot.word) with part := e.g.part }
      flags := flOr r.flags (flOr f0 y.flags)
      rows := insertUp r.rows row
      hits := if y.hit then insertUp r.hits row else r.hits }) r

/-- One instruction of either section for vector q; the prologue never meets the lane forms (Table 6-4). -/
def VRun.exec (r : VRun) (e : VEnv) (q : Nat) (w : IsaWord) : VRun :=
  if r.code != 0 || r.halted then r
  else
    let lanes := fun (f : Nat → Nat × Nat) => r.setVec w.d ((List.range 64).map f) (e.lanes q)
    let a := fun l => nthD (r.vec w.a) l 0
    let b := fun l => nthD (r.vec w.b) l 0
    let c := fun l => nthD (r.vec w.c) l 0
    let o := w.opc
    if o = 0 then r
    else if o ≤ 0x13 then lanes (fun l => laneOp o (a l) (b l) (c l))
    else if o = 0x18 then lanes (fun l => f32Add (a l) (r.scal w.b))
    else if o = 0x19 then lanes (fun l => f32Mul (a l) (r.scal w.b))
    else if o = 0x1A then lanes (fun l => f32Fma (a l) (r.scal w.b) (c l))
    else if o = 0x1B then lanes (fun _ => (canonF32 (r.scal w.a), 0))
    else if o = 0x1C then lanes (fun _ => (canonF32 w.imm, 0))
    else if o ≤ 0x2C then r.setScal w.d (scalarOp o (r.scal w.a) (r.scal w.b) (r.scal w.c) w.imm)
    else if o = 0x30 then r.load e q w
    else if o = 0x31 then { r with stores := tput r.stores w.d (r.vec w.a) }
    else if o = 0x32 then r.setScal w.d (canonF32 (nthD e.pre (e.x.progLen + w.imm % 64) 0), 0)
    else if o = 0x33 then r.loadAcc e q w
    else if o = 0x34 then r.accumulate e q w
    else if o = 0x3D then (if r.scal w.a % 2 ^ 31 != 0 then { r with halted := true } else r)
    else r

/-- The byte of an MX output that vector q's last active lane shares with an inactive one, if there is one (R199). -/
def VEnv.sharedByte (e : VEnv) (q i : Nat) : Option Nat :=
  let v := nthD e.outs i .off
  let bits := e.lanes q % 32 * elemBits v.fmt
  if !v.en || !isMx v.fmt || bits % 8 = 0 then none
  else some (v.pva + (64 * q + e.lanes q) / 32 * mxBlockBytes v.fmt + bits / 8)

/-- The bytes of an MX block whose first n elements are active: the others keep what memory holds, old among them (R199). -/
def mxActive (fmt n old : Nat) (bs : List Byte) : List Byte :=
  let bits := n * elemBits fmt
  let whole := bs.take (bits / 8)
  if bits % 8 = 0 then whole
  else whole ++ leBytes 1 (leAt bs (bits / 8) 1 % 2 ^ (bits % 8) + old / 2 ^ (bits % 8) * 2 ^ (bits % 8))

/-- The pieces vector q's stores to output stream i write, and their flags (R207, R208); old is the shared byte as memory holds it. -/
def VEnv.pieces (e : VEnv) (q i : Nat) (vals : List Nat) (old : Nat) : List (Nat × List Byte) × Nat :=
  let v := nthD e.outs i .off
  let act := e.lanes q
  let e0 := e.x.e0 + 64 * q
  if !v.en || act = 0 then ([], 0)
  else if isMx v.fmt then
    iterN ((act + 31) / 32) (fun b (a : List (Nat × List Byte) × Nat) =>
      let n := Nat.min 32 (act - 32 * b)
      let xs := (List.range n).map (fun j => (ofF32 (nthD vals (32 * b + j) 0), e0 + 32 * b + j))
      let blk := (64 * q + 32 * b) / 32
      let (sc, bs, f) := { e.conv with fmt := v.fmt }.block e.key xs
      (a.1 ++ [(v.pva + blk * mxBlockBytes v.fmt, mxActive v.fmt n old bs), (e.x.wspva + blk, [BitVec.ofNat 8 sc])], flOr a.2 f)) ([], 0)
  else
    let cv : Conv := if i = 1 then { e.conv with fmt := v.fmt } else ⟨v.fmt, 0, false⟩
    let out := (List.range act).map (fun l =>
      (shapePos v.shape v.base v.rl (e0 + l), cv.one e.key (e0 + l) (ofF32 (nthD vals l 0))))
    let fl := out.foldl (fun f y => flOr f y.2.2) 0
    if v.shape = 0 then
      ([(v.pva + shapePos 0 v.base v.rl e0 * v.size, out.flatMap (fun y => leBytes v.size y.2.1))], fl)
    else
      let t := out.foldl (fun (t : Tab Nat) y => tput t y.1 y.2.1) []
      (t.map (fun y => (v.pva + y.1 * v.size, leBytes v.size y.2)), fl)

/-- The body for vector q, and its stores. -/
def VRun.vector (r : VRun) (e : VEnv) (body : List IsaWord) (q : Nat) : VRun :=
  if r.code != 0 then r
  else
    let r := body.foldl (fun r w => r.exec e q w) { r with stores := [] }
    if r.code != 0 then r
    else
      let r := r.stores.foldl (fun (r : VRun) t =>
        if r.code != 0 then r
        else
          let (ob, c, a, s) := match e.sharedByte q t.1 with
            | some pva => r.st.vRead e.g pva 1
            | none => ([], 0, 0, r.st)
          if c != 0 then { r with st := s, code := c, pva := a }
          else
            let (ps, f) := e.pieces q t.1 t.2 (leNat ob)
            let (bad, s) := s.writeAll e.g.ctx ps
            { r with st := s, flags := flOr r.flags f, code := if bad.isSome then 0x48 else 0, pva := bad.getD 0 }) r
      if r.code = 0 then { r with vecs := r.vecs + 1, ran := r.ran + 1 } else r

/-- The scalar preloads (Table 6-1). -/
def VEnv.preload (e : VEnv) (sh : Option Shard) : List Nat :=
  let at_ := fun i => nthD e.pre (e.x.progLen + 64 + i) 0
  let num := fun n => (toF32 (.ofInt (n : Nat) 0)).1
  match sh with
  | none => List.replicate 16 0
  | some y => [num (y.commits + 1), num (at_ 0), canonF32 (at_ 1), num (at_ 2)] ++ List.replicate 12 0

/-- The rows of the sets that the body accumulates into with START set (R210). -/
def VEnv.startRows (e : VEnv) (s : State) (body : List IsaWord) (sh : Option Shard) : List Nat :=
  ((((body.filter (fun w => w.opc == 0x34)).map (fun w => w.d)).eraseDups.filter (fun j => (vAcc e.d j).start)).flatMap (fun j =>
    let (a, b) := e.x.accRows (vAcc e.d j) sh
    (List.range (b + 1 - a)).map (fun i => s.rowAt e.g (a + i)))).eraseDups

/-- The prologue of a program from state s (R198, R200): it touches registers alone. -/
def VEnv.prologue (e : VEnv) (s : State) (pro : List IsaWord) (sh : Option Shard) : VRun :=
  pro.foldl (fun r w => r.exec e 0 w) ⟨s, List.replicate 16 (List.replicate 64 0), e.preload sh, [], 0, [], [], [], 0, 0, 0, 0, false⟩

/-- One run of a body from where the prologue left: the rows of its START sets emptied (R210, all of them before its first instruction),
then the body for every vector. -/
def VEnv.run (e : VEnv) (r : VRun) (body : List IsaWord) (sh : Option Shard) : VRun :=
  let rows := e.startRows r.st body sh
  let r := { r with st := rows.foldl (fun s row => s.setRow e.g.core row TarnRow.empty) r.st, rows := rows }
  iterN ((e.x.n + 63) / 64) (fun q r => r.vector e body q) r

/-- The rows of a run that show a condition of R118. -/
def VRun.overflowed (r : VRun) (e : VEnv) (watch : List Nat) : List Nat :=
  watch.filter (fun row => r.hits.contains row ||
    ((r.st.tarnRow e.g.core row).form == 1 && (r.st.tarnRow e.g.core row).slots.any (fun w => (slotOf w).overflowed)))

/-- The reruns of R118 and R119 from where the prologue left, r0: the rows of a discarded run go back; what it read and wrote stays charged,
and each rerun writes the same places. -/
def VEnv.retry (e : VEnv) (body : List IsaWord) (sh : Option Shard) (watch : List Nat) : Nat → Nat → VRun → VRun
  | 0, n, r0 =>
    let r := e.run r0 body sh
    match r.overflowed e watch with
    | [] => r
    | row :: _ =>
      let a := (r.st.tarnRow e.g.core row).anchor
      { r with st := r.st.retryEvent e.g n row a a 1 }
  | k + 1, n, r0 =>
    let r := e.run r0 body sh
    let bad := r.overflowed e watch
    match bad with
    | [] => r
    | row :: _ =>
      let an := fun row => (r.st.tarnRow e.g.core row).anchor
      if r.code != 0 then r
      else if bad.any (fun row => 511 < an row + 16) then { r with st := r.st.retryEvent e.g n row (an row) (an row) 1 }
      else
        let s := ((r.st.keepTarn e.g.core r0.st).retryEvent e.g (n + 1) row (an row) (an row + 16) 0).inc F.pRetryCnt 1 e.g.part
        e.retry body sh watch k (n + 1) { r0 with st := s, ran := r.ran, anchors := bad.foldl (fun t row => tput t row (an row + 16)) r0.anchors }

/-- The grain's range of one array copied unchanged from the current set to the other (R221, R222). -/
def State.copyArray (s : State) (g : GCtx) (x : VD) (y : Shard) (a : ShArray) : Nat × Nat × State :=
  let (lo, hi) := shapeSpan a.shape y.efirst (Nat.max 1 y.rowLen) x.e0 (x.e0 + x.n - 1)
  let w := stateBytes a.fmt
  let (bs, c, pv, s) := s.vRead g (y.curSet + a.ofs + lo * w) ((hi + 1 - lo) * w)
  if c != 0 then (c, pv, s)
  else
    let (bad, s) := s.writeAll g.ctx [(y.otherSet + a.ofs + lo * w, bs)]
    (if bad.isSome then 0x48 else 0, bad.getD 0, s)

/-- The arrays an update grain copies: every array when it halted, else those the body never stores (R221, R222). -/
def copiedArrays (y : Shard) (body : List IsaWord) (halted : Bool) : List ShArray :=
  let stored := (body.filter (fun w => w.opc == 0x31)).map (fun w => w.d)
  ((List.range y.arrays.1.length).zip y.arrays.1).filterMap (fun p =>
    let out := if p.1 = 0 then 0 else p.1 + 1
    if halted || !stored.contains out then some p.2 else none)

/-- An Isafen grain run to its end: its rows, its copies, its counts, its shard, and its event. Of several AUTO sets the largest RETRY_MAX
bounds the reruns (DESIGN CHOICE, notes/assumptions/106.md). -/
def State.vecRun (s : State) (g : GCtx) (update : Bool) (d : Nat) (pre : List Nat) (replay : Bool) : UnitOut :=
  let x := vOf update d
  let sh := if update then s.shard? g.part x.shard else none
  let en := fun j => (vAcc d j).en
  match isaSplit? en ((pre.take x.progLen).map isaWord) with
  | none => ⟨0x42, 0, false, s⟩
  | some (pro, body) =>
    let cv := s.convOf g.part (vConvW d)
    let e : VEnv := ⟨g, x, d, x.rowLen sh, x.accBase sh, x.inputs d sh, x.outputs d sh, cv, s.srKey g.part x.tensor g.stepNo, pre⟩
    let (autos, hon) := vAutos g.strict d body
    let watch := if !hon then [] else autos.flatMap (fun j =>
      let (a, b) := x.accRows (vAcc d j) sh
      (List.range (b + 1 - a)).map (fun i => s.rowAt g (a + i)))
    let r0 := e.prologue s pro sh
    let r := if r0.halted then r0
      else
        let r0 := { r0 with st := r0.st.restartRows g (if update then 2 else 1) (e.startRows r0.st body sh) }
        if hon then e.retry body sh watch (maxOf (autos.map (fun j => acRetry (vAcc d j).anch))) 0 r0 else e.run r0 body sh
    let s := r.st.add F.pVecs r.ran g.part
    let s := if r.halted then s.inc F.pHalts 1 g.part else s.closeRows g r.rows
    let (code, pva, s) : Nat × Nat × State :=
      match sh with
      | some y =>
        if r.code != 0 then (r.code, r.pva, s)
        else (copiedArrays y body r.halted).foldl (fun (a : Nat × Nat × State) ar =>
          if a.1 != 0 then a else a.2.2.copyArray g x y ar) (0, 0, s)
      | none => (r.code, r.pva, s)
    let mine := match sh with
      | some y => y.pend && y.run == g.run
      | none => false
    let (late, s) := if mine then s.endUpdate g.part x.shard x.last (code != 0) replay else (false, s)
    let s := s.modCore g.core (fun k => { k with vregs := r.v, sregs := r.sr })
    let code := if code != 0 then code else if late then 0x4A else if r.halted then 0x40 else 0
    let s := if code != 0 && code != 0x40 then s.vecFault g x code pva r.vecs
      else if code = 0x40 && s.flag F.pHaltEvt g.part then
        s.event 0x0D g.part [g.part, g.core, g.gid, if update then 2 else 1, 0x40, if update then x.shard else 0, 0, r.vecs]
      else s
    ⟨code, r.flags, false, s⟩

end Sys2Proof.Machine
end

