-- ==== Sys2Proof/Machine/Matrix.lean ====
section
/-! DEFINITION. The matrix engine (04_matrix_engine.md): format classes, exact blocks, carry chains, strict grains,
operand loads, checks, clamps and anchor retries. -/
namespace Sys2Proof.Machine

/-- A field of a unit descriptor. -/
def dF (d lo w : Nat) : Nat := fldN d lo w

/-- The block width Kt of a format pair (Tables 4-1, 4-2); none for a pair outside the table. -/
def matClass? (strict : Bool) (a b : Nat) : Option Nat :=
  if strict then (if a ≤ 9 && b ≤ 9 then some 32 else none)
  else if a = 9 && b = 9 then some 256
  else if 3 ≤ a && a ≤ 9 && 3 ≤ b && b ≤ 9 then some 128
  else if ((a = 1 || a = 2) && 1 ≤ b && b ≤ 9) || ((b = 1 || b = 2) && 1 ≤ a && a ≤ 9) then some 64
  else none

/-- The fields of a matrix descriptor after the clamps of R148 and R117 (Table 4-5). -/
structure MatD where
  op : Nat
  afmt : Nat
  bfmt : Nat
  start : Bool
  aos : Bool
  bos : Bool
  alay : Bool
  blay : Bool
  ahint : Nat
  bhint : Nat
  m : Nat
  nt : Nat
  nlast : Nat
  base : Nat
  anchor : Int
  auto : Bool
  retry : Nat
  kt : Nat
  ktiles : Nat
  kfirst : Nat
  ktotal : Nat
  aaddr : Nat
  baddr : Nat
  ald : Nat
  bld : Nat
  aspva : Nat
  bspva : Nat
  asld : Nat
  bsld : Nat
  deriving DecidableEq, Repr

/-- Whether AUTO is honoured: only on a grain that starts every tile it writes, is not STRICT and is a
multiply-accumulate (R117). -/
def matAuto (strict : Bool) (d : Nat) : Bool :=
  acAuto (dF d 80 16) && bitN d 20 && !strict && dF d 8 2 == 0

/-- The descriptor's fields, clamped. -/
def matOf (strict : Bool) (d : Nat) : MatD :=
  { op := dF d 8 2, afmt := dF d 10 5, bfmt := dF d 15 5, start := bitN d 20, aos := bitN d 21, bos := bitN d 22,
    alay := bitN d 23, blay := bitN d 24, ahint := dF d 25 2, bhint := dF d 27 2, m := clampN (dF d 32 12) 1 2048,
    nt := clampN (dF d 44 12) 1 2048, nlast := clampN (dF d 56 7) 1 64, base := dF d 64 11, anchor := acAnchor (dF d 80 16),
    auto := matAuto strict d, retry := acRetry (dF d 80 16), kt := (matClass? strict (dF d 10 5) (dF d 15 5)).getD 32,
    ktiles := if dF d 96 32 = 0 then 1048576 else Nat.min 1048576 (dF d 96 32), kfirst := dF d 128 64, ktotal := dF d 192 64,
    aaddr := dF d 256 64, baddr := dF d 320 64, ald := dF d 384 32, bld := dF d 416 32, aspva := dF d 448 64,
    bspva := dF d 512 64, asld := dF d 576 32, bsld := dF d 608 32 }

/-- The clamp code of K_TILES: its block's, for which R148 lists none. -/
def kTilesCode : Nat := freeCode 0x11 0

/-- The clamp records of a matrix descriptor, in ascending field code, K_TILES last (R117, R148), and whether there was one. -/
def State.matClamps (s : State) (g : GCtx) (d : Nat) : Bool × State :=
  let (_, c1, s) := s.clampG g 0x1103 (dF d 32 12) 1 2048
  let (_, c2, s) := s.clampG g 0x1104 (dF d 44 12) 1 2048
  let (_, c3, s) := s.clampG g 0x1105 (dF d 56 7) 1 64
  let c4 := acAuto (dF d 80 16) && !matAuto g.strict d
  let s := if c4 then s.clampGrain g.part g.core g.gid 8 0x11F2 1 0 else s
  let (_, c5, s) := s.clampG g kTilesCode (dF d 96 32) 0 1048576
  (c1 || c2 || c3 || c4 || c5, s)

/-- Bytes of a row slice of Kt elements, scales included (Table 4-3). -/
def sliceBytes (fmt kt : Nat) : Nat := kt * elemBits fmt / 8 + (if isMx fmt then kt / 32 else 0)

/-- Bytes of the resident region (R138); a filler grain sees none of it (R447). -/
def State.residentBytes (s : State) (g : GCtx) : Nat := if g.filler then 0 else s.rd F.pOsRes g.owner * 2 ^ 18

/-- The resident bytes a descriptor's A panel and B image need. -/
def MatD.panelBytes (x : MatD) : Nat := x.m * x.ktiles * sliceBytes x.afmt x.kt
def MatD.imageBytes (x : MatD) : Nat := x.ktiles * x.nt * 64 * sliceBytes x.bfmt x.kt

/-- The checks of R147 that need no operand, in the order of Table 4-6; 0 when all pass. -/
def State.matCheck (s : State) (g : GCtx) (d : Nat) : Nat :=
  let x := matOf g.strict d
  let res := s.residentBytes g
  if dF d 0 8 != 0x10 || x.op = 3 then 1
  else if (matClass? g.strict x.afmt x.bfmt).isNone || (x.alay && isMx x.afmt) || (x.blay && isMx x.bfmt) then 2
  else if x.kfirst % x.kt != 0 then 3
  else if 2048 < x.base + x.m * x.nt || (x.op = 0 && !s.rowsOk g x.base (x.m * x.nt)) then 4
  else if x.op = 0 && ((x.aos && res < x.aaddr + x.panelBytes) || (x.bos && res < x.baddr + x.imageBytes)) then 5
  else if x.op = 1 && res < x.baddr + x.panelBytes then 5
  else if x.op = 2 && res < x.aaddr + x.imageBytes then 5
  else 0

/-- The matrix fault event and count (Tables 4-9, 4-10). -/
def State.matFault (s : State) (g : GCtx) (code pva base rows : Nat) : State :=
  (s.event 0x0A g.part [g.part, g.core, g.gid, code, pva, base, rows]).inc F.pMtxFaults 1 g.part

/-- Elements [k0, k0 + n) of one stored row, contiguous from pva (element k0), with its scales: the exact values, the failing code and
PVA if any, and the state. -/
def State.fetchVec (s : State) (c : Ctx) (fmt pva spva n : Nat) : List Num × Nat × Nat × State :=
  let w := elemBits fmt
  let (r, s) := s.readPva c pva ((n * w + 7) / 8)
  let els := unpackBits w n r.bytes
  let code := r.code 6 7
  if code != 0 then ([], code, r.pva, s)
  else match plainFmt? fmt with
    | some f => (els.map (decodeF f), 0, 0, s)
    | none =>
      match mxFmt? fmt with
      | none => ([], 0, 0, s)
      | some f =>
        let (r, s) := s.readPva c spva ((n + 31) / 32)
        if r.fault || r.poison then ([], r.code 6 7, r.pva, s)
        else ((List.range n).map (fun i => decodeMx f (leAt r.bytes (i / 32) 1) (nthD els i 0)), 0, 0, s)

/-- A block of an operand under LAYOUT 1 as the staging region holds it: which one, counted from 1, and its source lines (0: none). -/
structure Staged where
  key : Nat
  rows : List (List GByte)
  deriving DecidableEq, Repr

def Staged.none : Staged := ⟨0, []⟩

/-- The bytes of column i (of total) over K tile t of an operand stored K rows ld bytes apart from pva, K0 the tile's first row, n of them
read: each source line of a block is read once, and its B output lines serve B columns (R140, R300, R301). -/
def State.stagedColumn (s : State) (c : Ctx) (die : Nat) (b : Staged) (e pva ld k0 t n i total : Nat) : List GByte × Staged × State :=
  let side := blockSide e
  let grp := i / side
  let key := t * 2 ^ 32 + grp + 1
  let (b, s) := if b.key = key then (b, s)
    else
      let (rows, s) := s.gatherBlock c die (pva + k0 * ld + grp * 128) ld n (Nat.min side (total - grp * side) * e)
      (⟨key, rows⟩, s)
  (blockColumn b.rows e (i % side), b, s)

/-- The values of a staged column of a plain format, or the code and PVA of the first line that failed. -/
def stagedVec (fmt : Nat) (l : List GByte) : List Num × Nat × Nat :=
  match firstBad l, plainFmt? fmt with
  | (0, _), some f => ((unpackBits (elemBits fmt) (l.length * 8 / elemBits fmt) (l.map (fun b => b.byte))).map (decodeF f), 0, 0)
  | (0, _), none => ([], 0, 0)
  | (code, pva), _ => ([], code, pva)

/-- Elements of a slice held in the resident region: w bits each, then the scales (Table 4-3). -/
def State.residentVec (s : State) (c fmt ofs n kt : Nat) (scaleOfs : Nat) : List Num :=
  let w := elemBits fmt
  let m := (s.core c).opStore
  let els := unpackBits w n (cellsRead m ofs (kt * w / 8))
  match plainFmt? fmt with
  | some f => els.map (decodeF f)
  | none =>
    match mxFmt? fmt with
    | none => []
    | some f => (List.range n).map (fun i => decodeMx f (cellGet m (scaleOfs + i / 32)).toNat (nthD els i 0))

/-- How many elements of K tile t lie below K_TOTAL (R131, R134). -/
def MatD.count (x : MatD) (t : Nat) : Nat := Nat.min x.kt (x.ktotal - (x.kfirst + t * x.kt))

/-- The columns of B, those of the last N tile at or above N_LAST left out (R134). -/
def MatD.columns (x : MatD) : Nat := 64 * (x.nt - 1) + x.nlast

/-- Row m of A over K tile t: its elements below K_TOTAL. -/
def State.matRow (s : State) (g : GCtx) (x : MatD) (b : Staged) (t m : Nat) : List Num × Nat × Nat × Staged × State :=
  let n := x.count t
  let sb := sliceBytes x.afmt x.kt
  if x.aos && x.op = 0 then
    let o := x.aaddr + (t * x.m + m) * sb
    (s.residentVec g.core x.afmt o n x.kt (o + x.kt * elemBits x.afmt / 8), 0, 0, b, s)
  else
    let k := t * x.kt
    let c := { g.ctx with hint := x.ahint }
    if x.alay then
      let (l, b, s) := s.stagedColumn c (s.dieOf g.core) b (elemBits x.afmt / 8) x.aaddr x.ald k t n m x.m
      let (v, code, pva) := stagedVec x.afmt l
      (v, code, pva, b, s)
    else
      let (v, code, pva, s) := s.fetchVec c x.afmt (x.aaddr + m * x.ald + k * elemBits x.afmt / 8) (x.aspva + m * x.asld + k / 32) n
      (v, code, pva, b, s)

/-- Column n of B over K tile t: its elements below K_TOTAL. -/
def State.matCol (s : State) (g : GCtx) (x : MatD) (b : Staged) (t n : Nat) : List Num × Nat × Nat × Staged × State :=
  let cnt := x.count t
  if x.bos && x.op = 0 then
    let w := x.kt * elemBits x.bfmt / 8
    let o := x.baddr + (t * x.nt + n / 64) * 64 * sliceBytes x.bfmt x.kt
    (s.residentVec g.core x.bfmt (o + n % 64 * w) cnt x.kt (o + 64 * w + n % 64 * (x.kt / 32)), 0, 0, b, s)
  else
    let k := t * x.kt
    let c := { g.ctx with hint := x.bhint }
    if x.blay then
      let (l, b, s) := s.stagedColumn c (s.dieOf g.core) b (elemBits x.bfmt / 8) x.baddr x.bld k t cnt n x.columns
      let (v, code, pva) := stagedVec x.bfmt l
      (v, code, pva, b, s)
    else
      let (v, code, pva, s) := s.fetchVec c x.bfmt (x.baddr + n * x.bld + k * elemBits x.bfmt / 8) (x.bspva + n * x.bsld + k / 32) cnt
      (v, code, pva, b, s)

/-- The exact value of one block and the flags of its products (R132, R133): the products are classed one by one,
joined by Table 3-12, and the finite ones summed without discarding a bit. They are joined in ascending k, which decides the invalid flag
where a NaN stands beside both infinities: the spec gives no order (DESIGN CHOICE, notes/assumptions/101.md). -/
def blockValue (a b : List Num) : Num × Nat :=
  let step := fun (st : Num × Nat) (p : Num × Num) =>
    let (prod, f) := match mulNum p.1 p.2 with
      | none => (Num.nan, flInv)
      | some v => (v, 0)
    match addNum st.1 prod with
    | none => (Num.nan, flOr (flOr st.2 f) flInv)
    | some v => (v, flOr st.2 f)
  (a.zip b).foldl step (Num.zero, 0)

/-- The run of a multiply-accumulate grain as it goes: the Tarn in the state, the staged slices of the present K tile,
the present stationary tile, the blocks of A and B that the gatherers delivered last, flags, rows whose addends met R110 step 3, rows
issued, a fault, and the anchors of this run where reruns have raised them. -/
structure MatRun where
  st : State
  slices : List (List Num)
  tile : List (List Num)
  ga : Staged
  gb : Staged
  flags : Nat
  hits : List Nat
  issued : Nat
  code : Nat
  pva : Nat
  anchors : Tab Int

/-- Columns of N tile j that are read and written (R134). -/
def MatD.cols (x : MatD) (j : Nat) : Nat := if j + 1 = x.nt then x.nlast else 64

/-- The 64 or fewer columns of the stationary tile (t, j). -/
def State.matTile (s : State) (g : GCtx) (x : MatD) (b : Staged) (t j : Nat) : List (List Num) × Nat × Nat × Staged × State :=
  (List.range (x.cols j)).foldl (fun (a : List (List Num) × Nat × Nat × Staged × State) n =>
    if a.2.1 != 0 then a
    else
      let (v, code, pva, b, s) := a.2.2.2.2.matCol g x a.2.2.2.1 t (64 * j + n)
      (a.1 ++ [v], code, pva, b, s)) ([], 0, 0, b, s)

/-- One anchored row update: the block values of row m against the tile enter the slots of the row (R132, R110). -/
def MatRun.anchoredRow (r : MatRun) (g : GCtx) (anchor : Int) (row : Nat) (a : List Num) : MatRun :=
  let (tr, f0) := (r.st.tarnRow g.core row).toAnchored anchor
  let res := (List.range r.tile.length).foldl (fun (y : TarnRow × Nat × Bool) n =>
    let (v, f) := blockValue a (nthD r.tile n [])
    let d := (slotOf (y.1.slot n)).addend tr.anchor v
    (y.1.setSlot n d.slot.word, flOr (flOr y.2.1 f) d.flags, y.2.2 || d.hit)) (tr, f0, false)
  { r with
    st := r.st.setRow g.core row { res.1 with part := g.part }
    flags := flOr r.flags res.2.1
    hits := if res.2.2 then insertUp r.hits row else r.hits }

/-- One strict row update over a K tile: a fused multiply-add per element in ascending k (R120, R136, R137). -/
def MatRun.strictRow (r : MatRun) (g : GCtx) (row : Nat) (a : List Num) : MatRun :=
  let (tr, f0) := (r.st.tarnRow g.core row).toStrict
  let f32 := fun (v : Num) => match v with
    | .fin .. => let (b, f) := toF32 v; (b, flIf (bitN f 0) flOvf)
    | _ => (toF32 v).1 |> fun b => (b, 0)
  let res := (List.range r.tile.length).foldl (fun (y : TarnRow × Nat) n =>
    let w := y.1.slot n
    let acc := (a.zip (nthD r.tile n [])).foldl (fun (z : Nat × Nat) p =>
      let (av, fa) := f32 p.1
      let (bv, fb) := f32 p.2
      let (v, f) := f32Fma av bv z.1
      (v, flOr (flOr z.2 f) (flOr fa fb))) (fldN w 0 32, 0)
    (y.1.setSlot n (acc.1 + 2 ^ 127 * b2n (bitN w 127 || bitN acc.2 2)), flOr y.2 acc.2)) (tr, f0)
  { r with st := r.st.setRow g.core row { res.1 with part := g.part }, flags := flOr r.flags res.2 }

/-- The issue of row m against N tile j of K tile t: the slice is staged with the first N tile, the tile is loaded
before its first row, and a failing line stops the grain before the row that needs it (R130, R149). -/
def MatRun.issue (r : MatRun) (g : GCtx) (x : MatD) (anchorOf : Nat → Int) (t j m : Nat) : MatRun :=
  if r.code != 0 || x.count t = 0 then r
  else
    let r := if m = 0 then
        let (tile, code, pva, b, s) := r.st.matTile g x r.gb t j
        { r with tile := tile, code := code, pva := pva, st := s, gb := b, slices := if j = 0 then [] else r.slices }
      else r
    if r.code != 0 then r
    else
      let r := if j = 0 then
          let (v, code, pva, b, s) := r.st.matRow g x r.ga t m
          { r with slices := r.slices ++ [v], code := code, pva := pva, ga := b, st := s }
        else r
      if r.code != 0 then r
      else
        let row := r.st.rowAt g (x.base + j * x.m + m)
        let a := nthD r.slices m []
        let r := if g.strict then r.strictRow g row a else r.anchoredRow g (anchorOf row) row a
        { r with issued := r.issued + 1 }

/-- The tile rows a multiply-accumulate grain names. -/
def State.matRows (s : State) (g : GCtx) (x : MatD) : List Nat :=
  (List.range (x.m * x.nt)).map (fun i => s.rowAt g (x.base + i))

/-- One run of a multiply-accumulate grain from state s with the anchors that reruns have raised (R130, R135): its rows are emptied first
under START. Its rows count in ROWS of the partition whose core issues them, whether or not the run stands (Table 4-9). -/
def State.matRunOnce (s : State) (g : GCtx) (x : MatD) (anchors : Tab Int) : MatRun :=
  let s := if x.start then (s.matRows g x).foldl (fun s r => s.setRow g.core r TarnRow.empty) s else s
  let r0 : MatRun := ⟨s, [], [], Staged.none, Staged.none, 0, [], 0, 0, 0, anchors⟩
  let r := iterN x.ktiles (fun t r => iterN x.nt (fun j r => iterN x.m (fun m r =>
    r.issue g x (fun row => tgetD anchors row x.anchor) t j m) r) r) r0
  { r with st := r.st.add F.pRows r.issued g.owner }

/-- The rows that show a condition of R118: an addend made infinite, or a slot in window overflow. -/
def MatRun.overflowed (r : MatRun) (g : GCtx) (rows : List Nat) : List Nat :=
  rows.filter (fun row => r.hits.contains row ||
    ((r.st.tarnRow g.core row).form == 1 && (r.st.tarnRow g.core row).slots.any (fun w => (slotOf w).overflowed)))

/-- The reruns of R118 and R119: while a row shows a condition and runs remain, the rows that showed it have their
anchors raised by 16 and the grain reruns from its unchanged inputs; every rerun is reported and counted. What a discarded run fetched
stays charged (R144). -/
def State.matRetry (s : State) (g : GCtx) (x : MatD) : Nat → Nat → Tab Int → MatRun
  | 0, run, anchors =>
    let r := s.matRunOnce g x anchors
    match r.overflowed g (s.matRows g x) with
    | [] => r
    | row :: _ =>
      let a := tgetD anchors row x.anchor
      { r with st := r.st.retryEvent g run row a a 1 }
  | n + 1, run, anchors =>
    let r := s.matRunOnce g x anchors
    let bad := r.overflowed g (s.matRows g x)
    match bad with
    | [] => r
    | row :: _ =>
      let a := tgetD anchors row x.anchor
      if bad.any (fun row => 511 < tgetD anchors row x.anchor + 16) then { r with st := r.st.retryEvent g run row a a 1 }
      else if r.code != 0 then r
      else
        let s := ((r.st.keepTarn g.core s).retryEvent g (run + 1) row a (a + 16) 0).inc F.pRetryCnt 1 g.part
        s.matRetry g x n (run + 1) (bad.foldl (fun t row => tput t row (tgetD t row x.anchor + 16)) anchors)

/-- A multiply-accumulate grain run to its end: ROWS, carry, the NaN marking of a fault (R149), its flags and code. -/
def State.matMac (s : State) (g : GCtx) (x : MatD) (clamped : Bool) : UnitOut :=
  let rows := s.matRows g x
  let s := if x.start then s.restartRows g 0 rows else s
  let r := if x.auto then s.matRetry g x x.retry 0 [] else s.matRunOnce g x []
  let s := r.st
  if r.code != 0 then
    let s := rows.foldl (fun s row => s.setRow g.core row { (s.tarnRow g.core row).markNan g.strict (tgetD r.anchors row x.anchor) with part := g.part }) s
    ⟨r.code, r.flags, clamped, (s.closeRows g rows).matFault g r.code r.pva (s.rowAt g x.base) r.issued⟩
  else ⟨0, r.flags, clamped, if x.start || r.issued != 0 then s.closeRows g rows else s⟩

/-- The image bytes of one stored row or column of an operand load: its packed elements, padded with zero bits past
K_TOTAL, and its scale bytes; or the failing code and PVA. -/
def State.loadVec (s : State) (c : Ctx) (fmt pva spva n kt : Nat) : List Byte × List Byte × Nat × Nat × State :=
  let w := elemBits fmt
  let (r, s) := s.readPva c pva ((n * w + 7) / 8)
  let els := packBits w (unpackBits w n r.bytes ++ List.replicate (kt - n) 0)
  if r.fault || r.poison then ([], [], r.code 6 7, r.pva, s)
  else if isMx fmt then
    let (q, s) := s.readPva c spva ((n + 31) / 32)
    (els, bytesAt q.bytes 0 (kt / 32), q.code 6 7, q.pva, s)
  else (els, [], 0, 0, s)

/-- The same of a column the gatherers deliver (LAYOUT 1). -/
def stagedImage (kt e : Nat) (l : List GByte) : List Byte × List Byte × Nat × Nat :=
  let bad := firstBad l
  (bytesAt (l.map (fun b => b.byte)) 0 (kt * e), [], bad.1, bad.2)

/-- Bytes written into the operand store of a core. -/
def State.storeResident (s : State) (c ofs : Nat) (bs : List Byte) : State :=
  s.modCore c (fun k => { k with opStore := cellsWrite k.opStore ofs bs })

/-- An operand-load grain (R146, R664): the A panel into B_ADDR, or the B image into A_ADDR, in the form of Table 4-3;
a failing line stops it where it stands, and its fault event gives the row TARN_BASE names, as one at its start does. The operand comes
through the core's port, whatever A_OS or B_OS holds, and the columns of a B image at or above N_LAST of the last tile are zero (DESIGN
CHOICE, notes/assumptions/102.md). -/
def State.matLoad (s : State) (g : GCtx) (x : MatD) (clamped : Bool) : UnitOut :=
  let a := x.op = 1
  let fmt := if a then x.afmt else x.bfmt
  let e := elemBits fmt / 8
  let w := x.kt * elemBits fmt / 8
  let n := if a then x.m else 64 * x.nt
  let c := { g.ctx with hint := if a then x.ahint else x.bhint }
  let lay := if a then x.alay else x.blay
  let ld := if a then x.ald else x.bld
  let adr := if a then x.aaddr else x.baddr
  let one := fun (t i : Nat) (r : Nat × Nat × Staged × State) =>
    if r.1 != 0 then r
    else
      let k := t * x.kt
      let (els, sc, code, fp, b, s) : List Byte × List Byte × Nat × Nat × Staged × State :=
        if !a && x.columns ≤ i then (List.replicate w 0, List.replicate (if isMx fmt then x.kt / 32 else 0) 0, 0, 0, r.2.2)
        else if lay then
          let (l, b, s) := r.2.2.2.stagedColumn c (r.2.2.2.dieOf g.core) r.2.2.1 e adr ld k t (x.count t) i (if a then x.m else x.columns)
          let y := stagedImage x.kt e l
          (y.1, y.2.1, y.2.2.1, y.2.2.2, b, s)
        else
          let sp := if a then x.aspva + i * x.asld + k / 32 else x.bspva + i * x.bsld + k / 32
          let (els, sc, code, fp, s) := r.2.2.2.loadVec c fmt (adr + i * ld + k * elemBits fmt / 8) sp (x.count t) x.kt
          (els, sc, code, fp, r.2.2.1, s)
      if code != 0 then (code, fp, b, s)
      else if a then (0, 0, b, s.storeResident g.core (x.baddr + (t * x.m + i) * sliceBytes fmt x.kt) (els ++ sc))
      else
        let o := x.aaddr + (t * x.nt + i / 64) * 64 * sliceBytes fmt x.kt
        let s := s.storeResident g.core (o + i % 64 * w) els
        (0, 0, b, s.storeResident g.core (o + 64 * w + i % 64 * (x.kt / 32)) sc)
  let r := iterN x.ktiles (fun t r => iterN n (one t) r) (0, 0, Staged.none, s)
  if r.1 != 0 then ⟨r.1, 0, clamped, r.2.2.2.matFault g r.1 r.2.1 (s.rowAt g x.base) 0⟩ else ⟨0, 0, clamped, r.2.2.2⟩

/-- A matrix grain at its start: its clamps, then the checks of R147. A failed check makes it a reported no-op. -/
def State.matStart (s : State) (g : GCtx) (d : Nat) : Nat × Bool × State :=
  let (cl, s) := s.matClamps g d
  let x := matOf g.strict d
  let code := s.matCheck g d
  if code = 0 then (0, cl, s)
  else
    let owned := code != 4 || x.op != 0 || s.rowsOk g x.base (x.m * x.nt)
    let s := if owned then s else s.tarnEvent g 0 (s.rowAt g x.base) 1 0
    (code, cl, s.matFault g code 0 (s.rowAt g x.base) 0)

/-- A matrix grain run to its end. -/
def State.matRun (s : State) (g : GCtx) (d : Nat) : UnitOut :=
  let x := matOf g.strict d
  if x.op = 0 then s.matMac g x false else s.matLoad g x false

end Sys2Proof.Machine
end

