-- ==== Sys2Proof/Machine/Output.lean ====
section
/-! DEFINITION. The output path (05_tarn_and_epilogue.md, R172 to R194): its descriptor, its checks and clamps, the
epilogue, readouts, rankings, segment sums, router records, and the spill, fill, merge and clear of tile rows. -/
namespace Sys2Proof.Machine

/-- The fields of an output descriptor after the clamps of R174 (Table 5-2). -/
structure OutD where
  op : Nat
  peek : Bool
  clear : Bool
  toDisp : Bool
  smallest : Bool
  conv : Conv
  act : Nat
  scMode : Nat
  biMode : Nat
  m : Nat
  nt : Nat
  nlast : Nat
  mxAxis : Bool
  base : Nat
  k : Nat
  extra : Nat
  gate : Nat
  colMajor : Bool
  biBf16 : Bool
  scale : Nat
  colBase : Nat
  rowBase : Nat
  outPva : Nat
  auxPva : Nat
  outLd : Nat
  auxLd : Nat
  scPva : Nat
  biPva : Nat
  segPva : Nat
  nseg : Nat
  dctx : Nat
  alpha : Nat
  tensor : Nat
  deriving DecidableEq, Repr

/-- EXTRA reduced to the lower of 4 and 16 - K (R174). -/
def extraOf (k extra : Nat) : Nat := Nat.min extra (Nat.min 4 (16 - k))

/-- The descriptor's fields, clamped. -/
def State.outOf (s : State) (p d : Nat) : OutD :=
  let f := fun lo w => fldN d lo w
  let k := clampN (f 75 5) 1 16
  { op := f 8 4, peek := bitN d 12, clear := bitN d 13, toDisp := bitN d 14, smallest := bitN d 15, conv := s.convOf p (f 16 8),
    act := f 24 4, scMode := f 28 2, biMode := f 30 2, m := clampN (f 32 12) 1 2048, nt := clampN (f 44 12) 1 2048,
    nlast := clampN (f 56 7) 1 64, mxAxis := bitN d 63, base := f 64 11, k := k, extra := extraOf k (f 80 3), gate := f 83 2,
    colMajor := bitN d 85, biBf16 := bitN d 86, scale := f 96 32, colBase := f 128 32, rowBase := f 160 32, outPva := f 192 64,
    auxPva := f 256 64, outLd := f 320 32, auxLd := f 352 32, scPva := f 384 64, biPva := f 448 64, segPva := f 512 64,
    nseg := clampN (f 576 16) 1 2048, dctx := f 592 16, alpha := f 608 16, tensor := f 624 32 }

/-- The length of one logical row, NCOL. -/
def OutD.ncol (x : OutD) : Nat := (x.nt - 1) * 64 + x.nlast

/-- Output rows: M_ROWS, or NSEG for a segment sum. -/
def OutD.outRows (x : OutD) : Nat := if x.op = 3 then x.nseg else x.m

/-- Whether the OP reads rows through the epilogue, ranks, or uses a segment list. -/
def OutD.reads (x : OutD) : Bool := decide (x.op ≤ 3)
def OutD.ranks (x : OutD) : Bool := x.op == 1 || x.op == 2
def OutD.segs (x : OutD) : Bool := x.op == 2 || x.op == 3

/-- The clamp records of an output descriptor, in ascending field code: each numeric field whatever the OP, and RM for an OP that uses
CONV (R174, R101). -/
def State.outClamps (s : State) (g : GCtx) (d : Nat) : Bool × State :=
  let x := s.outOf g.part d
  let (_, c1, s) := s.clampG g 0x0202 (fldN d 32 12) 1 2048
  let (_, c2, s) := s.clampG g 0x0203 (fldN d 44 12) 1 2048
  let (_, c3, s) := s.clampG g 0x0204 (fldN d 56 7) 1 64
  let (_, c4, s) := s.clampG g 0x0205 (fldN d 75 5) 1 16
  let e := fldN d 80 3
  let c5 := e != x.extra
  let s := if c5 then s.clampGrain g.part g.core g.gid (if 4 < e then 2 else 8) 0x0206 e x.extra else s
  let (_, c6, s) := s.clampG g 0x0207 (fldN d 576 16) 1 2048
  let c7 := x.reads && convRmBad (fldN d 16 8)
  let s := if c7 then s.clampGrain g.part g.core g.gid 3 0x02F1 3 0 else s
  (c1 || c2 || c3 || c4 || c5 || c6 || c7, s)

/-- The tile rows an output descriptor names, in ascending order. -/
def State.outRowsOf (s : State) (g : GCtx) (x : OutD) : List Nat :=
  (List.range (x.m * x.nt)).map (fun i => s.rowAt g (x.base + i))

/-- The tile row that holds logical row m of N tile j. -/
def State.outRow (s : State) (g : GCtx) (x : OutD) (m j : Nat) : Nat := s.rowAt g (x.base + j * x.m + m)

/-- The logical rows of segment i of a segment list. -/
def segRows (segs : List Nat) (i : Nat) : List Nat :=
  let a := nthD segs i 0
  (List.range (nthD segs (i + 1) 0 - a)).map (· + a)

/-- How many output units a grain forms: its segments, or its logical rows. -/
def OutD.every (x : OutD) : Nat := if x.segs then x.nseg else x.m

/-- The logical rows that the first n output units of a grain read. -/
def OutD.rowsRead (x : OutD) (segs : List Nat) (n : Nat) : List Nat :=
  if x.segs then (List.range n).flatMap (segRows segs) else List.range n

/-- The logical rows completed when the first n output units are. -/
def OutD.rowsDone (x : OutD) (segs : List Nat) (n : Nat) : Nat := if x.segs then nthD segs n 0 - nthD segs 0 0 else n

/-- The output units that are whole once the elements of the per-row vectors reach r: the rows or segments below it, whole blocks of 32 of
them where MX blocks run along a column, and for a ranking of segments those that end at or below row r. -/
def OutD.unitsAt (x : OutD) (segs : List Nat) (r : Nat) : Nat :=
  if x.op = 2 then ((List.range x.nseg).takeWhile (fun i => decide (nthD segs (i + 1) 0 ≤ r))).length
  else if isMx x.conv.fmt && x.mxAxis then 32 * (r / 32)
  else r

/-- Whether a segment list is valid (R186): a list of NSEG + 1 INT32 offsets as read. -/
def segsValid (m : Nat) (l : List Nat) : Bool :=
  let v := l.map (signedN 32)
  decide (0 ≤ nthD v 0 (-1)) && (v.zip (v.drop 1)).all (fun p => decide (p.1 ≤ p.2)) && decide (nthD v (l.length - 1) 0 ≤ (m : Int))

/-- Whether a CONV format code is one the output path takes (R173, code 0x0022). -/
def outFmtOk (f : Nat) : Bool := decide (f ≤ 9)

/-- Bytes of one output value of a plain format. -/
def valueBytes (fmt : Nat) : Nat := elemBits fmt / 8

/-- Where output element (r, n) of a plain or 8-bit format lies (R182). -/
def OutD.place (x : OutD) (r n : Nat) : Nat :=
  if x.colMajor then x.outPva + n * x.outLd + r * valueBytes x.conv.fmt else x.outPva + r * x.outLd + n * valueBytes x.conv.fmt

/-- The spans an output grain writes, from their first to past their last byte: the values and the second output. -/
def OutD.spans (x : OutD) : List (Nat × Nat) :=
  let rows := x.outRows
  let nc := x.ncol
  if x.op = 7 || x.toDisp then []
  else if x.op = 4 then [(x.outPva, x.m * x.nt * 1088)]
  else if 4 ≤ x.op then []
  else if x.ranks then
    let recs := if x.op = 1 then x.m else x.nseg * nc
    let n := x.k + x.extra
    [(x.outPva, (recs - 1) * x.outLd + n * valueBytes x.conv.fmt), (x.auxPva, (recs - 1) * x.auxLd + n * 4)]
  else if isMx x.conv.fmt then
    let bb := mxBlockBytes x.conv.fmt
    if x.mxAxis then
      [(x.outPva, (nc - 1) * x.outLd + rows / 32 * bb), (x.auxPva, (nc - 1) * x.auxLd + rows / 32)]
    else
      let nb := (nc + 31) / 32
      let last := if x.colMajor then (if x.conv.fmt ≤ 6 then (nb * 32 - 1) * x.outLd + rows else (nb - 1) * 32 * x.outLd + rows * bb)
        else (rows - 1) * x.outLd + nb * bb
      [(x.outPva, last), (x.auxPva, (rows - 1) * x.auxLd + nb)]
  else [(x.outPva, x.place (rows - 1) (nc - 1) - x.outPva + valueBytes x.conv.fmt)]

/-- The first unwritable place of the output span, if any (R177). -/
def State.outSpanBad (s : State) (g : GCtx) (x : OutD) : Option (Nat × Nat) :=
  x.spans.foldl (fun a p => if a.isSome then a else s.spanBad g.ctx p.1 p.2 true) none

/-- The checks of R173 that need no segment list, in ascending code up to 0x0023. -/
def State.outCheck1 (s : State) (g : GCtx) (d : Nat) : Nat :=
  let x := s.outOf g.part d
  if fldN d 0 8 != 0x10 || 8 ≤ x.op then 0x21
  else if x.reads && (9 ≤ x.act || x.gate = 3 || x.biMode = 3 || !outFmtOk x.conv.fmt || (x.ranks && isMx x.conv.fmt)) then 0x22
  else if 2048 < x.base + x.m * x.nt || !s.rowsOk g x.base (x.m * x.nt) then 0x23
  else 0

/-- The later checks, once the segment list is known. -/
def State.outCheck2 (s : State) (g : GCtx) (x : OutD) (segs : List Nat) : Nat :=
  let opn := (x.rowsRead segs x.every).any (fun m => (List.range x.nt).any (fun j => (s.tarnRow g.core (s.outRow g x m j)).opn))
  if x.reads && !x.peek && opn then 0x24
  else if (x.reads && isMx x.conv.fmt && x.mxAxis && (!x.colMajor || x.outRows % 32 != 0)) || (x.toDisp && x.op != 1) then 0x25
  else if x.op = 6 && (s.outRowsOf g x).any (fun r => (s.tarnRow g.core r).form == 2) then 0x2A
  else 0

/-- The output fault event and count (Tables 5-9, 5-10). -/
def State.outFault (s : State) (g : GCtx) (code pva rows : Nat) : State :=
  (s.event 0x0B g.part [g.part, g.core, g.gid, code, pva, rows]).inc F.pOutFaults 1 g.part

/-- An output grain at its start: its clamps, its segment list, and the checks of R173 and R177. The answer is the unit
code, whether a field was clamped, the segment list, and the state. -/
def State.outStart (s : State) (g : GCtx) (d : Nat) : Nat × Bool × List Nat × State :=
  let (cl, s) := s.outClamps g d
  let x := s.outOf g.part d
  let c1 := s.outCheck1 g d
  if c1 != 0 then
    let s := if c1 = 0x23 && !s.rowsOk g x.base (x.m * x.nt) then s.tarnEvent g 4 (s.rowAt g x.base) 1 0 else s
    (c1, cl, [], s.outFault g c1 0 0)
  else
    let (segs, code, pva, s) : List Nat × Nat × Nat × State :=
      if x.segs then
        let (r, s) := s.readPva g.ctx x.segPva (4 * (x.nseg + 1))
        let l := (List.range (x.nseg + 1)).map (fun i => leAt r.bytes (4 * i) 4)
        (l, if r.fault || r.poison then r.code 0x27 0x28 else if segsValid x.m l then 0 else 0x26, r.pva, s)
      else ([], 0, 0, s)
    if code != 0 then (code, cl, [], s.outFault g code (if code = 0x26 then 0 else pva) 0)
    else
      let c2 := s.outCheck2 g x segs
      if c2 != 0 then (c2, cl, [], s.outFault g c2 0 0)
      else match s.outSpanBad g x with
        | some (a, cause) => (0x27, cl, [], (s.xfault g.part g.ctx.who a 2 cause).outFault g 0x27 a 0)
        | none => (0, cl, segs, s)

/-! ## The epilogue (R176 to R180) -/

/-- The scale and bias vectors of a grain: their elements, the code and PVA of the line that stopped the reading of rows, and, of a
per-row vector, the element it stopped before. -/
structure OutVecs where
  scale : List Num
  bias : List Num
  code : Nat
  pva : Nat
  ready : Nat
  deriving DecidableEq, Repr

/-- One vector (R176): none, per column NCOL elements, per row the elements of the output rows below lim. Its elements, its code, the
PVA that stopped it, and the rows it serves: a per-column vector that fails serves none, a per-row one those before its failing line. -/
def State.outVec (s : State) (g : GCtx) (x : OutD) (mode pva fmt lim : Nat) : List Num × Nat × Nat × Nat × State :=
  if mode = 0 || lim = 0 then ([], 0, 0, lim, s)
  else
    let n := if mode = 1 then x.ncol else lim
    let (r, s) := s.readPva g.ctx pva (n * valueBytes fmt)
    let code := r.code 0x27 0x28
    (decodeArray fmt n r.bytes [], code, r.pva, if code = 0 then lim else if mode = 1 then 0 else (r.pva - pva) / valueBytes fmt, s)

/-- The vectors SC_MODE and BI_MODE name: the scale first, then the bias of the rows the scale serves (R175; notes/assumptions/104.md). -/
def State.outVecs (s : State) (g : GCtx) (x : OutD) : OutVecs × State :=
  let (sc, c1, p1, n1, s) := s.outVec g x (if x.scMode = 2 then 1 else if x.scMode = 3 then 2 else 0) x.scPva 0 x.outRows
  let (bi, c2, p2, n2, s) := s.outVec g x x.biMode x.biPva (if x.biBf16 then 2 else 0) n1
  (⟨sc, bi, if c2 = 0 then c1 else c2, if c2 = 0 then p1 else p2, n2⟩, s)

/-- Squared ReLU, ReLU and the leaky slope on binary32 bits, and the elementary activations (Table 5-4). -/
def actF32 (act alpha b : Nat) : Nat × Nat :=
  let v := ofF32 b
  match act with
  | 2 => if v.isNan || v.cmp Num.zero == .lt then f32Mul (alpha * 2 ^ 16) b else (b, 0)
  | 3 => elemF32 .gelu b
  | 4 => elemF32 .silu b
  | 5 => elemF32 .sigmoid b
  | 6 => elemF32 .tanh b
  | 7 => elemF32 .exp b
  | _ => if v.isNan || v.cmp Num.zero == .gt then f32Mul b b else (0, 0)

/-- Stages 2 to 4 of R176 on a value: scale, bias, activation. With ACT 0x0 or 0x1 the exact value goes on (R178); with
the others it is rounded to binary32 first (R179). -/
def OutD.epilogue (x : OutD) (v : OutVecs) (r n : Nat) (val : Num) : Num × Nat :=
  let (p, f1) := match (if x.scMode = 0 then none else some (if x.scMode = 1 then ofF32 x.scale
      else nthD v.scale (if x.scMode = 2 then n else r) Num.nan)) with
    | none => (val, 0)
    | some sc => match mulNum val sc with
      | none => (Num.nan, flInv)
      | some y => (y, 0)
  let (q, f2) := if x.biMode = 0 then (p, 0)
    else match addNum p (nthD v.bias (if x.biMode = 1 then n else r) Num.nan) with
      | none => (Num.nan, flInv)
      | some y => (y, 0)
  let f := flOr f1 f2
  if x.act = 0 then (q, f)
  else if x.act = 1 then (if q.isNan || q.isZero && q.neg? || q.cmp Num.zero == .gt then q else Num.zero, f)
  else
    let (b, f3) := toF32 q
    let (a, f4) := actF32 x.act x.alpha b
    (ofF32 a, flOr f (flOr f3 f4))

/-- The element index of element (r, n) for stochastic rounding (R106). -/
def OutD.elem (x : OutD) (r n : Nat) : Nat := (x.colBase + n) % 2 ^ 32 + 2 ^ 32 * ((x.rowBase + r) % 2 ^ 32)

/-- The value of logical row m, column n, through stage 4. -/
def State.outValue (s : State) (g : GCtx) (x : OutD) (v : OutVecs) (m n : Nat) : Num × Nat :=
  let (y, f) := (s.tarnRow g.core (s.outRow g x m (n / 64))).value (n % 64)
  let (z, f2) := x.epilogue v m n y
  (z, flOr f f2)

/-- The sum of column n over a set of rows (R187): at the highest anchor among the anchored rows, or exactly when no row
is anchored. -/
def segSum (rows : List TarnRow) (n : Nat) : Num × Nat :=
  match rows.filter (fun r => r.form == 1) with
  | [] =>
    rows.foldl (fun (a : Num × Nat) r =>
      if r.form != 2 then a
      else match addNum a.1 (ofF32 (fldN (r.slot n) 0 32)) with
        | none => (Num.nan, flOr a.2 flInv)
        | some y => (y, a.2)) (Num.zero, 0)
  | h :: t =>
    let top := t.foldl (fun (a : Int) r => if a < r.anchor then r.anchor else a) h.anchor
    let acc := rows.foldl (fun (a : Slot × Nat) r =>
      if r.form = 1 then
        let y := a.1.addSlot top (slotOf (r.slot n)) r.anchor
        (y.slot, flOr a.2 y.flags)
      else if r.form = 2 then
        let y := a.1.addend top (ofF32 (fldN (r.slot n) 0 32))
        (y.slot, flOr a.2 y.flags)
      else a) (Slot.empty, 0)
    let (v, f) := acc.1.read top
    (v, flOr acc.2 f)

/-- The stage-4 value of output row r, column n of a readout or segment sum. -/
def State.outElem (s : State) (g : GCtx) (x : OutD) (v : OutVecs) (segs : List Nat) (r n : Nat) : Num × Nat :=
  if x.op = 3 then
    let (y, f) := segSum ((segRows segs r).map (fun m => s.tarnRow g.core (s.outRow g x m (n / 64)))) (n % 64)
    let (z, f2) := x.epilogue v r n y
    (z, flOr f f2)
  else s.outValue g x v r n

/-- The pieces a readout or segment sum writes for its first rows output rows, and the flags raised (R181, R182). -/
def State.outPieces (s : State) (g : GCtx) (x : OutD) (v : OutVecs) (segs : List Nat) (rows : Nat) : List (Nat × List Byte) × Nat :=
  let key := s.srKey g.part x.tensor g.stepNo
  let val := fun r n => s.outElem g x v segs r n
  let nc := x.ncol
  let add := fun (a : List (Nat × List Byte) × Nat) (b : List (Nat × List Byte) × Nat) => (a.1 ++ b.1, flOr a.2 b.2)
  if isMx x.conv.fmt then
    let bb := mxBlockBytes x.conv.fmt
    let blk := fun (cells : List (Nat × Nat)) =>
      let vs := cells.map (fun c => (val c.1 c.2, x.elem c.1 c.2))
      let (sc, bs, f) := x.conv.block key (vs.map (fun y => (y.1.1, y.2)))
      (sc, bs, vs.foldl (fun a y => flOr a y.1.2) f)
    if x.mxAxis then
      iterN nc (fun n a => iterN (rows / 32) (fun b a =>
        let (sc, bs, f) := blk ((List.range 32).map (fun i => (32 * b + i, n)))
        add a ([(x.outPva + n * x.outLd + b * bb, bs), (x.auxPva + n * x.auxLd + b, [BitVec.ofNat 8 sc])], f)) a) ([], 0)
    else
      iterN rows (fun r a => iterN ((nc + 31) / 32) (fun b a =>
        let (sc, bs, f) := blk ((List.range (Nat.min 32 (nc - 32 * b))).map (fun i => (r, 32 * b + i)))
        let els := if !x.colMajor then [(x.outPva + r * x.outLd + b * bb, bs)]
          else if x.conv.fmt ≤ 6 then (List.range 32).map (fun i => (x.outPva + (32 * b + i) * x.outLd + r, [nthD bs i 0]))
          else [(x.outPva + 32 * b * x.outLd + r * bb, bs)]
        add a (els ++ [(x.auxPva + r * x.auxLd + b, [BitVec.ofNat 8 sc])], f)) a) ([], 0)
  else
    let w := valueBytes x.conv.fmt
    let one := fun r n =>
      let (y, f) := val r n
      let (b, f2) := x.conv.one key (x.elem r n) y
      (leBytes w b, flOr f f2)
    let run := fun (cells : List (Nat × Nat)) =>
      let l := cells.map (fun c => one c.1 c.2)
      (l.flatMap (fun y => y.1), l.foldl (fun a y => flOr a y.2) 0)
    if x.colMajor then
      iterN nc (fun n a =>
        let (bs, f) := run ((List.range rows).map (fun r => (r, n)))
        add a ([(x.outPva + n * x.outLd, bs)], f)) ([], 0)
    else
      iterN rows (fun r a =>
        let (bs, f) := run ((List.range nc).map (fun n => (r, n)))
        add a ([(x.outPva + r * x.outLd, bs)], f)) ([], 0)

/-! ## Ranking and routers (R184 to R189) -/

/-- The candidates of record r and the flags of their epilogue: the columns of a logical row, or the rows of a segment
in one column. -/
def State.outCands (s : State) (g : GCtx) (x : OutD) (v : OutVecs) (segs : List Nat) (r : Nat) : List Cand × Nat :=
  let cells := if x.op = 1 then (List.range x.ncol).map (fun n => (r, n))
    else (segRows segs (r / x.ncol)).map (fun m => (m, r % x.ncol))
  cells.foldl (fun (a : List Cand × Nat) c =>
    let (y, f) := s.outValue g x v c.1 c.2
    let pos := if x.op = 1 then (x.colBase + c.2) % 2 ^ 32 else (x.rowBase + c.1) % 2 ^ 32
    (a.1 ++ [⟨pos, x.elem c.1 c.2, y, (toF32 y).1⟩], flOr a.2 f)) ([], 0)

/-- The flag of a ranked NaN. -/
def rankFlags (l : List Cand) : Nat := flIf (l.any (fun c => c.value.isNan)) flInv

/-- The gates of the ranked entries (R189), from the rank values of the entries and of every candidate. -/
def gates (gate k : Nat) (sel all : List Cand) : List Nat × Nat :=
  match sel with
  | [] => ([], 0)
  | h :: _ =>
    if gate = 0 then (sel.map (fun c => c.rank), 0)
    else
      let ex := fun (c : Cand) => (elemF32 .exp (f32Sub c.rank h.rank).1).1
      let sum := (if gate = 1 then sel.take k else all).foldl (fun (a : Num) c => (addNum a (ofF32 (ex c))).getD .nan) Num.zero
      let (b, f) := toF32 sum
      (sel.map (fun c => (f32Div (ex c) b).1), flIf (bitN f 0) flOvf)

/-- The pieces of one ranking record that is not handed off, and the flags of its output values (R185). -/
def OutD.record (x : OutD) (key : SrKey) (r : Nat) (sel : List Cand) : List (Nat × List Byte) × Nat :=
  let w := valueBytes x.conv.fmt
  let n := x.k + x.extra
  let vals := sel.map (fun c => x.conv.one key c.elem c.value)
  let vb := vals.flatMap (fun y => leBytes w y.1) ++ (List.replicate ((n - sel.length) * w) (0 : Byte))
  let pb := sel.flatMap (fun c => leBytes 4 c.pos) ++ (List.replicate ((n - sel.length) * 4) (0xFF : Byte))
  ([(x.outPva + r * x.outLd, vb), (x.auxPva + r * x.auxLd, pb)], vals.foldl (fun a y => flOr a y.2) 0)

/-- The router record of logical row m (Table 5-5). -/
def OutD.router (g : GCtx) (x : OutD) (m : Nat) (sel all : List Cand) : RouterRec × Nat :=
  let (gs, f) := gates x.gate x.k sel all
  let bad := sel.any (fun c => c.value.isNan) || gs.any (fun b => (ofF32 b).isNan)
  let ents := (List.range (x.k + x.extra)).map (fun j => ((sel[j]?.map (fun c => c.pos)).getD 0xFFFFFFFF, nthD gs j 0))
  (⟨g.part, g.core, (x.rowBase + m) % 2 ^ 32, x.dctx, Nat.min x.k sel.length, sel.length - Nat.min x.k sel.length, bad,
    ents⟩, f)

/-- The records of the first n rows or segments of a ranking grain: the pieces to write, the router records, and the flags. -/
def State.outRank (s : State) (g : GCtx) (x : OutD) (v : OutVecs) (segs : List Nat) (n : Nat) : List (Nat × List Byte) × List RouterRec × Nat :=
  let key := s.srKey g.part x.tensor g.stepNo
  let recs := if x.op = 1 then n else n * x.ncol
  iterN recs (fun r a =>
    let (all, f) := s.outCands g x v segs r
    let sel := rankTop x.smallest (x.k + x.extra) all
    let f := flOr a.2.2 (flOr f (rankFlags sel))
    if x.toDisp then
      let (rr, f2) := x.router g r sel all
      (a.1, a.2.1 ++ [rr], flOr f f2)
    else
      let (ps, f2) := x.record key r sel
      (a.1 ++ ps, a.2.1, flOr f f2)) ([], [], 0)

/-! ## Row images (R191 to R193) -/

/-- The image of a tile row (Table 5-6). -/
def rowImage (r : Nat) (x : TarnRow) : List Byte :=
  let slots := (List.range 64).flatMap (fun n => leBytes 16 (x.slot n))
  leBytes 4 x.tag ++ leBytes 2 r ++ List.replicate 2 0 ++ leBytes 4 (crc32c slots) ++ List.replicate 52 0 ++ slots

/-- The row an image holds, if the image passes R191 for partition p. -/
def imageRow? (p : Nat) (bs : List Byte) : Option TarnRow :=
  let tag := leAt bs 0 4
  let form := fldN tag 0 2
  if crc32c (bytesAt bs 64 1024) != leAt bs 8 4 || form = 3 || fldN tag 13 6 != p then none
  else some { form := form, anchor := if form = 1 then signedN 10 (fldN tag 2 10) else 0, opn := bitN tag 12, part := p,
              slots := if form = 0 then [] else (List.range 64).map (fun n => leAt bs (64 + 16 * n) 16) }

/-- One image merged into a row by the first case of R193 that applies; none for an empty image. -/
def TarnRow.mergeImage (r im : TarnRow) : Option (TarnRow × Nat) :=
  if im.form = 0 then none
  else if r.form = 0 then some (im, 0)
  else
    let l := (List.range 64).map (fun n =>
      if im.form = 1 then (slotOf (r.slot n)).addSlot r.anchor (slotOf (im.slot n)) im.anchor
      else (slotOf (r.slot n)).addend r.anchor (ofF32 (fldN (im.slot n) 0 32)))
    some ({ r with slots := l.map (fun y => y.slot.word) }, l.foldl (fun a y => flOr a y.flags) 0)

/-- A fill or merge (R175, R191 to R193): the images in turn, stopped by the first failing one, which marks every named
row as NaN. -/
def State.outImages (s : State) (g : GCtx) (x : OutD) : UnitOut :=
  let rows := s.outRowsOf g x
  let step := fun (a : Nat × Nat × Nat × List Nat × State) (r : Nat × Nat) =>
    let (code, _, fl, wrote, s) := a
    if code != 0 then a
    else
      let at_ := x.outPva + r.1 * 1088
      let (rd, s) := s.readPva g.ctx at_ 1088
      if rd.fault || rd.poison then (rd.code 0x27 0x28, rd.pva, fl, wrote, s)
      else match imageRow? g.part rd.bytes with
        | none => (0x29, 0, fl, wrote, s)
        | some im =>
          if x.op = 5 then (0, 0, fl, wrote ++ [r.2], s.setRow g.core r.2 im)
          else match (s.tarnRow g.core r.2).mergeImage im with
            | none => (0, 0, fl, wrote, s)
            | some (y, f) => (0, 0, flOr fl f, wrote ++ [r.2], s.setRow g.core r.2 y)
  let (code, pva, fl, wrote, s) := ((List.range rows.length).zip rows).foldl step (0, 0, 0, [], s)
  if code = 0 then ⟨0, fl, false, s.closeRows g wrote⟩
  else
    let s := rows.foldl (fun s r => s.setRow g.core r ((s.tarnRow g.core r).markNan false 0)) s
    ⟨code, fl, false, (s.closeRows g rows).outFault g code pva 0⟩

/-- Rows emptied, with OPEN by the grain's CARRY (R169, R191). -/
def State.outEmpty (s : State) (g : GCtx) (rows : List Nat) : State :=
  (rows.foldl (fun s r => s.setRow g.core r TarnRow.empty) s).closeRows g rows

/-- The tile rows that the first n output units of a grain read: one per logical row and N tile. -/
def State.outTileRows (s : State) (g : GCtx) (x : OutD) (segs : List Nat) (n : Nat) : List Nat :=
  (x.rowsRead segs n).flatMap (fun m => (List.range x.nt).map (fun j => s.outRow g x m j))

/-- An output grain run to its end: what it reads stops at the first line that fails, what the rows before it gave stands, and the rows
keep their slots then whatever CLEAR holds (R175; notes/assumptions/104.md). Router records go to the dispatch engine's core side, which
hands them on as its token slot credits allow (R188). -/
def State.outRun (s : State) (g : GCtx) (d : Nat) (segs : List Nat) : UnitOut :=
  let x := s.outOf g.part d
  let rows := s.outRowsOf g x
  if x.op = 7 then ⟨0, 0, false, s.outEmpty g rows⟩
  else if x.op = 5 || x.op = 6 then s.outImages g x
  else if x.op = 4 then
    let (bad, s') := s.writeAll g.ctx (((List.range rows.length).zip rows).map (fun r =>
      (x.outPva + r.1 * 1088, rowImage r.2 (s.tarnRow g.core r.2))))
    let s' := s'.add F.pRowsOut rows.length g.part
    match bad with
    | some a => ⟨0x27, 0, false, s'.outFault g 0x27 a 0⟩
    | none => ⟨0, 0, false, s'⟩
  else
    let (v, s) := s.outVecs g x
    let n := if v.code = 0 then x.every else x.unitsAt segs v.ready
    let read := s.outTileRows g x segs n
    let (ps, rs, fl) : List (Nat × List Byte) × List RouterRec × Nat :=
      if x.ranks then s.outRank g x v segs n
      else
        let (ps, f) := s.outPieces g x v segs n
        (ps, [], f)
    let s := s.add F.pRowsOut read.length g.part
    let (bad, s) := s.writeAll g.ctx ps
    match bad with
    | some a => ⟨0x27, fl, false, s.outFault g 0x27 a 0⟩
    | none =>
      let s := { s with routers := s.routers ++ rs }
      if v.code != 0 then ⟨v.code, fl, false, s.outFault g v.code v.pva (x.rowsDone segs n)⟩
      else ⟨0, fl, false, if x.clear then s.outEmpty g read else s⟩

end Sys2Proof.Machine
end

