-- ==== Sys2Proof/Machine/Frames.lean ====
section
/-! DEFINITION. The bytes of the frames the module sends (10_network_ports.md, R357 to R360, R362, R365; 11_gnoxel_transport.md, R377):
addresses, Gnoxel headers and bodies, PTP messages, and the IP header and checksums a port writes once the last field stands. -/
namespace Sys2Proof.Machine

/-- A number in n bytes, highest first. -/
def beBytes (n x : Nat) : List Byte := (leBytes n x).reverse

/-! ## Addresses (R358, R359) -/

/-- Whether a port has an address of a family: 4 for IPv4, 6 for IPv6 (R358, R359). -/
def State.hasFamily (s : State) (n : Nat) (v6 : Bool) : Bool :=
  if v6 then bitN (s.rd F.npIpMode n) 1 && (List.range 4).any (fun i => s.rd F.npIpv6 n i != 0)
  else bitN (s.rd F.npIpMode n) 0 && s.rd F.npIpv4 n != 0

/-- An IPv4 address in IPv4-mapped form. -/
def mapped4 (a : Nat) : Nat := 0xFFFF * 2 ^ 32 + a

/-- A port's address of a family as a 128-bit number, first byte highest. -/
def State.portAddr (s : State) (n : Nat) (v6 : Bool) : Nat :=
  if v6 then (List.range 4).foldl (fun a i => a * 2 ^ 32 + s.rd F.npIpv6 n i) 0 else mapped4 (s.rd F.npIpv4 n)

/-- Whether an address is IPv6, not IPv4-mapped. -/
def isV6 (a : Nat) : Bool := a / 2 ^ 32 != 0xFFFF

/-! ## Gnoxel packets (Tables 11-2, 11-3, 11-6 to 11-8) -/

/-- The UDP port of Gnoxel (R377). -/
def gnxPort : Nat := 47329

/-- A Gnoxel header as its 32 bytes (Table 11-2). -/
def GnxHead.bytes (h : GnxHead) : List Byte :=
  leBytes 1 h.ver ++ leBytes 1 h.type ++ leBytes 1 (b2n h.last + 2 * b2n h.enc + 4 * b2n h.solicit) ++ leBytes 1 h.path ++
    leBytes 2 h.dcid ++ leBytes 2 h.scid ++ leBytes 4 h.pkey ++ leBytes 4 h.psn ++ leBytes 3 h.msn ++ [0] ++ leBytes 4 h.offset ++
    leBytes 2 h.plen ++ [0, 0] ++ leBytes 4 h.tstamp

/-- Fields of given widths in bytes, one after another. -/
def fieldBytes : List Nat → List Nat → List Byte
  | w :: ws, x :: xs => leBytes w x ++ fieldBytes ws xs
  | _, _ => []

/-- The widths of an OPEN's fields for k addresses: the range, MTU, MODE, ENC, NPATH, their number, the addresses, both partitions and the
nonce (Table 11-3 gives no layout: notes/assumptions/108.md). -/
def openWidths (k : Nat) : List Nat := [2, 2, 1, 1, 1, 1] ++ List.replicate k 16 ++ [4, 4, 16]

/-- The body of a control packet from its fields (Tables 11-3, 11-6, 11-7). -/
def ctlBytes (type : Nat) (words : List Nat) : List Byte :=
  match type with
  | 2 => fieldBytes [4, 32, 8, 8, 8, 8, 4, 3] words ++ List.replicate 21 0
  | 3 => fieldBytes [8, 8, 8, 8] words
  | 4 => fieldBytes (openWidths (words.length - 9)) words
  | 5 => fieldBytes [8, 4, 4, 16, 16] words
  | 7 => fieldBytes [16, 8] words
  | 8 => fieldBytes [4, 4, 4, 4] words
  | 10 => fieldBytes [4, 4, 8] words
  | _ => fieldBytes [8] words

/-! ## Cluster-control messages (Table 13-3) -/

/-- The body fields of a cluster-control message: digests and roots are 64 bytes wide, every other field 8. -/
def clusterBody (kind : Nat) (words : List Nat) : List Byte :=
  if kind = 4 then fieldBytes [8, 8, 64] words
  else if kind = 7 then fieldBytes ([8, 8, 8] ++ List.replicate (words.length - 3) 64) words
  else fieldBytes (List.replicate words.length 8) words

/-- A cluster-control message: the 48-byte header (MVER, KIND, SRC, JOB_ID, EPOCH, STEP_NO) and its body. -/
def clusterBytes (kind : Nat) (words : List Nat) : List Byte :=
  [0x10] ++ leBytes 1 kind ++ leBytes 1 (nthD words 0 0) ++ List.replicate 5 0 ++ fieldBytes [8, 8, 8] (words.drop 1) ++
    List.replicate 16 0 ++ clusterBody kind (words.drop 4)

/-! ## PTP messages (R52, R53, R365, R366; IEEE 1588-2019, notes/assumptions/109.md) -/

/-- messageType of the messages the module sends. -/
def ptpSync : Nat := 0
def ptpDelayReq : Nat := 1
def ptpPdelayReq : Nat := 2
def ptpPdelayResp : Nat := 3
def ptpDelayResp : Nat := 9
def ptpAnnounce : Nat := 11

/-- A port's identity: the clock's from the MAC address of NP0, and the port's number. -/
def State.portIdentity (s : State) (n : Nat) : List Byte :=
  let mac := s.rd F.npMacL 0 + 2 ^ 32 * s.rd F.npMacH 0
  beBytes 3 (mac / 2 ^ 24) ++ [0xFF, 0xFE] ++ beBytes 3 mac ++ beBytes 2 (n + 1)

/-- A PTP timestamp: seconds and nanoseconds. -/
def ptpStamp (ns : Nat) : List Byte := beBytes 6 (ns / 10 ^ 9) ++ beBytes 4 (ns % 10 ^ 9)

/-- controlField of a messageType. -/
def ptpControl (type : Nat) : Nat := if type = ptpSync then 0 else if type = ptpDelayReq then 1 else if type = ptpDelayResp then 3 else 5

/-- A PTP message: its common header, then its body. -/
def State.ptpBytes (s : State) (n type seq : Nat) (body : List Byte) : List Byte :=
  leBytes 1 type ++ [2] ++ beBytes 2 (34 + body.length) ++ leBytes 1 (s.rd F.cadDomain) ++ List.replicate 15 0 ++ s.portIdentity n ++
    beBytes 2 seq ++ leBytes 1 (ptpControl type) ++ [0] ++ body

/-- clockClass the unit announces (R53, R60): 255 while GM_ALLOW is 0, else 6 with seconds from TICK_PPS_IN and 248 without. -/
def State.clockClass (s : State) : Nat := if s.rd F.cadGmAllow = 0 then 255 else if s.time.ppsMaster then 6 else 248

/-- The body of an Announce: priorities 128, the clock's quality and identity. -/
def State.announceBody (s : State) : List Byte :=
  List.replicate 13 0 ++ [128] ++ leBytes 1 s.clockClass ++ [0xFE, 0xFF, 0xFF, 128] ++ (s.portIdentity 0).take 8 ++ [0, 0, 0xA0]

/-- Where a PTP message goes by its encapsulation: peer delay messages to the group that is not forwarded. -/
def ptpGroup (v6 peer : Bool) : Nat :=
  if v6 then (if peer then 0xFF02 * 2 ^ 112 + 0x6B else 0xFF0E * 2 ^ 112 + 0x181)
  else mapped4 (if peer then 0xE000006B else 0xE0000181)

/-! ## The IP header and the checksums (R357, R358, R360) -/

/-- The sum of 16-bit words, highest byte first, an odd last byte filled with zero. -/
def wordSum : List Byte → Nat
  | [] => 0
  | [a] => 256 * a.toNat
  | a :: b :: r => 256 * a.toNat + b.toNat + wordSum r

/-- The internet checksum of a byte string: the complement of its ones' complement sum. -/
def inetSum (bs : List Byte) : Nat :=
  let t := wordSum bs
  65535 - (if t = 0 then 0 else (t - 1) % 65535 + 1)

/-- The header checksum of an IPv4 header with no options, DF set and identification 0, before a payload of n bytes. -/
def ip4Sum (src dst tos hops proto n : Nat) : Nat :=
  inetSum ([0x45] ++ leBytes 1 tos ++ beBytes 2 (20 + n) ++ [0, 0, 0x40, 0] ++ leBytes 1 hops ++ leBytes 1 proto ++ [0, 0] ++
    beBytes 4 src ++ beBytes 4 dst)

/-- The pseudo-header a UDP checksum runs over. -/
def pseudoHead (v6 : Bool) (src dst n : Nat) : List Byte :=
  if v6 then beBytes 16 src ++ beBytes 16 dst ++ beBytes 4 n ++ [0, 0, 0, 17] else beBytes 4 src ++ beBytes 4 dst ++ [0, 17] ++ beBytes 2 n

/-- The UDP checksum of a datagram; one that comes out as zero goes as all ones (R360). -/
def udpSum (v6 : Bool) (src dst sport dport : Nat) (payload : List Byte) : Nat :=
  let n := 8 + payload.length
  let c := inetSum (pseudoHead v6 src dst n ++ beBytes 2 sport ++ beBytes 2 dport ++ beBytes 2 n ++ [0, 0] ++ payload)
  if c = 0 then 65535 else c

/-- DSCP of queue q of a port. -/
def State.dscp (s : State) (n q : Nat) : Nat := s.rd (nthD [F.npDscp0, F.npDscp1, F.npDscp2, F.npDscp3] (q % 4) F.npDscp0) n (q / 4)

/-- The IP header of a frame of queue q from port n to dst: DSCPq with the ECN bits, HOPS, and the checksums of IPv4 and UDP. -/
def State.ipOf (s : State) (n q dst ecn proto len : Nat) (udp : Option (Nat × Nat × List Byte)) : IpHead :=
  let v6 := isV6 dst
  let src := s.portAddr n v6
  let tos := 4 * s.dscp n q + ecn
  let hops := s.rd F.npHops n
  { v6 := v6, src := src, dst := dst, tos := tos, hops := hops, proto := proto,
    headSum := if v6 then none else some (ip4Sum (src % 2 ^ 32) (dst % 2 ^ 32) tos hops proto len),
    udp := udp.map (fun u => (u.1, u.2.1, udpSum v6 src dst u.1 u.2.1 u.2.2)) }

/-- A UDP datagram's header. -/
def State.udpOf (s : State) (n q dst ecn sport dport : Nat) (payload : List Byte) : IpHead :=
  s.ipOf n q dst ecn 17 (8 + payload.length) (some (sport, dport, payload))

/-- ECN of a Gnoxel packet: DATA goes as ECT(0) (R402). -/
def ecnOf (h : GnxHead) : Nat := if h.type = 1 then 2 else 0

/-- The IP header of a frame, where it is an IP frame. -/
def State.ipHead (s : State) (f : TxFrame) : Option IpHead :=
  match f.body with
  | .gnx dst sport h body tag => some (s.udpOf f.port f.queue dst (ecnOf h) sport gnxPort (h.bytes ++ body ++ tag))
  | .cluster dst kind ofs n words =>
    some (s.udpOf f.port f.queue dst 2 (Config.firmwarePort (nthD words 0 0)).toNat gnxPort
      (leBytes 32 (Config.firmwareHead (nthD words 0 0)).toNat ++ bytesAt (clusterBytes kind (words.drop 1)) ofs n))
  | .ptp kind bytes =>
    let enc := s.rd F.npPtpEnc f.port
    let peer := kind = ptpPdelayReq || kind = ptpPdelayResp
    let port := if kind ≤ 3 then 319 else 320
    if enc = 2 then none else some (s.udpOf f.port f.queue (ptpGroup (enc == 1) peer) 0 port port bytes)
  | .responder 2 words => some (s.ipOf f.port f.queue (nthD words 3 0) 0 58 32 none)
  | .responder 3 words => some (s.ipOf f.port f.queue (nthD words 0 0) 0 (if isV6 (nthD words 0 0) then 58 else 1) (nthD words 1 0) none)
  | .responder 4 words =>
    let dst := nthD words 0 0
    if isV6 dst then some (s.ipOf f.port f.queue (0xFF02 * 2 ^ 112 + 0x1FF * 2 ^ 24 + dst % 2 ^ 24) 0 58 32 none) else none
  | _ => none

/-- The VLAN of a frame (R362, Table 10-4): firmware's traffic and port test frames carry MAINT_VID, every other frame none. -/
def State.vidOf (s : State) (f : TxFrame) : Option Nat :=
  match f.body with
  | .cluster _ _ _ _ _ => some (s.rd F.npMaintVid f.port)
  | .portCtl kind _ _ _ => if kind = 6 || kind = 7 then some (s.rd F.npMaintVid f.port) else none
  | _ => none

/-! ## Cluster time -/

/-- Cluster time in ns, read anew: the boundary or whole second last passed, and a free time since (notes/assumptions/110.md). -/
def State.clock (s : State) : Nat × State :=
  let (k, s) := s.fresh
  (s.net.now + (Config.lapse k).toNat, s)

/-- The fields a port writes in flight (R365, R367): the origin time of a one-step Sync, and the time of a tick beacon since its boundary. -/
def State.inFlight (s : State) (f : TxFrame) : TxFrame × State :=
  match f.body with
  | .portCtl 5 neww bound _ =>
    let (k, s) := s.fresh
    ({ f with body := .portCtl 5 neww bound (Config.lapse k).toNat }, s)
  | .ptp 0 bytes =>
    let (t, s) := s.clock
    ({ f with body := .ptp 0 (bytes.take 34 ++ ptpStamp t ++ bytes.drop 44) }, s)
  | _ => (f, s)

end Sys2Proof.Machine
end

