-- ==== Sys2Proof/Machine/Net.lean ====
section
/-! DEFINITION. The network ports (10_network_ports.md): frames sent and received, modes, lane shedding and parking. -/
namespace Sys2Proof.Machine

def State.nport (s : State) (n : Nat) : NPort := tgetD s.net.ports n NPort.init

def State.modNport (s : State) (n : Nat) (f : NPort → NPort) : State :=
  { s with net := { s.net with ports := tput s.net.ports n (f (s.nport n)) } }

/-- An event of this chapter, at most one of each type per port per tick (R376). -/
def State.portEvent (s : State) (n type : Nat) (words : List Nat) : State :=
  if (s.nport n).events.contains type then s
  else (s.modNport n (fun p => { p with events := p.events ++ [type] })).eventAll type words

/-- The port link event (Table 10-8): causes 1 link up, 2 link down, 3 partner found, 4 partner lost, 5 mode change,
6 FEC uncorrectable. -/
def State.linkEvent (s : State) (n cause count : Nat) : State :=
  s.portEvent n 0x18 [n, cause, s.rd F.npPmode n, s.rd F.npWidth n, count]

/-- The port width event (Table 10-8): causes 1 narrowed, 2 widened, 3 refused, 4 relock failed, 5 parked, 6 unparked. -/
def State.widthEvent (s : State) (n cause old new : Nat) : State :=
  s.portEvent n 0x19 [n, s.rd F.npPgroup n, cause, old, new, s.tick]

/-- PMODE encodings (R353). -/
def pmDown : Nat := 0
def pmMaint : Nat := 1
def pmService : Nat := 2

/-- The lanes of a SPEED (Table 10-1). -/
def lanesOf (speed : Nat) : Nat :=
  match speed with
  | 1 => 1
  | 2 => 2
  | 3 => 4
  | 4 => 8
  | _ => 0

/-- PMODE of a port set, with its event when it changes (R353). -/
def State.setPmode (s : State) (n m : Nat) : State :=
  if s.rd F.npPmode n = m then s else (s.wr F.npPmode m n).linkEvent n 5 0

/-- A frame on the wire: the fields written in flight, its counts, and the model's record of it with the tag and the checksums it leaves
with (R360, R362). -/
def State.putWire (s : State) (f : TxFrame) : State :=
  let (f, s) := s.inFlight f
  let s := (s.add F.npTxf 1 f.port).inc F.npTxq 1 f.port f.queue
  let b := (s.nport f.port).txBytes + f.len
  let s := s.modNport f.port (fun p => { p with txNow := p.txNow + f.len, txBytes := b })
  let s := s.wr F.npTxMib (capN (2 ^ 32 - 1) (b / 2 ^ 20)) f.port
  { s with net := { s.net with sent := s.net.sent ++ [⟨f, s.vidOf f, s.ipHead f⟩] } }

/-- Whether a frame may be sent in the port's mode (R352, R353, Table 10-4): partition traffic in service only. -/
def State.maySend (s : State) (n : Nat) (partition : Bool) : Bool :=
  s.flag F.npLink n && s.flag F.npPseal n && (if partition then s.rd F.npPmode n == pmService else s.rd F.npPmode n != pmDown)

/-- A frame into a transmit queue of a port: it leaves at once, or waits while the port holds its queues (R370). -/
def State.enqueue (s : State) (f : TxFrame) : State :=
  if (s.nport f.port).held then s.modNport f.port (fun p => { p with queued := p.queued ++ [f] }) else s.putWire f

/-- The next hop of a frame that a neighbour table resolves: the unicast destination of a packet, a message or an echo reply. -/
def TxFrame.hop (f : TxFrame) : Option Nat :=
  match f.body with
  | .gnx dst _ _ _ _ => some dst
  | .cluster dst _ _ _ _ => some dst
  | .responder 3 words => some (nthD words 0 0)
  | _ => none

/-- A next hop that is not in the neighbour table asked for once, by ARP or Neighbor Solicitation (R358); the frame itself does not wait
for the answer (notes/assumptions/111.md). -/
def State.resolveHop (s : State) (n : Nat) (f : TxFrame) : State :=
  match f.hop with
  | none => s
  | some a =>
    let p := s.nport n
    if thas p.neighbours a || p.soliciting.contains a then s
    else (s.modNport n (fun p => { p with soliciting := p.soliciting ++ [a] })).enqueue
      ⟨n, 0, if isV6 a then 90 else 64, noPart, .responder 4 [a, s.rd F.npMacL n, s.rd F.npMacH n]⟩

/-- The hub whose Gnoxel engine a frame of a channel comes from (R379): 0 for HD2, 1 for HD3. -/
def TxFrame.hub (f : TxFrame) : Option Nat :=
  match f.body with
  | .gnx _ _ h _ _ => some (h.scid % 2)
  | _ => none

/-- Whether the fabric stop of HD2 (0) or HD3 (1) is in reset: what its Gnoxel engine would send or take is held (Table 17-6). -/
def State.hubStopped (s : State) (h : Nat) : Bool := bitN (s.rd F.rstFabInr) (10 + h)

/-- A frame given to a port to send. A port whose mode does not allow it sends nothing, and one of a hub whose stop is in reset waits. -/
def State.xmit (s : State) (partition : Bool) (f : TxFrame) : State :=
  if (f.hub.map s.hubStopped).getD false then { s with net := { s.net with heldTx := s.net.heldTx ++ [f] } }
  else if !s.maySend f.port partition then s
  else (s.resolveHop f.port f).enqueue f

/-- Frames in turns: one of each partition that has any, in the order of their first frames, then again (R356), for n turns. -/
def partTurns : Nat → List TxFrame → List TxFrame
  | 0, _ => []
  | n + 1, l =>
    let firsts := ((l.map (fun f => f.part)).eraseDups).filterMap (fun p => l.find? (fun f => f.part == p))
    firsts ++ partTurns n (firsts.foldl List.erase l)

/-- The order a port sends its queued frames in (R356): the highest queue first; queues 0 to 5 take one frame of each partition in turn. -/
def sendOrder (l : List TxFrame) : List TxFrame :=
  (List.range 8).reverse.flatMap (fun k =>
    let q := l.filter (fun f => f.queue == k)
    if k ≤ 5 then partTurns q.length q else q)

/-- The queued frames of a port sent. -/
def State.resumeQueues (s : State) (n : Nat) : State :=
  let q := (s.nport n).queued
  (sendOrder q).foldl State.putWire (s.modNport n (fun p => { p with held := false, queued := [] }))

/-- Whether a transmit queue of 256 KiB has no room for n bytes more (R356): its producers wait. -/
def State.queueFull (s : State) (n q bytes : Nat) : Bool :=
  let p := s.nport n
  p.held && decide (256 * 1024 < sumOf ((p.queued.filter (fun f => f.queue == q)).map (fun f => f.len)) + bytes)

/-- A port-control frame (Table 10-5). -/
def State.sendPortCtl (s : State) (n kind neww bound seq : Nat) : State :=
  s.xmit false ⟨n, if kind = 6 || kind = 7 then 0 else 7, 64, noPart, .portCtl kind neww bound seq⟩

/-- The ports in service that take packets, with an address of a family, ascending (R385, R373). -/
def State.servicePorts (s : State) (v6 : Bool) : List Nat :=
  (List.range 8).filter (fun n => s.rd F.npPmode n == pmService && s.flag F.npLink n && !s.flag F.npParked n &&
    (s.nport n).parking.isNone && s.hasFamily n v6)

/-! ## Lane shedding and parking (R368 to R374) -/

/-- Bytes w lanes carry in one tick, one way. -/
def State.laneBytes (s : State) (w : Nat) : Nat := w * 12500 * s.rd F.cadTickLen

/-- Whether the port sheds at all: PARTNER, SHED_EN, an 800 or 400 Gb/s mode, in service (R368, R371). -/
def State.sheds (s : State) (n : Nat) : Bool :=
  s.flag F.npPartner n && s.flag F.npShedEn n && 3 ≤ s.rd F.npSpeed n && s.rd F.npPmode n == pmService

/-- The narrow judgement (R368) over the last SHED_WIN ticks. -/
def State.judgesNarrow (s : State) (n : Nat) : Bool :=
  let w := s.rd F.npWidth n
  let k := s.rd F.npShedWin n
  let lim := s.rd F.npShedLo n * s.laneBytes (w / 2) * k
  let p := s.nport n
  s.sheds n && 2 ≤ w / 2 && k ≤ p.txWin.length && 100 * sumOf (p.txWin.take k) < lim && 100 * sumOf (p.rxWin.take k) < lim

/-- The widen judgement (R368) of the tick just ended. -/
def State.judgesWiden (s : State) (n : Nat) : Bool :=
  let w := s.rd F.npWidth n
  let p := s.nport n
  let lim := s.rd F.npRiseHi n * s.laneBytes w
  s.sheds n && w < lanesOf (s.rd F.npSpeed n) && (lim < 100 * p.txNow || lim < 100 * p.rxNow ||
    (List.range 7).any (fun q => 128 * 1024 < sumOf ((p.queued.filter (fun f => f.queue == q)).map (fun f => f.len))))

/-- The ports of a parking group: PARK_EN 1 and PARTNER 0. -/
def State.parkGroup (s : State) (g : Nat) : List Nat :=
  (List.range 8).filter (fun n => s.flag F.npParkEn n && !s.flag F.npPartner n && s.rd F.npPgroup n == g)

/-- A parked port set to train again (R374). -/
def State.unpark (s : State) (n : Nat) : State := s.modNport n (fun p => { p with unparking := true })

/-- The lowest parked port of a group set to train, if any. -/
def State.unparkGroup (s : State) (g : Nat) : State :=
  match (s.parkGroup g).find? (fun n => s.flag F.npParked n && !(s.nport n).unparking) with
  | none => s
  | some n => s.unpark n

/-- The traffic of the tick just ended taken into a port's window. -/
def State.portTally (s : State) (n : Nat) : State :=
  s.modNport n (fun p => { p with txWin := (p.txNow :: p.txWin).take 4096, rxWin := (p.rxNow :: p.rxWin).take 4096 })

/-- What a tick boundary does at a port (R368, R369, R376): uncorrectable codewords of the tick just ended give an event, and its width is
judged on the window and the tick just ended. -/
def State.portBoundary (s : State) (n : Nat) : State :=
  let p := s.nport n
  let s := if p.fecUnc = 0 then s else s.linkEvent n 6 p.fecUnc
  let s :=
    if p.asked.isSome || p.change.isSome then s
    else
      let ask := fun (s : State) (w : Nat) =>
        (s.modNport n (fun p => { p with asked := some (w, s.tick + 2, s.tick), reqSeq := p.reqSeq + 1 })).sendPortCtl n 2 w (s.tick + 2)
          (p.reqSeq + 1)
      if s.judgesWiden n then ask s (2 * s.rd F.npWidth n)
      else if s.judgesNarrow n then ask s (s.rd F.npWidth n / 2)
      else s
  s.modNport n (fun p => { p with txNow := 0, rxNow := 0, events := [], fecUnc := 0 })

/-- Parking and unparking of a group at a boundary (R372, R374): the answer names the port it decides to park. -/
def State.groupBoundary (s : State) (g : Nat) : Option Nat × State :=
  let ms := s.parkGroup g
  let up := ms.filter (fun n => !s.flag F.npParked n && (s.nport n).parking.isNone)
  let minUp := maxOf (ms.map (fun n => s.rd F.npParkMin n))
  let capOf := fun l => sumOf (l.map (fun n => s.laneBytes (s.rd F.npWidth n)))
  let hi := maxOf (ms.map (fun n => s.rd F.npRiseHi n))
  let now := fun (f : NPort → Nat) => sumOf (up.map (fun n => f (s.nport n)))
  if ms = [] then (none, s)
  else if hi * capOf up < 100 * now (fun p => p.txNow) || hi * capOf up < 100 * now (fun p => p.rxNow) then (none, s.unparkGroup g)
  else match up.getLast? with
    | none => (none, s)
    | some n =>
      let k := s.rd F.npShedWin n
      let rest := up.filter (fun x => x != n)
      let lim := s.rd F.npShedLo n * capOf rest * k
      let win := fun (f : NPort → List Nat) => sumOf (up.map (fun n => sumOf ((f (s.nport n)).take k)))
      if minUp < up.length && n != s.rd F.cadPortNow && ms.all (fun x => s.flag F.npParked x || s.rd F.npPmode x == pmService) &&
          k ≤ (s.nport n).txWin.length && 100 * win (fun p => p.txWin) < lim && 100 * win (fun p => p.rxWin) < lim then
        (some n, s.modNport n (fun p => { p with parking := some s.tick }))
      else (none, s)

/-! ## Commands -/

/-- HELLO_SEND (R354). -/
def execHelloSend (n : NetPort) (s : State) : Host.Outcome State Fault Refusal :=
  finish (if s.flag F.npLink n then s.sendPortCtl n 1 0 0 0 else s)

/-- HELLO_RX (R354): an Ebquel hello sets PARTNER. -/
def execHelloRx (n : NetPort) (vendor : BitVec 16) (s : State) : Host.Outcome State Fault Refusal :=
  if s.flag F.npLink n && vendor == 0xEB9C then
    let found := !s.flag F.npPartner n
    let s := (s.wr F.npPartner 1 n).modNport n (fun p => { p with lastHello := s.tick })
    finish (if found then s.linkEvent n 3 0 else s)
  else finish s

/-- PARTNER_TIMEOUT (R354): 3 s without a hello. -/
def execPartnerTimeout (n : NetPort) (s : State) : Host.Outcome State Fault Refusal :=
  finish (if s.flag F.npPartner n then (s.wr F.npPartner 0 n).linkEvent n 4 0 else s)

/-- WIDTH_REQUEST_RX (R369): a widen is accepted at once, a narrow when the port's own judgement holds; of crossing
requests a widen prevails, and between equal ones the later BOUND. -/
def execWidthRequestRx (n : NetPort) (neww : Fin 9) (bound : DWord) (seq : Word) (s : State) : Host.Outcome State Fault Refusal :=
  let w := s.rd F.npWidth n
  let b := bound.toNat
  if !s.flag F.npPartner n then finish s
  else
    let take := fun (s : State) (b : Nat) =>
      (s.modNport n (fun p => { p with change := some (neww.val, b), asked := none })).sendPortCtl n 3 neww b seq.toNat
    match (s.nport n).asked with
    | some (mine, mb, _) =>
      if mine = neww.val then finish (take s (Nat.max b mb))
      else if w < mine && neww.val < w then finish (s.sendPortCtl n 4 neww b seq.toNat)
      else finish (take s b)
    | none =>
      if w < neww.val || s.judgesNarrow n then finish (take s b) else finish (s.sendPortCtl n 4 neww b seq.toNat)

/-- WIDTH_ACCEPT_RX (R369): the change is set for BOUND. -/
def execWidthAcceptRx (n : NetPort) (s : State) : Host.Outcome State Fault Refusal :=
  match (s.nport n).asked with
  | none => finish s
  | some (w, b, _) => finish (s.modNport n (fun p => { p with asked := none, change := some (w, b) }))

/-- WIDTH_REFUSE_RX (R369). -/
def execWidthRefuseRx (n : NetPort) (s : State) : Host.Outcome State Fault Refusal :=
  match (s.nport n).asked with
  | none => finish s
  | some (w, _, _) => finish ((s.modNport n (fun p => { p with asked := none })).widthEvent n 3 (s.rd F.npWidth n) w)

/-- WIDTH_REPLY_TIMEOUT (R369): no reply within 1 tick leaves the width. -/
def execWidthReplyTimeout (n : NetPort) (s : State) : Host.Outcome State Fault Refusal :=
  match (s.nport n).asked with
  | none => finish s
  | some (_, _, t) => if t + 1 ≤ s.tick then finish (s.modNport n (fun p => { p with asked := none })) else finish s

/-- WIDTH_CHANGE (R370): at boundary BOUND the queues are held and the lanes change. -/
def execWidthChange (n : NetPort) (s : State) : Host.Outcome State Fault Refusal :=
  match (s.nport n).change with
  | none => finish s
  | some (_, b) => if b ≤ s.tick then finish (s.modNport n (fun p => { p with held := true })) else finish s

/-- PCS_RELOCK_COMPLETE (R370): the new width is in force and the queues resume. -/
def execPcsRelockComplete (n : NetPort) (s : State) : Host.Outcome State Fault Refusal :=
  match (s.nport n).change with
  | none => finish s
  | some (w, _) =>
    if (s.nport n).held then
      let old := s.rd F.npWidth n
      let s := ((s.wr F.npWidth w n).inc F.npWchg 1 n).modNport n (fun p => { p with change := none })
      finish ((s.resumeQueues n).widthEvent n (if old < w then 2 else 1) old w)
    else finish s

/-- RELOCK_TIMEOUT (R370): the port retrains at full width; its queues wait for the link. -/
def execRelockTimeout (n : NetPort) (s : State) : Host.Outcome State Fault Refusal :=
  match (s.nport n).change with
  | none => finish s
  | some _ =>
    if (s.nport n).held then
      finish ((s.modNport n (fun p => { p with change := none })).widthEvent n 4 (s.rd F.npWidth n) (lanesOf (s.rd F.npSpeed n)))
    else finish s

/-- PORT_PARK (R373): a port that has been told to park, drained and quiet for 2 ticks, idles its lanes. -/
def execPortPark (n : NetPort) (s : State) : Host.Outcome State Fault Refusal :=
  let p := s.nport n
  match p.parking with
  | none => finish s
  | some t =>
    if p.queued = [] && t + 2 ≤ s.tick && p.lastRx + 2 ≤ s.tick then
      let old := s.rd F.npWidth n
      let s := ((((s.wr F.npParked 1 n).wr F.npLink 0 n).wr F.npWidth 0 n).wr F.npPmode pmDown n).inc F.npParks 1 n
      finish ((s.modNport n (fun p => { p with parking := none })).widthEvent n 5 old 0)
    else finish s

/-- A neighbour learned; the table keeps 256 entries (R358). -/
def NPort.learn (p : NPort) (ip mac tick : Nat) : NPort :=
  let p := { p with soliciting := p.soliciting.erase ip }
  if thas p.neighbours ip || p.neighbours.length < 256 then { p with neighbours := tput p.neighbours ip (mac, tick) } else p

/-- NEIGHBOUR_AGE_OUT (R358). -/
def execNeighbourAgeOut (n : NetPort) (ip : BitVec 128) (s : State) : Host.Outcome State Fault Refusal :=
  finish (s.modNport n (fun p => { p with neighbours := tdel p.neighbours ip.toNat }))

/-- ARP_REQUEST_RX (R358): the port answers for its own IPv4 address. -/
def execArpRequestRx (n : NetPort) (target : Word) (s : State) : Host.Outcome State Fault Refusal :=
  finish (if s.hasFamily n false && s.rd F.npIpv4 n = target.toNat then
    s.xmit false ⟨n, 0, 64, noPart, .responder 1 [target.toNat, s.rd F.npMacL n, s.rd F.npMacH n]⟩ else s)

/-- NEIGHBOR_SOLICITATION_RX (R358): the port answers for its own IPv6 address to the one that asked. -/
def execNeighborSolicitationRx (n : NetPort) (a : Solicit) (s : State) : Host.Outcome State Fault Refusal :=
  finish (if s.hasFamily n true && s.portAddr n true = a.target.toNat then
    s.xmit false ⟨n, 0, 90, noPart, .responder 2 [a.target.toNat, s.rd F.npMacL n, s.rd F.npMacH n, a.src.toNat]⟩ else s)

/-- ECHO_REQUEST_RX (R361, Table 10-3): an echo of at most 1,500 bytes is answered while ECHO_EN is 1, at most 100 a
second; any other is discarded into FILT_DROP. -/
def execEchoRequestRx (n : NetPort) (a : EchoAsk) (s : State) : Host.Outcome State Fault Refusal :=
  if s.flag F.npEchoEn n && a.len.toNat ≤ 1500 && (s.nport n).echoes < 100 then
    finish ((s.modNport n (fun p => { p with echoes := p.echoes + 1 })).xmit false ⟨n, 0, a.len.toNat, noPart, .responder 3 [a.src.toNat, a.len.toNat]⟩)
  else finish (s.inc F.npFiltDrop 1 n)

end Sys2Proof.Machine
end

