-- ==== Sys2Proof/Machine/Gnoxel.lean ====
section
/-! DEFINITION. Gnoxel channels (11_gnoxel_transport.md): packets and paths, opening and closing, messages and posted
buffers, acknowledgement and resending, rate and credit, violations, and what a tick boundary does to a channel. -/
namespace Sys2Proof.Machine

/-- The Gnoxel engine's code in events (Table 14-21). -/
def whoGnx : Nat := 0x106

/-- The field code of a transport field set to the null resource (R523); Table 0-7 gives its block. -/
def gnxNull : Nat := freeCode 6 0

/-- The channel handle of CID c: its generation above its number. -/
def Chan.handle (c : Chan) (cid : Nat) : Nat := cid + 2 ^ 16 * c.gen

def State.setChan (s : State) (cid : Nat) (c : Chan) : State := { s with net := { s.net with chans := tput s.net.chans cid c } }

def State.modChan (s : State) (cid : Nat) (f : Chan → Chan) : State := { s with net := { s.net with chans := tmod s.net.chans cid f } }

/-- The channel a handle of partition p names, with its CID. -/
def State.chan? (s : State) (p h : Nat) : Option (Nat × Chan) :=
  match tget? s.net.chans (h % 2 ^ 16) with
  | none => none
  | some c => if c.gen = h / 2 ^ 16 && c.part = p then some (h % 2 ^ 16, c) else none

/-- CHAN_OPEN as the channels stand. -/
def State.countChans (s : State) : State := s.wr F.gnxChanOpen (s.net.chans.filter (fun e => e.2.state == 2)).length

/-- A channel's CID freed; its next use takes a new generation (R389). -/
def State.delChan (s : State) (cid : Nat) : State :=
  let g := (tgetD s.net.gens cid 0 + 1) % 2 ^ 16
  ({ s with net := { s.net with chans := tdel s.net.chans cid, gens := tput s.net.gens cid g } }).countChans

/-- How many channels partition p holds (R382). -/
def State.chansOf (s : State) (p : Nat) : Nat := (s.net.chans.filter (fun e => e.2.part == p)).length

/-- A serial number of w bits read against a full count: the full count it stands for, none before the first (R390). -/
def unwrapN (w base x : Nat) : Option Nat :=
  let d := (x + 2 ^ w - base % 2 ^ w) % 2 ^ w
  if d < 2 ^ (w - 1) then some (base + d) else if base + d < 2 ^ w then none else some (base + d - 2 ^ w)

/-! ## Events and ends -/

/-- Causes of a channel event, in the order its table lists them (Table 11-13). -/
def chEstablished : Nat := 1
def chRefused : Nat := 2
def chTimedOut : Nat := 3
def chPeerClosed : Nat := 4
def chFailed : Nat := 5
def chNoPath : Nat := 6
def chWarm : Nat := 7

/-- The channel event (Table 11-13). -/
def State.chanEvent (s : State) (cid cause : Nat) : State :=
  match tget? s.net.chans cid with
  | none => s
  | some c => s.event 0x1A c.part [c.part, c.handle cid, c.peerPart, c.peerIp % 2 ^ 64, c.peerIp / 2 ^ 64, c.version, cause,
      c.posted, c.consumed, c.returned, c.msgStart, c.msgDone]

/-- The engine that hears of the end of what it sent (1 tier, 2 collective, 3 checkpoint), and whether it wants an
acknowledgement too: the tier engine waits for status messages instead. -/
def engineHears (e status : Nat) : Bool := (e == 1 && status != 0) || e == 2 || e == 3

/-- A send ends: its descriptor completes, or its engine is told. -/
def State.ownerEnd (s : State) (o : GnxOwner) (status result : Nat) : State :=
  match o with
  | .desc d => s.complete d status false result
  | .engine e k => if engineHears e status then { s with net := { s.net with ends := s.net.ends ++ [(e, k, status)] } } else s

/-- RESULT of a buffer's record: its bytes in [31:0] and its MSN in [55:32] (Table 11-4). -/
def bufResult (msn bytes : Nat) : Nat := bytes % 2 ^ 32 + msn % 2 ^ 24 * 2 ^ 32

/-- A posted buffer leaves its channel unconsumed with a status (R397, Table 11-9). -/
def State.returnBuf (s : State) (cid : Nat) (b : GnxBuf) (status : Nat) : State :=
  let s := s.modChan cid (fun c => { c with bufs := c.bufs.erase b, returned := c.returned + 1 })
  match b.owner with
  | .desc d => s.complete d status false (bufResult (b.bound.getD 0) 0)
  | .engine _ _ => s

/-- A send ends with a status; 0 is a message acknowledged complete (R390, R401). -/
def State.endSend (s : State) (cid : Nat) (m : TxMsg) (status : Nat) : State :=
  match tget? s.net.chans cid with
  | none => s
  | some c =>
    let s := s.setChan cid { c with
      sends := c.sends.filter (fun x => x.msn != m.msn), msgDone := if status = 0 then c.msgDone + 1 else c.msgDone }
    (if status = 0 then s.add F.pMsgTx 1 c.part else s).ownerEnd m.owner status 0

/-- Every send and every posted buffer of a channel ends: sends with st, bound buffers with stb, unbound ones with stu. -/
def State.endAll (s : State) (cid st stb stu : Nat) : State :=
  match tget? s.net.chans cid with
  | none => s
  | some c =>
    let s := c.sends.foldl (fun s m => s.endSend cid m st) s
    c.bufs.foldl (fun s b => s.returnBuf cid b (if b.bound.isSome then stb else stu)) s

/-! ## Paths (R385) -/

/-- Bytes of a Gnoxel frame from its Ethernet header to its FCS (Table 11-1). -/
def gnxFrame (v6 enc : Bool) (plen : Nat) : Nat := 18 + (if v6 then 40 else 20) + 8 + 32 + plen + (if enc then 16 else 0)

/-- MAX_PAY for the smaller MTU of the ends (R378). -/
def maxPayOf (m : Nat) (v6 enc : Bool) : Nat := Nat.min 4096 ((m - (gnxFrame v6 enc 0 - 18)) / 64 * 64)

/-- L of R385: the local ports of the channel. -/
def State.localPorts (s : State) (c : Chan) : List Nat := s.servicePorts (isV6 c.peerIp)

/-- A of R385: the peer's addresses not withdrawn, ascending; while an open is pending, PEER_IP. -/
def Chan.remotes (c : Chan) : List Nat :=
  if c.addrs = [] then [c.peerIp] else (c.addrs.filter (fun a => !c.withdrawn.contains a)).mergeSort

/-- The paths of a channel: path 0 alone on version 1.0. -/
def Chan.paths (c : Chan) : List Nat := if c.version = 0x10 then [0] else List.range c.npath

/-- The paths that do not rest in this tick; all of them when every path rests (R385). -/
def State.openPaths (s : State) (c : Chan) : List Nat :=
  let up := c.paths.filter (fun p => !(tget? c.rest p == some s.tick))
  if up = [] then c.paths else up

/-- The next path in round-robin order; avoid is passed over when another is open (R385, R401). -/
def State.pickPath (s : State) (c : Chan) (avoid : Option Nat) : Nat :=
  let up := s.openPaths c
  let l := up.filter (fun p => some p != avoid)
  let l := if l = [] then up else l
  ((l.find? (fun p => c.nextPath ≤ p)).orElse (fun _ => l.head?)).getD 0

/-- The source UDP port of path p (R385). -/
def srcPort (cid p : Nat) : Nat := 49152 + (cid * 64 + p) % 16384

/-! ## Packets and their cipher (R377, R381) -/

/-- The key of a direction of a channel (R381): KMAC256 under the slot's key with "GNX-PAY" over both CIDs and both open nonces, those of the
end with the lower nonce first, the direction bit, 0 from that end, and the epoch. -/
def Chan.dirKey (c : Chan) (cid : Nat) (mine : Bool) (epoch : Nat) : List Byte :=
  let low := decide (c.nonce < c.peerNonce)
  let ends := if low then [(cid, c.nonce), (c.peerCid, c.peerNonce)] else [(c.peerCid, c.peerNonce), (cid, c.nonce)]
  kmac256 (leBytes 32 c.key) (ends.flatMap (fun e => leBytes 2 e.1) ++ ends.flatMap (fun e => leBytes 16 e.2) ++
    leBytes 1 (b2n (mine != low)) ++ leBytes 8 epoch) (ascii "GNX-PAY") 32

/-- A packet's nonce (R381): its class, 0 for DATA and 1 for the rest, the PSN field, and 32 zero bits. -/
def GnxHead.nonce (h : GnxHead) : List Byte := leBytes 4 (if h.type = 1 then 0 else 1) ++ leBytes 4 h.psn ++ [0, 0, 0, 0]

/-- The payload or body of a packet as it travels, and its tag (R381): sealed with the header as additional data, or in clear. -/
def Chan.cipher (c : Chan) (cid : Nat) (mine : Bool) (epoch : Nat) (h : GnxHead) (plain : List Byte) : List Byte × List Byte :=
  if h.enc then gcmSeal (c.dirKey cid mine epoch) h.nonce h.bytes plain else (plain, [])

/-- The epoch a count of PSNs and one of control packets have brought a direction to (R381). -/
def epochOf (psn ctl : Nat) : Nat := psn / 2 ^ 32 + ctl / 2 ^ 32

/-- A packet of a channel sent from a port to an address, sealed or in clear: its header takes ENC, PLEN and cluster time (Table 11-2). -/
def State.sendPacket (s : State) (cid : Nat) (c : Chan) (port queue dst : Nat) (sealed : Bool) (h : GnxHead) (plain : List Byte) : State :=
  let (t, s) := s.clock
  let h := { h with enc := sealed, plen := plain.length, tstamp := t % 2 ^ 32 }
  let x := c.cipher cid true (epochOf c.nextPsn c.ctlPsn) h plain
  s.xmit (h.type != 3) ⟨port, queue, gnxFrame (isV6 dst) sealed plain.length, c.part,
    .gnx dst (srcPort cid h.path) h x.1 x.2⟩

/-- The header of a control packet of a channel (Table 11-2): it takes the next control sequence number. -/
def Chan.ctlHead (c : Chan) (cid type p dcid : Nat) : GnxHead :=
  { ver := c.version, type := type, last := false, enc := false, solicit := false, path := p, dcid := dcid, scid := cid, pkey := c.pkey,
    psn := c.ctlPsn % 2 ^ 32, msn := 0, offset := 0, plen := 0, tstamp := 0 }

/-- A control packet sent on path p of a channel; nothing is sent while L or A is empty (R387). The OPEN_ACK, which goes before the peer
need know both nonces, is in clear (notes/assumptions/108.md). -/
def State.sendCtl (s : State) (cid type p : Nat) (words : List Nat) : State :=
  match tget? s.net.chans cid with
  | none => s
  | some c =>
    let l := s.localPorts c
    let a := c.remotes
    match l[p % l.length]?, a[p % a.length]? with
    | some port, some dst =>
      (s.setChan cid { c with ctlPsn := c.ctlPsn + 1 }).sendPacket cid c port (if type = 3 then 7 else 5) dst (c.enc && type != 5)
        (c.ctlHead cid type p c.peerCid) (ctlBytes type words)
    | _, _ => s

/-- An OPEN of a pending channel, from the lowest port in service of the family (R383, Table 11-3): version range, MTU, MODE,
ENC, NPATH, addresses, partitions, nonce. It goes in clear, under the highest version of this end. -/
def State.sendOpen (s : State) (cid : Nat) : State :=
  match tget? s.net.chans cid with
  | none => s
  | some c =>
    match s.localPorts c with
    | [] => s
    | port :: r =>
      let addrs := (port :: r).map (fun n => s.portAddr n (isV6 c.peerIp))
      let words := [s.rd F.idGnxMin + 256 * s.rd F.idGnxMax, s.rd F.npMtu port, c.mode, b2n c.enc, c.npath, addrs.length] ++ addrs ++
        [c.part, c.peerPart, c.nonce]
      (s.setChan cid { c with ctlPsn := c.ctlPsn + 1 }).sendPacket cid c port 5 c.peerIp false
        { c.ctlHead cid 4 0 0 with ver := s.rd F.idGnxMax } (ctlBytes 4 words)

/-- An ACK on a path (R398, Table 11-6), echoing the TSTAMP that prompted it. -/
def State.sendAck (s : State) (cid p echo : Nat) : State :=
  match tget? s.net.chans cid with
  | none => s
  | some c =>
    let sack := maskOf ((c.seen.filter (fun x => c.cumPsn < x && x ≤ c.cumPsn + 256)).map (fun x => x - c.cumPsn - 1))
    let s := s.setChan cid { c with sinceAck := 0, bufs := c.bufs.map (fun b => { b with announced := true }) }
    s.sendCtl cid 2 p [c.cumPsn % 2 ^ 32, sack, c.posted, c.returned, c.rcvBytes, c.ceBytes, echo, c.rcvLow % 2 ^ 24]

/-- A CREDIT (Table 11-7). -/
def State.sendCredit (s : State) (cid : Nat) : State :=
  match tget? s.net.chans cid with
  | none => s
  | some c => s.sendCtl cid 3 0 [c.granted, c.slotTick, c.slotGranted, c.posted]

/-! ## Closing and failing (R386 to R389, R401) -/

/-- A channel fails (R401, R387): sends and buffers end with the status, a CLOSE goes out, the engines hear of it (code 5 of
net.ends, with the partition and handle), and the event tells. -/
def State.failChan (s : State) (cid status cause : Nat) : State :=
  let s := s.endAll cid status status status
  let s := s.sendCtl cid 6 0 [status]
  let s := match tget? s.net.chans cid with
    | none => s
    | some c => { s with net := { s.net with ends := s.net.ends ++ [(5, c.part + 64 * c.handle cid, status)] } }
  (s.chanEvent cid cause).delChan cid

/-- A channel closes (R388): sends end with st, buffers are returned, and CLOSE goes out until the peer's own CLOSE or 16
ticks. -/
def State.closeChan (s : State) (cid st : Nat) : State :=
  let s := s.endAll cid st st 0x0C
  let s := s.modChan cid (fun c => { c with state := 3, closeTick := s.tick })
  (s.sendCtl cid 6 0 [st]).countChans

/-- A warm reset closes every channel (R389); the module keeps whom to send one CLOSE to afterwards. -/
def State.warmCloseAll (s : State) : State :=
  s.net.chans.foldl (fun s e =>
    let s := match e.2.state, e.2.opener with
      | 1, some o => s.ownerEnd o 7 0
      | _, _ => s.endAll e.1 7 7 0x0C
    let s := (s.chanEvent e.1 chWarm).delChan e.1
    if e.2.state = 1 then s
    else { s with net := { s.net with former := s.net.former ++ [(e.1, { e.2 with sends := [], bufs := [], taken := [], msgs := [] })] } }) s

/-- One CLOSE to each former peer, once ports serve (R389). -/
def State.closeFormer (s : State) : State :=
  s.net.former.foldl (fun s f =>
    match s.localPorts f.2, f.2.remotes with
    | port :: _, dst :: _ =>
      { s with net := { s.net with former := s.net.former.erase f } }.sendPacket f.1 f.2 port 5 dst f.2.enc
        (f.2.ctlHead f.1 6 0 f.2.peerCid) (ctlBytes 6 [7])
    | _, _ => s) s

/-- Whether a channel uses a port (R385): some path of it falls on the port's place among the ports with it. -/
def State.chanUses (s : State) (c : Chan) (n : Nat) : Bool :=
  let l := ((s.localPorts c).filter (fun x => x < n)).length
  s.hasFamily n (isV6 c.peerIp) && decide (l < c.paths.length)

/-- ADDR on every channel that uses a port: withdrawn 1, restored 2 (R386). -/
def State.sendAddrs (s : State) (n kind : Nat) : State :=
  s.net.chans.foldl (fun s e =>
    if e.2.state = 2 && s.chanUses e.2 n then s.sendCtl e.1 7 0 [s.portAddr n (isV6 e.2.peerIp), kind] else s) s

/-! ## Opening (R382 to R384) -/

/-- A channel's settings, as a descriptor or an engine asks for them (Table 11-4). -/
structure ChanAsk where
  part : Nat
  cid : Nat
  peerPart : Nat
  queue : Nat
  mode : Nat
  enc : Bool
  kslot : Nat
  npath : Nat
  grantTick : Nat
  pkey : Nat
  peerIp : Nat
  deriving DecidableEq, Repr

/-- Whether R382 lets the open be consumed. -/
def State.mayOpen (s : State) (a : ChanAsk) : Bool :=
  decide (s.chansOf a.part < s.rd F.pChanMax a.part) && a.mode != 3 && decide (a.peerPart < 36) &&
    (a.cid == 0xFFFF || (decide (a.cid < 16384) && !thas s.net.chans a.cid)) && (!a.enc || (a.kslot != 0 && thas (s.part a.part).keys a.kslot))

/-- A pending channel opened, its first OPEN sent (R383). The answer is its CID. -/
def State.openChan (s : State) (a : ChanAsk) (o : GnxOwner) : Option Nat × State :=
  match (if a.cid = 0xFFFF then tfree s.net.chans 16384 else some a.cid) with
  | none => (none, s)
  | some cid =>
    let (k, s) := s.fresh
    let c : Chan :=
      { gen := tgetD s.net.gens cid 0, part := a.part, peerPart := a.peerPart, queue := a.queue, mode := a.mode, enc := a.enc,
        kslot := a.kslot, key := if a.enc then tgetD (s.part a.part).keys a.kslot 0 else 0,
        npath := a.npath, grantTick := a.grantTick, pkey := a.pkey, peerIp := a.peerIp, state := 1, version := 0,
        opener := some o, order := s.net.nextOrder, nonce := (Config.openNonce k).toNat, peerNonce := 0, peerCid := 0, peerLo := 0, peerHi := 0,
        ackSent := false, ackSeen := false, addrs := [], withdrawn := [], maxPay := 4096, posted := 0, consumed := 0, returned := 0,
        msgStart := 0, msgDone := 0, granted := 0, grantSeen := 0, used := 0, expired := 0, slotTick := 0, slotGranted := 0,
        slotSeen := 0, slotSeenTick := 0, slotNext := none, grantLeft := 0, peerPosted := 0, peerRet := 0, sends := [], nextMsn := 0, nextPsn := 0, cumAcked := 0,
        flights := [], nextPath := 0, rest := [], bufs := [], taken := [], msgs := [], rcvLow := 0, doneMsns := [], cumPsn := 0,
        seen := [], rcvBytes := 0, ceBytes := 0, sinceAck := 0, ctlPsn := 0, peerCtl := 0, rate := s.rd F.gnxRateInit * 1000, alpha := 0x3F800000,
        clean := 0, step := s.rd F.gnxAiStep * 1000, peerRcv := 0, peerCe := 0, lastRcv := 0, lastCe := 0, timedOut := false,
        budget := 0, srtt := s.rd F.gnxRtoMin * 1000, retx := 0, viols := [], violTick := none, stopped := false, closeTick := 0,
        pathAcked := [] }
    let s := { s with net := { s.net with nextOrder := s.net.nextOrder + 1, chans := tput s.net.chans cid c } }
    (some cid, s.sendOpen cid)

/-- A pending open ends unopened: its status, its event, and its CID free again (R384). -/
def State.refuseOpen (s : State) (cid status cause : Nat) : State :=
  match tget? s.net.chans cid with
  | none => s
  | some c =>
    let s := match c.opener with
      | none => s
      | some o => s.ownerEnd o status 0
    (s.chanEvent cid cause).delChan cid

/-- A byte budget for a tick at R Mb/s (R402). -/
def State.rateBudget (s : State) (rate : Nat) : Nat := rate * s.rd F.cadTickLen / 8

/-- A channel whose OPEN_ACK has gone and come is established (R383). -/
def State.establish (s : State) (cid : Nat) : State :=
  match tget? s.net.chans cid with
  | none => s
  | some c =>
    if c.state = 1 && c.ackSent && c.ackSeen then
      let s := s.setChan cid { c with state := 2, opener := none, budget := s.rateBudget c.rate }
      let s := match c.opener with
        | none => s
        | some o => s.ownerEnd o 0 (c.handle cid)
      let s := s.event 0x03 c.part [2, c.handle cid, s.rd F.idGnxMin + 256 * s.rd F.idGnxMax, c.peerLo + 256 * c.peerHi, c.version]
      (s.chanEvent cid chEstablished).countChans
    else s

/-! ## Sending (R390, R391, R399 to R405) -/

/-- OFFSET of the last packet of a message. -/
def lastOffset (len maxPay : Nat) : Nat := if len = 0 then 0 else (len - 1) / maxPay * maxPay

/-- The bytes of a packet at an offset. -/
def payLen (len maxPay ofs : Nat) : Nat := Nat.min maxPay (len - ofs)

/-- The packet a channel would send next: a lost range, else the next range of a started message, else the first of a
message R391 lets start. With it: the resends so far and the path to avoid. -/
def Chan.nextPacket (c : Chan) : Option (TxMsg × Nat × Option (Nat × Nat)) :=
  match c.sends.find? (fun m => m.again != []) with
  | some m => m.again.head?.map (fun x => (m, x.1, some x.2))
  | none =>
    match c.sends.find? (fun m => !m.started || m.next ≤ lastOffset m.len c.maxPay) with
    | none => none
    | some m =>
      if m.started then some (m, m.next, none)
      else
        let oldest := ((c.sends.head?).map (fun x => x.msn)).getD m.msn
        if c.msgStart < c.peerPosted - c.peerRet && m.msn < oldest + 4096 then some (m, 0, none) else none

/-- Whether the mode lets a frame of n bytes go now (R402, R403, R405). -/
def Chan.mayGo (c : Chan) (tick n : Nat) : Bool :=
  match c.mode with
  | 0 => decide (n ≤ c.budget)
  | 2 => if c.version = 0x10 then decide (c.used < c.grantSeen)
    else c.slotSeenTick == tick && decide (c.used + c.expired < c.slotSeen + c.grantSeen)
  | _ => decide (c.used < c.grantSeen)

/-- The message with its packet at ofs sent. -/
def TxMsg.sentAt (m : TxMsg) (ofs maxPay : Nat) (resend : Bool) : TxMsg :=
  if resend then { m with again := m.again.drop 1 } else { m with started := true, next := ofs + maxPay }

/-- The bytes of a packet, read for the channel: an engine's own, or those at the send's PVA. The first answer says that the read waits
for a granule of an object (R322). -/
def State.packetBytes (s : State) (cid : Nat) (c : Chan) (m : TxMsg) (ofs n : Nat) : Bool × ReadOut × State :=
  match m.data with
  | some d => (false, ⟨bytesAt d ofs n, false, false, 0⟩, s)
  | none =>
    s.demandGet (.chan cid) (fun s => s.readPva ⟨c.part, whoGnx, (s.part c.part).rt, 0, false⟩ (m.pva + ofs) n)

/-- One packet of a channel sent, if anything may go: the first answer says whether one went. A full transmit queue (R356) or the stop of
the channel's hub in reset (R379, Table 17-6) holds it back. A send whose PVA does not translate ends
with 0x0B (Table 11-9). -/
def State.pumpOne (s : State) (cid : Nat) : Bool × State :=
  match tget? s.net.chans cid with
  | none => (false, s)
  | some c =>
    let l := s.localPorts c
    let a := c.remotes
    if c.state != 2 || c.stopped || s.hubStopped (cid % 2) || l = [] || a = [] || c.cumAcked + 4096 ≤ c.nextPsn then (false, s)
    else match c.nextPacket with
      | none => (false, s)
      | some (m, ofs, re) =>
        let n := payLen m.len c.maxPay ofs
        let frame := gnxFrame (isV6 c.peerIp) c.enc n
        let p := s.pickPath c (re.map (fun x => x.2))
        let port := nthD l (p % l.length) 0
        let queue := if c.mode = 2 then 6 else c.queue
        if !c.mayGo s.tick frame || s.queueFull port queue frame then (false, s)
        else
          let (waits, out, s) := s.packetBytes cid c m ofs n
          if waits then (false, s)
          else if out.fault then (true, s.endSend cid m 0x0B)
          else
            let last := ofs == lastOffset m.len c.maxPay
            let m' := m.sentAt ofs c.maxPay re.isSome
            let s := s.setChan cid { c with
              sends := c.sends.map (fun x => if x.msn = m.msn then m' else x), nextPsn := c.nextPsn + 1, nextPath := p + 1,
              msgStart := if m.started then c.msgStart else c.msgStart + 1,
              flights := c.flights ++ [⟨c.nextPsn, m.msn, ofs, p, s.tick, (re.map (fun x => x.1)).getD 0⟩],
              used := if c.mode = 0 then c.used else c.used + 1, budget := if c.mode = 0 then c.budget - frame else c.budget,
              retx := c.retx + b2n re.isSome }
            let s := if re.isSome then s.inc F.pRetx 1 c.part else s
            (true, s.sendPacket cid c port queue (nthD a (p % a.length) 0) c.enc
              { ver := c.version, type := 1, last := last, enc := false, solicit := last || re.isSome, path := p, dcid := c.peerCid, scid := cid,
                pkey := c.pkey, psn := c.nextPsn % 2 ^ 32, msn := m.msn % 2 ^ 24, offset := ofs, plen := 0, tstamp := 0 } out.bytes)

/-- Every packet of a channel that may go now, up to the PSN window (R399). -/
def State.pump (s : State) (cid : Nat) : State :=
  (List.range 4096).foldl (fun (x : Bool × State) _ =>
    if x.1 then x
    else
      let (went, s) := x.2.pumpOne cid
      (!went, s)) (false, s) |>.2

/-- A send queued on a channel and started as far as it may go (R390). data is an engine's own bytes. -/
def State.sendMsg (s : State) (cid pva len : Nat) (data : Option (List Byte)) (o : GnxOwner) : State :=
  (s.modChan cid (fun c => { c with nextMsn := c.nextMsn + 1, sends := c.sends ++ [⟨c.nextMsn, pva, len, data, false, 0, [], [], [], o⟩] })).pump cid

/-- Bytes free in the unbound posted buffers (R404). -/
def Chan.freeBytes (c : Chan) : Nat := sumOf ((c.bufs.filter (fun b => b.bound.isNone)).map (fun b => b.len))

/-- One more than the highest PSN received. -/
def Chan.rcvTop (c : Chan) : Nat := maxOf (c.cumPsn :: c.seen.map (fun x => x + 1))

/-- GRANT_CUM raised by what is left of this tick's GRANT_TICK, never past what the unbound buffers hold (R404); CREDIT goes
out when it rises, and at a boundary always. -/
def State.grant (s : State) (cid : Nat) (always : Bool) : State :=
  match tget? s.net.chans cid with
  | none => s
  | some c =>
    if c.state != 2 then s
    else
      let room := c.rcvTop + c.freeBytes / Nat.max 1 c.maxPay
      let g := Nat.max c.granted (Nat.min (c.granted + c.grantLeft) room)
      let s := s.setChan cid { c with granted := g, grantLeft := c.grantLeft - (g - c.granted) }
      if always || c.granted < g then s.sendCredit cid else s

/-- Whether a channel's receiver grants packets by GRANT_TICK (R404, R405). -/
def Chan.credits (c : Chan) : Bool := c.mode == 1 || (c.mode == 2 && c.version == 0x10)

/-- The slot grant of the present tick taken up, once what is unused of an earlier tick has expired (R405). -/
def Chan.slotTurn (c : Chan) (tick : Nat) (expire : Bool) : Chan :=
  let open' := c.slotSeen + c.grantSeen - (c.used + c.expired)
  if tick ≤ c.slotSeenTick || (open' != 0 && !expire) then c
  else
    let c := { c with expired := c.expired + open' }
    match c.slotNext with
    | none => c
    | some (k, n) =>
      if tick < k then c
      else if k = tick then { c with slotSeen := Nat.max c.slotSeen n, slotSeenTick := k, slotNext := none }
      else { c with slotSeen := Nat.max c.slotSeen n, expired := c.expired + (n - c.slotSeen), slotSeenTick := k, slotNext := none }

/-- A buffer posted on a channel (R393). -/
def State.postBuf (s : State) (cid tag pva len : Nat) (o : GnxOwner) : State :=
  s.modChan cid (fun c => { c with posted := c.posted + 1, bufs := c.bufs ++ [⟨tag, pva, len, none, false, o⟩] })

/-- A posted buffer revoked (R397): unbound it returns with 0x0C, bound with 0x09 and its message raises violation 0x02. -/
def State.revoke (s : State) (cid : Nat) (b : GnxBuf) : State :=
  match b.bound with
  | none => s.returnBuf cid b 0x0C
  | some m => (s.modChan cid (fun c => { c with msgs := c.msgs.map (fun x => if x.msn = m then { x with ended := some 2 } else x) })).returnBuf cid b 9

/-! ## Violations (R407 to R409) -/

/-- The VIOL of a violation found, on the path that brought it. -/
def State.sendViol (s : State) (cid : Nat) (v : GnxViol) : State :=
  match tget? s.net.chans cid with
  | none => s
  | some c =>
    let s := s.setChan cid { c with violTick := some s.tick, viols := c.viols.map (fun x => if x == v then { v with psn := c.ctlPsn % 2 ^ 32, count := v.count + 1 } else x) }
    let s := s.modChan cid (fun c => { c with ctlPsn := c.ctlPsn + 1 })
    match (s.localPorts c)[v.path % (s.localPorts c).length]? with
    | none => s
    | some port => s.sendPacket cid c port 5 v.src (c.enc && v.scid == c.peerCid) (c.ctlHead cid 8 v.path v.scid)
        (ctlBytes 8 [v.code, v.msn, v.offset, v.pkey])

/-- The remote access violation event (Table 11-13); side 1 found, 2 reported. -/
def State.violEvent (s : State) (part : Option Nat) (handle side code src scid dcid msn ofs tag : Nat) : State :=
  let words := [part.getD noPart, handle, side, code, src % 2 ^ 64, src / 2 ^ 64, scid, dcid, msn, ofs, tag]
  match part with
  | some p => s.event 0x1B p words
  | none => s.eventAll 0x1B words

/-- A violation found of a message: its event, VIOL_CNT, and its VIOL, at most one of a channel in a tick (R407, R409). -/
def State.violationOf (s : State) (cid code msn ofs pkey scid src path tag : Nat) : State :=
  match tget? s.net.chans cid with
  | none => s
  | some c =>
    let s := (s.violEvent (some c.part) (c.handle cid) 1 code src scid cid msn ofs tag).inc F.pViolCnt 1 c.part
    let v : GnxViol := ⟨code, msn, ofs, pkey, scid, 0, src, path, 0⟩
    let s := s.setChan cid { c with viols := c.viols ++ [v] }
    if c.violTick = some s.tick then s else s.sendViol cid v

/-- A violation found in a packet. -/
def State.violation (s : State) (cid : Nat) (h : GnxHdr) (code tag : Nat) : State :=
  s.violationOf cid code h.msn.toNat h.offset.toNat h.pkey.toNat h.scid.toNat h.src.toNat h.path.val tag

/-! ## Receiving (R380, R392 to R399) -/

/-- A received packet's header as Table 11-2 lays it out; its reserved bits read as zero. -/
def rcvHead (h : GnxHdr) : GnxHead :=
  { ver := h.ver.toNat, type := h.type.toNat, last := h.last, enc := h.enc, solicit := h.solicit, path := h.path, dcid := h.dcid.toNat,
    scid := h.scid.toNat, pkey := h.pkey.toNat, psn := h.psn.toNat, msn := h.msn.toNat, offset := h.offset.toNat, plen := h.plen.toNat,
    tstamp := h.tstamp.toNat }

/-- The counts of a received packet's direction with its own sequence number in: the PSNs and the control packets so far (R381). -/
def Chan.rcvCounts (c : Chan) (h : GnxHdr) : Nat × Nat :=
  if h.type = 1 then ((unwrapN 32 c.cumPsn h.psn.toNat).getD 0, c.peerCtl)
  else (c.cumPsn, Nat.max c.peerCtl ((unwrapN 32 c.peerCtl h.psn.toNat).getD 0))

/-- Whether a received packet of a channel carries the tag its key gives (R381); a channel without ENC asks for none. -/
def Chan.tagOk (c : Chan) (cid : Nat) (h : GnxHdr) (plain : List Byte) : Bool :=
  let n := c.rcvCounts h
  !c.enc || (h.enc && leNat (c.cipher cid false (epochOf n.1 n.2) (rcvHead h) plain).2 == h.tag.toNat)

/-- The checks of R380 in their order, for a channel in one of some states; the channel a packet that passes belongs to, which has taken the
packet's control sequence number. plain is the payload or body in clear. -/
def State.gnxCheckIn (s : State) (states : List Nat) (h : GnxHdr) (plain : List Byte) : Option (Nat × Chan) × State :=
  let cid := h.dcid.toNat
  match tget? s.net.chans cid with
  | none => (none, s.inc F.gnxUnkCid 1)
  | some c =>
    if !states.contains c.state then (none, s.inc F.gnxUnkCid 1)
    else if h.ver.toNat != c.version then (none, s.inc F.gnxVerDrop 1)
    else if h.type.toNat < 1 || 10 < h.type.toNat ||
        (h.type == 1 && (c.maxPay < h.plen.toNat || (!h.last && h.plen.toNat != c.maxPay) || h.offset.toNat % Nat.max 1 c.maxPay != 0)) then
      (none, s.inc F.gnxMalformed 1)
    else if h.pkey.toNat != c.pkey then (none, s.violation cid h 3 0)
    else if !c.tagOk cid h plain then (none, s.violation cid h 5 0)
    else
      let c := { c with peerCtl := (c.rcvCounts h).2 }
      (some (cid, c), s.setChan cid c)

/-- The checks of R380 for a packet to an established channel. -/
def State.gnxCheck (s : State) (h : GnxHdr) (plain : List Byte) : Option (Nat × Chan) × State := s.gnxCheckIn [2] h plain

/-- A PSN marked received; CUM_PSN passes every PSN that has been (R399). -/
def Chan.take (c : Chan) (psn bytes : Nat) (ce : Bool) : Chan :=
  let seen := insertUp c.seen psn
  let cum := seen.foldl (fun k x => if x = k then k + 1 else k) c.cumPsn
  { c with cumPsn := cum, seen := seen.filter (fun x => cum < x), rcvBytes := c.rcvBytes + bytes,
           ceBytes := if ce then c.ceBytes + bytes else c.ceBytes, sinceAck := c.sinceAck + 1 }

/-- A message complete: RCV_LOW passes every complete MSN (R392). -/
def Chan.finishMsn (c : Chan) (msn : Nat) : Chan :=
  let d := insertUp c.doneMsns msn
  let low := d.foldl (fun k x => if x = k then k + 1 else k) c.rcvLow
  { c with rcvLow := low, doneMsns := d.filter (fun x => low < x), msgs := c.msgs.filter (fun m => m.msn != msn) }

/-- A duplicate: dropped, counted and acknowledged at once (R396). -/
def State.dupPacket (s : State) (cid : Nat) (c : Chan) (h : GnxHdr) : State :=
  (s.inc F.pDupPkt 1 c.part).sendAck cid h.path h.tstamp.toNat

/-- An accepted packet of a bound message placed (R394, R395, Table 11-8). -/
def State.placePacket (s : State) (cid : Nat) (h : GnxHdr) (msn : Nat) (payload : List Byte) : State :=
  match tget? s.net.chans cid with
  | none => s
  | some c =>
    match c.msgs.find? (fun m => m.msn == msn) with
    | none => s
    | some m =>
      match c.bufs.find? (fun b => b.bound == some msn) with
      | none => s
      | some b =>
        let ofs := h.offset.toNat
        let n := h.plen.toNat
        let stop := fun (s : State) (code status : Nat) =>
          let s := s.modChan cid (fun c => { c with msgs := c.msgs.map (fun x => if x.msn = msn then { x with ended := some code } else x) })
          (s.returnBuf cid b status).violation cid h code b.tag
        let fixed := match m.fixed with
          | some k => some k
          | none => if h.last then some (ofs + n) else none
        if (match m.fixed with | some k => decide (k < ofs + n) | none => false) then s.inc F.gnxMalformed 1
        else if b.len < ofs + n then stop s 1 8
        else
          let (bad, s) := s.writePva ⟨c.part, whoGnx, (s.part c.part).rt, 0, false⟩ (b.pva + ofs) (bytesAt payload 0 n) false
          if bad then stop s 4 0x0A
          else
            let placed := (ofs, n) :: m.placed
            if fixed = some (sumOf (placed.map (fun x => x.2))) then
              let s := s.modChan cid (fun c => { (c.finishMsn msn) with
                consumed := c.consumed + 1, bufs := c.bufs.erase b,
                taken := match b.owner with | .desc _ => c.taken | .engine _ _ => c.taken ++ [{ b with len := ofs + n }] })
              let s := s.add F.pMsgRx 1 c.part
              let total := fixed.getD 0
              match b.owner with
              | .desc d => s.complete d 0 false (bufResult msn total)
              | .engine _ _ => s.modChan cid (fun c => { c with taken := c.taken.map (fun x => if x.bound = some msn then { x with len := total } else x) })
            else s.modChan cid (fun c => { c with msgs := c.msgs.map (fun x => if x.msn = msn then { x with placed := placed, fixed := fixed } else x) })

/-- A DATA packet received (R380, R392 to R399). -/
def State.dataRx (s : State) (h : GnxHdr) (payload : List Byte) : State :=
  match s.gnxCheck h (bytesAt payload 0 h.plen.toNat) with
  | (none, s) => s
  | (some (cid, c), s) =>
    let frame := gnxFrame (isV6 c.peerIp) c.enc h.plen.toNat
    match unwrapN 32 c.cumPsn h.psn.toNat with
    | none => s.dupPacket cid c h
    | some psn =>
      if psn < c.cumPsn || c.seen.contains psn then s.dupPacket cid c h
      else if c.cumPsn + 4096 ≤ psn then s.inc F.gnxMalformed 1
      else
        let after := fun (s : State) =>
          match tget? s.net.chans cid with
          | none => s
          | some c => if h.solicit || 8 ≤ c.sinceAck then s.sendAck cid h.path h.tstamp.toNat else s
        match unwrapN 24 c.rcvLow h.msn.toNat with
        | none => (s.setChan cid (c.take psn frame h.ce)).dupPacket cid c h
        | some msn =>
          if msn < c.rcvLow || c.doneMsns.contains msn then (s.setChan cid (c.take psn frame h.ce)).dupPacket cid c h
          else if c.rcvLow + 4096 ≤ msn then s.inc F.gnxMalformed 1
          else match c.msgs.find? (fun m => m.msn == msn) with
            | some m =>
              let s := s.setChan cid (c.take psn frame h.ce)
              match m.ended with
              | some 2 => after (s.violation cid h 2 m.tag)
              | some _ => after s
              | none =>
                if m.placed.any (fun x => x.1 == h.offset.toNat) then s.dupPacket cid c h
                else after (s.placePacket cid h msn payload)
            | none =>
              match c.bufs.find? (fun b => b.bound.isNone) with
              | none => s.sendCtl cid 10 h.path [h.msn.toNat, h.offset.toNat, 1]
              | some b =>
                let c := c.take psn frame h.ce
                let s := s.setChan cid { c with
                  bufs := c.bufs.map (fun x => if x == b then { b with bound := some msn } else x),
                  msgs := c.msgs ++ [⟨msn, b.tag, [], none, none⟩] }
                after (s.placePacket cid h msn payload)

/-- The first message an engine's buffer of a channel has received, its bytes read from where they were placed; the buffer
is posted again (R257). -/
def State.takeMsg (s : State) (cid : Nat) : Option (GnxBuf × List Byte) × State :=
  match tget? s.net.chans cid with
  | none => (none, s)
  | some c =>
    match c.taken with
    | [] => (none, s)
    | b :: r =>
      let (out, s) := s.readPva ⟨c.part, whoGnx, (s.part c.part).rt, 0, false⟩ b.pva b.len
      (some (b, out.bytes), s.modChan cid (fun c => { c with taken := r }))

/-! ## Acknowledgements (R400, R401) -/

/-- Paths that carried a loss rest for the next tick (R385). -/
def Chan.restPath (c : Chan) (p tick : Nat) : Chan := { c with rest := tput c.rest p (tick + 1) }

/-- A packet judged lost (R400, R401): its range waits to be resent, or has been resent RETRY_MAX times; the answer says
that the channel must fail. -/
def Chan.lose (c : Chan) (f : Flight) (tick retryMax : Nat) : Bool × Chan :=
  let c := { c.restPath f.path tick with flights := c.flights.erase f }
  match c.sends.find? (fun m => m.msn == f.msn) with
  | none => (false, c)
  | some m =>
    if m.acked.contains f.offset || m.again.any (fun x => x.1 == f.offset) then (false, c)
    else if retryMax ≤ f.tries then (true, c)
    else (false, { c with sends := c.sends.map (fun x => if x.msn = f.msn then { m with again := m.again ++ [(f.offset, f.tries + 1, f.path)] } else x) })

/-- The offsets an acknowledgement adds to its message. -/
def Chan.ackFlight (c : Chan) (f : Flight) : Chan :=
  { c with flights := c.flights.erase f,
           sends := c.sends.map (fun m => if m.msn = f.msn then { m with
             acked := insertUp m.acked f.offset, again := m.again.filter (fun x => x.1 != f.offset) } else m) }

/-- Whether every packet of a message is acknowledged. -/
def TxMsg.allAcked (m : TxMsg) (maxPay : Nat) : Bool :=
  m.started && decide (lastOffset m.len maxPay / Nat.max 1 maxPay + 1 ≤ m.acked.length)

/-- Every message acknowledged complete ends with status 0x00; low is the peer's RCV_LOW. -/
def State.endAcked (s : State) (cid low : Nat) : State :=
  match tget? s.net.chans cid with
  | none => s
  | some c => (c.sends.filter (fun m => m.started && (decide (m.msn < low) || m.allAcked c.maxPay))).foldl (fun s m => s.endSend cid m 0) s

/-! ## The boundary (R398, R402 to R409) -/

/-- α of a binary32 pattern no greater than 1, times r, rounded down. -/
def scaleHalf (r a : Nat) : Nat :=
  let e := fldN a 23 8
  if e = 0 then r
  else
    let m := fldN a 0 23 + 2 ^ 23
    let k := 151 - e
    (r * 2 ^ k - Nat.min (r * 2 ^ k) (r * m)) / 2 ^ k

/-- The binary32 nearest a count. -/
def f32OfNat (n : Nat) : Nat := (toF32 (.fin false n 0)).1

/-- The local ports on a channel's paths (R385, R402). -/
def State.pathPorts (s : State) (c : Chan) : List Nat :=
  let l := s.localPorts c
  (c.paths.filterMap (fun p => l[p % l.length]?)).eraseDups

/-- The rate rule of R402, in Mb/s; the cap is the width of the local ports on the channel's paths. -/
def State.rateStep (s : State) (c : Chan) : Chan :=
  let dr := c.peerRcv - c.lastRcv
  let dc := c.peerCe - c.lastCe
  let f := if dr = 0 then 0 else (f32Div (f32OfNat dc) (f32OfNat dr)).1
  let alpha := (f32Add (f32Mul c.alpha 0x3F700000).1 (f32Mul f 0x3D800000).1).1
  let rmin := s.rd F.gnxRateMin * 1000
  let ai := s.rd F.gnxAiStep * 1000
  let cap := sumOf ((s.pathPorts c).map (fun n => s.rd F.npWidth n * 100000))
  let c := { c with alpha := alpha, lastRcv := c.peerRcv, lastCe := c.peerCe }
  let c :=
    if 0 < dc && 0 < dr then { c with rate := Nat.max rmin (scaleHalf c.rate alpha), clean := 0, step := ai }
    else if 0 < dr then
      let step := if 5 < c.clean + 1 then Nat.min (2 * c.step) (8 * ai) else c.step
      { c with clean := c.clean + 1, step := step, rate := Nat.min cap (c.rate + step) }
    else c
  if c.timedOut then { c with rate := Nat.max rmin (c.rate / 2), timedOut := false } else c

/-- The counts R406 checks; a breach stops the channel's sending and emits a credit breach event with the counts that show it (R12, R88): at
the sender the credit granted, used and expired together, used, and expired; at the receiver the credit granted, and the buffers posted,
consumed and returned (notes/assumptions/112.md). -/
def State.chanCounts (s : State) (cid : Nat) (c : Chan) : State :=
  let bound := c.bufs.filterMap (fun b => b.bound)
  let sender := c.mode != 0 && decide (c.grantSeen + c.slotSeen < c.used + c.expired)
  let receiver := decide (c.posted < c.consumed + c.returned) || bound.eraseDups.length != bound.length
  let counts := if sender then [c.grantSeen + c.slotSeen, c.used + c.expired, c.used, c.expired]
    else [c.granted + c.slotGranted, c.posted, c.consumed, c.returned]
  if !c.stopped && (sender || receiver) then (s.setChan cid { c with stopped := true }).eventAll 0x07 ([whoGnx, whoGnx] ++ counts) else s

/-- What a tick boundary does to one channel. -/
def State.chanBoundary (s : State) (cid : Nat) : State :=
  match tget? s.net.chans cid with
  | none => s
  | some c =>
    if c.state = 3 then s.sendCtl cid 6 0 [5]
    else if c.state != 2 then s
    else
      let c := c.pathAcked.foldl (fun c e => if e.2.1 < 2 * e.2.2 then c.restPath e.1 (s.tick - 1) else c) c
      let c := { c with pathAcked := [] }
      let c := if c.mode = 0 then s.rateStep c else c
      let s := s.setChan cid { c with budget := s.rateBudget c.rate }
      let s := s.chanCounts cid c
      let s := if c.credits then (s.modChan cid (fun c => { c with grantLeft := c.grantTick })).grant cid true
        else if c.mode = 2 then (s.modChan cid (fun c => c.slotTurn s.tick false)).sendCredit cid else s
      let s := if 0 < c.sinceAck || c.bufs.any (fun b => b.bound.isNone && !b.announced) then s.sendAck cid 0 0 else s
      let s := match c.viols with
        | [] => s
        | v :: _ => s.sendViol cid v
      let s := s.modChan cid (fun c => { c with viols := c.viols.filter (fun v => v.count < 17) })
      s.pump cid

/-- Every channel at a boundary, and the CLOSEs owed to former peers. -/
def State.gnxBoundary (s : State) : State :=
  (s.net.chans.foldl (fun s e => s.chanBoundary e.1) s).closeFormer

end Sys2Proof.Machine
end

