-- ==== Sys2Proof/Machine/Signals.lean ====
section
/-! DEFINITION. What several engines need of the running step: its number, its signals (R65), and waits for release. -/
namespace Sys2Proof.Machine

/-- The steps of partition p that have begun and not ended, the oldest first: a step whose ticks are over may still await its
commit while the next runs (R74). -/
def State.actives (s : State) (p : Nat) : List StepRun := (s.part p).cad.steps.filter (fun r => r.phase != .queued)

/-- The running step of partition p: the latest that has begun and not ended. -/
def State.runStep? (s : State) (p : Nat) : Option StepRun := (s.actives p).getLast?

/-- A step of partition p by its run. -/
def State.stepRun? (s : State) (p id : Nat) : Option StepRun := (s.part p).cad.steps.find? (fun r => r.id == id)

/-- STEP_NO of the running step, 0 when none runs. -/
def State.stepNo (s : State) (p : Nat) : Nat := ((s.runStep? p).map (fun r => r.stepNo)).getD 0

/-- One step of partition p changed by f. -/
def State.modStep (s : State) (p id : Nat) (f : StepRun → StepRun) : State :=
  s.modCad p (fun c => { c with steps := c.steps.map (fun r => if r.id = id then f r else r) })

/-! ### The activation ledger (R443, R444, Table 12-9) -/

/-- A ledger changed by f. -/
def State.modLedger (s : State) (p plan : Nat) (f : ActLedger → ActLedger) : State :=
  s.modPart p (fun x => { x with coll := { x.coll with ledgers := tmod x.coll.ledgers plan f } })

/-- The activation ledger event (Table 12-13): 1 overlap, 2 read before write, 3 not freed, 4 not written. -/
def State.ledgerEvent (s : State) (p plan stepNo i w cause : Nat) : State :=
  s.event 0x1E p [p, plan, stepNo, i, fldN w 3 6, fldN w 0 3, fldN w 9 10, cause]

/-- Whether the bytes of two ledger entries overlap. -/
def actMeet (a b : Nat) : Bool :=
  decide (fldN a 128 64 < fldN b 128 64 + fldN b 192 32) && decide (fldN b 128 64 < fldN a 128 64 + fldN a 192 32)

/-- Where one entry stands once its signals have moved: live when W_SIG reaches W_CNT, freed when R_SIG reaches R_CNT. -/
def State.ledgerEntry (s : State) (p plan stepNo i w : Nat) (sigs : Tab Nat) : State :=
  match tget? (s.part p).coll.ledgers plan with
  | none => s
  | some l =>
    let wr := fldN w 64 32 ≤ tgetD sigs (fldN w 24 6) 0
    let rd := fldN w 96 32 ≤ tgetD sigs (fldN w 30 6) 0
    let set := fun (s : State) (v : Nat) => s.modLedger p plan (fun l => { l with states := tput l.states i v })
    match tgetD l.states i 0 with
    | 0 =>
      if wr then
        let s := if (List.range l.entries.length).any (fun j => j != i && tgetD l.states j 0 == 1 && actMeet (nthD l.entries j 0) w)
          then s.ledgerEvent p plan stepNo i w 1 else s
        set s (if rd then 2 else 1)
      else if rd then set (s.ledgerEvent p plan stepNo i w 2) 3
      else s
    | 1 => if rd then set s 2 else s
    | _ => s

/-- The ledger of the running step's plan looked at again (R444). -/
def State.ledgerLook (s : State) (p : Nat) : State :=
  match s.runStep? p with
  | none => s
  | some r =>
    match tget? (s.part p).coll.ledgers r.plan with
    | none => s
    | some l => iterN l.entries.length (fun i s => s.ledgerEntry p r.plan r.stepNo i (nthD l.entries i 0) (s.part p).cad.signals) s

/-- The bytes of live entries at a tick boundary taken into the peak (R444). -/
def State.ledgerBoundary (s : State) (p : Nat) : State :=
  match s.runStep? p with
  | none => s
  | some r => s.modLedger p r.plan (fun l =>
      let n := sumOf ((List.range l.entries.length).map (fun i => if tgetD l.states i 0 = 1 then fldN (nthD l.entries i 0) 192 32 else 0))
      { l with peak := Nat.max l.peak n })

/-- The ledger of a plan at the start of a step. -/
def State.ledgerStart (s : State) (p plan : Nat) : State :=
  (s.modLedger p plan (fun l => { l with states := [], peak := 0 })).ledgerLook p

/-- The ledger at step end: the events of entries not freed or not written, STATE into every entry, and ACT_PEAK (R444). -/
def State.ledgerEnd (s : State) (p plan stepNo : Nat) : State :=
  match tget? (s.part p).coll.ledgers plan with
  | none => s
  | some l =>
    let s := iterN l.entries.length (fun i s =>
      let w := nthD l.entries i 0
      let st := tgetD l.states i 0
      let s := if st = 1 then s.ledgerEvent p plan stepNo i w 3 else if st = 0 then s.ledgerEvent p plan stepNo i w 4 else s
      (s.writePva (s.engCtx p engColl) (l.pva + 32 * i + 28) (leBytes 1 st) false).2) s
    s.wr F.pActPeak (l.peak / 2 ^ 20) p

/-- How often a signal of partition p has been posted in this step (R65). -/
def State.signal (s : State) (p sig : Nat) : Nat := tgetD (s.part p).cad.signals sig 0

/-- A signal of a partition raised by one (R65); the activation ledger of the running step follows it. -/
def State.postSig (s : State) (p sig : Nat) : State :=
  (s.modCad p (fun c => { c with signals := tput c.signals sig ((tgetD c.signals sig 0 + 1) % 2 ^ 32) })).ledgerLook p

/-! ### The fields of a grain record (Table 2-4) -/

def gUnit (w : Nat) : Nat := fldN w 0 4
def gPhase (w : Nat) : Nat := fldN w 4 4
def gNoEarly (w : Nat) : Bool := bitN w 10
def gBudget (w : Nat) : Nat := fldN w 12 20
def gWaitSig (w : Nat) : Nat := fldN w 32 6
def gId (w : Nat) : Nat := fldN w 48 16
def gDesc (w : Nat) : Nat := fldN w 128 64

/-- A grain's status as Table 2-5 lays it out: cycles, the start's offset, the bits from DONE to CLAMPED, the flags raised,
GRAIN_ID and the unit code. -/
def grainStatus (act : Nat) (ofs : Int) (bits flags gid code : Nat) : List Byte :=
  leBytes 4 (capN (2 ^ 32 - 1) act) ++ leBytes 4 (toField 32 (satSigned 32 ofs)) ++ leBytes 2 (bits % 64 + 64 * (flags % 16)) ++
    leBytes 2 gid ++ leBytes 2 code ++ leBytes 2 0

/-- DONE, OVERRUN, BUD_EXCESS, FAULT, REPLAYED and CLAMPED of a status, as grainStatus takes them. -/
def statBits (done overrun excess fault replayed clamped : Bool) : Nat :=
  b2n done + 2 * b2n overrun + 4 * b2n excess + 8 * b2n fault + 16 * b2n replayed + 32 * b2n clamped

/-- The status of a grain that is skipped (R68, R446, R450). -/
def State.skipStatus (s : State) (p pva gid : Nat) : State :=
  (s.writePva (s.engCtx p engPlan) pva (grainStatus 0 0 (statBits false false false true false false) 0 gid 0) false).2

/-- A step can no longer reach digest commit, for a reason of Table 14-9 (R31). -/
def State.failRun (s : State) (p run reason : Nat) : State :=
  s.modStep p run (fun r => { r with fail := some (r.fail.getD reason) })

/-- The tick index of the running step at the present tick; none before it begins. -/
def State.tidxNow (s : State) (p : Nat) : Option Nat :=
  match s.runStep? p with
  | none => none
  | some r => if r.first ≤ s.tick then some (s.tick - r.first) else none

/-- Whether a range lies wholly in read-write allotment ranges of the partition. -/
def State.rwArea (s : State) (p pva n : Nat) : Bool := s.mapped p (s.part p).rt pva n true

/-- Whether no two of the areas (start, length) overlap. -/
def areasApart : List (Nat × Nat) → Bool
  | [] => true
  | a :: r => r.all (fun b => a.1 + a.2 ≤ b.1 || b.1 + b.2 ≤ a.1 || a.2 = 0 || b.2 = 0) && areasApart r

end Sys2Proof.Machine
end

