-- ==== Sys2Proof/Machine/Tiers.lean ====
section
/-! DEFINITION. Memory tiers (09_tiers_and_weights.md, R316 to R336): tier objects and their states, writes to and reads from
the lower tiers, lends, and the promotion of cold optimizer state. -/
namespace Sys2Proof.Machine

/-- The field code of a tier field set to the null resource (R523). -/
def tierNull : Nat := freeCode 5 0

def State.modTier (s : State) (p : Nat) (f : PTier → PTier) : State := s.modPart p (fun x => { x with tier := f x.tier })

/-- OBJ_USED as the object table stands. -/
def State.countObjs (s : State) (p : Nat) : State :=
  s.wr F.pObjUsed ((s.part p).tier.objs.filter (fun e => e.2.state != 0)).length p

def objHandle (slot gen : Nat) : Nat := slot + 2 ^ 12 * gen

/-! ## Objects (R317 to R321) -/

/-- A replica of an object image (Table 9-2). -/
def imgReplica (b j : Nat) : ObjRep := ⟨fldN b (192 + 128 * j) 32, fldN b (192 + 128 * j + 32) 32, fldN b (192 + 128 * j + 64) 64⟩

/-- The object an image describes. -/
def objOf (b gen : Nat) : Obj :=
  { gen := gen, state := 1, tier := fldN b 8 2, hmode := fldN b 10 2, nrep := fldN b 12 3, lineage := fldN b 32 32, ver := fldN b 64 64,
    length := fldN b 128 64, haddr0 := if fldN b 8 2 = 1 then fldN b 192 64 else 0, haddr1 := if fldN b 8 2 = 1 then fldN b 256 64 else 0,
    reps := if fldN b 8 2 = 2 then (List.range (fldN b 12 3)).map (imgReplica b) else [], lastRead := none, pendingWrites := [],
    sealer := none, retirer := none, recreate := none }

/-- An object's image as it stands (Table 9-2). -/
def Obj.image (o : Obj) (slot : Nat) : Nat :=
  let reps := (o.reps.zip (List.range 4)).foldl (fun a e =>
    a + 2 ^ (192 + 128 * e.2) * (e.1.chan + 2 ^ 32 * e.1.lend + 2 ^ 64 * e.1.loff)) 0
  0x10 + 2 ^ 8 * o.tier + 2 ^ 10 * o.hmode + 2 ^ 12 * o.nrep + 2 ^ 15 * o.state + 2 ^ 32 * o.lineage + 2 ^ 64 * o.ver + 2 ^ 128 * o.length +
    (if o.tier = 1 then 2 ^ 192 * o.haddr0 + 2 ^ 256 * o.haddr1 else reps) + 2 ^ 992 * objHandle slot o.gen

/-- Whether an image lies in the ranges of Table 9-2 and its channels are open and the partition's (R318). -/
def State.imageOk (s : State) (p b : Nat) (o : Obj) : Bool :=
  fldN b 0 8 == 0x10 && (o.tier == 1 || o.tier == 2) && decide (4096 ≤ o.length) && decide (o.length ≤ 2 ^ 42) && o.length % 4096 == 0 &&
    (if o.tier = 1 then o.haddr0 % 4096 == 0 && o.haddr1 % 4096 == 0
     else decide (1 ≤ o.nrep) && decide (o.nrep ≤ 4) && o.reps.all (fun r => r.loff % 4096 == 0 && (match s.chan? p r.chan with
      | some (_, c) => c.state == 2
      | none => false)))

/-- A descriptor on an object in the wrong state (R319, Table 9-10). -/
def State.wrongState (s : State) (r : DRef) (h : Nat) : State :=
  (s.clampDesc r 5 tierNull h (nullOf tierNull)).complete { r with clamped := true } 2 true 0

/-- A descriptor whose handle names no object. -/
def State.noObj (s : State) (r : DRef) (h : Nat) : State := s.nullDesc r tierNull h

/-- Descriptor 0x20 (R318). -/
def State.runObjCreate (r : DRef) (d : Desc) (s : State) : State :=
  let p := r.part
  let slot := d.fld 0 12
  match s.descRead p (d.at 24 64) 128 with
  | (none, s) => s.noop r
  | (some bs, s) =>
    let b := leNat bs
    let old := tget? (s.part p).tier.objs slot
    let gen := (old.map (fun o => o.gen)).getD 0
    let free := (old.map (fun o => o.state == 0)).getD true
    let o := objOf b gen
    if s.rd F.pObjMax p ≤ slot || !free || !s.imageOk p b o then s.noObj r slot
    else
      let s := s.modTier p (fun t => { t with objs := tput t.objs slot o })
      let s := (s.writePva (s.engCtx p engDesc) (d.at 24 64 + 124) (leBytes 4 (objHandle slot gen)) false).2
      (s.countObjs p).done r

/-! ## Backing copies (R319, R321, Table 9-5) -/

/-- A tier message of 64 header bytes and its data (Table 9-5). -/
def tierMessage (kind lend status tag ofs len : Nat) (data : List Byte) : List Byte :=
  leBytes 1 0x10 ++ leBytes 1 kind ++ leBytes 1 lend ++ leBytes 1 status ++ leBytes 4 tag ++ leBytes 8 ofs ++ leBytes 8 len ++
    List.replicate 40 0 ++ data

/-- Whether a replica's channel is open (R324). -/
def State.repOpen (s : State) (p : Nat) (r : ObjRep) : Bool :=
  match s.chan? p r.chan with
  | some (_, c) => c.state == 2
  | none => false

/-- A message to the lender of a replica, on its channel; the answer says whether it went. -/
def State.toLender (s : State) (p : Nat) (r : ObjRep) (kind tag ofs len : Nat) (data : List Byte) : Bool × State :=
  match s.chan? p r.chan with
  | none => (false, s)
  | some (cid, c) =>
    if c.state != 2 then (false, s)
    else
      let m := tierMessage kind r.lend 0 tag (r.loff + ofs) len data
      (true, s.sendMsg cid 0 m.length (some m) (.engine 1 tag))

/-- The pieces of [a, a + n) within one granule each. -/
def granPieces (a n : Nat) : List (Nat × Nat) :=
  if n = 0 then []
  else (List.range ((a + n - 1) / 4096 - a / 4096 + 1)).map (fun i =>
    let lo := if i = 0 then a else (a / 4096 + i) * 4096
    (lo, Nat.min (a + n) ((a / 4096 + i + 1) * 4096) - lo))

/-- The host ports that hold granule g of an object (Table 9-2). -/
def Obj.hostPorts (o : Obj) (g : Nat) : List Nat :=
  match o.hmode with
  | 0 => [0]
  | 1 => [1]
  | 2 => [0, 1]
  | _ => [g % 2]

/-- Bytes within one granule written to the host backing; a confidential partition's granule is one data unit (R321). -/
def State.writeHostGran (s : State) (p : Nat) (o : Obj) (a : Nat) (bs : List Byte) : State :=
  let g := a / 4096
  (o.hostPorts g).foldl (fun s q =>
    let at' := o.hostAddr q g
    let s := s.tierMib F.tierTwr 0 3 bs.length
    if s.confidential p then
      let old := s.granCrypt p o g true (s.hostRead q at' 4096)
      s.hostWrite q at' (s.granCrypt p o g false (overlay old (a % 4096) bs))
    else s.hostWrite q (at' + a % 4096) bs) s

/-- The most data of one write message: a whole number of granules in 16 MiB less the header. -/
def tierWriteMax : Nat := 2 ^ 24 - 4096

/-- A write-class message to a replica's lender, that answers with a status (Table 9-4). The answer says whether it went. -/
def State.writeToLender (s : State) (p : Nat) (r : ObjRep) (kind ofs len : Nat) (data : List Byte) (w : Option DRef) : Bool × State :=
  if s.repOpen p r then
    let tag := s.tiers.nextTag
    s.setTiers (fun t => { t with nextTag := (t.nextTag + 1) % 2 ^ 32, msgs := tput t.msgs tag ⟨p, kind, w⟩ }) |>.toLender p r kind tag ofs len data
  else (false, s)

/-- A granule of a building neighbour object with bytes written into it, in the clear: what earlier writes put there stays, and a granule
still in part unwritten is kept for the writes to come (R321). -/
def State.buildGran (s : State) (p h a : Nat) (bs : List Byte) : List Byte × State :=
  let g := a / 4096
  let is := fun (x : Granule) => x.part == p && x.handle == h && x.gran == g
  if bs.length = 4096 then (bs, s.setTiers (fun t => { t with builds := t.builds.filter (fun x => !is x) }))
  else
    let (old, s) := match s.tiers.builds.find? is with
      | some x => (x.data, s)
      | none =>
        let (k, s) := s.fresh
        ((List.range 4096).map (Config.buildByte k), s)
    let new := overlay old (a % 4096) bs
    (new, s.setTiers (fun t => { t with builds := t.builds.filter (fun x => !is x) ++ [⟨g % 2, p, h, g, new⟩] }))

/-- Bytes written into the backing of a building object: the host copies at once, or write messages to every replica's
lender whose status ends the write. A confidential partition's granules are written whole. The answer says whether every copy could be
written to. -/
def State.writeBacking (s : State) (p h : Nat) (o : Obj) (ofs : Nat) (bs : List Byte) (w : Option DRef) : Bool × State :=
  if o.tier = 1 then
    (true, (granPieces ofs bs.length).foldl (fun s ch => s.writeHostGran p o ch.1 (bytesAt bs (ch.1 - ofs) ch.2)) s)
  else
    let (base, bs, s) :=
      if s.confidential p then
        let (bs, s) := (granPieces ofs bs.length).foldl (fun (a : List Byte × State) ch =>
          let (d, s) := a.2.buildGran p h ch.1 (bytesAt bs (ch.1 - ofs) ch.2)
          (a.1 ++ s.granCrypt p o (ch.1 / 4096) false d, s)) ([], s)
        (ofs / 4096 * 4096, bs, s)
      else (ofs, bs, s)
    let n := (bs.length + tierWriteMax - 1) / tierWriteMax
    o.reps.foldl (fun a r => (List.range n).foldl (fun (a : Bool × State) i =>
      let data := (bs.drop (i * tierWriteMax)).take tierWriteMax
      let (went, s) := a.2.writeToLender p r 3 (base + i * tierWriteMax) data.length data w
      (a.1 && went, if went then s.tierMib F.tierTwr 0 3 data.length else s)) a) (true, s)

/-- The granules kept of a building object gone: it is sealed, or its slot is free. -/
def State.dropBuilds (s : State) (p h : Nat) : State :=
  s.setTiers (fun t => { t with builds := t.builds.filter (fun x => !(x.part == p && x.handle == h)) })

/-- Every seal or unseal message of a neighbour object (R320, R326). -/
def State.sealReplicas (s : State) (p : Nat) (o : Obj) (kind : Nat) : State :=
  o.reps.foldl (fun s r => (s.writeToLender p r kind 0 o.length [] none).2) s

/-- An object whose seal waits is sealed once its earlier writes are complete (R318). -/
def State.trySeal (s : State) (p slot : Nat) : State :=
  match tget? (s.part p).tier.objs slot with
  | none => s
  | some o =>
    match o.sealer with
    | none => s
    | some d =>
      if o.pendingWrites != [] then s
      else
        let s := (s.modObj p slot (fun o => { o with state := 2, sealer := none })).dropBuilds p (objHandle slot o.gen)
        (if o.tier = 2 then s.sealReplicas p o 4 else s).done d

/-- A write of an object over: its descriptor completes with a status and a waiting seal is tried. -/
def State.endWrite (s : State) (p : Nat) (d : DRef) (status : Nat) : State :=
  match (s.part p).tier.objs.find? (fun e => e.2.pendingWrites.contains d) with
  | none => s
  | some (slot, _) =>
    let s := s.modObj p slot (fun o => { o with pendingWrites := o.pendingWrites.erase d })
    let s := s.setTiers (fun t => { t with msgs := t.msgs.filter (fun e => e.2.write != some d) })
    (s.complete d status false 0).trySeal p slot

/-- Descriptor 0x21 (R319). -/
def State.runObjWrite (r : DRef) (d : Desc) (s : State) : State :=
  let p := r.part
  let h := d.at 16 32
  match s.obj? p h with
  | none => s.noObj r h
  | some o =>
    if o.state != 1 || o.sealer.isSome then s.wrongState r h
    else
      let ofs := d.at 24 64
      let len := d.at 32 64
      let fit := Nat.min len (o.length - ofs)
      let cl := fit < len
      let s := if cl then s.clampDesc r 2 0x0506 len fit else s
      let r := { r with clamped := r.clamped || cl }
      let (x, s) := s.readPva (s.engCtx p engTier) (d.at 40 64) fit
      if x.fault then s.complete r 5 false 0
      else if x.poison then s.complete r 3 false 0
      else
        let s := s.modObj p (hSlot h) (fun o => { o with pendingWrites := o.pendingWrites ++ [r] })
        let (all, s) := s.writeBacking p h o ofs x.bytes (some r)
        if !all then s.endWrite p r 3
        else if s.tiers.msgs.any (fun e => e.2.write == some r) then s else s.endWrite p r 0

/-- Descriptor 0x22 (R318). -/
def State.runObjSeal (r : DRef) (d : Desc) (s : State) : State :=
  let h := d.at 16 32
  match s.obj? r.part h with
  | none => s.noObj r h
  | some o =>
    if o.state != 1 || o.sealer.isSome then s.wrongState r h
    else (s.modObj r.part (hSlot h) (fun o => { o with sealer := some r })).trySeal r.part (hSlot h)

/-- Descriptor 0x23 (R318, R320): it completes when the slot is free. -/
def State.runObjRetire (r : DRef) (d : Desc) (s : State) : State :=
  let h := d.at 16 32
  match s.obj? r.part h with
  | none => s.noObj r h
  | some o =>
    if o.state != 2 then s.wrongState r h
    else s.modObj r.part (hSlot h) (fun o => { o with state := 3, retirer := some r })

/-- Descriptor 0x24 (R319). -/
def State.runObjQuery (r : DRef) (d : Desc) (s : State) : State :=
  let h := d.at 16 32
  match s.obj? r.part h with
  | none => s.noObj r h
  | some o =>
    let (bad, s) := s.writePva (s.engCtx r.part engDesc) (d.at 24 64) (leBytes 128 (o.image (hSlot h))) false
    if bad then s.complete r 5 false 0 else s.done r

/-- Whether something of the partition still names a retiring object, so that it may not be freed (R320). -/
def State.objHeld (s : State) (p h : Nat) (o : Obj) : Bool :=
  let x := s.part p
  x.rt.any (fun e => e.2.target != 0 && e.2.tref == h) || x.rtNext.any (fun e => e.2.target != 0 && e.2.tref == h) ||
    x.tier.promos.any (fun l => (l.2.entries.zip (List.range l.2.entries.length)).any (fun e =>
      e.1.objCur == h || (e.1.objAlt == h && o.recreate != some (l.1, e.2)))) ||
    x.tier.swaps.any (fun w => (w.2.tgt0 != 0 && w.2.ref0 == h) || (w.2.tgt1 != 0 && w.2.ref1 == h)) ||
    s.tiers.reads.any (fun r => r.part == p && r.handle == h) || s.tiers.demand.any (fun d => d.part == p && d.handle == h && d.answer.isNone) ||
    s.tiers.ops.any (fun e => e.2.part == p && e.2.handle == h) ||
    o.lastRead == some s.tick

/-- The bytes of a promotion list entry (Table 9-6). -/
def PromoEntry.image (e : PromoEntry) : List Byte :=
  leBytes 128 (e.shard + 2 ^ 12 * e.mode + 2 ^ 14 * e.state + 2 ^ 16 * e.startTidx + 2 ^ 32 * e.sig + 2 ^ 64 * e.objCur + 2 ^ 96 * e.objAlt +
    2 ^ 128 * e.shePva + 2 ^ 192 * e.commits + 2 ^ 512 * e.root)

def State.promoEntry? (s : State) (p plan i : Nat) : Option PromoEntry :=
  match tget? (s.part p).tier.promos plan with
  | none => none
  | some l => l.entries[i]?

def State.modEntry (s : State) (p plan i : Nat) (f : PromoEntry → PromoEntry) : State :=
  s.modTier p (fun t => { t with promos := tmod t.promos plan (fun l => { l with entries := l.entries.mapIdx (fun j e => if j = i then f e else e) }) })

/-- An entry written back to its list (R332). -/
def State.writeEntry (s : State) (p plan i : Nat) : State :=
  match tget? (s.part p).tier.promos plan, s.promoEntry? p plan i with
  | some l, some e => (s.writePva (s.engCtx p engTier) (l.pva + 128 * i) e.image false).2
  | _, _ => s

/-- OBJECT_FREE (R318, R320, R332): a retiring object that nothing holds is freed, its generation raised, or recreated in
place as a building object for the promotion entry whose demotion retired it. -/
def State.objFree (s : State) (p slot : Nat) : State :=
  match tget? (s.part p).tier.objs slot with
  | none => s
  | some o =>
    let h := objHandle slot o.gen
    if o.state != 3 || s.objHeld p h o then s
    else
      let gen := (o.gen + 1) % 2 ^ 20
      let s := (s.setTiers (fun t => { t with gbuf := t.gbuf.filter (fun x => !(x.part == p && x.handle == h)) })).dropBuilds p h
      let s := if o.tier = 2 then s.sealReplicas p o 5 else s
      let s := match o.retirer with
        | some d => s.done d
        | none => s
      match o.recreate with
      | some (plan, i) =>
        let s := s.modObj p slot (fun o => { o with gen := gen, state := 1, recreate := none, retirer := none, lastRead := none })
        (s.modEntry p plan i (fun e => { e with objAlt := objHandle slot gen })).writeEntry p plan i
      | none =>
        (s.modObj p slot (fun _ => { objOf 0 gen with state := 0 })).countObjs p

/-! ## Bulk reads (R322 to R325) -/

def State.tierDrop (s : State) (k : Nat) : State :=
  s.setTiers (fun t => { t with ops := tdel t.ops k, reads := t.reads.filter (fun r => r.op != some k) })

/-- A promotion that fails (R331): SIG is posted, no shard is valid, and the steps that took the entry cannot commit. -/
def State.promoFail (s : State) (p plan i : Nat) : State :=
  match s.promoEntry? p plan i with
  | none => s
  | some e =>
    let s := s.modEntry p plan i (fun e => { e with copying := none, failed := true })
    let s := ((s.postSig p e.sig).tierEvent p e.objCur 0 0 3 plan e.shard).inc F.pTierFail 1 p
    e.touched.foldl (fun s x => s.failRun p x.1 5) s

/-- What a bulk read serves, told that a granule failed on every copy. -/
def State.tierOpFail (s : State) (k : Nat) : State :=
  match tget? s.tiers.ops k with
  | none => s
  | some x =>
    match x.use with
    | .copy d _ => ((s.tierDrop k).inc F.pTierFail 1 x.part).complete d 3 false 0
    | .promo plan i => (s.tierDrop k).promoFail x.part plan i
    | .intake _ | .ckpt => (s.setTiers (fun t => { t with ops := tput t.ops k { x with failed := true, queue := [], wait := [] } })).inc F.pTierFail 1 x.part

/-- n granules of an object from g on that no copy serves (R325): RD_FAIL, the event, and what waits for them told. -/
def State.granulesLost (s : State) (p h g n copy : Nat) (op : Option Nat) : State :=
  let s := (s.inc F.tierRdFail n).tierEvent p h g copy 2 0 0
  let s := s.setTiers (fun t => { t with demand := t.demand.map (fun d =>
    if d.part == p && d.handle == h && decide (g ≤ d.gran) && decide (d.gran < g + n) && d.answer.isNone then { d with answer := some none } else d) })
  match op with
  | none => s
  | some k => s.tierOpFail k

/-- Bulk tags in use on a port, and the tags the bulk class may hold (R323). -/
def State.bulkUsed (s : State) (q : Nat) : Nat :=
  (s.tiers.reads.filter (fun r => r.cls == 1 && r.copy == q && (match s.obj? r.part r.handle with
    | some o => o.tier == 1
    | none => false))).length
def State.bulkMax (s : State) (q : Nat) : Nat := if q = 0 then s.rd F.tierBulkTags0 else s.rd F.tierBulkTags1

/-- The replicas of an object whose channels are open, in the order their turns come from one on (R324). -/
def State.openReps (s : State) (p : Nat) (o : Obj) (from_ : Nat) : List Nat :=
  ((List.range o.reps.length).map (fun i => (from_ + i) % o.reps.length)).filter (fun j => match o.reps[j]? with
    | some r => s.repOpen p r
    | none => false)

/-- A neighbour chunk of n granules from g on asked of replica j (R324). -/
def State.chunkRead (s : State) (r : TierRead) (o : Obj) : State :=
  let tag := s.tiers.nextTag
  let s := s.setTiers (fun t => { t with nextTag := (t.nextTag + 1) % 2 ^ 32, reads := t.reads ++ [{ r with tag := tag }] })
  match o.reps[r.copy]? with
  | none => s
  | some y => (s.toLender r.part y 1 tag (r.gran * 4096) (r.n * 4096) []).2

/-- The next request of a bulk read sent, if a tag is at hand: a host granule, or a neighbour chunk of up to 16 granules, dealt round-robin
over the replicas whose channels are open; none open, no copy serves it (R323, R324). -/
def State.tierIssueOne (s : State) (k : Nat) : Option State :=
  match tget? s.tiers.ops k with
  | none => none
  | some x =>
    match x.queue, s.obj? x.part x.handle with
    | g :: rest, some o =>
      if o.tier = 1 then
        let q := s.granPort o g
        if s.tierHolds q || s.bulkMax q ≤ s.bulkUsed q || 256 ≤ s.tagsUsed q then none
        else some (s.setTiers (fun t => { t with
          ops := tput t.ops k { x with queue := rest, wait := x.wait ++ [g] }, reads := t.reads ++ [⟨x.part, x.handle, g, 1, 1, q, 0, 0, some k⟩] }))
      else
        if s.tierHolds (s.portOf x.part) then none
        else
        let n := ((List.range 16).takeWhile (fun i => nthD x.queue i (g + i + 1) == g + i)).length
        let first := x.ofs / 4096
        let up := s.openReps x.part o first
        if up = [] then some (s.granulesLost x.part x.handle g n 0 (some k))
        else
          let j := nthD up ((g - first) / 16 % up.length) 0
          let s := s.setTiers (fun t => { t with ops := tput t.ops k { x with queue := x.queue.drop n, wait := x.wait ++ x.queue.take n } })
          some (s.chunkRead ⟨x.part, x.handle, g, n, 1, j, 0, 0, some k⟩ o)
    | _, _ => none

/-- Every request a bulk read may send now. -/
def State.tierIssue (s : State) (k : Nat) : State :=
  ((List.range 512).foldl (fun (a : Bool × State) _ =>
    if a.1 then a
    else match a.2.tierIssueOne k with
      | none => (true, a.2)
      | some s => (false, s)) (false, s)).2

/-- Every bulk read served what its class now allows. -/
def State.tierIssueAll (s : State) : State := s.tiers.ops.foldl (fun s e => s.tierIssue e.1) s

/-- A granule a demand read waits for asked of its object, unless a read in flight brings it (R322 to R324): a host granule on any free
tag, or a neighbour chunk of it and of those after it that wait as well. -/
def State.demandAsk (s : State) (d : Demand) : State :=
  let flying := fun (g : Nat) => s.tiers.reads.any (fun r => r.part == d.part && r.handle == d.handle && decide (r.gran ≤ g) && decide (g < r.gran + r.n))
  let waits := fun (g : Nat) => s.tiers.demand.any (fun x => x.part == d.part && x.handle == d.handle && x.gran == g && x.answer.isNone)
  if !waits d.gran || flying d.gran then s
  else match s.obj? d.part d.handle with
    | none => s.granulesLost d.part d.handle d.gran 1 0 none
    | some o =>
      if o.tier = 1 then
        let q := s.granPort o d.gran
        if s.tierHolds q || 256 ≤ s.tagsUsed q then s
        else s.setTiers (fun t => { t with reads := t.reads ++ [⟨d.part, d.handle, d.gran, 1, 0, q, 0, 0, none⟩] })
      else
        if s.tierHolds (d.gran % 2) then s
        else
        let n := ((List.range 16).takeWhile (fun i => waits (d.gran + i) && !flying (d.gran + i))).length
        match s.openReps d.part o (d.gran % Nat.max 1 o.nrep) with
        | [] => s.granulesLost d.part d.handle d.gran n 0 none
        | j :: _ => s.chunkRead ⟨d.part, d.handle, d.gran, n, 0, j, 0, 0, none⟩ o

/-- Every demand read's requests sent. -/
def State.demandIssue (s : State) : State := s.tiers.demand.foldl State.demandAsk s

/-- A demand read's work tried for an asker, and what it lacks asked for; the answer says that it waits. -/
def State.demandRun (s : State) (a : Asker) (f : State → State) : Bool × State :=
  let (w, s) := s.demandTry a f
  (w, if w then s.demandIssue else s)

/-- A bulk read begun over [ofs, ofs + len) of an object. The answer is its number. -/
def State.tierStart (s : State) (p h ofs len : Nat) (use : TierFor) : Nat × State :=
  let k := s.tiers.nextOp
  let gs := (granPieces ofs len).map (fun ch => ch.1 / 4096)
  let s := s.setTiers (fun t => { t with nextOp := k + 1, ops := tput t.ops k ⟨p, h, ofs, len, use, gs, [], [], false⟩ })
  (k, s.tierIssue k)

/-- The bytes of a bulk read whose granules have all come. -/
def TierOp.bytes (x : TierOp) : List Byte :=
  (granPieces x.ofs x.len).flatMap (fun ch => bytesAt (tgetD x.got (ch.1 / 4096) []) (ch.1 % 4096) ch.2)

def TierOp.ready (x : TierOp) : Bool := x.queue == [] && x.wait == []

/-- A granule that serves a bulk read: a tier copy writes it at once, the others keep it until their own command. -/
def State.tierServe (s : State) (k g : Nat) (d : List Byte) : State :=
  match tget? s.tiers.ops k with
  | none => s
  | some x =>
    let x := { x with wait := x.wait.erase g, queue := x.queue.erase g }
    match x.use with
    | .copy dr dst =>
      let lo := Nat.max x.ofs (g * 4096)
      let hi := Nat.min (x.ofs + x.len) ((g + 1) * 4096)
      let (bad, s) := s.writePva (s.engCtx x.part engTier) (dst + (lo - x.ofs)) (bytesAt d (lo - g * 4096) (hi - lo)) false
      let s := s.setTiers (fun t => { t with ops := tput t.ops k x })
      if bad then (s.tierDrop k).complete dr 5 false 0
      else if x.ready then (s.tierDrop k).done dr
      else s
    | _ => s.setTiers (fun t => { t with ops := tput t.ops k { x with got := tput x.got g d } })

/-- One granule of a lower tier has come, in the clear: the buffer of its hub takes it, and what waits for it is served. -/
def State.granuleIn (s : State) (p h g hub : Nat) (d : List Byte) : State :=
  let s := (s.readNow p h).gbufPut ⟨hub, p, h, g, d⟩
  let s := s.setTiers (fun t => { t with demand := t.demand.map (fun x =>
    if x.part == p && x.handle == h && x.gran == g && x.answer.isNone then { x with answer := some (some d) } else x) })
  let ks := (s.tiers.ops.filter (fun e => e.2.part == p && e.2.handle == h && (e.2.wait.contains g || e.2.queue.contains g))).map (fun e => e.1)
  ks.foldl (fun s k => s.tierServe k g d) s

/-- The reads in flight on the tier engine of hub h given up and owed again, as its reset takes it (Table 17-6): demand reads and bulk
reads are reissued at its release. -/
def State.tierRecall (s : State) (h : Nat) : State :=
  let mine := fun (r : TierRead) => (match s.obj? r.part r.handle with
    | some o => if o.tier = 1 then r.copy else if r.op.isSome then s.portOf r.part else r.gran % 2
    | none => r.copy) == h
  let out := s.tiers.reads.filter mine
  s.setTiers (fun t => { t with
    reads := t.reads.filter (fun r => !mine r)
    ops := out.foldl (fun ops r => match r.op with
      | none => ops
      | some k => tmap ops (fun i x =>
          let gs := ((List.range r.n).map (fun j => r.gran + j)).filter (fun g => x.wait.contains g)
          if i = k then { x with queue := gs ++ x.queue, wait := x.wait.filter (fun g => !gs.contains g) } else x)) t.ops })

/-- GRANULE_READ_COMPLETE (R322): the 4 KiB a host read brought, as its backing holds them. -/
def State.granuleRead (s : State) (p h g : Nat) (raw : List Byte) : State :=
  match s.obj? p h with
  | none => s
  | some o =>
    let rd := s.tiers.reads.find? (fun r => r.part == p && r.handle == h && r.gran == g)
    let q := (rd.map (fun r => r.copy)).getD (s.granPort o g)
    if o.tier != 1 || o.length ≤ g * 4096 || (rd.isNone && s.tierHolds q) then s
    else
      let raw := bytesAt raw 0 4096
      let s := s.hostWrite q (o.hostAddr q g) raw
      let s := s.tierMib (if q = 0 then F.tierHrd0 else F.tierHrd1) 0 q 4096
      let s := s.setTiers (fun t => { t with reads := t.reads.filter (fun r => !(r.part == p && r.handle == h && r.gran == g)) })
      (s.granuleIn p h g q (s.granCrypt p o g true raw)).tierIssueAll.demandIssue

/-! ## Promotion (R329 to R336) -/

/-- The sets of a promotion entry's shard image, its length and the current one. -/
def State.entryShard (s : State) (p : Nat) (e : PromoEntry) : Option Shard × State :=
  match s.descRead p e.shePva 128 with
  | (none, s) => (none, s)
  | (some b, s) => (some (shardOf b), s)

/-- One entry taken at its tick by a step (R330): skipped with SIG posted, or its copy begun. -/
def State.promoTake (s : State) (p plan i : Nat) (r : StepRun) : State :=
  match s.promoEntry? p plan i with
  | none => s
  | some e =>
    let live := fun (x : Nat × Nat) => (s.stepRun? p x.1).isSome || (e.state == 2 && decide (e.since < x.2))
    let s := s.modEntry p plan i (fun e => { e with touched := tput (e.touched.filter live) r.id r.first })
    if (s.shard? p e.shard).isSome && (e.state == 1 || e.state == 2) then (s.inc F.pPskips 1 p).postSig p e.sig
    else if e.copying.isSome then s
    else match s.entryShard p e with
      | (none, s) => s.promoFail p plan i
      | (some x, s) =>
        let (k, s) := s.tierStart p e.objCur 0 x.setLen (.promo plan i)
        if thas s.tiers.ops k then s.modEntry p plan i (fun e => { e with copying := some k }) else s

/-- The entries a running step takes now (R330), in list order: those whose START_TIDX is its tick index, and, as it begins, those whose
START_TIDX is behind it. -/
def State.promoBoundary (s : State) (p : Nat) (begins : Bool) : State :=
  match s.runStep? p, s.tidxNow p with
  | some r, some k =>
    match tget? (s.part p).tier.promos r.plan with
    | none => s
    | some l =>
      if r.phase != .running then s
      else iterN l.entries.length (fun i s => match s.promoEntry? p r.plan i with
        | some e => if (e.startTidx = k || begins && e.startTidx ≤ k) && !thas e.touched r.id then s.promoTake p r.plan i r else s
        | none => s) s
  | _, _ => s

/-- A promotion list released leaves once no promotion or demotion of it is in flight. -/
def State.promoTryRelease (s : State) (p plan : Nat) : State :=
  match tget? (s.part p).tier.promos plan with
  | none => s
  | some l =>
    match l.releasing with
    | none => s
    | some d =>
      if l.entries.any (fun e => e.copying.isSome || e.reading) then s
      else (s.modTier p (fun t => { t with promos := tdel t.promos plan })).done d

/-- PROMOTION_COPY_COMPLETE (R330, R331). -/
def State.promoDone (s : State) (p plan i : Nat) : State :=
  match s.promoEntry? p plan i with
  | none => s
  | some e =>
    match e.copying with
    | none => s
    | some k =>
      match tget? s.tiers.ops k with
      | none => s
      | some x =>
        if !x.ready then s
        else match s.descRead p e.shePva 128 with
          | (none, s) => ((s.tierDrop k).promoFail p plan i).promoTryRelease p plan
          | (some b, s) =>
            let sh := { shardOf b with commits := e.commits, root := e.root }
            let (bad, s) := s.writePva (s.engCtx p engTier) sh.curSet x.bytes false
            let s := s.tierDrop k
            if bad || thas (s.part p).shards e.shard || !s.shardOk p b then (s.promoFail p plan i).promoTryRelease p plan
            else
              let s := (s.putShard p e.shard sh).countShards p
              let s := s.modEntry p plan i (fun e => { e with state := 1, copying := none, failed := false })
              ((s.inc F.pPromos 1 p).postSig p e.sig).promoTryRelease p plan

/-- An entry as its demotion begins, at tick k (R332). -/
def PromoEntry.demote (e : PromoEntry) (k : Nat) : PromoEntry := { e with state := 2, reading := true, since := k, owed := false }

/-- After digest commit of a step, the entries of MODE 0b00 that it promoted or skipped are demoted, and those whose last demotion failed
(R332, R335); one that is being demoted owes another. -/
def State.demoteAll (s : State) (p plan run : Nat) : State :=
  s.modTier p (fun t => { t with promos := tmap t.promos (fun n l => { l with entries := l.entries.map (fun e =>
    let mine := n == plan && thas e.touched run
    let e := if n = plan then { e with touched := tdel e.touched run } else e
    if e.mode != 0 then e
    else if e.state = 1 && (mine || e.owed) then e.demote s.tick
    else if e.state = 2 && mine then { e with owed := true }
    else e) }) })

/-- Whether a shard is being read by a demotion (R333). -/
def State.demoReading (s : State) (p shard : Nat) : Bool :=
  (s.part p).tier.promos.any (fun l => l.2.entries.any (fun e => e.shard == shard && e.reading))

/-- A demotion that fails (R335): the device copy stays, and the entry is demoted again after the next commit. -/
def State.demoFail (s : State) (p plan i : Nat) (e : PromoEntry) : State :=
  let s := s.modEntry p plan i (fun e => { e with state := 1, reading := false, owed := true })
  ((s.tierEvent p e.objAlt 0 0 4 plan e.shard).inc F.pTierFail 1 p).promoTryRelease p plan

/-- DEMOTION_COMPLETE (R332, R334, R335): the current set lies in OBJ_ALT as the next version, or the write failed. The shard is released
unless a step that began after the commit has skipped the entry. -/
def State.demoDone (s : State) (p plan i : Nat) (failed : Bool) : State :=
  match s.promoEntry? p plan i with
  | none => s
  | some e =>
    match s.obj? p e.objAlt, s.obj? p e.objCur, s.shard? p e.shard with
    | some alt, some cur, some sh =>
      if e.state != 2 || !e.reading || alt.state != 1 then s
      else if failed then s.demoFail p plan i e
      else
        let (x, s) := s.readPva (s.engCtx p engTier) sh.curSet sh.setLen
        if x.fault || x.poison then s.demoFail p plan i e
        else
          let alt := { alt with ver := (cur.ver + 1) % 2 ^ 64 }
          let (all, s) := s.writeBacking p e.objAlt alt 0 x.bytes none
          if !all then s.demoFail p plan i e
          else
            let s := (s.modObj p (hSlot e.objAlt) (fun o => { o with ver := alt.ver, state := 2 })).dropBuilds p e.objAlt
            let s := if alt.tier = 2 then s.sealReplicas p alt 4 else s
            let s := s.modObj p (hSlot e.objCur) (fun o => { o with state := 3, recreate := some (plan, i) })
            let later := e.touched.any (fun x => decide (e.since < x.2))
            let s := s.modEntry p plan i (fun e =>
              let e := { e with objCur := e.objAlt, objAlt := e.objCur, commits := sh.commits, root := sh.root, reading := false, state := if later then 1 else 0 }
              if e.owed then e.demote s.tick else e)
            let s := (s.writeEntry p plan i).inc F.pDemos 1 p
            let s := if later || e.owed then s else (s.modPart p (fun q => { q with shards := tdel q.shards e.shard })).countShards p
            s.promoTryRelease p plan
    | _, _, _ => s

/-- The entries a warm reset finds resident or demoting (R336): one whose shard set was scrubbed is lost, and a demotion cut short stands
to begin again. -/
def State.promosWarm (s : State) (p : Nat) : State :=
  let cut := fun (s : State) (f : PromoEntry → PromoEntry) =>
    s.modTier p (fun t => { t with promos := tmap t.promos (fun _ l => { l with entries := l.entries.map f }) })
  let here := fun (e : PromoEntry) => e.state == 1 || e.state == 2
  let s := if s.confidential p then
      let s := (s.part p).tier.promos.foldl (fun s l => (l.2.entries.filter here).foldl (fun s e => s.tierEvent p e.objCur 0 0 5 l.1 e.shard) s) s
      cut s (fun e => if here e then { e with state := 3, reading := false } else e)
    else s
  cut s (fun e => { e with copying := none, touched := [], owed := false, since := s.tick, reading := e.state == 2 })

/-! ## Failing reads and lenders' answers (R325, R326) -/

/-- A read in flight that failed (R325): sent again to the next copy while the rounds last, else reported. A replica whose channel is not
open is passed over. -/
def State.tierReadFail (s : State) (r : TierRead) : State :=
  let s := s.setTiers (fun t => { t with reads := t.reads.erase r })
  match s.obj? r.part r.handle with
  | none => s
  | some o =>
    if o.tier = 1 then
      if o.hmode = 2 && r.rounds = 0 then
        (s.tierEvent r.part r.handle r.gran (1 - r.copy) 1 0 0).setTiers (fun t => { t with reads := t.reads ++ [{ r with copy := 1 - r.copy, rounds := 1 }] })
      else s.granulesLost r.part r.handle r.gran r.n r.copy r.op
    else
      let left := s.rd F.tierNbRetry * o.nrep - 1 - r.rounds
      let open' := s.openReps r.part o 0
      match (List.range left).find? (fun i => open'.contains ((r.copy + 1 + i) % Nat.max 1 o.nrep)) with
      | none => s.granulesLost r.part r.handle r.gran r.n r.copy r.op
      | some i =>
        let j := (r.copy + 1 + i) % Nat.max 1 o.nrep
        (s.tierEvent r.part r.handle r.gran j 1 0 0).chunkRead { r with copy := j, rounds := r.rounds + 1 + i } o

/-- GRANULE_READ_FAIL (R325): the read in flight of a granule fails. -/
def State.granuleFail (s : State) (p h g : Nat) : State :=
  match s.tiers.reads.find? (fun r => r.part == p && r.handle == h && r.gran ≤ g && g < r.gran + r.n) with
  | some r => (s.tierReadFail r).tierIssueAll.demandIssue
  | none => s

/-- The neighbour chunk being read that a request's tag names. -/
def State.nbrRead? (s : State) (p tag : Nat) : Option TierRead :=
  s.tiers.reads.find? (fun r => r.part == p && r.tag == tag && (match s.obj? r.part r.handle with
    | some o => o.tier == 2
    | none => false))

/-- A neighbour chunk has come (R324). -/
def State.tierReadData (s : State) (cid tag : Nat) (data : List Byte) : State :=
  match tget? s.net.chans cid with
  | none => s
  | some c =>
    match s.nbrRead? c.part tag with
    | none => s
    | some r =>
      match s.obj? r.part r.handle with
      | none => s
      | some o =>
        let s := s.setTiers (fun t => { t with reads := t.reads.erase r })
        let s := s.tierMib F.tierNrd 0 2 (4096 * r.n)
        ((List.range r.n).foldl (fun s i =>
          s.granuleIn r.part r.handle (r.gran + i) ((r.gran + i) % 2) (s.granCrypt r.part o (r.gran + i) true (bytesAt data (4096 * i) 4096))) s).tierIssueAll.demandIssue

/-- A lender's status, or the failing end of the message itself (R325, R326). -/
def State.tierStatus (s : State) (p tag status : Nat) : State :=
  match s.nbrRead? p tag with
  | some r => if status = 0 then s else (s.tierReadFail r).tierIssueAll.demandIssue
  | none =>
    match tget? s.tiers.msgs tag with
    | none => s
    | some m =>
      if m.part != p then s
      else
        let s := s.setTiers (fun t => { t with msgs := tdel t.msgs tag })
        match m.write with
        | none => if 0x80 ≤ m.kind then { s with net := { s.net with ends := s.net.ends ++ [(3, tag, status)] } } else s
        | some d =>
          if status != 0 then s.endWrite p d 3
          else if s.tiers.msgs.any (fun e => e.2.write == some d) then s
          else s.endWrite p d 0

/-- The failing ends of the tier engine's own messages, as the transport told them. -/
def State.tierEnds (s : State) : State :=
  (s.net.ends.filter (fun e => e.1 == 1)).foldl (fun s e =>
    let s := { s with net := { s.net with ends := s.net.ends.erase e } }
    match s.liveParts.find? (fun p => (s.nbrRead? p e.2.1).isSome) with
    | some p => s.tierStatus p e.2.1 e.2.2
    | none => match tget? s.tiers.msgs e.2.1 with
      | some m => s.tierStatus m.part e.2.1 e.2.2
      | none => s) s

/-! ## Lends (R326, R327) -/

/-- The lend a message on a channel names, if it is there and its channel is this one. -/
def State.lend? (s : State) (cid lend : Nat) : Option (Nat × Lend) :=
  match tget? s.net.chans cid with
  | none => none
  | some c =>
    match tget? (s.part c.part).tier.lends lend with
    | none => none
    | some l => if l.chan = c.handle cid then some (c.part, l) else none

def State.putLend (s : State) (p n : Nat) (l : Lend) : State := s.modTier p (fun t => { t with lends := tput t.lends n l })

/-- A lender's answer on the lend's channel. -/
def State.lendReply (s : State) (cid kind lend status tag ofs len : Nat) (data : List Byte) : State :=
  let m := tierMessage kind lend status tag ofs len data
  s.sendMsg cid 0 m.length (some m) (.engine 1 (2 ^ 32))

/-- Whether a range lies in the region, and whether it lies in one sealed extent, or touches any. -/
def Lend.inside (l : Lend) (ofs n : Nat) : Bool := decide (ofs + n ≤ l.len)
def Lend.sealedAll (l : Lend) (ofs n : Nat) : Bool := l.extents.any (fun e => e.1 ≤ ofs && ofs + n ≤ e.1 + e.2)
def Lend.sealedAny (l : Lend) (ofs n : Nat) : Bool := l.extents.any (fun e => spansMeet e.1 e.2 ofs n)

/-- A lender's own memory context: the STREAM hint (R327). -/
def State.lendCtx (s : State) (p : Nat) : Ctx := { s.engCtx p engTier with hint := hintStream }

/-- TIER_READ_REQUEST_RX (R326). -/
def State.lendRead (s : State) (cid lend tag ofs len : Nat) : State :=
  match s.lend? cid lend with
  | none => s.lendReply cid 6 lend 3 tag ofs len []
  | some (p, l) =>
    if !l.inside ofs len || 65536 < len then s.lendReply cid 6 lend 1 tag ofs len []
    else if !l.sealedAll ofs len then s.lendReply cid 6 lend 2 tag ofs len []
    else
      let (x, s) := s.readPva (s.lendCtx p) (l.pva + ofs) len
      if x.fault || x.poison then s.lendReply cid 6 lend 1 tag ofs len [] else s.lendReply cid 2 lend 0 tag ofs len x.bytes

/-- TIER_WRITE_RX (R326): a sealed extent touched is violation 0x04 and nothing is written. -/
def State.lendWrite (s : State) (cid lend tag ofs len msn : Nat) (data : List Byte) : State :=
  match s.lend? cid lend, tget? s.net.chans cid with
  | some (p, l), some c =>
    if !l.inside ofs len then s.lendReply cid 6 lend 1 tag ofs len []
    else if l.sealedAny ofs len then s.violationOf cid 4 msn ofs c.pkey c.peerCid ((c.remotes.head?).getD c.peerIp) 0 0
    else
      let (bad, s) := s.writePva (s.lendCtx p) (l.pva + ofs) (bytesAt data 0 len) false
      s.lendReply cid 6 lend (if bad then 1 else 0) tag ofs len []
  | _, _ => s.lendReply cid 6 lend 3 tag ofs len []

/-- TIER_SEAL_RX and TIER_UNSEAL_RX (R326). -/
def State.lendSeal (s : State) (cid lend tag ofs len : Nat) (undo : Bool) : State :=
  match s.lend? cid lend with
  | none => s.lendReply cid 6 lend 3 tag ofs len []
  | some (p, l) =>
    if !l.inside ofs len then s.lendReply cid 6 lend 1 tag ofs len []
    else if undo then
      if l.extents.contains (ofs, len) then (s.putLend p lend { l with extents := l.extents.erase (ofs, len) }).lendReply cid 6 lend 0 tag ofs len []
      else s.lendReply cid 6 lend 2 tag ofs len []
    else if 256 ≤ l.extents.length then s.lendReply cid 6 lend 4 tag ofs len []
    else (s.putLend p lend { l with extents := l.extents ++ [(ofs, len)] }).lendReply cid 6 lend 0 tag ofs len []

/-- Whether a message of a lend is in flight: a send of its channel not yet acknowledged. -/
def State.lendBusy (s : State) (p : Nat) (l : Lend) : Bool :=
  match s.chan? p l.chan with
  | none => false
  | some (_, c) => c.sends.any (fun m => match m.owner with
    | .engine 1 _ => true
    | _ => false)

/-- A released lend leaves once nothing of it is in flight (Table 9-3). -/
def State.lendTryRelease (s : State) (p n : Nat) : State :=
  match tget? (s.part p).tier.lends n with
  | none => s
  | some l =>
    match l.releasing with
    | none => s
    | some d => if s.lendBusy p l then s else (s.modTier p (fun t => { t with lends := tdel t.lends n })).done d

/-- The releases of lends and promotion lists that wait, looked at again (Table 9-3). -/
def State.tierLook (s : State) : State :=
  s.liveParts.foldl (fun s p =>
    let t := (s.part p).tier
    let s := t.lends.foldl (fun s e => s.lendTryRelease p e.1) s
    t.promos.foldl (fun s e => s.promoTryRelease p e.1) s) s

/-! ## Descriptors 0x25 to 0x29 -/

/-- Descriptor 0x25 (R319, R324). -/
def State.runTierCopy (r : DRef) (d : Desc) (s : State) : State :=
  let p := r.part
  let h := d.at 16 32
  match s.obj? p h with
  | none => s.noObj r h
  | some o =>
    if o.state != 2 then s.wrongState r h
    else if o.length < d.at 24 64 + d.at 32 64 then s.noObj r h
    else if d.at 32 64 = 0 then s.done r
    else (s.tierStart p h (d.at 24 64) (d.at 32 64) (.copy r (d.at 40 64))).2

/-- The entry a promotion list image holds. -/
def promoOf (b : Nat) : PromoEntry :=
  { shard := fldN b 0 12, mode := fldN b 12 2, state := 0, startTidx := fldN b 16 16, sig := fldN b 32 6, objCur := fldN b 64 32,
    objAlt := fldN b 96 32, shePva := fldN b 128 64, commits := fldN b 192 64, root := fldN b 512 512, copying := none, touched := [],
    reading := false, failed := false, since := 0, owed := false }

/-- Whether an entry passes R329, its shard image read. -/
def State.promoEntryOk (s : State) (p : Nat) (e : PromoEntry) : Bool × State :=
  match s.obj? p e.objCur, s.obj? p e.objAlt with
  | some c, some a =>
    match s.entryShard p e with
    | (none, s) => (false, s)
    | (some x, s) => (decide (e.mode < 2) && c.state == 2 && a.state == 1 && a.lineage == c.lineage && decide (x.setLen ≤ c.length) &&
        decide (x.setLen ≤ a.length), s)
  | _, _ => (false, s)

/-- Descriptor 0x26 (R329). -/
def State.runPromoRegister (r : DRef) (d : Desc) (s : State) : State :=
  let p := r.part
  let plan := d.fld 0 8
  let n := clampN (d.fld 16 13) 1 4096
  let cl := n != d.fld 16 13
  let s := if cl then s.clampDesc r (if d.fld 16 13 < n then 1 else 2) 0x0505 (d.fld 16 13) n else s
  let r := { r with clamped := r.clamped || cl }
  let known := match tget? (s.part p).cad.plans plan with
    | some x => x.releasing.isNone
    | none => false
  if !known || thas (s.part p).tier.promos plan then s.nullDesc r tierNull plan
  else match s.descRead p (d.at 24 64) (128 * n) with
    | (none, s) => s.noop r
    | (some bs, s) =>
      let es := (List.range n).map (fun i => promoOf (leAt bs (128 * i) 128))
      let (ok, s) := es.foldl (fun (a : Bool × State) e => if a.1 then a.2.promoEntryOk p e else a) (true, s)
      if ok then (s.modTier p (fun t => { t with promos := tput t.promos plan ⟨d.at 24 64, es, none⟩ })).done r
      else s.nullDesc r tierNull plan

/-- Descriptor 0x27 (R662). -/
def State.runPromoRelease (r : DRef) (d : Desc) (s : State) : State :=
  let p := r.part
  let plan := d.fld 0 8
  match tget? (s.part p).tier.promos plan with
  | none => s.nullDesc r tierNull plan
  | some l =>
    if l.releasing.isSome then s.nullDesc r tierNull plan
    else (s.modTier p (fun t => { t with promos := tput t.promos plan { l with releasing := some r } })).promoTryRelease p plan

/-- Descriptor 0x28. -/
def State.runLendRegister (r : DRef) (d : Desc) (s : State) : State :=
  let p := r.part
  let n := d.fld 0 8
  let open' := match s.chan? p (d.at 20 32) with
    | some (_, c) => c.state == 2
    | none => false
  if thas (s.part p).tier.lends n || !open' || !s.rwArea p (d.at 24 64) (d.at 32 64) then s.nullDesc r tierNull n
  else (s.putLend p n ⟨p, d.at 20 32, d.at 24 64, d.at 32 64, [], none⟩).done r

/-- Descriptor 0x29 (R327, R662). -/
def State.runLendRelease (r : DRef) (d : Desc) (s : State) : State :=
  let p := r.part
  let n := d.fld 0 8
  match tget? (s.part p).tier.lends n with
  | none => s.nullDesc r tierNull n
  | some l =>
    if l.releasing.isSome then s.nullDesc r tierNull n
    else (s.putLend p n { l with releasing := some r }).lendTryRelease p n

/-! ## Commands -/

/-- OBJECT_FREE (R320). -/
def execObjectFree (p : PartId) (slot : Fin 4096) (s : State) : Host.Outcome State Fault Refusal := finish (s.objFree p.val slot.val)

/-- TIER_READ_REQUEST_RX (R326). -/
def execTierReadRequestRx (cid : Fin 16384) (h : TierHdr) (s : State) : Host.Outcome State Fault Refusal :=
  finish (s.lendRead cid.val h.lend.toNat h.tag.toNat h.offset.toNat h.length.toNat)

/-- TIER_WRITE_RX (R326). -/
def execTierWriteRx (cid : Fin 16384) (h : TierHdr) (data : List Byte) (s : State) : Host.Outcome State Fault Refusal :=
  finish (s.lendWrite cid.val h.lend.toNat h.tag.toNat h.offset.toNat h.length.toNat h.msn.toNat data)

/-- TIER_SEAL_RX (R326). -/
def execTierSealRx (cid : Fin 16384) (h : TierHdr) (s : State) : Host.Outcome State Fault Refusal :=
  finish (s.lendSeal cid.val h.lend.toNat h.tag.toNat h.offset.toNat h.length.toNat false)

/-- TIER_UNSEAL_RX (R326). -/
def execTierUnsealRx (cid : Fin 16384) (h : TierHdr) (s : State) : Host.Outcome State Fault Refusal :=
  finish (s.lendSeal cid.val h.lend.toNat h.tag.toNat h.offset.toNat h.length.toNat true)

/-- PROMOTION_COPY_COMPLETE (R330). -/
def execPromotionCopyComplete (p : PartId) (plan : Byte) (i : Fin 4096) (s : State) : Host.Outcome State Fault Refusal :=
  finish (s.promoDone p.val plan.toNat i.val)

/-- DEMOTION_COMPLETE (R334, R335). -/
def execDemotionComplete (p : PartId) (plan : Byte) (i : Fin 4096) (failed : Bool) (s : State) : Host.Outcome State Fault Refusal :=
  finish (s.demoDone p.val plan.toNat i.val failed)

end Sys2Proof.Machine
end

