-- ==== Sys2Proof/Machine/Collectives.lean ====
section
/-! DEFINITION. Collective groups and lists (12_collectives_and_steps.md, R412 to R424): groups and their buffers, messages
over channels and peer-to-peer rings, and the all-gather, broadcast and all-to-all entries of a step's list. -/
namespace Sys2Proof.Machine

/-- The field code of a collective field set to the null resource (R523); Table 0-7 gives its block. -/
def collNull : Nat := freeCode 7 0

def State.modColl (s : State) (p : Nat) (f : PColl → PColl) : State := s.modPart p (fun x => { x with coll := f x.coll })

def State.group? (s : State) (p g : Nat) : Option CollGroup := tget? (s.part p).coll.groups g

def State.putGroup (s : State) (p g : Nat) (x : CollGroup) : State := s.modColl p (fun c => { c with groups := tput c.groups g x })

/-- Member r of group g changed by f. -/
def State.modMember (s : State) (p g r : Nat) (f : CollMember → CollMember) : State :=
  s.modColl p (fun c => { c with groups := tmod c.groups g (fun x =>
    { x with members := (List.range x.members.length).zip x.members |>.map (fun m => if m.1 = r then f m.2 else m.2) }) })

/-- S, the owners of shard j, and the shard and replica row of a rank (the groups' opening text). -/
def CollGroup.shards (x : CollGroup) : Nat := x.n / Nat.max 1 x.repl
def CollGroup.owners (x : CollGroup) (j : Nat) : List Nat := (List.range x.repl).map (fun i => j + i * x.shards)
def CollGroup.ownShard (x : CollGroup) : Nat := x.self % Nat.max 1 x.shards
def CollGroup.peers (x : CollGroup) : List Nat := (List.range x.n).filter (fun r => r != x.self)

def CollGroup.bufLen (x : CollGroup) : Nat := 2 ^ (16 + x.bufLog)
def CollGroup.slotLen (x : CollGroup) : Nat := 2 ^ (16 + x.ringLog)
def CollGroup.nodeOf (x : CollGroup) (r : Nat) : Nat := ((x.members[r]?).map (fun m => m.node)).getD 0

/-- The rank a channel handle belongs to. -/
def CollGroup.rankOf (x : CollGroup) (handle : Nat) : Option Nat :=
  x.peers.find? (fun r => match x.members[r]? with
    | some m => m.chan == handle
    | none => false)

/-- A group image (Table 12-2) as a number. -/
def groupOf (b : Nat) : CollGroup :=
  let n := fldN b 12 7
  { n := n, repl := fldN b 19 3, self := fldN b 22 6, bufLog := fldN b 28 4, ringSlots := fldN b 32 10, ringLog := fldN b 42 3,
    pool := fldN b 64 64, ring := fldN b 128 64,
    members := (List.range n).map (fun i =>
      let o := 512 + 128 * i
      { chan := fldN b o 32, node := fldN b (o + 32) 8, p2p := bitN b (o + 40), port := fldN b (o + 41) 1, addr := fldN b (o + 64) 64,
        sent := 0, acked := 0, taken := 0, flight := [], queue := [], moved := 0, fallback := false }),
    releasing := none }

/-- Bytes of a group's landing area (R421). -/
def CollGroup.landing (x : CollGroup) : Nat := if x.ringSlots = 0 then 0 else 512 + x.n * x.ringSlots * x.slotLen

/-- Whether an image passes R412. -/
def State.groupOk (s : State) (p g b : Nat) : Bool :=
  let x := groupOf b
  let pool := (x.n - 1) * s.rd F.pNbuf p * x.bufLen
  fldN b 0 8 == 0x10 && fldN b 8 4 == g && decide (1 ≤ x.n) && decide (x.n ≤ 64) && decide (1 ≤ x.repl) && decide (x.repl ≤ 4) &&
    x.n % x.repl == 0 && decide (x.bufLog ≤ 8) && decide (x.ringLog ≤ 4) && decide (x.self < x.n) &&
    x.peers.all (fun r => match x.members[r]? with
      | none => false
      | some m => match s.chan? p m.chan with
        | some (_, c) => c.state == 2 && c.mode == 2
        | none => false) &&
    s.rwArea p x.pool pool && s.rwArea p x.ring x.landing && areasApart [(x.pool, pool), (x.ring, x.landing)] &&
    decide ((s.part p).coll.groups.length < 16)

/-- The pool buffers of a group posted (R413): NBUF on each member channel. -/
def State.postPool (s : State) (p g : Nat) (x : CollGroup) : State :=
  let nbuf := s.rd F.pNbuf p
  ((List.range x.peers.length).zip x.peers).foldl (fun s e =>
    match x.members[e.2]? with
    | none => s
    | some m => match s.chan? p m.chan with
      | none => s
      | some (cid, _) => iterN nbuf (fun i s =>
          s.postBuf cid (e.1 * nbuf + i) (x.pool + (e.1 * nbuf + i) * x.bufLen) x.bufLen (.engine 2 (16 * p + g))) s) s

/-- Descriptor 0x40 (R412, R413, R422). -/
def State.runGroupRegister (r : DRef) (d : Desc) (s : State) : State :=
  let p := r.part
  let g := d.fld 0 4
  if (s.group? p g).isSome then s.nullDesc r collNull g
  else match s.descRead p (d.at 24 64) 1088 with
    | (none, s) => s.noop r
    | (some bs, s) =>
      let b := leNat bs
      if !s.groupOk p g b then s.nullDesc r collNull g
      else
        let x := groupOf b
        let n := (x.members.filter (fun m => m.p2p)).length
        let secret := s.confidential p
        let s := if secret then iterN n (fun _ s => s.clampDesc r 8 0x0708 1 0) s else s
        let x := if secret then { x with members := x.members.map (fun m => { m with p2p := false }) } else x
        ((s.putGroup p g x).postPool p g x).done { r with clamped := r.clamped || (secret && n != 0) }

/-- Whether a list, a sheaf or the permute names a group. -/
def State.groupNamed (s : State) (p g : Nat) : Bool :=
  let c := (s.part p).coll
  c.lists.any (fun e => e.2.entries.any (fun w => fldN w 8 4 == g)) || c.sheaves.any (fun e => e.2.group == g) ||
    (match c.permute with | some x => x.group == g | none => false)

/-- Every pool buffer of a group returned, counted as R413 says; messages that lie in them are dropped. -/
def State.returnPool (s : State) (p g : Nat) (x : CollGroup) : State :=
  let own : GnxOwner := .engine 2 (16 * p + g)
  x.members.foldl (fun s m =>
    match s.chan? p m.chan with
    | none => s
    | some (cid, c) =>
      let s := (c.bufs.filter (fun b => b.owner == own)).foldl (fun s b => s.revoke cid b) s
      s.modChan cid (fun c => { c with taken := c.taken.filter (fun b => b.owner != own) })) s

/-- A group's release once nothing names it (R413, R662). -/
def State.groupTryRelease (s : State) (p g : Nat) : State :=
  match s.group? p g with
  | none => s
  | some x =>
    match x.releasing with
    | none => s
    | some d =>
      if s.groupNamed p g then s
      else (((s.returnPool p g x).modColl p (fun c => { c with groups := tdel c.groups g }))).done d

/-- Descriptor 0x41. -/
def State.runGroupRelease (r : DRef) (d : Desc) (s : State) : State :=
  let p := r.part
  let g := d.fld 0 4
  match s.group? p g with
  | none => s.nullDesc r collNull g
  | some x =>
    if x.releasing.isSome then s.nullDesc r collNull g
    else (s.putGroup p g { x with releasing := some r }).groupTryRelease p g

/-! ## Messages (R414, Table 12-3) -/

/-- A collective message; dig is the digest a permute leaf carries between header and payload. -/
def collMessage (kind group src entry part nparts step ofs seq piece : Nat) (dig data : List Byte) : List Byte :=
  leBytes 1 0x10 ++ leBytes 1 kind ++ leBytes 1 group ++ leBytes 1 src ++ leBytes 2 entry ++ leBytes 1 part ++ leBytes 1 nparts ++
    leBytes 8 step ++ leBytes 8 ofs ++ leBytes 4 data.length ++ leBytes 4 seq ++ leBytes 4 piece ++ List.replicate 28 0 ++ dig ++ data

/-- The header fields of a received message. -/
structure CollHdr where
  mver : Nat
  kind : Nat
  group : Nat
  src : Nat
  entry : Nat
  part : Nat
  nparts : Nat
  step : Nat
  ofs : Nat
  len : Nat
  seq : Nat
  piece : Nat
  deriving DecidableEq, Repr

def collHdr (b : List Byte) : CollHdr :=
  ⟨leAt b 0 1, leAt b 1 1, leAt b 2 1, leAt b 3 1, leAt b 4 2, leAt b 6 1, leAt b 7 1, leAt b 8 8, leAt b 16 8, leAt b 24 4,
    leAt b 28 4, leAt b 32 4⟩

/-- The keys under which the engine hears of a message: its partition, and above it 0 for a presence map, 1 and the rank for a permute, 65
and more for a list entry, its step run, its number and the rank. -/
def permKey (p rank : Nat) : Nat := p + 64 * (1 + rank % 64)
def entryKey (p run idx rank : Nat) : Nat := p + 64 * (65 + (run * 1024 + idx) * 64 + rank % 64)

/-- A message sent to a member over its channel (R415); a channel that is gone fails it. -/
def State.collSend (s : State) (p g rank key : Nat) (msg : List Byte) : State :=
  let lost := fun (s : State) => { s with net := { s.net with ends := s.net.ends ++ [(2, key, 5)] } }
  match s.group? p g with
  | none => lost s
  | some x => match x.members[rank]? with
    | none => lost s
    | some m => match s.chan? p m.chan with
      | some (cid, c) => if c.state = 2 then s.sendMsg cid 0 msg.length (some msg) (.engine 2 key) else lost s
      | none => lost s

/-! ### Peer-to-peer rings (R421, R507, R508) -/

/-- One slot of a member's ring written: the payload, then the header with the next SEQ. -/
def State.ringWrite (s : State) (p g rank key : Nat) (msg : List Byte) : State :=
  match s.group? p g with
  | none => s
  | some x => match x.members[rank]? with
    | none => s
    | some m =>
      let at' := m.addr + 512 + x.self * x.ringSlots * x.slotLen + m.sent % Nat.max 1 x.ringSlots * x.slotLen
      let msg := msg.take 28 ++ leBytes 4 (m.sent + 1) ++ msg.drop 32
      let s := s.hostWrite m.port (at' + 64) (msg.drop 64)
      let s := s.hostWrite m.port at' (msg.take 64)
      s.modMember p g rank (fun m => { m with
        sent := m.sent + 1, flight := m.flight ++ [(m.sent + 1, key, msg)],
        moved := if m.flight = [] then s.tick else m.moved })

/-- A message put on a member's ring, or held until the ring has a slot. -/
def State.ringSend (s : State) (p g rank key : Nat) (msg : List Byte) : State :=
  match s.group? p g with
  | none => s
  | some x => match x.members[rank]? with
    | none => s
    | some m =>
      if m.queue = [] && decide (m.sent - m.acked < x.ringSlots) then s.ringWrite p g rank key msg
      else s.modMember p g rank (fun m => { m with queue := m.queue ++ [(key, msg)] })

/-- Whether a member is reached by its ring from here (R421, R508). -/
def CollGroup.usesRing (x : CollGroup) (rank : Nat) : Bool :=
  match x.members[rank]? with
  | none => false
  | some m => m.p2p && !m.fallback && x.ringSlots != 0 && m.node == x.nodeOf x.self

/-- A member's acknowledgement word read: slots it counts are free again and their messages acknowledged; the messages that
wait go out. -/
def State.ringLook (s : State) (p g rank : Nat) : State :=
  match s.group? p g with
  | none => s
  | some x => match x.members[rank]? with
    | none => s
    | some m =>
      if !x.usesRing rank || (m.flight = [] && m.queue = []) then s
      else
        let (out, s) := s.readPva (s.engCtx p engColl) (x.ring + 8 * rank) 8
        let a := leNat out.bytes
        let a := if m.acked < a && a ≤ m.sent then a else m.acked
        let done := m.flight.filter (fun f => f.1 ≤ a)
        let s := { s with net := { s.net with ends := s.net.ends ++ done.map (fun (f : Nat × Nat × List Byte) => (2, f.2.1, 0)) } }
        let s := s.modMember p g rank (fun m => { m with
          acked := a, flight := m.flight.filter (fun f => a < f.1),
          moved := if m.acked < a then s.tick else m.moved, queue := [] })
        m.queue.foldl (fun s e => s.ringSend p g rank e.1 e.2) s

/-- Every ring of a partition's groups looked at. -/
def State.ringsLook (s : State) (p : Nat) : State :=
  (s.part p).coll.groups.foldl (fun s e => (List.range e.2.n).foldl (fun s r => s.ringLook p e.1 r) s) s

/-! ## List entries (R417 to R424, Table 12-4) -/

def eOp (e : Nat) : Nat := fldN e 0 8
def eGroup (e : Nat) : Nat := fldN e 8 4
def eStart (e : Nat) : Nat := fldN e 16 16
def eSlotFirst (e : Nat) : Nat := fldN e 32 16
def eSlotLast (e : Nat) : Nat := fldN e 48 16
def eDl (e : Nat) : Nat := fldN e 64 16
def eSheaf (e : Nat) : Nat := fldN e 80 10
def eRoot (e : Nat) : Nat := fldN e 90 6
def eSrc (e : Nat) : Nat := fldN e 192 64
def eDst (e : Nat) : Nat := fldN e 256 64
def eLen (e : Nat) : Nat := fldN e 320 64

/-- The members of a node, in ascending rank order. -/
def CollGroup.nodeMembers (x : CollGroup) (n : Nat) : List Nat := (List.range x.n).filter (fun r => x.nodeOf r == n)

/-- Whether the members lie on several nodes. -/
def CollGroup.manyNodes (x : CollGroup) : Bool := (List.range x.n).any (fun r => x.nodeOf r != x.nodeOf 0)

/-- Where member d takes a piece from (R419, R420, R423): owners hold it, named is the owner a member takes it from, i its
number. None for an owner. -/
def CollGroup.source (x : CollGroup) (owners : List Nat) (named : Nat → Nat) (i d : Nat) : Option Nat :=
  if owners.contains d then none
  else if !x.manyNodes then some (named d)
  else
    let node := x.nodeMembers (x.nodeOf d)
    match node.find? (fun r => owners.contains r) with
    | some r => some r
    | none =>
      let e := nthD node (i % Nat.max 1 node.length) d
      some (if e = d then named d else e)

/-- The pieces of an entry, their number. -/
def CollGroup.pieces (x : CollGroup) (e : Nat) : Nat :=
  if eLen e = 0 then 0
  else match eOp e with
    | 1 => x.shards
    | 2 => ceilDiv (eLen e) (x.bufLen - 64)
    | 3 => x.n
    | _ => 0

/-- The length of a piece, its place at DST_PVA, and where it comes from for member d. -/
def CollGroup.pieceLen (x : CollGroup) (e i : Nat) : Nat :=
  if eOp e = 2 then Nat.min (x.bufLen - 64) (eLen e - i * (x.bufLen - 64)) else eLen e
def CollGroup.pieceDst (x : CollGroup) (e i : Nat) : Nat := eDst e + i * (if eOp e = 2 then x.bufLen - 64 else eLen e)
def CollGroup.from? (x : CollGroup) (e i d : Nat) : Option Nat :=
  match eOp e with
  | 1 => x.source (x.owners i) (fun d => i + x.shards * (d / Nat.max 1 x.shards)) i d
  | 2 => x.source [eRoot e] (fun _ => eRoot e) i d
  | 3 => if d = i then none else some i
  | _ => none

/-- The pieces this member awaits, and the members it hands piece i to. -/
def CollGroup.needs (x : CollGroup) (e : Nat) : List Nat := (List.range (x.pieces e)).filter (fun i => (x.from? e i x.self).isSome)
def CollGroup.handsTo (x : CollGroup) (e i : Nat) : List Nat := x.peers.filter (fun d => x.from? e i d == some x.self)

/-- The members whose data an entry of this group expects (R415): the sources of its pieces, or a sheaf's contributors. -/
def State.entryExpects (s : State) (p e : Nat) (x : CollGroup) : List Nat :=
  if eOp e = 0 then
    match tget? (s.part p).coll.sheaves (eSheaf e) with
    | none => []
    | some h => x.peers.filter (fun r => bitN h.expMask r)
  else ((x.needs e).filterMap (fun i => x.from? e i x.self)).eraseDups

/-- The collective list of a step's plan. -/
def State.runList (s : State) (p : Nat) (r : StepRun) : List Nat :=
  ((tget? (s.part p).coll.lists r.plan).map (fun l => l.entries)).getD []

/-- The entry of a number in the list of a step run, with the run. -/
def State.entry? (s : State) (p run idx : Nat) : Option (StepRun × Nat) :=
  match s.stepRun? p run with
  | none => none
  | some r => ((s.runList p r)[idx]?).map (fun e => (r, e))

/-- An entry as it stands in a step run. -/
def State.entryRun (s : State) (p run idx : Nat) : EntryRun :=
  let fresh : EntryRun :=
    match s.entry? p run idx with
    | none => ⟨run, idx, false, false, [], [], 0, false, false⟩
    | some (r, e) =>
      let need := if eOp e = 0 then [0] else match s.group? p (eGroup e) with
        | none => []
        | some x => x.needs e
      ⟨r.id, idx, false, false, need, [], 0, false, false⟩
  ((s.part p).coll.runs.find? (fun x => x.idx == idx && x.run == run)).getD fresh

def State.putEntryRun (s : State) (p : Nat) (x : EntryRun) : State :=
  s.modColl p (fun c => { c with runs := c.runs.filter (fun y => !(y.idx == x.idx && y.run == x.run)) ++ [x] })

/-- Whether an entry is complete: begun, everything placed and posted, everything sent acknowledged. -/
def EntryRun.complete (x : EntryRun) : Bool := x.posted && x.sentDone

/-- The collective fault event (Table 12-13). -/
def State.collFault (s : State) (p plan entry op group cause rank leaf : Nat) : State :=
  (s.event 0x1D p [p, plan, entry, op, group, cause, rank, leaf]).inc F.pCollFaults 1 p

/-- What an entry's progress posts (Table 12-4): POST_SIG when the receiving side is complete, SENT_SIG when it has begun, every message
sent is acknowledged and none is left to forward. A sheaf's record can be written before its entry has begun here. -/
def State.entryLook (s : State) (p run idx : Nat) : State :=
  match s.entry? p run idx with
  | none => s
  | some (_, e) =>
    let x := s.entryRun p run idx
    if x.failed || (!x.begun && eOp e != 0) then s
    else
      let forwards := match s.group? p (eGroup e) with
        | none => false
        | some g => eOp e != 0 && x.need.any (fun i => g.handsTo e i != [])
      let rx := x.need == [] && !x.posted
      let tx := x.begun && x.unsent == 0 && !x.sentDone && !forwards
      let s := if rx || tx then s.putEntryRun p { x with posted := x.posted || rx, sentDone := x.sentDone || tx } else s
      let s := if rx && bitN e 109 then s.postSig p (fldN e 103 6) else s
      if tx && bitN e 116 then s.postSig p (fldN e 110 6) else s

/-- An entry other than a sheaf fails (R418): cause 1 its deadline, 2 a channel. Its signals are posted, the fault is
reported, and the step cannot commit. -/
def State.failEntry (s : State) (p run idx cause rank : Nat) : State :=
  match s.entry? p run idx with
  | none => s
  | some (r, e) =>
    let x := s.entryRun p run idx
    if eOp e = 0 || x.failed || x.complete then s
    else
      let s := s.putEntryRun p { x with failed := true, posted := true, sentDone := true }
      let s := if !x.posted && bitN e 109 then s.postSig p (fldN e 103 6) else s
      let s := if !x.sentDone && bitN e 116 then s.postSig p (fldN e 110 6) else s
      (s.collFault p r.plan idx (eOp e) (eGroup e) cause rank 0).failRun p run 6

/-- A piece's bytes cut into the parts that travel (R414): part number, offset, bytes. -/
def cutParts (size : Nat) (data : List Byte) : List (Nat × Nat × List Byte) :=
  let n := Nat.max 1 (ceilDiv data.length (Nat.max 1 size))
  (List.range n).map (fun i => (i, i * size, (data.drop (i * size)).take size))

/-- Bytes of a piece, from offset ofs on, handed to a member for an entry, by its channel, or by its ring, which carries the fan-out of an
all-gather or a broadcast alone (R421). -/
def State.entrySend (s : State) (p idx : Nat) (r : StepRun) (e : Nat) (x : CollGroup) (rank piece ofs : Nat) (data : List Byte) : State :=
  let ring := x.usesRing rank && (eOp e == 1 || eOp e == 2)
  let size := (if ring then Nat.min x.slotLen x.bufLen else x.bufLen) - 64
  let ps := cutParts size data
  let key := entryKey p r.id idx rank
  let kind := if eOp e = 1 then 0x12 else if eOp e = 2 then 0x13 else if eOp e = 3 then 0x14 else 0x11
  let y := s.entryRun p r.id idx
  let s := s.putEntryRun p { y with unsent := y.unsent + ps.length }
  ps.foldl (fun s q =>
    let m := collMessage kind (eGroup e) x.self (if eOp e = 0 then eSheaf e else idx) q.1 ps.length r.stepNo (ofs + q.2.1) 0 piece [] q.2.2
    if ring then s.ringSend p (eGroup e) rank key m else s.collSend p (eGroup e) rank key m) s

/-- The start of an all-gather, broadcast or all-to-all entry (R419, R423, R424): the member's own part is copied in place and
its pieces go out. -/
def State.entryStart (s : State) (p idx : Nat) (r : StepRun) (e : Nat) (x : CollGroup) : State :=
  let c := s.engCtx p engColl
  let own : List (Nat × Nat × Nat) := match eOp e with
    | 1 => if eLen e = 0 then [] else [(x.ownShard, eSrc e, eLen e)]
    | 2 => if x.self = eRoot e then (List.range (x.pieces e)).map (fun i => (i, eSrc e + i * (x.bufLen - 64), x.pieceLen e i)) else []
    | _ => if eLen e = 0 then [] else [(x.self, eSrc e + x.self * eLen e, eLen e)]
  let s := own.foldl (fun s o =>
    let (out, s) := s.readPva c o.2.1 o.2.2
    let dst := x.pieceDst e o.1
    let s := if dst = o.2.1 then s else (s.writePva c dst out.bytes out.poison).2
    if eOp e = 3 then s else (x.handsTo e o.1).foldl (fun s d => s.entrySend p idx r e x d o.1 0 out.bytes) s) s
  if eOp e = 3 && eLen e != 0 then
    x.peers.foldl (fun s d =>
      let (out, s) := s.readPva c (eSrc e + d * eLen e) (eLen e)
      s.entrySend p idx r e x d d 0 out.bytes) s
  else s

/-- Bytes placed of a piece. -/
def placedBytes (l : List (Nat × Nat)) : Nat := sumOf (l.map (fun x => x.2))

/-- The step of partition p in progress that has a STEP_NO. -/
def State.activeStep (s : State) (p stepNo : Nat) : Option StepRun := (s.actives p).find? (fun r => r.stepNo == stepNo)

/-- A part of a piece placed and handed on (R414, R420); false when the message names no piece this member takes from src. -/
def State.entryPart (s : State) (p g src : Nat) (h : CollHdr) (data : List Byte) : Bool × State :=
  match (s.activeStep p h.step).bind (fun r => s.entry? p r.id h.entry) with
  | none => (false, s)
  | some (r, e) =>
    let y := s.entryRun p r.id h.entry
    let op := if h.kind = 0x12 then 1 else if h.kind = 0x13 then 2 else 3
    match s.group? p g with
    | none => (false, s)
    | some x =>
      let piece := if op = 3 then src else h.piece
      if eOp e != op || eGroup e != g || y.failed || x.from? e piece x.self != some src || x.pieces e ≤ piece ||
          (op = 3 && h.piece != x.self) || x.pieceLen e piece < h.ofs + h.len then (false, s)
      else
        let (_, s) := s.writePva (s.engCtx p engColl) (x.pieceDst e piece + h.ofs) data false
        let old := tgetD y.parts piece []
        if !y.need.contains piece || old.any (fun o => o.1 == h.ofs) then (true, s)
        else
          let l := old ++ [(h.ofs, h.len)]
          let full := placedBytes l = x.pieceLen e piece
          let s := s.putEntryRun p { y with
            parts := if full then tdel y.parts piece else tput y.parts piece l,
            need := if full then y.need.filter (fun i => i != piece) else y.need }
          let s := if op = 3 then s else (x.handsTo e piece).foldl (fun s d => s.entrySend p h.entry r e x d piece h.ofs data) s
          (true, s.entryLook p r.id h.entry)

/-- A pool buffer posted again (R413). -/
def State.collRepost (s : State) (p g cid : Nat) (b : GnxBuf) : State :=
  match s.group? p g with
  | none => s
  | some x => s.postBuf cid b.tag b.pva x.bufLen b.owner

/-- A message discarded into COLL_BAD and its buffer posted again (R414). -/
def State.collDrop (s : State) (p g cid : Nat) (b : GnxBuf) : State := (s.inc F.pCollBad 1 p).collRepost p g cid b

/-- The collective message a channel's first filled pool buffer holds, when its KIND is one of kinds or none that is defined,
taken through the checks of R414; run places it, answering whether it was good and whether it keeps the buffer. -/
def State.collTake (s : State) (cid : Nat) (kinds : List Nat)
    (run : Nat → Nat → Nat → GnxBuf → CollHdr → List Byte → State → Bool × Bool × State) : State :=
  match tget? s.net.chans cid with
  | none => s
  | some c =>
    match c.taken with
    | [] => s
    | b :: _ =>
      match b.owner with
      | .engine 2 k =>
        let p := k / 16
        let g := k % 16
        match s.takeMsg cid with
        | (some (b, bs), s') =>
          let h := collHdr bs
          if !kinds.contains h.kind && decide (0x11 ≤ h.kind) && decide (h.kind ≤ 0x17) then s
          else match s'.group? p g with
            | none => s'
            | some x =>
              let hd := if h.kind = 0x16 then 128 else 64
              if h.mver != 0x10 || !kinds.contains h.kind || h.group != g || x.rankOf (c.handle cid) != some h.src ||
                  bs.length < hd + h.len then s'.collDrop p g cid b
              else match run p g h.src b h bs s' with
                | (false, _, s) => s.collDrop p g cid b
                | (true, true, s) => s
                | (true, false, s) => s.collRepost p g cid b
        | (none, _) => s
      | _ => s

/-- What the engine hears of its messages to members (R418): an acknowledgement brings an entry on, a failed one ends it. -/
def State.entryEnds (s : State) : State :=
  (s.net.ends.filter (fun e => e.1 == 2 && 65 ≤ e.2.1 / 64)).foldl (fun s en =>
      let s := { s with net := { s.net with ends := s.net.ends.erase en } }
      let k := en.2.1 / 64 - 65
      let p := en.2.1 % 64
      let run := k / 64 / 1024
      let idx := k / 64 % 1024
      match s.entry? p run idx with
      | none => s
      | some _ =>
        let x := s.entryRun p run idx
        let s := s.putEntryRun p { x with unsent := x.unsent - 1 }
        if en.2.2 = 0 then s.entryLook p run idx else s.failEntry p run idx 2 (k % 64)) s

/-- The entries of the steps in progress that depend on a member whose channel has failed end (R418). -/
def State.entriesFailed (s : State) (p handle : Nat) : State :=
  (s.actives p).foldl (fun s r =>
    (List.range (s.runList p r).length).foldl (fun s idx =>
      match s.entry? p r.id idx with
      | none => s
      | some (_, e) => match s.group? p (eGroup e) with
        | none => s
        | some x => match x.rankOf handle with
          | none => s
          | some rank =>
            let y := s.entryRun p r.id idx
            let from' := y.need.any (fun i => x.from? e i x.self == some rank)
            let to' := !y.sentDone && (y.need ++ [x.ownShard, 0]).any (fun i => (x.handsTo e i).contains rank)
            if from' || to' then s.failEntry p r.id idx 2 rank else s) s) s

/-! ## Lists (R416) -/

def State.sheaf? (s : State) (p n : Nat) : Option Sheaf := tget? (s.part p).coll.sheaves n

def State.putSheaf (s : State) (p n : Nat) (x : Sheaf) : State := s.modColl p (fun c => { c with sheaves := tput c.sheaves n x })

/-- SH_ELEM of a sheaf, and the elements of shard j (R425). -/
def Sheaf.shElem (h : Sheaf) (x : CollGroup) : Nat := 256 * ceilDiv h.nElem (256 * Nat.max 1 x.shards)
def Sheaf.shardLen (h : Sheaf) (x : CollGroup) (j : Nat) : Nat := Nat.min ((j + 1) * h.shElem x) h.nElem - j * h.shElem x
def Sheaf.elBytes (h : Sheaf) : Nat := elemBits h.cfmt / 8

/-- The bytes an entry reads at SRC_PVA and writes at DST_PVA. -/
def State.entrySpans (s : State) (p e : Nat) (x : CollGroup) : Nat × Nat :=
  match eOp e with
  | 0 => match s.sheaf? p (eSheaf e) with
    | none => (0, 0)
    | some h => (h.nElem * h.elBytes, 0)
  | 1 => (eLen e, eLen e * x.shards)
  | 2 => (if x.self = eRoot e then eLen e else 0, eLen e)
  | _ => (eLen e * x.n, eLen e * x.n)

/-- Whether an entry passes R416. -/
def State.entryOk (s : State) (p nticks e : Nat) : Bool :=
  match s.group? p (eGroup e) with
  | none => false
  | some x =>
    let (a, b) := s.entrySpans p e x
    let dlOk := (decide (eSlotLast e < eDl e) && decide (eDl e < nticks)) || (eOp e == 0 && eDl e == 0xFFFF && decide (eSlotLast e < nticks))
    x.releasing.isNone && decide (eOp e ≤ 3) &&
      (eOp e != 0 || (match s.sheaf? p (eSheaf e) with
        | some h => h.group == eGroup e && h.releasing.isNone
        | none => false)) &&
      (eOp e != 2 || decide (eRoot e < x.n)) &&
      decide (eStart e ≤ eSlotFirst e) && decide (eSlotFirst e ≤ eSlotLast e) && dlOk &&
      s.mapped p (s.part p).rt (eSrc e) a false && s.rwArea p (eDst e) b

/-- The plan a descriptor names, when it is registered and not being released. -/
def State.livePlan (s : State) (p plan : Nat) : Option Plan :=
  match tget? (s.part p).cad.plans plan with
  | some x => if x.releasing.isNone then some x else none
  | none => none

/-- Whether a step of a plan is queued or running. -/
def State.planInUse (s : State) (p plan : Nat) : Bool := (s.part p).cad.steps.any (fun r => r.plan == plan)

/-- Descriptor 0x44 (R416). -/
def State.runCollListRegister (r : DRef) (d : Desc) (s : State) : State :=
  let p := r.part
  let plan := d.fld 0 8
  let n := d.fld 16 11
  match s.livePlan p plan with
  | none => s.noop r
  | some x =>
    if thas (s.part p).coll.lists plan || n = 0 || 1024 < n then s.noop r
    else match s.descRead p (d.at 24 64) (64 * n) with
      | (none, s) => s.noop r
      | (some bs, s) =>
        let es := (List.range n).map (fun i => leAt bs (64 * i) 64)
        if es.all (fun e => s.entryOk p x.nticks e) then
          (s.modColl p (fun c => { c with lists := tput c.lists plan ⟨es, none⟩ })).done r
        else s.noop r

/-- A list's release once no step of its plan is queued or running. -/
def State.listTryRelease (s : State) (p plan : Nat) : State :=
  match tget? (s.part p).coll.lists plan with
  | none => s
  | some l =>
    match l.releasing with
    | none => s
    | some d => if s.planInUse p plan then s else (s.modColl p (fun c => { c with lists := tdel c.lists plan })).done d

/-- Descriptor 0x45. -/
def State.runCollListRelease (r : DRef) (d : Desc) (s : State) : State :=
  let p := r.part
  let plan := d.fld 0 8
  match tget? (s.part p).coll.lists plan with
  | none => s.nullDesc r collNull plan
  | some l =>
    if l.releasing.isSome then s.nullDesc r collNull plan
    else (s.modColl p (fun c => { c with lists := tput c.lists plan { l with releasing := some r } })).listTryRelease p plan

/-! ## Activation ledgers (R443) -/

/-- Whether a ledger entry passes R443. -/
def State.ledgerEntryOk (s : State) (p w : Nat) : Bool :=
  decide (fldN w 3 6 < 36) && bitN (s.cgroups p) (fldN w 3 6) && s.rwArea p (fldN w 128 64) (fldN w 192 32)

/-- Descriptor 0x46 (R443). -/
def State.runLedgerRegister (r : DRef) (d : Desc) (s : State) : State :=
  let p := r.part
  let plan := d.fld 0 8
  let n := d.at 20 32
  if (s.livePlan p plan).isNone || thas (s.part p).coll.ledgers plan || n = 0 || 65536 < n then s.noop r
  else match s.descRead p (d.at 24 64) (32 * n) with
    | (none, s) => s.noop r
    | (some bs, s) =>
      let es := (List.range n).map (fun i => leAt bs (32 * i) 32)
      if es.all (fun w => s.ledgerEntryOk p w) then
        (s.modColl p (fun c => { c with ledgers := tput c.ledgers plan ⟨d.at 24 64, es, [], 0, none⟩ })).done r
      else s.noop r

/-- A ledger's release once no step of its plan is queued or running. -/
def State.ledgerTryRelease (s : State) (p plan : Nat) : State :=
  match tget? (s.part p).coll.ledgers plan with
  | none => s
  | some l =>
    match l.releasing with
    | none => s
    | some d => if s.planInUse p plan then s else (s.modColl p (fun c => { c with ledgers := tdel c.ledgers plan })).done d

/-- Descriptor 0x47. -/
def State.runLedgerRelease (r : DRef) (d : Desc) (s : State) : State :=
  let p := r.part
  let plan := d.fld 0 8
  match tget? (s.part p).coll.ledgers plan with
  | none => s.nullDesc r collNull plan
  | some l =>
    if l.releasing.isSome then s.nullDesc r collNull plan
    else (s.modColl p (fun c => { c with ledgers := tput c.ledgers plan { l with releasing := some r } })).ledgerTryRelease p plan

/-! ## Fillers (R445, R450) -/

/-- Whether partition f may fill the bubbles of partition p (R445), its filler list aside. -/
def State.mayFill (s : State) (f p : Nat) : Bool :=
  s.rd F.pFillBy p == f && f != p && decide (p < 36) && !s.confidential p && !s.confidential f

/-- Descriptor 0x4A (R445). -/
def State.runFillerPost (r : DRef) (d : Desc) (s : State) : State :=
  let f := r.part
  let host := d.fld 0 6
  let n := d.fld 16 16
  if !s.mayFill f host then s.noop r
  else match s.descRead f (d.at 24 64) (32 * n) with
    | (none, s) => s.noop r
    | (some bs, s) =>
      if n = 0 then s.done r
      else s.modColl f (fun c => { c with fillers := c.fillers ++
        [⟨r, host, d.at 24 64, d.at 32 64, d.at 40 64, (List.range n).map (fun i => (i, leAt bs (32 * i) 32)), [], none⟩] })

/-- Filler lists with nothing pending and nothing running complete, and with them their withdrawals. -/
def State.fillersLook (s : State) (f : Nat) : State :=
  (s.part f).coll.fillers.foldl (fun s l =>
    if l.grains = [] && l.running = [] then
      let s := s.modColl f (fun c => { c with fillers := c.fillers.filter (fun y => y.desc != l.desc) })
      let s := s.done l.desc
      match l.withdrawn with
      | none => s
      | some d => s.done d
    else s) s

/-- Descriptor 0x4B (R450): the pending grains of the named list leave it, each with FAULT in its status. -/
def State.runFillerWithdraw (r : DRef) (d : Desc) (s : State) : State :=
  let f := r.part
  match (s.part f).coll.fillers.find? (fun l => l.host == d.fld 0 6 && l.pva == d.at 24 64 && l.withdrawn.isNone) with
  | none => s.nullDesc r collNull (d.at 24 64)
  | some l =>
    let s := l.grains.foldl (fun s e => s.skipStatus f (l.stat + 16 * e.1) (fldN e.2 48 16)) s
    (s.modColl f (fun c => { c with fillers := c.fillers.map (fun y =>
      if y.desc = l.desc then { y with grains := [], withdrawn := some r } else y) })).fillersLook f

/-- Descriptor 0x49 (R438): later chaff entries go to the new ring; NENT is 0 or lies in 64 to 65,536. -/
def State.runChaffSet (r : DRef) (d : Desc) (s : State) : State :=
  let p := r.part
  let v := d.at 16 32
  let n := if v = 0 then 0 else clampN v 64 65536
  let s := if n = v then s else s.clampDesc r (if v < n then 1 else 2) collNull v n
  (s.modColl p (fun c => { c with chaffN := n, chaffPva := d.at 24 64 })).done { r with clamped := r.clamped || n != v }

/-- A slot of sender k's ring taken when it carries the next SEQ (R421): placed by its header, and the consumed count written
to word SELF of the sender's landing area. -/
def State.takeSlot (s : State) (p g k : Nat) : State :=
  match s.group? p g with
  | none => s
  | some x => match x.members[k]? with
    | none => s
    | some m =>
      if x.ringSlots = 0 then s
      else
        let at' := x.ring + 512 + k * x.ringSlots * x.slotLen + m.taken % x.ringSlots * x.slotLen
        let (out, s) := s.readPva (s.engCtx p engColl) at' x.slotLen
        let h := collHdr out.bytes
        if out.fault || h.seq != (m.taken + 1) % 2 ^ 32 then s
        else
          let good := h.mver == 0x10 && (h.kind == 0x12 || h.kind == 0x13) && h.group == g && h.src == k && decide (64 + h.len ≤ x.slotLen)
          let (ok, s) := if good then s.entryPart p g k h (bytesAt out.bytes 64 h.len) else (false, s)
          let s := if ok then s else s.inc F.pCollBad 1 p
          let s := s.modMember p g k (fun m => { m with taken := m.taken + 1 })
          s.hostWrite m.port (m.addr + 8 * x.self) (leBytes 8 (m.taken + 1))

/-- P2P_STALL_TIMEOUT (R508): the slots outstanding and those waiting go over the member's channel, and the member stays
with its channel; a ring event tells. -/
def State.p2pStall (s : State) (p g rank : Nat) : State :=
  match s.group? p g with
  | none => s
  | some x => match x.members[rank]? with
    | none => s
    | some m =>
      if m.flight = [] || m.fallback || s.tick < m.moved + s.rd F.hpP2pTmo m.port then s
      else
        let s := s.modMember p g rank (fun m => { m with fallback := true, flight := [], queue := [] })
        let s := m.flight.foldl (fun s f => s.collSend p g rank f.2.1 f.2.2) s
        let s := m.queue.foldl (fun s f => s.collSend p g rank f.1 f.2) s
        (s.inc F.hpP2pFallbk 1 m.port).event 0x27 p [m.port, p, 0xFF, 8, 0, 0, 0, 0, m.flight.length, rank]

end Sys2Proof.Machine
end

