-- ==== Sys2Proof/Machine/Sheaves.lean ====
section
/-! DEFINITION. Sheaves (12_collectives_and_steps.md, R425 to R438): contributions, closes and presence maps, the gleaning
merge, the chaff ledger and the counts, and the start of a list entry. -/
namespace Sys2Proof.Machine

/-- A sheaf image (Table 12-5) as a number. -/
def sheafOf (b : Nat) : Sheaf :=
  { group := fldN b 18 4, cfmt := fldN b 22 5, nElem := fldN b 64 64, expMask := fldN b 128 64, anchor := fldN b 192 10,
    decay := fldN b 224 32, resPva := fldN b 256 64, corrPva := fldN b 320 64, recPva := fldN b 384 64, contribs := [],
    closed := none, undecided := [], close := none, banks := [], maps := [], early := none, releasing := none }

/-- Whether an image passes R425. -/
def State.sheafOk (s : State) (p n b : Nat) : Bool :=
  let h := sheafOf b
  fldN b 0 8 == 0x10 && fldN b 8 10 == n &&
    match s.group? p h.group with
    | none => false
    | some x =>
      let m := 2 * h.shElem x * 4
      x.releasing.isNone && decide (1 ≤ h.nElem) && decide (h.nElem ≤ 2 ^ 40) && [0, 2, 0x0C].contains h.cfmt &&
        decide (h.expMask < 2 ^ x.n) && s.rwArea p h.resPva m && s.rwArea p h.corrPva m && s.rwArea p h.recPva 512 &&
        areasApart [(h.resPva, m), (h.corrPva, m), (h.recPva, 512)]

/-- GL_DECAY held to 0.0 to 1.0, a NaN read as 1.0 (R425): the value, and the reason of its clamp record if it changed. -/
def decayClamp (v : Nat) : Nat × Option Nat :=
  match ofF32 v with
  | .nan => (0x3F800000, some 2)
  | x => if x.neg? && !x.isZero then (0, some 1) else if Num.cmp x (ofF32 0x3F800000) == .gt then (0x3F800000, some 2) else (v, none)

/-- Descriptor 0x42 (R425). -/
def State.runSheafRegister (r : DRef) (d : Desc) (s : State) : State :=
  let p := r.part
  let n := d.fld 0 10
  if (s.sheaf? p n).isSome then s.nullDesc r collNull n
  else match s.descRead p (d.at 24 64) 128 with
    | (none, s) => s.noop r
    | (some bs, s) =>
      let b := leNat bs
      if !s.sheafOk p n b then s.nullDesc r collNull n
      else
        let auto := bitN b 202
        let (rho, cl) := decayClamp (fldN b 224 32)
        let s := if auto then s.clampDesc r 8 0x07F2 1 0 else s
        let s := match cl with
          | none => s
          | some k => s.clampDesc r k 0x0707 (fldN b 224 32) rho
        (s.putSheaf p n { sheafOf b with decay := rho }).done { r with clamped := r.clamped || auto || cl.isSome }

/-! ## The chaff ledger (R438, Table 12-7) -/

/-- A chaff entry: kind 1 not arrived, 2 unagreed, 3 released with the sheaf. -/
def State.chaffEntry (s : State) (p n shard src kind step dec : Nat) (arr : Option Nat) : State :=
  let c := (s.part p).coll
  if c.chaffN = 0 then s
  else
    let at' := c.chaffPva + s.rd F.pChaffWp p % c.chaffN * 32
    let bs := leBytes 8 step ++ leBytes 2 n ++ leBytes 2 shard ++ leBytes 1 src ++ leBytes 1 kind ++ leBytes 2 0 ++ leBytes 8 dec ++
      leBytes 8 (arr.getD (2 ^ 64 - 1))
    let (_, s) := s.writePva (s.engCtx p engColl) at' bs false
    s.wr F.pChaffWp (s.rd F.pChaffWp p + 1) p

/-! ## Contributions (R426, R427, R433) -/

/-- The contribution of a rank and step, if any of it is held. -/
def Sheaf.held (h : Sheaf) (src step : Nat) : Option Contrib := h.contribs.find? (fun c => c.src == src && c.step == step)

/-- Whether a contribution is held complete. -/
def Sheaf.whole (h : Sheaf) (src step : Nat) : Bool := match h.held src step with
  | some c => c.done.isSome
  | none => false

/-- The bytes of a whole contribution. -/
def Contrib.bytes (c : Contrib) : List Byte := c.parts.flatMap (fun e => e.2)

/-- A part of a contribution held; complete when its shard's bytes are all here. -/
def Sheaf.addPart (h : Sheaf) (src step ofs total tick : Nat) (data : List Byte) (buf : Option (Nat × GnxBuf)) : Sheaf :=
  let c := (h.held src step).getD ⟨src, step, [], [], none⟩
  let c := { c with parts := tput c.parts ofs data, bufs := c.bufs ++ buf.toList }
  let c := if c.bytes.length = total then { c with done := some tick } else c
  { h with contribs := h.contribs.filter (fun y => !(y.src == src && y.step == step)) ++ [c] }

/-- Contributions dropped from the sheaf; their buffers are posted again (R413). -/
def State.dropContribs (s : State) (p n : Nat) (pick : Contrib → Bool) : State :=
  match s.sheaf? p n with
  | none => s
  | some h =>
    let s := s.putSheaf p n { h with contribs := h.contribs.filter (fun c => !pick c) }
    (h.contribs.filter pick).foldl (fun s c => c.bufs.foldl (fun s b => s.collRepost p h.group b.1 b.2) s) s

/-- The ranks a sheaf expects. -/
def Sheaf.expected (h : Sheaf) : List Nat := bitsOf 64 h.expMask

/-- The entry of a step run's list that closes a sheaf: its number and itself. -/
def State.sheafEntry? (s : State) (p n : Nat) (r : StepRun) : Option (Nat × Nat) :=
  ((List.range (s.runList p r).length).zip (s.runList p r)).find? (fun e => eOp e.2 == 0 && eSheaf e.2 == n)

/-- The step a sheaf closes next. -/
def State.sheafStep (s : State) (p : Nat) (h : Sheaf) : Nat :=
  let now := match s.runStep? p with
    | some r => r.stepNo
    | none => match (s.part p).cad.steps.head? with
      | some r => r.stepNo
      | none => s.rd F.pCommit p + 1
  match h.closed with
  | some k => Nat.max (k + 1) now
  | none => now

/-! ## Closes and maps (R427 to R429, R435) -/

/-- Whether the group member of a rank belongs to the partition's membership epoch; without a job every member does. -/
def State.inEpoch (s : State) (p : Nat) (x : CollGroup) (rank : Nat) : Bool :=
  match (s.part p).cont.job with
  | none => true
  | some j =>
    match x.members[rank]? with
    | none => false
    | some m => match s.chan? p m.chan with
      | none => true
      | some (_, c) =>
        j.active.any (fun k => match j.members[k]? with
          | some y => y.addr == c.peerIp && y.part == c.peerPart
          | none => false)

/-- The other replicas of this member's shard that the epoch holds. -/
def State.otherReplicas (s : State) (p : Nat) (x : CollGroup) : List Nat :=
  ((x.owners x.ownShard).filter (fun r => r != x.self)).filter (fun r => s.inEpoch p x r)

/-- This member's map for a step: PRES_MAP, then LATE_MAP of 1 to 8 (R429). -/
def Sheaf.mapNow (h : Sheaf) (step : Nat) : List Nat :=
  maskOf (h.expected.filter (fun c => h.whole c step)) ::
    (List.range 8).map (fun i => if step < i + 1 then 0 else
      maskOf (h.expected.filter (fun c => h.whole c (step - (i + 1)) && h.undecided.contains (step - (i + 1), c))))

/-- A presence map sent to the other replicas; its payload is PRES_MAP, LATE_MAP of 1 to 8 and the mark. -/
def State.sendMap (s : State) (p n : Nat) (h : Sheaf) (x : CollGroup) (step : Nat) (map : List Nat) (mark : Bool) : State :=
  let data := (List.range 9).flatMap (fun i => leBytes 8 (nthD map i 0)) ++ leBytes 8 (b2n mark)
  (s.otherReplicas p x).foldl (fun s r =>
    s.collSend p h.group r p (collMessage 0x15 h.group x.self n 0 1 step 0 0 x.ownShard [] data)) s

/-- The key of a received map: its rank and the parity of its step. -/
def mapKey (rank step : Nat) : Nat := 2 * rank + step % 2

/-- The map of another replica for a step, if it is here. -/
def Sheaf.mapOf (h : Sheaf) (rank step : Nat) : Option (Bool × List Nat) :=
  match tget? h.maps (mapKey rank step) with
  | some (k, m, l) => if k = step then some (m, l) else none
  | none => none

/-- A sheaf closes for the running step: the moment is T_c (R427, R428, R435). -/
def State.closeSheaf (s : State) (p n step rflags : Nat) : State :=
  match s.sheaf? p n with
  | none => s
  | some h => match s.group? p h.group with
    | none => s
    | some x =>
      let (own, sent) := match h.early with
        | some (k, m) => if k = step then (m, true) else (h.mapNow step, false)
        | none => (h.mapNow step, false)
      let h := { h with close := some ⟨step, s.tick, rflags, own, false, false, none, 0⟩, closed := some step,
                        undecided := h.undecided ++ h.expected.map (fun c => (step, c)) }
      let s := s.putSheaf p n h
      if sent then s else s.sendMap p n h x step own false

/-- The step in progress a sheaf has yet to close for, the oldest, with its entry. -/
def State.sheafOpen? (s : State) (p n : Nat) : Option (StepRun × Nat) :=
  match s.sheaf? p n with
  | none => none
  | some h =>
    if h.close.isSome then none
    else ((s.actives p).filterMap (fun r => match s.sheafEntry? p n r with
      | some (_, e) => if (match h.closed with | some k => decide (k < r.stepNo) | none => true) then some (r, e) else none
      | none => none)).head?

/-- RFLAGS of a close before R428 or R436 add to it: bit 1 for an entry without deadline. -/
def closeFlags (e : Nat) : Nat := if eDl e = 0xFFFF then 2 else 0

/-- The early close (R428): a replica that holds every expected contribution sends its map marked complete, and the sheaf
closes once every replica's is. -/
def State.sheafEarly (s : State) (p n : Nat) : State :=
  match s.sheafOpen? p n, s.sheaf? p n with
  | some (r, e), some h =>
    match s.group? p h.group with
    | none => s
    | some x =>
      if !h.expected.all (fun c => h.whole c r.stepNo) then s
      else
        let told := match h.early with
          | some (k, _) => k == r.stepNo
          | none => false
        let map := h.mapNow r.stepNo
        let s := if told then s else (s.putSheaf p n { h with early := some (r.stepNo, map) }).sendMap p n h x r.stepNo map true
        if (s.otherReplicas p x).all (fun k => match h.mapOf k r.stepNo with
          | some (m, _) => m
          | none => false) then s.closeSheaf p n r.stepNo (1 + closeFlags e)
        else s
  | _, _ => s

/-- A new membership epoch closes the sheaves that have no deadline (R435); the others no longer await a replica that left (R428, R429). -/
def State.sheafEpoch (s : State) (p : Nat) : State :=
  (s.part p).coll.sheaves.foldl (fun s e =>
    match s.sheafOpen? p e.1 with
    | some (r, w) => if eDl w = 0xFFFF then s.closeSheaf p e.1 r.stepNo (closeFlags w) else s.sheafEarly p e.1
    | none => s) s

/-- Whether a contribution of a step has been decided by a close (R433). -/
def Sheaf.decided (h : Sheaf) (src step : Nat) : Bool :=
  !h.undecided.contains (step, src) && (match h.closed with
    | some k => decide (step ≤ k)
    | none => false)

/-- The start of a sheaf entry (R426): each shard's elements go to every replica of it; its own are held here, unless a close has decided
them already (R433). A held or spare member sends none (R458, R461). -/
def State.sheafStart (s : State) (p idx : Nat) (r : StepRun) (e : Nat) : State :=
  let n := eSheaf e
  match s.sheaf? p n with
  | none => s
  | some h => match s.group? p h.group with
    | none => s
    | some x =>
      if !bitN h.expMask x.self || 2 ≤ s.rd F.pJstate p then s
      else
        let s := (List.range x.shards).foldl (fun s j =>
          let total := h.shardLen x j * h.elBytes
          let (out, s) := s.readPva (s.engCtx p engColl) (eSrc e + j * h.shElem x * h.elBytes) total
          (x.owners j).foldl (fun s d =>
            if d = x.self then
              match s.sheaf? p n with
              | none => s
              | some h =>
                if h.decided x.self r.stepNo then s.inc F.pChaffArr 1 p
                else s.putSheaf p n (h.addPart x.self r.stepNo 0 total s.tick out.bytes none)
            else s.entrySend p idx r e x d j 0 out.bytes) s) s
        s.sheafEarly p n

/-- Whether the record of a step's sheaf already stands: it closed in a step that was abandoned since, as after a warm reset (R436). -/
def State.recordStands (s : State) (p n stepNo : Nat) : Bool :=
  match s.sheaf? p n with
  | none => false
  | some h => h.close.isNone && (match h.closed with
    | some k => decide (stepNo ≤ k)
    | none => false)

/-- An entry of a step begins (R417) once its boundary has passed and its wait is met; a record that stands is not awaited again. -/
def State.beginEntry (s : State) (p run idx : Nat) : State :=
  match s.entry? p run idx with
  | none => s
  | some (r, e) =>
    let y := s.entryRun p run idx
    let met := !bitN e 102 || decide (fldN e 128 32 ≤ s.signal p (fldN e 96 6))
    if y.begun || y.failed || s.tick < r.first + eStart e || !met then s
    else match s.group? p (eGroup e) with
      | none => s
      | some x =>
        let stands := eOp e = 0 && s.recordStands p (eSheaf e) r.stepNo
        let s := s.putEntryRun p { y with begun := true, need := if stands then [] else y.need }
        let s := if eOp e = 0 then s.sheafStart p idx r e else s.entryStart p idx r e x
        s.entryLook p run idx

/-- A contribution received (R427, R433); it holds its buffer until the merge. -/
def State.contribution (s : State) (p g src cid : Nat) (b : GnxBuf) (h : CollHdr) (bs : List Byte) : Bool × Bool × State :=
  match s.sheaf? p h.entry with
  | none => (false, false, s)
  | some y => match s.group? p g with
    | none => (false, false, s)
    | some x =>
      let total := y.shardLen x x.ownShard * y.elBytes
      if y.group != g || h.piece != x.ownShard || total < h.ofs + h.len || !bitN y.expMask src then (false, false, s)
      else
        let n := s.sheafStep p y
        let late := y.undecided.contains (h.step, src)
        if y.decided src h.step then (true, false, s.inc F.pChaffArr 1 p)
        else if !late && h.step != n && h.step != n + 1 then (false, false, s)
        else match y.held src h.step with
          | some c =>
            if c.done.isSome || thas c.parts h.ofs then (true, false, s)
            else (true, true, (s.putSheaf p h.entry (y.addPart src h.step h.ofs total s.tick (bytesAt bs 64 h.len) (some (cid, b)))).sheafEarly p h.entry)
          | none => (true, true, (s.putSheaf p h.entry (y.addPart src h.step h.ofs total s.tick (bytesAt bs 64 h.len) (some (cid, b)))).sheafEarly p h.entry)

/-- A presence map received (R429): the first map of a rank and step stands. -/
def State.presenceMap (s : State) (p g src : Nat) (h : CollHdr) (bs : List Byte) : Bool × State :=
  match s.sheaf? p h.entry with
  | none => (false, s)
  | some y => match s.group? p g with
    | none => (false, s)
    | some x =>
      if y.group != g || h.piece != x.ownShard || h.ofs != 0 || h.len != 80 || !(x.owners x.ownShard).contains src then (false, s)
      else if (y.mapOf src h.step).isSome then (true, s)
      else
        let map := (List.range 9).map (fun i => leAt bs (64 + 8 * i) 8)
        let y := { y with maps := tput y.maps (mapKey src h.step) (h.step, leAt bs 136 8 == 1, map) }
        (true, (s.putSheaf p h.entry y).sheafEarly p h.entry)

/-! ## The record and the merge (R430 to R434, R436, R437) -/

/-- The sheaf event (Table 12-13): 1 contributions missing, 2 chaff, 3 maps awaited, 4 bank wait, 5 count breach. -/
def State.sheafEvent (s : State) (p n shard step cause pres exp chaff : Nat) : State :=
  s.event 0x1C p [p, n, shard, step, cause, pres, exp, chaff, s.rd F.pExp p, s.rd F.pOntime p, s.rd F.pGlean p, s.rd F.pChaff p,
    s.rd F.pPending p]

/-- The replicas whose map for the close has not come. -/
def State.mapsMissing (s : State) (p : Nat) (h : Sheaf) (x : CollGroup) (c : SheafClose) : List Nat :=
  (s.otherReplicas p x).filter (fun r => (h.mapOf r c.step).isNone)

/-- The AND of the maps of every replica in the epoch (R429). -/
def State.agreedMaps (s : State) (p : Nat) (h : Sheaf) (x : CollGroup) (c : SheafClose) : List Nat :=
  (List.range 9).map (fun i => (s.otherReplicas p x).foldl (fun m r =>
    m &&& (match h.mapOf r c.step with | some (_, l) => nthD l i 0 | none => 0)) (nthD c.own i 0))

/-- What R432 decides of an expected contribution: 0 pending, 1 on time, 2 gleaned, 3 chaff. -/
def decideOf (final : List Nat) (n win step src : Nat) : Nat :=
  if step = n && bitN (nthD final 0 0) src then 1
  else if step < n && bitN (nthD final (n - step) 0) src && n - step ≤ 8 then 2
  else if step + win ≤ n then 3 else 0

/-- The pending contributions with what a close decides of each (R432). A step closed again after a rollback expects its contributions
once more (R492): the close decides one of each, and the older stays pending until it is chaff. -/
def decisions (undecided : List (Nat × Nat)) (final : List Nat) (n win : Nat) : List ((Nat × Nat) × Nat) :=
  let one := undecided.eraseDups
  one.map (fun u => (u, decideOf final n win u.1 u.2)) ++
    (one.foldl List.erase undecided).map (fun u => (u, decideOf [] n win u.1 u.2))

/-- The decisions of a close (R432, R437): counts, chaff entries, events and the count check. -/
def State.decideClose (s : State) (p n : Nat) (h : Sheaf) (x : CollGroup) (c : SheafClose) (final : List Nat) : State :=
  let win := s.rd F.pGleanWin p
  let ds := decisions h.undecided final c.step win
  let count := fun (k : Nat) => (ds.filter (fun u => u.2 == k)).length
  let chaff := (ds.filter (fun u => u.2 == 3)).map (fun u => u.1)
  let s := s.putSheaf p n { h with
    undecided := (ds.filter (fun u => u.2 == 0)).map (fun u => u.1),
    close := some { c with final := some final, chaff := maskOf ((chaff.filter (fun u => u.1 + win == c.step)).map (fun u => u.2)) } }
  let s := chaff.foldl (fun s u =>
    let arr := match h.held u.2 u.1 with | some k => k.done | none => none
    s.chaffEntry p n x.ownShard u.2 (if arr.isSome then 2 else 1) u.1 c.step arr) s
  let s := s.dropContribs p n (fun k => chaff.contains (k.step, k.src))
  let nexp := h.expected.length
  let s := (((s.add F.pExp nexp p).add F.pOntime (count 1) p).add F.pGlean (count 2) p).add F.pChaff (count 3) p
  let s := s.wr F.pPending (s.rd F.pPending p + nexp - count 1 - count 2 - count 3) p
  let s := s.modColl p (fun k => { k with decided := tput k.decided c.step (tgetD k.decided c.step 0 + count 1 + count 2 + count 3) })
  let pres := nthD final 0 0
  let s := if count 1 < nexp then s.sheafEvent p n x.ownShard c.step 1 pres h.expMask chaff.length else s
  let s := if chaff = [] then s else s.sheafEvent p n x.ownShard c.step 2 pres h.expMask chaff.length
  if s.rd F.pExp p = s.rd F.pOntime p + s.rd F.pGlean p + s.rd F.pChaff p + s.rd F.pPending p then s
  else s.sheafEvent p n x.ownShard c.step 5 pres h.expMask chaff.length

/-- The record of a close becomes final (R429, R434): every map is here and the bank is free. -/
def State.sheafFinal (s : State) (p n : Nat) : State :=
  match s.sheaf? p n with
  | none => s
  | some h => match h.close, s.group? p h.group with
    | some c, some x =>
      if c.final.isSome || s.mapsMissing p h x c != [] then s
      else if thas h.banks (c.step % 2) then
        if c.toldBank then s
        else (s.putSheaf p n { h with close := some { c with toldBank := true } }).sheafEvent p n x.ownShard c.step 4 (nthD c.own 0 0) h.expMask 0
      else
        let live := (s.activeStep p c.step).isSome
        let h := if live then { h with banks := tput h.banks (c.step % 2) c.step } else h
        s.decideClose p n h x c (s.agreedMaps p h x c)
    | _, _ => s

/-- ρ to the power d by d - 1 binary32 multiplications (R430). -/
def rhoPow (rho : Nat) : Nat → Nat
  | 0 => rho
  | 1 => rho
  | d + 1 => (f32Mul (rhoPow rho d) rho).1

/-- Element e of a contribution: the slot of an anchored one, or the value of its format. -/
def Sheaf.elem (h : Sheaf) (bs : List Byte) (e : Nat) : Num × Slot × Nat :=
  let w := leAt bs (e * h.elBytes) h.elBytes
  if h.cfmt = 0x0C then
    let (v, f) := (slotOf w).read (acAnchor h.anchor)
    (v, slotOf w, f)
  else (decodeF (if h.cfmt = 2 then fmtBF16 else fmtF32) w, Slot.empty, 0)

/-- One element of the merge (R430): G, C and the flags. now are the contributions applied on time, late those gleaned with
their ρ. -/
def Sheaf.mergeElem (h : Sheaf) (now : List (List Byte)) (late : List (Nat × List Byte)) (e : Nat) : Nat × Nat × Nat :=
  let a := acAnchor h.anchor
  let (tg, f1) := now.foldl (fun (t : Slot × Nat) bs =>
    let (v, sl, _) := h.elem bs e
    if h.cfmt = 0x0C then let (x, f) := t.1.merge sl; (x, flOr t.2 f)
    else let y := t.1.addend a v; (y.slot, flOr t.2 y.flags)) (Slot.empty, 0)
  let (tc, f2) := late.foldl (fun (t : Slot × Nat) (q : Nat × List Byte) =>
    let (v, _, f0) := h.elem q.2 e
    let (b, f) := roundF32 (mulNum (ofF32 q.1) v)
    let y := t.1.addend a (ofF32 b)
    (y.slot, flOr (flOr t.2 f0) (flOr f y.flags))) (Slot.empty, 0)
  let rd := fun (t : Slot) => let (v, f) := t.read a; let (b, f') := toF32 v; (b, flOr f f')
  let (g, f3) := rd tg
  let (c, f4) := if late = [] then (0, 0) else rd tc
  (g, c, flOr (flOr f1 f2) (flOr f3 f4))

/-- The exact sum of binary32 numbers, rounded once. -/
def sumRound (l : List Nat) : Nat :=
  (roundF32 (l.foldl (fun (a : Option Num) b => a.bind (fun x => addNum x (ofF32 b))) (some (.fin false 0 0)))).1

/-- The sheaf record (Table 12-6). -/
def Sheaf.record (h : Sheaf) (n shard : Nat) (c : SheafClose) (final : List Nat) (s2 arith : Nat) : List Byte :=
  let pres := nthD final 0 0
  leBytes 1 0x10 ++ leBytes 1 c.rflags ++ leBytes 2 n ++ leBytes 2 shard ++ leBytes 2 0 ++ leBytes 8 c.step ++
    leBytes 2 h.expected.length ++ leBytes 2 (bitsOf 64 pres).length ++ leBytes 4 s2 ++ leBytes 8 pres ++ leBytes 8 h.expMask ++
    leBytes 8 c.tick ++ leBytes 1 arith ++ List.replicate 15 0 ++ (List.range 8).flatMap (fun i => leBytes 8 (nthD final (i + 1) 0)) ++
    leBytes 8 c.chaff ++ List.replicate 120 0

/-- The merge (R430, R431): G, C and the record of the close's bank written, the flags raised, POST_SIG posted, and the
merged contributions' buffers posted again; the next step's close may then come early (R428). -/
def State.sheafMerge (s : State) (p n : Nat) : State :=
  match s.sheaf? p n with
  | none => s
  | some h => match h.close, s.group? p h.group with
    | some c, some x =>
      match c.final with
      | none => s
      | some final =>
        let len := h.shardLen x x.ownShard
        let data := fun (src step : Nat) => ((h.held src step).map (fun k => k.bytes)).getD []
        let now := (bitsOf 64 (nthD final 0 0)).map (fun r => data r c.step)
        let late := (List.range 8).flatMap (fun i =>
          (bitsOf 64 (nthD final (i + 1) 0)).map (fun r => (rhoPow h.decay (i + 1), data r (c.step - (i + 1)))))
        let els := (List.range len).map (fun e => h.mergeElem now late e)
        let arith := els.foldl (fun f e => flOr f e.2.2) 0
        let s2 := sumRound (late.map (fun q => q.1))
        let bank := c.step % 2
        let ctx := s.engCtx p engColl
        let (_, s) := s.writePva ctx (h.resPva + bank * h.shElem x * 4) (els.flatMap (fun e => leBytes 4 e.1)) false
        let (_, s) := s.writePva ctx (h.corrPva + bank * h.shElem x * 4) (els.flatMap (fun e => leBytes 4 e.2.1)) false
        let (_, s) := s.writePva ctx (h.recPva + bank * 256) (h.record n x.ownShard c final s2 arith) false
        let s := s.wr F.pFlCru (flOr (s.rd F.pFlCru p) arith) p
        let s := s.putSheaf p n { h with close := none }
        let s := s.dropContribs p n (fun k => (k.step == c.step && bitN (nthD final 0 0) k.src) ||
          (decide (k.step < c.step) && decide (c.step - k.step ≤ 8) && bitN (nthD final (c.step - k.step) 0) k.src))
        let s := match (s.activeStep p c.step).bind (fun r => (s.sheafEntry? p n r).map (fun e => (r, e.1))) with
          | some (r, idx) => (s.putEntryRun p { s.entryRun p r.id idx with need := [] }).entryLook p r.id idx
          | none => s
        s.sheafEarly p n
    | _, _ => s

/-- A step reached digest commit or was abandoned: the banks it held are free (R434). -/
def State.sheafStepOver (s : State) (p stepNo : Nat) : State :=
  s.modColl p (fun c => { c with sheaves := tmap c.sheaves (fun _ h => { h with banks := h.banks.filter (fun b => b.2 != stepNo) }) })

/-- A warm reset before a close's record is final empties this replica's map for it (R436); a confidential partition's
buffers are scrubbed, so nothing held survives. -/
def State.sheafWarm (s : State) (p : Nat) : State :=
  let secret := s.confidential p
  s.modColl p (fun c => { c with sheaves := tmap c.sheaves (fun _ h =>
    let h := if secret then { h with contribs := [] } else { h with contribs := h.contribs.map (fun k => { k with bufs := [] }) }
    match h.close with
    | none => h
    | some k => if k.final.isSome then h
      else { h with close := some { k with own := List.replicate 9 0, rflags := k.rflags ||| 4 } }) })

/-- A sheaf gone (R438): each contribution it holds enters the chaff ledger with kind 0x03 and its data goes. A contribution it expects and
does not hold stays in PENDING for good (notes/assumptions/115.md). -/
def State.sheafGone (s : State) (p n : Nat) : State :=
  match s.sheaf? p n with
  | none => s
  | some h =>
    let held := h.contribs.filter (fun c => c.done.isSome)
    let shard := ((s.group? p h.group).map (fun x => x.ownShard)).getD 0
    let s := held.foldl (fun s c => s.chaffEntry p n shard c.src 3 c.step (h.closed.getD 0) c.done) s
    let k := (held.filter (fun c => h.undecided.contains (c.step, c.src))).length
    let s := ((s.add F.pChaff k p).wr F.pPending (s.rd F.pPending p - k) p).dropContribs p n (fun _ => true)
    s.modColl p (fun c => { c with sheaves := tdel c.sheaves n })

/-- A sheaf's release once no list names it and no bank belongs to a step short of commit (R438, R662). -/
def State.sheafTryRelease (s : State) (p n : Nat) : State :=
  match s.sheaf? p n with
  | none => s
  | some h =>
    match h.releasing with
    | none => s
    | some d =>
      if (s.part p).coll.lists.any (fun l => l.2.entries.any (fun e => eOp e == 0 && eSheaf e == n)) || h.banks != [] || h.close.isSome then s
      else (s.sheafGone p n).done d

/-- Descriptor 0x43. -/
def State.runSheafRelease (r : DRef) (d : Desc) (s : State) : State :=
  let p := r.part
  let n := d.fld 0 10
  match s.sheaf? p n with
  | none => s.nullDesc r collNull n
  | some h =>
    if h.releasing.isSome then s.nullDesc r collNull n
    else (s.putSheaf p n { h with releasing := some r }).sheafTryRelease p n

/-! ## Grants (R415) -/

/-- The slot grants of the next tick on each member channel: LATE_PKTS, and SLOT_PKTS of every entry whose window covers it
and that expects data from the member. -/
def State.collGrants (s : State) (p : Nat) : State :=
  let late := s.rd F.pLatePkts p
  let k := s.tick + 1
  (s.part p).coll.groups.foldl (fun s g =>
    g.2.peers.foldl (fun s rank =>
      match g.2.members[rank]? with
      | none => s
      | some m => match s.chan? p m.chan with
        | none => s
        | some (cid, _) =>
          let more := match s.runStep? p with
            | none => 0
            | some r => sumOf ((s.runList p r).map (fun e =>
                if eGroup e = g.1 && r.first + eSlotFirst e ≤ k && k ≤ r.first + eSlotLast e && (s.entryExpects p e g.2).contains rank
                then fldN e 160 16 else 0))
          s.modChan cid (fun c => { c with slotTick := k, slotGranted := c.slotGranted + late + more })) s) s

end Sys2Proof.Machine
end

