-- ==== Sys2Proof/Machine/Permute.lean ====
section
/-! DEFINITION. The permute collective (12_collectives_and_steps.md, R439 to R442): a tensor moved leaf by leaf from one shard
map to another, in place. -/
namespace Sys2Proof.Machine

/-- A leaf of a permute: 1 MiB. -/
def mib1 : Nat := 2 ^ 20

/-- A shard map from its bytes. -/
def permMap (n : Nat) (b : List Byte) : List PermRange :=
  (List.range n).map (fun i => ⟨leAt b (16 * i) 8, leAt b (16 * i + 8) 7, leAt b (16 * i + 15) 1⟩)

/-- Whether a map covers 0 to total once, at whole leaves and ranks below n (R439). -/
def permMapOk (total n : Nat) (m : List PermRange) : Bool :=
  areasApart (m.map (fun r => (r.start, r.len))) && sumOf (m.map (fun r => r.len)) == total &&
    m.all (fun r => r.start % mib1 == 0 && decide (r.start + r.len ≤ total) && decide (r.rank < n))

/-- Leaves of the tensor, and the bytes of one. -/
def Permute.leaves (x : Permute) : Nat := ceilDiv x.total mib1
def Permute.leafLen (x : Permute) (l : Nat) : Nat := Nat.min mib1 (x.total - l * mib1)

/-- The place (rank, slot) of a leaf in a map, and the leaf at a place. -/
def permPlace (m : List PermRange) (l : Nat) : Nat × Nat :=
  match m.find? (fun r => r.start ≤ l * mib1 && l * mib1 < r.start + r.len) with
  | none => (64, 0)
  | some r => (r.rank, (l * mib1 - r.start) / mib1)
def permAt (m : List PermRange) (rank slot : Nat) : Option Nat :=
  (m.find? (fun r => r.rank == rank && decide (slot * mib1 < r.len))).map (fun r => r.start / mib1 + slot)

/-- The leaves of a rank in a map. -/
def permOf (m : List PermRange) (rank : Nat) : List Nat :=
  ((m.filter (fun r => r.rank == rank)).mergeSort (fun a b => decide (a.start ≤ b.start))).flatMap (fun r => (List.range (ceilDiv r.len mib1)).map (fun i => r.start / mib1 + i))

/-- Whether a leaf keeps its place. -/
def Permute.stays (x : Permute) (l : Nat) : Bool := permPlace x.old l == permPlace x.new l

/-- The old places of the cycle a moving leaf belongs to, none when it moves along a path (R440). -/
def Permute.cycle (x : Permute) (l0 : Nat) : Nat → Nat → List (Nat × Nat) → Option (List (Nat × Nat))
  | 0, _, _ => none
  | k + 1, l, acc =>
    let acc := permPlace x.old l :: acc
    let q := permPlace x.new l
    match permAt x.old q.1 q.2 with
    | none => none
    | some m => if m = l0 then some acc else x.cycle l0 k m acc

/-- Whether a leaf lies at the lowest (rank, slot) place of a cycle of moves. -/
def Permute.opens (x : Permute) (l : Nat) : Bool :=
  !x.stays l &&
  match x.cycle l (x.leaves + 1) l [] with
  | none => false
  | some ps =>
    let q := permPlace x.old l
    ps.all (fun r => decide (q.1 < r.1) || (q.1 == r.1 && decide (q.2 ≤ r.2)))

/-- The leaf digest D(l) (R441). -/
def permDigest (tensor l : Nat) (bs : List Byte) : Nat := sha3Nat (leBytes 1 3 ++ leBytes 4 tensor ++ leBytes 8 l ++ bs)

/-- Control messages of a permute, by the first byte of their payload. -/
def pcDigest : Nat := 1
def pcReady : Nat := 2
def pcVerified : Nat := 3
def pcMismatch : Nat := 4
def pcDone : Nat := 5

def State.permute? (s : State) (p : Nat) : Option Permute := (s.part p).coll.permute

def State.setPermute (s : State) (p : Nat) (x : Option Permute) : State := s.modColl p (fun c => { c with permute := x })

/-- A control message to a rank. -/
def State.permCtl (s : State) (p : Nat) (x : Permute) (rank code leaf : Nat) (more : List Byte) : State :=
  s.collSend p x.group rank (permKey p rank) (collMessage 0x17 x.group x.self 0 0 1 0 0 0 leaf [] (leBytes 1 code ++ more))

/-- A permute ends with a status (R439, R442); one that is not 0x00 emits a collective fault event. -/
def State.permEnd (s : State) (p : Nat) (x : Permute) (status rank leaf : Nat) : State :=
  let s := s.setPermute p none
  let s := if status = 0 then s else s.collFault p 0 x.blkPva 0 x.group status rank leaf
  s.complete x.desc status false 0

/-- Where a leaf's bytes are while this member holds them: in scratch, or at its old place. -/
def Permute.held (x : Permute) (l : Nat) : Nat :=
  match tget? x.scratch l with
  | some i => x.scratchPva + i * mib1
  | none => x.region + (permPlace x.old l).2 * mib1

/-- Whether an old place of this member is free for its new leaf (R440). -/
def Permute.free (x : Permute) (slot : Nat) : Bool :=
  match permAt x.old x.self slot with
  | none => true
  | some l => x.sentOk.contains l || thas x.scratch l

/-- One more cycle opened, if this member may (R440): the leaf of its lowest place is digested and copied to scratch. -/
def State.permOpen (s : State) (p : Nat) : State :=
  match s.permute? p with
  | none => s
  | some x =>
    let live := x.scratch.filter (fun e => !x.sentOk.contains e.1)
    if x.scratchMax ≤ live.length then s
    else match (permOf x.old x.self).find? (fun l => x.opens l && !thas x.scratch l && !x.sentOk.contains l) with
      | none => s
      | some l =>
        let c := s.engCtx p engColl
        let i := ((List.range x.scratchMax).find? (fun i => !live.any (fun e => e.2 == i))).getD 0
        let (out, s) := s.readPva c (x.held l) (x.leafLen l)
        let (_, s) := s.writePva c (x.scratchPva + i * mib1) out.bytes out.poison
        s.setPermute p (some { x with
          scratch := tput (x.scratch.filter (fun e => !x.sentOk.contains e.1)) l i, digs := tput x.digs l (permDigest x.tensor l out.bytes) })

/-- The leaves this member may take now: a READY to the old holder, or a copy, once more when it does not match, where the old holder is
itself. -/
def State.permTake (s : State) (p l : Nat) : State :=
  match s.permute? p with
  | none => s
  | some x =>
    let q := permPlace x.new l
    let o := permPlace x.old l
    if x.stays l || x.gotOk.contains l || x.asked.contains l || !x.free q.2 then s
    else if o.1 = x.self then
      let c := s.engCtx p engColl
      let dig := fun (out : ReadOut) => (tget? x.digs l).getD (permDigest x.tensor l out.bytes)
      let once := fun (s : State) =>
        let (out, s) := s.readPva c (x.held l) (x.leafLen l)
        let (_, s) := s.writePva c (x.region + q.2 * mib1) out.bytes out.poison
        let (now, s) := s.readPva c (x.region + q.2 * mib1) (x.leafLen l)
        (permDigest x.tensor l now.bytes == dig out && !now.fault, s)
      let (ok, s) := once s
      let (ok, s) := if ok then (true, s) else once s
      if ok then
        s.setPermute p (some { x with asked := l :: x.asked, gotOk := l :: x.gotOk, sentOk := l :: x.sentOk })
      else s.permEnd p x 3 x.self l
    else (s.setPermute p (some { x with asked := l :: x.asked })).permCtl p x o.1 pcReady l []

/-- A leaf sent to its new holder, its digest with every part (R441). -/
def State.permSend (s : State) (p l : Nat) : State :=
  match s.permute? p with
  | none => s
  | some x => match s.group? p x.group with
    | none => s
    | some g =>
      let (out, s) := s.readPva (s.engCtx p engColl) (x.held l) (x.leafLen l)
      let dig := (tget? x.digs l).getD (permDigest x.tensor l out.bytes)
      let s := s.setPermute p (some { x with digs := tput x.digs l dig, sent := tput x.sent l (tgetD x.sent l 0) })
      let ps := cutParts (g.bufLen - 128) out.bytes
      ps.foldl (fun s q => s.collSend p x.group (permPlace x.new l).1 (permKey p (permPlace x.new l).1)
        (collMessage 0x16 x.group x.self 0 q.1 ps.length 0 q.2.1 0 l (leBytes 64 dig) q.2.2)) s

/-- DONE, once every leaf of the new range and every leaf sent is verified and the staying leaves are unchanged (R441, R442);
the end once DONE has come from every rank named. -/
def State.permDone (s : State) (p : Nat) : State :=
  match s.permute? p with
  | none => s
  | some x =>
    let stay := (permOf x.old x.self).filter x.stays
    let ready := x.started && !x.doneFrom.contains x.self && (permOf x.new x.self).all (fun l => x.stays l || x.gotOk.contains l) &&
      (permOf x.old x.self).all (fun l => x.stays l || x.sentOk.contains l)
    let s :=
      if !ready then s
      else
        let (bad, s) := stay.foldl (fun (a : Option Nat × State) l =>
          let (out, s) := a.2.readPva (a.2.engCtx p engColl) (x.held l) (x.leafLen l)
          (if a.1.isNone && permDigest x.tensor l out.bytes != tgetD x.digs l 0 then some l else a.1, s)) (none, s)
        match bad with
        | some l => s.permEnd p x 3 x.self l
        | none =>
          let s := s.setPermute p (some { x with doneFrom := x.self :: x.doneFrom })
          match s.group? p x.group with
          | none => s
          | some g => g.peers.foldl (fun s r => s.permCtl p x r pcDone 0 []) s
    match s.permute? p with
    | none => s
    | some x => if x.started && (x.old ++ x.new).all (fun r => x.doneFrom.contains r.rank) then s.permEnd p x 0 0 0 else s

/-- What a permute can do now, once: a cycle opened, leaves taken, leaves sent. -/
def State.permPass (s : State) (p : Nat) : State :=
  match s.permute? p with
  | none => s
  | some x =>
    if !x.started then s
    else
      let s := s.permOpen p
      let s := (permOf x.new x.self).foldl (fun s l => s.permTake p l) s
      match s.permute? p with
      | none => s
      | some x => (x.ready.filter (fun l => !thas x.sent l)).foldl (fun s l => s.permSend p l) s

/-- Every move that can be made now made. -/
def State.permRun (s : State) (p : Nat) : State :=
  match s.permute? p with
  | none => s
  | some x => (iterN (x.leaves + 1) (fun _ s => s.permPass p) s).permDone p

/-- The digests of the maps agree on every member: the staying leaves are digested and the moves begin (R439, R441). -/
def State.permAgreed (s : State) (p : Nat) : State :=
  match s.permute? p with
  | none => s
  | some x => match s.group? p x.group with
    | none => s
    | some g =>
      if x.started || !g.peers.all (fun r => x.agreed.contains r) then s
      else
        let (digs, s) := ((permOf x.old x.self).filter x.stays).foldl (fun (a : Tab Nat × State) l =>
          let (out, s) := a.2.readPva (a.2.engCtx p engColl) (x.held l) (x.leafLen l)
          (tput a.1 l (permDigest x.tensor l out.bytes), s)) (x.digs, s)
        (s.setPermute p (some { x with started := true, digs := digs })).permRun p

/-- A map digest from a rank: equal, it agrees; unequal, the permute ends with status 0x02 (R439). -/
def State.permMapDigest (s : State) (p rank dig : Nat) : State :=
  match s.permute? p with
  | none => s
  | some x =>
    if dig != x.mapDig then s.permEnd p x 2 rank 0
    else (s.setPermute p (some { x with agreed := rank :: x.agreed })).permAgreed p

/-- Ranges of a map, by their count field. -/
def permCount (v : Nat) : Nat := if v = 0 then 64 else v

/-- The permute a block b at pva describes (Table 12-8), with the bytes of its two maps. -/
def permuteOf (r : DRef) (pva b self : Nat) (ob nb : List Byte) : Permute :=
  { desc := r, group := fldN b 8 4, self := self, tensor := fldN b 32 32, region := fldN b 64 64, scratchPva := fldN b 192 64,
    scratchMax := fldN b 256 16, total := fldN b 448 64, blkPva := pva, old := permMap (permCount (fldN b 272 6)) ob,
    new := permMap (permCount (fldN b 278 6)) nb, mapDig := sha3Nat (ob ++ nb), agreed := [], started := false, asked := [], ready := [],
    scratch := [], digs := [], sent := [], sentOk := [], gotOk := [], parts := [], bad := [], doneFrom := [] }

/-- Whether a permute passes R439; len is REGION's length. -/
def State.permuteOk (s : State) (p ver len : Nat) (g : CollGroup) (x : Permute) : Bool :=
  let fits := fun (m : List PermRange) => m.all (fun r => r.rank != g.self || decide (r.len ≤ len))
  let scratch := x.scratchMax * mib1
  ver == 0x10 && permMapOk x.total g.n x.old && permMapOk x.total g.n x.new && fits x.old && fits x.new && decide (1 ≤ x.scratchMax) &&
    decide (x.scratchMax ≤ 4096) && x.region % mib1 == 0 && len % mib1 == 0 && x.scratchPva % mib1 == 0 && s.rwArea p x.scratchPva scratch &&
    areasApart [(x.scratchPva, scratch), (x.region, len)] && g.releasing.isNone

/-- A permute begun: its map digest goes to every member, and those that came before it are looked at. -/
def State.permBegin (s : State) (p : Nat) (g : CollGroup) (x : Permute) : State :=
  let early := (s.part p).coll.permEarly.filter (fun e => e.1 / 64 == x.group)
  let s := s.modColl p (fun c => { c with permute := some x, permEarly := c.permEarly.filter (fun e => e.1 / 64 != x.group) })
  let s := g.peers.foldl (fun s k => s.permCtl p x k pcDigest 0 (leBytes 64 x.mapDig)) s
  (early.foldl (fun s e => s.permMapDigest p (e.1 % 64) e.2) s).permAgreed p

/-- Descriptor 0x48 (R439). -/
def State.runPermute (r : DRef) (d : Desc) (s : State) : State :=
  let p := r.part
  let bad := fun (s : State) => s.noop r
  match s.descRead p (d.at 16 64) 128 with
  | (none, s) => bad s
  | (some bs, s) =>
    let b := leNat bs
    match s.group? p (fldN b 8 4) with
    | none => bad s
    | some g =>
      match s.descRead p (fldN b 320 64) (16 * permCount (fldN b 272 6)) with
      | (none, s) => bad s
      | (some ob, s) =>
        match s.descRead p (fldN b 384 64) (16 * permCount (fldN b 278 6)) with
        | (none, s) => bad s
        | (some nb, s) =>
          let x := permuteOf r (d.at 16 64) b g.self ob nb
          if s.permuteOk p (fldN b 0 8) (fldN b 128 64) g x then s.permBegin p g x else bad s

/-- A permute control message received (R440 to R442). -/
def State.permControl (s : State) (p g src : Nat) (h : CollHdr) (bs : List Byte) : Bool × State :=
  let code := leAt bs 64 1
  let dig := leAt bs 65 64
  if code < 1 || 5 < code || h.len != (if code = pcDigest then 65 else 1) then (false, s)
  else match s.permute? p with
    | none => (true, if code = pcDigest then s.modColl p (fun c => { c with permEarly := tput c.permEarly (64 * g + src) dig }) else s)
    | some x =>
      if x.group != g then (true, s)
      else if code = pcDigest then (true, s.permMapDigest p src dig)
      else if code = pcReady then (true, (s.setPermute p (some { x with ready := x.ready ++ [h.piece] })).permRun p)
      else if code = pcVerified then (true, (s.setPermute p (some { x with sentOk := h.piece :: x.sentOk })).permRun p)
      else if code = pcMismatch then
        if tgetD x.sent h.piece 0 = 0 then (true, (s.setPermute p (some { x with sent := tput x.sent h.piece 1 })).permSend p h.piece)
        else (true, s.permEnd p x 3 src h.piece)
      else (true, (s.setPermute p (some { x with doneFrom := src :: x.doneFrom })).permRun p)

/-- A part of a leaf received (R440, R441): placed in its free place; the whole leaf is digested and answered. -/
def State.permLeaf (s : State) (p g src : Nat) (h : CollHdr) (bs : List Byte) : Bool × State :=
  match s.permute? p with
  | none => (false, s)
  | some x =>
    let l := h.piece
    let q := permPlace x.new l
    if x.group != g || x.leaves ≤ l || q.1 != x.self || (permPlace x.old l).1 != src || !x.asked.contains l || x.gotOk.contains l ||
        x.leafLen l < h.ofs + h.len then (false, s)
    else
      let c := s.engCtx p engColl
      let (_, s) := s.writePva c (x.region + q.2 * mib1 + h.ofs) (bytesAt bs 128 h.len) false
      let old := (tgetD x.parts l []).filter (fun o => o.1 != h.ofs)
      let ps := old ++ [(h.ofs, h.len)]
      if placedBytes ps < x.leafLen l then (true, s.setPermute p (some { x with parts := tput x.parts l ps }))
      else
        let (out, s) := s.readPva c (x.region + q.2 * mib1) (x.leafLen l)
        let x := { x with parts := tdel x.parts l }
        if permDigest x.tensor l out.bytes = leAt bs 64 64 && !out.fault then
          let s := (s.setPermute p (some { x with gotOk := l :: x.gotOk })).permCtl p x src pcVerified l []
          (true, s.permRun p)
        else
          let n := tgetD x.bad l 0 + 1
          let s := (s.setPermute p (some { x with bad := tput x.bad l n })).permCtl p x src pcMismatch l []
          (true, if n < 2 then s else s.permEnd p x 3 src l)

/-- A member's channel failed: a permute over it ends with status 0x04 (R442). -/
def State.permChanFailed (s : State) (p handle : Nat) : State :=
  match s.permute? p with
  | none => s
  | some x => match s.group? p x.group with
    | none => s
    | some g => match g.rankOf handle with
      | none => s
      | some rank => s.permEnd p x 4 rank 0

/-- The ends of a permute's messages and of presence maps: a permute whose message failed ends as its channel did (R442). -/
def State.permEnds (s : State) : State :=
  (s.net.ends.filter (fun e => e.1 == 2 && decide (e.2.1 / 64 < 65))).foldl (fun s en =>
    let s := { s with net := { s.net with ends := s.net.ends.erase en } }
    match s.permute? (en.2.1 % 64) with
    | none => s
    | some x => if en.2.2 = 0 || en.2.1 / 64 = 0 then s else s.permEnd (en.2.1 % 64) x 4 (en.2.1 / 64 - 1) 0) s

end Sys2Proof.Machine
end

