-- ==== Sys2Proof/Machine/Job.lean ====
section
/-! DEFINITION. Jobs, epochs and leases (13_continuity.md, R454 to R459): the members, cluster-control messages, quorums, and
who replicates a shard. -/
namespace Sys2Proof.Machine

/-- The field code of a continuity field set to the null resource (R523); Table 0-7 gives its block. -/
def contNull : Nat := freeCode 10 0

def State.modCont (s : State) (p : Nat) (f : PCont → PCont) : State := s.modPart p (fun x => { x with cont := f x.cont })

def State.job? (s : State) (p : Nat) : Option Job := (s.part p).cont.job

def State.modJob (s : State) (p : Nat) (f : Job → Job) : State := s.modCont p (fun c => { c with job := c.job.map f })

/-- JSTATE (Table 13-6). -/
def jsNone : Nat := 0
def jsActive : Nat := 1
def jsHold : Nat := 2
def jsSpare : Nat := 3

/-- The membership event (Table 13-7): 1 an epoch formed, 2 the lease was lost, 3 a member joined, 4 a member left, 5 a
checkpoint is unreachable. -/
def State.memberEvent (s : State) (p jobId old new mask cause decided : Nat) : State :=
  s.event 0x20 p [p, jobId, old, new, mask, cause, s.rd F.pCommit p, s.rd F.pCkjob p, decided]

/-- A member entry of a job image (Table 13-2). -/
def jobMember (b i : Nat) : JobMember :=
  let o := 512 + 256 * i
  { modId := fldN b o 64, addr := fldN b (o + 64) 128, domain := fldN b (o + 192) 16,
    buddy0 := if bitN b (o + 214) then some (fldN b (o + 208) 6) else none,
    buddy1 := if bitN b (o + 221) then some (fldN b (o + 215) 6) else none, role := fldN b (o + 222) 2, part := fldN b (o + 224) 6 }

/-- Whether a job image passes R454. -/
def State.jobOk (s : State) (p b : Nat) : Bool :=
  let n := fldN b 8 7
  let self := fldN b 15 6
  let anchor := fldN b 21 6
  let ms := (List.range n).map (jobMember b)
  (s.job? p).isNone && fldN b 0 8 == 0x10 && decide (1 ≤ n) && decide (n ≤ 64) && decide (self < n) && decide (anchor < n) &&
    ms.all (fun m => decide (m.role < 2) && decide (m.part < 36)) && ((ms[anchor]?).map (fun m => m.role)) == some 0 &&
    ((ms[self]?).map (fun m => m.modId)) == some Config.serialNumber.toNat && fldN b 128 64 != 0

/-- A buddy bit kept only when its buddy is active and lies in another domain (R454). -/
def buddyKept (ms : List JobMember) (m : JobMember) (b : Option Nat) : Option Nat :=
  match b with
  | none => none
  | some r => match ms[r]? with
    | none => none
    | some y => if y.role = 0 && y.domain != m.domain then some r else none

/-- Descriptor 0x50 (R454). -/
def State.runJobRegister (r : DRef) (d : Desc) (s : State) : State :=
  let p := r.part
  match s.descRead p (d.at 16 64) 2112 with
  | (none, s) => s.noop r
  | (some bs, s) =>
    let b := leNat bs
    if !s.jobOk p b then s.nullDesc r contNull (d.at 16 64)
    else
      let n := fldN b 8 7
      let self := fldN b 15 6
      let ms := (List.range n).map (jobMember b)
      let kept := ms.map (fun m => { m with buddy0 := buddyKept ms m m.buddy0, buddy1 := buddyKept ms m m.buddy1 })
      let cut := sumOf ((ms.zip kept).map (fun e => b2n (e.1.buddy0 != e.2.buddy0) + b2n (e.1.buddy1 != e.2.buddy1)))
      let s := iterN cut (fun _ s => s.clampDesc r 9 0x0A05 1 0) s
      let active := (List.range n).filter (fun i => ((ms[i]?).map (fun m => m.role)) == some 0)
      let j : Job :=
        { n := n, self := self, anchor := fldN b 21 6, jobId := fldN b 64 64, members := kept, active := active,
          version := s.rd F.idCifMax, heard := active.map (fun i => (i, s.tick)), reports := [], excused := [], accepted := none,
          accepts := [], readies := [], roots := [], ckdone := [], joined := [], stated := [], lastRenew := s.tick, pauseAt := none, pauseAcks := [],
          restarting := false, joinOwed := false, leaving := none }
      let s := s.modCont p (fun c => { c with job := some j })
      let s := ((s.wr F.pEpoch (fldN b 128 64) p).wr F.pRank self p).wr F.pNAct active.length p
      let s := s.wr F.pJstate (if active.contains self then jsActive else jsSpare) p
      (s.memberEvent p j.jobId 0 (fldN b 128 64) (maskOf active) 1 0).done { r with clamped := r.clamped || cut != 0 }

/-! ## Cluster-control messages (R455, Table 13-3) -/

/-- The KINDs of Table 13-3. -/
def ccRenew : Nat := 1
def ccPropose : Nat := 2
def ccAccept : Nat := 3
def ccRoots : Nat := 4
def ccReady : Nat := 5
def ccNotReady : Nat := 6
def ccTree : Nat := 7
def ccCkdone : Nat := 8
def ccPause : Nat := 9
def ccJoin : Nat := 10

/-- The port a cluster-control message leaves by: the lowest with link and an address of the family that may send firmware's
traffic (R355, R455). -/
def State.clusterPort (s : State) (v6 : Bool) : Option Nat := (List.range 8).find? (fun n => s.maySend n false && s.hasFamily n v6)

/-- A cluster-control message to a member: SRC rank, JOB_ID, EPOCH and STEP_NO, then its body, in packets of what the port's MTU carries
(R378, R455). -/
def State.clusterSend (s : State) (p rank kind step : Nat) (body : List Nat) : State :=
  match s.job? p with
  | none => s
  | some j => match j.members[rank]? with
    | none => s
    | some m =>
      if rank = j.self then s
      else match s.clusterPort (isV6 m.addr) with
        | none => s
        | some port =>
          let (k, s) := s.fresh
          let words := [k, j.self, j.jobId, s.rd F.pEpoch p, step] ++ body
          let len := (clusterBytes kind (words.drop 1)).length
          let most := Nat.max 64 (maxPayOf (s.rd F.npMtu port) (isV6 m.addr) false)
          iterN ((len + most - 1) / most) (fun i s =>
            let n := Nat.min most (len - i * most)
            s.xmit false ⟨port, 5, gnxFrame (isV6 m.addr) false n + 4, noPart, .cluster m.addr kind (i * most) n words⟩) s

/-- A message to every member of a list. -/
def State.clusterAll (s : State) (p : Nat) (ranks : List Nat) (kind step : Nat) (body : List Nat) : State :=
  ranks.foldl (fun s r => s.clusterSend p r kind step body) s

/-- Whether a received message belongs to the partition's job and comes from another member of it. -/
def State.fromMember (s : State) (p : Nat) (h : ClHdr) : Option Job :=
  match s.job? p with
  | none => none
  | some j => if j.jobId = h.job.toNat && h.src.val < j.n && h.src.val != j.self then some j else none

/-- The active members but this one. -/
def Job.others (j : Job) : List Nat := j.active.filter (fun r => r != j.self)

/-! ## Quorum and lease (R456, R457) -/

/-- Whether a set of members is a quorum of the active members (R456). -/
def Job.quorum (j : Job) (set : List Nat) : Bool :=
  let k := (j.active.filter (fun r => set.contains r)).length
  decide (j.active.length < 2 * k) || (2 * k == j.active.length && (set.filter (fun r => j.active.contains r)).contains j.anchor)

/-- Whether the member counts itself (R457): locked, holdover, or free-run with FREERUN_OK. -/
def State.countsSelf (s : State) (p : Nat) : Bool :=
  let t := s.rd F.cadState
  t == 1 || t == 2 || (t == 3 && s.flag F.pFreerunOk p)

/-- The members heard within the last n ticks, an excused one included (R493), and the member itself where it counts. -/
def State.heardIn (s : State) (p n : Nat) (j : Job) : List Nat :=
  (List.range j.n).filter (fun r =>
    if r = j.self then s.countsSelf p
    else (match tget? j.heard r with | some t => decide (s.tick ≤ t + n) | none => false) ||
      (match tget? j.excused r with | some t => decide (s.tick ≤ t) | none => false))

/-- Whether the member holds its lease at this boundary (R457). -/
def State.holdsLease (s : State) (p : Nat) (j : Job) : Bool := j.quorum (s.heardIn p (s.rd F.pLeaseTicks p) j)

/-- Whether every partition of the module that belongs to a job is held (R458, R353). -/
def State.moduleHeld (s : State) : Bool :=
  let js := s.liveParts.filter (fun p => s.rd F.pJstate p != jsNone)
  js != [] && js.all (fun p => s.rd F.pJstate p == jsHold)

/-- The active members not heard for LEASE_TICKS + LEASE_TICKS / 8 ticks (R459). -/
def State.silent (s : State) (p : Nat) (j : Job) : List Nat :=
  let n := s.rd F.pLeaseTicks p
  let h := s.heardIn p (n + n / 8) j
  j.others.filter (fun r => !h.contains r)

/-- What a member states when it joins a membership (R45, R63): its cluster-control versions, TICK_LEN and EPOCH. -/
def State.stateSelf (s : State) : List Nat :=
  [s.rd F.idCifMin + 256 * s.rd F.idCifMax, s.rd F.cadTickLen, s.rd F.cadEpochSl + 2 ^ 32 * s.rd F.cadEpochSh, s.rd F.cadEpochNs]

/-- JOIN to every other member (R461, R493): a held or restarted member asks to come in, the restarted one as active. -/
def State.sendJoin (s : State) (p : Nat) : State :=
  match s.job? p with
  | none => s
  | some j => s.clusterAll p ((List.range j.n).filter (fun r => r != j.self)) ccJoin 0 ([b2n j.restarting] ++ s.stateSelf)

/-- The JOIN a restarted member owes, sent once a port can carry it (R462, R493). -/
def State.joinLook (s : State) (p : Nat) : State :=
  match s.job? p with
  | none => s
  | some j =>
    if j.joinOwed && j.members.any (fun m => (s.clusterPort (isV6 m.addr)).isSome) then
      (s.modJob p (fun j => { j with joinOwed := false })).sendJoin p
    else s

/-- Who an ACCEPT goes to: every other named member, and those that asked to join, for the epoch forms at each of them. -/
def Job.told (j : Job) (set : List Nat) : List Nat := (set ++ j.joined).eraseDups.filter (fun r => r != j.self)

/-- A proposal for the next epoch naming a set of members active (R459): this member accepts its own at once. -/
def State.propose (s : State) (p : Nat) (j : Job) (set : List Nat) : State :=
  let e := s.rd F.pEpoch p + 1
  let e := match j.accepted with
    | some a => Nat.max e (if a.2.1 = j.self && a.2.2 = maskOf set then a.1 else a.1 + 1)
    | none => e
  let s := s.modJob p (fun j => { j with accepted := some (e, j.self, maskOf set), accepts := [j.self] })
  let body := [e, maskOf set, j.self] ++ s.stateSelf
  (s.clusterAll p (s.heardIn p (s.rd F.pLeaseTicks p) j) ccPropose (s.stepNo p) body).clusterAll p (j.told set) ccAccept (s.stepNo p) body

/-- A PROPOSE received (R459): accepted when it names this member, its epoch is higher than any accepted, or equal from a
lower-ranked proposer. -/
def State.takePropose (s : State) (p : Nat) (e mask proposer : Nat) : State :=
  match s.job? p with
  | none => s
  | some j =>
    let newer := decide (s.rd F.pEpoch p < e) && match j.accepted with
      | none => true
      | some a => decide (a.1 < e) || (a.1 == e && decide (proposer < a.2.1))
    if !newer || j.leaving.isSome then s
    else if !bitN mask j.self then
      if s.rd F.pJstate p == jsHold then s.modJob p (fun j => { j with accepted := some (e, proposer, mask), accepts := [] }) else s
    else
      let s := s.modJob p (fun j => { j with accepted := some (e, proposer, mask), accepts := [j.self] })
      s.clusterAll p (j.told (bitsOf 64 mask)) ccAccept (s.stepNo p) ([e, mask, proposer] ++ s.stateSelf)

/-! ## Replicas of a shard (R467) -/

/-- The job rank of a group's member. -/
def State.jobRank (s : State) (p : Nat) (j : Job) (m : CollMember) : Option Nat :=
  match s.chan? p m.chan with
  | none => none
  | some (_, c) => (List.range j.n).find? (fun k => match j.members[k]? with
      | some y => y.addr == c.peerIp && y.part == c.peerPart
      | none => false)

/-- The other members that replicate this member's shards: its peers of one shard in the groups with replicas, in the
epoch. -/
def State.replicas (s : State) (p : Nat) (j : Job) : List Nat :=
  ((s.part p).coll.groups.flatMap (fun g =>
    if g.2.repl < 2 then []
    else (((g.2.owners g.2.ownShard).filter (fun r => r != g.2.self)).filterMap (fun r => (g.2.members[r]?).bind (s.jobRank p j))))).eraseDups.filter
      (fun r => j.active.contains r)

/-- ROOTS to every other replica of a shard whose root has formed (R467). -/
def State.sendRoots (s : State) (p i : Nat) : State :=
  match s.job? p, s.shard? p i with
  | some j, some x => match x.rootNew with
    | none => s
    | some r => s.clusterAll p (s.replicas p j) ccRoots x.stepNo [i, x.tensor, r]
  | _, _ => s

/-- The root another replica sent of a shard at a step. -/
def Job.rootFrom (j : Job) (step rank shard : Nat) : Option Nat :=
  (j.roots.find? (fun e => e.1 == step && e.2.1 == rank && e.2.2.1 == shard)).map (fun e => e.2.2.2)

/-- Whether a shard's root is matched (R467): every other replica's root is here and equals it. -/
def State.rootMatched (s : State) (p i : Nat) (x : Shard) : Bool :=
  match s.job? p with
  | none => true
  | some j => (s.replicas p j).all (fun r => (j.rootFrom x.stepNo r i).isSome && j.rootFrom x.stepNo r i == x.rootNew)

end Sys2Proof.Machine
end

