-- ==== Sys2Proof/Machine/Checkpoint.lean ====
section
/-! DEFINITION. Hardware checkpoints (13_continuity.md, R483 to R491): the manifest, writing the buddies' slots, completion,
and reading a checkpoint back. -/
namespace Sys2Proof.Machine

/-- The checkpoint event (Table 13-7): 1 complete, 2 skipped, 3 failed, 4 restore failed. -/
def State.ckptEvent (s : State) (p step buddy slot leaves cause : Nat) : State :=
  s.event 0x23 p [p, step, buddy, slot, leaves, cause]

/-- Statuses of the checkpoint family beyond those common to all: a checkpoint that cannot be read, and one that failed. -/
def ckUnreadable : Nat := 2
def ckFailed : Nat := 3

/-! ## The manifest (Table 13-4) -/

/-- Where the sets of a checkpoint lie in its slot, after the manifest's 1 MiB. -/
def ckptPlaces : Nat → List (Shard × List Byte) → List (Shard × List Byte × Nat)
  | _, [] => []
  | ofs, (x, b) :: r => (x, b, ofs) :: ckptPlaces (ofs + roundUp b.length 4096) r

/-- A shard record: the entry with COMMITS and ROOT, its slot offset and set_len. -/
def shardRecord (x : Shard) (len ofs : Nat) : List Byte := x.image ++ leBytes 8 ofs ++ leBytes 8 len ++ List.replicate 48 0

/-- The manifest of a checkpoint of a step. -/
def State.manifest (s : State) (p rank step : Nat) (sets : List (Shard × List Byte × Nat)) : List Byte :=
  let sheaves := (s.part p).coll.sheaves.filter (fun e => e.2.closed.isSome)
  let cur := (s.part p).cont.cursor
  let jobId := ((s.job? p).map (fun j => j.jobId)).getD 0
  let head := leBytes 1 0x10 ++ leBytes 1 rank ++ leBytes 2 sheaves.length ++ leBytes 4 sets.length ++ leBytes 8 jobId ++
    leBytes 8 (s.rd F.pEpoch p) ++ leBytes 8 step ++ leBytes 8 (s.rd F.pSrSeedL p + 2 ^ 32 * s.rd F.pSrSeedH p) ++
    leBytes 4 (s.rd F.pChaffWp p) ++ leBytes 4 cur.length ++ leBytes 16 0
  let body := bytesAt cur 0 4096 ++ sets.flatMap (fun e => shardRecord e.1 e.2.1.length e.2.2) ++
    sheaves.flatMap (fun e => leBytes 2 e.1 ++ leBytes 6 0 ++ leBytes 8 (e.2.closed.getD 0))
  head ++ sha3_512 body ++ body

/-- The fields of a manifest, and whether MVER and MDIG are right. -/
def manStep (m : List Byte) : Nat := leAt m 24 8
def manShards (m : List Byte) : Nat := leAt m 4 4
def manSheaves (m : List Byte) : Nat := leAt m 2 2
def manLen (m : List Byte) : Nat := 4224 + 192 * manShards m + 16 * manSheaves m
def manRecord (m : List Byte) (k : Nat) : List Byte := bytesAt m (4224 + 192 * k) 192
def manOk (m : List Byte) : Bool :=
  leAt m 0 1 == 0x10 && decide (manLen m ≤ 2 ^ 20) && bytesAt m 64 64 == sha3_512 (bytesAt m 128 (manLen m - 128))

/-- The root of a version from its bytes (R225), at the COMMITS it carries. -/
def Shard.versionRoot (x : Shard) (set : List Byte) : Nat :=
  let l := (List.range x.leaves).map (fun i => leafDigest i (bytesAt set (i * leafBytes) (Nat.min leafBytes (x.imgLen - i * leafBytes))))
  { x with commits := x.commits - 1 }.rootDigest (nthD (((treeAll 64 l).getLast?).getD []) 0 0)

/-! ## Writing the buddies' slots (R486 to R488, R490) -/

/-- A buddy of the partition changed by f. -/
def State.modBuddy (s : State) (p rank : Nat) (f : Buddy → Buddy) : State :=
  s.modCont p (fun c => { c with buddies := c.buddies.map (fun b => if b.rank = rank then f b else b) })

/-- A message of the checkpoint engine to a buddy's lend; its status is awaited. -/
def State.buddySend (s : State) (p : Nat) (b : Buddy) (kind ofs len : Nat) (data : List Byte) : State :=
  let tag := s.tiers.nextTag
  let s := s.setTiers (fun t => { t with nextTag := (t.nextTag + 1) % 2 ^ 32, msgs := tput t.msgs tag ⟨p, 0x80 + kind, none⟩ })
  let (ok, s) := s.toLender p ⟨b.chan, b.lend, 0⟩ kind tag ofs len data
  s.modBuddy p b.rank (fun b => if ok then { b with waiting := b.waiting ++ [tag] } else { b with failed := true })

/-- The slot the next checkpoint goes to: the one without a complete checkpoint, or the older. -/
def Buddy.older (b : Buddy) : Nat :=
  match tget? b.steps 0, tget? b.steps 1 with
  | none, _ => 0
  | _, none => 1
  | some x, some y => if x ≤ y then 0 else 1

/-- One set written into a buddy's slot: the 1 MiB leaves whose digest differs from the one the slot last received at that
place, and the tree after them. -/
def State.buddySet (s : State) (p rank slot base ofs : Nat) (x : Shard) (set : List Byte) : State :=
  match (s.part p).cont.buddies.find? (fun b => b.rank == rank) with
  | none => s
  | some b =>
    let old := tgetD b.digests (2 * ofs + slot) []
    let new := (List.range x.leaves).map (fun i => leafDigest i (bytesAt set (i * leafBytes) (Nat.min leafBytes (x.imgLen - i * leafBytes))))
    let changed := (List.range x.leaves).filter (fun i => old[i]? != new[i]?)
    let s := changed.foldl (fun s i =>
      let n := Nat.min leafBytes (x.imgLen - i * leafBytes)
      s.buddySend p b 3 (base + ofs + i * leafBytes) n (bytesAt set (i * leafBytes) n)) s
    let s := if changed = [] then s else s.buddySend p b 3 (base + ofs + x.imgLen) (set.length - x.imgLen) (set.drop x.imgLen)
    s.modBuddy p rank (fun b => { b with digests := tput b.digests (2 * ofs + slot) new, leaves := b.leaves + changed.length })

/-- A checkpoint whose bytes are all read, written to every buddy in use (R487). -/
def State.ckptWrite (s : State) (p : Nat) (k : Ckpt) (sets : List (Shard × List Byte)) : State :=
  let rank := s.rd F.pRank p
  let len := (s.part p).cont.slotLen
  let places := ckptPlaces (2 ^ 20) sets
  let man := s.manifest p rank k.step places
  let fits := decide (man.length ≤ 2 ^ 20) && places.all (fun e => decide (e.2.2 + e.2.1.length ≤ len))
  let s := s.modCont p (fun c => { c with
    ckpt := some { k with sent := true },
    mans := ((k.step, man) :: c.mans.filter (fun e => e.1 != k.step)).take 4 })
  (s.part p).cont.buddies.foldl (fun s b =>
    let slot := b.older
    let base := slot * len
    let s := s.modBuddy p b.rank (fun b => { b with slot := slot, waiting := [], leaves := 0, failed := !fits, steps := tdel b.steps slot })
    if !fits then s
    else
      let s := if thas b.steps slot then s.buddySend p b 5 base len [] else s
      let s := places.foldl (fun s e => s.buddySet p b.rank slot base e.2.2 e.1 e.2.1) s
      let s := s.buddySend p b 3 base man.length man
      s.buddySend p b 4 base len []) s

/-- CKJOB takes a step once CKDONE for it has come from every active member (R488). -/
def State.ckjobLook (s : State) (p step : Nat) : State :=
  let all := match s.job? p with
    | none => true
    | some j => j.active.all (fun r => j.ckdone.contains (r, step))
  if all && s.rd F.pCkjob p < step then s.wr F.pCkjob step p else s

/-- The checkpoint in progress ends: complete when every buddy in use sealed its slot, failed when a status said otherwise
(R488, R490); of a slot a write to which failed, no digest is known to have been received (R487). -/
def State.ckptLook (s : State) (p : Nat) : State :=
  match (s.part p).cont.ckpt with
  | none => s
  | some k =>
    let bs := (s.part p).cont.buddies
    if !k.sent || bs.any (fun b => b.waiting != []) then s
    else
      let bad := bs.filter (fun b => b.failed)
      let s := s.modCont p (fun c => { c with ckpt := none })
      if bad != [] then
        let s := bad.foldl (fun s b => (s.modBuddy p b.rank (fun b => { b with digests := b.digests.filter (fun e => e.1 % 2 != b.slot) })).ckptEvent p
          k.step b.rank b.slot b.leaves 3) s
        k.takes.foldl (fun s d => s.complete d ckFailed false 0) s
      else
        let s := bs.foldl (fun s b => (s.modBuddy p b.rank (fun b => { b with steps := tput b.steps b.slot k.step })).ckptEvent p k.step b.rank
          b.slot b.leaves 1) s
        let s := if bs = [] then s.ckptEvent p k.step 0x3F 0 0 1 else s
        let s := match s.job? p with
          | none => s
          | some j => (s.modJob p (fun j => { j with ckdone := j.ckdone ++ [(j.self, k.step)] })).clusterAll p j.others ccCkdone k.step []
        (k.takes.foldl (fun s d => s.done d) s).ckjobLook p k.step

/-- A checkpoint whose reads have come is written; a read that failed fails it. -/
def State.ckptStep (s : State) (p : Nat) : State :=
  match (s.part p).cont.ckpt with
  | none => s
  | some k =>
    let ops := k.rest.map (fun e => tget? s.tiers.ops e.2.2)
    if k.sent || ops.any (fun o => match o with | some x => !x.ready | none => false) then s
    else
      let lost := ops.any (fun o => match o with | some x => x.failed | none => true)
      let (sets, s) := k.shards.foldl (fun (a : List (Shard × List Byte) × Bool × State) e =>
        let (out, s) := a.2.2.readPva { s.engCtx p engCkpt with hint := hintStream, early := true } e.2.curSet e.2.setLen
        (a.1 ++ [(e.2, out.bytes)], a.2.1 || out.fault || out.poison, s)) ([], lost, s) |> fun a => ((a.1, a.2.1), a.2.2)
      let (rest, s) := k.rest.foldl (fun (a : List (Shard × List Byte) × State) e =>
        match a.2.promoEntry? p e.1 e.2.1, tget? a.2.tiers.ops e.2.2 with
        | some y, some x =>
          let (sh, s) := a.2.entryShard p y
          let s := s.tierDrop e.2.2
          match sh with
          | some sh => (a.1 ++ [({ sh with commits := y.commits, root := y.root }, x.bytes)], s)
          | none => (a.1, s)
        | _, _ => a) ([], s)
      if sets.2 then
        let s := s.modCont p (fun c => { c with ckpt := none })
        let s := s.ckptEvent p k.step 0x3F 0 0 3
        k.takes.foldl (fun s d => s.complete d ckFailed false 0) s
      else (s.ckptWrite p k (sets.1 ++ rest)).ckptLook p

/-- A due checkpoint of a step begins at its digest commit, or is skipped while the previous one is in progress (R486). -/
def State.ckptBegin (s : State) (p step : Nat) : State :=
  let c := (s.part p).cont
  let every := s.rd F.pCkptEvery p
  if !(every != 0 && step % every == 0) && c.takes = [] then s
  else if c.ckpt.isSome then s.ckptEvent p step 0x3F 0 0 2
  else
    let (rest, s) := (s.part p).tier.promos.foldl (fun (a : List (Nat × Nat × Nat) × State) l =>
      (List.range l.2.entries.length).foldl (fun a i =>
        match a.2.promoEntry? p l.1 i with
        | none => a
        | some e =>
          if e.state != 0 then a
          else match a.2.entryShard p e with
            | (none, s) => (a.1, s)
            | (some x, s) =>
              let (k, s) := s.tierStart p e.objCur 0 x.setLen .ckpt
              (a.1 ++ [(l.1, i, k)], s)) a) ([], s)
    let s := s.modCont p (fun c => { c with ckpt := some ⟨step, c.takes, (s.part p).shards, rest, false⟩, takes := [] })
    s.ckptStep p

/-- What the checkpoint engine hears: a status of a message, or the end of one that was never acknowledged (R490). -/
def State.ckptEnds (s : State) : State :=
  (s.net.ends.filter (fun e => e.1 == 3)).foldl (fun s en =>
    let s := { s with net := { s.net with ends := s.net.ends.erase en } }
    (List.range 36).foldl (fun s p =>
      let c := (s.part p).cont
      if c.buddies.any (fun b => b.waiting.contains en.2.1) then
        (s.modCont p (fun c => { c with buddies := c.buddies.map (fun b =>
          if b.waiting.contains en.2.1 then { b with waiting := b.waiting.erase en.2.1, failed := b.failed || en.2.2 != 0 } else b) })).ckptLook p
      else match c.setting with
        | none => s
        | some (d, bs, len, tags) =>
          if !tags.contains en.2.1 then s
          else if en.2.2 != 0 then (s.modCont p (fun c => { c with setting := none })).nullDesc d contNull 0
          else
            let tags := tags.erase en.2.1
            if tags != [] then s.modCont p (fun c => { c with setting := some (d, bs, len, tags) })
            else (s.modCont p (fun c => { c with setting := none, buddies := bs, slotLen := len })).done d) s) s

/-- Whether an update grain that would write the other set of a shard waits for a checkpoint's read (R484), or under RETAIN
for a later job-complete checkpoint (R489). -/
def State.ckptHolds (s : State) (p i : Nat) : Bool :=
  match s.shard? p i with
  | none => false
  | some x =>
    let reading := match (s.part p).cont.ckpt with
      | some k => !k.sent && k.shards.any (fun e => e.1 == i && e.2.curSet == x.otherSet)
      | none => false
    let c := s.rd F.pCkjob p
    let kept := s.flag F.pRetain p && c != 0 && !x.pend && decide (c < x.stepCur) && (match x.stepOther with
      | some o => decide (o ≤ c)
      | none => false)
    reading || kept

/-! ## Descriptors 0x52 to 0x54 -/

/-- Descriptor 0x52 (R485): each buddy's lend is asked for its status. -/
def State.runCkptSet (r : DRef) (d : Desc) (s : State) : State :=
  let p := r.part
  match s.job? p with
  | none => s.nullDesc r contNull 0
  | some j =>
    match j.members[j.self]? with
    | none => s.nullDesc r contNull 0
    | some me =>
      let want := (match me.buddy0 with | some b => [(b, d.at 16 32, d.at 20 32)] | none => []) ++
        (match me.buddy1 with | some b => [(b, d.at 24 32, d.at 28 32)] | none => [])
      let ok := want.all (fun w => match s.chan? p w.2.1, j.members[w.1]? with
        | some (_, c), some m => c.state == 2 && c.mode == 1 && c.peerIp == m.addr && c.peerPart == m.part
        | _, _ => false)
      if !ok then s.nullDesc r contNull 0
      else
        let bs : List Buddy := want.map (fun w => (⟨w.1, w.2.1, w.2.2, [], [], 0, [], 0, false⟩ : Buddy))
        let len := d.at 32 64
        if bs.isEmpty then (s.modCont p (fun c => { c with buddies := [], slotLen := len })).done r
        else
          let tags := (List.range bs.length).map (fun i => (s.tiers.nextTag + i) % 2 ^ 32)
          let s := s.modCont p (fun c => { c with setting := some (r, bs, len, tags) })
          bs.foldl (fun s b =>
            let tag := s.tiers.nextTag
            let s := s.setTiers (fun t => { t with nextTag := (t.nextTag + 1) % 2 ^ 32, msgs := tput t.msgs tag ⟨p, 0x86, none⟩ })
            let (ok, s) := s.toLender p ⟨b.chan, b.lend, 0⟩ 6 tag 0 0 []
            if ok then s else { s with net := { s.net with ends := s.net.ends ++ [(3, tag, 5)] } }) s

/-- Descriptor 0x53 (R483): the cursor for the next checkpoint. -/
def State.runCursor (r : DRef) (d : Desc) (s : State) : State :=
  let p := r.part
  let v := d.at 24 13
  let n := Nat.min v 4096
  let s := if n = v then s else s.clampDesc r 2 contNull v n
  match s.descRead p (d.at 16 64) n with
  | (none, s) => s.noop r
  | (some b, s) => (s.modCont p (fun c => { c with cursor := b })).done { r with clamped := r.clamped || n != v }

/-- Descriptor 0x54 (R486). -/
def State.runCkptTake (r : DRef) (_d : Desc) (s : State) : State := s.modCont r.part (fun c => { c with takes := c.takes ++ [r] })

/-! ## Restoring (R491) -/

/-- The manifest record that matches a shard image: by TENSOR_ID and E_FIRST. -/
def manFind (m img : List Byte) : Option (List Byte) :=
  ((List.range (manShards m)).map (manRecord m)).find? (fun r => leAt r 4 12 == leAt img 4 12)

/-- What a restored set must pass: its root is the one its record carries; a version no commit has made carries none. -/
def setOk (rec set : List Byte) : Bool :=
  let x := shardOf rec
  (x.commits == 0 && x.root == 0) || x.versionRoot set == x.root

/-- Digest i of the lowest level of the tree a set carries, and whether that tree is the one whose root the record carries (R225). -/
def treeLeaf (x : Shard) (set : List Byte) (i : Nat) : Nat := leAt set (x.imgLen + 64 * i) 64
def treeOk (x : Shard) (set : List Byte) : Bool :=
  { x with commits := x.commits - 1 }.rootDigest (nthD (((treeAll 64 ((List.range x.leaves).map (treeLeaf x set))).getLast?).getD []) 0 0) == x.root

/-- A set whose failing leaves are taken from the other buddy's copy (R491): each leaf from the copy in which it has the digest that
the shard's tree gives it. -/
def mendSet (rec a b : List Byte) : List Byte :=
  let x := shardOf rec
  match [a, b].find? (treeOk x) with
  | none => a
  | some t =>
    (List.range x.leaves).flatMap (fun i =>
      let n := Nat.min leafBytes (x.imgLen - i * leafBytes)
      let l := bytesAt a (i * leafBytes) n
      if leafDigest i l = treeLeaf x t i then l else bytesAt b (i * leafBytes) n) ++ t.drop x.imgLen

/-- The sets of a restore, in the order of its list: the record, its place, and whether any is missing. -/
def restorePlan (m : List Byte) (list : List (Nat × List Byte)) : Option (List (Nat × List Byte × List Byte)) :=
  list.foldl (fun a e => match a, manFind m e.2 with
    | some l, some r => some (l ++ [(e.1, e.2, r)])
    | _, _ => none) (some [])

/-- A restore's end without success: nothing is registered. -/
def State.restoreFail (s : State) (p : Nat) (x : Restore) : State :=
  let s := (s.modCont p (fun c => { c with restore := none })).ckptEvent p x.target x.rank 0 0 4
  match x.desc with
  | none => s
  | some d => s.complete d ckUnreadable false 0

/-- The shards of a restore registered from its bytes (R491): each listed shard under R216 with COMMITS and ROOT from the
manifest; for a rollback the shards that stand already take the version into their current set (R492). -/
def State.restorePut (s : State) (p : Nat) (x : Restore) (m : List Byte) (sets : List (Nat × List Byte × List Byte × List Byte)) : State :=
  sets.foldl (fun s e =>
    let i := e.1
    let rec' := shardOf e.2.2.1
    if x.rollback then
      match s.shard? p i with
      | none => s
      | some y =>
        let (_, s) := s.writePva (s.engCtx p engCkpt) y.curSet e.2.2.2 false
        s.putShard p i { y with commits := rec'.commits, root := rec'.root, stepCur := manStep m, stepOther := none }
    else
      let y := { shardOf e.2.1 with commits := rec'.commits, root := rec'.root, stepCur := manStep m }
      let (_, s) := s.writePva (s.engCtx p engCkpt) y.curSet e.2.2.2 false
      (s.putShard p i y).countShards p) s

/-- Whether a listed image may be registered (R216), or for a rollback still stands. -/
def State.restoreMay (s : State) (p : Nat) (x : Restore) (e : Nat × List Byte) : Bool :=
  if x.rollback then (s.shard? p e.1).isSome else (s.shard? p e.1).isNone && s.shardOk p e.2

/-- A rollback's effect on the partition (R483, R492): contributions held are not carried; SR_SEED, CHAFF_WP, the sheaves' last decided steps, COMMIT and ROLLBACKS. -/
def State.rollbackTo (s : State) (p : Nat) (m : List Byte) : State :=
  let s := (s.wr F.pSrSeedL (leAt m 32 4) p).wr F.pSrSeedH (leAt m 36 4) p
  let s := s.wr F.pChaffWp (leAt m 40 4) p
  let pos := (List.range (manSheaves m)).map (fun k =>
    let o := 4224 + 192 * manShards m + 16 * k
    (leAt m o 2, leAt m (o + 8) 8))
  let s := (s.part p).coll.sheaves.foldl (fun s e => s.dropContribs p e.1 (fun _ => true)) s
  let s := s.modColl p (fun c => { c with sheaves := tmap c.sheaves (fun n h =>
    { h with close := none, banks := [], maps := [], early := none, closed := (pos.find? (fun e => e.1 == n)).map (fun e => e.2) }) })
  (s.wr F.pCommit (manStep m) p).inc F.pRollbacks 1 p

/-- A restore with its manifest and sets at hand: checked, then carried out. -/
def State.restoreDone (s : State) (p : Nat) (x : Restore) (m : List Byte) (sets : List (Nat × List Byte × List Byte × List Byte)) : State :=
  let s := s.modCont p (fun c => { c with restore := none })
  let s := s.restorePut p x m sets
  let s := if x.rollback then s.rollbackTo p m
    else (s.writePva (s.engCtx p engCkpt) x.outPva (bytesAt m 128 (Nat.min (leAt m 44 4) 4096)) false).2
  match x.desc with
  | none => s
  | some d => s.done d

/-- The local copies of a rank's checkpoints at or below the target: the sealed slots of this module's lends over a channel to that
member, each half of a lend a slot, with their manifests. -/
def State.localCopies (s : State) (p rank target : Nat) : List (Nat × List Byte) × State :=
  match s.job? p with
  | none => ([], s)
  | some j =>
    match j.members[rank]? with
    | none => ([], s)
    | some m =>
      let ls := (s.part p).tier.lends.filter (fun l => match s.chan? p l.2.chan with
        | some (_, c) => c.peerIp == m.addr && c.peerPart == m.part
        | none => false)
      ls.foldl (fun (a : List (Nat × List Byte) × State) l =>
        [0, 1].foldl (fun a k =>
          let base := l.2.pva + k * (l.2.len / 2)
          let (out, s) := a.2.readPva (a.2.engCtx p engCkpt) base (Nat.min (2 ^ 20) (l.2.len / 2))
          if l.2.sealedAny (k * (l.2.len / 2)) 4224 && !out.fault && !out.poison && manOk out.bytes && leAt out.bytes 1 1 == rank && decide (manStep out.bytes ≤ target) then
            ((base, out.bytes) :: a.1, s) else (a.1, s)) a) ([], s)

/-- A restore served from this module's own lent slots (R491): a newest complete slot that passes every check. -/
def State.restoreLocal (s : State) (p : Nat) (x : Restore) : Bool × State :=
  let (cs, s) := s.localCopies p x.rank x.target
  let newest := maxOf (cs.map (fun c => manStep c.2))
  let best := cs.filter (fun c => manStep c.2 == newest)
  best.foldl (fun (a : Bool × State) c =>
    if a.1 then a
    else match restorePlan c.2 x.list with
      | none => a
      | some plan =>
        if !plan.all (fun e => a.2.restoreMay p x (e.1, e.2.1)) then a
        else
          let (sets, s) := plan.foldl (fun (b : List (Nat × List Byte × List Byte × List Byte) × State) e =>
            let (out, s) := b.2.readPva (b.2.engCtx p engCkpt) (c.1 + leAt e.2.2 128 8) (leAt e.2.2 136 8)
            (b.1 ++ [(e.1, e.2.1, e.2.2, if out.fault || out.poison then [] else out.bytes)], s)) ([], a.2)
          if sets.all (fun e => setOk e.2.2.1 e.2.2.2) then (true, s.restoreDone p x c.2 sets) else (false, s)) (false, s)

/-! ### Reading a buddy's copy -/

/-- The greatest read of a lend (R324). -/
def lendReadMax : Nat := 65536

/-- Read requests for a span of a slot of the buddy being read. -/
def State.restoreAsk (s : State) (p ofs len : Nat) : State :=
  match (s.part p).cont.restore with
  | none => s
  | some x =>
    iterN (ceilDiv len lendReadMax) (fun i s =>
      let o := ofs + i * lendReadMax
      let tag := s.tiers.nextTag
      let s := s.setTiers (fun t => { t with nextTag := (t.nextTag + 1) % 2 ^ 32 })
      let (ok, s) := s.toLender p ⟨x.chan, x.lend, 0⟩ 1 tag (x.base + o) (Nat.min lendReadMax (ofs + len - o)) []
      s.modCont p (fun c => { c with restore := c.restore.map (fun x => if ok then { x with wait := x.wait ++ [(tag, o)] } else x) })) s

/-- The next buddy's copy of the checkpoint tried, else the restore ends (R491). -/
def State.restoreNext (s : State) (p : Nat) : State :=
  match (s.part p).cont.restore with
  | none => s
  | some x =>
    let up := fun (t : Nat) => (s.part p).cont.buddies.any (fun b => b.rank == t / 2 && (match s.chan? p b.chan with
      | some (_, c) => c.state == 2
      | none => false))
    match x.tries.filter up with
    | [] => s.restoreFail p x
    | t :: rest =>
      let b? := (s.part p).cont.buddies.find? (fun b => b.rank == t / 2)
      match b? with
      | none => s.restoreFail p { x with tries := rest }
      | some b =>
        let len := (s.part p).cont.slotLen
        let s := s.modCont p (fun c => { c with restore := some { x with
          tries := rest, chan := b.chan, lend := b.lend, base := t % 2 * len, gotMan := false, wait := [], got := [], man := [] } })
        s.restoreAsk p 0 (Nat.min (2 ^ 20) len)

/-- Bytes [ofs, ofs + n) of what a restore has read. -/
def Restore.bytes (x : Restore) (ofs n : Nat) : List Byte :=
  bytesAt ((List.range (ceilDiv (ofs % lendReadMax + n) lendReadMax)).flatMap (fun i => tgetD x.got (ofs / lendReadMax * lendReadMax + i * lendReadMax) []))
    (ofs % lendReadMax) n

/-- What a restore does once everything it asked for has come: the manifest is checked and the sets asked for, or the sets are
checked and put in place; leaves that fail a check are read from the other buddy's copy. -/
def State.restoreStep (s : State) (p : Nat) : State :=
  match (s.part p).cont.restore with
  | none => s
  | some x =>
    if x.wait != [] then s
    else if !x.gotMan then
      let m := (x.got.flatMap (fun e => e.2)).take (2 ^ 20)
      match (if manOk m && leAt m 1 1 == x.rank && decide (manStep m ≤ x.target) then restorePlan m x.list else none) with
      | none => s.restoreNext p
      | some plan =>
        let s := s.modCont p (fun c => { c with restore := some { x with gotMan := true, man := m.take (manLen m), got := [] } })
        let s := plan.foldl (fun s e => s.restoreAsk p (leAt e.2.2 128 8) (leAt e.2.2 136 8)) s
        match (s.part p).cont.restore with
        | none => s
        | some y => if y.wait = [] then s.restoreDone p y y.man [] else s
    else match restorePlan x.man x.list with
      | none => s.restoreNext p
      | some plan =>
        let sets := plan.map (fun e =>
          let ofs := leAt e.2.2 128 8
          let n := leAt e.2.2 136 8
          let cut := (List.range (ceilDiv n lendReadMax)).flatMap (fun i => tgetD x.got (ofs + i * lendReadMax) [])
          (e.1, e.2.1, e.2.2, cut.take n))
        let sets := (List.range sets.length).filterMap (fun i => (sets[i]?).map (fun e =>
          (e.1, e.2.1, e.2.2.1, match x.kept[i]? with
            | some b => mendSet e.2.2.1 b e.2.2.2
            | none => e.2.2.2)))
        if sets.all (fun e => s.restoreMay p x (e.1, e.2.1) && setOk e.2.2.1 e.2.2.2) then s.restoreDone p x x.man sets
        else (s.modCont p (fun c => { c with restore := some { x with kept := sets.map (fun e => e.2.2.2) } })).restoreNext p

/-- Data or a status that answers a restore's read; the answer says whether the tag was one of its. -/
def State.restoreData (s : State) (p tag : Nat) (data : Option (List Byte)) : Bool × State :=
  match (s.part p).cont.restore with
  | none => (false, s)
  | some x => match x.wait.find? (fun w => w.1 == tag) with
    | none => (false, s)
    | some w => match data with
      | none => (true, s.restoreNext p)
      | some d => (true, (s.modCont p (fun c => { c with restore := some { x with wait := x.wait.erase w, got := tput x.got w.2 d } })).restoreStep p)

/-- A restore begun (R491): from this module's own lent slots when it is the buddy, else from the buddies' copies of its own
checkpoint. -/
def State.restoreStart (s : State) (p : Nat) (x : Restore) : State :=
  match s.restoreLocal p x with
  | (true, s) => s
  | (false, s) =>
    if x.rank != s.rd F.pRank p then s.restoreFail p x
    else
      let cs := (s.part p).cont.buddies.flatMap (fun b => b.steps.filterMap (fun e => if e.2 ≤ x.target then some (e.2, 2 * b.rank + e.1) else none))
      let newest := maxOf (cs.map (fun c => c.1))
      let ts := (cs.filter (fun c => c.1 == newest)).map (fun c => c.2)
      (s.modCont p (fun c => { c with restore := some { x with tries := ts } })).restoreNext p

/-- Descriptor 0x57 (R491): its list is of shard entry images, each after its SHARD number in a 64-bit word. -/
def State.runMemberRestore (r : DRef) (d : Desc) (s : State) : State :=
  let p := r.part
  let rank := d.fld 0 6
  let n := d.fld 6 12
  match s.job? p with
  | none => s.nullDesc r contNull rank
  | some j =>
    if j.n ≤ rank then s.nullDesc r contNull rank
    else match s.descRead p (d.at 24 64) (136 * n) with
      | (none, s) => s.noop r
      | (some bs, s) =>
        let list := (List.range n).map (fun i => (leAt bs (136 * i) 8 % 4096, bytesAt bs (136 * i + 8) 128))
        s.restoreStart p ⟨some r, false, rank, s.rd F.pCkjob p, list, d.at 32 64, [], 0, 0, 0, false, [], [], [], []⟩

end Sys2Proof.Machine
end

