-- ==== Sys2Proof/Machine/Queues.lean ====
section
/-! DEFINITION. The internal queues of Table 1-6: their four cumulative counts, their checks and their resets (R32 to R35, R88).
The counts of descriptor rings, Gnoxel channels and collective slots stand with those. -/
namespace Sys2Proof.Machine
open Sys2Proof

/-- The row of Table 1-6 a queue is, and the core, stack or hub it belongs to. -/
def qRow : QueueId → Nat
  | .grains _ => 2
  | .tarn _ => 3
  | .lines _ => 4
  | .bursts _ => 5
  | .tokens _ => 6
  | .intake _ => 9

def qIndex : QueueId → Nat
  | .grains c => c.val
  | .tarn c => c.val
  | .lines c => c.val
  | .bursts n => n.val
  | .tokens h => h.val
  | .intake h => h.val

/-- The depth of a queue by its row of Table 1-6. -/
def qDepth (row : Nat) : Nat := nthD [0, 0, 16, 32, 256, 1024, 4096, 0, 0, 512] row 0

/-- Where a queue's counts stand among the queues. -/
def qKey (row i : Nat) : Nat := row * 512 + i

/-- A queue; one nothing has gone through has granted its whole depth. -/
def State.queue (s : State) (row i : Nat) : Queue := tgetD s.queues (qKey row i) ⟨qDepth row, 0, 0, 0, false, 0, 0⟩

def State.putQueue (s : State) (row i : Nat) (q : Queue) : State := { s with queues := tput s.queues (qKey row i) q }

/-- The checks of R88: consumed and returned never exceed issued, and issued never exceeds granted, beyond what a breach already
reported left when the queue resumed. -/
def Queue.breached (q : Queue) : Bool :=
  decide (q.issued + q.excess < q.consumed + q.returned) || decide (q.granted + q.beyond < q.issued)

/-- The credit breach event (Table 2-8); an end of a queue is named by its row of Table 1-6 and its index. -/
def State.breachEvent (s : State) (row i : Nat) (q : Queue) : State :=
  s.eventAll 0x07 [row + i * 256, row + i * 256 + 128, q.granted, q.issued, q.consumed, q.returned]

/-- The die fabric stop that the queue's items pass: that of a core's die for its port (row 4), of the hub for the dispatch engines
(HD2, HD3, row 6) and the intake engines (HD0, HD1, row 9); the other queues lie within one die or between a die and its stack. -/
def State.queueStop? (s : State) (row i : Nat) : Option Nat :=
  if row = 4 then some (s.dieOf i) else if row = 6 then some (10 + i) else if row = 9 then some (8 + i) else none

/-- Whether a queue stands still while a block is in reset (Table 17-6): traffic through a fabric stop is held at its producers; a core
in reset starts and takes nothing, a stack's controller, a dispatch or an intake engine in reset neither takes nor issues. -/
def State.queueHeld (s : State) (row i : Nat) : Bool :=
  (match s.queueStop? row i with
    | some d => bitN (s.rd F.rstFabInr) d
    | none => false) ||
  (if row = 5 then bitN (s.rd F.rstMemcInr) i
   else if row = 6 then bitN (s.rd F.rstEngInr) (12 + i)
   else if row = 9 then bitN (s.rd F.rstEngInr) (10 + i)
   else bitN (s.rd F.rstCoreInr 0 (i / 32)) (i % 32))

/-- QUEUE_ITEM_ISSUE (R32, R88): the consumer announces the items it has taken since it last did, and grants as many anew;
then the producer issues one item while its grant allows it. A queue that fails a check stops; one held by a reset moves nothing. -/
def State.queueIssue (s : State) (row i taken : Nat) : State :=
  let q := s.queue row i
  if q.stopped || s.queueHeld row i then s
  else
    let q := { q with consumed := q.consumed + taken, granted := q.granted + taken }
    if q.breached then (s.putQueue row i { q with stopped := true }).breachEvent row i q
    else s.putQueue row i (if q.issued < q.granted then { q with issued := q.issued + 1 } else q)

def execQueueItemIssue (q : QueueId) (taken : Word) (s : State) : Host.Outcome State Fault Refusal :=
  finish (s.queueIssue (qRow q) (qIndex q) taken.toNat)

/-- A queue that runs again (R34, R35, R88): its counts stand as they are, never adjusted (R12), and what they break of a check has been
reported already, so that the checks hold from there on (DESIGN CHOICE, notes/assumptions/96.md). -/
def Queue.resume (q : Queue) : Queue :=
  { q with stopped := false, excess := q.consumed + q.returned - q.issued, beyond := q.issued - q.granted }

/-- The items of a queue that its consumer holds and has not consumed. -/
def Queue.held (q : Queue) : Nat := q.issued - (q.consumed + q.returned)

/-- A queue that nothing has gone through needs no entry. -/
def State.modQueue (s : State) (row i : Nat) (f : Queue → Queue) : State :=
  if thas s.queues (qKey row i) then s.putQueue row i (f (s.queue row i)) else s

/-- The consumer of a queue reset (R34): the items it held and had not consumed go back to the producer and count as returned. -/
def State.queueConsumerReset (s : State) (row i : Nat) : State :=
  s.modQueue row i (fun q => { q with returned := q.returned + q.held })

/-- The producer of a queue reset (R35): the consumer finishes consuming every item it has received. -/
def State.queueProducerReset (s : State) (row i : Nat) : State :=
  s.modQueue row i (fun q => { q with consumed := q.consumed + q.held })

/-- An end of a queue released (R34, R35, R88): the consumer announces its counts and then grants what they leave of the depth, the
producer resumes from them, and a stopped queue runs again. -/
def State.queueRelease (s : State) (row i : Nat) : State :=
  s.modQueue row i (fun q => ({ q with granted := Nat.max q.granted (qDepth row + q.consumed + q.returned) }).resume)

/-- Every queue of a warm reset (R33, R88): the counts stand, and a stopped queue resumes. -/
def State.queuesWarm (s : State) : State := { s with queues := tmap s.queues (fun _ q => if q.stopped then q.resume else q) }

end Sys2Proof.Machine
end

