-- ==== Sys2Proof/Machine/ExpertDispatch.lean ====
section
/-! DEFINITION. Expert dispatch (07_index_and_dispatch.md, R250 to R267): contexts, rounds, the passes that assign entries,
messages and their rows, returns, the combine, and the counts of token conservation. -/
namespace Sys2Proof.Machine

/-- The field code of a dispatch field set to the null resource (R523). -/
def dispNull : Nat := freeCode 8 0

/-! ## The context image (Table 7-5) -/

def DispCtx.f (x : DispCtx) (lo w : Nat) : Nat := fldN x.img lo w
def DispCtx.k (x : DispCtx) : Nat := x.f 12 5
def DispCtx.reroute (x : DispCtx) : Bool := x.f 17 1 == 1
def DispCtx.self (x : DispCtx) : Nat := x.f 18 6
def DispCtx.nDst (x : DispCtx) : Nat := x.f 24 7
def DispCtx.nExp (x : DispCtx) : Nat := x.f 32 11
def DispCtx.lExp (x : DispCtx) : Nat := x.f 43 11
def DispCtx.cap (x : DispCtx) : Nat := x.f 64 16
def DispCtx.deadline (x : DispCtx) : Nat := x.f 80 11
def DispCtx.tokBase (x : DispCtx) : Nat := x.f 96 32
def DispCtx.nTok (x : DispCtx) : Nat := x.f 128 21
def DispCtx.rowBytes (x : DispCtx) : Nat := x.f 160 16
def DispCtx.outBytes (x : DispCtx) : Nat := x.f 176 16
def DispCtx.retFmt (x : DispCtx) : Nat := x.f 192 5
def DispCtx.asgSig (x : DispCtx) : Nat := x.f 197 6
def DispCtx.inSig (x : DispCtx) : Nat := x.f 203 6
def DispCtx.retSig (x : DispCtx) : Nat := x.f 209 6
def DispCtx.actPva (x : DispCtx) : Nat := x.f 256 64
def DispCtx.actLd (x : DispCtx) : Nat := x.f 320 32
def DispCtx.rxbCount (x : DispCtx) : Nat := x.f 352 32
def DispCtx.mapPva (x : DispCtx) : Nat := x.f 384 64
def DispCtx.chanPva (x : DispCtx) : Nat := x.f 448 64
def DispCtx.inPva (x : DispCtx) : Nat := x.f 512 64
def DispCtx.outPva (x : DispCtx) : Nat := x.f 576 64
def DispCtx.asgPva (x : DispCtx) : Nat := x.f 640 64
def DispCtx.retPva (x : DispCtx) : Nat := x.f 704 64
def DispCtx.cntPva (x : DispCtx) : Nat := x.f 768 64
def DispCtx.rxbPva (x : DispCtx) : Nat := x.f 832 64
def DispCtx.statPva (x : DispCtx) : Nat := x.f 896 64

/-- 16 MiB, the size of a receive buffer and the most a message holds. -/
def mib16 : Nat := 2 ^ 24

/-- The areas the engine writes, start and length. -/
def DispCtx.areas (x : DispCtx) : List (Nat × Nat) :=
  let rows := 2 * x.lExp * x.nDst * x.cap
  [(x.inPva, rows * x.rowBytes), (x.outPva, rows * x.outBytes), (x.asgPva, 2 * x.nTok * x.k * 16),
   (x.retPva, 2 * x.nTok * x.k * x.outBytes), (x.cntPva, 2 * x.lExp * x.nDst * 4), (x.rxbPva, x.nDst * x.rxbCount * mib16),
   (x.statPva, (17 + 3 * x.nDst) * 8)]

/-- Whether every field lies in its range of Table 7-5. -/
def DispCtx.inRange (x : DispCtx) (dctx : Nat) : Bool :=
  let bytesOk := fun (n : Nat) => decide (64 ≤ n) && decide (n ≤ 65472) && n % 64 == 0
  x.f 0 8 == 0x10 && x.f 8 4 == dctx && decide (1 ≤ x.k) && decide (x.k ≤ 16) && decide (1 ≤ x.nDst) && decide (x.nDst ≤ 64) &&
    decide (1 ≤ x.nExp) && decide (x.nExp ≤ 1024) && decide (x.lExp ≤ 1024) && decide (1 ≤ x.cap) && decide (1 ≤ x.deadline) &&
    decide (x.deadline ≤ 1024) && decide (1 ≤ x.nTok) && decide (x.nTok ≤ 2 ^ 20) && bytesOk x.rowBytes && bytesOk x.outBytes &&
    decide (x.retFmt ≤ 2) && decide (2 ≤ x.rxbCount) && decide (x.rxbCount ≤ 65536)

/-- Input row (le, src, k) of bank b, by place in units of a row. -/
def DispCtx.rowPlace (x : DispCtx) (b le src k : Nat) : Nat := b * x.lExp * x.nDst * x.cap + (le * x.nDst + src) * x.cap + k

/-- Assignment or return slot (t, j) of bank b, by place. -/
def DispCtx.slotPlace (x : DispCtx) (b t j : Nat) : Nat := (b * x.nTok + t) * x.k + j

def State.dctx? (s : State) (p n : Nat) : Option DispCtx := tget? (s.part p).dctx n

def State.putDctx (s : State) (p n : Nat) (x : DispCtx) : State := s.modPart p (fun q => { q with dctx := tput q.dctx n x })

/-- The request context of the dispatch engine. -/
def State.dispEng (s : State) (p : Nat) : Ctx := s.engCtx p 3

/-- Bytes written by the dispatch engine; a translation fault is reported and the bytes are lost. -/
def State.dispWrite (s : State) (p pva : Nat) (bs : List Byte) : State := (s.writePva (s.dispEng p) pva bs false).2

/-! ## Counts and events -/

/-- The dispatch fault event (Table 7-13): causes 1 grain fault, 2 record refused, 3 row refused, 4 count breach. -/
def State.dispFault (s : State) (p n round cause who : Nat) (counts : List Nat) : State :=
  s.event 0x10 p ([p, n, round, cause, who] ++ counts)

/-- Places of the counts of Table 7-9. -/
def cRecords : Nat := 0
def cBad : Nat := 1
def cNotRouted : Nat := 2
def cOor : Nat := 3
def cDup : Nat := 4
def cWanted : Nat := 5
def cSent : Nat := 6
def cRerouted : Nat := 7
def cCapacity : Nat := 8
def cUnmapped : Nat := 9
def cReturned : Nat := 10
def cNotReturned : Nat := 11
def cLost : Nat := 12

/-- A list of counts with count i raised by n. -/
def addAt (l : List Nat) (i n : Nat) : List Nat := l.mapIdx (fun j x => if j = i then x + n else x)

/-- Two lists of counts added. -/
def addLists (a b : List Nat) : List Nat := (List.range (Nat.max a.length b.length)).map (fun i => nthD a i 0 + nthD b i 0)

/-- The rows received in a round, while its bank stands and after a return grain has released it (R260, R267). -/
def DispCtx.receivedIn (x : DispCtx) (round : Nat) : Nat :=
  match x.recv.find? (fun e => e.2.round == round) with
  | some e => e.2.received
  | none => ((x.got.find? (fun e => e.2.1 == round)).map (fun e => e.2.2)).getD 0

/-- The status block of a context (Table 7-9): round, step, the counts of its banks of that round, late in, and the
counts per source. -/
def State.dispStatus (s : State) (p n round : Nat) : State :=
  match s.dctx? p n with
  | none => s
  | some x =>
    let c := ((x.send.find? (fun e => e.2.round == round)).map (fun e => e.2.counts)).getD (List.replicate 13 0)
    let words := [round, s.stepNo p] ++ c ++ [x.receivedIn round, x.late] ++
      (List.range x.nDst).flatMap (fun i => let y := tgetD x.srcs i (0, 0, 0); [y.1, y.2.1, y.2.2])
    s.dispWrite p x.statPva (words.flatMap (leBytes 8))

/-- The counts of source i of a context changed: rows placed, late, refused. -/
def DispCtx.count (x : DispCtx) (i a b c : Nat) : DispCtx :=
  let y := tgetD x.srcs i (0, 0, 0)
  { x with srcs := tput x.srcs i (y.1 + a, y.2.1 + b, y.2.2 + c) }

/-! ## Messages (Table 7-8) -/

/-- A dispatch or return message. -/
def dispMessage (x : DispCtx) (kind n round total rbytes step : Nat) (last : Bool) (hdrs : List (List Byte)) (rows : List (List Byte)) : List Byte :=
  let h := hdrs.flatMap (fun y => y)
  leBytes 1 0x10 ++ leBytes 1 kind ++ leBytes 1 (b2n last) ++ leBytes 1 n ++ leBytes 1 x.self ++ leBytes 3 0 ++ leBytes 4 round ++
    leBytes 4 hdrs.length ++ leBytes 4 (if last then total else 0) ++ leBytes 4 rbytes ++ leBytes 8 step ++ List.replicate 32 0 ++
    bytesAt h 0 (roundUp h.length 64) ++ rows.flatMap (fun y => y)

/-- A row header: TOKEN, LEXP, RANK, CHOICE. -/
def dispHdr (token lexp rank choice : Nat) : List Byte := leBytes 4 token ++ leBytes 2 lexp ++ leBytes 2 rank ++ leBytes 1 choice ++ leBytes 7 0

/-- The most rows of a message of at most 16 MiB. -/
def rowsPerMsg (rbytes : Nat) : Nat :=
  let n := (mib16 - 64) / (rbytes + 16)
  if mib16 < 64 + roundUp (16 * n) 64 + n * rbytes then n - 1 else n

/-- A list cut into pieces of at most n, with at least one piece. -/
def cutList {α : Type} (n : Nat) (l : List α) : List (List α) :=
  if l = [] ∨ n = 0 then [l] else (List.range ((l.length + n - 1) / n)).map (fun i => (l.drop (i * n)).take n)

/-- The header fields of a received message: kind, last, context, source, round, rows, total, row bytes. -/
structure DispMsg where
  kind : Nat
  last : Bool
  n : Nat
  src : Nat
  round : Nat
  rows : Nat
  total : Nat
  rbytes : Nat
  deriving DecidableEq, Repr

def dispMsgOf (b : List Byte) : DispMsg :=
  ⟨leAt b 1 1, leAt b 2 1 % 2 == 1, leAt b 3 1, leAt b 4 1, leAt b 8 4, leAt b 12 4, leAt b 16 4, leAt b 20 4⟩

/-- Header i of a message: TOKEN, LEXP, RANK, CHOICE. -/
def dispMsgHdr (b : List Byte) (i : Nat) : Nat × Nat × Nat × Nat :=
  (leAt b (64 + 16 * i) 4, leAt b (68 + 16 * i) 2, leAt b (70 + 16 * i) 2, leAt b (72 + 16 * i) 1)

/-- Row i of a message. -/
def dispMsgRow (b : List Byte) (m : DispMsg) (i : Nat) : List Byte := bytesAt b (64 + roundUp (16 * m.rows) 64 + i * m.rbytes) m.rbytes

/-! ## Step reports and releases (R251, R267) -/

/-- The step report of one context, if a round of it has closed since the last. -/
def State.dispReport (s : State) (p n stepNo : Nat) : State :=
  match s.dctx? p n with
  | none => s
  | some x =>
    if x.stepRounds = 0 then s
    else (s.event 0x11 p ([p, n, stepNo, x.stepRounds] ++ x.stepCounts)).putDctx p n { x with stepRounds := 0, stepCounts := [] }

/-- The step reports of a completed step (R267). -/
def State.dispReports (s : State) (p stepNo : Nat) : State := ((s.part p).dctx.map (fun e => e.1)).foldl (fun s n => s.dispReport p n stepNo) s

/-- Whether a context has an open round. -/
def DispCtx.busy (x : DispCtx) : Bool := x.send.any (fun e => e.2.phase < 2) || x.recv.any (fun e => !e.2.closed)

/-- A released context leaves once it is idle (R251), which each close looks at: its report of the rounds closed goes out, its buffers
return and its descriptor completes. -/
def State.dctxTryRelease (s : State) (p n : Nat) : State :=
  match s.dctx? p n with
  | none => s
  | some x =>
    match x.releasing with
    | none => s
    | some d =>
      if x.busy then s
      else
        let s := s.dispReport p n (s.stepNo p)
        let s := x.chans.foldl (fun s h => match s.chan? p h with
          | none => s
          | some (cid, c) => (c.bufs.filter (fun b => b.owner == .engine 0 (16 * p + n))).foldl (fun s b => s.revoke cid b) s) s
        (s.modPart p (fun q => { q with dctx := tdel q.dctx n })).done d

/-! ## The receiving side (R254, R257 to R259) -/

/-- The close of a receive bank (R258): zero rows past each count, the counts, IN_SIG, breaches, and RX_NEXT raised. -/
def State.closeRecv (s : State) (p n b : Nat) : State :=
  match s.dctx? p n with
  | none => s
  | some x =>
    match tget? x.recv b with
    | none => s
    | some r =>
      if r.closed then s
      else
        let pairs := (List.range x.lExp).flatMap (fun le => (List.range x.nDst).map (fun i => (le, i)))
        let s := pairs.foldl (fun s y =>
          let c := tgetD r.counts (y.1 * x.nDst + y.2) 0
          let pad := (x.cap - c) * x.rowBytes
          let s := if pad = 0 then s else s.dispWrite p (x.inPva + x.rowPlace b y.1 y.2 c * x.rowBytes) (List.replicate pad 0)
          s.dispWrite p (x.cntPva + (b * x.lExp * x.nDst + y.1 * x.nDst + y.2) * 4) (leBytes 4 c)) s
        let s := r.totals.foldl (fun s t => if tgetD r.counted t.1 0 < t.2 then s.dispFault p n r.round 4 t.1 [t.2, tgetD r.counted t.1 0] else s) s
        let cl := r.round :: x.closedRounds
        let nx := (List.range (cl.length + 1)).foldl (fun k _ => if cl.contains k then k + 1 else k) x.rxNext
        let s := s.putDctx p n { x with recv := tput x.recv b { r with closed := true }, rxNext := nx, closedRounds := cl.filter (fun k => nx ≤ k), got := tput x.got b (r.round, r.received) }
        ((s.postSig p x.inSig).dispStatus p n r.round).dctxTryRelease p n

/-- Whether a receive bank has its LAST from every destination and every row counted (R258). -/
def RecvBank.full (r : RecvBank) (x : DispCtx) : Bool :=
  (List.range x.nDst).all (fun i => match tget? r.totals i with
    | none => false
    | some t => tgetD r.counted i 0 == t)

/-- Whether a message of round r can be placed now: 0 late, 1 placed, 2 held (R254, R259). -/
def DispCtx.fate (x : DispCtx) (r : Nat) : Nat :=
  if r < x.rxNext || x.closedRounds.contains r then 0
  else if x.rxNext + 2 ≤ r then 2
  else match tget? x.recv (r % 2) with
    | none => 1
    | some y => if y.round = r then (if y.closed then 0 else 1) else 2

/-- One row of a dispatch message (R257). -/
def State.placeRow (s : State) (p n b : Nat) (m : DispMsg) (bs : List Byte) (i : Nat) : State :=
  match s.dctx? p n with
  | none => s
  | some x =>
    match tget? x.recv b with
    | none => s
    | some r =>
      let (token, le, rank, choice) := dispMsgHdr bs i
      let r := { r with counted := tput r.counted m.src (tgetD r.counted m.src 0 + 1) }
      if x.lExp ≤ le || x.cap ≤ rank then
        ((s.putDctx p n { (x.count m.src 0 0 1) with recv := tput x.recv b r })).dispFault p n r.round 3 m.src []
      else
        let key := le * x.nDst + m.src
        let r := { r with counts := tput r.counts key (tgetD r.counts key 0 + 1), hdrs := tput r.hdrs (key * x.cap + rank) (token, choice), received := r.received + 1 }
        let s := (s.putDctx p n { (x.count m.src 1 0 0) with recv := tput x.recv b r }).add F.pDrecv 1 p
        s.dispWrite p (x.inPva + x.rowPlace b le m.src rank * x.rowBytes) (bytesAt (dispMsgRow bs m i) 0 x.rowBytes)

/-- A receive buffer put back on its channel (R251, R257). -/
def State.repost (s : State) (o : Option (Nat × GnxBuf)) : State :=
  match o with
  | none => s
  | some (cid, b) => s.postBuf cid b.tag b.pva mib16 b.owner

/-- A dispatch message taken (R254, R257, R259): late, placed, or held in its buffer. origin is its channel and buffer,
none for the local path. -/
def State.takeDispatch (s : State) (p : Nat) (origin : Option (Nat × GnxBuf)) (bs : List Byte) : State :=
  let m := dispMsgOf bs
  match s.dctx? p m.n with
  | none => s.repost origin
  | some x =>
    match unwrapN 32 x.rxNext m.round with
    | none => ((s.putDctx p m.n { (x.count m.src 0 m.rows 0) with late := x.late + 1 }).inc F.pLateIn 1 p).repost origin
    | some r =>
      match x.fate r with
      | 0 => ((s.putDctx p m.n { (x.count m.src 0 m.rows 0) with late := x.late + 1 }).inc F.pLateIn 1 p).repost origin
      | 1 =>
        let b := r % 2
        let y := tgetD x.recv b ⟨r, s.tick, false, [], [], [], [], 0⟩
        let s := s.putDctx p m.n { x with recv := tput x.recv b y }
        let s := (List.range m.rows).foldl (fun s i => s.placeRow p m.n b m bs i) s
        let s := match s.dctx? p m.n with
          | none => s
          | some x => if m.last then s.putDctx p m.n { x with recv := tmod x.recv b (fun y => { y with totals := tput y.totals m.src m.total }) } else s
        let s := s.repost origin
        match s.dctx? p m.n with
        | none => s
        | some x => if ((tget? x.recv b).map (fun y => y.full x)).getD false then s.closeRecv p m.n b else s
      | _ => s.putDctx p m.n { x with held := x.held ++ [(origin, bs)] }

/-- Whether a held message can be placed or discarded now: its round is open, closed, or out of reach (R254). -/
def DispCtx.ready (x : DispCtx) (h : Option (Nat × GnxBuf) × List Byte) : Bool :=
  match unwrapN 32 x.rxNext (dispMsgOf h.2).round with
  | none => true
  | some r => x.fate r != 2

/-- The first held message that can be placed or discarded now, taken (R254). -/
def State.placeHeld (s : State) (p n : Nat) : State :=
  match s.dctx? p n with
  | none => s
  | some x =>
    match x.held.find? x.ready with
    | none => s
    | some h => (s.putDctx p n { x with held := x.held.erase h }).takeDispatch p h.1 h.2

/-! ## The sending side (R252, R253, R255, R256) -/

/-- The fields of an assignment entry (Table 7-7). -/
def asgWord (dest lexp rank choice : Nat) (rerouted : Bool) (gate : Nat) : Nat :=
  dest + 2 ^ 6 * lexp + 2 ^ 16 * rank + 2 ^ 32 * choice + 2 ^ 36 + 2 ^ 37 * b2n rerouted + 2 ^ 64 * gate
def asgDrop (cause : Nat) : Nat := 2 ^ 38 + 2 ^ 40 * cause
def asgSent (w : Nat) : Bool := bitN w 36
def asgReturned (w : Nat) : Bool := bitN w 39

/-- What the passes of R255 carry: rows used by each expert, the entries by slot, the next extra of each token, and the
counts of the tokens taken, of capacity and unmapped drops, sends and reroutes. -/
structure Passes where
  used : Tab Nat
  asg : Tab Nat
  next : Tab Nat
  tokens : Nat
  capacity : Nat
  unmapped : Nat
  sent : Nat
  rerouted : Nat
  deriving DecidableEq, Repr

/-- Where an expert lives: its destination and local expert, none when it is not mapped (R255). -/
def DispCtx.mapped (x : DispCtx) (map : List Byte) (e : Nat) : Option (Nat × Nat) :=
  if x.nExp ≤ e then none
  else
    let w := leAt map (4 * e) 4
    if fldN w 0 6 < x.nDst then some (fldN w 0 6, fldN w 6 10) else none

/-- One entry (t, j) of a pass (R255). -/
def DispCtx.pass (x : DispCtx) (map : List Byte) (j : Nat) (t : Nat) (r : RouterRec) (a : Passes) : Passes :=
  if r.bad || r.nsel ≤ j then a
  else
    let slot := t * x.k + j
    let (e, g) := nthD r.entries j (0, 0)
    let assign := fun (a : Passes) (c e g : Nat) (d : Nat × Nat) (re : Bool) =>
      let u := tgetD a.used e 0
      { a with used := tput a.used e (u + 1), asg := tput a.asg slot (asgWord d.1 d.2 u c re g), sent := a.sent + 1,
               rerouted := a.rerouted + b2n re }
    match x.mapped map e with
    | none => { a with asg := tput a.asg slot (asgDrop 2), unmapped := a.unmapped + 1 }
    | some d =>
      if tgetD a.used e 0 < x.cap then assign a j e g d false
      else
        let full := { a with asg := tput a.asg slot (asgDrop 1), capacity := a.capacity + 1 }
        if !x.reroute then full
        else
          let mine := (List.range x.k).filterMap (fun i => match tget? a.asg (t * x.k + i) with
            | some w => if asgSent w then some ((nthD r.entries (fldN w 32 4) (0, 0)).1) else none
            | none => none)
          let first := tgetD a.next t r.nsel
          match ((List.range (r.nsel + r.next)).filter (fun c => first ≤ c)).find? (fun c =>
              let e := (nthD r.entries c (0, 0)).1
              (x.mapped map e).isSome && decide (tgetD a.used e 0 < x.cap) && !mine.contains e) with
          | none => { full with next := tput a.next t (r.nsel + r.next) }
          | some c =>
            let y := nthD r.entries c (0, 0)
            { (assign a c y.1 y.2 ((x.mapped map y.1).getD (0, 0)) true) with next := tput a.next t (c + 1) }

/-- Every pass over the records of a round (R255). -/
def DispCtx.passes (x : DispCtx) (map : List Byte) (recs : Tab RouterRec) : Passes :=
  iterN x.k (fun j a => recs.foldl (fun a e =>
    let a := x.pass map j e.1 e.2 a
    if j = 0 && !e.2.bad then { a with tokens := a.tokens + 1 } else a) a) ⟨[], [], [], 0, 0, 0, 0, 0⟩

/-- The assignment slots of a round's sends to destination d, in ascending (LEXP, RANK). -/
def sendsTo (asg : Tab Nat) (d : Nat) : List (Nat × Nat) :=
  (asg.filter (fun e => asgSent e.2 && fldN e.2 0 6 == d)).mergeSort (fun a b =>
    decide (fldN a.2 6 10 * 2 ^ 16 + fldN a.2 16 16 ≤ fldN b.2 6 10 * 2 ^ 16 + fldN b.2 16 16))

/-- The close of a return (R261): RET_SIG, the entries not returned counted dropped with the cause, the status block, the
check of R265, and the step report's sums. -/
def State.closeReturn (s : State) (p n b cause : Nat) : State :=
  match s.dctx? p n with
  | none => s
  | some x =>
    match tget? x.send b with
    | none => s
    | some k =>
      if k.phase != 1 then s
      else
        let miss := k.asg.filter (fun e => asgSent e.2 && !asgReturned e.2)
        let asg := k.asg.map (fun e => if asgSent e.2 && !asgReturned e.2 then (e.1, setFld e.2 40 4 cause) else e)
        let c := addAt k.counts (if cause = 5 then cLost else cNotReturned) miss.length
        let s := miss.foldl (fun s e => s.dispWrite p (x.asgPva + (b * x.nTok * x.k + e.1) * 16) (leBytes 16 (setFld e.2 40 4 cause))) s
        let s := s.add F.pDdrop miss.length p
        let at' := fun i => nthD c i 0
        let s := s.putDctx p n { x with send := tput x.send b { k with phase := 2, asg := asg, counts := c } }
        let s := (s.postSig p x.retSig).dispStatus p n k.round
        let ok := at' cRecords == at' cBad + k.assigned && x.nTok == at' cRecords + at' cNotRouted &&
          at' cWanted == at' cSent + at' cCapacity + at' cUnmapped && at' cSent == at' cReturned + at' cNotReturned + at' cLost
        let s := if ok then s else s.dispFault p n k.round 4 x.self c
        match s.dctx? p n with
        | none => s
        | some y =>
          (s.putDctx p n { y with
            late := 0, stepRounds := y.stepRounds + 1, stepCounts := addLists y.stepCounts (c ++ [y.receivedIn k.round, y.late]) }).dctxTryRelease p n

/-- Whether every SENT entry of a bank has RETURNED. -/
def SendBank.allBack (k : SendBank) : Bool := k.asg.all (fun e => !asgSent e.2 || asgReturned e.2)

/-- One returned row placed at its slot (R261). -/
def State.placeReturn (s : State) (p n b : Nat) (m : DispMsg) (bs : List Byte) (i : Nat) : State :=
  match s.dctx? p n with
  | none => s
  | some x =>
    match tget? x.send b with
    | none => s
    | some k =>
      let (token, le, rank, _) := dispMsgHdr bs i
      let t := token - x.tokBase
      match (List.range x.k).find? (fun j => match tget? k.asg (t * x.k + j) with
        | none => false
        | some w => asgSent w && fldN w 0 6 == m.src && fldN w 6 10 == le && fldN w 16 16 == rank) with
      | none => s
      | some j =>
        let w := tgetD k.asg (t * x.k + j) 0
        if asgReturned w then s
        else
          let w := setFld w 39 1 1
          let s := s.putDctx p n { x with send := tput x.send b { k with asg := tput k.asg (t * x.k + j) w, counts := addAt k.counts cReturned 1 } }
          let s := s.dispWrite p (x.retPva + x.slotPlace b t j * x.outBytes) (bytesAt (dispMsgRow bs m i) 0 x.outBytes)
          (s.dispWrite p (x.asgPva + x.slotPlace b t j * 16) (leBytes 16 w)).add F.pDret 1 p

/-- A return message taken (R261). -/
def State.takeReturn (s : State) (p : Nat) (origin : Option (Nat × GnxBuf)) (bs : List Byte) : State :=
  let m := dispMsgOf bs
  let s := s.repost origin
  match s.dctx? p m.n with
  | none => s
  | some x =>
    match x.send.find? (fun e => e.2.round % 2 ^ 32 == m.round && e.2.phase == 1) with
    | none => (s.putDctx p m.n { x with late := x.late + 1 }).inc F.pLateIn 1 p
    | some (b, _) =>
      let s := (List.range m.rows).foldl (fun s i => s.placeReturn p m.n b m bs i) s
      match s.dctx? p m.n with
      | none => s
      | some x => if ((tget? x.send b).map SendBank.allBack).getD false then s.closeReturn p m.n b 4 else s

/-- The rows of a round sent to destination d, in messages (R256); SELF's by the local path. -/
def State.sendRows (s : State) (p n b d : Nat) : State :=
  match s.dctx? p n with
  | none => s
  | some x =>
    match tget? x.send b with
    | none => s
    | some k =>
      let all := sendsTo k.asg d
      let cuts := cutList (rowsPerMsg x.rowBytes) all
      (cuts.zip (List.range cuts.length)).foldl (fun s y =>
        let last := y.2 + 1 == cuts.length
        let hdrs := y.1.map (fun e => dispHdr (x.tokBase + e.1 / x.k) (fldN e.2 6 10) (fldN e.2 16 16) (fldN e.2 32 4))
        let (rows, s) := y.1.foldl (fun (a : List (List Byte) × State) e =>
          let (r, s) := a.2.readPva (a.2.dispEng p) (x.actPva + e.1 / x.k * x.actLd) x.rowBytes
          (a.1 ++ [bytesAt r.bytes 0 x.rowBytes], s)) ([], s)
        let msg := dispMessage x 1 n (k.round % 2 ^ 32) all.length x.rowBytes (s.stepNo p) last hdrs rows
        if d = x.self then s.takeDispatch p none msg
        else match s.chan? p (nthD x.chans d 0) with
          | none => s
          | some (cid, _) => s.sendMsg cid 0 msg.length (some msg) (.engine 0 (16 * p + n))) s

/-- The close of a round's collection (R255, R256): the passes, the assignment table, the sends and ASG_SIG. -/
def State.closeCollection (s : State) (p n b : Nat) : State :=
  match s.dctx? p n with
  | none => s
  | some x =>
    match tget? x.send b with
    | none => s
    | some k =>
      if k.phase != 0 then s
      else
        let (m, s) := s.readPva (s.dispEng p) x.mapPva (4 * x.nExp)
        let a := x.passes m.bytes k.recs
        let bad := (k.recs.filter (fun e => e.2.bad)).length
        let nr := x.nTok - k.recs.length
        let wanted := sumOf (k.recs.map (fun e => if e.2.bad then 0 else e.2.nsel))
        let counts := [k.recs.length, bad, nr, x.oor, x.dup, wanted, a.sent, a.rerouted, a.capacity, a.unmapped, 0, 0, 0]
        let asg := (List.range (x.nTok * x.k)).filterMap (fun i =>
          match tget? a.asg i with
          | some w => some (i, w)
          | none => match tget? k.recs (i / x.k) with
            | none => some (i, asgDrop 3)
            | some r => if r.bad then some (i, asgDrop 0) else none)
        let s := (List.range (x.nTok * x.k)).foldl (fun s i => s.dispWrite p (x.asgPva + (b * x.nTok * x.k + i) * 16) (leBytes 16 (tgetD asg i 0))) s
        let s := (s.add F.pDsent a.sent p).add F.pDdrop (a.capacity + a.unmapped + nr) p
        let s := s.putDctx p n { x with oor := 0, dup := 0, send := tput x.send b { k with phase := 1, sentTick := s.tick, asg := asg, assigned := a.tokens, counts := counts } }
        let s := (List.range x.nDst).foldl (fun s d => s.sendRows p n b d) s
        let s := s.postSig p x.asgSig
        if (asg.all (fun e => !asgSent e.2)) then s.closeReturn p n b 4 else s

/-- The bank of the round that collects, if any. -/
def DispCtx.collecting (x : DispCtx) : Option (Nat × SendBank) := x.send.find? (fun e => e.2.phase == 0)

/-- The hub whose network side takes the records of a core: HD2 those of CD0 to CD3, HD3 those of CD4 to CD7, the dies of its row of the
package (DESIGN CHOICE, notes/assumptions/105.md). -/
def State.tokenHub (s : State) (c : Nat) : Nat := s.dieOf c / 4

/-- Whether a token slot credit is free for a record (R32, R188), and its round open or free to open: until then the first record of
round r + 2 waits for its credit (R263). -/
def State.mayTake (s : State) (r : RouterRec) : Bool :=
  let q := s.queue 6 (s.tokenHub r.core)
  !q.stopped && !s.queueHeld 6 (s.tokenHub r.core) && decide (q.issued < q.granted) &&
    (match s.dctx? r.part r.dctx with
      | none => true
      | some x => r.token < x.tokBase || x.tokBase + x.nTok ≤ r.token || x.collecting.isSome || !thas x.send (x.rounds % 2))

/-- The record of a partition the engine takes next: the earliest of some core that may be taken, each core's in the order formed. -/
def State.nextRouter? (s : State) (p : Nat) : Option RouterRec :=
  s.routers.find? (fun r => r.part == p && (s.routers.find? (fun y => y.core == r.core)) == some r && s.mayTake r)

/-- The credit of a record used and returned (R188, R253). -/
def State.tokenPass (s : State) (c : Nat) : State :=
  let h := s.tokenHub c
  let q := s.queue 6 h
  s.putQueue 6 h { q with issued := q.issued + 1, consumed := q.consumed + 1, granted := q.granted + 1 }

/-- A router record taken by the engine (R252, R253), accepted or refused; either way its token slot credit returns, and an accepted one
counts in ROUTED and in TOKENS (R190). -/
def State.acceptRecord (s : State) (r : RouterRec) : State :=
  let p := r.part
  let taken := { s with routers := s.routers.erase r }.tokenPass r.core
  match s.dctx? p r.dctx with
  | none => ((taken.add F.pDdrop 1 p).dispFault p r.dctx 0 2 r.token [])
  | some x =>
    let round := ((x.collecting).map (fun e => e.2.round)).getD x.rounds
    if r.token < x.tokBase || x.tokBase + x.nTok ≤ r.token then
      (((taken.putDctx p r.dctx { x with oor := x.oor + 1 }).add F.pDdrop 1 p).dispFault p r.dctx round 2 r.token [])
    else
      let t := r.token - x.tokBase
      let put := fun (s : State) (x : DispCtx) (b : Nat) (k : SendBank) =>
        let s := s.putDctx p r.dctx { x with send := tput x.send b { k with recs := tput k.recs t r } }
        let s := (s.add F.pDtok 1 p).add F.pRouted 1 p
        let s := if r.bad then s.add F.pDdrop 1 p else s
        if k.recs.length + 1 = x.nTok then s.closeCollection p r.dctx b else s
      match x.collecting with
      | some (b, k) =>
        if thas k.recs t then (((taken.putDctx p r.dctx { x with dup := x.dup + 1 }).add F.pDdrop 1 p).dispFault p r.dctx round 2 r.token [])
        else put taken x b k
      | none =>
        let b := x.rounds % 2
        put taken { x with rounds := x.rounds + 1 } b ⟨x.rounds, s.tick, [], 0, 0, [], 0, List.replicate 13 0⟩

/-! ## Dispatch grains (R260, R262 to R264) -/

/-- The fields of a dispatch grain descriptor, clamped (Table 7-9, R264). -/
structure DispD where
  op : Nat
  n : Nat
  start : Bool
  final : Bool
  base : Nat
  toks : Nat
  nlast : Nat
  tiles : Nat
  anchor : Int
  auto : Bool
  retry : Nat
  t0 : Nat
  col : Nat
  deriving DecidableEq, Repr

def dispOf (strict : Bool) (d : Nat) : DispD :=
  { op := fldN d 8 4, n := fldN d 12 4, start := bitN d 16, final := bitN d 17, base := fldN d 32 11, toks := clampN (fldN d 43 12) 1 2048,
    nlast := clampN (fldN d 55 7) 1 64, tiles := clampN (fldN d 64 12) 1 2048, anchor := acAnchor (fldN d 80 16),
    auto := acAuto (fldN d 80 16) && bitN d 16 && !strict, retry := acRetry (fldN d 80 16), t0 := fldN d 96 32, col := fldN d 128 32 }

/-- Columns a combine covers. -/
def DispD.cols (x : DispD) : Nat := (x.tiles - 1) * 64 + x.nlast

/-- The closed receive bank a return grain serves, the lowest round first. -/
def DispCtx.toReturn (x : DispCtx) : Option (Nat × RecvBank) :=
  let l := x.recv.filter (fun e => e.2.closed)
  match l with
  | [] => none
  | [a] => some a
  | a :: b :: _ => some (if a.2.round ≤ b.2.round then a else b)

/-- The closed sending bank a combine grain reads, the lowest round first. -/
def DispCtx.toCombine (x : DispCtx) : Option (Nat × SendBank) :=
  let l := x.send.filter (fun e => e.2.phase == 2)
  match l with
  | [] => none
  | [a] => some a
  | a :: b :: _ => some (if a.2.round ≤ b.2.round then a else b)

/-- A dispatch grain at its start: clamps and the checks of Table 7-10; 0 when it may run. -/
def State.dispStart (s : State) (g : GCtx) (d : Nat) : Nat × Bool × State :=
  let (_, c1, s) := s.clampG g 0x0802 (fldN d 43 12) 1 2048
  let (_, c2, s) := s.clampG g 0x0803 (fldN d 64 12) 1 2048
  let (_, c3, s) := s.clampG g 0x0804 (fldN d 55 7) 1 64
  let c4 := acAuto (fldN d 80 16) && (!bitN d 16 || g.strict) && fldN d 8 4 == 1
  let s := if c4 then s.clampGrain g.part g.core g.gid 8 0x08F2 1 0 else s
  let x := dispOf g.strict d
  let code :=
    if fldN d 0 8 != 0x10 || 1 < x.op then 0x81
    else match s.dctx? g.part x.n with
      | none => 0x82
      | some c =>
        if x.op = 0 then (if c.toReturn.isNone then 0x83 else 0)
        else if c.toCombine.isNone then 0x83
        else if 2048 < x.base + x.tiles * x.toks || !s.rowsOk g x.base (x.tiles * x.toks) then 0x84
        else if x.t0 < c.tokBase || c.tokBase + c.nTok < x.t0 + x.toks || c.outBytes * 8 / elemBits c.retFmt < x.col + x.cols then 0x85
        else 0
  let s := if code = 0x84 && !s.rowsOk g x.base (x.tiles * x.toks) then s.tarnEvent g 5 (s.rowAt g x.base) 1 0 else s
  (code, c1 || c2 || c3 || c4, if code = 0 then s else s.dispFault g.part x.n 0 1 code [])

/-- A return grain (R260): it completes, with a fault or without, and the bank is free. -/
def State.dispReturn (s : State) (g : GCtx) (x : DispD) : UnitOut :=
  match s.dctx? g.part x.n with
  | none => ⟨0x82, 0, false, s⟩
  | some c =>
    match c.toReturn with
    | none => ⟨0x83, 0, false, s⟩
    | some (b, r) =>
      let one := fun (a : Nat × State) (src : Nat) =>
        let all := (List.range c.lExp).flatMap (fun le => (List.range (tgetD r.counts (le * c.nDst + src) 0)).map (fun k => (le, k)))
        let cuts := cutList (rowsPerMsg c.outBytes) all
        (cuts.zip (List.range cuts.length)).foldl (fun (a : Nat × State) y =>
          let (rows, code, s) := y.1.foldl (fun (q : List (List Byte) × Nat × State) e =>
            let (o, s) := q.2.2.readPva g.ctx (c.outPva + c.rowPlace b e.1 src e.2 * c.outBytes) c.outBytes
            (q.1 ++ [bytesAt o.bytes 0 c.outBytes], if q.2.1 != 0 then q.2.1 else o.code 0x86 0x87, s)) ([], a.1, a.2)
          if code != 0 then (code, s)
          else
            let hdrs := y.1.map (fun e =>
              let h := tgetD r.hdrs ((e.1 * c.nDst + src) * c.cap + e.2) (0, 0)
              dispHdr h.1 e.1 e.2 h.2)
            let msg := dispMessage c 2 x.n (r.round % 2 ^ 32) all.length c.outBytes (s.stepNo g.part) (y.2 + 1 == cuts.length) hdrs rows
            (0, if src = c.self then s.takeReturn g.part none msg
              else match s.chan? g.part (nthD c.chans src 0) with
                | none => s
                | some (cid, _) => s.sendMsg cid 0 msg.length (some msg) (.engine 0 (16 * g.part + x.n)))) a
      let (code, s) := (List.range c.nDst).foldl one (0, s)
      let s := match s.dctx? g.part x.n with
        | none => s
        | some c => s.putDctx g.part x.n { c with recv := tdel c.recv b }
      ⟨code, 0, false, if code = 0 then s else s.dispFault g.part x.n r.round 1 code []⟩

/-- One token's returned rows entered into its tile rows (R262): each product formed exactly, one addend each. -/
def combineToken (g : GCtx) (x : DispD) (c : DispCtx) (b : Nat) (k : SendBank) (anchorOf : Nat → Int) (i : Nat)
    (a : Nat × Nat × List Nat × State) : Nat × Nat × List Nat × State :=
  let t := x.t0 - c.tokBase + i
  (List.range c.k).foldl (fun (a : Nat × Nat × List Nat × State) j =>
    let w := tgetD k.asg (t * c.k + j) 0
    if a.1 != 0 || !asgReturned w then a
    else
      let size := elemBits c.retFmt / 8
      let (o, s) := a.2.2.2.readPva g.ctx (c.retPva + c.slotPlace b t j * c.outBytes + x.col * size) (x.cols * size)
      if o.fault || o.poison then (o.code 0x86 0x87, a.2.1, a.2.2.1, s)
      else
        let gate := ofF32 (fldN w 64 32)
        (List.range x.tiles).foldl (fun (a : Nat × Nat × List Nat × State) n =>
          let row := s.rowAt g (x.base + n * x.toks + i)
          let (tr, f0) := (a.2.2.2.tarnRow g.core row).toAnchored (anchorOf row)
          let r := (List.range (Nat.min 64 (x.cols - 64 * n))).foldl (fun (y : TarnRow × Nat × Bool) m =>
            let v := mulNum gate (((plainFmt? c.retFmt).map (fun f => decodeF f (leAt o.bytes ((64 * n + m) * size) size))).getD .nan)
            let ad := (slotOf (y.1.slot m)).addend tr.anchor (v.getD .nan)
            (y.1.setSlot m ad.slot.word, flOr (flOr y.2.1 (if v.isNone then flInv else 0)) ad.flags, y.2.2 || ad.hit)) (tr, f0, false)
          (0, flOr a.2.1 r.2.1, if r.2.2 then insertUp a.2.2.1 row else a.2.2.1, a.2.2.2.setRow g.core row { r.1 with part := g.part })) (0, a.2.1, a.2.2.1, s)) a

/-- One run of a combine from state s: code, flags, the rows that showed an infinity, and the state. -/
def State.combineOnce (s : State) (g : GCtx) (x : DispD) (c : DispCtx) (b : Nat) (k : SendBank) (rows : List Nat) (anchorOf : Nat → Int) :
    Nat × Nat × List Nat × State :=
  let s := if x.start then rows.foldl (fun s r => s.setRow g.core r TarnRow.empty) s else s
  let s := rows.foldl (fun s r => s.setRow g.core r { ((s.tarnRow g.core r).toAnchored (anchorOf r)).1 with part := g.part }) s
  iterN x.toks (fun i a => combineToken g x c b k anchorOf i a) (0, 0, [], s)

/-- The rows of a combine that show a condition of R118. -/
def combineHits (g : GCtx) (rows : List Nat) (r : Nat × Nat × List Nat × State) : List Nat :=
  rows.filter (fun row => r.2.2.1.contains row || (r.2.2.2.tarnRow g.core row).slots.any (fun w => (slotOf w).overflowed))

/-- The reruns of a combine with AUTO (R117 to R119). -/
def State.combineRetry (s : State) (g : GCtx) (x : DispD) (c : DispCtx) (b : Nat) (k : SendBank) (rows : List Nat) :
    Nat → Nat → Tab Int → Nat × Nat × List Nat × State
  | n, run, anchors =>
    let r := s.combineOnce g x c b k rows (fun row => tgetD anchors row x.anchor)
    match combineHits g rows r with
    | [] => r
    | row :: more =>
      let a := tgetD anchors row x.anchor
      let bad := row :: more
      match n with
      | 0 => (r.1, r.2.1, r.2.2.1, r.2.2.2.retryEvent g run row a a 1)
      | n + 1 =>
        if bad.any (fun row => 511 < tgetD anchors row x.anchor + 16) then (r.1, r.2.1, r.2.2.1, r.2.2.2.retryEvent g run row a a 1)
        else if r.1 != 0 then r
        else (((r.2.2.2.keepTarn g.core s).retryEvent g (run + 1) row a (a + 16) 0).inc F.pRetryCnt 1 g.part).combineRetry g x c b k rows n (run + 1)
          (bad.foldl (fun t row => tput t row (tgetD t row x.anchor + 16)) anchors)

/-- A combine grain (R262, R263). -/
def State.dispCombine (s : State) (g : GCtx) (x : DispD) : UnitOut :=
  match s.dctx? g.part x.n with
  | none => ⟨0x82, 0, false, s⟩
  | some c =>
    match c.toCombine with
    | none => ⟨0x83, 0, false, s⟩
    | some (b, k) =>
      let rows := (List.range (x.tiles * x.toks)).map (fun i => s.rowAt g (x.base + i))
      let s := if x.start then s.restartRows g 5 rows else s
      let r := if x.auto then s.combineRetry g x c b k rows x.retry 0 [] else s.combineOnce g x c b k rows (fun _ => x.anchor)
      let s := if r.1 = 0 then r.2.2.2
        else rows.foldl (fun s row => s.setRow g.core row { (s.tarnRow g.core row).markNan false x.anchor with part := g.part }) r.2.2.2
      let s := s.closeRows g rows
      let s := match s.dctx? g.part x.n with
        | none => s
        | some c => if x.final then s.putDctx g.part x.n { c with send := tdel c.send b } else s
      ⟨r.1, r.2.1, false, if r.1 = 0 then s else s.dispFault g.part x.n k.round 1 r.1 []⟩

/-- A dispatch grain run to its end. -/
def State.dispRun (s : State) (g : GCtx) (d : Nat) : UnitOut :=
  let x := dispOf g.strict d
  if x.op = 0 then s.dispReturn g x else s.dispCombine g x

/-! ## Resets (R9, R266) -/

/-- The records of a partition that wait for the engine as a warm reset takes them (R9): each token is dropped, by its round's close, which
finds it not routed, or, where no open round asks for it, on its own, with the event of a record refused. -/
def State.routersLost (s : State) (p : Nat) : State :=
  let s := (s.routers.filter (fun r => r.part == p)).foldl (fun s r =>
    match (s.dctx? p r.dctx).bind (fun x => x.collecting.map (fun b => (x, b.2))) with
    | some (x, k) =>
      if x.tokBase ≤ r.token && r.token < x.tokBase + x.nTok && !thas k.recs (r.token - x.tokBase) then s
      else (s.add F.pDdrop 1 p).dispFault p r.dctx k.round 2 r.token []
    | none => (s.add F.pDdrop 1 p).dispFault p r.dctx (((s.dctx? p r.dctx).map (fun x => x.rounds)).getD 0) 2 r.token []) s
  { s with routers := s.routers.filter (fun r => r.part != p) }

/-- A warm or block reset closes the open rounds of a context (R266, R626): what is not returned is lost in transit. -/
def State.dispLost (s : State) (p n : Nat) : State :=
  match s.dctx? p n with
  | none => s
  | some x =>
    let s := x.send.foldl (fun s e => if e.2.phase = 0 then (s.closeCollection p n e.1) else s) s
    let s := iterN 2 (fun b s => s.closeReturn p n b 5) s
    iterN 2 (fun b s => s.closeRecv p n b) s

/-! ## Commands -/

/-- Descriptor 0x17 (R250, R251). -/
def State.runDctxRegister (r : DRef) (d : Desc) (s : State) : State :=
  let p := r.part
  let n := d.fld 0 4
  let (b, s) := s.descRead p (d.at 24 64) 256
  match b with
  | none => s.noop r
  | some bs =>
    let img := leNat bs
    let x0 : DispCtx := ⟨img, [], 0, [], [], 0, [], [], 0, 0, 0, [], [], 0, [], none⟩
    let (ct, s) := if x0.inRange n then s.descRead p x0.chanPva (8 * x0.nDst) else (none, s)
    match ct with
    | none => s.nullDesc r dispNull n
    | some cb =>
      let chans := (List.range x0.nDst).map (fun i => leAt cb (8 * i) 8 % 2 ^ 32)
      let x := { x0 with chans := chans }
      let open' := (List.range x.nDst).all (fun i => i == x.self || (match s.chan? p (nthD chans i 0) with
        | some (_, c) => c.state == 2
        | none => false))
      if thas (s.part p).dctx n || !x.areas.all (fun a => a.2 = 0 || s.rwArea p a.1 a.2) || !areasApart x.areas || !open' ||
          s.rd F.pCtxMax p ≤ (s.part p).dctx.length then s.nullDesc r dispNull n
      else
        let s := s.putDctx p n x
        let s := (List.range x.nDst).foldl (fun s i =>
          if i = x.self then s
          else match s.chan? p (nthD chans i 0) with
            | none => s
            | some (cid, _) => (List.range x.rxbCount).foldl (fun s j =>
              s.postBuf cid j (x.rxbPva + (i * x.rxbCount + j) * mib16) mib16 (.engine 0 (16 * p + n))) s) s
        s.done r

/-- Descriptor 0x18 (R251, R662). -/
def State.runDctxRelease (r : DRef) (d : Desc) (s : State) : State :=
  let p := r.part
  let n := d.fld 0 4
  match s.dctx? p n with
  | none => s.nullDesc r dispNull n
  | some x =>
    if x.releasing.isSome then s.nullDesc r dispNull n
    else (s.putDctx p n { x with releasing := some r }).dctxTryRelease p n

/-- ROUTER_RECORD_ACCEPT (R188, R252, R253): the record of the partition the engine takes next, if it may take one now. -/
def execRouterRecordAccept (p : PartId) (s : State) : Host.Outcome State Fault Refusal :=
  match s.nextRouter? p.val with
  | none => finish s
  | some r => finish (s.acceptRecord r)

/-- ROUND_COLLECTION_DEADLINE (R252). -/
def execRoundCollectionDeadline (p : PartId) (n : Fin 16) (s : State) : Host.Outcome State Fault Refusal :=
  match s.dctx? p.val n.val with
  | none => finish s
  | some x =>
    match x.collecting with
    | none => finish s
    | some (b, k) => finish (if k.opened + x.deadline ≤ s.tick then s.closeCollection p.val n.val b else s)

/-- A received message taken from its channel's buffer when it is of the kind asked. -/
def State.engMessage (s : State) (cid : Nat) (kind : Nat) (run : Nat → Option (Nat × GnxBuf) → List Byte → State → State) : State :=
  match tget? s.net.chans cid with
  | none => s
  | some c =>
    match c.taken with
    | [] => s
    | b :: _ =>
      match b.owner with
      | .engine 0 _ =>
        match s.takeMsg cid with
        | (some (b, bs), s') => if leAt bs 1 1 = kind then run c.part (some (cid, b)) bs s' else s
        | _ => s
      | _ => s

/-- DISPATCH_MESSAGE_RX (R257). -/
def execDispatchMessageRx (cid : Fin 16384) (s : State) : Host.Outcome State Fault Refusal :=
  finish (s.engMessage cid.val 1 (fun p o bs s => s.takeDispatch p o bs))

/-- HELD_DISPATCH_PLACE (R254). -/
def execHeldDispatchPlace (p : PartId) (n : Fin 16) (s : State) : Host.Outcome State Fault Refusal :=
  finish (s.placeHeld p.val n.val)

/-- RECEIVE_ROUND_DEADLINE (R258). -/
def execReceiveRoundDeadline (p : PartId) (n : Fin 16) (b : Fin 2) (s : State) : Host.Outcome State Fault Refusal :=
  match s.dctx? p.val n.val with
  | none => finish s
  | some x =>
    match tget? x.recv b.val with
    | none => finish s
    | some r => finish (if !r.closed && r.first + x.deadline ≤ s.tick then s.closeRecv p.val n.val b.val else s)

/-- RETURN_MESSAGE_RX (R261). -/
def execReturnMessageRx (cid : Fin 16384) (s : State) : Host.Outcome State Fault Refusal :=
  finish (s.engMessage cid.val 2 (fun p o bs s => s.takeReturn p o bs))

/-- RETURN_ROUND_DEADLINE (R261). -/
def execReturnRoundDeadline (p : PartId) (n : Fin 16) (b : Fin 2) (s : State) : Host.Outcome State Fault Refusal :=
  match s.dctx? p.val n.val with
  | none => finish s
  | some x =>
    match tget? x.send b.val with
    | none => finish s
    | some k => finish (if k.phase = 1 && k.sentTick + x.deadline ≤ s.tick then s.closeReturn p.val n.val b.val 4 else s)

end Sys2Proof.Machine
end

