-- ==== Sys2Proof/Machine/StepEnd.lean ====
section
/-! DEFINITION. How a step ends (R31, R72, R219, R458 to R466, R492): readiness and digest commit, ends without commit, hold,
rollback, and what a new epoch does. -/
namespace Sys2Proof.Machine

/-- The arithmetic flags event (R125, Table 3-17), trigger 1 step end or 2 a flag, which clears what it reports. -/
def State.flagsEvent (s : State) (p stepNo trigger core gid : Nat) : State :=
  let w := [s.rd F.pFlMtx p, s.rd F.pFlVec p, s.rd F.pFlIntk p, s.rd F.pFlCru p]
  let s := s.event 0x08 p ([p, stepNo, trigger] ++ w ++ [core, gid])
  (((s.wr F.pFlMtx 0 p).wr F.pFlVec 0 p).wr F.pFlIntk 0 p).wr F.pFlCru 0 p

/-- STEP_LO and STEPQ as the steps stand (Table 2-7). -/
def State.countSteps (s : State) (p : Nat) : State :=
  (s.wr F.pStepLo (s.stepNo p % 2 ^ 32) p).wr F.pStepq ((s.part p).cad.steps.filter (fun r => r.phase == .queued)).length p

/-- The completion record of a kick or a replay, with what accompanies it: the flags event and the dispatch reports (R125,
R267). -/
def State.completeStep (s : State) (p : Nat) (r : StepRun) (status result : Nat) : State :=
  let any := s.rd F.pFlMtx p + s.rd F.pFlVec p + s.rd F.pFlIntk p + s.rd F.pFlCru p != 0
  let s := if any then s.flagsEvent p r.stepNo 1 0 0 else s
  let s := s.dispReports p r.stepNo
  match r.desc with
  | none => s
  | some d => s.complete d status false result

/-- A plan's release once no step uses it (R662). -/
def State.planTryRelease (s : State) (p n : Nat) : State :=
  match tget? (s.part p).cad.plans n with
  | none => s
  | some x => match x.releasing with
    | none => s
    | some d => if s.planInUse p n then s else (s.modCad p (fun c => { c with plans := tdel c.plans n })).done d

/-! ## What a step's plan names (R66, R216) -/

/-- The checks of R66 on the bytes of tick plan k, its ranges aside. -/
def tickPlanOk (b : List Byte) (k : Nat) : Bool :=
  let n := leAt b 4 2
  leAt b 0 4 == crc32c (List.replicate 4 0 ++ b.drop 4) && leAt b 12 2 == k && decide (8 ≤ n) && decide (n ≤ 288) && n % 8 == 0 &&
    decide (32 + 8 * n ≤ b.length) && (List.range n).all (fun i =>
      let g := leAt b (32 + 8 * i + 2) 2
      decide (g ≤ 1024) && (g == 0 || decide (leAt b (32 + 8 * i + 4) 4 + 32 * g ≤ b.length)))

/-- The grains of a checked tick plan, in the order of its core table. -/
def planGrains (r : StepRun) (b : List Byte) (k : Nat) : List Grain :=
  (List.range (leAt b 4 2)).flatMap (fun i =>
    let e := 32 + 8 * i
    (List.range (leAt b (e + 2) 2)).map (fun j =>
      let ofs := leAt b (e + 4) 4 + 32 * j
      ⟨r.id, r.stepNo, r.first + k, k, leAt b e 2 % 512, ofs, leAt b ofs 32, r.statPva + k * r.statStride + ofs / 2, false, false, false, false⟩))

/-- The bytes of a tick plan: none when unreadable, an empty list when its length or its ranges fail R66. -/
def State.readPlan (s : State) (p : Nat) (r : StepRun) (k : Nat) : Option (List Byte) × State :=
  let c := s.engCtx p engPlan
  let (e, s) := s.readPva c (r.tptPva + 8 * k) 8
  if e.fault || e.poison then (none, s)
  else
    let pva := leNat e.bytes
    let (h, s) := s.readPva c pva 32
    if h.fault || h.poison then (none, s)
    else
      let len := leAt h.bytes 8 4
      if len < 32 || 2 ^ 20 < len || !s.mapped p (s.part p).rt pva len false then (some [], s)
      else
        let (b, s) := s.readPva c pva len
        if b.fault || b.poison then (none, s) else (some b.bytes, s)

/-- The shard an update grain's descriptor names, as memory holds it. -/
def State.grainShard? (s : State) (p w : Nat) : Option Nat :=
  if gUnit w != 2 then none
  else
    let o := (s.readPva (s.engCtx p engPlan) (gDesc w) 8).1
    if o.fault || o.poison then none else some (fldN (leNat o.bytes) 24 12)

/-- Whether a queued or running step names a shard (R216): an update grain of one of its tick plans does, as the plan stands in memory, or
an entry of its plan's promotion list, or the update grain a core runs. -/
def State.stepNames (s : State) (p i : Nat) (r : StepRun) : Bool :=
  ((tget? (s.part p).tier.promos r.plan).map (fun l => l.entries.any (fun e => e.shard == i))).getD false ||
    s.cores.any (fun c => match c.2.run with
      | some x => x.part == p && x.grain.run == r.id && gUnit x.grain.word == 2 && fldN x.desc 24 12 == i
      | none => false) ||
    (List.range r.nticks).any (fun k => match (s.readPlan p r k).1 with
      | some b => tickPlanOk b k && (planGrains r b k).any (fun g => s.grainShard? p g.word == some i)
      | none => false)

/-- A shard's release once PEND is clear and no queued or running step names it (R216, R662). -/
def State.shardTryRelease (s : State) (p i : Nat) : State :=
  match s.shard? p i with
  | none => s
  | some x => match x.releasing with
    | none => s
    | some d =>
      if x.pend || (s.part p).cad.steps.any (s.stepNames p i) then s
      else ((s.modPart p (fun q => { q with shards := tdel q.shards i })).countShards p).done d

/-- The releases of a partition that wait for steps, looked at again. -/
def State.releaseLook (s : State) (p : Nat) : State :=
  let q := s.part p
  let s := q.cad.plans.foldl (fun s e => s.planTryRelease p e.1) s
  let s := q.shards.foldl (fun s e => s.shardTryRelease p e.1) s
  let s := q.coll.lists.foldl (fun s e => s.listTryRelease p e.1) s
  let s := q.coll.ledgers.foldl (fun s e => s.ledgerTryRelease p e.1) s
  let s := q.coll.sheaves.foldl (fun s e => s.sheafTryRelease p e.1) s
  q.coll.groups.foldl (fun s e => s.groupTryRelease p e.1) s

/-- A step's ticks are over: its activation ledger ends (R444), and the next step may be the running one. -/
def State.ticksOver (s : State) (p : Nat) (r : StepRun) : State :=
  if r.phase != .running then s
  else (s.ledgerEnd p r.plan r.stepNo).modStep p r.id (fun r => { r with phase := .ending })

/-- A step taken out of the partition, the tick its last one ends at kept (R74): its released grains that have not started are skipped,
with their status (R71, notes/assumptions/61.md); its entries and the evidence of its lines and cores go with it; a
step hold completes with the running step (R72). -/
def State.leaveStep (s : State) (p : Nat) (r : StepRun) : State :=
  let s := ((s.part p).cad.work.filter (fun g => g.run == r.id)).foldl (fun s g => s.skipStatus p g.statPva (gId g.word)) s
  let s := s.modColl p (fun c => { c with runs := c.runs.filter (fun x => x.run != r.id), decided := tdel c.decided r.stepNo })
  let s := s.modCad p (fun c => { c with
    steps := c.steps.filter (fun x => x.id != r.id), work := c.work.filter (fun g => g.run != r.id),
    lastTick := if r.phase == .queued then c.lastTick else some (Nat.min (r.first + (if r.stopped then r.checked else r.nticks)) (s.tick + 1)) })
  let s := s.modCont p (fun c => { c with evidence := [], compares := [], rounds := [] })
  let s := { s with mem := { s.mem with evid := s.mem.evid.filter (fun l => s.extentOwner (s.dpaOf (l * 128)) != p) } }
  let s := s.modJob p (fun j => { j with
    readies := j.readies.filter (fun e => e.2.1 != r.stepNo), roots := j.roots.filter (fun e => e.1 != r.stepNo) })
  let s := if s.actives p = [] then
      let ds := (s.part p).cad.holds
      ds.foldl (fun s d => s.done d) (s.modCad p (fun c => { c with holds := [] }))
    else s
  (s.countSteps p).releaseLook p

/-- The commit event (Table 13-7): cause is the reason of Table 14-9, or 0x10 for a replay. -/
def State.commitEvent (s : State) (p stepNo cause rank : Nat) : State := s.event 0x21 p [p, stepNo, cause, rank]

/-- A step ends without digest commit (R31, R219): its pending versions are discarded, its banks stand for a replay unless the
step is abandoned, and its completion record carries the reason. -/
def State.endStep (s : State) (p : Nat) (r : StepRun) (reason : Nat) (abandoned : Bool) : State :=
  let begun := r.phase != .queued
  let s := s.ticksOver p r
  let s := s.discardShards p r.id
  let s := if abandoned then s.sheafStepOver p r.stepNo else s
  let s := if begun && !abandoned then
      s.modCont p (fun c => { c with failed := some ⟨r.stepNo, r.plan, r.updates⟩ })
    else if begun then s.modCont p (fun c => { c with failed := none }) else s
  let s := if begun then s.commitEvent p r.stepNo reason (r.failFrom.getD (s.rd F.pRank p)) else s
  (s.completeStep p r 2 reason).leaveStep p r

/-- Digest commit of a step (R219, R332, R434, R464, R486): versions flip, COMMIT rises, banks are free, the completion record
is written, demotions and a due checkpoint begin. -/
def State.commitStep (s : State) (p : Nat) (r : StepRun) : State :=
  let s := s.ticksOver p r
  let s := s.commitShards p r.id
  let s := (s.wr F.pCommit r.stepNo p).sheafStepOver p r.stepNo
  let s := s.modCont p (fun c => { c with failed := none })
  let s := s.demoteAll p r.plan r.id
  let s := (s.completeStep p r 0 0).leaveStep p r
  s.ckptBegin p r.stepNo

/-! ## Hold, abandonment and rollback (R458, R460, R465, R492) -/

/-- Every step of a partition abandoned, the queued ones too. -/
def State.abandonAll (s : State) (p reason : Nat) : State :=
  (s.part p).cad.steps.foldl (fun s r => s.endStep p r reason true) s

/-- The contributions decided by the closes of steps in progress. -/
def State.decidedNow (s : State) (p : Nat) : Nat := sumOf ((s.actives p).map (fun r => tgetD (s.part p).coll.decided r.stepNo 0))

/-- A partition enters hold (R458): its running grains finish, nothing more starts, pending versions are discarded. -/
def State.enterHold (s : State) (p cause : Nat) : State :=
  match s.job? p with
  | none => s
  | some j =>
    let n := s.decidedNow p
    let s := (s.abandonAll p 8).wr F.pJstate jsHold p
    s.memberEvent p j.jobId (s.rd F.pEpoch p) (s.rd F.pEpoch p) (maskOf j.active) cause n

/-- A shard turned back to the version its other set holds. -/
def State.flipBack (s : State) (p i : Nat) (x : Shard) : State :=
  let y := { x with cur := 1 - x.cur, commits := x.commits - 1, stepCur := x.stepOther.getD 0, stepOther := none }
  let (out, s) := s.readPva (s.engCtx p engCkpt) y.curSet y.imgLen
  s.putShard p i { y with root := y.versionRoot out.bytes }

/-- The partition rolled back to step c (R492). -/
def State.rollback (s : State) (p c : Nat) (d : Option DRef) : State :=
  let s := s.abandonAll p 7
  let kept := fun (x : Shard) => s.flag F.pRetain p && decide (c < x.stepCur) && (match x.stepOther with
    | some o => decide (o ≤ c)
    | none => false)
  let shards := (s.part p).shards
  let need := shards.filter (fun e => decide (c < e.2.stepCur) && !kept e.2)
  let flips := shards.filter (fun e => decide (c < e.2.stepCur) && kept e.2)
  let s := flips.foldl (fun s e => s.flipBack p e.1 e.2) s
  let x : Restore := ⟨d, true, s.rd F.pRank p, c, need.map (fun e => (e.1, e.2.image)), 0, [], 0, 0, 0, false, [], [], [], []⟩
  match need, (s.part p).cont.mans.find? (fun e => e.1 == c) with
  | [], some m => s.restoreDone p x m.2 []
  | _, _ => s.restoreStart p x

/-- Descriptor 0x56 (R492): STEP_NO 0 names the latest job-complete checkpoint. -/
def State.runRollback (r : DRef) (d : Desc) (s : State) : State :=
  let p := r.part
  let v := d.at 16 64
  let c := if v = 0 then s.rd F.pCkjob p else v
  if c = 0 || s.rd F.pCommit p < c then s.nullDesc r contNull v
  else s.rollback p c (some r)

/-! ## Readiness (R463, R464, R466) -/

/-- Whether a grain of a step has yet to complete. -/
def State.grainsLeft (s : State) (p : Nat) (r : StepRun) : Bool :=
  (!r.stopped && decide (r.checked < r.nticks)) || (s.part p).cad.work.any (fun g => g.run == r.id) ||
    s.cores.any (fun c => match c.2.run with
      | some x => x.part == p && x.grain.run == r.id && !x.grain.filler
      | none => false)

/-- Whether every sheaf record of a step is final, and every other entry of its list complete. -/
def State.entriesDone (s : State) (p : Nat) (r : StepRun) : Bool :=
  r.replay ||
  (List.range (s.runList p r).length).all (fun i =>
    let e := nthD (s.runList p r) i 0
    if eOp e != 0 then (s.entryRun p r.id i).complete
    else match s.sheaf? p (eSheaf e) with
      | none => true
      | some h => (match h.closed with | some k => decide (r.stepNo ≤ k) | none => false) && (match h.close with
        | some c => c.step != r.stepNo || c.final.isSome
        | none => true))

/-- Whether a step is ready (R463): no grain left, records final, and every updated shard's root formed and matched, none
BROKEN and none being read by a demotion (R333). -/
def State.stepReady (s : State) (p : Nat) (r : StepRun) : Bool :=
  !s.grainsLeft p r && r.fail.isNone && s.entriesDone p r &&
    (s.part p).shards.all (fun e => !(e.2.pend && e.2.run == r.id) ||
      (e.2.rootNew.isSome && !e.2.broken && s.rootMatched p e.1 e.2 && !s.demoReading p e.1))

/-- One look at the oldest step in progress: it ends without commit (after an unresolved mismatch the partition rolls back,
R470), sends READY, or commits. -/
def State.stepLookOne (s : State) (p : Nat) : State :=
  match (s.actives p).head? with
  | none => s
  | some r =>
    let broken := (s.part p).shards.any (fun e => e.2.pend && e.2.run == r.id && e.2.broken)
    let s := if broken then s.failRun p r.id 2 else s
    let r := (s.stepRun? p r.id).getD r
    match r.fail with
    | some k =>
      if s.grainsLeft p r then s
      else
        let s := match s.job? p with
          | none => s
          | some j => if r.failFrom.isSome || s.rd F.pJstate p != jsActive then s else s.clusterAll p j.others ccNotReady r.stepNo [k]
        let s := s.endStep p r k false
        if k = 3 && s.rd F.pCkjob p != 0 && (s.part p).cont.restore.isNone then s.rollback p (s.rd F.pCkjob p) none else s
    | none =>
      if !s.stepReady p r then s
      else match s.job? p with
        | none => s.commitStep p r
        | some j =>
          if s.rd F.pJstate p != jsActive then s
          else
            let s := if r.ready then s
              else ((s.modStep p r.id (fun r => { r with ready := true })).modJob p (fun j => { j with readies := j.readies ++ [(j.self, r.stepNo, s.rd F.pEpoch p)] })).clusterAll
                p j.others ccReady r.stepNo []
            match s.job? p with
            | none => s
            | some j => if j.active.all (fun k => j.readies.contains (k, r.stepNo, s.rd F.pEpoch p)) then s.commitStep p r else s

/-- The steps in progress looked at, the oldest first. -/
def State.stepLook (s : State) (p : Nat) : State := iterN 5 (fun _ s => s.stepLookOne p) s

/-! ## Epochs (R435, R459 to R462, R465) -/

/-- Whether every shard of a missing member has a replica among the remaining ones (R460): each group it belongs to holds
another owner of its shard in the new epoch, and it belongs to one. -/
def State.covered (s : State) (p : Nat) (j : Job) (new : List Nat) (m : Nat) : Bool :=
  let gs := (s.part p).coll.groups.filterMap (fun g =>
    ((List.range g.2.n).find? (fun r => r != g.2.self && ((g.2.members[r]?).bind (s.jobRank p j)) == some m)).map (fun r => (g.2, r)))
  gs != [] && gs.all (fun g =>
    (g.1.owners (g.2 % Nat.max 1 g.1.shards)).any (fun r => r != g.2 && (r == g.1.self || (match (g.1.members[r]?).bind (s.jobRank p j) with
      | some k => new.contains k
      | none => false))))

/-- Whether a missing member has a copy of the last job-complete checkpoint at a remaining buddy (R460). -/
def Job.buddyLeft (j : Job) (new : List Nat) (m : Nat) : Bool :=
  match j.members[m]? with
  | none => false
  | some y => (y.buddy0.toList ++ y.buddy1.toList).any (fun b => new.contains b)

/-- The cluster-control version of an epoch (R45): the lowest of its members' highest versions, by the ranges they stated. -/
def State.clusterVersion (s : State) (j : Job) (new : List Nat) : Nat :=
  new.foldl (fun v r => match tget? j.stated r with
    | some (_, hi) => Nat.min v hi
    | none => v) (s.rd F.idCifMax)

/-- The version event of a member's stated range (R46, Table 1-12): 0 when it is refused. -/
def State.versionEvent (s : State) (p rank lo hi agreed : Nat) : State :=
  s.event 0x03 p [3, rank, s.rd F.idCifMin + 256 * s.rd F.idCifMax, lo + 256 * hi, agreed]

/-- What a member has said of its steps under the old epoch is said again under the new one: ROOTS, and READY (R463, R467). -/
def State.sayAgain (s : State) (p : Nat) : State :=
  let s := s.modCad p (fun c => { c with steps := c.steps.map (fun r => { r with ready := false }) })
  let s := (s.part p).shards.foldl (fun s e => if e.2.pend && e.2.rootNew.isSome then s.sendRoots p e.1 else s) s
  s.stepLook p

/-- An epoch forms (R45, R460, R465). -/
def State.epochForms (s : State) (p e mask : Nat) : State :=
  match s.job? p with
  | none => s
  | some j =>
    let new := bitsOf j.n mask
    let old := s.rd F.pEpoch p
    let missing := j.active.filter (fun r => !new.contains r)
    let self := new.contains j.self
    let high := maxOf (s.rd F.pCommit p :: new.filterMap (fun r => (tget? j.reports r).map (fun x => x.1)))
    let s := if missing = [] then s
      else match (s.actives p).head? with
        | some r => if r.ready && decide (r.stepNo ≤ high) && decide (s.rd F.pCommit p < high) then s.commitStep p r else s
        | none => s
    let n := s.decidedNow p
    let s := if missing = [] then s else s.abandonAll p 7
    let v := s.clusterVersion j new
    let s := (j.stated.filter (fun e => new.contains e.1)).foldl (fun s e => s.versionEvent p e.1 e.2.1 e.2.2 v) s
    let s := s.modJob p (fun j => { j with
      active := new, version := v, accepted := none, accepts := [], joined := [], excused := [], pauseAt := none, pauseAcks := [], restarting := false, joinOwed := false, readies := j.readies.filter (fun x => e ≤ x.2.2),
      ckdone := j.ckdone.filter (fun x => new.contains x.1) })
    let s := ((s.wr F.pEpoch e p).wr F.pNAct new.length p).wr F.pJstate (if self then jsActive else jsSpare) p
    let s := s.memberEvent p j.jobId old e mask 1 n
    let s := if self then s.sheafEpoch p else s
    if missing = [] || !self then s.sayAgain p
    else if missing.all (fun m => s.covered p j new m) then s
    else if s.rd F.pCkjob p != 0 && missing.all (fun m => j.buddyLeft new m) then s.rollback p (s.rd F.pCkjob p) none
    else s.enterHold p 5

/-- The epoch a member has accepted forms once every named member has accepted it and they are a quorum of the old one
(R459), and the lowest of their highest versions is not below any one's lowest (R45, R46). -/
def State.epochLook (s : State) (p : Nat) : State :=
  match s.job? p with
  | none => s
  | some j => match j.accepted with
    | none => s
    | some (e, _, mask) =>
      let new := bitsOf j.n mask
      if !(new.all (fun r => j.accepts.contains r) && (j.quorum new || s.rd F.pJstate p == jsHold)) then s
      else
        let v := s.clusterVersion j new
        let short := j.stated.filter (fun x => new.contains x.1 && v < x.2.1)
        if short = [] && s.rd F.idCifMin ≤ v then s.epochForms p e mask
        else (short.foldl (fun s x => s.versionEvent p x.1 x.2.1 x.2.2 0) s).modJob p (fun j => { j with accepted := none, accepts := [] })

/-- The partition leaves its job: the others have formed an epoch without it (0x51). -/
def State.leftJob (s : State) (p e : Nat) : State :=
  match s.job? p with
  | none => s
  | some j => match j.leaving with
    | none => s
    | some d =>
      let s := s.memberEvent p j.jobId (s.rd F.pEpoch p) e 0 4 0
      let s := s.modCont p (fun c => { c with job := none })
      (((s.wr F.pJstate jsNone p).wr F.pNAct 0 p).wr F.pRank 0 p).done d

/-- Descriptor 0x51: the member holds, and falls silent until the others have formed an epoch without it. -/
def State.runJobLeave (r : DRef) (_d : Desc) (s : State) : State :=
  let p := r.part
  match s.job? p with
  | none => s.nullDesc r contNull 0
  | some j =>
    if j.leaving.isSome then s.nullDesc r contNull 0
    else
      let s := s.modJob p (fun j => { j with leaving := some r })
      if j.others = [] then (s.abandonAll p 7).leftJob p (s.rd F.pEpoch p)
      else (s.abandonAll p 8).wr F.pJstate jsHold p

end Sys2Proof.Machine
end

