-- ==== Sys2Proof/Machine/Ranges.lean ====
section
/-! DEFINITION. Edits of a partition's range table (01_organization.md, R38 to R40), which take effect at the next tick
boundary. -/
namespace Sys2Proof.Machine

/-- The field code of a translation field set to the null resource (R523). -/
def partNull : Nat := freeCode 16 0

/-- VALID of an entry image, and the entry it holds (Table 1-8). -/
def rtValid (w : Nat) : Bool := bitN w 0
def rtEntryOf (w : Nat) : RtEntry := ⟨fldN w 1 3, fldN w 4 2, fldN w 6 2, fldN w 21 27, fldN w 64 32, fldN w 96 32⟩

/-- The partition's allotment in bytes, the sum of its extents. -/
def State.allotment (s : State) (p : Nat) : Nat := sumOf ((List.range 16).map (fun i => s.rd F.pExtLen p i)) * gib

/-- Whether an edit of entry i to e passes R40, beside the entries other edits leave. -/
def State.rtEditOk (s : State) (p i : Nat) (e : RtEntry) : Bool :=
  let others := (s.part p).rtNext.filter (fun x => x.1 != i)
  decide (i < s.rd F.pRtSize p) && !(s.part p).tier.swaps.any (fun w => w.2.index == i) &&
    decide (1 ≤ e.len) && decide (e.len ≤ 2 ^ 27) && decide ((e.vbase + e.len) * mib2 ≤ 2 ^ 48) &&
    others.all (fun x => !spansMeet x.2.vbase x.2.len e.vbase e.len) &&
    (match e.target with
     | 0 => decide ((e.tref + e.len) * mib2 ≤ s.allotment p)
     | 1 | 2 => (match s.obj? p e.tref with
       | some o => o.state == 2 && o.tier == e.target
       | none => false)
     | _ => false)

/-- Entry i of the table in the making set or removed. -/
def State.rtSet (s : State) (p i : Nat) (e : Option RtEntry) : State :=
  s.modPart p (fun x => { x with rtNext := match e with
    | some e => tput x.rtNext i e
    | none => tdel x.rtNext i })

/-- At a boundary the table in the making comes into force, and what waited for it completes (R38). -/
def State.rtBoundary (s : State) (p : Nat) : State :=
  let w := (s.part p).rtWait
  let s := s.modPart p (fun x => { x with rt := x.rtNext, rtWait := [] })
  w.foldl (fun s d => s.done d) s

/-- A range-table edit by a descriptor (R39, R40): the image of the entry and its index. An entry of a lower tier is read-only whatever
its PERM. An index at or above RT_SIZE, or of an entry a swap set holds, is no case of R40: with VALID 1 the edit ends as a reported
no-op like the others, with VALID 0 the index becomes the null resource with its clamp record (DESIGN CHOICE,
notes/assumptions/47.md). -/
def State.rtEdit (s : State) (r : DRef) (i w : Nat) : State :=
  let p := r.part
  let e := rtEntryOf w
  if !rtValid w then
    if i < s.rd F.pRtSize p && !(s.part p).tier.swaps.any (fun x => x.2.index == i) then (s.rtSet p i none).done r
    else s.nullDesc r partNull i
  else if !s.rtEditOk p i e then s.noop r
  else
    let cl := (e.target == 1 || e.target == 2) && e.perm == 3
    let s := if cl then s.clampDesc r 9 0x1004 3 1 else s
    (s.rtSet p i (some (if e.target = 0 then e else { e with perm := 1 }))).done
      { r with clamped := r.clamped || cl }

end Sys2Proof.Machine
end

