-- ==== Sys2Proof/Machine/Swaps.lean ====
section
/-! DEFINITION. Weight swap (09_tiers_and_weights.md, R342 to R345): a range with two sides, turned over at a tick named in
advance. -/
namespace Sys2Proof.Machine

def State.swap? (s : State) (p n : Nat) : Option SwapSet := tget? (s.part p).tier.swaps n

def State.putSwap (s : State) (p n : Nat) (w : SwapSet) : State := s.modTier p (fun t => { t with swaps := tput t.swaps n w })

/-- TARGET and TGT_REF of a side. -/
def SwapSet.side (w : SwapSet) (i : Nat) : Nat × Nat := if i = 0 then (w.tgt0, w.ref0) else (w.tgt1, w.ref1)

/-- The read-only range-table entry of a set with side i active (R342). -/
def SwapSet.entry (w : SwapSet) (i : Nat) : RtEntry := ⟨(w.side i).1, 1, w.hint, w.vbase, w.len, (w.side i).2⟩

/-- The weight swap event (Table 9-13): causes 1 switched, 2 deferred, 3 refused. -/
def State.swapEvent (s : State) (p n stepNo tidx tick side cause : Nat) : State :=
  s.event 0x17 p [p, n, stepNo, tidx, tick, side, cause]

/-- Whether a swap names a step (R344). -/
def SwapOp.names (o : SwapOp) (r : StepRun) : Bool :=
  match o.stepNo with
  | some n => r.stepNo == n
  | none => r.id == o.run

/-- Boundary B of a swap (R344), once the step it names has been kicked. -/
def State.swapTick? (s : State) (p : Nat) (o : SwapOp) : Option Nat :=
  match o.tick with
  | some b => some b
  | none => ((s.part p).cad.steps.find? o.names).map (fun r => r.first + o.tidx)

/-- The boundaries of the swaps that name a step, fixed as it begins (R344). -/
def State.swapsBegin (s : State) (p : Nat) (r : StepRun) : State :=
  s.modTier p (fun t => { t with swaps := tmap t.swaps (fun _ w => { w with op := w.op.map (fun o =>
    if o.tick.isNone && o.names r then { o with tick := some (r.first + o.tidx) } else o) }) })

/-- Whether a pending swap keeps grains of tick k from starting (R345). -/
def State.swapHolds (s : State) (p k : Nat) : Bool :=
  (s.part p).tier.swaps.any (fun e => match e.2.op with
    | none => false
    | some o => !o.switched && (match s.swapTick? p o with
      | some b => decide (b ≤ k)
      | none => false))

/-- The intakes and object writes into side i of set n that have been consumed and not completed. -/
def State.writesInto (s : State) (p n i : Nat) : List DRef :=
  let w := s.swap? p n
  let ref := (w.map (fun w => if i = 0 then (w.tgt0, w.ref0) else (w.tgt1, w.ref1))).getD (0, 0)
  (s.tiers.intakes.filter (fun x => x.desc.part == p && bitN x.block 28 && fldN x.block 29 1 == i && fldN x.block 30 6 == n)).map (fun x => x.desc) ++
    (if ref.1 = 0 then [] else ((s.obj? p ref.2).map (fun o => o.pendingWrites)).getD [])

/-- Whether every grain of ticks before b has started: none waits in the partition's work of those ticks. -/
def State.earlierStarted (s : State) (p b : Nat) : Bool := (s.part p).cad.work.all (fun g => b ≤ g.tick)

/-- A released set leaves once no swap of it is pending: its entry goes at the next boundary (Table 9-9). -/
def State.swapTryRelease (s : State) (p n : Nat) : State :=
  match s.swap? p n with
  | none => s
  | some w =>
    match w.releasing with
    | none => s
    | some d =>
      if w.op.isSome then s
      else
        let s := s.modTier p (fun t => { t with swaps := tdel t.swaps n })
        (s.rtSet p w.index none).modPart p (fun x => { x with rtWait := x.rtWait ++ [d] })

/-- A switched swap is over once no grain that started on the old side still runs (Table 9-9). -/
def State.swapTryDone (s : State) (p : Nat) : State :=
  (s.part p).tier.swaps.foldl (fun s e => match e.2.op with
    | some o =>
      let reads := s.cores.any (fun c => match c.2.run with
        | some r => r.part == p && decide (r.grain.tick < (s.swapTick? p o).getD s.tick)
        | none => false)
      if o.switched && !reads then ((s.putSwap p e.1 { e.2 with op := none }).done o.desc).swapTryRelease p e.1 else s
    | none => s) s

/-- Descriptor 0x60 (R342). -/
def State.runSwapRegister (r : DRef) (d : Desc) (s : State) : State :=
  let p := r.part
  let n := d.fld 0 6
  let w : SwapSet :=
    { tgt0 := d.fld 6 3, tgt1 := d.fld 9 3, ref0 := d.at 32 32, ref1 := d.at 36 32, hint := d.fld 12 2, len := d.fld 32 32,
      vbase := d.at 24 64 / mib2, index := 0, active := 0, faulted := [], op := none, releasing := none }
  match (List.range (s.rd F.pRtSize p)).find? (fun i => !thas (s.part p).rtNext i && !thas (s.part p).rt i) with
  | none => s.nullDesc r tierNull n
  | some i =>
    if (s.swap? p n).isSome || d.at 24 64 % mib2 != 0 || !s.rtEditOk p i (w.entry 0) || !s.rtEditOk p i (w.entry 1) then s.nullDesc r tierNull n
    else
      let s := (s.putSwap p n { w with index := i }).rtSet p i (some (w.entry 0))
      s.modPart p (fun x => { x with rtWait := x.rtWait ++ [r] })

/-- Descriptor 0x61 (R344). A step whose number the last one that began has reached, and that is not there any more, has passed. -/
def State.runSwap (r : DRef) (d : Desc) (s : State) : State :=
  let p := r.part
  let n := d.fld 0 6
  match s.swap? p n with
  | none => s.nullDesc r tierNull n
  | some w =>
    let named := d.at 24 64
    let cad := (s.part p).cad
    let next := ((cad.steps.find? (fun x => x.phase == .queued)).map (fun x => x.id)).getD cad.nextRun
    let at' := if named = 2 ^ 64 - 1 then none else some named
    let o : SwapOp := ⟨r, at', next, d.fld 16 16, none, s.writesInto p n (1 - w.active), false⟩
    let gone := match at', cad.lastStep with
      | some k, some l => decide (k ≤ l) && !cad.steps.any o.names
      | _, _ => false
    let refuse := fun (status : Nat) => (s.swapEvent p n named o.tidx s.tick w.active 3).complete r status true 0
    if w.releasing.isSome then s.nullDesc r tierNull n
    else if gone || ((s.swapTick? p o).map (fun b => decide (b ≤ s.tick))).getD false then refuse 7
    else if w.op.isSome then refuse 8
    else if w.faulted.contains (1 - w.active) then refuse 6
    else s.putSwap p n { w with op := some { o with
      tick := (cad.steps.find? (fun x => x.phase != .queued && o.names x)).map (fun x => x.first + o.tidx) } }

/-- SWAP_SWITCH (R345): the set turns to its other side. -/
def State.swapSwitch (s : State) (p n : Nat) : State :=
  match s.swap? p n with
  | none => s
  | some w =>
    match w.op with
    | none => s
    | some o =>
      match s.swapTick? p o with
      | none => s
      | some b =>
        if o.switched || s.tick < b || !s.earlierStarted p b || (s.writesInto p n (1 - w.active)).any (fun d => o.before.contains d) then s
        else
          let i := 1 - w.active
          let s := s.putSwap p n { w with active := i, faulted := w.faulted.filter (fun x => x != i), op := some { o with switched := true } }
          let s := s.modPart p (fun x => { x with rt := tput x.rt w.index (w.entry i), rtNext := tput x.rtNext w.index (w.entry i) })
          let s := (s.inc F.pSwaps 1 p).swapEvent p n (o.stepNo.getD (s.stepNo p)) o.tidx s.tick i (if b < s.tick then 2 else 1)
          s.swapTryDone p

/-- Descriptor 0x62 (R342, R662). -/
def State.runSwapRelease (r : DRef) (d : Desc) (s : State) : State :=
  let p := r.part
  let n := d.fld 0 6
  match s.swap? p n with
  | none => s.nullDesc r tierNull n
  | some w =>
    if w.releasing.isSome then s.nullDesc r tierNull n
    else (s.putSwap p n { w with releasing := some r }).swapTryRelease p n

/-- SWAP_SWITCH (R345). -/
def execSwapSwitch (p : PartId) (n : Fin 64) (s : State) : Host.Outcome State Fault Refusal := finish (s.swapSwitch p.val n.val)

end Sys2Proof.Machine
end

