-- ==== Sys2Proof/Machine/Grains.lean ====
section
/-! DEFINITION. Grains on cores (02_cadence.md, R65 to R81; 12_collectives_and_steps.md, R446 to R450; 13_continuity.md,
R472 to R478): starting, completing, overrunning, filling bubbles, fencing a core and rebuilding it. -/
namespace Sys2Proof.Machine

/-! ## Budgets and times -/

/-- BUDGET held to 1 to GRAIN_MAX (R69). -/
def State.budget (s : State) (w : Nat) : Nat := clampN (gBudget w) 1 (s.rd F.cadGrainMax)

/-- Cycles of a tick: 1,800 a microsecond (R62). -/
def State.tickCycles (s : State) : Nat := 1800 * s.rd F.cadTickLen

/-- The time of a place in a tick, in cycles from boundary 0. -/
def State.timeAt (s : State) (tick ofs : Nat) : Nat := tick * s.tickCycles + ofs

/-- Cycles from a grain's start to a place in the present tick. -/
def State.cyclesOf (s : State) (r : Running) (ofs : Nat) : Nat := s.timeAt s.tick ofs - s.timeAt r.startTick r.startOfs

/-! ## Units -/

/-- What a grain's unit works with. -/
def State.gctx (s : State) (c p : Nat) (x : Grain) (rt : Tab RtEntry) : GCtx :=
  ⟨c, p, (s.partOfCore c).getD p, ⟨p, c, rt, 0, decide (s.tick < x.tick)⟩, gId x.word, bitN x.word 8, bitN x.word 9, x.filler, x.stepNo,
    x.run⟩

/-- The key of a grain's recorded range (R220). -/
def Grain.key (x : Grain) : Nat := x.lcore + 512 * (x.ofs + 2 ^ 20 * x.tidx)

/-- Bytes of a unit's descriptor. -/
def descLen (unit : Nat) : Nat := if unit = 1 || unit = 2 then 320 else if unit = 5 then 64 else 128

/-- The unit code of a descriptor that fails translation, or is poisoned (R663). -/
def descCode (unit : Nat) (poison : Bool) : Nat :=
  (match unit with
    | 0 => 0x06
    | 4 => 0x27
    | 3 => 0x67
    | 5 => 0x86
    | _ => 0x48) + b2n poison

/-- Whether a unit code is the unit's code of a poisoned line. -/
def poisonCode (code : Nat) : Bool := [0x07, 0x28, 0x49, 0x68, 0x87].contains code

/-- The unit's fault event for a descriptor that could not be read (R663). -/
def State.descFault (s : State) (g : GCtx) (unit code pva : Nat) : State :=
  match unit with
  | 0 => s.matFault g code pva 0 0
  | 3 => s.idxFault g code pva 0 0 0
  | 4 => s.outFault g code pva 0
  | 5 => s.dispFault g.part 0 0 1 code []
  | _ => s.vecFault g (vOf (unit == 2) 0) code pva 0

/-- A unit's start: its code (0 when the grain may run), whether a field was clamped, what it read, and the state. -/
def State.unitStart (s : State) (g : GCtx) (unit desc key : Nat) (replay : Bool) : Nat × Bool × List Nat × State :=
  match unit with
  | 0 => let (c, cl, s) := s.matStart g desc; (c, cl, [], s)
  | 1 => s.vecStart g false desc key replay
  | 2 => s.vecStart g true desc key replay
  | 3 => s.idxStart g desc
  | 4 => s.outStart g desc
  | 5 => let (c, cl, s) := s.dispStart g desc; (c, cl, [], s)
  | _ => (0, false, [], s)

/-- A unit's run to its end. -/
def State.unitRun (s : State) (g : GCtx) (unit desc : Nat) (pre : List Nat) (replay : Bool) : UnitOut :=
  match unit with
  | 0 => s.matRun g desc
  | 1 => s.vecRun g false desc pre replay
  | 2 => s.vecRun g true desc pre replay
  | 3 => s.idxRun g desc pre
  | 4 => s.outRun g desc pre
  | 5 => s.dispRun g desc
  | _ => ⟨0, 0, false, s⟩

/-- Whether an update grain waits before its prologue (R218, R484, R489). -/
def State.updateWaits (s : State) (p run desc : Nat) : Bool :=
  let n := (vOf true desc).shard
  (match s.shard? p n with
    | some y => y.pend && y.run != run
    | none => false) || s.ckptHolds p n

/-! ## The replay window (R473 to R475) -/

/-- Whether a grain is a Tarn writer (R473). -/
def tarnWriter (unit desc : Nat) : Bool :=
  match unit with
  | 0 => fldN desc 8 2 == 0
  | 1 => (List.range 4).any (fun j => (vAcc desc j).en)
  | 2 => (List.range 4).any (fun j => (vAcc desc j).en)
  | 4 => let o := fldN desc 8 4; o == 5 || o == 6 || o == 7 || bitN desc 13
  | 5 => fldN desc 8 4 == 1
  | _ => false

/-- Whether a grain is an operand load, and the bytes of the operand store it fills (R475). -/
def operandLoad (unit : Nat) (strict : Bool) (desc : Nat) : Option (Nat × Nat) :=
  let x := matOf strict desc
  if unit != 0 then none
  else if x.op = 1 then some (x.baddr, x.ktiles * x.m * sliceBytes x.afmt x.kt)
  else if x.op = 2 then some (x.aaddr, x.ktiles * x.nt * 64 * sliceBytes x.bfmt x.kt)
  else none

/-- A finished grain put into a core's window: the last 64 stay, and of the operand loads the last 16 whose bytes no later
load has overwritten. -/
def windowPut (l : List Done) (x : Done) : List Done :=
  let span := fun (d : Done) => (operandLoad (gUnit d.grain.word) (bitN d.grain.word 9) d.desc).getD (0, 0)
  let l := if x.load then l.map (fun d =>
      if d.load && decide ((span x).1 ≤ (span d).1) && decide ((span d).1 + (span d).2 ≤ (span x).1 + (span x).2) then { d with load := false }
      else d) else l
  let l := l ++ [x]
  let n := l.length
  let at' := (List.range n).zip l
  let loads := (at'.filter (fun e => e.2.load)).map (fun e => e.1)
  (at'.filter (fun e => n ≤ e.1 + 64 || (loads.drop (loads.length - 16)).contains e.1)).map (fun e => e.2)

/-- A spill point of a core (R474): the replay area holds the image of every row written since the one before. -/
def State.spillPoint (s : State) (c p : Nat) : State :=
  (s.modCore c (fun k => { k with
    spill := k.tarn, spillTick := some s.tick, window := k.window.map (fun d => { d with fresh := false }) })).inc F.pSpills 1 p

/-- The spill point before a grain starts, if one is due (R474). -/
def State.spillLook (s : State) (c p : Nat) : State :=
  let w := (s.core c).window
  let leaving := if w.length < 64 then none else w[w.length - 64]?
  let n := s.rd F.pRplTicks p
  let due := (match leaving with
    | some d => d.writer && d.fresh
    | none => false) || (n != 0 && s.tick % n == 0)
  if due then s.spillPoint c p else s

/-- The stores emptied before a grain of a different partition starts on a core (R448): the staging region of the operand
store and the vector registers. -/
def State.switchClear (s : State) (c p : Nat) : State :=
  let k := s.core c
  if k.lastPart.isNone || k.lastPart == some p then s
  else
    let res := s.rd F.pOsRes ((s.partOfCore c).getD p) * 2 ^ 18
    s.modCore c (fun k => { k with opStore := k.opStore.filter (fun e => e.1 < res), vregs := [], sregs := [] })

/-! ## Starting (R75, R663) -/

/-- A grain's unit started: what a grain that waited does once its wait is over, and the others at once. -/
def State.beginUnit (s : State) (c : Nat) (r : Running) : Running × State :=
  let x := r.grain
  let g := s.gctx c r.part x r.rt
  let s := s.emptyLent g
  let (code, cl, pre, s) := s.unitStart g (gUnit x.word) r.desc x.key r.replayed
  let s := if code = 0 && gUnit x.word = 2 && !r.replayed then s.modStep r.part x.run (fun y => { y with updates := y.updates ++ [x] }) else s
  ({ r with code := code, clamped := cl, pre := pre, waiting := false }, s)

/-- A running grain put on its core, as its grain or as its filler. -/
def State.putRun (s : State) (c : Nat) (r : Running) : State :=
  s.modCore c (fun k => if r.grain.filler then { k with filler := some r, lastPart := some r.part } else { k with run := some r, lastPart := some r.part })

/-- A grain started on a core at a place of the present tick: the stores and the spill point before it, its BUDGET clamp
(R69), its descriptor (R663), and its unit's start. -/
def State.startGrain (s : State) (c p ofs : Nat) (x : Grain) (replayed : Bool) : State :=
  let s := ((s.switchClear c p).spillLook c p).moved
  let b := gBudget x.word
  let cl := decide (s.budget x.word ≠ b)
  let s := if cl then s.clampGrain p c (gId x.word) (if b = 0 then 1 else 2) 0x0107 b (s.budget x.word) else s
  let r : Running := ⟨{ x with clamped := cl }, p, s.tick, ofs, (s.part p).rt, 0, [], 0, false, replayed, false, s.tick, none, none⟩
  let u := gUnit x.word
  if u = 6 then s.putRun c r
  else
    let g := s.gctx c p x r.rt
    let (o, s) := s.readPva g.ctx (gDesc x.word) (descLen u)
    if o.fault || o.poison then
      let code := descCode u o.poison
      (s.descFault g u code o.pva).putRun c { r with code := code }
    else
      let r := { r with desc := leNat o.bytes }
      if u = 2 && s.updateWaits p x.run r.desc then s.putRun c { r with waiting := true, since := s.tick + 1 }
      else
        let (r, s) := s.beginUnit c r
        s.putRun c r

/-- Whether the promotions of a replayed step are over (R471). -/
def State.promosOver (s : State) (p plan : Nat) : Bool :=
  match tget? (s.part p).tier.promos plan with
  | none => true
  | some l => l.entries.all (fun e => e.copying.isNone)

/-- Whether a grain's signal wait is met (R65): the partition's signals count for a step once it has begun, and before that only a wait
for 0 is met (notes/assumptions/97.md). A replay's update grains wait only for the promotions of its step (R471). -/
def State.waitMet (s : State) (p : Nat) (r : StepRun) (w : Nat) (again : Bool) : Bool :=
  if again then s.promosOver p r.plan
  else !bitN w 38 || (r.phase != .queued || fldN w 64 32 == 0) && decide (fldN w 64 32 ≤ s.signal p (gWaitSig w))

/-- Whether a partition has a step running in the present tick (R74). -/
def State.stepRuns (s : State) (p : Nat) : Bool := (s.actives p).any (fun r => r.phase == .running && decide (s.tick < r.first + r.nticks))

/-- The conditions of R75 on the first waiting grain of a core. -/
def State.mayStart (s : State) (p : Nat) (r : StepRun) (x : Grain) : Bool :=
  s.pstate p == 2 && (r.phase != .queued || s.stepRuns p) &&
    decide (x.tick ≤ s.tick + (if gNoEarly x.word then 0 else s.rd F.pRunahead p)) && s.waitMet p r x.word x.again && !s.swapHolds p x.tick

/-! ## Fillers (R446 to R450) -/

/-- A filler list changed by f. -/
def State.modFiller (s : State) (f : Nat) (d : DRef) (g : FillerList → FillerList) : State :=
  s.modColl f (fun c => { c with fillers := c.fillers.map (fun y => if y.desc = d then g y else y) })

/-- The pending filler grains of partition f for host p: list, number and record. -/
def State.fillPending (s : State) (f p : Nat) : List (FillerList × Nat × Nat) :=
  ((s.part f).coll.fillers.filter (fun l => l.host == p && l.withdrawn.isNone)).flatMap (fun l => l.grains.map (fun e => (l, e.1, e.2)))

/-- The first of the first 16 pending grains that a bubble with d cycles left takes; those of a unit that may not fill are
skipped with FAULT set. -/
def State.fillPick (s : State) (f p d : Nat) : Option (FillerList × Nat × Nat) × State :=
  ((s.fillPending f p).take 16).foldl (fun (a : Option (FillerList × Nat × Nat) × State) e =>
    let w := e.2.2
    if a.1.isSome then a
    else if !([0, 1, 3, 4] : List Nat).contains (gUnit w) then
      (none, (a.2.skipStatus f (e.1.stat + 16 * e.2.1) (gId w)).modFiller f e.1.desc (fun y => { y with grains := tdel y.grains e.2.1 }))
    else if a.2.budget w + 200 ≤ d && (!bitN w 38 || decide (fldN w 64 32 ≤ s.signal f (gWaitSig w))) then (some e, a.2)
    else a) (none, s)

/-- A filler grain started in the delay grain a core runs (R446). -/
def State.startFiller (s : State) (c p ofs : Nat) (r : Running) : State :=
  let f := s.rd F.pFillBy p
  let b := s.budget r.grain.word
  let e := s.cyclesOf r ofs
  if !s.mayFill f p || s.pstate f != 2 || (s.core c).noFill || b ≤ e then s
  else match s.fillPick f p (b - e) with
    | (none, s) => s.fillersLook f
    | (some (l, i, w), s) =>
      let s := s.modFiller f l.desc (fun y => { y with grains := tdel y.grains i, running := y.running ++ [i] })
      let x : Grain := ⟨((s.runStep? f).map (fun r => r.id)).getD (2 ^ 64), l.srStep, r.grain.tick, r.grain.tidx, c, 32 * i, w, l.stat + 16 * i,
        false, false, true, false⟩
      ((s.inc F.pFillGrains 1 p).startGrain c f ofs x false).fillersLook f

/-! ## Completing (R71, R80, R124, R125) -/

/-- The sticky flags of a unit's engine class (R123, R183, R203, R244). -/
def unitFlags (unit : Nat) : Fld := if unit = 0 || unit = 4 then F.pFlMtx else F.pFlVec

/-- The flags a grain raised taken into its engine's sticky flags, with the event FLAG_EVT selects (R124, R125). -/
def State.raiseFlags (s : State) (c p stepNo unit gid flags : Nat) : State :=
  if flags % 16 = 0 then s
  else
    let f := unitFlags unit
    let s := s.wr f (s.rd f p ||| flags % 16) p
    if (flags % 16) &&& s.rd F.pFlagEvt p = 0 then s else s.flagsEvent p stepNo 2 c gid

/-- The end of a filler grain in its list, and of the bubble it ran in when it ran past it (R449, R450). -/
def State.fillerEnd (s : State) (c : Nat) (x : Grain) (f ofs : Nat) : State :=
  let s := (s.part f).coll.fillers.foldl (fun s l =>
    let i := x.ofs / 32
    if l.stat + 16 * i = x.statPva && l.running.contains i then s.modFiller f l.desc (fun y => { y with running := y.running.erase i }) else s) s
  let s := s.fillersLook f
  match (s.core c).run with
  | none => s
  | some r =>
    let past := s.cyclesOf r ofs - s.budget r.grain.word
    if past = 0 then s
    else ((s.modCore c (fun k => { k with noFill := true })).inc F.pFillExcess 1 r.part).event 0x1F r.part [r.part, f, c, gId x.word, past]

/-- A grain of a partition under a grain trace: its GRAIN_ID, unit, tick, START_OFS and ACT_CYCLES go to the session (Table
15-3). -/
def State.traceGrain (s : State) (c : Nat) (r : Running) (ofs cycles : Nat) : State :=
  match s.mgmt.trace with
  | none => s
  | some (sess, p) =>
    if p != r.part then s
    else { s with mgmt := { s.mgmt with sent := s.mgmt.sent ++ [.trace sess p c (gId r.grain.word) (gUnit r.grain.word) r.startTick ofs cycles] } }

/-- A grain ended on a core: its status (Table 2-5), flags, counts, signal, window, and what waited for it. -/
def State.finishGrain (s : State) (c : Nat) (r : Running) (cycles code flags : Nat) : State :=
  let x := r.grain
  let u := gUnit x.word
  let excess := decide (s.budget x.word < cycles)
  let ofs : Int := (s.timeAt r.startTick r.startOfs : Int) - (s.timeAt x.tick 0 : Int)
  let fault := code != 0 && code != 0x40 && code != 0x63
  let bits := statBits true x.overrun excess fault r.replayed (x.clamped || r.clamped)
  let s := (s.writePva (s.engCtx r.part engPlan) x.statPva (grainStatus cycles ofs bits flags (gId x.word) code) false).2
  let s := s.traceGrain c r (toField 32 ofs) cycles
  let s := if excess then s.inc F.pBudxCount 1 r.part else s
  let s := s.raiseFlags c r.part x.stepNo u (gId x.word) flags
  let done : Done := ⟨x, r.part, r.desc, r.code = 0 && tarnWriter u r.desc, code = 0 && (operandLoad u (bitN x.word 9) r.desc).isSome, true⟩
  let s := s.modCore c (fun k =>
    let k := if x.filler then { k with filler := none } else { k with run := none }
    { k with window := windowPut k.window done })
  let s := if poisonCode code then s else { s with mem := { s.mem with took := s.mem.took.filter (fun e => e.1 != c) } }
  let s := if u = 2 && poisonCode code then s.modCont r.part (fun y => { y with evidence := insertUp y.evidence c }) else s
  let s := if bitN x.word 45 then s.postSig r.part (fldN x.word 39 6) else s
  ((s.swapTryDone r.part).stepLook r.part).moved

/-- The SH_LAST grain of a shard that did no work still asks for the coverage of its pending version (R223). -/
def State.lastNoWork (s : State) (r : Running) : State :=
  let x := vOf true r.desc
  match s.shard? r.part x.shard with
  | none => s
  | some y =>
    if gUnit r.grain.word = 2 && x.last && r.desc != 0 && y.pend && y.run == r.grain.run then
      (s.endUpdate r.part x.shard true false r.replayed).2
    else s

/-- Whether router records that a core's grain handed off still wait for the dispatch engine (R188, R194). -/
def State.routerWaits (s : State) (c p : Nat) : Bool := s.routers.any (fun r => r.core == c && r.part == p)

/-- Of the router records of a core's grain, only the last n kept: those before the engine had accepted (R478). -/
def State.routersFrom (s : State) (c p n : Nat) : State :=
  let (mine, rest) := s.routers.partition (fun r => r.core == c && r.part == p)
  { s with routers := rest ++ mine.drop (mine.length - n) }

/-- A running grain's work done: the code and the flags its unit ends with. -/
def State.grainRun (s : State) (c : Nat) (r : Running) : Running × State :=
  if r.ran.isSome then (r, s)
  else
    let (r, s) := if r.waiting then s.beginUnit c r else (r, s)
    if r.code != 0 then ({ r with ran := some (r.code, 0) }, s.lastNoWork r)
    else
      let o := s.unitRun (s.gctx c r.part r.grain r.rt) (gUnit r.grain.word) r.desc r.pre r.replayed
      ({ r with clamped := r.clamped || o.clamped, ran := some (o.code, o.flags) },
        match r.resume with
        | some n => o.st.routersFrom c r.part n
        | none => o.st)

/-- A grain whose work is done ended. -/
def State.grainEnd (s : State) (c : Nat) (r : Running) (cycles : Nat) : State :=
  match r.ran with
  | some (code, flags) => s.finishGrain c r cycles code flags
  | none => s

/-- A running grain run to its end at a place of the present tick: one that still waits before its unit does not end, nor does one
whose memory draws wait for a refill or for a stack (R84, R312), nor one whose router records the engine has not all taken (R194). -/
def State.endRunning (s : State) (c : Nat) (r : Running) (cycles : Nat) : State :=
  if r.waiting && s.updateWaits r.part r.grain.run r.desc then s
  else
    let (r, s) := s.grainRun c r
    if s.memWaits r.part || s.routerWaits c r.part then s.putRun c r else s.grainEnd c r cycles

/-- Whether a core stalls because the fabric stop of its die is in reset (Table 17-6). -/
def State.stopHeld (s : State) (c : Nat) : Bool := bitN (s.rd F.rstFabInr) (s.dieOf c)

/-- Whether a core starts no grain: it is in reset, or its die's stop is (Table 17-6). -/
def State.coreHeld (s : State) (c : Nat) : Bool := bitN (s.rd F.rstCoreInr 0 (c / 32)) (c % 32) || s.stopHeld c

/-- The grain of a core ended, or its filler grain, and a delay grain whose BUDGET has passed with the filler that ran past it (R449). -/
def State.completeOn (s : State) (c ofs : Nat) : State :=
  let k := s.core c
  if k.fenced || k.rebuild || s.stopHeld c then s
  else match k.filler, k.run with
    | some r, d =>
      if s.timeAt s.tick ofs < s.timeAt r.startTick r.startOfs then s
      else
        let s := s.endRunning c r (s.cyclesOf r ofs)
        if (s.core c).filler.isSome then s
        else
          let s := s.fillerEnd c r.grain r.part ofs
          match d with
          | some d => if s.budget d.grain.word ≤ s.cyclesOf d ofs then s.finishGrain c d (s.cyclesOf d ofs) 0 0 else s
          | none => s
    | none, some r =>
      if gUnit r.grain.word = 6 || s.timeAt s.tick ofs < s.timeAt r.startTick r.startOfs then s
      else s.endRunning c r (s.cyclesOf r ofs)
    | none, none => s

/-- GRAIN_COMPLETE on a core (R71): one whose reads wait for a granule of an object does not end (R322). -/
def State.grainComplete (s : State) (c ofs : Nat) : State := (s.demandRun (.core c) (fun s => s.completeOn c ofs)).2

/-- The grain a core starts now (R75, R481): its first waiting grain, or a filler grain in the delay grain it runs. -/
def State.startOn (s : State) (c ofs : Nat) : State :=
  let k := s.core c
  match s.partOfCore c with
  | none => s
  | some p =>
    if k.fenced || k.rebuild || s.coreHeld c || s.memHeld p || s.mem.took.any (fun e => e.1 == c) then s
    else match k.run with
      | some r => if gUnit r.grain.word = 6 && k.filler.isNone then s.startFiller c p ofs r else s
      | none =>
        match (s.part p).cad.work.find? (fun x => x.lcore == c) with
        | none => s
        | some x =>
          match s.stepRun? p x.run with
          | none => s
          | some r =>
            if s.mayStart p r x then
              (s.modCad p (fun y => { y with work := y.work.erase x })).startGrain c p ofs x x.again
            else s

/-- GRAIN_START on a core (R75): a grain whose descriptor lies in a granule that must be fetched starts once it has come (R322). -/
def State.grainStart (s : State) (c ofs : Nat) : State := (s.demandRun (.core c) (fun s => s.startOn c ofs)).2

/-- DELAY_GRAIN_ELAPSED (R449). -/
def State.delayElapsed (s : State) (c : Nat) : State :=
  let k := s.core c
  match k.run with
  | none => s
  | some r =>
    if k.fenced || k.rebuild || gUnit r.grain.word != 6 || k.filler.isSome then s
    else s.finishGrain c r (s.budget r.grain.word) 0 0

/-- GRAIN_OVERRUN on a core (R77): its oldest grain whose deadline has passed and that has not been reported. -/
def State.grainOverrun (s : State) (c : Nat) : State :=
  match s.partOfCore c with
  | none => s
  | some p =>
    let late := fun (x : Grain) => decide (x.tick < s.tick) && !x.overrun && !x.filler && !x.again
    let report := fun (s : State) (x : Grain) (cause cycles : Nat) =>
      (s.event 0x04 p [p, c, x.tick, gId x.word, cause, cycles]).inc F.pOvrCount 1 p
    let next := fun (s : State) => match (s.part p).cad.work.find? (fun x => x.lcore == c && late x) with
      | none => s
      | some x =>
        report (s.modCad p (fun y => { y with work := y.work.map (fun z => if z = x then { z with overrun := true } else z) })) x 2 0
    match (s.core c).run with
    | none => next s
    | some r =>
      if late r.grain then
        let dl := s.timeAt (r.grain.tick + 1) 1800
        let st := s.timeAt r.startTick r.startOfs
        let s := s.modCore c (fun k => { k with run := some { r with grain := { r.grain with overrun := true } } })
        if st ≤ dl then report s r.grain 1 (dl - st) else report s r.grain 2 0
      else next s

/-! ## Fencing (R26, R27, R472, R479) -/

/-- The core map event (Table 1-12). -/
def State.mapEvent (s : State) (c old new : Nat) : State := s.eventAll 0x02 [c, old, new, s.rd F.idReserve]

/-- A core left fenced: what it ran and was to run is skipped, and no step of its partition in progress can commit (R479). -/
def State.loseCore (s : State) (c : Nat) : State :=
  match s.partOfCore c with
  | none => s.modCore c (fun k => { k with lost := true })
  | some p =>
    let k := s.core c
    let mine := (s.part p).cad.work.filter (fun x => x.lcore == c)
    let held := (k.run.toList ++ k.filler.toList)
    let s := s.modCore c (fun k => { k with lost := true, run := none, filler := none })
    let s := s.modCad p (fun y => { y with work := y.work.filter (fun x => x.lcore != c) })
    let s := mine.foldl (fun s x => s.skipStatus p x.statPva (gId x.word)) s
    let s := (s.actives p).foldl (fun s r => s.failRun p r.id 4) s
    let s := held.foldl (fun s r =>
      let s := s.skipStatus r.part r.grain.statPva (gId r.grain.word)
      if r.grain.filler then s.fillerEnd c r.grain r.part 0 else s) s
    s.stepLook p

/-- SPANS of a core group (R25). -/
def State.setSpans (s : State) (group : Nat) : State :=
  let cs := (List.range 8).map (fun i => 8 * group + i)
  let dies := cs.map (fun c => s.dieOf c)
  let v := b2n (dies.any (fun d => d != nthD dies 0 0))
  cs.foldl (fun s c => s.wr F.idSpans v 0 c) s

/-- A core fenced on its site (R472): its rows, its stores and its registers are empty, and its site is out of service. Under
the automatic policy it waits for a reserve site until the tick ends (R27). -/
def State.fenceCore (s : State) (c : Nat) : State :=
  if (s.core c).fenced then s
  else
    let site := s.rd F.idSite 0 c
    let auto := s.rd F.idRsvMode == 0
    let s := s.modCore c (fun k => { k with
      fenced := true, asked := auto, tarn := [], opStore := [], vregs := [], sregs := [], rebuild := false })
    let s := ((s.wr F.idState 2 0 site).wr F.idLcore 0x1FF 0 site).wr F.idActive (s.rd F.idActive - 1)
    let s := s.wr F.idFenced (capN 32 (s.rd F.idFenced + 1))
    let s := match s.partOfCore c with
      | some p => s.modCont p (fun y => { y with evidence := insertUp y.evidence c })
      | none => s
    if auto then s else s.mapEvent c site 0x1FF

/-- A fenced core moved to a reserve site (R26): its logical number stays, and it is rebuilt there. -/
def State.moveCore (s : State) (c site : Nat) : State :=
  let old := s.rd F.idSite 0 c
  let s := s.modCore c (fun k => { k with fenced := false, asked := false, lost := false, rebuild := true, oldSite := old })
  let s := ((s.wr F.idSite site 0 c).wr F.idState 0 0 site).wr F.idLcore c 0 site
  let s := (s.wr F.idReserve (s.rd F.idReserve - 1)).wr F.idActive (s.rd F.idActive + 1)
  (s.setSpans (c / 8)).mapEvent c old site

/-- Whether two compute dies are adjacent in a row or a column (Table 1-1). -/
def diesAdjacent (a b : Nat) : Bool := (a / 4 == b / 4 && (a + 1 == b || b + 1 == a)) || a + 4 == b || b + 4 == a

/-- The reserve site firmware chooses for a core (R26), the lowest site of the first kind that has one. -/
def State.reserveFor (s : State) (c : Nat) : Option Nat :=
  let free := (List.range 320).filter (fun i => s.rd F.idState 0 i == 1)
  let d := s.dieOf c
  match free.find? (fun i => i / 40 == d), free.find? (fun i => diesAdjacent (i / 40) d), free.head? with
  | some i, _, _ => some i
  | none, some i, _ => some i
  | none, none, o => o

/-- The cores fenced in a tick given their reserve sites in ascending logical number; those left without one stay fenced
(R26, R27). -/
def State.fenceBoundary (s : State) : State :=
  ((s.cores.filter (fun e => e.2.asked)).map (fun e => e.1)).foldl (fun s c =>
    match s.reserveFor c with
    | some i => s.moveCore c i
    | none => ((s.modCore c (fun k => { k with asked := false })).mapEvent c (s.rd F.idSite 0 c) 0x1FF).loseCore c) s

/-- Whether the grain of core c spends the present moment in a declared wait (R81): before its prologue (R218, R484, R489), on its
partition's memory budget (R84), or on a token slot credit (R32). -/
def State.inWait (s : State) (c : Nat) (r : Running) : Bool :=
  (r.waiting && s.updateWaits r.part r.grain.run r.desc) || s.memWaits r.part || (r.ran.isSome && s.routerWaits c r.part)

/-- HANG_FENCE (R81): a core whose grain has retired nothing for HANG_TICKS ticks in a row, none with a declared wait in it. -/
def State.hangFence (s : State) (c : Nat) : State :=
  match (s.core c).run with
  | none => s
  | some r => if r.since + s.rd F.cadHangTicks ≤ s.tick && !s.inWait c r then s.fenceCore c else s

/-- A tick in which a grain waits does not count towards HANG_TICKS (R81): looked at as each tick begins. -/
def State.hangBoundary (s : State) : State :=
  { s with cores := tmap s.cores (fun c k => match k.run with
      | some r => if s.inWait c r then { k with run := some { r with since := s.tick + 1 } } else k
      | none => k) }

/-! ## Rebuilding (R477, R478) -/

/-- A grain whose signal has been posted before, as it runs again (R65). -/
def Grain.quiet (x : Grain) : Grain := { x with word := setFld x.word 45 1 0 }

/-- A grain rerun whole on a core, its status written with REPLAYED (R477); the engine has taken every record of it. -/
def State.rerun (s : State) (c : Nat) (x : Grain) (p ofs cycles : Nat) : State :=
  let k := s.core c
  let s := (s.modCore c (fun k => { k with run := none, filler := none })).startGrain c p ofs x.quiet true
  let s := match (if x.filler then (s.core c).filler else (s.core c).run) with
    | some r => let (r, s) := s.grainRun c { r with resume := some 0 }; s.grainEnd c r cycles
    | none => s
  ((s.modCore c (fun y => { y with run := if x.filler then k.run else y.run, window := k.window, spill := k.spill, spillTick := k.spillTick })).inc
    F.pGrpl 1 p)

/-- The grain replay event (Table 13-7). -/
def State.replayEvent (s : State) (p c old new n spill gid : Nat) : State := s.event 0x24 p [p, c, old, new, n, spill, gid]

/-- A core rebuilt (R477, R478): rows from the replay area, the kept operand loads, the Tarn writers since the spill
point, and the grain that was running. times gives, rerun by rerun, where each starts in the present tick and how long it
took. -/
def State.rebuildOn (s : State) (c : Nat) (times : List (Nat × Nat)) : State :=
  let k := s.core c
  match s.partOfCore c with
  | none => s
  | some p =>
    if !k.rebuild then s
    else
      let s := s.modCore c (fun k => { k with tarn := k.spill, rebuild := false, run := none, filler := none })
      let again := k.window.filter (fun d => d.load) ++ k.window.filter (fun d => !d.load && d.writer && d.fresh)
      let cut := (k.filler.toList ++ k.run.toList).filter (fun r => gUnit r.grain.word != 6)
      let gone := cut.filter (fun r => gUnit r.grain.word == 3 && fldN r.desc 8 4 == 1)
      let kept := cut.filter (fun r => !(gUnit r.grain.word == 3 && fldN r.desc 8 4 == 1))
      let delay := k.run.filter (fun r => gUnit r.grain.word == 6)
      let at' := fun (i : Nat) => nthD times i (0, 0)
      let s := (List.range again.length).foldl (fun s i => match again[i]? with
        | some d => s.rerun c d.grain d.part (at' i).1 (at' i).2
        | none => s) s
      let s := (List.range kept.length).foldl (fun s i => match kept[i]? with
        | some r =>
          let t := at' (again.length + i)
          let left := if r.ran.isNone then r.resume else some (s.routers.filter (fun y => y.core == c && y.part == r.part)).length
          let s := (if left.isSome then s.routersFrom c r.part 0 else s).startGrain c r.part t.1 r.grain true
          let s := match (if r.grain.filler then (s.core c).filler else (s.core c).run) with
            | some r => s.endRunning c { r with resume := left } t.2
            | none => s
          let s := if r.grain.filler then s.fillerEnd c r.grain r.part t.1 else s
          s.inc F.pGrpl 1 r.part
        | none => s) s
      let s := gone.foldl (fun s r =>
        let s := s.writePva (s.engCtx r.part engPlan) r.grain.statPva
          (grainStatus 0 0 (statBits true r.grain.overrun false true false (r.grain.clamped || r.clamped)) 0 (gId r.grain.word) 0) false |>.2
        if r.grain.filler then s.fillerEnd c r.grain r.part 0
        else if bitN r.grain.word 45 then s.postSig r.part (fldN r.grain.word 39 6) else s) s
      let s := match delay with
        | some r => s.modCore c (fun k => { k with run := some { r with startTick := s.tick, since := s.tick, startOfs := (at' (again.length + kept.length)).1, replayed := true } })
        | none => s
      let n := again.length + kept.length
      ((s.replayEvent p c k.oldSite (s.rd F.idSite 0 c) n ((k.spillTick).getD 0) (match gone with
        | r :: _ => gId r.grain.word
        | [] => 0)).modCont p (fun y => { y with evidence := insertUp y.evidence c })).stepLook p

/-- CORE_REBUILD_COMPLETE (R477): a rebuild whose reruns lack a granule of an object goes on once it has come (R322). -/
def State.rebuilt (s : State) (c : Nat) (times : List (Nat × Nat)) : State := (s.demandRun (.core c) (fun s => s.rebuildOn c times)).2

end Sys2Proof.Machine
end

