-- ==== Sys2Proof/Machine/Replay.lean ====
section
/-! DEFINITION. Replica comparison, block replay and step replay (13_continuity.md, R467 to R471). -/
namespace Sys2Proof.Machine

/-- A shard's comparison changed by f; one not under way starts empty. -/
def State.modCompare (s : State) (p i : Nat) (f : Compare → Compare) : State :=
  s.modCont p (fun c => { c with compares := tput c.compares i (f (tgetD c.compares i ⟨false, [], [], []⟩)) })

/-- Bytes at a PVA as they stand, with no request made. -/
def State.peekPva (s : State) (p pva n : Nat) : List Byte :=
  (List.range n).map (fun i => match s.xlate p (s.part p).rt (pva + i) false with
    | .ok (.dpa a _) => (match s.locate? a with
      | some pa => s.peek pa
      | none => 0)
    | _ => 0)

/-! ## Trees (R226) -/

/-- Nodes of each level of a shard's tree, from the leaves up. -/
def Shard.levels (x : Shard) : List Nat := treeLevels 64 x.leaves

/-- The digest of node n of a level of the pending version's tree, as it lies in the set. -/
def State.treeNode (s : State) (p : Nat) (x : Shard) (level n : Nat) : Nat :=
  leNat (s.peekPva p (x.otherSet + x.imgLen + 64 * (sumOf (x.levels.take level) + n)) 64)

/-! ## Evidence (R469) -/

/-- Whether a line of a range met a memory error in the step. -/
def State.rangeEvid (s : State) (p pva n : Nat) : Bool :=
  s.mem.evid != [] && (lineChunks pva n).any (fun ch => match s.xlate p (s.part p).rt ch.1 false with
    | .ok (.dpa a _) => (match s.locate? a with
      | some pa => s.mem.evid.contains (pa / 128)
      | none => false)
    | _ => false)

/-- The update grains of a step that cover a leaf of a shard (R470). -/
def Shard.covering (x : Shard) (ups : List Grain) (leaf : Nat) : List Grain :=
  let lo := leaf * leafBytes
  let hi := Nat.min (lo + leafBytes) x.imgLen
  let mine := ups.filter (fun g => x.ranges.any (fun r => r.1 == g.key))
  let met := x.arrays.1.filter (fun a => spansMeet a.ofs (a.count * stateBytes a.fmt) lo (hi - lo))
  if met.any (fun a => a.shape != 0) then mine
  else mine.filter (fun g => met.any (fun a => x.ranges.any (fun r => r.1 == g.key &&
    spansMeet (a.ofs + (r.2.1 - x.efirst) * stateBytes a.fmt) (r.2.2 * stateBytes a.fmt) lo (hi - lo))))

/-- Whether this member holds evidence for a leaf (R469): a memory error on its lines or on the G or C that feed it, or a
fence, a rebuild or a poisoned line on a core that ran a grain covering it. -/
def State.leafEvid (s : State) (p i : Nat) (x : Shard) (leaf : Nat) : Bool :=
  let ups := ((s.stepRun? p x.run).map (fun r => r.updates)).getD []
  let gs := x.covering ups leaf
  s.rangeEvid p (x.otherSet + leaf * leafBytes) (Nat.min leafBytes (x.imgLen - leaf * leafBytes)) ||
    gs.any (fun g => (s.part p).cont.evidence.contains g.lcore ||
      (s.mem.evid != [] &&
        let d := leNat (s.peekPva p (gDesc g.word) 320)
        let v := vOf true d
        decide (v.shard = i) && [1, 2].any (fun k => match (v.inputs d (some x))[k]? with
          | some st => (st.spans v.wspva v.e0 (v.e0 + v.n - 1)).any (fun sp => s.rangeEvid p sp.1 sp.2)
          | none => false)))

/-! ## Comparison (R468) -/

/-- A TREE message to a replica: shard, level, first node, count, the digests, and for leaves the evidence held for each. -/
def State.sendTree (s : State) (p rank i : Nat) (x : Shard) (level first n : Nat) : State :=
  let ns := (List.range n).map (fun k => first + k)
  let ev := if level = 0 then maskOf ((List.range n).filter (fun k => s.leafEvid p i x (first + k))) else 0
  s.clusterSend p rank ccTree x.stepNo ([i, level, first, n] ++ ns.map (fun k => s.treeNode p x level k) ++ [ev])

/-- The replica mismatch event (Table 13-7): rules 1 evidence, 2 majority, 3 neither, 0 none applied; outcomes 1 the blamed
replay, 2 unresolved. -/
def State.mismatchEvent (s : State) (p i step leaf blamed rule round outcome : Nat) : State :=
  s.event 0x22 p [p, i, step, leaf, blamed, rule, round, outcome]

/-- The replicas blamed for a leaf and the rule that applies (R469), over the digest and the evidence of each. -/
def blame (l : List (Nat × Nat × Bool)) : List Nat × Nat :=
  match (l.filter (fun e => e.2.2)).map (fun e => e.1) with
  | [r] => ([r], 1)
  | _ =>
    let major := l.find? (fun e => decide (l.length < 2 * (l.filter (fun y => y.2.1 == e.2.1)).length))
    match (if 3 ≤ l.length then major else none) with
    | some e => ((l.filter (fun y => y.2.1 != e.2.1)).map (fun y => y.1), 2)
    | none => (l.map (fun e => e.1), 3)

/-- Whether a grain of a run is being replayed. -/
def State.replaying (s : State) (p run : Nat) : Bool :=
  (s.part p).cad.work.any (fun g => g.again && g.run == run) ||
    s.cores.any (fun c => match c.2.run with
      | some r => r.part == p && r.grain.again && r.grain.run == run
      | none => false)

/-- A grain as it is put to run again in the present tick (R470, R471). -/
def State.toAgain (s : State) (run : Nat) (x : Grain) : Grain :=
  { x.quiet with run := run, tick := s.tick, again := true, overrun := false, clamped := false }

/-- Roots that still differ after the last round (R470): the step cannot commit. -/
def State.mismatchLeft (s : State) (p i : Nat) (x : Shard) : State :=
  ((s.mismatchEvent p i x.stepNo 0 0 0 (tgetD (s.part p).cont.rounds i 0) 2).modCont p (fun c => { c with compares := tdel c.compares i })).failRun
    p x.run 3

/-- Every differing leaf of a shard judged (R469, R470): the blamed replay, and their roots are awaited anew. -/
def State.judge (s : State) (p i : Nat) (x : Shard) (j : Job) (k : Compare) : State :=
  let reps := s.replicas p j
  let leaves := (k.diffs.map (fun d => d.leaf)).eraseDups
  let all := leaves.map (fun l =>
    let mine := s.treeNode p x 0 l
    let row := (j.self, mine, s.leafEvid p i x l) :: reps.map (fun r => match k.diffs.find? (fun d => d.leaf == l && d.rank == r) with
      | some d => (r, d.digest, d.evidence)
      | none => (r, mine, false))
    (l, blame row))
  let round := tgetD (s.part p).cont.rounds i 0
  let s := all.foldl (fun s e => s.mismatchEvent p i x.stepNo e.1 (maskOf e.2.1) e.2.2 round 1) s
  let blamed := (all.flatMap (fun e => e.2.1)).eraseDups
  let s := s.modCont p (fun c => { c with compares := tdel c.compares i })
  if leaves = [] then s.mismatchLeft p i x
  else
    let s := s.modJob p (fun j => { j with roots := j.roots.filter (fun e => !(e.1 == x.stepNo && blamed.contains e.2.1 && e.2.2.1 == i)) })
    if !blamed.contains j.self then s
    else
      let ups := ((s.stepRun? p x.run).map (fun r => r.updates)).getD []
      let gs := ((all.filter (fun e => e.2.1.contains j.self)).flatMap (fun e => x.covering ups e.1)).eraseDups
      let s := (s.inc F.pBlockRpl 1 p).putShard p i { x with rootNew := none }
      s.modCad p (fun c => { c with work := gs.map (fun g => s.toAgain x.run g) ++ c.work })

/-- A shard's comparison judged once every awaited node has come from every replica that differs. -/
def State.judgeLook (s : State) (p i : Nat) : State :=
  match s.job? p, s.shard? p i, tget? (s.part p).cont.compares i with
  | some j, some x, some k =>
    let mism := (s.replicas p j).filter (fun r => match j.rootFrom x.stepNo r i with
      | some y => some y != x.rootNew
      | none => false)
    if k.begun && k.expect = [] && mism.all (fun r => k.seen.contains (r, x.levels.length - 1, 0)) && x.rootNew.isSome then s.judge p i x j k else s
  | _, _, _ => s

/-- A shard's roots looked at (R467, R468, R470): once every replica's root is here and one differs, the trees are compared. -/
def State.rootsLook (s : State) (p i : Nat) : State :=
  match s.job? p, s.shard? p i with
  | some j, some x => match x.rootNew with
    | none => s
    | some root =>
      let reps := s.replicas p j
      let mism := reps.filter (fun r => match j.rootFrom x.stepNo r i with
        | some y => y != root
        | none => false)
      let begun := ((tget? (s.part p).cont.compares i).map (fun k => k.begun)).getD false
      if !x.pend || mism = [] || begun || !reps.all (fun r => (j.rootFrom x.stepNo r i).isSome) then s
      else
        let round := tgetD (s.part p).cont.rounds i 0
        if Nat.max 1 (s.rd F.pRplRounds p) ≤ round then s.mismatchLeft p i x
        else
          let top := x.levels.length - 1
          let s := s.modCont p (fun c => { c with rounds := tput c.rounds i (round + 1) })
          let s := s.modCompare p i (fun k => { k with
            begun := true, expect := k.expect ++ (mism.map (fun r => (r, top, 0))).filter (fun e => !k.seen.contains e) })
          (mism.foldl (fun s r => s.sendTree p r i x top 0 1) s).judgeLook p i
  | _, _ => s

/-- TREE_RX (R468): nodes of a replica's tree compared with this member's; the children of each that differs are sent, and
awaited in turn, down to the leaves. -/
def State.treeRx (s : State) (p src i level first : Nat) (digs : List Nat) (ev : Nat) : State :=
  match s.shard? p i with
  | none => s
  | some x =>
    let n := digs.length
    let here := nthD x.levels level 0
    if !x.pend || x.rootNew.isNone || here < first + n then s
    else
      let diff := (List.range n).filter (fun k => nthD digs k 0 != s.treeNode p x level (first + k))
      let s := s.modCompare p i (fun k => { k with
        seen := k.seen ++ [(src, level, first)]
        expect := k.expect.erase (src, level, first) })
      let s :=
        if level = 0 then
          s.modCompare p i (fun k => { k with diffs := k.diffs ++ diff.map (fun d => ⟨first + d, src, nthD digs d 0, bitN ev d⟩) })
        else
          let below := nthD x.levels (level - 1) 0
          diff.foldl (fun s d =>
            let f := 2 * (first + d)
            let s := s.modCompare p i (fun k => if k.seen.contains (src, level - 1, f) then k else { k with expect := k.expect ++ [(src, level - 1, f)] })
            s.sendTree p src i x (level - 1) f (Nat.min 2 (below - f))) s
      (s.judgeLook p i).stepLook p

/-! ## Step replay (R471) -/

/-- Descriptor 0x55: every update grain of the failed step runs again on its core, after the step's promotions. -/
def State.runStepReplay (r : DRef) (d : Desc) (s : State) : State :=
  let p := r.part
  let n := d.at 16 64
  match (s.part p).cont.failed, tget? (s.part p).cad.plans ((((s.part p).cont.failed).map (fun f => f.plan)).getD 256) with
  | some f, some x =>
    if f.stepNo != n || (s.actives p).any (fun y => y.replay) || s.rd F.pJstate p == jsHold then s.nullDesc r contNull n
    else
      let id := (s.part p).cad.nextRun
      let y : StepRun := ⟨id, f.plan, n, some r, s.tick, s.tick, 0, x.statStride, x.tptPva, x.statPva, .running, 0, none, none, false,
        f.updates, true, false⟩
      let gs := f.updates.map (fun g => s.toAgain id g)
      let s := s.modCad p (fun c => { c with steps := y :: c.steps, nextRun := id + 1, work := gs ++ c.work })
      let s := (s.inc F.pStepRpl 1 p).commitEvent p n 0x10 (s.rd F.pRank p)
      let s := match tget? (s.part p).tier.promos f.plan with
        | none => s
        | some l => iterN l.entries.length (fun i s => s.promoTake p f.plan i y) s
      (s.countSteps p).stepLook p
  | _, _ => s.nullDesc r contNull n

end Sys2Proof.Machine
end

