-- ==== Sys2Proof/Machine/Plans.lean ====
section
/-! DEFINITION. Plans and steps (02_cadence.md, R66 to R74; Table 2-6; Table 6-9): the check of a tick plan, the begin of a
step, and the descriptors 0x10 to 0x16. -/
namespace Sys2Proof.Machine

/-- The null resource's field code of the steps-and-plans family, and of shards. -/
def planNull : Nat := freeCode 1 0
def shardNull : Nat := freeCode 18 0

/-! ## When a step begins (R74) -/

/-- Whether something keeps a queued step from beginning: a permute (R439), hold (R458), a pause before a firmware activation
(R493), or repair access to a stack the partition holds capacity on (R312). -/
def State.stepBlocked (s : State) (p : Nat) (r : StepRun) : Bool :=
  (s.part p).coll.permute.isSome || s.rd F.pJstate p == jsHold ||
    (match (s.job? p).bind (fun j => j.pauseAt) with
      | some n => decide (n < r.stepNo)
      | none => false) ||
    s.mem.stackTab.any (fun e => e.2.access && s.holdsStack p e.1) ||
    s.rst.queue.any (fun a => a.work == .repair && s.holdsStack p a.res)

/-- The queued steps of a partition placed again (R74): each after the one before it and R + 1 ticks after the first boundary its kick
has before it; a step
that is blocked moves on with the tick, and its tick plans are fetched again. -/
def State.placeSteps (s : State) (p : Nat) : State :=
  let lead := s.rd F.pRunahead p + 1
  let c := (s.part p).cad
  let begun := c.steps.filter (fun r => r.phase != .queued)
  let last := maxOf (begun.map (fun r => r.first + (if r.stopped then r.checked else r.nticks)))
  let place := fun (a : Nat × List StepRun) (r : StepRun) =>
    if r.phase != .queued then (a.1, a.2 ++ [r])
    else
      let blocked := s.stepBlocked p r
      let f := Nat.max (r.consumed + lead) (if blocked then Nat.max a.1 (s.tick + 1 + lead) else a.1)
      let f := if r.checked = 0 then f else if blocked then f else r.first
      (f + (if r.stopped then r.checked else r.nticks), a.2 ++ [{ r with first := f, checked := if blocked && !r.stopped then 0 else r.checked }])
  let steps := (c.steps.foldl place (Nat.max last (c.lastTick.getD 0), [])).2
  let again := fun (x : Grain) => steps.any (fun r => r.id == x.run && r.phase == .queued && r.checked == 0)
  s.modCad p (fun c => { c with steps := steps, work := c.work.filter (fun x => !again x) })

/-- The first boundary a time unit places (R55, R74): kicks consumed before it stand in the tick that ends at it. -/
def State.firstBoundary (s : State) (p : Nat) : State :=
  s.modCad p (fun c => { c with steps := c.steps.map (fun r => if r.phase == .queued then { r with consumed := s.tick, first := 0, checked := 0 } else r) })

/-- STEP_BEGIN (R65, R74): the first queued step begins; what stood for a replay of the failed step before it is given up. -/
def State.stepBegin (s : State) (p : Nat) : State :=
  match (s.part p).cad.steps.find? (fun r => r.phase == .queued) with
  | none => s
  | some r =>
    if s.tick < r.first || s.stepBlocked p r || !s.time.placed then s
    else
      let s := ((s.actives p).filter (fun y => y.phase == .running)).foldl (fun s y => s.ticksOver p y) s
      let s := match (s.part p).cont.failed, (s.actives p).any (fun y => y.replay) with
        | some f, false => (s.sheafStepOver p f.stepNo).modCont p (fun c => { c with failed := none })
        | _, _ => s
      let s := (s.modStep p r.id (fun y => { y with phase := .running })).modCad p (fun c => { c with signals := [] })
      let s := { s with cores := tmap s.cores (fun c k => if s.ownsCore p c then { k with noFill := false } else k) }
      let s := s.modCad p (fun c => { c with lastStep := some r.stepNo })
      (((s.countSteps p).ledgerStart p r.plan).promoBoundary p true |>.swapsBegin p r).stepLook p

/-! ## Tick plans (R66 to R70) -/

/-- The plan fault event (Table 2-8): causes 1 check failed, 2 unreadable, 3 null core, 4 null unit, 5 overcommitted; 0x1FF
where no logical core applies. -/
def State.planFault (s : State) (p plan tidx cause core : Nat) : State := s.event 0x06 p [p, plan, tidx, cause, core]

/-- The logical cores a tick plan's core table names, in its order. -/
def planCores (b : List Byte) : List Nat := (List.range (leAt b 4 2)).map (fun i => leAt b (32 + 8 * i) 2 % 512)

/-- The grains of a tick plan released: those of a null core or a null unit skipped with one event, which names the first entry of the
core table that is null or has a null grain, listed grains or none (R68); those of a core left fenced skipped, and a plan that names one cannot commit (R479); each
overcommitted core reported (R70). -/
def State.releaseGrains (s : State) (p : Nat) (r : StepRun) (k : Nat) (cores : List Nat) (gs : List Grain) : State :=
  let null := fun (x : Grain) => !s.ownsCore p x.lcore || decide (6 < gUnit x.word)
  let lost := fun (x : Grain) => !null x && (s.core x.lcore).lost
  let bad := gs.filter null
  let gone := gs.filter lost
  let ok := gs.filter (fun x => !null x && !lost x)
  let s := match cores.find? (fun c => !s.ownsCore p c || bad.any (fun x => x.lcore == c)) with
    | none => s
    | some c => s.planFault p r.plan k (if s.ownsCore p c then 4 else 3) c
  let s := (bad ++ gone).foldl (fun s x => s.skipStatus p x.statPva (gId x.word)) s
  let s := if cores.any (fun c => s.ownsCore p c && (s.core c).lost) then s.failRun p r.id 4 else s
  let s := ((ok.map (fun x => x.lcore)).eraseDups).foldl (fun s c =>
    if s.rd F.cadGrainMax < sumOf ((ok.filter (fun x => x.lcore == c)).map (fun x => s.budget x.word)) then s.planFault p r.plan k 5 c else s) s
  s.modCad p (fun c => { c with work := c.work ++ ok })

/-- A tick plan that failed its check or could not be read (R67): no grain of it, no further tick, and the step cannot
commit; the queued steps move up. -/
def State.planFailed (s : State) (p : Nat) (r : StepRun) (k cause : Nat) : State :=
  let s := s.planFault p r.plan k cause 0x1FF
  let s := (s.modStep p r.id (fun y => { y with stopped := true })).failRun p r.id 1
  (s.placeSteps p).stepLook p

/-- TICK_PLAN_CHECK (R66): the next tick plan of a partition whose fetch is due. -/
def State.planCheck (s : State) (p : Nat) : State :=
  match (s.part p).cad.steps.find? (fun r => !r.stopped && !r.replay && decide (r.checked < r.nticks)) with
  | none => s
  | some r =>
    let k := r.checked
    if s.tick + s.rd F.pRunahead p + 1 < r.first + k || (r.phase == .queued && s.stepBlocked p r) || s.pstate p != 2 then s
    else match s.readPlan p r k with
      | (none, s) => s.planFailed p r k 2
      | (some b, s) =>
        if !tickPlanOk b k || !s.mapped p (s.part p).rt (r.statPva + k * r.statStride) (b.length / 2) true then s.planFailed p r k 1
        else
          let s := s.modStep p r.id (fun y => { y with checked := k + 1 })
          (s.releaseGrains p r k (planCores b) (planGrains r b k)).stepLook p

/-! ## Descriptors 0x10 to 0x13 -/

/-- The kicked steps of partition p that have not begun. -/
def State.queuedSteps (s : State) (p : Nat) : Nat := ((s.part p).cad.steps.filter (fun r => r.phase == .queued)).length

/-- Whether the step queue of partition p has a place for a kick whose turn has come (R72). -/
def State.stepRoom (s : State) (p : Nat) : Bool := decide (s.queuedSteps p < 4)

/-- Whether the module consumes another kick of partition p (R72): kicks that wait behind a FENCE have their places. -/
def State.kickRoom (s : State) (p : Nat) : Bool :=
  let waits := sumOf ((List.range 64).map (fun k => match s.ring? (pairKey p k) with
    | some x => (x.waiting.filter (fun w => w.1 == 0x10)).length
    | none => 0))
  decide (s.queuedSteps p + waits < 4)

/-- Descriptor 0x10 (R72 to R74). -/
def State.runKick (r : DRef) (d : Desc) (s : State) : State :=
  let p := r.part
  let n := d.fld 0 8
  match s.livePlan p n with
  | none => s.nullDesc r planNull n
  | some x =>
    let c := (s.part p).cad
    let y : StepRun := ⟨c.nextRun, n, d.at 24 64, some r, s.tick + 1, 0, x.nticks, x.statStride, x.tptPva, x.statPva, .queued, 0, none, none,
      false, [], false, false⟩
    ((s.modCad p (fun c => { c with steps := c.steps ++ [y], nextRun := c.nextRun + 1 })).placeSteps p).countSteps p

/-- The checks of R73 on a step plan header. HCRC covers bytes 0 to 31 and 36 to 63 (Table 2-2): its own four bytes are in neither
span, and the message is those 60 bytes (DEDUCED, notes/assumptions/98.md). -/
def planHdrOk (b : List Byte) : Bool :=
  leAt b 0 1 == 0x10 && leAt b 2 2 != 0 && leAt b 4 4 % 64 == 0 && leAt b 32 4 == crc32c (bytesAt b 0 32 ++ bytesAt b 36 28)

/-- Descriptor 0x11 (R73). -/
def State.runPlanRegister (r : DRef) (d : Desc) (s : State) : State :=
  let p := r.part
  let n := d.fld 0 8
  if thas (s.part p).cad.plans n then s.nullDesc r planNull n
  else match s.descRead p (d.at 24 64) 64 with
    | (none, s) => s.noop r
    | (some b, s) =>
      let x : Plan := ⟨leAt b 2 2, leAt b 4 4, leAt b 8 8, leAt b 16 8, none⟩
      if planHdrOk b && s.mapped p (s.part p).rt x.tptPva (8 * x.nticks) false then
        (s.modCad p (fun c => { c with plans := tput c.plans n x })).done r
      else s.nullDesc r planNull n

/-- Descriptor 0x12 (R73, R662). -/
def State.runPlanRelease (r : DRef) (d : Desc) (s : State) : State :=
  let p := r.part
  let n := d.fld 0 8
  match s.livePlan p n with
  | none => s.nullDesc r planNull n
  | some x => (s.modCad p (fun c => { c with plans := tput c.plans n { x with releasing := some r } })).planTryRelease p n

/-- Descriptor 0x13 (R72): queued kicks complete as held; the hold completes when the running step ends. -/
def State.runStepHold (r : DRef) (_d : Desc) (s : State) : State :=
  let p := r.part
  let held := (s.part p).cad.steps.filter (fun y => y.phase == .queued)
  let s := held.foldl (fun s y => ((s.discardShards p y.id).completeStep p y 3 0).leaveStep p y) s
  if s.actives p = [] then s.done r else s.modCad p (fun c => { c with holds := c.holds ++ [r] })

/-! ## Descriptors 0x14 to 0x16 (R216) -/

/-- Descriptor 0x14. -/
def State.runShardRegister (r : DRef) (d : Desc) (s : State) : State :=
  let p := r.part
  let n := d.fld 0 12
  match s.descRead p (d.at 24 64) 128 with
  | (none, s) => s.noop r
  | (some b, s) =>
    if (s.shard? p n).isSome || !s.shardOk p b then s.nullDesc r shardNull n
    else ((s.putShard p n (shardOf b)).countShards p).done r

/-- Descriptor 0x15. -/
def State.runShardRelease (r : DRef) (d : Desc) (s : State) : State :=
  let p := r.part
  let n := d.fld 0 12
  match s.shard? p n with
  | none => s.nullDesc r shardNull n
  | some x =>
    if x.releasing.isSome then s.nullDesc r shardNull n
    else (s.putShard p n { x with releasing := some r }).shardTryRelease p n

/-- Descriptor 0x16. -/
def State.runShardQuery (r : DRef) (d : Desc) (s : State) : State :=
  let p := r.part
  let n := d.fld 0 12
  match s.shard? p n with
  | none => s.nullDesc r shardNull n
  | some x =>
    if x.releasing.isSome then s.nullDesc r shardNull n
    else
      let (bad, s) := s.writePva (s.engCtx p engDesc) (d.at 24 64) x.image false
      if bad then s.noop r else s.done r

/-! ## Digest trees (R225) -/

/-- DIGEST_ROOT_FORMED (R225 to R228): the tree of a shard whose SH_LAST grain has completed; while both SHA3 engines are in reset none is
formed (Table 17-6). -/
def State.rootFormed (s : State) (p i : Nat) : State :=
  match s.shard? p i with
  | none => s
  | some x =>
    if !x.pend || !x.lastDone || x.broken || x.rootNew.isSome || s.replaying p x.run || fldN (s.rd F.rstEngInr) 18 2 = 3 then s
    else (((s.formRoot p i x).sendRoots p i).rootsLook p i).stepLook p

/-! ## The commands -/

def execTickPlanCheck (p : PartId) (s : State) : Host.Outcome State Fault Refusal := finish (s.planCheck p.val)

def execStepBegin (p : PartId) (s : State) : Host.Outcome State Fault Refusal := finish (s.stepBegin p.val)

def execGrainStart (c : Fin 288) (ofs : Word) (s : State) : Host.Outcome State Fault Refusal := finish (s.grainStart c.val ofs.toNat)

def execGrainComplete (c : Fin 288) (ofs : Word) (s : State) : Host.Outcome State Fault Refusal := finish (s.grainComplete c.val ofs.toNat)

def execGrainOverrun (c : Fin 288) (s : State) : Host.Outcome State Fault Refusal := finish (s.grainOverrun c.val)

def execHangFence (c : Fin 288) (s : State) : Host.Outcome State Fault Refusal := finish (s.hangFence c.val)

def execDelayGrainElapsed (c : Fin 288) (s : State) : Host.Outcome State Fault Refusal := finish (s.delayElapsed c.val)

def execDigestRootFormed (p : PartId) (i : Fin 4096) (s : State) : Host.Outcome State Fault Refusal := finish (s.rootFormed p.val i.val)

def execCoreUncorrectableError (c : Fin 288) (s : State) : Host.Outcome State Fault Refusal := finish (s.fenceCore c.val)

def execCoreRebuildComplete (c : Fin 288) (times : List (Word × Word)) (s : State) : Host.Outcome State Fault Refusal :=
  finish (s.rebuilt c.val (times.map (fun t => (t.1.toNat, t.2.toNat))))

/-- A kick is not consumed while the step queue is full (R72). -/
def execStepKick (d : Desc) (s : State) : Host.Outcome State Fault Refusal :=
  finish (if s.kickRoom d.part.val then (withDesc 0x10 d s State.runKick).demandIssue else s)

def execPlanRegister (d : Desc) (s : State) : Host.Outcome State Fault Refusal := finish (withDesc 0x11 d s State.runPlanRegister).demandIssue

def execPlanRelease (d : Desc) (s : State) : Host.Outcome State Fault Refusal := finish (withDesc 0x12 d s State.runPlanRelease).demandIssue

def execStepHold (d : Desc) (s : State) : Host.Outcome State Fault Refusal := finish (withDesc 0x13 d s State.runStepHold).demandIssue

def execShardRegister (d : Desc) (s : State) : Host.Outcome State Fault Refusal := finish (withDesc 0x14 d s State.runShardRegister).demandIssue

def execShardRelease (d : Desc) (s : State) : Host.Outcome State Fault Refusal := finish (withDesc 0x15 d s State.runShardRelease).demandIssue

def execShardQuery (d : Desc) (s : State) : Host.Outcome State Fault Refusal := finish (withDesc 0x16 d s State.runShardQuery).demandIssue

end Sys2Proof.Machine
end

