-- ==== Sys2Proof/Machine/Settle.lean ====
section
/-! DEFINITION. The close of a command that may have moved the transport: each engine hears of the ends of what it sent, and
the steps that wait on them are looked at again. -/
namespace Sys2Proof.Machine

/-- A failed channel ends the list entries and the permute that depend on it (R418, R442). -/
def State.chanEnds (s : State) : State :=
  (s.net.ends.filter (fun e => e.1 == 5)).foldl (fun s e =>
    let s := { s with net := { s.net with ends := s.net.ends.erase e } }
    (s.entriesFailed (e.2.1 % 64) (e.2.1 / 64)).permChanFailed (e.2.1 % 64) (e.2.1 / 64)) s

/-- Every end told to its engine; what an engine sends in answer may end in turn. -/
def State.settleEnds (s : State) : State :=
  iterN 4 (fun _ s => if s.net.ends = [] then s else s.tierEnds.entryEnds.permEnds.ckptEnds.chanEnds) s

/-- The oldest steps of every partition looked at (R463, R464). -/
def State.stepsLook (s : State) : State := s.liveParts.foldl (fun s p => s.stepLook p) s

/-! ## PMODE (R353) -/

/-- Every channel sends what it may. -/
def State.pumpAll (s : State) : State := s.net.chans.foldl (fun s e => s.pump e.1) s

/-- The mode R353 gives a port: down without link, maintenance before the first boundary after the module seal, during a port
test and while the module is held, else service. -/
def State.pmodeOf (s : State) (n : Nat) : Nat :=
  if !s.flag F.npLink n || s.rd F.npSpeed n = 0 then pmDown
  else if !s.net.sealPassed || (s.nport n).test.isSome || s.moduleHeld then pmMaint
  else pmService

/-- PMODE of a port brought to the mode R353 gives it; a port that leaves service withdraws its addresses on the channels that
used it, and one that comes back restores them (R386). -/
def State.pmodeLook (s : State) (n : Nat) : State :=
  let old := s.rd F.npPmode n
  let s := s.setPmode n (s.pmodeOf n)
  let new := s.rd F.npPmode n
  if old = new then s
  else if new = pmService then (s.sendAddrs n 2).pumpAll
  else if old = pmService then s.sendAddrs n 1
  else s

/-- PMODE of every port, and the JOINs owed once a port can carry them. -/
def State.pmodesLook (s : State) : State := s.liveParts.foldl State.joinLook (iterN 8 (fun n s => s.pmodeLook n) s)

/-- The close of a command of the network side: what waits on the tier engine is looked at as well, and an entry into hold, or a way out of it, moves the ports' modes. -/
def closing (s : State) : Host.Outcome State Fault Refusal := finish s.settleEnds.stepsLook.tierLook.demandIssue.pmodesLook

end Sys2Proof.Machine
end

