-- ==== Sys2Proof/Machine/GnoxelCmd.lean ====
section
/-! DEFINITION. The commands of Gnoxel (11_gnoxel_transport.md): descriptors 0x30 to 0x35, the packets received, and the
timeouts of a channel. -/
namespace Sys2Proof.Machine

/-! ## Descriptors (Table 11-4) -/

/-- Descriptor 0x30 (R382, R410, R550, R552): QUEUE, GRANT_TICK and, for a confidential partition, ENC are clamped; an open
R382 does not let be consumed names the null resource. -/
def State.runOpen (r : DRef) (d : Desc) (s : State) : State :=
  let p := r.part
  let mode := d.fld 25 2
  let q := d.fld 22 3
  let cutQ := mode != 2 && 5 < q
  let g := d.fld 48 16
  let secret := s.confidential p && d.fld 27 1 == 0
  let n := d.fld 32 6
  let a : ChanAsk :=
    { part := p, cid := d.fld 0 16, peerPart := d.fld 16 6, queue := if cutQ then 5 else q, mode := mode,
      enc := d.fld 27 1 == 1 || secret, kslot := d.fld 28 4, npath := if n = 0 then 64 else n, grantTick := Nat.max 1 g,
      pkey := d.at 24 32, peerIp := d.addr 32 }
  if !s.mayOpen a then s.nullDesc r gnxNull a.cid
  else
    let s := if cutQ then s.clampDesc r 2 0x0608 q 5 else s
    let s := if g = 0 then s.clampDesc r 1 0x0609 0 1 else s
    let s := if secret then s.clampDesc r 8 0x060C 0 1 else s
    let r := { r with clamped := r.clamped || cutQ || g == 0 || secret }
    match s.openChan a (.desc r) with
    | (some _, s) => s
    | (none, s) => s.nullDesc r gnxNull a.cid

/-- The established channel a descriptor's HANDLE names. -/
def State.openChan? (s : State) (p h : Nat) : Option (Nat × Chan) :=
  match s.chan? p h with
  | none => none
  | some (cid, c) => if c.state = 2 then some (cid, c) else none

/-- Descriptor 0x31 (R388). -/
def State.runClose (r : DRef) (d : Desc) (s : State) : State :=
  let h := d.at 16 32
  match s.openChan? r.part h with
  | none => s.nullDesc r gnxNull h
  | some (cid, _) => (s.closeChan cid 5).done r

/-- Descriptor 0x32 (R393, R404): LENGTH held to 64 B to 16 MiB; a PVA that does not translate ends it with 0x0B. -/
def State.runPost (r : DRef) (d : Desc) (s : State) : State :=
  let p := r.part
  let h := d.at 16 32
  let v := d.at 32 32
  let n := clampN v 64 (2 ^ 24)
  match s.openChan? p h with
  | none => s.nullDesc r gnxNull h
  | some (cid, c) =>
    let s := if n = v then s else s.clampDesc r (if v < n then 1 else 2) 0x060A v n
    let r := { r with clamped := r.clamped || n != v }
    if !s.mapped p (s.part p).rt (d.at 24 64) n false then s.complete r 0x0B false 0
    else
      let s := s.postBuf cid (d.at 20 32) (d.at 24 64) n (.desc r)
      if c.credits then s.grant cid false else s

/-- Descriptor 0x33 (R397): the oldest posted buffer of the TAG. -/
def State.runRevoke (r : DRef) (d : Desc) (s : State) : State :=
  let h := d.at 16 32
  match s.openChan? r.part h with
  | none => s.nullDesc r gnxNull h
  | some (cid, c) =>
    match c.bufs.find? (fun b => b.tag == d.at 20 32 && (match b.owner with | .desc _ => true | .engine _ _ => false)) with
    | none => s.noop r
    | some b => (s.revoke cid b).done r

/-- Descriptor 0x34 (R390). -/
def State.runSend (r : DRef) (d : Desc) (s : State) : State :=
  let h := d.at 16 32
  let v := d.at 32 32
  let n := Nat.min v (2 ^ 24)
  match s.openChan? r.part h with
  | none => s.nullDesc r gnxNull h
  | some (cid, _) =>
    let s := if n = v then s else s.clampDesc r 2 0x060B v n
    s.sendMsg cid (d.at 24 64) n none (.desc { r with clamped := r.clamped || n != v })

/-- The channel record (Table 11-5). -/
def Chan.record (c : Chan) (cid : Nat) : List Byte :=
  let ps := maskOf c.paths
  leBytes 4 (c.handle cid) ++ leBytes 1 c.version ++ leBytes 1 c.state ++ leBytes 2 (ps % 2 ^ 16) ++ leBytes 8 c.posted ++
    leBytes 8 c.consumed ++ leBytes 8 c.returned ++ leBytes 8 c.msgStart ++ leBytes 8 c.msgDone ++ leBytes 8 c.grantSeen ++
    leBytes 8 c.used ++ leBytes 8 c.expired ++ leBytes 4 c.rate ++ leBytes 4 c.alpha ++ leBytes 4 c.srtt ++ leBytes 4 c.retx ++
    leBytes 8 (ps / 2 ^ 16) ++ List.replicate 32 0

/-- Descriptor 0x35. -/
def State.runQuery (r : DRef) (d : Desc) (s : State) : State :=
  let h := d.at 16 32
  match s.chan? r.part h with
  | none => s.nullDesc r gnxNull h
  | some (cid, c) =>
    let (bad, s) := s.writePva (s.engCtx r.part engDesc) (d.at 24 64) (c.record cid) false
    if bad then s.noop r else s.done r

def execChannelOpen (d : Desc) (s : State) : Host.Outcome State Fault Refusal := closing (withDesc 0x30 d s State.runOpen)

def execChannelClose (d : Desc) (s : State) : Host.Outcome State Fault Refusal := closing (withDesc 0x31 d s State.runClose)

def execBufferPost (d : Desc) (s : State) : Host.Outcome State Fault Refusal := closing (withDesc 0x32 d s State.runPost)

def execBufferRevoke (d : Desc) (s : State) : Host.Outcome State Fault Refusal := closing (withDesc 0x33 d s State.runRevoke)

def execSend (d : Desc) (s : State) : Host.Outcome State Fault Refusal := closing (withDesc 0x34 d s State.runSend)

def execChannelQuery (d : Desc) (s : State) : Host.Outcome State Fault Refusal := closing (withDesc 0x35 d s State.runQuery)

/-! ## Opening (R383, R384) -/

/-- OPEN_RESEND (R383). -/
def execOpenResend (cid : Fin 16384) (s : State) : Host.Outcome State Fault Refusal :=
  match tget? s.net.chans cid.val with
  | none => finish s
  | some c => finish (if c.state = 1 then s.sendOpen cid.val else s)

/-- OPEN_TIMEOUT (R384): OPEN_TMO has passed as the command says. -/
def execOpenTimeout (cid : Fin 16384) (s : State) : Host.Outcome State Fault Refusal :=
  match tget? s.net.chans cid.val with
  | none => finish s
  | some c => if c.state = 1 then closing (s.refuseOpen cid.val 2 chTimedOut) else finish s

/-- Whether a received OPEN matches a pending open (R383). -/
def State.openMatches (s : State) (o : GnxOpen) (c : Chan) : Bool :=
  c.state == 1 && !c.ackSent && c.part == o.peerPart.toNat && c.peerPart == o.part.toNat && c.pkey == o.pkey.toNat &&
    o.addrs.any (fun a => a.toNat == c.peerIp) &&
    (s.localPorts c).any (fun n => s.portAddr n (isV6 c.peerIp) == o.dst.toNat)

/-- OPEN_ACK of a channel: the agreed version, both CIDs, both nonces (Table 11-3). -/
def State.sendOpenAck (s : State) (cid : Nat) : State :=
  match tget? s.net.chans cid with
  | none => s
  | some c => s.sendCtl cid 5 0 [c.version, cid, c.peerCid, c.nonce, c.peerNonce]

/-- The highest version two ranges share (R45); none when they share none. -/
def agreedVersion (lo hi lo' hi' : Nat) : Option Nat :=
  let v := Nat.min hi hi'
  if lo ≤ hi && lo' ≤ hi' && lo ≤ v && lo' ≤ v then some v else none

/-- OPEN_RX (R45, R46, R378, R383, R384): the matching pending open consumed first is answered, or refused; an OPEN already
answered is answered again. -/
def State.openRx (s : State) (o : GnxOpen) : State :=
  match s.net.chans.find? (fun e => e.2.ackSent && e.2.peerNonce == o.nonce.toNat && e.2.peerCid == o.scid.toNat && e.2.part == o.peerPart.toNat) with
  | some (cid, _) => s.sendOpenAck cid
  | none =>
    match (s.net.chans.filter (fun e => s.openMatches o e.2)).mergeSort (fun a b => decide (a.2.order ≤ b.2.order)) with
    | [] => s
    | (cid, c) :: _ =>
      match s.localPorts c with
      | [] => s
      | port :: _ =>
        let mine := s.rd F.idGnxMin + 256 * s.rd F.idGnxMax
        match agreedVersion (s.rd F.idGnxMin) (s.rd F.idGnxMax) o.lo.toNat o.hi.toNat with
        | none =>
          (s.event 0x03 c.part [2, c.handle cid, mine, o.lo.toNat + 256 * o.hi.toNat, 0]).refuseOpen cid 3 chRefused
        | some v =>
          if c.mode != o.mode.val || c.enc != o.enc then s.refuseOpen cid 4 chRefused
          else
            let c := { c with version := v, peerNonce := o.nonce.toNat, peerCid := o.scid.toNat, peerLo := o.lo.toNat, peerHi := o.hi.toNat, addrs := o.addrs.map BitVec.toNat,
                              ackSent := true, maxPay := maxPayOf (Nat.min (s.rd F.npMtu port) o.mtu.toNat) (isV6 c.peerIp) c.enc }
            ((s.setChan cid c).sendOpenAck cid).establish cid

def execOpenRx (o : GnxOpen) (s : State) : Host.Outcome State Fault Refusal :=
  closing ((s.heard (s.liveParts.contains o.peerPart.toNat)).openRx o)

/-- OPEN_ACK_RX (R383): the echo of the own nonce tells the open it answers; once a version is agreed the packet must carry it (R380). -/
def State.openAckRx (s : State) (h : GnxHdr) (nonce peerNonce : Nat) : State :=
  let cid := h.dcid.toNat
  match tget? s.net.chans cid with
  | none => s.inc F.gnxUnkCid 1
  | some c =>
    if (if c.ackSent then h.ver.toNat != c.version else decide (s.rd F.idGnxMax < h.ver.toNat)) then s.inc F.gnxVerDrop 1
    else if h.pkey.toNat != c.pkey then s.violation cid h 3 0
    else if c.state != 1 || c.nonce != nonce || (c.ackSent && c.peerNonce != peerNonce) then s
    else (s.setChan cid { c with ackSeen := true }).establish cid

/-! ## Packets of an open channel -/

/-- What an ACK reports of a flight: acknowledged. -/
def ackHas (cum : Nat) (sack : Nat) (psn : Nat) : Bool := decide (psn < cum) || (decide (cum < psn) && decide (psn ≤ cum + 256) && bitN sack (psn - cum - 1))

/-- SRTT after a sample (R400). -/
def srttStep (srtt sample : Nat) : Nat := (7 * srtt + sample) / 8

/-- The fields of a received ACK and of a CREDIT, in the order of Tables 11-6 and 11-7. -/
def ackFields (b : GnxAck) : List Nat :=
  [b.cumPsn.toNat, b.sack.toNat, b.posted.toNat, b.ret.toNat, b.rcvBytes.toNat, b.ceBytes.toNat, b.echo.toNat, b.msnLow.toNat]
def creditFields (b : GnxCredit) : List Nat := [b.grant.toNat, b.slotTick.toNat, b.slotCum.toNat, b.posted.toNat]

/-- ACK_RX (R391, R400, R401): the counts announced are taken, the packets reported acknowledged, those overtaken on their own
path lost, complete messages end, and sending goes on. now is the low half of cluster time in ns at the ACK. -/
def State.ackRx (s : State) (h : GnxHdr) (b : GnxAck) (now : Nat) : State :=
  match s.gnxCheck h (ctlBytes 2 (ackFields b)) with
  | (none, s) => s
  | (some (cid, c), s) =>
    match unwrapN 32 c.cumAcked b.cumPsn.toNat with
    | none => s
    | some cum =>
      let cum := Nat.min cum c.nextPsn
      let got := fun (f : Flight) => ackHas cum b.sack.toNat f.psn
      let acked := c.flights.filter got
      let lost := c.flights.filter (fun f => !got f && acked.any (fun g => g.path == f.path && decide (f.psn < g.psn)))
      let dr := b.rcvBytes.toNat - c.peerRcv
      let dc := b.ceBytes.toNat - c.peerCe
      let old := tgetD c.pathAcked h.path.val (0, 0)
      let c := { c with
        cumAcked := Nat.max c.cumAcked cum, peerPosted := Nat.max c.peerPosted b.posted.toNat, peerRet := Nat.max c.peerRet b.ret.toNat,
        peerRcv := Nat.max c.peerRcv b.rcvBytes.toNat, peerCe := Nat.max c.peerCe b.ceBytes.toNat,
        pathAcked := if dr = 0 then c.pathAcked else tput c.pathAcked h.path.val (old.1 + dr, old.2 + dc),
        srtt := if b.echo = 0 then c.srtt else srttStep c.srtt ((now + 2 ^ 32 - b.echo.toNat) % 2 ^ 32) }
      let c := acked.foldl Chan.ackFlight c
      let (dead, c) := lost.foldl (fun (a : Bool × Chan) f => let (d, c) := a.2.lose f s.tick (s.rd F.gnxRetryMax); (a.1 || d, c)) (false, c)
      let s := s.setChan cid c
      let s := s.endAcked cid ((unwrapN 24 (((c.sends.head?).map (fun m => m.msn)).getD c.nextMsn) b.msnLow.toNat).getD 0)
      if dead then s.failChan cid 6 chFailed else s.pump cid

/-- CREDIT_RX (R391, R403, R405). -/
def State.creditRx (s : State) (h : GnxHdr) (b : GnxCredit) : State :=
  match s.gnxCheck h (ctlBytes 3 (creditFields b)) with
  | (none, s) => s
  | (some (cid, c), s) =>
    let c := { c with grantSeen := Nat.max c.grantSeen b.grant.toNat, peerPosted := Nat.max c.peerPosted b.posted.toNat }
    let k := b.slotTick.toNat
    let c :=
      if c.mode != 2 || c.version = 0x10 || k < c.slotSeenTick then c
      else if k = c.slotSeenTick then { c with slotSeen := Nat.max c.slotSeen b.slotCum.toNat }
      else match c.slotNext with
        | none => { c with slotNext := some (k, b.slotCum.toNat) }
        | some (j, n) => if k < j then c else { c with slotNext := some (k, Nat.max n b.slotCum.toNat) }
    (s.setChan cid (c.slotTurn s.tick false)).pump cid

/-- CLOSE_RX (R388): a closing end is acknowledged by it; an open one closes its end and says so. -/
def State.closeRx (s : State) (h : GnxHdr) (reason : Nat) : State :=
  match s.gnxCheckIn [2, 3] h (ctlBytes 6 [reason]) with
  | (none, s) => s
  | (some (cid, c), s) => if c.state = 3 then s.delChan cid else ((s.closeChan cid 5).chanEvent cid chPeerClosed).delChan cid

/-- ADDR_RX (R386, R387): the peer's address withdrawn, or restored; sending resumes where it may. -/
def State.addrRx (s : State) (h : GnxHdr) (addr : Nat) (withdrawn : Bool) : State :=
  match s.gnxCheck h (ctlBytes 7 [addr, if withdrawn then 1 else 2]) with
  | (none, s) => s
  | (some (cid, c), s) =>
    let w := c.withdrawn.filter (fun a => a != addr)
    (s.setChan cid { c with withdrawn := if withdrawn then w ++ [addr] else w }).pump cid

/-- A VIOL_ACK (R408), sent to where the VIOL came from: by the channel it names when the sender is that channel's peer, else in clear from
the lowest port in service. -/
def State.sendViolAck (s : State) (h : GnxHdr) : State :=
  let cid := h.dcid.toNat
  let plain := fun (s : State) =>
    match s.servicePorts (isV6 h.src.toNat) with
    | [] => s
    | port :: _ =>
      let (t, s) := s.clock
      let head := { rcvHead h with type := 9, last := false, enc := false, solicit := false, path := 0, dcid := h.scid.toNat, scid := cid,
                                   psn := 0, msn := 0, offset := 0, plen := 8, tstamp := t % 2 ^ 32 }
      s.xmit true ⟨port, 5, gnxFrame (isV6 h.src.toNat) false 8, noPart, .gnx h.src.toNat (srcPort cid 0) head (ctlBytes 9 [h.psn.toNat]) []⟩
  match tget? s.net.chans cid with
  | none => plain s
  | some c => if c.state = 2 && c.peerCid = h.scid.toNat then s.sendCtl cid 9 h.path [h.psn.toNat] else plain s

/-- VIOL_RX (R408, Table 11-8): acknowledged and reported even when it names no open channel; of the checks of R380 the version alone applies,
for the sender of a VIOL need not be the channel's peer (notes/assumptions/113.md). -/
def State.violRx (s : State) (h : GnxHdr) (code msn ofs : Nat) : State :=
  if (match tget? s.net.chans h.dcid.toNat with | some c => c.state == 2 && h.ver.toNat != c.version | none => false) then s.inc F.gnxVerDrop 1
  else if code < 1 || 5 < code then s.inc F.gnxMalformed 1
  else
    let s := s.sendViolAck h
    let cid := h.dcid.toNat
    let tell := fun (s : State) (p : Option Nat) (handle : Nat) =>
      s.violEvent p handle 2 code h.src.toNat cid h.scid.toNat msn ofs 0
    match tget? s.net.chans cid with
    | none => tell s none 0xFFFFFFFF
    | some c =>
      if c.state != 2 then tell s none 0xFFFFFFFF
      else
        let s := tell s (some c.part) (c.handle cid)
        let stop := fun (s : State) (st : Nat) =>
          match c.sends.find? (fun m => m.started && m.msn % 2 ^ 24 == msn) with
          | none => s
          | some m => (s.endSend cid m st).pump cid
        match code with
        | 1 => stop s 8
        | 2 => stop s 9
        | 3 => s.failChan cid 6 chFailed
        | 4 => stop s 0x0A
        | _ => s

/-- VIOL_ACK_RX (R407): the VIOL whose PSN it echoes is repeated no more. -/
def State.violAckRx (s : State) (h : GnxHdr) (psn : Nat) : State :=
  match s.gnxCheck h (ctlBytes 9 [psn]) with
  | (none, s) => s
  | (some (cid, _), s) => s.modChan cid (fun c => { c with viols := c.viols.filter (fun v => v.psn != psn) })

/-- NAK_RX (R393): the refused range waits a tick; its packet is no loss. -/
def State.nakRx (s : State) (h : GnxHdr) (msn ofs : Nat) : State :=
  match s.gnxCheck h (ctlBytes 10 [msn, ofs, 1]) with
  | (none, s) => s
  | (some (cid, c), s) =>
    match c.sends.find? (fun m => m.started && m.msn % 2 ^ 24 == msn) with
    | none => s
    | some m =>
      match c.flights.find? (fun f => f.msn == m.msn && f.offset == ofs) with
      | none => s
      | some f =>
        (s.setChan cid { c with
          flights := c.flights.erase f,
          sends := c.sends.map (fun x => if x.msn = m.msn then { x with refused := x.refused ++ [(ofs, s.tick, f.tries)] } else x) }).inc F.pRnr 1 c.part

/-! ## The engine of a hub (R379) -/

/-- A received packet at its channel's engine. -/
def State.gnxIn (s : State) (x : GnxIn) : State :=
  match x with
  | .openAck h nonce peerNonce => s.openAckRx h nonce.toNat peerNonce.toNat
  | .data h payload => s.dataRx h payload
  | .ack h b now => s.ackRx h b now.toNat
  | .credit h b => s.creditRx h b
  | .close h reason => s.closeRx h reason.toNat
  | .addr h a withdrawn => s.addrRx h a.toNat withdrawn
  | .viol h code msn ofs => s.violRx h code.toNat msn.toNat ofs.toNat
  | .violAck h psn => s.violAckRx h psn.toNat
  | .nak h msn ofs => s.nakRx h msn.toNat ofs.toNat

/-- The channel a packet names at this end (Table 11-2). -/
def gnxDcid (x : GnxIn) : Nat :=
  match x with
  | .openAck h _ _ | .data h _ | .ack h _ _ | .credit h _ | .close h _ | .addr h _ _ | .viol h _ _ _ | .violAck h _ | .nak h _ _ => h.dcid.toNat

/-- A packet that arrives goes to the engine of its channel's hub, HD2 for an even CID and HD3 for an odd one (R379); it is held while that
hub's stop is in reset (Table 17-6). -/
def State.gnxArrive (s : State) (x : GnxIn) : State :=
  if s.hubStopped (gnxDcid x % 2) then { s with net := { s.net with heldRx := s.net.heldRx ++ [x] } } else s.gnxIn x

/-- The packets a hub's stop held, in their order, once it is released: those received, then those to send. -/
def State.hubResume (s : State) (h : Nat) : State :=
  let rx := s.net.heldRx.filter (fun x => gnxDcid x % 2 == h)
  let tx := s.net.heldTx.filter (fun f => f.hub == some h)
  let s := { s with net := { s.net with heldRx := s.net.heldRx.filter (fun x => gnxDcid x % 2 != h),
                                        heldTx := s.net.heldTx.filter (fun f => f.hub != some h) } }
  (tx.foldl (fun s f => s.xmit (f.queue != 7) f) (rx.foldl State.gnxIn s)).pumpAll

/-- A packet heard, and taken where it goes: it is for a partition when it names a channel (R609). -/
def State.gnxHeard (s : State) (x : GnxIn) : State := (s.heard (thas s.net.chans (gnxDcid x))).gnxArrive x

def execOpenAckRx (h : GnxHdr) (nonce peerNonce : BitVec 128) (s : State) : Host.Outcome State Fault Refusal :=
  closing (s.gnxHeard (.openAck h nonce peerNonce))

/-- DATA_RX (R380, R392 to R399). -/
def execDataRx (h : GnxHdr) (payload : List Byte) (s : State) : Host.Outcome State Fault Refusal := closing (s.gnxHeard (.data h payload))

def execAckRx (h : GnxHdr) (b : GnxAck) (now : Word) (s : State) : Host.Outcome State Fault Refusal := closing (s.gnxHeard (.ack h b now))

def execCreditRx (h : GnxHdr) (b : GnxCredit) (s : State) : Host.Outcome State Fault Refusal := closing (s.gnxHeard (.credit h b))

def execCloseRx (m : CloseIn) (s : State) : Host.Outcome State Fault Refusal := closing (s.gnxHeard (.close m.h m.reason))

def execAddrRx (h : GnxHdr) (addr : BitVec 128) (withdrawn : Bool) (s : State) : Host.Outcome State Fault Refusal :=
  closing (s.gnxHeard (.addr h addr withdrawn))

def execViolRx (h : GnxHdr) (code : Byte) (msn : BitVec 24) (ofs : Word) (s : State) : Host.Outcome State Fault Refusal :=
  closing (s.gnxHeard (.viol h code msn ofs))

def execViolAckRx (h : GnxHdr) (psn : Word) (s : State) : Host.Outcome State Fault Refusal := closing (s.gnxHeard (.violAck h psn))

def execNakRx (h : GnxHdr) (msn : BitVec 24) (ofs : Word) (s : State) : Host.Outcome State Fault Refusal :=
  closing (s.gnxHeard (.nak h msn ofs))

/-- NAK_RESEND (R393): the ranges of a channel refused a tick ago go again; no retry is counted, and no path is avoided. -/
def State.nakResend (s : State) (cid : Nat) : State :=
  match tget? s.net.chans cid with
  | none => s
  | some c =>
    let due := fun (x : Nat × Nat × Nat) => decide (x.2.1 + 1 ≤ s.tick)
    (s.setChan cid { c with sends := c.sends.map (fun m => { m with
      again := m.again ++ (m.refused.filter due).map (fun x => (x.1, x.2.2, 64)), refused := m.refused.filter (fun x => !due x) }) }).pump cid

def execNakResend (cid : Fin 16384) (s : State) : Host.Outcome State Fault Refusal := closing (s.nakResend cid.val)

/-! ## Timeouts -/

/-- Whether a channel has neither list L nor list A empty (R385, R387). -/
def State.hasPath (s : State) (c : Chan) : Bool := s.localPorts c != [] && c.remotes != []

/-- RETRANSMIT_TIMEOUT (R400 to R402): RTO has passed for a packet, as the command says; loss timers do not run without a
path. -/
def State.rtoOver (s : State) (cid psn : Nat) : State :=
  match tget? s.net.chans cid with
  | none => s
  | some c =>
    match c.flights.find? (fun f => f.psn % 2 ^ 32 == psn) with
    | none => s
    | some f =>
      if c.state != 2 || !s.hasPath c then s
      else match { c with timedOut := true }.lose f s.tick (s.rd F.gnxRetryMax) with
        | (true, c) => (s.setChan cid c).failChan cid 6 chFailed
        | (false, c) => (s.setChan cid c).pump cid

def execRetransmitTimeout (cid : Fin 16384) (psn : Word) (s : State) : Host.Outcome State Fault Refusal :=
  closing (s.rtoOver cid.val psn.toNat)

/-- NO_PATH_TIMEOUT (R387): OPEN_TMO has passed, as the command says, with a list still empty. -/
def execNoPathTimeout (cid : Fin 16384) (s : State) : Host.Outcome State Fault Refusal :=
  match tget? s.net.chans cid.val with
  | none => finish s
  | some c => if c.state = 2 && !s.hasPath c then closing (s.failChan cid.val 6 chNoPath) else finish s

/-- CLOSE_TIMEOUT (R388): 16 ticks after a close. -/
def execCloseTimeout (cid : Fin 16384) (s : State) : Host.Outcome State Fault Refusal :=
  match tget? s.net.chans cid.val with
  | none => finish s
  | some c => if c.state = 3 && decide (c.closeTick + 16 ≤ s.tick) then closing (s.delChan cid.val) else finish s

/-- SLOT_GRANT_EXPIRY (R405): what is unused of an earlier tick's grant expires, and the present tick's may be used. -/
def State.slotExpiry (s : State) (cid : Nat) : State :=
  match tget? s.net.chans cid with
  | none => s
  | some c => if c.state = 2 && c.mode = 2 && c.version != 0x10 then (s.setChan cid (c.slotTurn s.tick true)).pump cid else s

def execSlotGrantExpiry (cid : Fin 16384) (s : State) : Host.Outcome State Fault Refusal := closing (s.slotExpiry cid.val)

end Sys2Proof.Machine
end

