-- ==== Sys2Proof/Machine/Clock.lean ====
section
/-! DEFINITION. The PTP time unit (02_cadence.md, R51 to R61; R366, R367): masters, ports, holdover, whole seconds, TICK_OUT and
tick beacons. How long a condition has lasted is what the command itself says (notes/assumptions/6.md). -/
namespace Sys2Proof.Machine

/-- The time event (Table 2-8): causes 1 state change, 2 port change, 3 unit change, 4 beacon skew. -/
def State.timeEvent (s : State) (cause old port : Nat) (skew : Int) : State :=
  s.eventAll 0x05 [cause, old, s.rd F.cadState, s.rd F.cadPortNow, s.rd F.cadSrc, sword (signedN 32 (s.rd F.cadOffset)), port, sword skew]

/-- STATE (Table 2-1): 1 locked, 2 holdover, 3 free-run. -/
def tsLocked : Nat := 1
def tsHoldover : Nat := 2
def tsFreeRun : Nat := 3

/-- STATE set, with its event when it changes (R59, Table 2-8). -/
def State.setTime (s : State) (v : Nat) : State :=
  let old := s.rd F.cadState
  if old = v then s else (s.wr F.cadState v).timeEvent 1 old 0 0

/-- The time unit moved to a port (R54). -/
def State.ptpMove (s : State) (n : Nat) : State :=
  if s.rd F.cadPortNow = n then s else (s.wr F.cadPortNow n).timeEvent 2 (s.rd F.cadState) 0 0

/-- The time unit leaves PTP_PORT for PTP_ALT (R54). -/
def State.ptpFail (s : State) : State :=
  if s.rd F.cadPortNow = s.rd F.cadPtpPort then s.ptpMove (s.rd F.cadPtpAlt) else s

/-! ## PTP messages (R51 to R53, R60, R366, R367) -/

/-- A PTP message handed to a port, on queue 7 (Table 10-2), under the next sequence number or one it answers. -/
def State.sendPtp (s : State) (n type seq : Nat) (body : List Byte) : State :=
  let bytes := s.ptpBytes n type seq body
  let head := if s.rd F.npPtpEnc n = 1 then 66 else if s.rd F.npPtpEnc n = 2 then 18 else 46
  s.xmit false ⟨n, 7, Nat.max 64 (head + bytes.length), noPart, .ptp type bytes⟩

/-- A PTP message of the unit's own accord. -/
def State.sendPtpNew (s : State) (n type : Nat) (body : List Byte) : State :=
  { s with time := { s.time with seq := (s.time.seq + 1) % 2 ^ 16 } }.sendPtp n type s.time.seq body

/-- Whether a port measures the delay of its link (R366, R367): any with link under the peer-to-peer profile, one with PARTNER under
either. -/
def State.measuresPeer (s : State) (n : Nat) : Bool := s.flag F.npLink n && (s.rd F.cadProfile == 1 || s.flag F.npPartner n)

/-- The delay of the path to the master (R52): the mean path delay, or under the peer-to-peer profile that of the port's link. -/
def State.masterDelay (s : State) (n : Nat) : Int := if s.rd F.cadProfile = 1 then (s.nport n).peerDelay else s.time.pathDelay

/-- The offset from the master measured: it locks the unit, and slewing works it off at the boundaries (R58, R59). -/
def State.takeOffset (s : State) (n : Nat) (late : Int) : State :=
  let s := { s with time := { s.time with late := late, awaitsFollow := false } }
  let s := (s.wr F.cadOffset (toField 32 (satSigned 32 (late - s.masterDelay n)))).setTime tsLocked
  if s.rd F.cadProfile = 1 then s else s.sendPtpNew n ptpDelayReq (List.replicate 10 0)

/-- The mean path delay from a Delay_Resp: half of the way there and the way back (R52). -/
def State.takeDelay (s : State) (back : Int) : State :=
  { s with time := { s.time with pathDelay := (s.time.late + back) / 2 } }

/-- Whether the unit is the grandmaster of its domain (R53, R60): a candidate that follows no master. -/
def State.grandmaster (s : State) : Bool := s.flag F.cadGmAllow && !s.time.hasMaster

/-- PTP_EVENT_MESSAGE_RX (R51 to R53, R58, R59, R366, R367): a message of another domain is none of the unit's. Peer delay runs on every
port that measures it; the rest acts on the port in use alone. An Announce brings a master to follow, unless the unit is a candidate and
the better clock; a Sync of that master, with its Follow_Up under a two-step one, gives the offset, and a Delay_Resp the mean path delay;
a grandmaster answers a Delay_Req. -/
def State.ptpRx (s : State) (n : Nat) (domain : Nat) (m : PtpMsg) : State :=
  if domain != s.rd F.cadDomain || !s.flag F.npLink n then s
  else
    let here := n == s.rd F.cadPortNow
    let slave := here && s.time.hasMaster
    let endToEnd := s.rd F.cadProfile != 1
    match m with
    | .pdelayReq src seq =>
      if s.measuresPeer n then s.sendPtp n ptpPdelayResp seq.toNat (List.replicate 10 0 ++ beBytes 10 src.toNat) else s
    | .pdelayResp trip => if s.measuresPeer n then s.modNport n (fun p => { p with peerDelay := trip / 2 }) else s
    | .announce better =>
      if !here || (s.flag F.cadGmAllow && !better) then s
      else { s with time := { s.time with hasMaster := true, ppsMaster := false } }
    | .sync twoStep late =>
      if !slave then s
      else if twoStep then { s with time := { s.time with awaitsFollow := true } }
      else s.takeOffset n late
    | .followUp late => if slave && s.time.awaitsFollow then s.takeOffset n late else s
    | .delayResp back => if slave && endToEnd then s.takeDelay back else s
    | .delayReq src seq =>
      if here && s.grandmaster && endToEnd then
        let (t, s) := s.clock
        s.sendPtp n ptpDelayResp seq.toNat (ptpStamp t ++ beBytes 10 src.toNat)
      else s

/-- What the unit sends at a whole second (notes/assumptions/109.md): a peer delay measurement on every port that runs one, an Announce on
the port in use, and a one-step Sync behind it while the unit is the grandmaster. -/
def State.ptpSecond (s : State) : State :=
  let s := iterN 8 (fun n s => if s.measuresPeer n then s.sendPtpNew n ptpPdelayReq (List.replicate 20 0) else s) s
  let n := s.rd F.cadPortNow
  let s := if s.time.hasMaster && s.flag F.cadGmAllow then s else s.sendPtpNew n ptpAnnounce s.announceBody
  if s.grandmaster then s.sendPtpNew n ptpSync (List.replicate 10 0) else s

/-- The whole second of cluster time after the one last known. -/
def State.nextSecond (s : State) : Nat := (s.net.now / 10 ^ 9 + 1) * 10 ^ 9

/-- PPS_EDGE (R60): while PPS_EN is 1 and there is no PTP master, a whole second falls on the edge of TICK_PPS_IN, whose time of day the
management controller gives (a free value), and the unit is locked; what the unit was off by, a free value too, is worked off by slewing
(R58). -/
def State.ppsEdge (s : State) : State :=
  if s.flag F.cadPpsEn && !s.time.hasMaster then
    let (k, s) := s.fresh
    ({ s with time := { s.time with ppsMaster := true }, net := { s.net with now := (Config.timeOfDay k).toNat * 10 ^ 9 } }.wr F.cadOffset
      (Config.edgeOffset k).toNat).setTime tsLocked
  else s

/-- HOLDOVER_ENTRY (R59): every PTP master is lost. -/
def State.holdover (s : State) : State :=
  if s.rd F.cadState = tsLocked && s.time.hasMaster then { s with time := { s.time with hasMaster := false } }.setTime tsHoldover else s

/-- The unit of HD2 fails and HD3's takes over (R21); nothing changes when that one has failed too. -/
def State.unitTakeover (s : State) : State :=
  if s.rd F.cadSrc = 0 && !s.time.failed.contains 1 then
    ({ s with time := { s.time with failed := 0 :: s.time.failed } }.wr F.cadSrc 1).timeEvent 3 (s.rd F.cadState) 0 0
  else s

/-- TICK_OUT at a boundary, or at a whole second (R61): high for 1 µs in its mode, once a boundary has passed since the module
seal. -/
def State.tickOutHigh (s : State) (mode : Nat) : State :=
  if s.rd F.cadTickout = mode && s.net.sealPassed then { s with time := { s.time with tickOut := true } } else s

/-- The offset moves toward zero by at most 50 ns a boundary while the unit is locked (R58). -/
def State.slew (s : State) : State :=
  if s.rd F.cadState != tsLocked then s
  else
    let o := signedN 32 (s.rd F.cadOffset)
    let m : Int := if o < -50 then -50 else if 50 < o then 50 else o
    s.wr F.cadOffset (toField 32 (o - m))

/-- The skew of largest magnitude among beacons, the first of equals. -/
def worstSkew (l : List (Nat × Int)) : Int := l.foldl (fun a e => if a.natAbs < e.2.natAbs then e.2 else a) 0

/-- The beacons of the last 256 ticks kept, and BCN_SKEW. -/
def State.beaconLook (s : State) : State :=
  let l := s.time.beacons.filter (fun e => decide (s.tick < e.1 + 256))
  ({ s with time := { s.time with beacons := l } }).wr F.cadBcnSkew (toField 32 (satSigned 32 (worstSkew l)))

/-- TICK_BEACON_RX (R367): the skew of the partner's boundary k, which BOUND names: the beacon's receive time, rx ns after this module's
last boundary, less its own boundary k, the peer delay of the port and SEQ. -/
def State.beaconRx (s : State) (n seq bound : Nat) (rx : Int) : State :=
  if !s.flag F.npLink n || !s.flag F.npPartner n then s
  else
    let skew : Int := rx + ((s.tick : Int) - bound) * (s.rd F.cadTickLen * 1000) - (s.nport n).peerDelay - seq
    let s := { s with time := { s.time with beacons := s.time.beacons ++ [(s.tick, skew)] } }.beaconLook
    let recent := match (s.nport n).skewTick with
      | some t => decide (s.tick < t + 256)
      | none => false
    if skew.natAbs ≤ 1000 || recent then s
    else (s.modNport n (fun p => { p with skewTick := some s.tick })).timeEvent 4 (s.rd F.cadState) n skew

/-- Cluster time at the present boundary: EPOCH + k x TICK_LEN (R55). -/
def State.boundaryTime (s : State) : Nat :=
  (s.rd F.cadEpochSl + 2 ^ 32 * s.rd F.cadEpochSh) * 10 ^ 9 + s.rd F.cadEpochNs + s.tick * s.rd F.cadTickLen * 1000

/-- Cluster time presented at a boundary. -/
def State.presentTime (s : State) : State := { s with net := { s.net with now := s.boundaryTime } }

/-- What a tick boundary does in the time unit, TICK_NOW being the new tick already: slew, beacons every 256 ticks (R367) and
TICK_OUT. -/
def State.timeBoundary (s : State) : State :=
  let s := s.slew.beaconLook.tickOutHigh 1
  if s.tick % 256 != 0 then s
  else iterN 8 (fun n s => if s.flag F.npPartner n && s.flag F.npLink n then s.sendPortCtl n 5 0 s.tick 0 else s) s

end Sys2Proof.Machine
end

