-- ==== Sys2Proof/Machine/NetCmd.lean ====
section
/-! DEFINITION. The commands of a network port that reach beyond it (10_network_ports.md, 17_reset_and_startup.md): link up
and link down, PMODE, received frames, and port test frames. -/
namespace Sys2Proof.Machine

/-- A link that trains again at full width after a failed relock (R370): its queues, held since, go on. -/
def State.retrained (s : State) (n : Nat) : State :=
  if (s.nport n).held && (s.nport n).change.isNone then (s.wr F.npWidth (lanesOf (s.rd F.npSpeed n)) n).resumeQueues n else s

/-- NETWORK_LINK_UP (R349, R354, R370, R374): the link trained at the full width of SPEED; a hello goes out, and a parked port has
rejoined. -/
def State.linkUp (s : State) (n : Nat) : State :=
  let w := lanesOf (s.rd F.npSpeed n)
  if s.flag F.npLink n then s.retrained n
  else if w = 0 || s.rst.stage != 5 || bitN (s.rd F.rstEngInr) n then s
  else
    let parked := s.flag F.npParked n
    let s := (((s.wr F.npLink 1 n).wr F.npWidth w n).wr F.npParked 0 n).modNport n (fun p => { p with unparking := false })
    let s := (s.linkEvent n 1 0)
    let s := if parked then s.widthEvent n 6 0 w else s
    let s := s.pmodeLook n
    (s.sendPortCtl n 1 0 0 0).resumeQueues n

def execNetworkLinkUp (n : NetPort) (s : State) : Host.Outcome State Fault Refusal := closing (s.linkUp n)

/-- NETWORK_LINK_DOWN (R54, R354, R355, R371, R373, R374): the queues are discarded and counted, a width change or a park under way
ends, the port's group trains its lowest parked port, and the channels go on over the ports left. -/
def State.linkDown (s : State) (n : Nat) : State :=
  if !s.flag F.npLink n then s
  else
    let lost := (s.nport n).queued.length
    let was := s.rd F.npPmode n
    let parking := (s.nport n).parking.isSome
    let s := s.modNport n (fun p => { p with
      queued := [], held := false, asked := none, change := none, parking := none })
    let s := (s.inc F.npLinkDisc lost n).inc F.npLinkDown 1 n
    let s := (((s.wr F.npLink 0 n).wr F.npWidth 0 n).wr F.npPartner 0 n).wr F.npPmode pmDown n
    let s := s.linkEvent n 2 lost
    let s := if s.flag F.npParkEn n then s.unparkGroup (s.rd F.npPgroup n) else s
    let s := if s.rd F.cadPortNow = n then s.ptpFail else s
    (if was = pmService && !parking then s.sendAddrs n 1 else s).pumpAll

def execNetworkLinkDown (n : NetPort) (s : State) : Host.Outcome State Fault Refusal := closing (s.linkDown n)

/-! ## Received frames (R350, R351, R361, R363, Table 10-3) -/

/-- What becomes of a frame by its length, check sequence, tag and kind. -/
inductive FrameFate where
  | fcs | length | mac | filtered | checksum | delivered
  deriving DecidableEq, Repr

/-- The fate of an untagged frame of a kind (Table 10-3); partition traffic is discarded in maintenance (R363). -/
def State.kindFate (s : State) (n : Nat) : FrameKind → FrameFate
  | .macControl => .mac
  | .gnoxel h own plain ok zero =>
    if !own || !plain then .filtered
    else if zero then .filtered
    else if !ok then .checksum
    else if s.rd F.npPmode n != pmService && h.type != 3 then .filtered
    else .delivered
  | .ptp encap ok zero =>
    if encap.val != s.rd F.npPtpEnc n then .filtered
    else if encap.val = 2 || (zero && encap.val == 0) then .delivered
    else if zero then .filtered
    else if ok then .delivered else .checksum
  | .arp _ _ => .delivered
  | .neighbour _ _ => .delivered
  | .echo => .delivered
  | .portControl => .delivered
  | .badIpChecksum => .checksum
  | .other => .filtered

/-- The fate of a received frame: a tag of VID 0 is no tag, and one of MAINT_VID goes to firmware. -/
def State.frameFate (s : State) (n : Nat) (f : FrameIn) : FrameFate :=
  if !f.fcsOk then .fcs
  else if f.len < 64 || 9022 < f.len then .length
  else if f.kind == .macControl then .mac
  else match f.vid with
    | none => s.kindFate n f.kind
    | some v =>
      if v = 0 then s.kindFate n f.kind
      else if v.toNat = s.rd F.npMaintVid n then .delivered
      else .filtered

/-- FRAME_RX (R361): the frame and its codewords counted, and the frame discarded and counted, or delivered. What its
receiver does with it is that packet's or message's own command; the port itself learns neighbours. -/
def State.frameRx (s : State) (n : Nat) (f : FrameIn) : State :=
  if !s.flag F.npLink n then s
  else
    let b := (s.nport n).rxBytes + f.len
    let s := (s.add F.npRxf 1 n).modNport n (fun p => { p with
      rxNow := p.rxNow + f.len, rxBytes := b, lastRx := s.tick, fecUnc := p.fecUnc + f.fecUnc })
    let s := s.wr F.npRxMib (capN (2 ^ 32 - 1) (b / 2 ^ 20)) n
    let s := (s.inc F.npFecCorr f.fecCorr n).inc F.npFecUnc f.fecUnc n
    match s.frameFate n f with
    | .fcs => s.inc F.npFcsErr 1 n
    | .length => s.inc F.npFiltDrop 1 n
    | .mac => s.inc F.npMaccIgn 1 n
    | .filtered => s.inc F.npFiltDrop 1 n
    | .checksum => s.inc F.npCsumDrop 1 n
    | .delivered =>
      match f.kind with
      | .arp ip mac => s.modNport n (fun p => p.learn ip.toNat mac.toNat s.tick)
      | .neighbour ip mac => s.modNport n (fun p => p.learn ip.toNat mac.toNat s.tick)
      | _ => s

def execFrameRx (n : NetPort) (f : FrameIn) (s : State) : Host.Outcome State Fault Refusal := finish (s.frameRx n f)

/-! ## Port test frames (R629) -/

/-- PORT_TEST_FRAME_RX (R629): firmware sends the frame back as KIND 0x07, whatever the port's mode. -/
def execPortTestFrameRx (n : NetPort) (len : BitVec 16) (seq : Word) (s : State) : Host.Outcome State Fault Refusal :=
  finish (s.xmit false ⟨n, 0, len.toNat, noPart, .portCtl 7 0 0 seq.toNat⟩)

/-- PORT_TEST_ECHO_RX (R629): the echo of a frame this port's test sent, with its round trip in ns. -/
def execPortTestEchoRx (n : NetPort) (seq : Word) (bad : Bool) (rtt : Word) (s : State) : Host.Outcome State Fault Refusal :=
  match (s.nport n).test with
  | none => finish s
  | some t =>
    if t.sent ≤ seq.toNat then finish s
    else finish (s.modNport n (fun p => { p with test := some { t with
      echoes := t.echoes + 1, errs := t.errs + b2n bad, least := if t.echoes = 0 then rtt.toNat else Nat.min t.least rtt.toNat,
      sum := t.sum + rtt.toNat, most := Nat.max t.most rtt.toNat } }))

end Sys2Proof.Machine
end

