-- ==== Sys2Proof/Machine/MemCmd.lean ====
section
/-! DEFINITION. The commands of the stacks and the Mere (08_memory.md; R481, R482): line requests, near-memory additions, row repair,
patrol scrub, the wrapper instructions, KEEP release, transpose copy, range-table edits and the refetch of shared weights. -/
namespace Sys2Proof.Machine
open Sys2Proof

/-! ## Line requests (R36, R37, R279 to R283, R293, R305, R306) -/

/-- What has gone wrong in the two bursts of a line put into them. -/
def State.putErrs (s : State) (line : Nat) (errs : List BurstErr) : State :=
  [0, 1].foldl (fun s i => match errs[i]? with
    | some e => s.putErr (2 * line + i) e
    | none => s) s

/-- MERE_REQUEST: one line request of a partition, translated at its port (R36, R37). A write's bytes end with the line; errs is what has
gone wrong in the line's bursts by then. -/
def State.mereRequest (s : State) (c : Ctx) (pva : Nat) (w : List Byte) (waited : Nat) (errs : List BurstErr) : State :=
  let w := w.take (128 - pva % 128)
  let kind := if w = [] then 1 else 2
  let s := s.sampleReq c.part pva
  match s.xlate c.part c.rt pva (w != []) with
  | .error k => s.xfault c.part c.who pva kind k
  | .ok (.obj h ofs) =>
    let (d, po, s) := s.readPlace c (.obj h ofs) (128 - pva % 128)
    { s with mem := { s.mem with answer := some (d, po) } }
  | .ok (.dpa a h) =>
    match s.locate? a with
    | none => s.xfault c.part c.who pva kind 3
    | some pa => ((s.putErrs (pa / 128) errs).waitedOn c.part waited).takeReq ⟨c.part, c.who, useHint c.hint h, c.early, pa, w⟩

/-- Who a request comes from: a logical core, or an engine of the module (Table 14-21). -/
def whoOf : Option CoreId → Nat → Nat
  | some c, _ => c.val
  | none, e => 2 ^ 16 + 0x100 + e

def execMereRequest (p : PartId) (core : Option CoreId) (engine : Fin 10) (pva : DWord) (hint : Fin 4) (data : List Byte) (early : Bool)
    (waited : Word) (errs : List BurstErr) (s : State) : Host.Outcome State Fault Refusal :=
  finish (s.mereRequest ⟨p.val, whoOf core engine.val, (s.part p.val).rt, hint.val, early⟩ pva.toNat data waited.toNat errs)

/-- Additions of a core into consecutive slots, with their flags in the partition's FL_VEC and the event of the grain the core runs
(R110, R123, R124, R244). -/
def State.nmCommand (s : State) (c : Ctx) (core : Nat) (pva : Nat) (a : Int) (srcs : List NmSrc) : State :=
  let (_, _, flags, s) := s.nmAdd c pva a srcs
  let (stepNo, gid) := match (s.core core).run with
    | some r => (r.grain.stepNo, gId r.grain.word)
    | none => (0, 0)
  s.raiseFlags core c.part stepNo 3 gid flags

/-- NEAR_MEMORY_ADD (R238, R239): additions into consecutive slots under the anchor of the accumulation, as one atomic
read-modify-write of each line: each source is a floating value of a format, or an anchored slot (format 12). -/
def execNearMemoryAdd (p : PartId) (core : CoreId) (pva : DWord) (anchor : Int) (srcs : List (Fin 32 × BitVec 128)) (s : State) :
    Host.Outcome State Fault Refusal :=
  finish (s.nmCommand ⟨p.val, core.val, (s.part p.val).rt, 0, false⟩ core.val pva.toNat anchor (srcs.map (fun x => ⟨x.1.val, x.2.toNat⟩)))

/-! ## Errors and repair (R284 to R292) -/

/-- LOCATE_FAILING_DIES (R284): of the oldest poisoned line of a stack whose dies are not located, the rows of the dies that
read back wrong are remapped; the line stays poisoned. -/
def State.locateDies (s : State) (n : Nat) (dies : List Nat) : State :=
  match (s.stack n).locating with
  | [] => s
  | (line, _) :: rest =>
    let s := s.modStack n (fun k => { k with locating := rest })
    dies.eraseDups.foldl (fun s d => s.remap n (dieRowOf (line * 128) d)) s

def execLocateFailingDies (n : StackId) (dies : List (Fin 19)) (s : State) : Host.Outcome State Fault Refusal :=
  finish (s.locateDies n.val (dies.map (fun d => d.val)))

/-- REMAP_COPY_COMPLETE (R288, R289): the row in copy longest is steered to its spare, and the requests held for it are served. -/
def State.remapDone (s : State) (n : Nat) : State :=
  match (s.stack n).copying with
  | [] => s
  | c :: _ => (s.copyDone n c).serveHeld

def execRemapCopyComplete (n : StackId) (s : State) : Host.Outcome State Fault Refusal := finish (s.remapDone n.val)

/-- PATROL_SCRUB_READ (R285): the next burst of the stack in SA order; when the whole stack has been read the error tallies
of the interval end (R286, R288). Patrol reads are charged to no partition. -/
def State.patrolRead (s : State) (n : Nat) (e : BurstErr) : State :=
  let k := s.stack n
  if !s.stackServes n then s
  else
    let b := n * 2 ^ 31 + k.patrol
    let s := (s.putErr b e).stackFetch (b / 2) (s.extentOwner (s.dpaOf (b * 64))) 2 [b % 2]
    let next := (k.patrol + 1) % 2 ^ 31
    if next = 0 then s.modStack n (fun k => { k with patrol := 0, tallies := [], denied := [], refused := [] })
    else s.modStack n (fun k => { k with patrol := next })

def execPatrolScrubRead (n : StackId) (e : BurstErr) (s : State) : Host.Outcome State Fault Refusal := finish (s.patrolRead n.val e)

/-! ## The wrapper instructions (R312, R313, Table 8-7) -/

/-- What a wrapper instruction returns, kept as the module's own record of what left it. -/
def State.wrapperOut (s : State) (n code : Nat) (data : List Nat) : State :=
  { s with mgmt := { s.mgmt with sent := s.mgmt.sent ++ [.wrapper n code data] } }

/-- A wrapper instruction runs only while its stack is in repair access (R312), and deselects BYPASS. -/
def State.wrapper (s : State) (n : Nat) (f : State → State) : State :=
  if (s.stack n).access then f (s.modStack n (fun k => { k with bypass := false })) else s

/-- Die, channel, bank and row as the wrapper numbers them. -/
def dieRow (die : Nat) (chan bank row : Nat) : DieRow := ⟨die, chan, bank, row⟩

def DieRow.word (r : DieRow) : Nat := r.row + 2 ^ 16 * r.bank + 2 ^ 20 * r.chan + 2 ^ 24 * r.die

/-- Free spare rows per die, channel and bank. -/
def execInvRead (n : StackId) (s : State) : Host.Outcome State Fault Refusal :=
  finish (s.wrapper n.val (fun s => s.wrapperOut n.val 1
    ((List.range (19 * 8 * 16)).map (fun i => ((s.stack n.val).freeSpares i).length))))

/-- The hard-repaired rows of one die. -/
def execFuseRead (n : StackId) (die : Fin 19) (s : State) : Host.Outcome State Fault Refusal :=
  finish (s.wrapper n.val (fun s => s.wrapperOut n.val 2 (((s.stack n.val).hardRepairs.filter (fun r => r.die == die.val)).map DieRow.word)))

/-- A soft repair of a row (Table 8-7): a spare of its bank, and its place on the repair list; refused without a spare. -/
def State.softRepair (s : State) (n : Nat) (r : DieRow) : State :=
  let k := s.stack n
  if k.repairList.contains r || k.hardRepairs.contains r then s
  else match s.takeSpare n r with
    | (none, s) => s.repairEvent n r 3
    | (some _, s) => (s.modStack n (fun k => { k with repairList := k.repairList ++ [r] })).repairEvent n r 6

def execSppr (n : StackId) (die : Fin 19) (chan : Fin 8) (bank : Fin 16) (row : BitVec 16) (s : State) : Host.Outcome State Fault Refusal :=
  finish (s.wrapper n.val (fun s => s.softRepair n.val (dieRow die.val chan.val bank.val row.toNat)))

/-- A hard repair of a row (R292): fuses burnt, and once the burn verifies the row leaves the repair list. -/
def State.hardRepair (s : State) (n : Nat) (r : DieRow) (verified : Bool) : State :=
  let k := s.stack n
  if k.hardRepairs.contains r || !verified then s
  else match (if k.repairList.contains r then (some 0, s) else s.takeSpare n r) with
    | (none, s) => s.repairEvent n r 3
    | (some _, s) => (s.modStack n (fun k => { k with repairList := k.repairList.erase r, hardRepairs := k.hardRepairs ++ [r] })).repairEvent n r 7

def execHppr (n : StackId) (die : Fin 19) (chan : Fin 8) (bank : Fin 16) (row : BitVec 16) (verified : Bool) (s : State) :
    Host.Outcome State Fault Refusal :=
  finish (s.wrapper n.val (fun s => s.hardRepair n.val (dieRow die.val chan.val bank.val row.toNat) verified))

/-- The lines of a range of banks of a stack. -/
def bankLines (n lo hi : Nat) : List Nat :=
  (List.range (hi + 1 - lo)).flatMap (fun b => (List.range 65536).flatMap (fun row => (List.range 1024).map (fun i =>
    n * 2 ^ 30 + row * 2 ^ 14 + Nat.xor (lo + b) (row % 16) * 2 ^ 10 + i)))

/-- MBIST (R313): the contents of a bank range are lost, and every line of it is poisoned; the failing rows are returned. -/
def State.mbist (s : State) (n lo hi : Nat) (failing : List DieRow) : State :=
  let ls := bankLines n lo hi
  let s := s.stackScrub (fun l => l / 2 ^ 30 == n && decide (lo ≤ saBank (l * 128)) && decide (saBank (l * 128) ≤ hi))
  let s := ls.foldl (fun s l => s.setPoison l true) s
  (s.inc F.memPoisoned ls.length 0 n).wrapperOut n 5 (failing.map DieRow.word)

def execMbist (n : StackId) (lo hi : Fin 16) (failing : List (Fin 19 × Fin 8 × Fin 16 × BitVec 16)) (s : State) :
    Host.Outcome State Fault Refusal :=
  finish (s.wrapper n.val (fun s => s.mbist n.val lo.val hi.val
    (failing.map (fun r => dieRow r.1.val r.2.1.val r.2.2.1.val r.2.2.2.toNat))))

/-- The stack's repair list and its marks. -/
def execListRead (n : StackId) (s : State) : Host.Outcome State Fault Refusal :=
  finish (s.wrapper n.val (fun s => s.wrapperOut n.val 6 ((s.stack n.val).repairList.map DieRow.word ++ s.marks n.val)))

/-- BYPASS (R313): code 0x3F, or any code Table 8-7 does not define. -/
def execBypass (n : StackId) (code : Byte) (s : State) : Host.Outcome State Fault Refusal :=
  finish (if 1 ≤ code.toNat && code.toNat ≤ 6 then s
    else s.wrapper n.val (fun s => s.modStack n.val (fun k => { k with bypass := true })))

/-! ## Descriptors 0x2A and 0x2B (R298, R300 to R303) -/

/-- The field code of a Mere field set to the null resource, or clamped without a code of its own. -/
def mereNull : Nat := freeCode 3 0

/-- The allotment offsets of a DPA in partition p, one for each of its extents that holds it (R41, R42). -/
def State.allotOfs (s : State) (p dpa : Nat) : List Nat :=
  ((List.range 16).foldl (fun (a : Nat × List Nat) i =>
    let b := s.rd F.pExtBase p i * gib
    let n := s.rd F.pExtLen p i * gib
    (a.1 + n, if b ≤ dpa && dpa < b + n then a.2 ++ [a.1 + (dpa - b)] else a.2)) (0, [])).2

/-- Whether a line of device memory lies in [pva, pva + n) of partition p under the range table in force. -/
def State.lineIn (s : State) (p line pva n : Nat) : Bool :=
  (s.allotOfs p (s.dpaOf (line * 128))).any (fun o => (s.part p).rt.any (fun e =>
      e.2.target == 0 && decide (e.2.tref * mib2 ≤ o) && decide (o < (e.2.tref + e.2.len) * mib2) &&
        (let a := e.2.vbase * mib2 + (o - e.2.tref * mib2)
         decide (a < pva + n) && decide (pva < a + 128))))

/-- The pins of partition p on the lines pick names released. -/
def State.unpin (s : State) (p : Nat) (pick : Nat → Bool) : State :=
  (s.setMere (tmap s.mem.mere (fun l m => if m.pin == some p && pick l then { m with pin := none } else m))).keepNow p

/-- Descriptor 0x2A (R298): the partition's pins in a range released, or all of them. -/
def State.runKeep (r : DRef) (d : Desc) (s : State) : State :=
  let n := d.fld 64 64
  (s.unpin r.part (fun l => n == 0 || s.lineIn r.part l (d.fld 0 64) n)).done r

def execKeepRelease (d : Desc) (s : State) : Host.Outcome State Fault Refusal := finish (withDesc 0x2A d s State.runKeep).demandIssue

/-- Bytes of an output line written through the Mere, a line poisoned when any byte it takes is. -/
def State.writeLine (s : State) (c : Ctx) (pva : Nat) (bs : List GByte) : State :=
  (lineChunks pva bs.length).foldl (fun s ch =>
    let x := (bs.drop (ch.1 - pva)).take ch.2
    (s.writePva c ch.1 (x.map (fun b => b.byte)) (x.any (fun b => b.code != 0))).2) s

/-- The first line of [pva, pva + n) that partition p may not access so, with the cause (R37). -/
def State.badLine? (s : State) (p pva n : Nat) (write : Bool) : Option (Nat × Nat) :=
  ((lineChunks pva n).filterMap (fun ch => match s.xlate p (s.part p).rt ch.1 write with
    | .error x => some (ch.1, x)
    | .ok (.obj _ _) => if write then some (ch.1, 2) else none
    | .ok _ => none)).head?

/-- The first of n spans of w bytes, ld bytes apart from pva on, that a partition may not access so. -/
def State.badSpan? (s : State) (p pva ld n w : Nat) (write : Bool) : Option (Nat × Nat) :=
  match (List.range n).find? (fun k => !s.mapped p (s.part p).rt (pva + k * ld) w write) with
  | some k => s.badLine? p (pva + k * ld) w write
  | none => none

/-- One block of a transpose copy (R300, R303): its source lines gathered, its output lines written, each holding one source column. The
requests come from no compute die; the gatherers of die 0 take them (DESIGN CHOICE, notes/assumptions/103.md). -/
def State.transposeBlock (s : State) (c : Ctx) (hint e src sld dst dld r0 c0 nr nc : Nat) : State :=
  let (rows, s) := s.gatherBlock c 0 (src + r0 * sld + c0 * e) sld nr (nc * e)
  iterN nc (fun i s => s.writeLine { c with hint := hint } (dst + (c0 + i) * dld + r0 * e) (blockColumn rows e i)) s

/-- Descriptor 0x2B (R303, Table 8-6): element (c, r) of the destination from element (r, c) of the source, block by block. Everything is
checked before anything is read. -/
def State.runTranspose (r : DRef) (d : Desc) (s : State) : State :=
  let p := r.part
  let one := fun (x : DRef × State) (v : Nat) => if v = 0 then ({ x.1 with clamped := true }, x.2.clampDesc x.1 1 mereNull 0 1) else x
  let (r, s) := one (one (r, s) (d.fld 128 32)) (d.fld 160 32)
  if d.fld 256 2 = 3 then s.nullDesc r mereNull 3
  else
    let e := 2 ^ d.fld 256 2
    let rows := Nat.max 1 (d.fld 128 32)
    let cols := Nat.max 1 (d.fld 160 32)
    let src := d.fld 0 64
    let dst := d.fld 64 64
    let sld := d.fld 192 32
    let dld := d.fld 224 32
    if src < dst + (cols - 1) * dld + rows * e && dst < src + (rows - 1) * sld + cols * e then s.noop r
    else
      let c := s.engCtx p engDesc
      match s.badSpan? p src sld rows (cols * e) false, s.badSpan? p dst dld cols (rows * e) true with
      | some (x, why), _ => (s.xfault p c.who x 1 why).noop r
      | none, some (x, why) => (s.xfault p c.who x 2 why).noop r
      | none, none =>
        let b := blockSide e
        (iterN ((rows + b - 1) / b) (fun i s => iterN ((cols + b - 1) / b) (fun j s =>
          s.transposeBlock c (d.fld 258 2) e src sld dst dld (i * b) (j * b) (Nat.min b (rows - i * b)) (Nat.min b (cols - j * b))) s) s).done r

def execTransposeCopy (d : Desc) (s : State) : Host.Outcome State Fault Refusal := finish (withDesc 0x2B d s State.runTranspose).demandIssue

/-! ## Range-table edits (R38 to R40) -/

/-- The bytes of a range-table edit as a descriptor of the memory-and-tiers family carries them under R661: the entry's index in
[9:0], its 16-byte image from byte 24 on. -/
def rangeEditBody (i entry : Nat) : BitVec 384 := BitVec.ofNat 384 (i + entry * 2 ^ 64)

/-- A range-table edit (R38 to R40). -/
def State.runRangeEdit (r : DRef) (d : Desc) (s : State) : State := s.rtEdit r (d.fld 0 10) (d.at 24 128)

/-- A range-table edit: the entry's index and its image, in a descriptor of the memory-and-tiers family. -/
def execRangeTableEdit (d : Desc) (i : Fin 1024) (entry : BitVec 128) (s : State) : Host.Outcome State Fault Refusal :=
  finish (withDesc Config.rangeEditOpcode.toNat { d with body := rangeEditBody i.val entry.toNat } s State.runRangeEdit)

/-! ## Shared weights (R481, R482) -/

/-- The lines of a 4 KiB granule of device memory. -/
def State.granLines (s : State) (dpa : Nat) : List Nat :=
  match s.locate? dpa with
  | none => []
  | some pa => (List.range 32).map (fun i => pa / 128 + i)

/-- Whether a line is poisoned, in the Mere or in its stack. -/
def State.linePoison (s : State) (line : Nat) : Bool :=
  match tget? s.mem.mere line with
  | some m => m.poison
  | none => s.stackPoison line

/-- The shared weight event (Table 13-7) to every partition that maps the region: causes 1 refetched, 2 refetch failed; and
REFETCH of each (R482). -/
def State.sharedEvent (s : State) (r : Nat) (x : SharedRegion) (dpa cause : Nat) : State :=
  (s.liveParts.filter (fun p => bitN (s.rd F.pShared p) r)).foldl (fun s p =>
    (s.event 0x25 p [p, r, dpa, x.handle, cause]).inc F.pRefetch 1 p) s

/-- REFETCH_COMPLETE (R481, R482): granule g of a region written whole from its backing copy, which clears the poison; the
cores that took it rebuild on their own sites. When no copy can be read, the line stays poisoned and the grains stand. -/
def State.refetch (s : State) (r g : Nat) (failed : Bool) : State :=
  match tget? s.mem.shared r with
  | none => s
  | some x =>
    let dpa := x.base * gib + g * 4096
    let ls := s.granLines dpa
    if x.len * gib ≤ g * 4096 || !ls.any s.linePoison then s
    else
      let cores := (s.mem.took.filter (fun e => e.2 == dpa / 4096)).map (fun e => e.1)
      let s := { s with mem := { s.mem with took := s.mem.took.filter (fun e => e.2 != dpa / 4096) } }
      match (if failed then (none, s) else s.granule x.owner x.handle g) with
      | (none, s) => s.sharedEvent r x dpa 2
      | (some d, s) =>
        let s := (List.range 32).foldl (fun s i =>
          s.lineWrite noPart hintStream (nthD ls i 0) 0 (bytesAt d (128 * i) 128) false false) s
        let s := cores.foldl (fun s c => s.modCore c (fun k => { k with rebuild := true, oldSite := s.rd F.idSite 0 c })) s
        s.sharedEvent r x dpa 1

def execRefetchComplete (r : Fin 4) (g : Word) (failed : Bool) (s : State) : Host.Outcome State Fault Refusal :=
  finish (s.refetch r.val g.toNat failed)

end Sys2Proof.Machine
end

