-- ==== Sys2Proof/Machine/Power.lean ====
section
/-! DEFINITION. Supply, power cap, thermal limits, the energy ledger and the operating states (16_power_thermal.md). Energies are
whole numbers of 2^-32 µJ where the rules compute with fractions. -/
namespace Sys2Proof.Machine

/-! ## Coefficients and fixed point (Table 16-3) -/

/-- One µJ. -/
def uj : Int := 2 ^ 32

/-- A finite number times 2^32 divided by d, rounded down; 0 for any other. -/
def fixOf (x : Num) (d : Nat) : Int :=
  match x with
  | .fin n m e =>
    let v := if 0 ≤ e + 32 then m * 2 ^ (e + 32).toNat / d else m / (2 ^ (-(e + 32)).toNat * d)
    signedInt n v
  | _ => 0

/-- Power-model coefficient i: 0 to 3 the energy per row of F4, F8, F16 and S32 in nJ, 4 the module's static power and 5 to 12 that
of compute dies 0 to 7 in W, 13 to 16 the energy per vector, line, network byte and engine byte in nJ. -/
def State.coeff (s : State) (i : Nat) : Nat := (tget? s.mgmt.cal.coeffs i).getD (Config.factoryCoeff i).toNat

/-- An energy coefficient in units of 2^-32 µJ. -/
def State.energyOf (s : State) (i : Nat) : Int := fixOf (ofF32 (s.coeff i)) 1000

/-- A static power over one interval: W times µs. -/
def State.staticOf (s : State) (i : Nat) : Int := fixOf (ofF32 (s.coeff i)) 1 * s.rd F.cadTickLen

/-- e_row of a core and a phase (R596, R597). -/
def State.eRow (s : State) (c ph : Nat) : Int := (tget? s.power.eRow (16 * c + ph)).getD (s.energyOf 1)

/-- e_base (R596, R597). -/
def State.eBase (s : State) : Int := s.power.eBase.getD (s.staticOf 4)

/-! ## Limits (R151, R584, R588, R599 to R602) -/

def State.modPower (s : State) (f : PowerState → PowerState) : State := { s with power := f s.power }

/-- The logical cores that are active (R24, R26). -/
def State.activeCores (s : State) : List Nat := (List.range 288).filter (fun c => !(s.core c).fenced)

/-- The die limit of zone d and the limit of hub zone 0 or 1 (R599, R600). -/
def State.dieLimit (s : State) (d : Nat) : Nat := tgetD s.power.ld d 64
def State.hubLimit (s : State) (h : Nat) : Nat := tgetD s.power.lhub h 64

/-- The memory limit of zone d (R309). -/
def State.memLimit (s : State) (d : Nat) : Nat := tgetD s.mem.lm d 64

/-- The thermal limit of zone d (R599). -/
def State.zoneLimit (s : State) (d : Nat) : Nat := Nat.min (s.dieLimit d) (s.memLimit d)

/-- ZLIM of every zone as its limits stand. -/
def State.showLimits (s : State) : State :=
  let s := (List.range 8).foldl (fun s d => s.wr F.pwrZlim (s.zoneLimit d) 0 d) s
  (List.range 2).foldl (fun s h => s.wr F.pwrZlim (s.hubLimit h) 0 (8 + h)) s

/-- The limit the power controller has latched for a core (R83, R591, R601). -/
def State.latchedLimit (s : State) (c : Nat) : Nat := tgetD s.power.latched c 64

/-- The target issue limit of a core (R151). -/
def State.issueLimit (s : State) (c : Nat) : Nat :=
  let l := Nat.min (s.latchedLimit c) (s.zoneLimit (s.dieOf c))
  if s.flag F.pwrVwarn then Nat.min l 8 else l

/-- Every latched limit replaced by 8 (R591, R601). -/
def State.latchAll8 (s : State) : State := s.modPower (fun w => { w with latched := (List.range 288).map (fun c => (c, 8)) })

/-- The restore ceiling of the boundary ahead: the lower of the restores that run (R584, R602). -/
def ceilingOf (r : Nat) : Nat := if r = 0 then 64 else 8 + 14 * (5 - r)

def State.restoreCeiling (s : State) : Nat := Nat.min (ceilingOf s.power.rSupply) (ceilingOf s.power.rCrit)

/-- RESTORE: the boundaries that remain of the longer restore. -/
def State.showRestore (s : State) : State := s.wr F.pwrRestore (Nat.max s.power.rSupply s.power.rCrit)

/-- CAP_EFF (R588): PCAP, or nine tenths of it while the supply is unstable. -/
def State.showCap (s : State) : State :=
  s.wr F.pwrCapEff (if s.flag F.pwrSupUnst then 9 * s.rd F.pwrPcap / 10 else s.rd F.pwrPcap)

/-! ## Supply (R581 to R586) -/

/-- The supply event (Table 16-7): causes 1 warning, 2 clear, 3 unstable, 4 unstable cleared, 5 brown-out. -/
def State.supplyEvent (s : State) (cause : Nat) : State :=
  s.eventAll 0x2B [cause, s.rd F.pwrVin, s.power.vlow, s.rd F.pwrDips, s.rd F.pwrCapEff]

/-- Sensor rounds of 10 µs in 60 s (R585). -/
def dipWindow : Nat := 6000000

/-- DIPS over the last 60 s. -/
def State.showDips (s : State) : State :=
  let ds := s.power.dips.filter (fun t => decide (s.power.rounds < t + dipWindow))
  (s.modPower (fun w => { w with dips := ds })).wr F.pwrDips (capN 15 ds.length)

/-- One dip counted (R581). -/
def State.dip (s : State) : State :=
  ((s.inc F.pwrDipsTot 1).modPower (fun w => { w with dips := w.rounds :: w.dips })).showDips

/-- More than 10 dips in 60 s make the supply unstable (R585). -/
def State.unstableLook (s : State) : State :=
  if 10 < s.power.dips.length && !s.flag F.pwrSupUnst then ((s.wr F.pwrSupUnst 1).showCap).supplyEvent 3 else s

/-- SUPPLY_WARNING (R581, R583): four samples below VWARN_TH, the last of vin mV. -/
def State.supplyWarning (s : State) (vin : Nat) : State :=
  if 100 * s.rd F.pwrVwarnTh ≤ vin then s
  else if s.flag F.pwrVwarn then ((s.modPower (fun w => { w with vlow := Nat.min w.vlow vin })).dip).unstableLook
  else
    let s := (s.wr F.pwrVwarn 1).modPower (fun w => { w with vlow := vin })
    (({ s with rst := { s.rst with vwarnN := false } }).dip.supplyEvent 1).unstableLook

/-- The warning latch cleared, and the restore that follows (R584). -/
def State.clearWarning (s : State) : State :=
  let s := (s.wr F.pwrVwarn 0).modPower (fun w => { w with rSupply := 4 })
  ({ s with rst := { s.rst with vwarnN := true } }).showRestore

/-- SUPPLY_WARNING_CLEAR (R583): 1 ms at or above VWARN_TH + 1.0 V. -/
def State.supplyClear (s : State) (vin : Nat) : State :=
  if !s.flag F.pwrVwarn || s.rst.brown || vin < 100 * (s.rd F.pwrVwarnTh + 10) then s else s.clearWarning.supplyEvent 2

/-- SUP_UNST and the dip history cleared (R585). -/
def State.supplyFlagClear (s : State) : State :=
  let was := s.flag F.pwrSupUnst
  let s := (s.modPower (fun w => { w with dips := [] })).showDips
  if was then ((s.wr F.pwrSupUnst 0).showCap).supplyEvent 4 else s

/-! ## The cap controller (R587 to R597) -/

/-- The power cap event (Table 16-7): causes 1 excursion, 2 unreachable, 3 capped. -/
def State.capEvent (s : State) (cause part : Nat) : State :=
  let w := [cause, part, s.rd F.pwrPinTick, s.rd F.pwrPinPeak, s.rd F.pwrCapEff, (s.eBase / uj).toNat]
  if part = noPart then s.eventAll 0x2C w else s.event 0x2C part w

/-- POWER_EXCURSION (R591). -/
def State.excursion (s : State) (pin : Nat) : State :=
  if pin ≤ 1600 then s
  else
    let s := (s.latchAll8.inc F.pwrExcCnt 1)
    if s.power.fast then s else (s.modPower (fun w => { w with fast := true })).capEvent 1 noPart

/-- The word of a core's first grain of tick t in its partition's plan: one that ran ahead and has completed, or runs, or is still listed. -/
def State.firstWord (s : State) (p c t : Nat) : Option Nat :=
  let k := s.core c
  let mine := fun (q : Nat) (g : Grain) => q == p && g.tick == t && !g.filler && !g.again
  match k.window.find? (fun d => mine d.part d.grain) with
  | some d => some d.grain.word
  | none => match k.run.filter (fun r => mine r.part r.grain) with
    | some r => some r.grain.word
    | none => ((s.part p).cad.work.find? (fun g => g.lcore == c && mine p g)).map (fun g => g.word)

/-- The partition, if any, and the phase whose points a core takes in the next interval (R593, R594): its first grain of the next tick,
else its filler grain's, else its own partition with the phase it had, 0 before it has had any. -/
def State.nextPhase (s : State) (c : Nat) : Option Nat × Nat :=
  let own := s.partOfCore c
  match own.bind (fun p => s.firstWord p c (s.tick + 1)) with
  | some w => (own, gPhase w)
  | none => match (s.core c).filler with
    | some r => (some r.part, gPhase r.grain.word)
    | none => (own, tgetD s.power.phases c 0)

/-- ISSUE_PREF and EPRIO of a phase; a core of no partition takes their Reset values (notes/assumptions/22.md). -/
def State.points (s : State) : Option Nat × Nat → Nat × Nat
  | (some p, ph) => (s.rd F.pIssuePref p ph, s.rd F.pEprio p ph)
  | (none, _) => (F.pIssuePref.resetVal 0 0, F.pEprio.resetVal 0 0)

/-- One core's side of the computation: its number, the energy of a step, its d, EPRIO and its limit so far. -/
structure CapCore where
  core : Nat
  u : Int
  d : Nat
  prio : Nat
  lim : Nat
  deriving DecidableEq, Repr

/-- One round over the cores of a priority (R595): the cores, the budget left and the last served. -/
def capRound (pr : Nat) (a : List CapCore × Int × Nat) : List CapCore × Int × Nat :=
  a.1.foldl (fun (x : List CapCore × Int × Nat) c =>
    if c.prio = pr && c.lim < c.d && c.u ≤ x.2.1 then (x.1 ++ [{ c with lim := c.lim + 1 }], x.2.1 - c.u, c.core)
    else (x.1 ++ [c], x.2.1, x.2.2)) ([], a.2.1, a.2.2)

/-- All rounds of a priority: 56 raise any core from 8 to 64. -/
def capRounds (pr : Nat) (a : List CapCore × Int × Nat) : List CapCore × Int × Nat := iterN 56 (fun _ a => capRound pr a) a

/-- CAP_COMPUTE (R587, R588, R593 to R595): PCAP as it stands takes effect, and the limits of the next interval are granted. -/
def State.capCompute (s : State) : State :=
  let s := s.showCap
  let t := s.rd F.cadTickLen
  let pt : Int := ((s.rd F.pwrCapEff * t : Nat) : Int) * uj
  let excess := Int.ofNat (((s.power.einPrev : Int) * uj - pt).toNat)
  let act := s.activeCores
  let codes := act.map (fun c => (c, s.nextPhase c))
  let s := s.modPower (fun w => { w with phases := codes.foldl (fun t e => tput t e.1 e.2.2) w.phases })
  let mk := fun (e : Nat × Option Nat × Nat) =>
    let (pref, prio) := s.points e.2
    { core := e.1, u := s.eRow e.1 e.2.2 * 1800 * t / 64, lim := 8, prio := prio,
      d := Nat.min (Nat.min pref (s.zoneLimit (s.dieOf e.1))) s.restoreCeiling : CapCore }
  let cs := codes.map mk
  let b := (pt - s.eBase - excess) * (Nat.min (s.hubLimit 0) (s.hubLimit 1) : Nat) / 64 - cs.foldl (fun a c => a + 8 * c.u) 0
  let low := decide (b < 0)
  let s := if low then (if s.power.unreach then s else (s.modPower (fun w => { w with unreach := true })).capEvent 2 noPart) else s
  let order := cs.filter (fun c => decide (s.power.lastServed < c.core)) ++ cs.filter (fun c => decide (c.core ≤ s.power.lastServed))
  let r := if low then (cs, b, s.power.lastServed)
    else [3, 2, 1, 0].foldl (fun a pr => capRounds pr a) (order, b, s.power.lastServed)
  let short := fun (p : Nat) => r.1.any (fun c => decide (c.lim < c.d) && s.partOfCore c.core == some p)
  let capped := s.liveParts.filter short
  let s := s.modPower (fun w => { w with
    next := act.filterMap (fun c => (r.1.find? (fun x => x.core == c)).map (fun x => (c, x.lim))), lastServed := r.2.2, capped := capped })
  capped.foldl (fun s p =>
    let due := match tget? s.power.cappedAt p with
      | none => true
      | some k => decide (k + 1024 ≤ s.tick)
    if due then (s.modPower (fun w => { w with cappedAt := tput w.cappedAt p s.tick })).capEvent 3 p else s) s

/-- The limits latched at a boundary (R83, R584, R601), with LIM_AVG and CAPPED_TK of the interval they end. -/
def State.latchLimits (s : State) : State :=
  let top := s.restoreCeiling
  let hold := s.flag F.pwrTcrit || s.rst.brown
  let old := s
  let s := s.liveParts.foldl (fun s p =>
    let cs := s.activeCores.filter (fun c => s.ownsCore p c)
    (s.wr F.pLimAvg (sumOf (cs.map old.latchedLimit) / Nat.max 1 cs.length) p).inc F.pCappedTk (b2n (s.power.capped.contains p)) p) s
  let next := if hold then (List.range 288).map (fun c => (c, 8))
    else (if top < 64 then (List.range 288).map (fun c => (c, Nat.min top (tgetD s.power.next c 64))) else s.power.next)
  let s := s.modPower (fun w => { w with
    latched := next.filter (fun e => e.2 != 64), fast := false, unreach := false,
    rSupply := if s.flag F.pwrVwarn then w.rSupply else w.rSupply - 1, rCrit := if s.flag F.pwrTcrit then w.rCrit else w.rCrit - 1 })
  s.showRestore

/-! ## Thermal (R309, R598 to R603) -/

/-- ZLIM of a zone as its limits stand. -/
def State.shownLimit (s : State) (z : Nat) : Nat := if z < 8 then s.zoneLimit z else s.hubLimit (z - 8)

/-- The thermal event (Table 16-7): causes 1 die limit, 2 hub limit, 3 critical, 4 critical ended, 5 trip. DESIGN CHOICE: of a critical
temperature the limits are the zone's and the 8 that replaces the latched ones. -/
def State.thermalEvent (s : State) (z cause old new : Nat) : State := s.eventAll 0x2D [z, cause, s.rd F.pwrZtemp 0 z, old, new]

/-- Offset of sensor i in 0.25 °C (Table 16-3). -/
def State.sensorOffset (s : State) (i : Nat) : Int :=
  (tget? s.mgmt.cal.thermal i).getD (signedN 8 (Config.factoryOffset i).toNat)

/-- The highest of a range of sensors in °C, offsets added, from 0 to 255. -/
def State.hottest (s : State) (r : List Int) (is : List Nat) : Nat :=
  let q := is.foldl (fun m i => max m (nthD r i 0 + s.sensorOffset i)) 0
  capN 255 (q.toNat / 4)

/-- The sensors of a compute die (40 sites and four more), a hub zone (two dies of eight) and a stack (19 dies). -/
def dieSensors (d : Nat) : List Nat := (List.range 40).map (fun i => 40 * d + i) ++ (List.range 4).map (fun i => 320 + 4 * d + i)
def hubSensors (h : Nat) : List Nat := (List.range 16).map (fun i => 352 + 16 * h + i)
def stackSensors (n : Nat) : List Nat := (List.range 19).map (fun i => 384 + 19 * n + i)

/-- The law of R309, R599 and R600: down by 8 to a floor at or above the limit, up by 4 to 64 below it less 3 °C. -/
def thermalLaw (floor limit temp old : Nat) : Nat :=
  if limit ≤ temp then Nat.max floor (old - 8) else if temp + 3 < limit then Nat.min 64 (old + 4) else old

/-- The hottest of a zone's three stacks. -/
def State.hotStack (s : State) (d : Nat) : Nat :=
  [3 * d + 1, 3 * d + 2].foldl (fun m n => if s.rd F.memTemp 0 m < s.rd F.memTemp 0 n then n else m) (3 * d)

/-- Whether a critical temperature holds at a margin below its thresholds (R311, R601). -/
def State.critical (s : State) (margin : Nat) : Bool :=
  (List.range 10).any (fun z => decide (110 ≤ s.rd F.pwrZtemp 0 z + margin)) ||
    (List.range 24).any (fun n => decide (105 ≤ s.rd F.memTemp 0 n + margin))

/-- The zone that a threshold of the dies or of the stacks holds in. -/
def State.zoneAt (s : State) (die stk : Nat) : Option (Nat × Nat × Nat) :=
  match (List.range 10).find? (fun z => decide (die ≤ s.rd F.pwrZtemp 0 z)) with
  | some z => some (z, s.rd F.pwrZtemp 0 z, 1)
  | none => ((List.range 24).find? (fun n => decide (stk ≤ s.rd F.memTemp 0 n))).map (fun n => (n / 3, s.rd F.memTemp 0 n, 2))

/-- A critical temperature begins (R601). -/
def State.criticalLook (s : State) : State :=
  if s.flag F.pwrTcrit then s
  else match s.zoneAt 110 105 with
    | none => s
    | some (z, _, _) =>
      let s := (s.wr F.pwrTcrit 1).latchAll8
      ({ s with rst := { s.rst with thermN := false } }).thermalEvent z 3 (s.shownLimit z) 8

/-- SENSOR_READ (R308, R598, R601): one 10 µs round of the 840 sensors in 0.25 °C, with the 10 µs averages of the input. -/
def State.sensorRead (s : State) (r : List Int) (vin iin : Nat) : State :=
  let s := s.modPower (fun w => { w with rounds := w.rounds + 1 })
  let s := ((s.wr F.pwrVin vin).wr F.pwrIin iin).showDips
  let zone := fun (s : State) (z : Nat) (is : List Nat) =>
    let t := s.hottest r is
    (s.wr F.pwrZtemp t 0 z).wr F.pwrZtempMax (Nat.max t (s.rd F.pwrZtempMax 0 z)) 0 z
  let s := (List.range 8).foldl (fun s d => zone s d (dieSensors d)) s
  let s := (List.range 2).foldl (fun s h => zone s (8 + h) (hubSensors h)) s
  let s := (List.range 24).foldl (fun s n =>
    let t := s.hottest r (stackSensors n)
    (s.wr F.memTemp t 0 n).wr F.memRefresh (if 95 ≤ t then 2 else if 85 ≤ t then 1 else 0) 0 n) s
  s.criticalLook

/-- CRITICAL_TEMPERATURE_END (R601, R602): every die has read 5 °C below its critical temperature for 1 ms. -/
def State.criticalEnd (s : State) : State :=
  if !s.flag F.pwrTcrit || s.critical 4 then s
  else
    let z := (List.range 10).foldl (fun m z => if s.rd F.pwrZtemp 0 m < s.rd F.pwrZtemp 0 z then z else m) 0
    let s := ((s.wr F.pwrTcrit 0).modPower (fun w => { w with rCrit := 4 })).showRestore
    ({ s with rst := { s.rst with thermN := true } }).thermalEvent z 4 8 (s.shownLimit z)

/-- STK_STATE of a zone's stacks in service: throttled while L_m is below 64 (Table 8-8, R310). -/
def State.showStack (s : State) (n : Nat) : State :=
  if 2 ≤ s.rd F.memStkState 0 n then s else s.wr F.memStkState (b2n (decide (s.memLimit (n / 3) < 64))) 0 n

/-- The thermal laws at a boundary (R309, R310, R599, R600). -/
def State.thermalBoundary (s : State) : State :=
  let s := (List.range 8).foldl (fun s d =>
    let n := s.hotStack d
    let old := s.memLimit d
    let new := thermalLaw 16 (s.rd F.memStkTlim) (s.rd F.memTemp 0 n) old
    let s := if new = old then s
      else ({ s with mem := { s.mem with lm := if new = 64 then tdel s.mem.lm d else tput s.mem.lm d new } }).eventAll 0x14
        [d, n, s.rd F.memTemp 0 n, old, new, s.rd F.memRefresh 0 n]
    let s := if new = old then s else (((s.showStack (3 * d)).showStack (3 * d + 1)).showStack (3 * d + 2))
    let old := s.dieLimit d
    let new := thermalLaw 16 (s.rd F.pwrDieTlim) (s.rd F.pwrZtemp 0 d) old
    if new = old then s
    else (s.modPower (fun w => { w with ld := if new = 64 then tdel w.ld d else tput w.ld d new })).thermalEvent d 1 old new) s
  let s := (List.range 2).foldl (fun s h =>
    let old := s.hubLimit h
    let new := thermalLaw 32 (s.rd F.pwrHubTlim) (s.rd F.pwrZtemp 0 (8 + h)) old
    if new = old then s
    else (s.modPower (fun w => { w with lhub := if new = 64 then tdel w.lhub h else tput w.lhub h new })).thermalEvent (8 + h) 2 old new) s
  s.showLimits

/-! ## Ledger and estimates (R10, R596, R597, R604, R606) -/

/-- The modelled energy of a partition's work, or of the overhead's (R606). -/
def State.modelled (s : State) (a : Acts) : Int :=
  let n := fun (w : Word) (i : Nat) => (w.toNat : Int) * s.energyOf i
  n a.f4 0 + n a.f8 1 + n a.f16 2 + n a.s32 3 + n a.vectors 13 + n a.lines 14 + n a.net 15 + n a.engine 16

/-- M of line p: partitions 0 to 35, 36 the overhead line. -/
def State.lineEnergy (s : State) (m : Meter) (p : Nat) : Int :=
  (m.acts.filter (fun e => e.1.val == p)).foldl (fun a e => a + s.modelled e.2) 0

/-- The interval closed in the ledger (R10, R604, R606). -/
def State.ledgerClose (s : State) (m : Meter) : State :=
  let e : Int := (m.ein.toNat : Int) * uj
  let st := s.staticOf 4
  let ms := (List.range 37).map (fun p => s.lineEnergy m p)
  let total := ms.foldl (· + ·) 0
  let share := fun (p : Nat) => if e ≤ st || total ≤ 0 then 0 else (e - st) * nthD ms p 0 / total
  let s := (s.add F.pwrEin m.ein.toNat).add F.pwrQin m.qin.toNat
  let r := (List.range 36).foldl (fun (a : State × Nat) p =>
    let x := (share p).toNat + tgetD a.1.power.rests p 0
    let n := x / 2 ^ 32
    let left := x % 2 ^ 32
    ((a.1.modPower (fun w => { w with rests := if left = 0 then tdel w.rests p else tput w.rests p left })).add F.pPen n p, a.2 + n)) (s, 0)
  let s := r.1.wr F.pwrEoh (r.1.rd F.pwrEoh + m.ein.toNat - r.2)
  let t := Nat.max 1 (s.rd F.cadTickLen)
  (s.wr F.pwrPinTick (capN 65535 (m.ein.toNat / t))).wr F.pwrPinPeak m.peak.toNat

/-- A count of cycles that a register gives in units of 1,024, saturating, with its remainder kept (Tables 4-9 and 8-9). -/
def State.stall (s : State) (f : Fld) (key p n : Nat) : State :=
  let t := tgetD (s.part p).stalls key 0 + n
  if n = 0 then s
  else (s.modPart p (fun x => { x with stalls := tput x.stalls key t })).wr f (capN (2 ^ 32 - 1) (t / 1024)) p

/-- The stalls and ramps of an interval counted (R150, R152, Table 4-9). -/
def State.stallsClose (s : State) (m : Meter) : State :=
  m.stalls.foldl (fun s e =>
    let p := e.1.val
    (((s.stall F.pStallOpnd 41 p e.2.opnd.toNat).stall F.pStallTarn 42 p e.2.tarn.toNat).stall F.pStallLim 43 p e.2.limit.toNat).inc
      F.pRamps e.2.ramps.toNat p) s

/-- The estimates of the cap controller after an interval (R596), or restarted (R597). -/
def State.estimate (s : State) (m : Meter) : State :=
  if s.power.recal then s.modPower (fun w => { w with eRow := [], eBase := none, lastServed := 287, recal := false, einPrev := m.ein.toNat })
  else
    let row := fun (e : CoreId × Fin 16 × Word) => s.eRow e.1.val e.2.1.val * (e.2.2.toNat : Int)
    let sum := m.rows.foldl (fun a e => a + row e) 0
    let base := s.eBase + ((m.ein.toNat : Int) * uj - sum - s.eBase) / 8
    let rows := (List.range 8).foldl (fun (t : Tab Int) d =>
      let mine := m.rows.filter (fun e => s.dieOf e.1.val == d)
      let den := mine.foldl (fun a e => a + row e) 0
      let num := ((nthD m.rails d 0).toNat : Int) * uj - s.staticOf (5 + d)
      let scaled := fun (x : Int) => if den ≤ 2 * num && num < 2 * den then x * num / den else if num * 2 < den then x / 2 else 2 * x
      mine.foldl (fun t e =>
        if e.2.2.toNat < 1024 then t
        else
          let x := s.eRow e.1.val e.2.1.val
          tput t (16 * e.1.val + e.2.1.val) (x + (scaled x - x) / 8)) t) s.power.eRow
    s.modPower (fun w => { w with eRow := rows, eBase := some base, einPrev := m.ein.toNat })

/-! ## Operating states (R609 to R611) -/

/-- Whether an engine has work, a step is running or queued, or a filler list is posted (R609). -/
def State.busy (s : State) : Bool :=
  s.tiers.ops != [] || s.tiers.reads != [] || s.tiers.msgs != [] || s.tiers.intakes != [] ||
    s.net.chans.any (fun e => e.2.sends != []) ||
    s.liveParts.any (fun p =>
      let x := s.part p
      x.cad.steps != [] || x.coll.fillers.any (fun l => l.withdrawn.isNone) || x.coll.permute.isSome || x.cont.ckpt.isSome ||
        x.cont.restore.isSome || x.cont.setting.isSome)

/-- The ticks without work, and those in Idle, at a boundary. -/
def State.quietBoundary (s : State) : State :=
  let q := !s.power.worked && !s.busy
  s.modPower (fun w => { w with worked := false, quiet := if q then w.quiet + 1 else 0, idleFor := if q && s.rd F.pwrMstate == 1 then w.idleFor + 1 else 0 })

/-- IDLE_ENTRY (R609). -/
def State.idleEntry (s : State) : State :=
  if s.rd F.pwrMstate != 0 || s.busy || s.power.worked || s.power.quiet < s.rd F.pwrIdleTicks then s
  else ((s.wr F.pwrMstate 1).modPower (fun w => { w with idleFor := 0 })).eventAll 0x2E [0, 1, 0, s.tick]

/-- The stores of every core emptied (Table 17-8). -/
def State.emptyCores (s : State) : State :=
  { s with cores := tmap s.cores (fun _ c => { c with tarn := [], spill := [], opStore := [], vregs := [], sregs := [], window := [], spillTick := none }) }

/-- STILL_ENTRY (R610, Table 16-4): the Mere is written back and empty, the stacks in self-refresh, the cores' stores empty, every
port but PTP's parked. -/
def State.stillEntry (s : State) : State :=
  if s.rd F.pwrMstate != 1 || !s.flag F.pwrStillEn || s.power.idleFor < s.rd F.pwrStillTicks || s.busy ||
      s.liveParts.any (fun p => (s.part p).tier.lends != []) then s
  else
    let s := (s.flushMere (fun _ => true)).emptyCores
    let s := (List.range 24).foldl (fun s n => s.modStack n (fun x => { x with selfRefresh := true })) s
    let s := (List.range 8).foldl (fun s n =>
      if n = s.rd F.cadPortNow || s.flag F.npParked n then s
      else
        let old := s.rd F.npWidth n
        ((((s.wr F.npParked 1 n).wr F.npLink 0 n).wr F.npWidth 0 n).wr F.npPmode pmDown n).inc F.npParks 1 n |>.widthEvent n 5 old 0) s
    (s.wr F.pwrMstate 2).eventAll 0x2E [1, 2, 0, s.tick]

/-- Energy, limits and heat at a tick boundary (R83, R84, R596, R599, R604); no tick ends at the first boundary of a grid. -/
def State.powerBoundary (s : State) (first : Bool) (m : Meter) : State :=
  let s := (s.ledgerClose m).stallsClose m
  let s := if first then s.modPower (fun w => { w with einPrev := m.ein.toNat }) else s.estimate m
  s.thermalBoundary.latchLimits

end Sys2Proof.Machine
end

