-- ==== Sys2Proof/Machine/CollCmd.lean ====
section
/-! DEFINITION. The commands of collectives (12_collectives_and_steps.md): descriptors 0x40 to 0x4B, list entries, sheaves,
rings and permutes. -/
namespace Sys2Proof.Machine

/-! ## Descriptors -/

def execGroupRegister (d : Desc) (s : State) : Host.Outcome State Fault Refusal := closing (withDesc 0x40 d s State.runGroupRegister)

def execGroupRelease (d : Desc) (s : State) : Host.Outcome State Fault Refusal := closing (withDesc 0x41 d s State.runGroupRelease)

def execSheafRegister (d : Desc) (s : State) : Host.Outcome State Fault Refusal := closing (withDesc 0x42 d s State.runSheafRegister)

def execSheafRelease (d : Desc) (s : State) : Host.Outcome State Fault Refusal := closing (withDesc 0x43 d s State.runSheafRelease)

def execCollectiveListRegister (d : Desc) (s : State) : Host.Outcome State Fault Refusal :=
  closing (withDesc 0x44 d s State.runCollListRegister)

def execCollectiveListRelease (d : Desc) (s : State) : Host.Outcome State Fault Refusal :=
  closing (withDesc 0x45 d s State.runCollListRelease)

def execActivationLedgerRegister (d : Desc) (s : State) : Host.Outcome State Fault Refusal :=
  closing (withDesc 0x46 d s State.runLedgerRegister)

def execActivationLedgerRelease (d : Desc) (s : State) : Host.Outcome State Fault Refusal :=
  closing (withDesc 0x47 d s State.runLedgerRelease)

/-- Whether a partition takes a permute (R439): no step queued or running, and no permute in progress. -/
def State.permRoom (s : State) (p : Nat) : Bool := (s.part p).cad.steps == [] && (s.part p).coll.permute.isNone

/-- Descriptor 0x48 is consumed only when R439 lets it be. -/
def execPermute (d : Desc) (s : State) : Host.Outcome State Fault Refusal :=
  closing (if s.permRoom d.part.val then withDesc 0x48 d s State.runPermute else s)

def execChaffLedgerSet (d : Desc) (s : State) : Host.Outcome State Fault Refusal := closing (withDesc 0x49 d s State.runChaffSet)

def execFillerListPost (d : Desc) (s : State) : Host.Outcome State Fault Refusal := closing (withDesc 0x4A d s State.runFillerPost)

def execFillerListWithdraw (d : Desc) (s : State) : Host.Outcome State Fault Refusal := closing (withDesc 0x4B d s State.runFillerWithdraw)

/-! ## List entries -/

/-- The oldest step in progress whose list has an entry idx that has neither begun nor failed. -/
def State.entryToBegin (s : State) (p idx : Nat) : Option StepRun :=
  (s.actives p).find? (fun r => (s.entry? p r.id idx).isSome && !(s.entryRun p r.id idx).begun && !(s.entryRun p r.id idx).failed)

/-- COLLECTIVE_ENTRY_BEGIN (R417, R419, R423, R424, R426). -/
def execCollectiveEntryBegin (p : PartId) (idx : Fin 1024) (s : State) : Host.Outcome State Fault Refusal :=
  match s.entryToBegin p.val idx.val with
  | none => finish s
  | some r => closing (s.beginEntry p.val r.id idx.val)

/-- The oldest step in progress whose entry idx is past DL_TIDX and not complete (R418). -/
def State.entryOverdue (s : State) (p idx : Nat) : Option StepRun :=
  (s.actives p).find? (fun r => match s.entry? p r.id idx with
    | none => false
    | some (_, e) => eOp e != 0 && eDl e != 0xFFFF && decide (r.first + eDl e ≤ s.tick) && !(s.entryRun p r.id idx).complete &&
        !(s.entryRun p r.id idx).failed)

/-- COLLECTIVE_ENTRY_DEADLINE (R418); SH_GRACE past the boundary has elapsed as the command says. -/
def execCollectiveEntryDeadline (p : PartId) (idx : Fin 1024) (s : State) : Host.Outcome State Fault Refusal :=
  match s.entryOverdue p.val idx.val with
  | none => finish s
  | some r => closing (s.failEntry p.val r.id idx.val 1 0)

/-- A piece of a list entry taken from a channel's pool buffer (R414). -/
def State.pieceRx (s : State) (cid kind : Nat) : State :=
  s.collTake cid [kind] (fun p g src _ h bs s =>
    let (ok, s) := s.entryPart p g src h (bytesAt bs 64 h.len)
    (ok, false, s))

/-- GATHER_PIECE_RX (R414, R419, R420). -/
def execGatherPieceRx (cid : Fin 16384) (s : State) : Host.Outcome State Fault Refusal := closing (s.pieceRx cid.val 0x12)

/-- BROADCAST_PIECE_RX (R414, R423). -/
def execBroadcastPieceRx (cid : Fin 16384) (s : State) : Host.Outcome State Fault Refusal := closing (s.pieceRx cid.val 0x13)

/-- ALL_TO_ALL_BLOCK_RX (R414, R424). -/
def execAllToAllBlockRx (cid : Fin 16384) (s : State) : Host.Outcome State Fault Refusal := closing (s.pieceRx cid.val 0x14)

/-! ## Rings -/

/-- P2P_RING_SLOT_RX (R421). -/
def execP2pRingSlotRx (p : PartId) (g : Fin 16) (k : Fin 64) (s : State) : Host.Outcome State Fault Refusal :=
  closing (s.takeSlot p.val g.val k.val)

/-- P2P_STALL_TIMEOUT (R508). -/
def execP2pStallTimeout (p : PartId) (g : Fin 16) (rank : Fin 64) (s : State) : Host.Outcome State Fault Refusal :=
  closing ((s.ringLook p.val g.val rank.val).p2pStall p.val g.val rank.val)

/-! ## Sheaves -/

/-- CONTRIBUTION_RX (R414, R427, R428, R433). -/
def execContributionRx (cid : Fin 16384) (s : State) : Host.Outcome State Fault Refusal :=
  closing (s.collTake cid.val [0x11] (fun p g src b h bs s => s.contribution p g src cid.val b h bs))

/-- PRESENCE_MAP_RX (R414, R429). -/
def execPresenceMapRx (cid : Fin 16384) (s : State) : Host.Outcome State Fault Refusal :=
  closing (s.collTake cid.val [0x15] (fun p g src _ h bs s =>
    let (ok, s) := s.presenceMap p g src h bs
    (ok, false, s)))

/-- SHEAF_CLOSE (R427): T_c has come, at DL_TIDX and SH_GRACE after it as the command says. -/
def execSheafClose (p : PartId) (n : Fin 1024) (s : State) : Host.Outcome State Fault Refusal :=
  match s.sheafOpen? p.val n.val with
  | none => finish s
  | some (r, e) =>
    if eDl e != 0xFFFF && decide (r.first + eDl e ≤ s.tick) then closing (s.closeSheaf p.val n.val r.stepNo (closeFlags e)) else finish s

/-- MAPS_AWAITED_TIMEOUT (R429): REC_TMO has passed as the command says; the event tells once. -/
def execMapsAwaitedTimeout (p : PartId) (n : Fin 1024) (s : State) : Host.Outcome State Fault Refusal :=
  match s.sheaf? p.val n.val with
  | none => finish s
  | some h => match h.close, s.group? p.val h.group with
    | some c, some x =>
      if c.final.isSome || c.toldMaps || s.mapsMissing p.val h x c = [] then finish s
      else finish ((s.putSheaf p.val n.val { h with close := some { c with toldMaps := true } }).sheafEvent p.val n.val x.ownShard c.step 3
        (nthD c.own 0 0) h.expMask 0)
    | _, _ => finish s

/-- SHEAF_RECORD_FINAL (R429, R430, R432, R434, R437). -/
def execSheafRecordFinal (p : PartId) (n : Fin 1024) (s : State) : Host.Outcome State Fault Refusal := closing (s.sheafFinal p.val n.val)

/-- SHEAF_MERGE_COMPLETE (R430, R431). -/
def execSheafMergeComplete (p : PartId) (n : Fin 1024) (s : State) : Host.Outcome State Fault Refusal := closing (s.sheafMerge p.val n.val)

/-! ## Permutes -/

/-- PERMUTE_LEAF_RX (R440, R441). -/
def execPermuteLeafRx (cid : Fin 16384) (s : State) : Host.Outcome State Fault Refusal :=
  closing (s.collTake cid.val [0x16] (fun p g src _ h bs s =>
    let (ok, s) := s.permLeaf p g src h bs
    (ok, false, s)))

/-- PERMUTE_CONTROL_RX (R439 to R442). -/
def execPermuteControlRx (cid : Fin 16384) (s : State) : Host.Outcome State Fault Refusal :=
  closing (s.collTake cid.val [0x17] (fun p g src _ h bs s =>
    let (ok, s) := s.permControl p g src h bs
    (ok, false, s)))

end Sys2Proof.Machine
end

