-- ==== Sys2Proof/Machine/DispCmd.lean ====
section
/-! DEFINITION. The descriptors of dispatch contexts (07_index_and_dispatch.md, R250, R251). -/
namespace Sys2Proof.Machine

def execDispatchContextRegister (d : Desc) (s : State) : Host.Outcome State Fault Refusal := closing (withDesc 0x17 d s State.runDctxRegister)

def execDispatchContextRelease (d : Desc) (s : State) : Host.Outcome State Fault Refusal := closing (withDesc 0x18 d s State.runDctxRelease)

end Sys2Proof.Machine
end

