-- ==== Sys2Proof/Machine/HostIf.lean ====
section
/-! DEFINITION. The host ports (14_host_interface.md): links, attach and detach, ring bindings, ring pairs, MSI-X, and the
registered regions of BAR2. -/
namespace Sys2Proof.Machine

/-! ## Pins and links (R497, R498, R528, R538) -/

/-- The host port event (Table 14-20): causes 1 link up, 2 link down, 3 PERST, 4 hot reset, 5 link disable, 6 FLR, 7 attach,
8 detach, 9 uncorrectable error. -/
def State.hostEvent (s : State) (q cause : Nat) : State :=
  let s := s.flush
  s.eventAt q 0x26 noPart [q, cause, s.rd F.hpLinkGen q, s.rd F.hpLinkWidth q, s.rd F.hpCxlMode q, s.rd F.hpHifAgreed q, s.rd F.hpBacklog q]

/-- Whether a seal change holds port q busy: a module change every port, a partition's its own (R535). -/
def State.sealBusy (s : State) (q : Nat) : Bool :=
  s.host.sealing.any (fun c => match c with
    | .module => true
    | .part p => s.portOf p == q)

/-- Whether firmware is being loaded (R528, Table 17-9). -/
def State.loading (s : State) : Bool := s.rst.running.any (fun a => a.col == 5)

/-- BUSY_N of port q as R528 gives it; through a reset it holds its level. -/
def State.busyLook (s : State) (q : Nat) : State :=
  if s.rst.stage < 4 then s
  else
    let h := s.port q
    let ok := s.rst.ready && !h.training && !s.sealBusy q && !s.loading && !bitN (s.rd F.rstEngInr) (8 + q)
    s.modPort q (fun h => { h with busyN := ok })

/-- Whether port q's host domain is released. -/
def State.hostUp (s : State) (q : Nat) : Bool := decide (4 ≤ s.rst.stage) && !bitN (s.rd F.rstEngInr) (8 + q)

/-- PCIE_LINK_UP (R497, R498): the port trains; CXL runs when it was offered and the partner takes it at 32 GT/s and ×16 or
×8. A link that trains again because of a module reset emits no event (R538). -/
def State.pcieUp (s : State) (q gen width : Nat) (cxl cache : Bool) : State :=
  let h := s.port q
  if !h.perstN || !s.hostUp q then s
  else
    let c := cxl && s.flag F.hpCxlOffer q && gen == 5 && (width == 16 || width == 8)
    let s := (((s.wr F.hpLinkGen gen q).wr F.hpLinkWidth width q).wr F.hpCxlMode (b2n c) q).wr F.hpCxlCache (b2n (c && cache)) q
    let s := (s.modPort q (fun h => { h with training := false, afterReset := false })).busyLook q
    if h.afterReset then s else s.hostEvent q 1

/-- The registers of a link that is down. -/
def State.linkGone (s : State) (q : Nat) : State :=
  (((s.wr F.hpLinkGen 0 q).wr F.hpLinkWidth 0 q).wr F.hpCxlMode 0 q).wr F.hpCxlCache 0 q

/-- Every RW field of a table's block at its Reset value (Table 17-8). -/
def State.resetRw (s : State) (fs : List Fld) (b : Nat) : State :=
  (fs.filter (fun f => f.acc == .rw)).foldl (fun s f => (List.range f.count).foldl (fun s i => s.wr f (f.resetVal b i) b i) s) s

/-! ## Rings (R509, R510, R517, R518) -/

/-- The destroy that waited for a ring completes (R518). -/
def State.destroyed (s : State) (r : Ring) : State :=
  match r.destroyer with
  | none => s
  | some d => s.done d

/-- A ring that ends: descriptors consumed from it that have not completed run on (R530). -/
def State.dropRing (s : State) (k : Nat) : State :=
  match s.ring? k with
  | none => s
  | some r =>
    let s := s.delRing k
    if r.outstanding = [] then s.destroyed r else { s with host := { s.host with gone := tput s.host.gone r.life (k, r) } }

/-- The ring pairs a partition has in use (Table 14-19). -/
def State.countRings (s : State) (p : Nat) : State :=
  s.wr F.pRings ((List.range 64).filter (fun n => thas s.host.rings (pairKey p n))).length p

/-- A ring bound or created: a new life, its counts at zero, and zero written into SQ_HEAD and CQ_TAIL (R510). -/
def State.newRing (s : State) (k log sq cq cb pay vec : Nat) (vecEn : Bool) (cnt us : Nat) : State :=
  let q := s.keyPort k
  let r : Ring := ⟨s.host.nextLife, false, log, sq, cq, cb, pay, vec, vecEn, cnt, us, 0, 0, 0, 0, 0, [], [], none⟩
  let s := (s.hostWrite q (cb + 64) (leBytes 8 0)).hostWrite q (cb + 72) (leBytes 8 0)
  ({ s with host := { s.host with nextLife := s.host.nextLife + 1 } }).putRing k r

/-- The ring event of a ring (Table 14-20): causes 1 doorbell overrun, 2 head beyond tail, 3 host memory error, 4 records lost,
5 orphans delivered, 6 BAR2 miss, 7 region released, 8 peer-to-peer fallback. One that names a partition goes to that partition's
event ring, any other to the port's module event ring alone (R521). -/
def State.ringEvent (s : State) (q part ring cause : Nat) (r : Option Ring) (count extra : Nat) : State :=
  let c := match r with
    | some r => [r.sqTail, r.sqHead, r.cqHead, r.cqTail]
    | none => [0, 0, 0, 0]
  let w := [q, part, ring, cause] ++ c ++ [count, extra]
  if part = noPart then s.eventAt q 0x27 part w else s.event 0x27 part w

/-- The backlog of a port after a binding (R531): the records that waited for the ring are written first, orphaned completion
records reported. -/
def State.bindDrain (s : State) (q p k : Nat) : State :=
  let n := (s.port q).backlog.length
  let orphans := ((s.port q).backlog.map s.resolve).filter (fun o => o.record.isCpl && s.routeKey? o.route == some k)
  let s := s.drain q
  let left := ((s.port q).backlog.filter (fun o => o.record.isCpl && s.routeKey? o.route == some k)).length
  if n = 0 || orphans.length = left then s
  else s.ringEvent q p 64 5 (s.ring? k) (orphans.length - left) 0

/-- Bits 63 to lo of an address held in two registers, the low bits zero. -/
def addrOf (l h lo : Nat) : Nat := l * 2 ^ lo + h * 2 ^ 32

/-- RING0_BIND (R510, R525, R532). -/
def State.ring0Bind (s : State) (p : Nat) : State :=
  let s := s.newRing (pairKey p 0) (s.rd F.pAqLog p) (addrOf (s.rd F.pAqSqL p) (s.rd F.pAqSqH p) 6) (addrOf (s.rd F.pAqCqL p) (s.rd F.pAqCqH p) 6)
    (addrOf (s.rd F.pAqCbL p) (s.rd F.pAqCbH p) 7) 0 (s.rd F.pAqVec p) (s.flag F.pAqVecEn p) 1 0
  (s.countRings p).drain (s.portOf p)

def State.ring0Unbind (s : State) (p : Nat) : State := (s.dropRing (pairKey p 0)).countRings p

/-- EVENT_RING_BIND (R510, R531). -/
def State.eventBind (s : State) (p : Nat) : State :=
  let s := s.newRing (eventKey p) (s.rd F.pEqLog p) 0 (addrOf (s.rd F.pEqBaseL p) (s.rd F.pEqBaseH p) 6)
    (addrOf (s.rd F.pEqCbL p) (s.rd F.pEqCbH p) 7) (addrOf (s.rd F.pEqPayL p) (s.rd F.pEqPayH p) 6) (s.rd F.pEqVec p) (s.flag F.pEqVecEn p) 1 0
  s.bindDrain (s.portOf p) p (eventKey p)

/-- MODULE_RING_BIND (R510, R531). -/
def State.moduleBind (s : State) (q : Nat) : State :=
  let s := s.newRing (moduleKey q) (s.rd F.mqLog q) 0 (addrOf (s.rd F.mqBaseL q) (s.rd F.mqBaseH q) 6)
    (addrOf (s.rd F.mqCbL q) (s.rd F.mqCbH q) 7) (addrOf (s.rd F.mqPayL q) (s.rd F.mqPayH q) 6) (s.rd F.mqVec q) (s.flag F.mqVecEn q) 1 0
  s.drain q

/-! ## Attach and detach (R45, R46, R529, R530) -/

/-- The version event (Table 1-12) of an attach. -/
def State.hostVersionEvent (s : State) (q agreed : Nat) : State :=
  s.eventAll 0x03 [1, q, s.rd F.idHifMin + 256 * s.rd F.idHifMax, s.rd F.hpDrvMin q + 256 * s.rd F.hpDrvMax q, agreed]

/-- The highest version both sides support, 0 when none (R45). -/
def hostAgreed (amin amax bmin bmax : Nat) : Nat :=
  let v := Nat.min amax bmax
  if bmin ≤ bmax && amin ≤ v && bmin ≤ v then v else 0

/-- ATTACH (R529). -/
def State.attach (s : State) (q : Nat) : State :=
  if s.flag F.hpAttached q then s.clampReg q none 9 0x0E0A (F.hpAttach.addr q 0) 1 0
  else
    let v := hostAgreed (s.rd F.idHifMin) (s.rd F.idHifMax) (s.rd F.hpDrvMin q) (s.rd F.hpDrvMax q)
    let s := (s.wr F.hpHifAgreed v q).wr F.hpAttached (b2n (v != 0)) q
    let s := s.hostVersionEvent q v
    if v = 0 then s else s.hostEvent q 7

/-- The partitions whose port is q. -/
def partsOf (s : State) (q : Nat) : List Nat := (List.range 36).filter (fun p => s.portOf p == q)

/-- What a detach does (R530): ATTACHED and HIF_AGREED cleared, every binding of the port unbound, every ring pair destroyed. -/
def State.detachRings (s : State) (q : Nat) : State :=
  let s := ((s.wr F.hpAttached 0 q).wr F.hpHifAgreed 0 q).wr F.mqEn 0 q
  let s := s.dropRing (moduleKey q)
  (partsOf s q).foldl (fun s p =>
    let s := (s.wr F.pAqEn 0 p).wr F.pEqEn 0 p
    let s := (List.range 65).foldl (fun s n => s.dropRing (pairKey p n)) s
    if s.rd F.pRings p = 0 then s else s.countRings p) s

/-- A detach with its event: a write of DETACH reports the driver's detach, any other cause itself. -/
def State.detach (s : State) (q cause : Nat) : State :=
  let was := s.flag F.hpAttached q
  let s := s.detachRings q
  if was || cause != 8 then s.hostEvent q cause else s

/-- The port loses its link for a cause (R528, R530): it detaches, and takes no submission until it has trained. -/
def State.portDown (s : State) (q cause : Nat) : State :=
  if s.rst.stage < 4 then s
  else (((s.linkGone q).modPort q (fun h => { h with training := true })).busyLook q).detach q cause

/-- The host domain of one port is reset, as a block reset of that port (Table 17-1, R625, Table 17-6): it detaches, its RW fields and
its MSI-X table take their reset values, and its link trains; the port's block reset (block 5) ends with BLOCK_RESET_RELEASE. -/
def State.portReset (s : State) (q cause : Nat) : State :=
  if s.rst.stage < 4 then s
  else
    let s := if thas s.rst.blocks (5 * 512 + q) then s else { s with rst := { s.rst with blocks := tput s.rst.blocks (5 * 512 + q) ⟨false, 0⟩ } }
    let s := s.wr F.rstEngInr (setFld (s.rd F.rstEngInr) (8 + q) 1 1)
    let s := s.portDown q cause
    let s := (s.resetRw F.t14_17_host q).resetRw F.t14_18_mq q
    s.modPort q (fun h => { h with vectors := [], msixFnMask := false })

/-! ## Ring pairs (R517, R518) -/

/-- The null resource's field code of the host family. -/
def hostNull : Nat := freeCode 14 0

/-- Descriptor 0x19 (R517, Table 14-7). -/
def State.runRingCreate (r : DRef) (d : Desc) (s : State) : State :=
  let p := r.part
  let n := d.fld 0 6
  let used := ((List.range 64).filter (fun k => k != 0 && thas s.host.rings (pairKey p k))).length + 1
  if n = 0 || thas s.host.rings (pairKey p n) || s.rd F.pRingsMax p ≤ used then s.nullDesc r hostNull n
  else
    let log := d.fld 8 5
    let new := decide (0x12 ≤ s.rd F.hpHifAgreed (s.portOf p))
    let (r, s) := if log < 6 then ({ r with clamped := true }, s.clampDesc r 1 0x0E04 log 6)
      else if 16 < log then ({ r with clamped := true }, s.clampDesc r 2 0x0E04 log 16) else (r, s)
    let (r, s) := if new && d.fld 32 8 = 0 then ({ r with clamped := true }, s.clampDesc r 1 0x0E06 0 1) else (r, s)
    let s := s.newRing (pairKey p n) (Nat.min 16 (Nat.max 6 log)) (d.at 24 64) (d.at 32 64) (d.at 40 64) 0 (d.fld 16 11) (d.fld 27 1 == 1)
      (if new then Nat.max 1 (d.fld 32 8) else 1) (if new then d.fld 40 8 else 0)
    (s.countRings p).done r

/-- Whether a record still waits for a ring: on its way, or in its port's backlog. -/
def State.owes (s : State) (k : Nat) (r : Ring) : Bool :=
  let mine := fun (o : OutRec) => o.route == .cpl (k / 66) (k % 66) r.life
  s.out.any mine || (s.port (s.keyPort k)).backlog.any mine

/-- A destroy that waits completes once everything consumed from its ring has (R518, R662). -/
def State.destroyLook (s : State) (k : Nat) : State :=
  match s.ring? k with
  | none => s
  | some r =>
    match r.destroyer with
    | none => s
    | some d =>
      if r.outstanding != [] then s
      else
        let s := s.flush
        if s.owes k r then s else (s.dropRing k).countRings d.part

/-- Descriptor 0x1A (R518). -/
def State.runRingDestroy (r : DRef) (d : Desc) (s : State) : State :=
  let n := d.fld 0 6
  let k := pairKey r.part n
  match s.ring? k with
  | none => s.nullDesc r hostNull n
  | some x =>
    if n = 0 || n = r.ring || x.destroyer.isSome then s.nullDesc r hostNull n
    else (s.putRing k { x with destroyer := some r }).destroyLook k

/-! ## Regions of BAR2 (R502 to R506) -/

/-- BAR2's size in 2 MiB units. -/
def State.bar2Units (s : State) (q : Nat) : Nat := 2 ^ (15 + s.rd F.hpBar2Log q)

/-- The lowest offset at which n units fit beside the port's regions (R502). -/
def State.regionFit (s : State) (q n : Nat) : Option Nat :=
  let rs := (s.port q).regions
  let free := fun (o : Nat) => decide (o + n ≤ s.bar2Units q) && !rs.any (fun e => decide (e.2.ofs < o + n) && decide (o < e.2.ofs + e.2.len))
  let c := (0 :: rs.map (fun e => e.2.ofs + e.2.len)).filter free
  match c with
  | [] => none
  | o :: os => some (os.foldl Nat.min o)

/-- Descriptor 0x2C (R502). -/
def State.runRegion (r : DRef) (d : Desc) (s : State) : State :=
  let q := s.portOf r.part
  let pva := d.fld 0 64
  let n := d.fld 64 32
  let (r, s) := if n = 0 then ({ r with clamped := true }, s.clampDesc r 1 0x0E07 0 1)
    else if 2 ^ 21 < n then ({ r with clamped := true }, s.clampDesc r 2 0x0E07 n (2 ^ 21)) else (r, s)
  let n := Nat.min (2 ^ 21) (Nat.max 1 n)
  let perm := d.at 28 2
  let inside := fun (i : Nat) => (rtFind (s.part r.part).rt (pva + i * mib2)).isSome
  match s.regionFit q n, tfree (s.port q).regions 4096 with
  | some o, some g =>
    if perm = 0 || pva % mib2 != 0 || !(List.range n).all inside then s.nullDesc r hostNull pva
    else (s.modPort q (fun h => { h with regions := tput h.regions g ⟨r.part, pva, n, perm, o, none⟩ })).complete r 0 false (g + o * 2 ^ 16)
  | _, _ => s.nullDesc r hostNull pva

/-- Whether a BAR2 offset falls in a region. -/
def Region.holds (x : Region) (ofs : Nat) : Bool := decide (x.ofs * mib2 ≤ ofs) && decide (ofs < (x.ofs + x.len) * mib2)

/-- The region a BAR2 offset falls in. -/
def State.regionAt? (s : State) (q ofs : Nat) : Option Region :=
  ((s.port q).regions.find? (fun e => e.2.holds ofs)).map (fun e => e.2)

/-- The region releases of a port that no access in flight holds up any more (R506). -/
def State.regionsLook (s : State) (q : Nat) : State :=
  (s.port q).regions.foldl (fun s e => match e.2.releasing with
    | some r =>
      if (s.port q).waiting.any (fun x => e.2.holds x.ofs) then s
      else (s.modPort q (fun h => { h with regions := tdel h.regions e.1 })).done r
    | none => s) s

/-- Descriptor 0x2D (R506): complete once no access to the region is in flight. -/
def State.runRegionRelease (r : DRef) (d : Desc) (s : State) : State :=
  let q := s.portOf r.part
  let g := d.fld 0 12
  match tget? (s.port q).regions g with
  | none => s.nullDesc r hostNull g
  | some x =>
    if x.part != r.part || x.releasing.isSome then s.nullDesc r hostNull g
    else (s.modPort q (fun h => { h with regions := tput h.regions g { x with releasing := some r } })).regionsLook q

/-- A miss (R503): counted, and reported at most once per port per tick. -/
def State.bar2Miss (s : State) (q ofs : Nat) : State :=
  let s := s.inc F.hpBar2Miss 1 q
  if (s.port q).missTick = some s.tick then s
  else (s.modPort q (fun h => { h with missTick := some s.tick })).ringEvent q noPart 0xFF 6 none 1 ofs

/-- A BAR2 access's place: the partition, the region, the PVA, or a miss with the translation fault R37 gives it (R503). -/
def State.bar2Find (s : State) (q ofs n : Nat) (write : Bool) : Option (Nat × Nat) × State :=
  match s.regionAt? q ofs with
  | none => (none, s)
  | some x =>
    let pva := x.pva + (ofs - x.ofs * mib2)
    if !bitN x.perm (b2n write) || (x.ofs + x.len) * mib2 < ofs + n then (none, s)
    else match s.badLine? x.part pva n write with
      | some (a, why) => (none, s.xfault x.part (2 ^ 16 + 0x100 + engBar2) a (if write then 2 else 1) why)
      | none => (some (x.part, pva), s)

/-- The answer to a read. -/
def State.answered (s : State) (a : HostAnswer) : State := { s with host := { s.host with answer := a } }

/-- A BAR2 access carried out (R503, R505): a read answered, a write applied or discarded. -/
def State.bar2Run (s : State) (q : Nat) (x : Bar2Req) : State :=
  match x.data with
  | none =>
    match s.bar2Find q x.ofs x.len false with
    | (none, s) => (s.bar2Miss q x.ofs).answered .unsupported
    | (some (p, pva), s) =>
      let (y, s) := s.readPva (s.engCtx p engBar2) pva x.len
      s.answered (.data y.bytes y.poison)
  | some bs =>
    match s.bar2Find q x.ofs bs.length true with
    | (none, s) => s.bar2Miss q x.ofs
    | (some (p, pva), s) => (s.writePva (s.engCtx p engBar2) pva bs false).2

/-- A BAR2 access as it arrives: it waits behind those of its port that wait (R505), while its region's partition waits on device
memory (R84, R312) or the module is in Still, while its hub's stop is in reset, and for a granule of an object it reads. -/
def State.bar2Take (s : State) (q : Nat) (x : Bar2Req) : State :=
  let busy := (s.port q).waiting != [] || s.hostStopped q || (match s.regionAt? q x.ofs with
    | some g => s.memWaits g.part || s.rd F.pwrMstate == 2
    | none => false)
  let wait := fun (s : State) => s.modPort q (fun h => { h with waiting := h.waiting ++ [x] })
  if busy then wait s
  else match s.demandRun (.bar2 q) (fun s => s.bar2Run q x) with
    | (true, s) => wait s
    | (false, s) => s

/-- The BAR2 accesses of a port that wait looked at again, in the order they arrived. -/
def State.bar2Look (s : State) (q : Nat) : State :=
  let l := (s.port q).waiting
  if l = [] then s else (l.foldl (fun s x => s.bar2Take q x) (s.modPort q (fun h => { h with waiting := [] }))).regionsLook q

/-- A BAR2 access that arrives: one to a region that is being released is a miss (R506). -/
def State.bar2Arrive (s : State) (q : Nat) (x : Bar2Req) : State :=
  match s.regionAt? q x.ofs with
  | some g =>
    if g.releasing.isNone then s.bar2Take q x
    else if x.data.isNone then (s.bar2Miss q x.ofs).answered .unsupported
    else s.bar2Miss q x.ofs
  | none => s.bar2Take q x

/-- BAR2_READ (R503). -/
def State.bar2Read (s : State) (q ofs n : Nat) : State := s.wakeBar2.bar2Arrive q ⟨ofs, n, none⟩

/-- BAR2_WRITE (R503, R505). -/
def State.bar2Write (s : State) (q ofs : Nat) (bs : List Byte) : State := s.wakeBar2.bar2Arrive q ⟨ofs, bs.length, some bs⟩

/-- What waited on device memory looked at again: line requests and BAR2 accesses, as they arrived. -/
def State.memServes (s : State) : State := (s.serveHeld.bar2Look 0).bar2Look 1

/-- BAR2_RESIZE (R504): regions that no longer fit are released, each with its event; a release that waited for one is complete. -/
def State.bar2Resize (s : State) (q log : Nat) : State :=
  let s := s.wr F.hpBar2Log log q
  let out := (s.port q).regions.filter (fun e => decide (s.bar2Units q < e.2.ofs + e.2.len))
  out.foldl (fun s e =>
    let s := (s.modPort q (fun h => { h with regions := tdel h.regions e.1 })).ringEvent q e.2.part 0xFF 7 none 1 (e.2.ofs * mib2)
    match e.2.releasing with
    | some r => s.done r
    | none => s) s

/-! ## MSI-X (R526) -/

/-- A host write of a vector's mask bit, or of the function mask: what was held pending goes out as its mask clears. -/
def State.msixMask (s : State) (q : Nat) (v : Option Nat) (masked : Bool) : State :=
  let get := fun (s : State) (v : Nat) => tgetD (s.port q).vectors v { masked := true, pending := false }
  let send := fun (s : State) (v : Nat) =>
    let x := get s v
    if x.pending && !x.masked && !(s.port q).msixFnMask then
      (s.modPort q (fun h => { h with vectors := tput h.vectors v { x with pending := false } })).inc F.hpMsixSent 1 q
    else s
  match v with
  | some v => send (s.modPort q (fun h => { h with vectors := tput h.vectors v { get s v with masked := masked } })) v
  | none =>
    let s := s.modPort q (fun h => { h with msixFnMask := masked })
    ((s.port q).vectors.map (fun e => e.1)).foldl send s

/-- MSIX_COALESCE_TIMEOUT (R526): COAL_US have passed since the first record no message covers. -/
def State.coalesce (s : State) (k : Nat) : State :=
  match s.ring? k with
  | none => s
  | some r =>
    let q := s.keyPort k
    if r.sinceMsg = 0 || !r.vecEn || s.rd F.hpHifAgreed q < 0x12 then s
    else (s.putRing k { r with sinceMsg := 0 }).msixSend q r.vec

end Sys2Proof.Machine
end

