-- ==== Sys2Proof/Machine/JobCmd.lean ====
section
/-! DEFINITION. The commands of long-run continuity (13_continuity.md): descriptors 0x50 to 0x57 and the messages and
timeouts of cluster control. -/
namespace Sys2Proof.Machine

def execJobRegister (d : Desc) (s : State) : Host.Outcome State Fault Refusal := closing (withDesc 0x50 d s State.runJobRegister)

def execJobLeave (d : Desc) (s : State) : Host.Outcome State Fault Refusal := closing (withDesc 0x51 d s State.runJobLeave)

def execCheckpointSet (d : Desc) (s : State) : Host.Outcome State Fault Refusal := closing (withDesc 0x52 d s State.runCkptSet)

def execCursorWrite (d : Desc) (s : State) : Host.Outcome State Fault Refusal := closing (withDesc 0x53 d s State.runCursor)

def execCheckpointTake (d : Desc) (s : State) : Host.Outcome State Fault Refusal := closing (withDesc 0x54 d s State.runCkptTake)

def execStepReplay (d : Desc) (s : State) : Host.Outcome State Fault Refusal := closing (withDesc 0x55 d s State.runStepReplay)

def execRollback (d : Desc) (s : State) : Host.Outcome State Fault Refusal := closing (withDesc 0x56 d s State.runRollback)

def execMemberRestore (d : Desc) (s : State) : Host.Outcome State Fault Refusal := closing (withDesc 0x57 d s State.runMemberRestore)

/-! ## Leases and membership (R457 to R462, R493, R494) -/

/-- RENEW_SEND (R457): an active member's RENEW, every LEASE_TICKS / 16 ticks. -/
def State.renewSend (s : State) (p : Nat) : State :=
  match s.job? p with
  | none => s
  | some j =>
    let n := s.rd F.pLeaseTicks p
    if s.rd F.pJstate p != jsActive || s.tick < j.lastRenew + n / 16 then s
    else (s.modJob p (fun j => { j with lastRenew := s.tick })).clusterAll p ((List.range j.n).filter (fun r => r != j.self)) ccRenew
      (s.stepNo p) [s.rd F.cadState, s.rd F.pCommit p, s.rd F.pCkjob p, maskOf (s.heardIn p n j)]

/-- A RENEW received (R457, R461): under the own epoch its sender is heard, with what it reports; a higher epoch tells a
leaving member that it has left, and a held one that it may ask to join. -/
def State.renewRx (s : State) (p : Nat) (h : ClHdr) (commit ckjob : Nat) : State :=
  match s.fromMember p h with
  | none => s
  | some j =>
    let e := s.rd F.pEpoch p
    if h.epoch.toNat = e then
      s.modJob p (fun j => { j with heard := tput j.heard h.src.val s.tick, reports := tput j.reports h.src.val (commit, ckjob) })
    else if h.epoch.toNat < e then s
    else if j.leaving.isSome then s.leftJob p h.epoch.toNat
    else if s.rd F.pJstate p = jsHold then s.sendJoin p
    else s

/-- LEASE_EXPIRY (R458): a member that no longer holds its lease enters hold. -/
def State.leaseExpiry (s : State) (p : Nat) : State :=
  match s.job? p with
  | none => s
  | some j => if s.rd F.pJstate p != jsActive || s.holdsLease p j then s else s.enterHold p 2

/-- Whether this member is the lowest-ranked active one of those it hears (R459), a rank left aside. -/
def State.leads (s : State) (p : Nat) (j : Job) (aside : Nat) : Bool :=
  s.rd F.pJstate p == jsActive && s.holdsLease p j &&
    ((s.heardIn p (s.rd F.pLeaseTicks p) j).filter (fun r => j.active.contains r && r != aside)).all (fun r => j.self ≤ r)

/-- CANDIDATE_TIMEOUT (R459): the lowest-ranked candidate proposes the members it hears. -/
def State.candidate (s : State) (p : Nat) : State :=
  match s.job? p with
  | none => s
  | some j =>
    let out := s.silent p j
    if out = [] || !s.leads p j j.n || j.leaving.isSome then s
    else (s.propose p j (j.active.filter (fun r => !out.contains r))).epochLook p

/-- PROPOSE_RX (R459). -/
def State.proposeRx (s : State) (p : Nat) (h : ClHdr) (e mask proposer : Nat) : State :=
  match s.fromMember p h with
  | none => s
  | some _ => (s.takePropose p e mask proposer).epochLook p

/-- What a member states of itself taken (R45, R46, R63): false, with the version event, when its versions share none with
this module's, or its TICK_LEN or EPOCH differ. -/
def State.takeStated (s : State) (p rank : Nat) (st : ClStated) : Bool × State :=
  let lo := st.lo.toNat
  let hi := st.hi.toNat
  if hi < lo || hi < s.rd F.idCifMin || s.rd F.idCifMax < lo then (false, s.versionEvent p rank lo hi 0)
  else if st.tickLen.toNat != s.rd F.cadTickLen || st.epochS.toNat != s.rd F.cadEpochSl + 2 ^ 32 * s.rd F.cadEpochSh ||
      st.epochNs.toNat != s.rd F.cadEpochNs then (false, s.event 0x03 p [4, rank, 0, 0, 0])
  else (true, s.modJob p (fun j => { j with stated := tput j.stated rank (lo, hi) }))

/-- ACCEPT_RX (R459): the echo of a proposal, recorded when it is the one accepted here; a member that has not had the PROPOSE
takes it from its echo. -/
def State.acceptRx (s : State) (p : Nat) (h : ClHdr) (e mask proposer : Nat) (st : ClStated) : State :=
  match s.fromMember p h with
  | none => s
  | some _ => match s.takeStated p h.src.val st with
    | (false, s) => s
    | (true, s) =>
      let s := s.takePropose p e mask proposer
      match s.job? p with
      | none => s
      | some j =>
        if j.accepted != some (e, proposer, mask) then s
        else (s.modJob p (fun j => { j with accepts := if j.accepts.contains h.src.val then j.accepts else j.accepts ++ [h.src.val] })).epochLook p

/-- JOIN_RX (R461, R462, R494): the sender is heard again, and the lowest-ranked member that holds its lease proposes the active set it is
in, or for one that asks to join as a spare the set without it. -/
def State.joinRx (s : State) (p : Nat) (h : ClHdr) (active : Bool) (st : ClStated) : State :=
  match s.fromMember p h with
  | none => s
  | some _ => match s.takeStated p h.src.val st with
    | (false, s) => s
    | (true, s) =>
      let s := s.modJob p (fun j => { j with
        heard := tput j.heard h.src.val s.tick, joined := if j.joined.contains h.src.val then j.joined else j.joined ++ [h.src.val] })
      match s.job? p with
      | none => s
      | some j =>
        let s := if active && j.active.contains h.src.val then s else s.memberEvent p j.jobId (s.rd F.pEpoch p) (s.rd F.pEpoch p) (maskOf j.active) 3 0
        let set := if active then j.active else j.active.filter (fun r => r != h.src.val)
        if s.leads p j h.src.val then (s.propose p j set).epochLook p else s

/-- PAUSE_RX (R493): a request stops steps after the one it names and excuses its sender for UPD_TICKS; an answer is kept. -/
def State.pauseRx (s : State) (p : Nat) (h : ClHdr) (answer : Bool) : State :=
  match s.fromMember p h with
  | none => s
  | some _ =>
    if h.epoch.toNat < s.rd F.pEpoch p then s
    else if answer then s.modJob p (fun j => { j with pauseAcks := if j.pauseAcks.contains h.src.val then j.pauseAcks else j.pauseAcks ++ [h.src.val] })
    else
      let n := h.step.toNat
      (s.modJob p (fun j => { j with
        pauseAt := some (match j.pauseAt with | some k => Nat.min k n | none => n),
        excused := tput j.excused h.src.val (s.tick + s.rd F.pUpdTicks p) })).clusterSend p h.src.val ccPause n [1]

/-- ACTIVATION_ALLOWANCE_TIMEOUT (R494): a member not back within UPD_TICKS is missing; the next epoch forms without it. -/
def State.allowanceOver (s : State) (p r : Nat) : State :=
  match s.job? p with
  | none => s
  | some j => match tget? j.excused r with
    | none => s
    | some t =>
      if s.tick ≤ t then s
      else
        let s := s.modJob p (fun j => { j with excused := tdel j.excused r })
        match s.job? p with
        | none => s
        | some j =>
          if s.leads p j r && j.active.contains r then (s.propose p j (j.active.filter (fun k => k != r))).epochLook p else s

/-! ## Digest commit (R463 to R468, R488) -/

/-- The job a message of a step belongs to: its sender is an active member, and its epoch has not been left. -/
def State.stepMsg (s : State) (p : Nat) (h : ClHdr) : Option Job :=
  match s.fromMember p h with
  | none => none
  | some j => if s.rd F.pEpoch p ≤ h.epoch.toNat && j.active.contains h.src.val then some j else none

/-- ROOTS_RX (R467). -/
def State.rootsRx (s : State) (p : Nat) (h : ClHdr) (i root : Nat) : State :=
  match s.stepMsg p h with
  | none => s
  | some _ =>
    let key := fun (e : Nat × Nat × Nat × Nat) => e.1 == h.step.toNat && e.2.1 == h.src.val && e.2.2.1 == i
    ((s.modJob p (fun j => { j with roots := j.roots.filter (fun e => !key e) ++ [(h.step.toNat, h.src.val, i, root)] })).rootsLook p i).stepLook p

/-- READY_RX (R464): READY counts in the epoch it was sent in. -/
def State.readyRx (s : State) (p : Nat) (h : ClHdr) : State :=
  match s.stepMsg p h with
  | none => s
  | some _ =>
    let x := (h.src.val, h.step.toNat, h.epoch.toNat)
    (s.modJob p (fun j => { j with readies := if j.readies.contains x then j.readies else j.readies ++ [x] })).stepLook p

/-- NOTREADY_RX (R466). -/
def State.notReadyRx (s : State) (p : Nat) (h : ClHdr) (cause : Nat) : State :=
  match s.stepMsg p h with
  | none => s
  | some _ =>
    match (s.part p).cad.steps.find? (fun r => r.stepNo == h.step.toNat && r.fail.isNone) with
    | none => s
    | some r => (s.modStep p r.id (fun y => { y with fail := some cause, failFrom := some h.src.val })).stepLook p

/-- TREE_RX (R468 to R470). -/
def State.treeMsg (s : State) (p : Nat) (h : ClHdr) (i level first : Nat) (digs : List Nat) (ev : Nat) : State :=
  match s.stepMsg p h, s.shard? p i with
  | some _, some x => if x.stepNo = h.step.toNat then s.treeRx p h.src.val i level first digs ev else s
  | _, _ => s

/-- CKDONE_RX (R488). -/
def State.ckdoneRx (s : State) (p : Nat) (h : ClHdr) : State :=
  match s.stepMsg p h with
  | none => s
  | some _ =>
    let x := (h.src.val, h.step.toNat)
    (s.modJob p (fun j => { j with ckdone := if j.ckdone.contains x then j.ckdone else j.ckdone ++ [x] })).ckjobLook p h.step.toNat

/-! ## The commands -/

/-- A cluster-control message acted on, unless its version is higher than the epoch's (R47): that one changes nothing but the version event
that reports it (notes/assumptions/114.md). -/
def State.clusterMsg (s : State) (p : Nat) (h : ClHdr) (f : State → State) : State :=
  let s := s.heard false
  match s.fromMember p h with
  | none => f s
  | some j => if j.version < h.ver.toNat then s.versionEvent p h.src.val h.ver.toNat h.ver.toNat 0 else f s

def execRenewSend (p : PartId) (s : State) : Host.Outcome State Fault Refusal := finish (s.renewSend p.val)

/-- STATE and the ranks heard are the sender's own report; no rule acts on them. -/
def execRenewRx (p : PartId) (h : ClHdr) (_state : Fin 4) (commit ckjob _heard : DWord) (s : State) : Host.Outcome State Fault Refusal :=
  closing (s.clusterMsg p.val h fun s => s.renewRx p.val h commit.toNat ckjob.toNat)

def execLeaseExpiry (p : PartId) (s : State) : Host.Outcome State Fault Refusal := closing (s.leaseExpiry p.val)

def execCandidateTimeout (p : PartId) (s : State) : Host.Outcome State Fault Refusal := closing (s.candidate p.val)

def execProposeRx (p : PartId) (h : ClHdr) (e mask : DWord) (proposer : Fin 64) (s : State) : Host.Outcome State Fault Refusal :=
  closing (s.clusterMsg p.val h fun s => s.proposeRx p.val h e.toNat mask.toNat proposer.val)

def execAcceptRx (p : PartId) (h : ClHdr) (e mask : DWord) (proposer : Fin 64) (st : ClStated) (s : State) :
    Host.Outcome State Fault Refusal :=
  closing (s.clusterMsg p.val h fun s => s.acceptRx p.val h e.toNat mask.toNat proposer.val st)

def execJoinRx (p : PartId) (h : ClHdr) (active : Bool) (st : ClStated) (s : State) : Host.Outcome State Fault Refusal :=
  closing (s.clusterMsg p.val h fun s => s.joinRx p.val h active st)

def execPauseRx (p : PartId) (h : ClHdr) (answer : Bool) (s : State) : Host.Outcome State Fault Refusal := closing (s.clusterMsg p.val h fun s => s.pauseRx p.val h answer)

def execActivationAllowanceTimeout (p : PartId) (r : Fin 64) (s : State) : Host.Outcome State Fault Refusal :=
  closing (s.allowanceOver p.val r.val)

/-- TENSOR_ID comes with the shard's number, which names the shard. -/
def execRootsRx (p : PartId) (h : ClHdr) (i : Fin 4096) (_tensor : Word) (root : BitVec 512) (s : State) : Host.Outcome State Fault Refusal :=
  closing (s.clusterMsg p.val h fun s => s.rootsRx p.val h i.val root.toNat)

def execReadyRx (p : PartId) (h : ClHdr) (s : State) : Host.Outcome State Fault Refusal := closing (s.clusterMsg p.val h fun s => s.readyRx p.val h)

def execNotreadyRx (p : PartId) (h : ClHdr) (cause : Byte) (s : State) : Host.Outcome State Fault Refusal :=
  closing (s.clusterMsg p.val h fun s => s.notReadyRx p.val h cause.toNat)

def execTreeRx (p : PartId) (h : ClHdr) (i : Fin 4096) (level : Byte) (first : Word) (digs : List (BitVec 512)) (evidence : Word) (s : State) :
    Host.Outcome State Fault Refusal :=
  closing (s.clusterMsg p.val h fun s => s.treeMsg p.val h i.val level.toNat first.toNat (digs.map BitVec.toNat) evidence.toNat)

def execCkdoneRx (p : PartId) (h : ClHdr) (s : State) : Host.Outcome State Fault Refusal := closing (s.clusterMsg p.val h fun s => s.ckdoneRx p.val h)

end Sys2Proof.Machine
end

