-- ==== Sys2Proof/Machine/Intake.lean ====
section
/-! DEFINITION. The intake engines (09_tiers_and_weights.md, R337 to R341) and Sedge decoding (03_numbers.md, R99, R100). -/
namespace Sys2Proof.Machine

/-! ## Sedge (Tables 3-6, 3-7) -/

/-- Exponent and fraction widths of a Sedge source format. -/
def sedgeWidths (fmt : Nat) : Nat × Nat :=
  match fmt with
  | 0 => (8, 23)
  | 1 => (5, 10)
  | 2 => (8, 7)
  | 3 => (4, 3)
  | _ => (5, 2)

/-- The elements of one block whose bytes start the list, n of them in the stream still to come: their bits and the block's
length; none where it does not decode (R100). -/
def sedgeBlock (fmt n : Nat) (b : List Byte) : Option (List Nat × Nat) :=
  let (ew, fw) := sedgeWidths fmt
  let mask := leAt b 0 4
  let ebase := leAt b 4 1
  let dw := leAt b 5 1 % 16
  let plen := leAt b 6 2
  let cnt := Nat.min 256 n
  let w := 1 + dw + fw
  let present := (List.range cnt).filter (fun i => bitN mask (i / 8))
  let payload := leNat (bytesAt b 8 plen)
  let code := fun (k : Nat) => fldN payload (k * w) w
  let expo := fun (k : Nat) => ebase + fldN (code k) 1 dw
  if b.length < 8 + plen || 8 < dw || (present.length * w + 7) / 8 != plen then none
  else if (List.range present.length).any (fun k => 2 ^ ew - 1 < expo k) then none
  else
    let bits := fun (k : Nat) => fldN (code k) 0 1 * 2 ^ (ew + fw) + expo k * 2 ^ fw + fldN (code k) (1 + dw) fw
    let els := (List.range cnt).foldl (fun (a : List Nat × Nat) i =>
      if bitN mask (i / 8) then (a.1 ++ [bits a.2], a.2 + 1) else (a.1 ++ [0], a.2)) ([], 0)
    some (els.1, roundUp (8 + plen) 8)

/-- Every element of a stream's blocks, and the number of the block that failed, if one did, with whether the bytes at hand ended in it. -/
def sedgeBlocks (fmt : Nat) : Nat → Nat → Nat → List Byte → List Nat × Option (Nat × Bool)
  | 0, _, _, _ => ([], none)
  | k + 1, i, n, b =>
    if n = 0 then ([], none)
    else match sedgeBlock fmt n b with
      | none => ([], some (i, decide (b.length < 8) || decide (b.length < 8 + leAt b 6 2)))
      | some (els, len) =>
        let (r, bad) := sedgeBlocks fmt k (i + 1) (n - els.length) (b.drop len)
        (els ++ r, bad)

/-- Whether a stream's header passes R339 for n elements and a source of the given length. -/
def sedgeHeaderOk (b : List Byte) (n len : Nat) : Bool :=
  leAt b 0 1 == 0x10 && decide (leAt b 1 1 ≤ 4) && leAt b 8 8 == n && decide (leAt b 16 8 ≤ len)

/-- Whether SCRC matches the whole stream with its own field taken as zero. -/
def sedgeCrcOk (b : List Byte) : Bool :=
  let t := bytesAt b 0 (leAt b 16 8)
  leAt b 4 4 == crc32c (t.take 4 ++ List.replicate 4 0 ++ t.drop 8)

/-! ## The block (Table 9-8) -/

/-- The fields of an intake block, clamped (R338). -/
structure IntD where
  kind : Nat
  sfmt : Nat
  dfmt : Nat
  conv : Nat
  swapDst : Bool
  side : Nat
  swap : Nat
  tensor : Nat
  rows : Nat
  cols : Nat
  sld : Nat
  sref : Nat
  soff : Nat
  slen : Nat
  dst : Nat
  dld : Nat
  dsld : Nat
  dsaddr : Nat
  ebase : Nat
  step : Nat
  deriving DecidableEq, Repr

def intOf (b : Nat) : IntD :=
  { kind := fldN b 8 2, sfmt := fldN b 10 5, dfmt := fldN b 15 5, conv := fldN b 20 8, swapDst := bitN b 28, side := fldN b 29 1,
    swap := fldN b 30 6, tensor := fldN b 64 32, rows := Nat.max 1 (fldN b 96 32), cols := Nat.max 1 (fldN b 128 32),
    sld := fldN b 160 32, sref := fldN b 192 64, soff := fldN b 256 64, slen := fldN b 320 64, dst := fldN b 384 64,
    dld := fldN b 448 32, dsld := fldN b 480 32, dsaddr := fldN b 512 64, ebase := fldN b 576 64, step := fldN b 640 64 }

/-- Source bytes an intake reads: SRC_LEN for Sedge, the rows' span otherwise. -/
def IntD.span (x : IntD) : Nat :=
  if x.sfmt = 13 then x.slen else (x.rows - 1) * x.sld + (x.cols * elemBits x.sfmt + 7) / 8

/-- The intake fault event (Table 9-13). -/
def State.intakeEvent (s : State) (p blkPva : Nat) (x : IntD) (status block els : Nat) : State :=
  s.event 0x16 p ([p, blkPva, status, block, els] ++ (if x.swapDst then [x.swap, x.side] else [0, 0]))

/-- An intake that stops (R340): its event, and the mark of the side it wrote into (R344). -/
def State.intakeFault (s : State) (p : Nat) (o : IntakeOp) (x : IntD) (status block els : Nat) : State :=
  let s := s.intakeEvent p o.blkPva x status block els
  if x.swapDst then match s.swap? p x.swap with
    | none => s
    | some w => s.putSwap p x.swap { w with faulted := insertUp w.faulted x.side }
  else s

/-- Bytes written to the destination of an intake: a PVA, or a place in a swap side's allotment range. The answer is a
failing status. -/
def State.intakeWrite (s : State) (p : Nat) (x : IntD) (adr : Nat) (bs : List Byte) : Bool × State :=
  let c := s.engCtx p engIntake
  if x.swapDst then
    match s.swap? p x.swap with
    | none => (true, s)
    | some w =>
      let (tgt, ref) := w.side x.side
      if tgt != 0 || w.len * mib2 < adr + bs.length then (true, s)
      else (lineChunks (ref * mib2 + adr) bs.length).foldl (fun (a : Bool × State) ch =>
        if a.1 then a
        else match a.2.walk p ch.1 with
          | none => (true, a.2)
          | some (dpa, shared) => if shared then (true, a.2) else match a.2.locate? dpa with
            | none => (true, a.2)
            | some pa => (false, a.2.lineWrite p 0 (pa / 128) (pa % 128) (bytesAt bs (ch.1 - (ref * mib2 + adr)) ch.2) false true)) (false, s)
  else s.writePva { c with early := true } adr bs false

/-- Source bytes [ofs, ofs + n) of an intake, as far as they can be read, and the status of the read that failed (0 none): from device
memory, or from the granules of its object that have come. -/
def State.intakeBytes (s : State) (o : IntakeOp) (x : IntD) (ofs n : Nat) : List Byte × Nat × State :=
  match o.op with
  | none =>
    let (d, s) := s.readPva { s.engCtx o.desc.part engIntake with early := true } (x.sref + ofs) n
    let code := d.code 5 3
    (if code = 0 then d.bytes else d.bytes.take (d.pva - (x.sref + ofs)), code, s)
  | some k =>
    match tget? s.tiers.ops k with
    | none => ([], 3, s)
    | some y =>
      let (bs, bad) := (granPieces (x.soff + ofs) n).foldl (fun (a : List Byte × Bool) ch => match tget? y.got (ch.1 / 4096) with
        | some d => if a.2 then a else (a.1 ++ bytesAt d (ch.1 % 4096) ch.2, false)
        | none => (a.1, true)) ([], false)
      (bs, if bad then 3 else 0, s)

/-- The source elements of row r, in the source format's bits; a status where they cannot be read. -/
def State.intakeSource (s : State) (o : IntakeOp) (x : IntD) (sfmt : Nat) (all : List Nat) (r : Nat) : List Nat × Nat × State :=
  if x.sfmt = 13 then ((all.drop (r * x.cols)).take x.cols, 0, s)
  else
    let (bs, code, s) := s.intakeBytes o x (r * x.sld) ((x.cols * elemBits sfmt + 7) / 8)
    (unpackBits (elemBits sfmt) x.cols bs, code, s)

/-- One destination row (R337, R338): its bytes, its scale bytes and its flags. A Sedge element whose format stays keeps its
bits (R99). -/
def State.intakeRow (s : State) (p : Nat) (x : IntD) (sfmt r : Nat) (bits : List Nat) : List Byte × List Byte × Nat :=
  let c := s.convOf p x.conv
  let k := s.srKey p x.tensor x.step
  let val := fun (b : Nat) => ((plainFmt? sfmt).map (fun f => decodeF f b)).getD .nan
  let e := fun (i : Nat) => x.ebase + r * x.cols + i
  if isMx x.dfmt then
    (List.range ((x.cols + 31) / 32)).foldl (fun (a : List Byte × List Byte × Nat) b =>
      let els := ((bits.drop (32 * b)).take 32).zip (List.range 32)
      let (sc, bs, fl) := c.block k (els.map (fun y => (val y.1, e (32 * b + y.2))))
      (a.1 ++ bs, a.2.1 ++ leBytes 1 sc, flOr a.2.2 fl)) ([], [], 0)
  else
    let ys := (bits.zip (List.range bits.length)).map (fun y =>
      if x.sfmt = 13 && sfmt = x.dfmt then (y.1, 0) else c.one k (e y.2) (val y.1))
    (packBits (elemBits x.dfmt) (ys.map (fun y => y.1)), [], ys.foldl (fun f y => flOr f y.2) 0)

/-- Every row of an intake read and written until one fails: rows done, flags, and the failing status (0 none). -/
def State.intakeRows (s : State) (o : IntakeOp) (x : IntD) (sfmt nrows : Nat) (all : List Nat) : Nat × Nat × Nat × State :=
  let p := o.desc.part
  iterN nrows (fun r (a : Nat × Nat × Nat × State) =>
    if a.2.2.1 != 0 then a
    else
      let (bits, code, s) := a.2.2.2.intakeSource o x sfmt all r
      if code != 0 then (a.1, a.2.1, code, s)
      else
        let (bs, sc, fl) := s.intakeRow p x sfmt r bits
        let (bad, s) := s.intakeWrite p x (x.dst + r * x.dld) bs
        let (bad2, s) := if bad || sc = [] then (bad, s) else s.intakeWrite p x (x.dsaddr + r * x.dsld) sc
        let s := s.tierMib F.pIntkMib p (8 + p) (bs.length + sc.length)
        (if bad2 then a.1 else a.1 + 1, flOr a.2.1 fl, if bad2 then 5 else 0, s)) (0, 0, 0, s)

/-- The end of an intake with a status (R340): its event when it is not 0x00, its flags into FL_INTK (R341). -/
def State.intakeEnd (s : State) (o : IntakeOp) (x : IntD) (status block els flags : Nat) : State :=
  let p := o.desc.part
  let s := s.setTiers (fun t => { t with intakes := t.intakes.erase o })
  let s := match o.op with
    | some k => s.tierDrop k
    | none => s
  let s := s.wr F.pFlIntk (flOr (s.rd F.pFlIntk p) flags) p
  let s := if status = 0 then (if x.swapDst then match s.swap? p x.swap with
      | none => s
      | some w => s.putSwap p x.swap { w with faulted := w.faulted.filter (fun i => i != x.side) }
    else s) else s.intakeFault p o x status block els
  s.complete o.desc status false 0

/-- A Sedge intake (R339, R340): its header before anything is written, then block by block, and SCRC when the stream has ended. -/
def State.intakeSedge (s : State) (o : IntakeOp) (x : IntD) : State :=
  let n := x.rows * x.cols
  let (h, hcode, s) := s.intakeBytes o x 0 32
  if hcode != 0 then s.intakeEnd o x hcode 0 0 0
  else if !sedgeHeaderOk h n x.slen then s.intakeEnd o x 4 0 0 0
  else
    let fmt := leAt h 1 1
    let (src, code, s) := s.intakeBytes o x 0 (leAt h 16 8)
    let (els, bad) := sedgeBlocks fmt (n / 256 + 1) 0 n (src.drop 32)
    let (done, fl, wbad, s) := s.intakeRows o x fmt (Nat.min (els.length / x.cols) x.rows) els
    if wbad != 0 then s.intakeEnd o x wbad 0 (done * x.cols) fl
    else match bad with
      | some (b, short) => s.intakeEnd o x (if short && code != 0 then code else 4) b (done * x.cols) fl
      | none => s.intakeEnd o x (if code != 0 then code else if sedgeCrcOk src then 0 else 4) ((n + 255) / 256) (done * x.cols) fl

/-- An intake run (R337 to R340). -/
def State.intakeRun (s : State) (o : IntakeOp) (x : IntD) : State :=
  if x.sfmt = 13 then s.intakeSedge o x
  else
    let (done, fl, bad, s) := s.intakeRows o x x.sfmt x.rows []
    s.intakeEnd o x bad 0 (done * x.cols) fl

/-- Whether an intake into a side must wait for the swap that just left it (R343). -/
def State.intakeWaits (s : State) (p : Nat) (x : IntD) : Bool :=
  x.swapDst && (match s.swap? p x.swap with
    | some w => (match w.op with
      | some o => o.switched
      | none => false)
    | none => false)

/-- INTAKE_COMPLETE (R340): the earliest intake of a hub that may run, over its device source or the granules that came. -/
def State.intakeStep (s : State) (hub : Nat) : State :=
  match s.tiers.intakes.find? (fun o => o.hub == hub) with
  | none => s
  | some o =>
    let x := intOf o.block
    let here := match o.op with
      | some k => (match tget? s.tiers.ops k with
        | some y => y.failed || y.ready
        | none => true)
      | none => true
    if s.hostStopped hub || s.intakeWaits o.desc.part x || !here then s else (s.demandRun (.intake hub) (fun s => s.intakeRun o x)).2

/-- Descriptor 0x70 (R337 to R343): the block is checked and the intake begins on the hub of the descriptor's port. -/
def State.runIntake (r : DRef) (d : Desc) (s : State) : State :=
  let p := r.part
  let pva := d.at 16 64
  match s.descRead p pva 128 with
  | (none, s) => (s.intakeEvent p pva { intOf 0 with swapDst := false } 1 0 0).noop r
  | (some bs, s) =>
    let b := leNat bs
    let c1 := fldN b 96 32 = 0
    let c2 := fldN b 128 32 = 0
    let c3 := convRmBad (fldN b 20 8)
    let s := if c1 then s.clampDesc r 1 0x0901 0 1 else s
    let s := if c2 then s.clampDesc r 1 0x0902 0 1 else s
    let s := if c3 then s.clampDesc r 3 0x09F1 3 0 else s
    let r := { r with clamped := c1 || c2 || c3 }
    let x := intOf b
    let hub := s.portOf p
    let o : IntakeOp := ⟨r, b, pva, hub, none⟩
    let event := fun (status : Nat) => s.intakeEvent p pva x status 0 0
    let null := fun (s : State) => s.nullDesc r (freeCode 9 0) x.kind
    let sideBad := x.swapDst && (match s.swap? p x.swap with
      | none => true
      | some w => w.active == x.side || w.releasing.isSome)
    let plan := fun (s : State) (k : Option Nat) => s.setTiers (fun t => { t with intakes := t.intakes ++ [{ o with op := k }] })
    if fldN b 0 8 != 0x10 || 1 < x.kind || sideBad then null (event 1)
    else if !((x.sfmt ≤ 4 || x.sfmt = 13) && x.dfmt ≤ 9 && fldN x.conv 0 5 == x.dfmt) then
      (event 9).complete r 9 false 0
    else if x.kind = 0 then plan s none
    else
      let h := x.sref % 2 ^ 32
      match s.obj? p h with
      | none => (event 1).noObj r h
      | some ob =>
        if ob.state != 2 then (event 2).wrongState r h
        else if ob.length < x.soff + x.span then (event 1).noObj r h
        else
          let (k, s) := s.tierStart p h x.soff x.span (.intake hub)
          plan s (some k)

/-- INTAKE_COMPLETE (R340). -/
def execIntakeComplete (hub : Fin 2) (s : State) : Host.Outcome State Fault Refusal := finish (s.intakeStep hub.val)

end Sys2Proof.Machine
end

