-- ==== Sys2Proof/Machine/TierCmd.lean ====
section
/-! DEFINITION. The commands of the tier, swap and intake engines that take a descriptor or an answer (09_tiers_and_weights.md). -/
namespace Sys2Proof.Machine

def execObjectCreate (d : Desc) (s : State) : Host.Outcome State Fault Refusal := closing (withDesc 0x20 d s State.runObjCreate)

def execObjectWrite (d : Desc) (s : State) : Host.Outcome State Fault Refusal := closing (withDesc 0x21 d s State.runObjWrite)

def execObjectSeal (d : Desc) (s : State) : Host.Outcome State Fault Refusal := closing (withDesc 0x22 d s State.runObjSeal)

def execObjectRetire (d : Desc) (s : State) : Host.Outcome State Fault Refusal := closing (withDesc 0x23 d s State.runObjRetire)

def execObjectQuery (d : Desc) (s : State) : Host.Outcome State Fault Refusal := closing (withDesc 0x24 d s State.runObjQuery)

def execTierCopy (d : Desc) (s : State) : Host.Outcome State Fault Refusal := closing (withDesc 0x25 d s State.runTierCopy)

def execPromotionListRegister (d : Desc) (s : State) : Host.Outcome State Fault Refusal :=
  closing (withDesc 0x26 d s State.runPromoRegister)

def execPromotionListRelease (d : Desc) (s : State) : Host.Outcome State Fault Refusal :=
  closing (withDesc 0x27 d s State.runPromoRelease)

def execLendRegister (d : Desc) (s : State) : Host.Outcome State Fault Refusal := closing (withDesc 0x28 d s State.runLendRegister)

def execLendRelease (d : Desc) (s : State) : Host.Outcome State Fault Refusal := closing (withDesc 0x29 d s State.runLendRelease)

def execSwapSetRegister (d : Desc) (s : State) : Host.Outcome State Fault Refusal := closing (withDesc 0x60 d s State.runSwapRegister)

def execSwap (d : Desc) (s : State) : Host.Outcome State Fault Refusal := closing (withDesc 0x61 d s State.runSwap)

def execSwapSetRelease (d : Desc) (s : State) : Host.Outcome State Fault Refusal := closing (withDesc 0x62 d s State.runSwapRelease)

def execIntake (d : Desc) (s : State) : Host.Outcome State Fault Refusal := closing (withDesc 0x70 d s State.runIntake)

/-! ## Answers of lower tiers -/

/-- The partition a channel belongs to. -/
def State.chanPart (s : State) (cid : Nat) : Option Nat := (tget? s.net.chans cid).map (fun c => c.part)

/-- Read data of a lender, for a restore's read or a neighbour chunk (R324, R491). -/
def State.readDataRx (s : State) (cid tag : Nat) (data : List Byte) : State :=
  match s.chanPart cid with
  | none => s
  | some p => match s.restoreData p tag (some data) with
    | (true, s) => s
    | (false, s) => (s.tierReadData cid tag data).ckptStep p

/-- A status of a lender: for a restore's read, for a message of this module, or, when this module lends on the channel, a
status request that it answers with status done (Table 9-5, R485). -/
def State.statusRx (s : State) (cid : Nat) (h : TierHdr) : State :=
  match s.chanPart cid with
  | none => s
  | some p =>
    let tag := h.tag.toNat
    match s.restoreData p tag none with
    | (true, s) => s
    | (false, s) =>
      let mine := (s.nbrRead? p tag).isSome ||
        (match tget? s.tiers.msgs tag with
          | some m => m.part == p
          | none => false)
      if !mine && (s.lend? cid h.lend.toNat).isSome then s.lendReply cid 6 h.lend.toNat 0 tag 0 0 []
      else (s.tierStatus p tag h.status.toNat).ckptStep p

/-- TIER_READ_DATA_RX (R324). -/
def execTierReadDataRx (cid : Fin 16384) (h : TierHdr) (data : List Byte) (s : State) : Host.Outcome State Fault Refusal :=
  closing (s.readDataRx cid.val h.tag.toNat data)

/-- TIER_STATUS_RX (R325, R326, R488, R490). -/
def execTierStatusRx (cid : Fin 16384) (h : TierHdr) (s : State) : Host.Outcome State Fault Refusal := closing (s.statusRx cid.val h)

/-- GRANULE_READ_COMPLETE (R322). -/
def execGranuleReadComplete (p : PartId) (h g : Word) (data : List Byte) (s : State) : Host.Outcome State Fault Refusal :=
  closing ((s.granuleRead p.val h.toNat g.toNat data).ckptStep p.val)

/-- GRANULE_READ_FAIL (R325). -/
def execGranuleReadFail (p : PartId) (h g : Word) (s : State) : Host.Outcome State Fault Refusal :=
  closing ((s.granuleFail p.val h.toNat g.toNat).ckptStep p.val)

end Sys2Proof.Machine
end

