-- ==== Sys2Proof/Machine/HostCmd.lean ====
section
/-! DEFINITION. The commands of the host ports (14_host_interface.md): link events, poll rounds, ring and region descriptors,
BAR2 accesses and MSI-X, and the opcode table that runs a descriptor taken from a ring. -/
namespace Sys2Proof.Machine

/-! ## The opcodes (Table 0-6) -/

/-- The opcodes of the steps-and-plans, collectives and continuity families. -/
def runOpA? : Nat → Option (DRef → Desc → State → State)
  | 0x10 => some State.runKick
  | 0x11 => some State.runPlanRegister
  | 0x12 => some State.runPlanRelease
  | 0x13 => some State.runStepHold
  | 0x14 => some State.runShardRegister
  | 0x15 => some State.runShardRelease
  | 0x16 => some State.runShardQuery
  | 0x17 => some State.runDctxRegister
  | 0x18 => some State.runDctxRelease
  | 0x19 => some State.runRingCreate
  | 0x1A => some State.runRingDestroy
  | 0x40 => some State.runGroupRegister
  | 0x41 => some State.runGroupRelease
  | 0x42 => some State.runSheafRegister
  | 0x43 => some State.runSheafRelease
  | 0x44 => some State.runCollListRegister
  | 0x45 => some State.runCollListRelease
  | 0x46 => some State.runLedgerRegister
  | 0x47 => some State.runLedgerRelease
  | 0x48 => some State.runPermute
  | 0x49 => some State.runChaffSet
  | 0x4A => some State.runFillerPost
  | 0x4B => some State.runFillerWithdraw
  | 0x50 => some State.runJobRegister
  | 0x51 => some State.runJobLeave
  | 0x52 => some State.runCkptSet
  | 0x53 => some State.runCursor
  | 0x54 => some State.runCkptTake
  | 0x55 => some State.runStepReplay
  | 0x56 => some State.runRollback
  | 0x57 => some State.runMemberRestore
  | _ => none

/-- The opcodes of the memory-and-tiers, Gnoxel, swap and intake families. -/
def runOpB? : Nat → Option (DRef → Desc → State → State)
  | 0x20 => some State.runObjCreate
  | 0x21 => some State.runObjWrite
  | 0x22 => some State.runObjSeal
  | 0x23 => some State.runObjRetire
  | 0x24 => some State.runObjQuery
  | 0x25 => some State.runTierCopy
  | 0x26 => some State.runPromoRegister
  | 0x27 => some State.runPromoRelease
  | 0x28 => some State.runLendRegister
  | 0x29 => some State.runLendRelease
  | 0x2A => some State.runKeep
  | 0x2B => some State.runTranspose
  | 0x2C => some State.runRegion
  | 0x2D => some State.runRegionRelease
  | 0x30 => some State.runOpen
  | 0x31 => some State.runClose
  | 0x32 => some State.runPost
  | 0x33 => some State.runRevoke
  | 0x34 => some State.runSend
  | 0x35 => some State.runQuery
  | 0x60 => some State.runSwapRegister
  | 0x61 => some State.runSwap
  | 0x62 => some State.runSwapRelease
  | 0x70 => some State.runIntake
  | _ => none

/-- The effect of an opcode some chapter defines; a range-table edit has the opcode its source does not state. -/
def runOp? (op : Nat) : Option (DRef → Desc → State → State) :=
  match runOpA? op with
  | some f => some f
  | none => match runOpB? op with
    | some f => some f
    | none => if op = Config.rangeEditOpcode.toNat then some State.runRangeEdit else none

/-- A started descriptor's effect; an opcode no chapter defines completes with 0xE0 (R16, R519). -/
def runOp (op : Nat) (r : DRef) (d : Desc) (s : State) : State :=
  match runOp? op with
  | some f => f r d s
  | none => s.complete r 0xE0 true 0

/-- The engine whose reset leaves work of an opcode waiting in its ring (R626): the ENG_INR bit of its pair's HD0 engine, by Table 17-7.
The engine of hub die d serves the partitions of host port d. -/
def opEngine (op : Nat) : Option Nat :=
  if 0x20 ≤ op && op ≤ 0x29 then some 14
  else if op = 0x70 then some 10
  else if 0x52 ≤ op && op ≤ 0x54 || op = 0x57 then some 16
  else none

/-- Whether the engine of an opcode can start the descriptor now, its step queue, device memory and its reset or its die's stop's apart from FENCE (R312,
R443, R626). -/
def State.opStart (s : State) (p op : Nat) : Bool :=
  (op != 0x10 || s.stepRoom p) && (op != 0x48 || s.permRoom p) && s.memStart p op &&
    match opEngine op with
    | none => true
    | some b => !bitN (s.rd F.rstEngInr) (b + s.portOf p) && !s.hostStopped (s.portOf p)

/-- Whether the module consumes the descriptor now (R72, R443, R511, R626). -/
def State.opRoom (s : State) (p op : Nat) : Bool := (op != 0x10 || s.kickRoom p) && s.opStart p op

/-! ## Poll rounds (R510 to R516, R527) -/

/-- A ring stops (R515), with its ring event. -/
def State.stopRing (s : State) (k cause : Nat) : State :=
  match s.ring? k with
  | none => s
  | some r =>
    let s := s.putRing k { r with stopped := true }
    let q := s.keyPort k
    if k < 36 * 66 then s.ringEvent q (k / 66) (k % 66) cause (some r) 0 0 else s.ringEvent q noPart 65 cause (some r) 0 0

/-- The key of the ring a poll read, on port q. -/
def readKey (q : Nat) (x : RingRead) : Nat := if x.ring.val = 65 then moduleKey q else pairKey x.part.val x.ring.val

/-- Descriptors consumed in order while R511 lets the module take them (R511, R515). -/
def State.takeDescs (s : State) (p n : Nat) : List (Byte × Desc) → State
  | [] => s
  | (op, d) :: ds =>
    match s.ring? (pairKey p n) with
    | none => s
    | some r =>
      if r.sqHead < r.sqTail && s.mayConsume p r && s.opRoom p op.toNat then
        (withDesc op.toNat { d with part := Fin.ofNat 36 p, ring := Fin.ofNat 64 n } s (runOp op.toNat)).takeDescs p n ds
      else s

/-- Whether a descriptor's FENCE counts: from host-interface version 1.1 on (R513). -/
def State.fenceHolds (s : State) (p : Nat) (d : Desc) : Bool := d.fence && decide (0x11 ≤ s.rd F.hpHifAgreed (s.portOf p))

/-- The descriptors that wait in a ring life, behind a FENCE or for device memory, started as their turn comes (R513). -/
def State.runWaiting (s : State) (k life : Nat) : State :=
  let waits := fun (s : State) => match s.ring? k with
    | some r => if r.life = life then (r.outstanding, r.waiting) else ([], [])
    | none => ([], [])
  (waits s).2.foldl (fun s w =>
    let (out, ws) := waits s
    if !ws.contains w || s.fenceHolds (k / 66) w.2.2 && out.any (fun y => decide (y.num < w.2.1)) || !s.opStart (k / 66) w.1 then s
    else
      match s.ring? k with
      | none => s
      | some r =>
        let d := w.2.2
        let ref : DRef := ⟨k / 66, k % 66, life, w.2.1, w.1, d.ver.toNat, d.tag.toNat, d.cookie.toNat, false⟩
        (s.demandRun (.desc ref) (fun s => runOp w.1 ref d (s.putRing k { r with waiting := r.waiting.filter (fun x => x != w) }))).2) s

/-- The same for a ring that is gone (R530: work already consumed runs on). -/
def State.runGone (s : State) (life : Nat) : State :=
  match tget? s.host.gone life with
  | none => s
  | some (k, r) =>
    let s := r.waiting.foldl (fun s w =>
      match tget? s.host.gone life with
      | none => s
      | some (_, x) =>
        if s.fenceHolds (k / 66) w.2.2 && x.outstanding.any (fun y => decide (y.num < w.2.1)) || !s.opStart (k / 66) w.1 then s
        else
          let d := w.2.2
          let ref : DRef := ⟨k / 66, k % 66, life, w.2.1, w.1, d.ver.toNat, d.tag.toNat, d.cookie.toNat, false⟩
          (s.demandRun (.desc ref) (fun s => runOp w.1 ref d
            { s with host := { s.host with gone := tput s.host.gone life (k, { x with waiting := x.waiting.filter (fun y => y != w) }) } })).2) s
    match tget? s.host.gone life with
    | some (_, x) => if x.outstanding = [] then ({ s with host := { s.host with gone := tdel s.host.gone life } }).destroyed x else s
    | none => s

/-- Every waiting descriptor looked at, and the destroys that wait for their ring. -/
def State.waitingLook (s : State) : State :=
  let s := s.host.rings.foldl (fun s e => s.runWaiting e.1 e.2.life) s
  let s := s.host.gone.foldl (fun s e => s.runGone e.1) s
  s.host.rings.foldl (fun s e => if e.2.destroyer.isSome then s.destroyLook e.1 else s) s

/-- One ring's control block and descriptors as a poll of port q finds them (R510, R511, R515). -/
def State.readRing (s : State) (q : Nat) (x : RingRead) : State :=
  let k := readKey q x
  match s.ring? k with
  | none => s
  | some r =>
    if s.keyPort k != q || r.stopped then s
    else if x.err then s.stopRing k 3
    else
      let pair := decide (x.ring.val < 64)
      let r := { r with sqTail := if pair then Nat.max r.sqTail x.tail.toNat else r.sqTail, cqHead := Nat.max r.cqHead x.head.toNat }
      let s := s.putRing k r
      if pair && decide (2 ^ r.log < r.sqTail - r.sqHead) then s.stopRing k 1
      else if r.cqTail < r.cqHead then s.stopRing k 2
      else if pair then s.takeDescs x.part.val x.ring.val x.descs
      else s

/-- The rings of port q. -/
def State.portRings (s : State) (q : Nat) : List (Nat × Ring) := s.host.rings.filter (fun e => s.keyPort e.1 == q)

/-- The length of a poll round in ns (R516): 1,024 lines are watched and not polled while CXL.cache and WATCH_EN allow. -/
def State.pollNs (s : State) (q : Nat) : Nat :=
  let n := (s.portRings q).length
  let l := if s.flag F.hpCxlCache q && s.flag F.hpWatchEn q then n - 1024 else n
  Nat.max (1000 * s.rd F.hpDbPoll q) (32 * l)

/-- HPn_RDY_N after a watch or poll (R527). -/
def State.readyLook (s : State) (q : Nat) : State :=
  if (s.portRings q).all (fun e => e.2.cqHead == e.2.cqTail) && (s.port q).backlog == [] && s.out == [] then
    s.modPort q (fun h => { h with rdyN := true })
  else s

/-- DOORBELL_POLL_ROUND (R516): a doorbell ends Still (R610). -/
def State.pollRound (s : State) (q : Nat) (reads : List RingRead) : State :=
  if !s.hostUp q then s
  else
    let s := if s.rd F.pwrMstate == 2 && (s.port q).busyN && reads.any (fun x => match s.ring? (readKey q x) with
        | some r => decide (r.sqHead < x.tail.toNat) && decide (x.ring.val < 64)
        | none => false) then s.wake 1 else s
    let s := (s.wr F.hpPollRnd (capN (2 ^ 32 - 1) (s.pollNs q)) q).modPort q (fun h => { h with snooped := false })
    let s := reads.foldl (fun s x => s.readRing q x) s
    (((s.drain q).waitingLook).readyLook q)

def execDoorbellPollRound (q : HostPort) (reads : List RingRead) (s : State) : Host.Outcome State Fault Refusal :=
  closing (s.pollRound q.val reads)

/-- CXL_SNOOP: a watched line of the port is to be read again (R516). -/
def execCxlSnoop (q : HostPort) (s : State) : Host.Outcome State Fault Refusal :=
  finish (if s.flag F.hpCxlCache q.val && s.flag F.hpWatchEn q.val then s.modPort q.val (fun h => { h with snooped := true }) else s)

/-- UNDEFINED_OPCODE: a descriptor whose opcode no chapter defines or whose VER is not one the port agreed (R47, R519). -/
def execUndefinedOpcode (opcode : Byte) (d : Desc) (s : State) : Host.Outcome State Fault Refusal :=
  finish (if (runOp? opcode.toNat).isSome && !s.verBad d then s else withDesc opcode.toNat d s (runOp opcode.toNat))

def execRingPairCreate (d : Desc) (s : State) : Host.Outcome State Fault Refusal := finish (withDesc 0x19 d s State.runRingCreate)

def execRingPairDestroy (d : Desc) (s : State) : Host.Outcome State Fault Refusal := finish (withDesc 0x1A d s State.runRingDestroy)

def execRegionRegister (d : Desc) (s : State) : Host.Outcome State Fault Refusal := finish (withDesc 0x2C d s State.runRegion)

def execRegionRelease (d : Desc) (s : State) : Host.Outcome State Fault Refusal := finish (withDesc 0x2D d s State.runRegionRelease)

/-- RESOURCE_RELEASE_COMPLETE (R662): the releases and destroys of a partition that wait are looked at, and those whose resource
is idle complete. -/
def execResourceReleaseComplete (p : PartId) (s : State) : Host.Outcome State Fault Refusal :=
  let s := s.releaseLook p.val
  finish ((List.range 64).foldl (fun s n => s.destroyLook (pairKey p.val n)) s)

/-! ## Links and pins (R497, R498, R528, R530, R614, R624) -/

/-- Whether port q's link is up. -/
def State.hostLink (s : State) (q : Nat) : Bool := s.rd F.hpLinkWidth q != 0

/-- The lanes of a PCI Express link (Table 14-1). -/
def pcieWidth (w : Fin 3) : Nat := nthD [4, 8, 16] w.val 0

def execPcieLinkUp (q : HostPort) (gen : Fin 5) (width : Fin 3) (cxl cache : Bool) (s : State) : Host.Outcome State Fault Refusal :=
  finish (s.pcieUp q.val (gen.val + 1) (pcieWidth width) cxl cache)

def execPcieLinkDown (q : HostPort) (s : State) : Host.Outcome State Fault Refusal :=
  finish (if s.hostLink q.val then s.portDown q.val 2 else s)

def execPerstAssert (q : HostPort) (s : State) : Host.Outcome State Fault Refusal :=
  finish (if !(s.port q.val).perstN then s
    else (s.modPort q.val (fun h => { h with perstN := false })).portReset q.val 3)

/-- PERST_RELEASE: the port trains; before the host domain is released it answers configuration requests with retry (R624). -/
def execPerstRelease (q : HostPort) (s : State) : Host.Outcome State Fault Refusal :=
  finish (s.modPort q.val (fun h => { h with perstN := true }))

def execHotReset (q : HostPort) (s : State) : Host.Outcome State Fault Refusal :=
  finish (if s.hostLink q.val then s.portReset q.val 4 else s)

def execLinkDisable (q : HostPort) (s : State) : Host.Outcome State Fault Refusal :=
  finish (if s.hostLink q.val then s.portReset q.val 5 else s)

def execFunctionLevelReset (q : HostPort) (s : State) : Host.Outcome State Fault Refusal :=
  finish (if s.hostLink q.val then s.portReset q.val 6 else s)

/-- D3HOT_ENTRY (R530): the port detaches. -/
def execD3hotEntry (q : HostPort) (s : State) : Host.Outcome State Fault Refusal :=
  finish (if s.hostLink q.val then s.detach q.val 8 else s)

/-- AER_UNCORRECTABLE_ERROR (R538). -/
def execAerUncorrectableError (q : HostPort) (s : State) : Host.Outcome State Fault Refusal :=
  finish (if s.hostLink q.val then s.hostEvent q.val 9 else s)

/-- CONFIGURATION_REQUEST (R624): Retry Status until the host domain is released. -/
def execConfigurationRequest (q : HostPort) (s : State) : Host.Outcome State Fault Refusal :=
  finish (if (s.port q.val).perstN && !s.hostUp q.val then s.answered .retry else s)

/-! ## BAR2 and MSI-X -/

/-- BAR2 is reached while the link is up. -/
def execBar2Read (q : HostPort) (ofs : DWord) (len : BitVec 12) (s : State) : Host.Outcome State Fault Refusal :=
  finish (if s.hostLink q.val then s.bar2Read q.val ofs.toNat (len.toNat + 1) else s)

def execBar2Write (q : HostPort) (ofs : DWord) (data : List Byte) (s : State) : Host.Outcome State Fault Refusal :=
  finish (if s.hostLink q.val then s.bar2Write q.val ofs.toNat data else s)

def execBar2Resize (q : HostPort) (log : Fin 7) (s : State) : Host.Outcome State Fault Refusal := finish (s.bar2Resize q.val log.val)

def execMsixCoalesceTimeout (p : PartId) (ring : Fin 65) (s : State) : Host.Outcome State Fault Refusal :=
  finish (s.coalesce (pairKey p.val ring.val))

def execMsixVectorUnmask (q : HostPort) (v : Option (Fin 2048)) (masked : Bool) (s : State) : Host.Outcome State Fault Refusal :=
  finish (s.msixMask q.val (v.map (fun x => x.val)) masked)

end Sys2Proof.Machine
end

