-- ==== Sys2Proof/Machine/Seals.lean ====
section
/-! DEFINITION. The seals (R533 to R536), the checks of the guarantees (R307), and what every partition shares: its event and its
generated key (R548, R579). -/
namespace Sys2Proof.Machine

/-- The set-up port (SETUP_PT). -/
def State.setupPort (s : State) : Nat := s.rd F.hpSetupPt 0

/-- The partition event (Table 15-10, causes of Table 14-22). -/
def State.partEvent (s : State) (p cause slot sflags : Nat) : State :=
  s.event 0x29 p [p, s.rd F.pGen p, cause, s.pstate p, s.rd F.pConf p, s.rd F.pKeys p, slot, sflags]

/-- A key put into a slot of a partition (R547). -/
def State.putKey (s : State) (p slot key : Nat) : State :=
  let s := s.modPart p (fun x => { x with keys := tput x.keys slot key })
  s.wr F.pKeys (setFld (s.rd F.pKeys p) slot 1 1) p

/-- The memory key drawn from the module's own random source (R547, R548). -/
def State.drawKey (s : State) (p : Nat) : State :=
  let (n, s) := s.fresh
  (s.putKey p 0 (Config.randomKey n).toNat).wr F.pMkeyGen 1 p

/-! ## The guarantees (R307) -/

/-- The least common multiple of 1 to 24: a shared extent of a stack set divides exactly into it. -/
def setLcm : Nat := 5354228880

/-- The members of the space an extent lies in (R272 to R274). -/
def State.extentStacks (s : State) (base : Nat) : List Nat :=
  if base < 2 ^ 17 then List.range 24 else bitsOf 24 (s.rd F.memSetMask 0 (fldN base 12 5))

/-- The allotment of a partition on a stack over all its extents (R41), in GiB times setLcm. -/
def State.allotOn (s : State) (p n : Nat) : Nat :=
  sumOf ((List.range 16).map (fun i =>
    let ms := s.extentStacks (s.rd F.pExtBase p i)
    if ms.contains n then s.rd F.pExtLen p i * setLcm / ms.length else 0))

/-- The whole allotment of a partition, in GiB times setLcm. -/
def State.allotAll (s : State) (p : Nat) : Nat := sumOf ((List.range 24).map (fun n => s.allotOn p n))

/-- A fraction num / den. -/
structure Frac where
  num : Nat
  den : Nat
  deriving DecidableEq, Repr

def Frac.add (a b : Frac) : Frac := ⟨a.num * b.den + b.num * a.den, a.den * b.den⟩

/-- What is left of 819 / 24, the load a stack may promise, above a load. -/
def Frac.left (a : Frac) : Frac := ⟨819 * a.den - 24 * a.num, 24 * a.den⟩

/-- The load on a stack that the guarantees of the partitions listed make. -/
def State.stackLoad (s : State) (ps : List Nat) (n : Nat) : Frac :=
  ps.foldl (fun a p => if s.allotAll p = 0 then a else a.add ⟨s.rd F.pGuarFr p * s.allotOn p n, s.allotAll p⟩) ⟨0, 1⟩

/-- The largest GUAR_FR of partition p that keeps every stack within the limit beside the partitions listed. -/
def State.guarMost (s : State) (ps : List Nat) (p : Nat) : Nat :=
  (List.range 24).foldl (fun g n =>
    let a := s.allotOn p n
    if a = 0 then g
    else
      let l := (s.stackLoad ps n).left
      Nat.min g (l.num * s.allotAll p / (l.den * a))) (s.rd F.pGuarFr p)

/-- The check of one partition against those listed: its GUAR_FR lowered, with its clamp record; the answer counts records. -/
def State.guarCheck (s : State) (q : Nat) (ps : List Nat) (p : Nat) : Nat × State :=
  let old := s.rd F.pGuarFr p
  let g := s.guarMost ps p
  if g = old then (0, s) else (1, (s.wr F.pGuarFr g p).clampReg q (some p) 7 0x0401 (F.pGuarFr.addr p 0) old g)

/-! ## Seal changes (R533 to R535) -/

/-- Whether a seal change is set or under way for the module, or a partition. -/
def State.moduleLocked (s : State) : Bool := s.flag F.idMsealed || s.host.sealing.contains .module
def State.partLocked (s : State) (p : Nat) : Bool := s.psealed p || s.host.sealing.contains (.part p)

/-- SEALING and BUSY_N as the changes under way stand. -/
def State.sealingLook (s : State) : State :=
  ((s.wr F.idSealing (b2n (s.host.sealing != []))).busyLook 0).busyLook 1

/-- A seal change begins. -/
def State.sealBegin (s : State) (c : SealChange) : State :=
  ({ s with host := { s.host with sealing := s.host.sealing ++ [c] } }).sealingLook

/-- A write of 1 to MSEAL through port q (R501, R533, R624). -/
def State.msealWrite (s : State) (q : Nat) : State :=
  let a := F.idMseal.addr 0 0
  if !s.rst.ready then s.clampReg q none 9 0x0C03 a 1 0
  else if q != s.setupPort then s.clampReg q none 6 0x0E09 a 1 0
  else if s.moduleLocked then s
  else s.sealBegin .module

/-- A write of 1 to the seal bit of partition p through port q (R501, R533, R624). -/
def State.psealWrite (s : State) (q p : Nat) : State :=
  let a := if p < 32 then F.idPsealL.addr 0 0 else F.idPsealH.addr 0 0
  let bit := if p < 32 then 2 ^ p else 2 ^ (p - 32)
  if !s.rst.ready then s.clampReg q none 9 0x0C03 a bit 0
  else if s.pstate p = 0 || s.pstate p = 3 then s.clampReg q none 9 0x0E0B a bit 0
  else if q != s.portOf p then s.clampReg q none 6 0x0E09 a bit 0
  else if s.partLocked p then s
  else s.sealBegin (.part p)

/-- The seal event (Table 14-20). -/
def State.sealEventAt (s : State) (q scope part clamps : Nat) : State := s.eventAt q 0x28 part [q, scope, part, clamps, s.tick]

/-- SEAL_CHANGE_END (R307, R535, R539, R548): the checks have run, the seal counts as set. -/
def State.sealEnd (s : State) (c : SealChange) : State :=
  if !s.host.sealing.contains c then s
  else
    let s := ({ s with host := { s.host with sealing := s.host.sealing.filter (fun x => x != c) } })
    match c with
    | .module =>
      let q := s.setupPort
      let ps := (List.range 36).filter (fun p => s.pstate p != 0)
      let r := ps.foldl (fun (a : Nat × List Nat × State) p =>
        let (n, s) := a.2.2.guarCheck q a.2.1 p
        (a.1 + n, a.2.1 ++ [p], s)) (0, [], s)
      ((r.2.2.wr F.idMsealed 1).sealingLook).sealEventAt q 1 noPart r.1
    | .part p =>
      let q := s.portOf p
      let ps := (List.range 36).filter (fun x => x != p && s.pstate x == 2)
      let (n, s) := s.guarCheck q ps p
      let s := if thas (s.part p).keys 0 then s else (s.drawKey p).partEvent p 6 0 0
      let s := ((s.setPsealed p true).wr F.pPstate 2 p).sealingLook
      ((s.event 0x28 p [q, 2, p, n, s.tick]).sealEventAt q 2 p n).partEvent p 2 0 0

def execMsealWrite (q : HostPort) (s : State) : Host.Outcome State Fault Refusal := finish (s.msealWrite q.val)

def execPsealWrite (q : HostPort) (p : PartId) (s : State) : Host.Outcome State Fault Refusal := finish (s.psealWrite q.val p.val)

/-- SEAL_CHANGE_END of the module's seal, or a partition's. -/
def execSealChangeEnd (c : Option PartId) (s : State) : Host.Outcome State Fault Refusal :=
  finish (s.sealEnd (match c with
    | none => .module
    | some p => .part p.val))

end Sys2Proof.Machine
end

