-- ==== Sys2Proof/Machine/Mgmt.lean ====
section
/-! DEFINITION. What the management controller keeps and does on its own (15_partitions_security.md, 17_reset_and_startup.md): replies
and records, the maintenance arbiter, the scrub and the teardown of a partition. -/
namespace Sys2Proof.Machine

def State.modMgmt (s : State) (f : MgmtState → MgmtState) : State := { s with mgmt := f s.mgmt }

def State.modRst (s : State) (f : ResetState → ResetState) : State := { s with rst := f s.rst }

/-- Whether the management domain runs: input present and the domain released. -/
def State.mgmtUp (s : State) : Bool := s.rst.powered && decide (1 ≤ s.rst.stage)

/-- Something sent by the management controller. -/
def State.send (s : State) (o : MgmtOut) : State := s.modMgmt (fun m => { m with sent := m.sent ++ [o] })

/-- The sessions that are open. -/
def State.openSessions (s : State) : List Nat := s.mgmt.sessions.map (fun e => e.1)

/-- The ML-DSA-87 signature of the identity key over a label and bytes (R563, R570). -/
def signed (label : List Nat) (bs : List Byte) : Nat := (Config.signature (label.map (fun c => BitVec.ofNat 8 c) ++ bs)).toNat

/-- The management event (Table 15-10, causes of Table 14-22). -/
def State.mgmtEvent (s : State) (cause fn sess cred status : Nat) : State :=
  s.eventAll 0x2A [cause, fn, sess, cred, s.rd F.idFwSvn, s.rd F.idFuseSvn, s.rd F.idImage, status]

/-- A clamp record of a management function (R573, R578). -/
def fnClamp (fn reason field requested applied : Nat) : Rec := .clamp reason field noPart csrcDesc 0 fn requested applied

/-- The credential of a session; 0xFF for the claim code. -/
def State.sessCred (s : State) (sess : Nat) : Nat :=
  match tget? s.mgmt.sessions sess with
  | some x => if x.claim then 0xFF else x.cred
  | none => 0xFF

/-- A function's reply, with its clamp records on the module event ring of each port, and its event (R573, R579). -/
def State.reply (s : State) (sess fn status : Nat) (words : List Nat) (clamps : List Rec) : State :=
  let s := clamps.foldl (fun s c => (s.emit (.port 0) c).emit (.port 1) c) s
  (s.send (.reply sess fn status words clamps)).mgmtEvent 3 fn sess (s.sessCred sess) status

/-- What a function answers: its status (0 run, 1 refused), the words of its reply and its clamp records. -/
structure FnOut where
  status : Nat
  words : List Nat
  clamps : List Rec
  st : State

/-- A management function run for a session (R571, R572): the session of the claim code may only enrol. -/
def State.func (s : State) (sess fn : Nat) (run : State → FnOut) : State :=
  if !s.mgmtUp then s
  else match tget? s.mgmt.sessions sess with
    | none => s
    | some x =>
      let s := s.wake 4
      if x.claim && fn != 0x0F then s.reply sess fn 1 [] []
      else
        let o := run s
        o.st.reply sess fn o.status o.words o.clamps

/-- Extending a measurement register: MR ← SHA3-512(MR ‖ SHA3-512(stage)) (R569), the digest of the stage given. -/
def State.extend (s : State) (i digest : Nat) : State :=
  s.wr F.idMr (sha3Nat (leBytes 64 (s.rd F.idMr 0 i) ++ leBytes 64 digest)) 0 i

/-! ## Module flash: images, calibration set, credentials (R566 to R569, R607) -/

/-- The image the module is made with. -/
def factoryImage : FwImage :=
  { good := true, svn := 0, major := 1, minor := 0, build := 0, stages := (List.range 4).map (fun i => (Config.factoryStage i).toNat) }

/-- Image 0 (A) or 1 (B) of module flash. -/
def State.image (s : State) (i : Nat) : FwImage := tgetD s.mgmt.images i factoryImage

/-- An image into module flash. -/
def State.putImage (s : State) (i : Nat) (x : FwImage) : State := s.modMgmt (fun m => { m with images := tput m.images i x })

/-- Whether the boot ROM starts an image (R567, R568). -/
def State.boots (s : State) (i : Nat) : Bool := (s.image i).good && decide (s.rd F.idFuseSvn ≤ (s.image i).svn)

/-- Gain (binary32) and offset (mA) of a current-sense channel. -/
def State.senseOf (s : State) (i : Nat) : Nat × Int :=
  (tget? s.mgmt.cal.sense i).getD (fldN (Config.factorySense i).toNat 0 32, signedN 16 (fldN (Config.factorySense i).toNat 32 16))

/-- Preset and receiver seed of a SerDes lane. -/
def State.presetOf (s : State) (i : Nat) : Nat × Nat :=
  (tget? s.mgmt.cal.presets i).getD (fldN (Config.factoryPreset i).toNat 0 8, fldN (Config.factoryPreset i).toNat 8 24)

/-- Training seeds of a DRAM channel. -/
def State.seedOf (s : State) (i : Nat) : Nat := (tget? s.mgmt.cal.seeds i).getD (Config.factorySeed i).toNat

/-- The whole calibration set in the order of Table 16-3. -/
def State.calBytes (s : State) : List Byte :=
  (List.range 13).flatMap (fun i => leBytes 4 (s.senseOf i).1 ++ leBytes 2 (toField 16 (s.senseOf i).2)) ++
    (List.range 840).flatMap (fun i => leBytes 1 (toField 8 (s.sensorOffset i))) ++
    (List.range 96).flatMap (fun i => leBytes 1 (s.presetOf i).1 ++ leBytes 3 (s.presetOf i).2) ++
    (List.range 192).flatMap (fun i => leBytes 512 (s.seedOf i)) ++
    (List.range 17).flatMap (fun i => leBytes 4 (s.coeff i))

/-- The enrolled credentials in order. -/
def State.credBytes (s : State) : List Byte := s.mgmt.creds.flatMap (fun e => leBytes 64 e.2)

/-! ## The maintenance arbiter (R631 to R633, Table 17-9) -/

/-- Table 17-9: 0 no, 1 yes, 2 yes on different resources, 3 yes with the scrub's part on the stack held. -/
def arbTable : List (List Nat) :=
  [[2, 1, 1, 1, 1, 0, 3, 1],
   [1, 2, 1, 0, 1, 0, 1, 1],
   [1, 1, 2, 0, 1, 0, 1, 1],
   [1, 0, 0, 0, 1, 0, 1, 1],
   [1, 1, 1, 1, 0, 0, 1, 1],
   [0, 0, 0, 0, 0, 0, 0, 0],
   [3, 1, 1, 1, 1, 0, 1, 1],
   [1, 1, 1, 1, 1, 0, 1, 0]]

/-- The columns of Table 17-9, counted from 1. -/
def colRepair : Nat := 1
def colPort : Nat := 2
def colMargin : Nat := 3
def colCal : Nat := 4
def colLoad : Nat := 5
def colActivate : Nat := 6
def colScrub : Nat := 7
def colDebug : Nat := 8

/-- Whether two activities may run together. -/
def Activity.fits (a b : Activity) : Bool :=
  match nthD (nthD arbTable (a.col - 1) []) (b.col - 1) 0 with
  | 0 => false
  | 2 => a.res != b.res
  | _ => true

/-- MNT_RUN and MNT_Q. -/
def State.arbShow (s : State) : State :=
  (s.wr F.rstMntRun (maskOf (s.rst.running.map (fun a => a.col - 1)))).wr F.rstMntQ (capN 255 s.rst.queue.length)

/-- The maintenance event (Table 17-11): causes 1 queued, 2 started, 3 ended, 4 ended by reset. -/
def State.arbEvent (s : State) (a : Activity) (cause conflict : Nat) : State :=
  s.eventAll 0x31 [a.col, a.res, cause, conflict, s.rd F.rstMntQ]

/-- The activity an activity conflicts with: a running one, or an earlier queued one (R631, R632). -/
def State.arbConflict (s : State) (a : Activity) (ahead : List Activity) : Option Nat :=
  ((s.rst.running ++ ahead).find? (fun b => !a.fits b)).map (fun b => b.col)

/-- Whether no step runs in any partition that holds capacity on a stack (R312). -/
def State.stackFree (s : State) (n : Nat) : Bool :=
  !s.liveParts.any (fun p => s.actives p != [] && decide (0 < s.allotOn p n))

/-- Whether an activity may start now beside the activities ahead of it. -/
def State.arbMay (s : State) (a : Activity) (ahead : List Activity) : Bool :=
  (s.arbConflict a ahead).isNone && (a.col != colRepair || s.stackFree a.res)

/-- An activity started: its column runs and the event tells; start is what the activity does. -/
def State.arbStart (s : State) (a : Activity) (start : Activity → State → State) : State :=
  let s := (s.modRst (fun r => { r with running := r.running ++ [a] })).arbShow
  start a (s.arbEvent a 2 0)

/-- An activity asked for (R631): started, or queued behind what it conflicts with. -/
def State.arbRequest (s : State) (a : Activity) (start : Activity → State → State) : State :=
  if s.arbMay a s.rst.queue then s.arbStart a start
  else
    let c := (s.arbConflict a s.rst.queue).getD 0
    ((s.modRst (fun r => { r with queue := r.queue ++ [a] })).arbShow).arbEvent a 1 c

/-- A running activity ended. -/
def State.arbEnd (s : State) (a : Activity) : State :=
  ((s.modRst (fun r => { r with running := r.running.erase a })).arbShow).arbEvent a 3 0

/-- The running activity of a column and a resource. -/
def State.runningAct? (s : State) (col res : Nat) : Option Activity :=
  s.rst.running.find? (fun a => a.col == col && a.res == res)

/-- One queued activity, in its place behind the earlier ones (R632). -/
def State.arbGrantOne (s : State) (start : Activity → State → State) : Option State :=
  let q := s.rst.queue
  match (List.range q.length).find? (fun i => match q[i]? with
    | some a => s.arbMay a (q.take i)
    | none => false) with
  | none => none
  | some i => match q[i]? with
    | none => none
    | some a => some ((s.modRst (fun r => { r with queue := r.queue.erase a })).arbStart a start)

/-- Every queued activity that may start started, in order of request. -/
def State.arbGrant (s : State) (start : Activity → State → State) : State :=
  iterN s.rst.queue.length (fun _ s => (s.arbGrantOne start).getD s) s

/-! ## The scrub (R557 to R563) -/

/-- The ordinary extents of a partition in GiB. -/
def State.ordinary (s : State) (p : Nat) : List (Nat × Nat) :=
  ((List.range 16).filter (fun i => s.rd F.pExtLen p i != 0 && !thas (s.part p).sharedExt i)).map
    (fun i => (s.rd F.pExtBase p i, s.rd F.pExtLen p i))

/-- The logical cores of a partition. -/
def State.coresOf (s : State) (p : Nat) : List Nat := (List.range 288).filter (fun c => s.ownsCore p c)

/-- What the scrub record of a partition's life says. -/
def State.cutOf (s : State) (p begin : Nat) : CutScrub :=
  ⟨p, begin, s.rd F.pGen p, s.confidential p, (s.coresOf p).length, s.rd F.pPen p, s.ordinary p⟩

/-- The bytes of extents that lie on stacks not in held. -/
def State.extentBytes (s : State) (es : List (Nat × Nat)) (held : List Nat) : Nat :=
  sumOf (es.map (fun e =>
    let ms := s.extentStacks e.1
    e.2 * gib / Nat.max 1 ms.length * (ms.filter (fun n => !held.contains n)).length))

/-- The scrub record, Table 15-5. -/
def State.scrubBytes (s : State) (c : CutScrub) (cause : Nat) (partly : Bool) (mem items : Nat) : List Byte :=
  leBytes 1 0x10 ++ leBytes 1 c.part ++ leBytes 1 cause ++ leBytes 1 (b2n partly + 2 * b2n c.conf) ++ leBytes 4 c.gen ++
    leBytes 8 Config.serialNumber.toNat ++ leBytes 8 c.begin ++ leBytes 8 s.tick ++ leBytes 8 mem ++ leBytes 4 items ++
    leBytes 4 c.cores ++ leBytes 8 c.ledger ++ leBytes 8 0 ++ leBytes 64 (sha3Nat (leBytes 64 (s.rd F.idMr 0 1))) ++
    (List.range 16).flatMap (fun i =>
      let e := nthD c.extents i (0, 0)
      leBytes 8 (e.1 * gib) ++ leBytes 8 (e.2 * gib))

/-- A partition event that no event ring of the partition takes any more, on the module event ring of each port (R557). -/
def State.lateEvent (s : State) (c : CutScrub) (cause slot sflags : Nat) : State :=
  let x := Rec.event 0x29 noPart false s.tick [c.part, c.gen, cause, s.pstate c.part, b2n c.conf, s.rd F.pKeys c.part, slot, sflags]
  (s.emit (.port 0) x).emit (.port 1) x

/-- A scrub record issued (R563): to every open session, kept among the last 64 and counted; its event is the caller's. -/
def State.issueScrub (s : State) (c : CutScrub) (cause : Nat) (partly : Bool) (mem items : Nat) : State :=
  let bs := s.scrubBytes c cause partly mem items
  let s := s.send (.record 2 s.openSessions bs (signed [0x50, 0x4A, 0x38, 0x2D, 0x53, 0x43, 0x52, 0x55, 0x42] bs))
  let s := s.modMgmt (fun m => { m with scrubs := (m.scrubs ++ [bs]).drop (m.scrubs.length + 1 - 64) })
  s.inc F.pScrubs 1 c.part

/-- A scrub record of a life that is over, with its event. -/
def State.issueLate (s : State) (c : CutScrub) (cause : Nat) (partly : Bool) (mem items : Nat) : State :=
  (s.issueScrub c cause partly mem items).lateEvent c 5 0 (b2n partly + 2 * b2n c.conf)

/-- Where the rest of an incomplete scrub is kept: apart from the partition's next life. -/
def restKey (c : CutScrub) : Nat := 64 * (c.gen + 1) + c.part

/-- The stacks that hold their part of a scrub: in repair access or offline (R559). -/
def State.heldStacks (s : State) : List Nat := (List.range 24).filter (fun n => decide (2 ≤ s.rd F.memStkState 0 n))

/-- The lines of extents on stacks that are not held written with zero bytes (Table 15-4). -/
def State.scrubExtents (s : State) (es : List (Nat × Nat)) (held : List Nat) : State :=
  s.stackScrub (fun l =>
    let d := s.dpaOf (l * 128)
    !held.contains (paStack (l * 128)) && es.any (fun e => decide (e.1 * gib ≤ d) && decide (d < (e.1 + e.2) * gib)))

/-- The stores of a partition's cores emptied (Table 15-4). -/
def State.scrubCores (s : State) (p : Nat) : State :=
  (s.coresOf p).foldl (fun s c =>
    if thas s.cores c then s.modCore c (fun k => { k with tarn := [], spill := [], opStore := [], vregs := [], sregs := [], window := [], spillTick := none, lastPart := none })
    else s) s

/-- Everything of Table 15-4 but what lies on held stacks. -/
def State.scrubItems (s : State) (p : Nat) (held : List Nat) : State :=
  let es := s.ordinary p
  let s := s.setMere (s.mem.mere.filter (fun e => e.2.part != p))
  (((s.scrubExtents es held).scrubCores p).keepNow p).modPart p (fun x => { x with stalls := [] })

/-! ## Teardown (R557) -/

/-- A partition's seal bit cleared, or its seal change ended, with the unsealed event (R536, R539). -/
def State.unseal (s : State) (p : Nat) : State :=
  let s := { s with host := { s.host with sealing := s.host.sealing.filter (fun x => x != SealChange.part p) } }
  let s := s.sealingLook
  if !s.psealed p then s
  else
    let s := s.setPsealed p false
    (if s.pstate p = 2 then s.wr F.pPstate 1 p else s).partEvent p 3 0 0

/-- Stage 1: the seal cleared, PSTATE scrubbing. -/
def State.tearDown (s : State) (p : Nat) : State :=
  let s := (s.unseal p).wr F.pPstate 3 p
  (s.partEvent p 4 0 0).modMgmt (fun m => { m with tears := tput m.tears p ⟨2, s.tick, [], none⟩ })

/-- Whether a grain of the partition still runs on an unfenced core (stage 2). -/
def State.grainsRun (s : State) (p : Nat) : Bool :=
  s.cores.any (fun e => !e.2.fenced && (e.2.run.any (fun r => r.part == p) || e.2.filler.any (fun r => r.part == p)))

/-- What the partition holds in the module's engines dropped. -/
def State.dropEngines (s : State) (p : Nat) : State :=
  let s := s.setTiers (fun t => { t with
    gbuf := t.gbuf.filter (fun x => x.part != p), reads := t.reads.filter (fun x => x.part != p),
    demand := t.demand.filter (fun x => x.part != p), ops := t.ops.filter (fun e => e.2.part != p), msgs := t.msgs.filter (fun e => e.2.part != p),
    intakes := t.intakes.filter (fun x => x.desc.part != p) })
  { s with routers := s.routers.filter (fun r => r.part != p) }

/-- Filler lists that name p, or that p posted, withdrawn (R450, R557). -/
def State.dropFillers (s : State) (p : Nat) : State :=
  s.liveParts.foldl (fun s f =>
    let ls := (s.part f).coll.fillers.filter (fun l => f == p || l.host == p)
    let s := ls.foldl (fun s l => l.grains.foldl (fun s e => s.skipStatus f (l.stat + 16 * e.1) (fldN e.2 48 16)) s) s
    if f = p then s.modColl p (fun c => { c with fillers := [] })
    else (s.modColl f (fun c => { c with fillers := c.fillers.map (fun l => if l.host = p then { l with grains := [] } else l) })).fillersLook f) s

/-- Regions of a partition released (R506). -/
def State.dropRegions (s : State) (p : Nat) : State :=
  [0, 1].foldl (fun s q => s.modPort q (fun h => { h with regions := h.regions.filter (fun e => e.2.part != p) })) s

/-- Stage 3 (R557): the steps end, the channels close, what the partition registered goes, the contributions its sheaves hold into the chaff
ledger (R438). -/
def State.tearStage3 (s : State) (p : Nat) : State :=
  let s := s.abandonAll p 9
  let s := (s.net.chans.filter (fun e => e.2.part == p)).foldl (fun s e =>
    if e.2.state = 2 then s.closeChan e.1 5 else if e.2.state = 1 then s.delChan e.1 else s) s
  let s := (s.dropFillers p).dropRegions p
  let s := ((s.part p).dctx.map (fun e => e.1)).foldl (fun s n => s.dispLost p n) (s.routersLost p)
  let s := (((s.part p).coll.sheaves.map (fun e => e.1)).foldl (fun s n => s.sheafGone p n) s).dropEngines p
  let s := s.setTiers (fun t => { t with builds := t.builds.filter (fun x => x.part != p) })
  let s := s.unpin p (fun _ => true)
  let s := s.modPart p (fun x => { x with
    dctx := [], coll := PartState.init.coll, cont := PartState.init.cont, tier := PartState.init.tier, rtWait := [] })
  s.modMgmt (fun m => { m with tears := tmod m.tears p (fun t => { t with stage := 3 }) })

/-- Every descriptor pick takes that was consumed and has not completed ends with 0xE2 (R557, R620, R626). -/
def State.endOwed (s : State) (pick : DRef → Bool) : State :=
  let all := (s.host.rings.map (fun e => e.2)) ++ (s.host.gone.map (fun e => e.2.2))
  ((all.flatMap (fun r => r.outstanding)).filter pick).foldl (fun s d => s.complete d 0xE2 false 0) s

/-- The records of a partition that no ring took discarded and counted (R525, R557). -/
def State.dropBacklog (s : State) (p : Nat) : State :=
  let q := s.portOf p
  let mine := fun (o : OutRec) => match o.route with
    | .part x => x == p
    | .cpl x _ _ => x == p
    | .port _ => false
  let n := ((s.port q).backlog.filter mine).length
  let s := s.modPort q (fun h => { h with backlog := h.backlog.filter (fun o => !mine o), lostPending := h.lostPending + n })
  ((s.inc F.hpRecLost n q).wr F.hpBacklog (s.port q).backlog.length q).drain q

/-- Stage 4: what is owed ends and is written or discarded; every ring of the partition is unbound and destroyed. -/
def State.tearStage4 (s : State) (p : Nat) : State :=
  let q := s.portOf p
  let s := ((s.endOwed (fun d => d.part == p)).flush.drain q).dropBacklog p
  let s := ((s.wr F.pAqEn 0 p).wr F.pEqEn 0 p).dropRing (eventKey p)
  let s := ((List.range 65).foldl (fun s n => s.dropRing (pairKey p n)) s).wr F.pRings 0 p
  s.modMgmt (fun m => { m with tears := tmod m.tears p (fun t => { t with stage := 5 }) })

/-- The scrub of a partition asked of the arbiter (Table 17-9). -/
def State.askScrub (s : State) (p : Nat) : State :=
  s.arbRequest ⟨colScrub, p, .scrub⟩ (fun _ s => s)

/-- TEARDOWN_STEP_END (R557): stages 3 and 4 once no grain runs; stage 4 waits for the channels' closes. -/
def State.tearLook (s : State) (p : Nat) : State :=
  match tget? s.mgmt.tears p with
  | none => s
  | some t =>
    let s := if t.stage = 2 && !s.grainsRun p then s.tearStage3 p else s
    match tget? s.mgmt.tears p with
    | none => s
    | some t =>
      if t.stage = 3 && !s.net.chans.any (fun e => e.2.part == p) then (s.tearStage4 p).askScrub p else s

/-- The fields of a partition's window that say what it holds, and go with it. -/
def partOwn : List Fld :=
  [F.pPstate, F.pConf, F.pHostPort, F.pMemQuota, F.pShared, F.pCgrpL, F.pCgrpH, F.pKeys, F.pMkeyGen, F.pRings, F.pShards, F.pObjUsed,
   F.pKeepNow, F.pStepq, F.pStepLo, F.pJstate, F.pRank, F.pNAct, F.pEpoch, F.pCommit, F.pCkjob, F.pLimAvg]

/-- The register fields of partition windows. -/
def partFields : List Fld := F.all.filter (fun f => f.blk == .part)

/-- Every resource of a partition freed: its window's set-up at Reset values, its tables empty. -/
def State.freePart (s : State) (p : Nat) : State :=
  let back := fun (s : State) (f : Fld) => (List.range f.count).foldl (fun s i => s.wr f (f.resetVal p i) p i) s
  let s := (partFields.filter (fun f => f.acc == .rwl || f.acc == .rw || partOwn.contains f)).foldl back s
  let s := { s with parts := tdel s.parts p, mem := { s.mem with tokens := tdel s.mem.tokens p } }
  s.modMgmt (fun m => { m with
    trace := m.trace.filter (fun t => t.2 != p), sampling := m.sampling.filter (fun t => t.2.1 != p) })

/-- TEARDOWN_SCRUB_COMPLETE (R557, R559, R563): stages 5 and 6. -/
def State.tearDone (s : State) (p : Nat) : State :=
  match tget? s.mgmt.tears p, s.runningAct? colScrub p with
  | some t, some a =>
    if t.stage != 5 then s
    else
      let held := s.heldStacks
      let c := s.cutOf p t.begin
      let part := c.extents.any (fun e => (s.extentStacks e.1).any (fun n => held.contains n))
      let s := s.scrubItems p held
      let mem := s.extentBytes c.extents held
      let slots := bitsOf 16 (s.rd F.pKeys p)
      let s := s.freePart p
      let s := slots.foldl (fun s k => s.lateEvent c 7 k 0) s
      let s := s.issueLate c 1 part mem (if part then 0x3E else 0x3F)
      let s := s.modMgmt (fun m => { m with tears := if part then tput (tdel m.tears p) (restKey c) ⟨6, t.begin, held, some c⟩ else tdel m.tears p })
      s.arbEnd a
  | _, _ => s

/-- The parts of a scrub that waited for stacks that have returned (R559): the second record, once all is done. -/
def State.tearRest (s : State) : State :=
  s.mgmt.tears.foldl (fun s e =>
    match e.2.rest with
    | none => s
    | some c =>
      let back := e.2.held.filter (fun n => !s.heldStacks.contains n)
      let left := e.2.held.filter (fun n => s.heldStacks.contains n)
      if back = [] then s
      else
        let s := s.scrubExtents c.extents ((List.range 24).filter (fun n => !back.contains n))
        if left = [] then
          (s.issueLate c 1 false (s.extentBytes c.extents []) 0x3F).modMgmt (fun m => { m with tears := tdel m.tears e.1 })
        else s.modMgmt (fun m => { m with tears := tput m.tears e.1 { e.2 with held := left } })) s

/-- Extents no partition may be allotted: those whose scrub is not complete (R559), in GiB. -/
def State.heldExtents (s : State) : List (Nat × Nat) :=
  s.mgmt.tears.flatMap (fun e => match e.2.rest with
    | some c => c.extents
    | none => [])

end Sys2Proof.Machine
end

