-- ==== Sys2Proof/Machine/Telemetry.lean ====
section
/-! DEFINITION. The telemetry record (R576, R577, Table 15-11). -/
namespace Sys2Proof.Machine

/-- The start-up section of record 0: the reset that came before, and what a cold start reports of a trip and of an opening of the
input switch (bytes 128 to 151). -/
def State.startSection (s : State) : List Byte :=
  let cold := s.flag F.rstLastCold
  let trip := match s.rst.trip with
    | some (z, r, k) => if cold then [1, z, r, k] else [0, 0, 0, 0]
    | none => [0, 0, 0, 0]
  let sw := match s.rst.switched with
    | some (c, a) => if cold then [1, c, a % 256, a / 256] else [0, 0, 0, 0]
    | none => [0, 0, 0, 0]
  leBytes 1 (s.rd F.rstLastSrc) ++ leBytes 1 (s.rd F.rstLastCold) ++ leBytes 1 (s.rd F.rstEscal) ++ leBytes 1 0 ++ leBytes 4 (s.rd F.rstRstUs) ++
    trip.flatMap (leBytes 1) ++ leBytes 4 0 ++ sw.flatMap (leBytes 1) ++ leBytes 4 0

/-- TFLAGS. -/
def State.telFlags (s : State) : Nat :=
  s.rd F.pwrVwarn + 2 * s.rd F.pwrSupUnst + 4 * s.rd F.pwrTcrit + 8 * s.rd F.idCalFact + 16 * s.rd F.pwrMstate + 64 * s.rd F.idDbgOpen

/-- Whether the time unit has a time (Table 2-1). -/
def State.hasTime (s : State) : Bool := s.rd F.cadState != 0

/-- The mean input power over a span, in W: µJ over µs. -/
def State.spanPower (s : State) : Nat :=
  let us := (s.tick - s.mgmt.spanTick) * s.rd F.cadTickLen
  if us = 0 then 0 else capN 65535 ((s.rd F.pwrEin - s.mgmt.spanEin) / us)

/-- One partition's entry; occ is its share of the span's core-cycles in 1/65,536. -/
def State.telPart (s : State) (p occ : Nat) : List Byte :=
  leBytes 1 (s.pstate p) ++ leBytes 1 (s.rd F.pConf p) ++ leBytes 1 (s.rd F.pLimAvg p) ++ leBytes 1 0 ++ leBytes 2 occ ++ leBytes 2 0 ++ leBytes 8 (s.rd F.pPen p)

/-- The 1,024 bytes of a record. -/
def State.telBytes (s : State) (occ : List (BitVec 16)) : List Byte :=
  let n := s.mgmt.tseq
  leBytes 1 0x10 ++ leBytes 1 (if n = 0 then 2 else 1) ++ leBytes 2 0 ++ leBytes 4 n ++ leBytes 8 Config.serialNumber.toNat ++
    leBytes 8 (if s.hasTime then s.tick else 0) ++ leBytes 4 (s.rd F.pwrLedgerEp) ++ leBytes 2 s.telFlags ++ leBytes 2 0 ++
    leBytes 8 (s.rd F.pwrEin) ++ leBytes 8 (s.rd F.pwrEoh) ++ leBytes 2 (s.rd F.pwrVin) ++ leBytes 2 (s.rd F.pwrIin) ++
    leBytes 2 s.spanPower ++ leBytes 2 (s.rd F.pwrCapEff) ++ leBytes 2 (s.rd F.idActive) ++ leBytes 1 (s.rd F.idReserve) ++
    leBytes 1 (s.rd F.idFenced) ++ leBytes 4 (s.rd F.pwrExcCnt) ++
    (List.range 10).flatMap (fun z => leBytes 1 (s.rd F.pwrZtemp 0 z) ++ leBytes 1 (s.rd F.pwrZlim 0 z) ++ leBytes 1 (s.rd F.pwrZtempMax 0 z) ++ leBytes 1 0) ++
    List.replicate 24 0 ++ (if n = 0 then s.startSection else List.replicate 24 0) ++ List.replicate 40 0 ++
    (List.range 36).flatMap (fun p => s.telPart p (nthD occ p 0).toNat) ++ List.replicate 256 0

/-- A telemetry record composed (R576, R577): kept, and sent to the sessions that subscribe; the trip and the switch opening have
been reported once record 0 of a cold start is out. -/
def State.telemetry (s : State) (occ : List (BitVec 16)) : State :=
  let bs := s.telBytes occ
  let n := s.mgmt.tseq
  let subs := (s.mgmt.sessions.filter (fun e => e.2.subscribed)).map (fun e => e.1)
  let s := s.modMgmt (fun m => { m with
    records := (m.records ++ [(n, bs)]).drop (m.records.length + 1 - 64), first := if n = 0 then some bs else m.first,
    tseq := n + 1, spanTick := s.tick, spanEin := s.rd F.pwrEin })
  let s := if n = 0 && s.flag F.rstLastCold then s.modRst (fun r => { r with trip := none, switched := none }) else s
  if subs = [] then s else s.send (.record 3 subs bs 0)

/-- TELEMETRY_RECORD (R576): composed while the management controller runs; record 0 of a cold start waits for step 9. -/
def execTelemetryRecord (occ : List (BitVec 16)) (s : State) : Host.Outcome State Fault Refusal :=
  finish (if s.mgmtUp && s.rst.ready then s.telemetry occ else s)

end Sys2Proof.Machine
end

