-- ==== Sys2Proof/Machine/Reset.lean ====
section
/-! DEFINITION. Reset: its sources, assertion, the release of the domains, the cold start and the Off state
(17_reset_and_startup.md, R603, R611, R642 to R644). What a release reports is held behind the reset event (R621). -/
namespace Sys2Proof.Machine

/-! ## What a cold reset keeps: module flash, fuses and pins (Table 17-8) -/

/-- The fields of registers that module flash and fuses hold, or that the next cold start loads from them. -/
def flashFields : List (Fld × Nat) :=
  [(F.idFuseSvn, 0), (F.idCalFact, 0), (F.idClaimed, 0), (F.idImage, 0), (F.idRsvMode, 0), (F.rstColdCnt, 0), (F.pwrLedgerEp, 0),
   (F.hpCxlOffer, 0), (F.hpCxlOffer, 1), (F.hpSetupPt, 0), (F.hpSetupPt, 1)] ++
  (List.range 8).flatMap (fun n => [(F.npMacL, n), (F.npMacH, n), (F.npMaintVid, n)])

/-- The marks of the stacks, kept in module flash (R287). -/
def State.keepMarks (s : State) (new : State) : State :=
  (List.range 24).foldl (fun t n => (t.wr F.memMark0 (s.rd F.memMark0 0 n) 0 n).wr F.memMark1 (s.rd F.memMark1 0 n) 0 n) new

/-- The settings of management function 0x0B that wait for a cold reset, applied (Table 15-7). -/
def State.applySetup (s : State) : State :=
  let s := s.mgmt.setup.foldl (fun s e =>
    if e.1 = 0 then (s.wr F.hpSetupPt e.2 0).wr F.hpSetupPt e.2 1
    else if e.1 < 3 then s.wr F.hpCxlOffer e.2 (e.1 - 1)
    else if e.1 < 11 then (s.wr F.npMacL e.2 (e.1 - 3)).wr F.npMacH (e.2 / 2 ^ 32) (e.1 - 3)
    else (List.range 8).foldl (fun s n => s.wr F.npMaintVid e.2 n) s) s
  s.modMgmt (fun m => { m with setup := [] })

/-- The records owed for teardowns that a cold reset cuts short (R562). -/
def State.cutTears (s : State) : List CutScrub :=
  s.mgmt.tears.map (fun e => match e.2.rest with
    | some c => c
    | none => s.cutOf e.1 e.2.begin)

/-- A host port after a cold reset: busy until the module is ready (Table 17-4). -/
def coldPort (h : HPort) : HPort := { HPort.init with perstN := h.perstN, busyN := false }

/-- A stack through a cold reset: its repairs are in flash and fuses; its CAM stands until the release repairs it (R291), and a copy under
way gives its spare back. -/
def Stack.cold (k : Stack) : Stack :=
  { Stack.init with repairList := k.repairList, hardRepairs := k.hardRepairs, cam := k.cam
                    used := k.copying.foldl (fun t c => tput t c.1.bankKey (tgetD t c.1.bankKey 0 - 2 ^ c.2)) k.used }

/-- A stack through a loss of power: the CAM is lost with its contents, and its spares are free. -/
def Stack.dark (k : Stack) : Stack :=
  { k with cam := [], used := k.cam.foldl (fun t c => tput t c.1.bankKey (tgetD t c.1.bankKey 0 - 2 ^ c.2)) k.used }

/-- CAM_USED and SPARES as the stacks stand. -/
def State.showCams (s : State) : State :=
  (List.range 24).foldl (fun s n => (s.wr F.memCamUsed (s.stack n).cam.length 0 n).wr F.memSpares
    (77824 - sumOf ((s.stack n).used.map (fun e => 32 - ((s.stack n).freeSpares e.1).length))) 0 n) s

/-- The CAMs of every stack lost with the power. -/
def State.darkStacks (s : State) : State := (s.setMem (fun m => { m with stackTab := tmap m.stackTab (fun _ k => k.dark) })).showCams

/-- What module flash, the fuses and the pins hold, everything else as a cold reset leaves it. -/
def State.wipe (s : State) : State :=
  let base := State.reset
  let t : State := { base with
    pending := s.pending, freeCtr := s.freeCtr
    host := { base.host with mem := s.host.mem, nextLife := s.host.nextLife, ports := [(0, coldPort (s.port 0)), (1, coldPort (s.port 1))] }
    net := { base.net with sent := s.net.sent, now := s.net.now }
    mem := { base.mem with stackTab := tmap s.mem.stackTab (fun _ k => k.cold) }
    mgmt := { base.mgmt with
      creds := s.mgmt.creds, images := s.mgmt.images, setup := s.mgmt.setup, scrubs := s.mgmt.scrubs, cut := s.mgmt.cut ++ s.cutTears,
      cal := s.mgmt.cal, sent := s.mgmt.sent, switchImage := s.mgmt.switchImage }
    rst := { s.rst with ready := false, blocks := [], running := [], queue := [], ended := [], stuck := 0, progress := false, recovery := false } }
  (s.keepMarks (flashFields.foldl (fun t e => t.wr e.1 (s.rd e.1 e.2) e.2) t)).showCams

/-! ## What a warm reset leaves (R618, R620, R628, Table 17-8) -/

/-- Every RW field of every block at its Reset value. -/
def State.resetAllRw (s : State) : State :=
  (F.all.filter (fun f => f.acc == .rw)).foldl (fun s f =>
    (List.range f.blk.count).foldl (fun s b => (List.range f.count).foldl (fun s i => s.wr f (f.resetVal b i) b i) s) s) s

/-- A partition's job at a warm reset: left, unless the reset is a planned activation (R462, R493). A member that left it stands in hold until
it has joined again as a spare; a job without other members, and one being left, is gone (notes/assumptions/136.md). -/
def State.warmJob (s : State) (p : Nat) : State :=
  match s.job? p with
  | none => s
  | some j =>
    if j.restarting then s.modJob p (fun j => { j with pauseAt := none, pauseAcks := [], leaving := none, joinOwed := true })
    else
      let s := s.memberEvent p j.jobId (s.rd F.pEpoch p) (s.rd F.pEpoch p) (maskOf j.active) 4 0
      if j.n ≤ 1 || j.leaving.isSome then
        ((((s.modCont p (fun c => { c with job := none })).wr F.pJstate jsNone p).wr F.pNAct 0 p).wr F.pRank 0 p)
      else (s.modJob p (fun j => { j with
        accepted := none, accepts := [], joined := [], readies := [], pauseAt := none, pauseAcks := [], joinOwed := true })).wr F.pJstate jsHold p

/-- A partition through a warm reset (R561, R620, Table 17-8): its steps end, what depended on channels goes, its seal is cleared. -/
def State.warmPart (s : State) (p : Nat) : State :=
  let s := ((s.part p).dctx.map (fun e => e.1)).foldl (fun s n => s.dispLost p n) (s.routersLost p)
  let s := (s.abandonAll p 0x0A).dispReports p (s.stepNo p)
  let s := (s.sheafWarm p).dropEngines p
  let s := s.unpin p (fun _ => true)
  let s := s.modPart p (fun x => { x with
    dctx := [], rtNext := [], rtWait := []
    cad := { x.cad with steps := [], work := [], holds := [] }
    coll := { x.coll with groups := [], runs := [], fillers := [], permute := none, permEarly := [] }
    cont := { x.cont with
      buddies := x.cont.buddies.map (fun b => { b with waiting := [], failed := false }), setting := none, takes := [], ckpt := none,
      restore := none, compares := [], rounds := [], evidence := [] }
    tier := { x.tier with
      lends := [], swaps := tmap x.tier.swaps (fun _ w => { w with op := none }),
      objs := tmap x.tier.objs (fun _ o => { o with pendingWrites := [], sealer := none }) } })
  ((s.promosWarm p).warmJob p).unseal p

/-- The cores at a warm reset: nothing runs, every store is empty; fenced sites stay fenced (R44). -/
def State.warmCores (s : State) : State :=
  ({ s with cores := tmap s.cores (fun _ c => { c with run := none, filler := none, asked := false, rebuild := false, lastPart := none, noFill := false }) }).emptyCores

/-- A host port at a warm reset (R528, R530, Table 17-8): detached, its link down, RDY_N and BUSY_N holding their levels. -/
def State.warmHost (s : State) (q : Nat) : State :=
  ((s.detachRings q).linkGone q).modPort q (fun h => { h with
    vectors := [], msixFnMask := false, regions := [], marginingReady := false, training := true, afterReset := true, snooped := false })

/-- A network port at a warm reset (R352, Table 17-8): its link down, its set-up and its counters kept. -/
def State.warmNet (s : State) (n : Nat) : State :=
  let s := ((((s.wr F.npLink 0 n).wr F.npWidth 0 n).wr F.npPartner 0 n).wr F.npParked 0 n).wr F.npPmode pmDown n
  s.modNport n (fun p => { NPort.init with txBytes := p.txBytes, rxBytes := p.rxBytes })

/-- The management controller at a warm reset: sessions and debug window closed, telemetry, traces and samplings gone. -/
def State.warmMgmt (s : State) : State :=
  (s.wr F.idDbgOpen 0).modMgmt (fun m => { m with
    sessions := [], records := [], first := none, trace := none, sampling := none, pausing := false, sampled := 0 })

/-- The power controller at a reset (R597, R609): its estimates restart and its limits stand at 64. -/
def State.warmPower (s : State) : State :=
  let s := s.modPower (fun w => { w with
    ld := [], lhub := [], fast := false, unreach := false, eRow := [], eBase := none, lastServed := 287, next := [], latched := [],
    capped := [], phases := [], cappedAt := [], recal := false, worked := false, quiet := 0, idleFor := 0 })
  (({ s with mem := { s.mem with lm := [] } }).wr F.pwrMstate 0).showLimits

/-- A firmware load cut short leaves the inactive image failing verification (R634). -/
def State.cutLoad (s : State) : State :=
  if s.rst.running.any (fun a => a.col == colLoad) then
    let i := 1 - s.rd F.idImage
    s.putImage i { s.image i with good := false }
  else s

/-- The activities a reset ends (R634): repair access off, the others gone, each to be reported after release. -/
def State.endActivities (s : State) : State :=
  let s := s.cutLoad
  let s := (s.rst.running.filter (fun a => a.col == colRepair)).foldl (fun s a =>
    (s.modStack a.res (fun k => { k with access := false, bypass := false })).wr F.memStkState 0 0 a.res) s
  (s.modRst (fun r => { r with ended := r.ended ++ r.running ++ r.queue, running := [], queue := [] })).arbShow

/-- The block resets under way end with the module's. -/
def State.endBlocks (s : State) : State :=
  let s := (List.range 9).foldl (fun s i => s.wr F.rstCoreInr 0 0 i) s
  (((s.wr F.rstFabInr 0).wr F.rstMemcInr 0).wr F.rstEngInr 0).modRst (fun r => { r with blocks := [] })

/-- Assertion of a warm reset in the management, fabric and core, host and network domains (R618). -/
def State.warmAssert (s : State) : State :=
  let s := s.endActivities
  let s := s.warmMgmt
  let s := (List.range 36).foldl (fun s p => if s.pstate p = 0 then s else s.warmPart p) s
  let s := s.warmCores.warmCloseAll
  let s := s.setTiers (fun t => { t with gbuf := [], asking := none, demand := [], reads := [], ops := [], msgs := [], intakes := [] })
  let s := { s with routers := [], mem := { s.mem with took := [], evid := [], tokens := [], drawn := [], held := [] }, host := { s.host with sealing := [] } }
  let s := ((s.wr F.idMsealed 0).wr F.idSealing 0)
  let s := s.endOwed (fun _ => true)
  let s := (s.warmHost 0).warmHost 1
  let s := (List.range 8).foldl (fun s n => s.warmNet n) s
  let s := { s with
    net := { s.net with sealPassed := false, ends := [], heldTx := [], heldRx := [] }
    time := { s.time with placed := false, hasMaster := false, ppsMaster := false, tickOut := false, beacons := [],
                          awaitsFollow := false } }
  ((((s.wr F.cadState 0).resetAllRw).endBlocks).warmPower).queuesWarm

/-! ## Sources (R614 to R616) -/

/-- The assertion of the reset under way: a warm one leaves what Table 17-8 keeps, a cold one takes everything but flash (R618). A cold one
raises COLD_CNT and the ledger epoch, once more when a further source starts it again (R11, R615; DESIGN CHOICE,
notes/assumptions/116.md). -/
def State.assert (s : State) : State :=
  let s := s.modRst (fun r => { r with stage := 0, memIn := r.cold, recovery := false, off := false })
  if s.rst.cold then
    let s := (s.inc F.rstColdCnt 1).wr F.pwrLedgerEp (s.rd F.pwrLedgerEp + 1)
    (s.wipe).modRst (fun r => { r with pwrgd := false, thermN := true, vwarnN := true })
  else s.warmAssert

/-- A reset source (R614 to R616): it begins a reset, joins the one under way, starts its assertion again, or turns it cold. Off is
left by a cold source alone (R603). Records already produced go to their rings first. -/
def State.raise (s : State) (src : Nat) (cold : Bool) : State :=
  let s := s.flush
  let bit := 2 ^ (src - 1)
  if s.rst.off then
    if cold then (s.modRst (fun r => { r with cold := true, src := src, seen := bit, escal := false })).assert else s
  else if s.rst.stage = 5 then (s.modRst (fun r => { r with cold := cold, src := src, seen := bit, escal := false })).assert
  else
    let s := s.modRst (fun r => { r with seen := r.seen ||| bit, src := if r.src = 0 then src else r.src })
    if cold && !s.rst.cold then (s.modRst (fun r => { r with cold := true, escal := true })).assert
    else if 1 ≤ s.rst.stage then s.assert
    else s

/-- A source that acts only while the module has its input. -/
def State.source (s : State) (src : Nat) (cold : Bool) : State := if s.rst.powered then s.raise src cold else s

/-! ## The release (R619 to R621, Tables 17-3 and 17-5) -/

/-- The image the boot ROM starts (R567, R568): the active one, or the other; none in recovery. -/
def State.bootImage (s : State) : Option Nat :=
  let a := if s.mgmt.switchImage then 1 - s.rd F.idImage else s.rd F.idImage
  if s.boots a then some a else if s.boots (1 - a) then some (1 - a) else none

/-- The measurement registers of the stages started (R569); a cold start takes the calibration set and the credentials too. -/
def State.measure (s : State) (x : FwImage) : State :=
  let s := (List.range 4).foldl (fun s i => (s.wr F.idMr 0 0 i).extend i (nthD x.stages i 0)) s
  if !s.rst.cold then s
  else (((s.wr F.idMr 0 0 4).extend 4 (sha3Nat s.calBytes)).wr F.idMr 0 0 5).extend 5 (sha3Nat s.credBytes)

/-- RESET_RELEASE (R567, R619, R642): the assertion has lasted 100 µs and no source holds it; the management domain is released and the
image verified. -/
def State.releaseBegin (s : State) : State :=
  if s.rst.stage != 0 || !s.rst.powered || !s.rst.charged || s.rst.brown || s.rst.pinLow || !s.rst.memIn then s
  else
    let s := s.modRst (fun r => { r with stage := 1, pwrgd := true })
    let s := s.modMgmt (fun m => { m with tseq := 0, spanTick := s.tick, spanEin := s.rd F.pwrEin })
    let s := if s.rst.cold then s.applySetup else s
    match s.bootImage with
    | none => (s.modRst (fun r => { r with recovery := true })).modMgmt (fun m => { m with switchImage := false })
    | some i =>
      let x := s.image i
      let s := (((((s.wr F.idImage i).wr F.idFwSvn x.svn).wr F.idFwMajor x.major).wr F.idFwMinor x.minor).wr F.idFwBuild x.build)
      (s.modMgmt (fun m => { m with switchImage := false })).measure x

/-- The firmware key and the shared-region keys a cold start draws (R546). -/
def State.coldKeys (s : State) : State :=
  let (n, s) := s.fresh
  s.setMem (fun m => { m with keyDraw := n + 1 })

/-- The memory domain released (R291): each valid CAM entry becomes a soft repair in the same spare row, and the stacks leave
self-refresh. -/
def State.camRepair (s : State) (n : Nat) : State :=
  let rows := (s.stack n).cam.map (fun e => e.1)
  let s := (s.modStack n (fun k => { k with cam := [], repairList := k.repairList ++ rows.filter (fun r => !k.repairList.contains r), selfRefresh := false })).wr
    F.memCamUsed 0 0 n
  rows.foldl (fun s r => s.repairEvent n r 6) s

/-- The reset event (Table 17-11), ahead of everything that waits (R621). -/
def State.resetEvent (s : State) (us : Nat) : State :=
  let r := s.rst
  let s := ((((s.wr F.rstLastSrc r.src).wr F.rstLastCold (b2n r.cold)).wr F.rstEscal (b2n r.escal)).wr F.rstSrcSeen r.seen).wr F.rstRstUs us
  let s := if r.cold then s else s.inc F.rstWarmCnt 1
  let trip := match r.trip with
    | some (z, t, k) => if r.cold then z + 2 ^ 8 * t + 2 ^ 16 * k else 0
    | none => 0
  let sw := match r.switched with
    | some (c, _) => if r.cold then c else 0
    | none => 0
  let x := Rec.event 0x2F noPart false s.tick
    [r.src, b2n r.cold, b2n r.escal, r.seen, us, s.rd F.rstWarmCnt, s.rd F.pwrLedgerEp, trip, sw]
  { s with out := [⟨.port 0, x⟩, ⟨.port 1, x⟩] ++ s.out }

/-- The completion records of a reset take the tick of its release (R620). -/
def State.stampEnds (s : State) : State :=
  { s with out := s.out.map (fun o => match o.record with
      | .cpl op st cf tag ck _ res => ⟨o.route, .cpl op st cf tag ck s.tick res⟩
      | _ => o) }

/-- The host domain released (R561, R603, R621, R634): the reset event, the activities the reset ended, and the scrubs of confidential
partitions that begin. -/
def State.hostRelease (s : State) (us : Nat) : State :=
  let s := (s.stampEnds).resetEvent us
  let s := s.rst.ended.foldl (fun s a => s.arbEvent a 4 0) s
  let s := s.modRst (fun r => { r with stage := 4, ended := [] })
  let s := match s.rst.trip with
    | some (z, _, _) => if s.rst.cold then s.thermalEvent z 5 0 0 else s
    | none => s
  let s := if s.rst.cold then s
    else (List.range 36).foldl (fun s p =>
      if s.pstate p != 0 && s.confidential p && !thas s.mgmt.tears p then s.modMgmt (fun m => { m with warmScrubs := tput m.warmScrubs p s.tick }) else s) s
  (s.busyLook 0).busyLook 1

/-- The network domain released (R352, R561): teardowns resume at their first stage that had not completed. -/
def State.netRelease (s : State) : State :=
  let s := s.modRst (fun r => { r with stage := 5 })
  s.mgmt.tears.foldl (fun s e => if e.1 < 36 && e.2.stage = 5 then s.askScrub e.1 else s) s

/-- DOMAIN_RELEASE (R619): the domain before has reported ready and the next is released, us µs after assertion. -/
def State.domainRelease (s : State) (us : Nat) : State :=
  if s.rst.off || s.rst.recovery || !s.rst.powered then s
  else if s.rst.stage = 1 then s.modRst (fun r => { r with stage := 2 })
  else if s.rst.stage = 2 then
    (List.range 24).foldl (fun s n => s.camRepair n) ((if s.rst.cold then s.coldKeys else s).modRst (fun r => { r with stage := 3, memIn := false }))
  else if s.rst.stage = 3 then s.hostRelease us
  else if s.rst.stage = 4 then s.netRelease
  else s

/-- DEVICE_MEMORY_ZEROED (R562, R623): step 8 is done; step 9 raises BUSY_N and sends the first telemetry record. -/
def State.zeroed (s : State) : State :=
  if s.rst.ready || s.rst.stage != 5 then s
  else
    let s := { s with mem := { s.mem with dram := [], written := [], poison := [], errs := [], mere := [] } }
    let cut := s.mgmt.cut
    let s := s.modMgmt (fun m => { m with cut := [] })
    let s := cut.foldl (fun s c => s.issueLate c 3 false (s.extentBytes c.extents []) 0x3F) s
    (((s.modRst (fun r => { r with ready := true })).busyLook 0).busyLook 1).telemetry []

/-- WARM_RESET_SCRUB_COMPLETE (R561): the scrub that began at a warm reset is done; the partition keeps its resources and keys. -/
def State.warmScrubDone (s : State) (p : Nat) : State :=
  match tget? s.mgmt.warmScrubs p with
  | none => s
  | some begin =>
    let held := s.heldStacks
    let c := s.cutOf p begin
    let part := c.extents.any (fun e => (s.extentStacks e.1).any (fun n => held.contains n))
    let s := s.modMgmt (fun m => { m with warmScrubs := tdel m.warmScrubs p })
    let s := (s.scrubItems p held).issueScrub c 2 part (s.extentBytes c.extents held) (if part then 0x3E else 0x3F)
    s.partEvent p 5 0 (b2n part + 2 * b2n c.conf)

/-! ## Off and the input (R603, R611, R641 to R644) -/

/-- The registers that outlive the trip into Off: identity, power and reset blocks, whose domains stay powered. -/
def State.offRegs (s : State) : List (Nat × Nat) :=
  s.regs.filter (fun e => let a := e.1 / 64; decide (a < 0x10000) || decide (0x600000 ≤ a) && decide (a < 0x800000))

/-- THERMAL_TRIP (R603): ten readings in a row at or above the trip temperature; the trip goes into flash, the rails go off, and the
module is Off with THERM_N low. -/
def State.thermalTrip (s : State) : State :=
  match s.zoneAt 120 110 with
  | none => s
  | some (z, r, k) =>
    if !s.rst.powered || s.rst.off then s
    else
      let t := s.wipe.darkStacks
      let t := { t with regs := s.offRegs.foldl (fun (m : List (Nat × Nat)) (e : Nat × Nat) => tput m e.1 e.2) t.regs, power := { s.power with dips := [] }, time := t.time }
      let t := (((((t.wr F.idMsealed 0).wr F.idPsealedL 0).wr F.idPsealedH 0).wr F.idSealing 0).wr F.idDbgOpen 0).wr F.pwrSupUnst 0
      t.modRst (fun x => { x with
        trip := some (z, r, k), off := true, stage := 1, thermN := false, pwrgd := false, cold := true, src := 0, seen := 0, escal := false })

/-- INPUT_LOSS (R611, R614): the input falls below 30 V; what flash and fuses do not hold is lost, and a reset under way turns cold. -/
def State.inputLoss (s : State) : State :=
  if !s.rst.powered then s.modRst (fun r => { r with switchOpen := false })
  else
    let under := s.rst.stage != 5 && !s.rst.off
    s.wipe.darkStacks.modRst (fun r => { r with
      powered := false, charged := false, pwrgd := false, off := false, stage := 0, memIn := true, brown := false, switchOpen := false,
      thermN := true, vwarnN := true, escal := under && (r.escal || !r.cold), cold := true,
      src := if under then r.src else 0, seen := if under then r.seen else 0 })

/-- POWER_ON (R614, R642): the input has stayed at or above 45.0 V for 10 ms; the cold reset begins. -/
def State.powerOn (s : State) : State :=
  if s.rst.powered || s.rst.switchOpen then s
  else (s.modRst (fun r => { r with powered := true, cold := true, seen := r.seen ||| 1, src := if r.src = 0 then 1 else r.src })).assert

/-- INPUT_SWITCH_OPEN (R643): the opening goes into flash and is a loss of input; the switch stays open until VIN falls below 30 V. -/
def State.switchOpens (s : State) (cause peak : Nat) : State :=
  if !s.rst.powered then s
  else (s.inputLoss).modRst (fun r => { r with switched := some (cause + 1, peak), switchOpen := true })

/-- BROWN_OUT (R586): four samples below VRST_TH. -/
def State.brownOut (s : State) (vin : Nat) : State :=
  if 100 * s.rd F.pwrVrstTh ≤ vin || s.rst.brown || !s.rst.powered then s
  else (((s.modRst (fun r => { r with brown := true })).latchAll8).supplyEvent 5).source 2 false

/-- BROWN_OUT_RELEASE (R586): 10 ms at or above VWARN_TH + 1.0 V; a latched warning clears without an event and the restore begins. -/
def State.brownRelease (s : State) (vin : Nat) : State :=
  if !s.rst.brown || vin < 100 * (s.rd F.pwrVwarnTh + 10) then s else (s.modRst (fun r => { r with brown := false })).clearWarning

end Sys2Proof.Machine
end

