-- ==== Sys2Proof/Machine/Blocks.lean ====
section
/-! DEFINITION. Block software resets (R625 to R627, Tables 17-6 and 17-7). -/
namespace Sys2Proof.Machine

/-- The Block codes of Table 14-21. -/
def bkCore : Nat := 1
def bkFab : Nat := 2
def bkMemc : Nat := 3
def bkNet : Nat := 4
def bkHost : Nat := 5
def bkIntake : Nat := 6
def bkDisp : Nat := 7
def bkTier : Nat := 8
def bkCkpt : Nat := 9
def bkSha3 : Nat := 10
def bkTime : Nat := 11

/-- The bit of ENG_RST of a block and index (Table 17-7): ports by number, engines by the number of their hub die. -/
def engBit (b i : Nat) : Nat :=
  if b = bkNet then i else if b = bkHost then 8 + i else if b = bkIntake then 10 + i else if b = bkDisp then 10 + i
  else if b = bkTier then 14 + i else if b = bkCkpt then 16 + i else if b = bkSha3 then 18 + i else 18 + i

/-- The block and index of a bit of ENG_RST. -/
def engOf (k : Nat) : Nat × Nat :=
  if k < 8 then (bkNet, k) else if k < 10 then (bkHost, k - 8) else if k < 12 then (bkIntake, k - 10)
  else if k < 14 then (bkDisp, k - 10) else if k < 16 then (bkTier, k - 14) else if k < 18 then (bkCkpt, k - 16)
  else if k < 20 then (bkSha3, k - 18) else (bkTime, k - 18)

/-- The status field, register index and bit of a block (Table 17-7). -/
def inrOf (b i : Nat) : Fld × Nat × Nat :=
  if b = bkCore then (F.rstCoreInr, i / 32, i % 32) else if b = bkFab then (F.rstFabInr, 0, i)
  else if b = bkMemc then (F.rstMemcInr, 0, i) else (F.rstEngInr, 0, engBit b i)

/-- The command field of a block with its register index and bit. -/
def rstOf (b i : Nat) : Fld × Nat × Nat :=
  if b = bkCore then (F.rstCoreRst, i / 32, i % 32) else if b = bkFab then (F.rstFabRst, 0, i)
  else if b = bkMemc then (F.rstMemcRst, 0, i) else (F.rstEngRst, 0, engBit b i)

def blockKey (b i : Nat) : Nat := b * 512 + i

/-- Whether a block is in reset, or waits to be (R625, R627). -/
def State.blockIn (s : State) (b i : Nat) : Bool := thas s.rst.blocks (blockKey b i)

/-- The status bit of a block. -/
def State.setInr (s : State) (b i : Nat) (v : Bool) : State :=
  let x := inrOf b i
  s.wr x.1 (setFld (s.rd x.1 0 x.2.1) x.2.2 1 (b2n v)) 0 x.2.1

/-- The block reset event (Table 17-11): causes 1 released, 2 refused. -/
def State.blockEvent (s : State) (b i cause ended us : Nat) : State := s.eventAll 0x30 [b, i, cause, ended, us]

/-- A memory controller in reset: the Mere writes back and drops the stack's lines, and the stack is in self-refresh. -/
def State.memcReset (s : State) (n : Nat) : State :=
  (((s.setInr bkMemc n true).flushMere (fun l => paStack (l * 128) == n)).modStack n (fun k => { k with selfRefresh := true })).queueConsumerReset 5 n

/-- A time unit in reset: the other takes over (R21). -/
def State.timeReset (s : State) (u : Nat) : State :=
  let alone := s.time.failed.contains (1 - u)
  let s := { s with time := { s.time with failed := u :: s.time.failed.filter (fun x => x != u) } }
  if s.rd F.cadSrc = u && !alone then (s.wr F.cadSrc (1 - u)).timeEvent 3 (s.rd F.cadState) 0 0 else s

/-! ## The queues of Table 1-6 at a block reset (R34, R35) -/

/-- The queues a block is the consumer of, by row and index: a core of its grain queue and its Tarn port, a controller of its stack's
requests, a dispatch engine of its hub's token slots; a fabric stop holds the requests that pass it at their producers. -/
def State.consumesOf (s : State) (b i : Nat) : List (Nat × Nat) :=
  if b = bkCore then [(2, i), (3, i)] else if b = bkMemc then [(5, i)] else if b = bkDisp then [(6, i - 2)]
  else if b = bkFab then
    (if i < 8 then ((List.range 288).filter (fun c => s.dieOf c == i)).map (fun c => (4, c)) else if i < 10 then [(9, i - 8)] else [(6, i - 10)])
  else []

/-- The queues a block is the producer of: a core's fabric port, an intake engine. -/
def producesOf (b i : Nat) : List (Nat × Nat) := if b = bkCore then [(4, i)] else if b = bkIntake then [(9, i)] else []

/-- The queues of a block as its reset takes it (R34, R35). -/
def State.queuesReset (s : State) (b i : Nat) : State :=
  (producesOf b i).foldl (fun s q => s.queueProducerReset q.1 q.2) ((s.consumesOf b i).foldl (fun s q => s.queueConsumerReset q.1 q.2) s)

/-- The queues of a block as it is released (R34, R35, R88). -/
def State.queuesResume (s : State) (b i : Nat) : State :=
  (s.consumesOf b i ++ producesOf b i).foldl (fun s q => s.queueRelease q.1 q.2) s

/-- What a block does as its reset begins (Table 17-6); engines drain first. -/
def State.blockStart (s : State) (b i : Nat) : State :=
  if b = bkMemc then (if (s.stack i).access then s else s.memcReset i)
  else
    let s := s.setInr b i true
    if b = bkCore || b = bkFab then s.queuesReset b i
    else if b = bkNet then s.linkDown i
    else if b = bkHost then s.portReset i 8
    else if b = bkTime then s.timeReset (i - 2)
    else s

/-- A block reset asked for (R625, R627). -/
def State.blockBegin (s : State) (b i : Nat) : State :=
  if s.blockIn b i then s
  else if b = bkFab && s.rd F.rstFabInr != 0 then s.blockEvent b i 2 0 0
  else (s.modRst (fun r => { r with blocks := tput r.blocks (blockKey b i) ⟨false, 0⟩ })).blockStart b i

/-- A write of 1 to the reset bit of a block through port q (R501, R625). -/
def State.blockWrite (s : State) (q b i : Nat) : State :=
  if !s.hostUp q then s
  else if q != s.setupPort then s.clampReg q none 6 0x0E09 ((rstOf b i).1.addr 0 (rstOf b i).2.1) (2 ^ (rstOf b i).2.2) 0
  else s.blockBegin b i

/-! ## Engines (R626) -/

/-- Descriptors of the partitions of host port h whose opcode pick takes, ended with 0xE2. -/
def State.endEngine (s : State) (h : Nat) (pick : Nat → Bool) : State := s.endOwed (fun d => s.portOf d.part == h && pick d.opcode)

/-- How many descriptors have been consumed and not completed. -/
def State.owedCount (s : State) : Nat :=
  sumOf (s.host.rings.map (fun e => e.2.outstanding.length)) + sumOf (s.host.gone.map (fun e => e.2.2.outstanding.length))

/-- The intake engine of hub h drained: its intakes end, and a swap side written becomes faulted. -/
def State.drainIntake (s : State) (h : Nat) : State :=
  (s.tiers.intakes.filter (fun o => o.hub == h)).foldl (fun s o => s.intakeEnd o (intOf o.block) 0xE2 0 0 0) s

/-- The tier engine of hub h drained: tier copies end, promotions fail (R331), demand reads wait for the release. -/
def State.drainTier (s : State) (h : Nat) : State :=
  let s := (s.tiers.ops.filter (fun e => s.portOf e.2.part == h)).foldl (fun s e =>
    match e.2.use with
    | .copy d _ => (s.tierDrop e.1).complete d 0xE2 false 0
    | _ => s.tierOpFail e.1) (s.tierRecall h)
  s.endEngine h (fun op => decide (0x20 ≤ op) && decide (op ≤ 0x29))

/-- The checkpoint engine of hub h drained: a checkpoint in progress fails (R490), and restores and sets end. -/
def State.drainCkpt (s : State) (h : Nat) : State :=
  let ps := s.liveParts.filter (fun p => s.portOf p == h)
  let s := ps.foldl (fun s p =>
    let c := (s.part p).cont
    let s := match c.ckpt with
      | some k => s.ckptEvent p k.step 0x3F 0 0 3
      | none => s
    let s := (c.ckpt.map (fun k => k.rest)).getD [] |>.foldl (fun s e => s.tierDrop e.2.2) s
    s.modCont p (fun c => { c with
      ckpt := none, restore := none, setting := none, takes := []
      buddies := if c.ckpt.isNone then c.buddies else c.buddies.map (fun b =>
        { b with waiting := [], digests := b.digests.filter (fun e => e.1 % 2 != b.slot) }) })) s
  s.endEngine h (fun op => decide (0x52 ≤ op) && decide (op ≤ 0x54) || op == 0x57)

/-- ENGINE_DRAIN_END (R626): the 1 ms of drain is over, and what the engine consumed and has not completed ends with 0xE2. -/
def State.drainEnd (s : State) (k : Nat) : State :=
  let (b, i) := engOf k
  match tget? s.rst.blocks (blockKey b i) with
  | none => s
  | some x =>
    if x.drained || b < bkIntake then s
    else
      let before := s.owedCount
      let s := if b = bkIntake then s.drainIntake i
        else if b = bkDisp then s.liveParts.foldl (fun s p => ((s.part p).dctx.map (fun e => e.1)).foldl (fun s n => s.dispLost p n) s) s
        else if b = bkTier then s.drainTier i
        else if b = bkCkpt then s.drainCkpt i
        else s
      (s.queuesReset b i).modRst (fun r => { r with blocks := tput r.blocks (blockKey b i) ⟨true, before - s.owedCount⟩ })

/-! ## Release (R625, R626) -/

/-- Whether a block may be released: a core has no grain running, a host port's HPn_PERST_N is high, an engine has drained. -/
def State.blockMay (s : State) (b i : Nat) (x : BlockReset) : Bool :=
  if b = bkCore then (s.core i).run.isNone && (s.core i).filler.isNone
  else if b = bkMemc then bitN (s.rd F.rstMemcInr) i
  else if b = bkHost then (s.port i).perstN
  else if bkIntake ≤ b && b ≤ bkSha3 then x.drained
  else true

/-- A core at release: its stores are empty, and it is rebuilt on its own site (R477). -/
def State.coreRelease (s : State) (c : Nat) : State :=
  s.modCore c (fun k => { k with tarn := [], opStore := [], vregs := [], sregs := [], rebuild := true, oldSite := s.rd F.idSite 0 c })

/-- BLOCK_RESET_RELEASE (R625, Table 17-6). -/
def State.blockRelease (s : State) (b i us : Nat) : State :=
  match tget? s.rst.blocks (blockKey b i) with
  | none => s
  | some x =>
    if !s.blockMay b i x then s
    else
      let s := ((s.setInr b i false).modRst (fun r => { r with blocks := tdel r.blocks (blockKey b i) })).queuesResume b i
      let s := if b = bkCore then s.coreRelease i
        else if b = bkMemc then (s.camRepair i).memServes
        else if b = bkFab then (if 10 ≤ i then s.hubResume (i - 10) else s.memServes)
        else if b = bkTier then s.tierIssueAll
        else if b = bkHost then s.busyLook i
        else if b = bkTime then { s with time := { s.time with failed := s.time.failed.filter (fun u => u != i - 2) } }
        else s
      (s.blockEvent b i 1 x.ended us).waitingLook

/-! ## The commands -/

def execCoreReset (q : HostPort) (c : CoreId) (s : State) : Host.Outcome State Fault Refusal := finish (s.blockWrite q.val bkCore c.val)

def execFabricStopReset (q : HostPort) (i : Fin 12) (s : State) : Host.Outcome State Fault Refusal := finish (s.blockWrite q.val bkFab i.val)

def execMemoryControllerReset (q : HostPort) (n : StackId) (s : State) : Host.Outcome State Fault Refusal :=
  finish (s.blockWrite q.val bkMemc n.val)

def execNetworkPortReset (q : HostPort) (n : NetPort) (s : State) : Host.Outcome State Fault Refusal :=
  closing (s.blockWrite q.val bkNet n.val)

def execHostPortReset (q n : HostPort) (s : State) : Host.Outcome State Fault Refusal := finish (s.blockWrite q.val bkHost n.val)

def execIntakeEngineReset (q : HostPort) (hub : Fin 2) (s : State) : Host.Outcome State Fault Refusal :=
  finish (s.blockWrite q.val bkIntake hub.val)

/-- The dispatch engines are those of HD2 and HD3, as the time units are. -/
def execDispatchEngineReset (q : HostPort) (hub : Fin 2) (s : State) : Host.Outcome State Fault Refusal :=
  finish (s.blockWrite q.val bkDisp (hub.val + 2))

def execTierEngineReset (q : HostPort) (hub : Fin 2) (s : State) : Host.Outcome State Fault Refusal :=
  finish (s.blockWrite q.val bkTier hub.val)

def execCheckpointEngineReset (q : HostPort) (hub : Fin 2) (s : State) : Host.Outcome State Fault Refusal :=
  finish (s.blockWrite q.val bkCkpt hub.val)

def execSha3EngineReset (q : HostPort) (hub : Fin 2) (s : State) : Host.Outcome State Fault Refusal :=
  finish (s.blockWrite q.val bkSha3 hub.val)

def execTimeUnitReset (q : HostPort) (hub : Fin 2) (s : State) : Host.Outcome State Fault Refusal :=
  finish (s.blockWrite q.val bkTime (hub.val + 2))

def execEngineDrainEnd (b : Fin 22) (s : State) : Host.Outcome State Fault Refusal := closing (s.drainEnd b.val)

def execBlockResetRelease (block : Fin 12) (index : Fin 288) (us : Word) (s : State) : Host.Outcome State Fault Refusal :=
  closing (s.blockRelease block.val index.val us.toNat)

end Sys2Proof.Machine
end

