-- ==== Sys2Proof/Machine/MgmtCmd.lean ====
section
/-! DEFINITION. The management functions (Table 15-7; functions 0x10 to 0x13 of R585, R614, R629 and R630), the sessions, and the
activities the arbiter runs (15_partitions_security.md, 17_reset_and_startup.md). -/
namespace Sys2Proof.Machine
open Sys2Proof

/-- A function that ran. -/
def ran (s : State) (words : List Nat) : FnOut := ⟨0, words, [], s⟩

/-- A function that was refused, with its clamp records. -/
def refused (s : State) (clamps : List Rec) : FnOut := ⟨1, [], clamps, s⟩

/-- The reply of an activity, to its session while it is open (R629 to R631). -/
def State.actReply (s : State) (sess fn status : Nat) (words : List Nat) (clamps : List Rec) : State :=
  if thas s.mgmt.sessions sess then s.reply sess fn status words clamps else s.mgmtEvent 3 fn sess 0xFF status

/-- A numeric setting of a function held to its range, with its clamp record (R522, R573). -/
def fnRange (fn code lo hi v : Nat) : Nat × List Rec :=
  if v < lo then (lo, [fnClamp fn 1 code v lo]) else if hi < v then (hi, [fnClamp fn 2 code v hi]) else (v, [])

/-- The field code of a management setting that no rule gives a code of its own. -/
def mgmtAny (fn n : Nat) : Nat := freeCode 13 (4 * fn + n)

/-! ## Sessions (R571, R572, R577) -/

/-- SESSION_OPEN: by an enrolled credential's digest, or the claim code. -/
def State.sessionOpen (s : State) (cred : Option Nat) (ok : Bool) : State :=
  if !s.mgmtUp then s
  else
    let idx := cred.bind (fun d => (s.mgmt.creds.find? (fun e => e.2 == d)).map (fun e => e.1))
    let claim := cred.isNone
    let may := ok && (if claim then s.mgmt.creds == [] && !s.flag F.idClaimed && s.mgmt.sessions == [] else idx.isSome)
    match tfree s.mgmt.sessions 4 with
    | some k =>
      if may then
        (s.modMgmt (fun m => { m with sessions := tput m.sessions k ⟨claim, idx.getD 0xFF, false⟩ })).mgmtEvent 1 0 k (idx.getD 0xFF) 0
      else s.mgmtEvent 2 0 0xFF (idx.getD 0xFF) 1
    | none => s.mgmtEvent 2 0 0xFF (idx.getD 0xFF) 1

/-- MANAGEMENT_SESSION_CLOSE: its subscription, trace and sampling end with it. -/
def State.sessionClose (s : State) (k : Nat) : State :=
  s.modMgmt (fun m => { m with
    sessions := tdel m.sessions k, trace := m.trace.filter (fun t => t.1 != k), sampling := m.sampling.filter (fun t => t.1 != k) })

/-! ## Partitions (R540 to R551) -/

/-- A partition a function names: below 36 and not free. -/
def State.liveP (s : State) (p : Nat) : Bool := decide (p < 36) && s.pstate p != 0

/-- The clamp record of a PART no function may use so: the null resource, or a state it is not allowed in. -/
def partClamp (fn reason p : Nat) : Rec := fnClamp fn reason 0x0D01 p 0x3F

/-- The shared region that a number names. -/
def State.region? (s : State) (r : Nat) : Option SharedRegion := if r < 4 then tget? s.mem.shared r else none

/-- A region granted as a partition's highest extent of length 0 (R565). -/
def State.grantRegion (s : State) (p r : Nat) (x : SharedRegion) : Option State :=
  match (List.range 16).reverse.find? (fun i => s.rd F.pExtLen p i == 0) with
  | none => none
  | some i =>
    let s := (s.wr F.pExtBase x.base p i).wr F.pExtLen x.len p i
    let s := s.modPart p (fun y => { y with sharedExt := tput y.sharedExt i r })
    some ((s.wr F.pShared (setFld (s.rd F.pShared p) r 1 1) p).partEvent p 8 r 0)

/-- The interleaved capacity that no other partition's quota claims (R540). -/
def State.quotaFree (s : State) : Nat := s.rd F.memIlvGib - s.rd F.memFwResGib - sumOf (s.liveParts.map (fun p => s.rd F.pMemQuota p))

/-- The core groups that partitions hold. -/
def State.heldGroups (s : State) : Nat := s.liveParts.foldl (fun m p => m ||| s.cgroups p) 0

/-- CREATE_PARTITION (R540, R543, R552, Table 15-1). -/
def State.createPart (s : State) (p cg : Nat) (conf : Bool) (q quota shared : Nat) : FnOut :=
  if 36 ≤ p || s.pstate p != 0 then refused s [partClamp 1 5 p]
  else if cg = 0 || cg &&& s.heldGroups != 0 then refused s [fnClamp 1 5 0x0D02 cg (nullOf 0x0D02)]
  else
    let (m, c1) := fnRange 1 0x0D03 1 3048 quota
    let free := s.quotaFree
    let (m, c2) := if free < m then (free, [fnClamp 1 7 0x0D03 m free]) else (m, [])
    let rs := bitsOf 8 shared
    let c3 := (rs.filter (fun r => (s.region? r).isNone)).map (fun r => fnClamp 1 5 0x0D06 r (nullOf 0x0D06))
    let s := ((((s.wr F.pPstate 1 p).wr F.pConf (b2n conf) p).wr F.pHostPort q p).wr F.pMemQuota m p)
    let s := ((s.wr F.pCgrpL cg p).wr F.pCgrpH (cg / 2 ^ 32) p).wr F.pGen (s.rd F.pGen p + 1) p
    let s := s.partEvent p 1 0 0
    let s := rs.foldl (fun s r => match s.region? r with
      | some x => (s.grantRegion p r x).getD s
      | none => s) s
    ⟨0, [s.rd F.pGen p, m], c1 ++ c2 ++ c3, s⟩

/-- TEAR_DOWN_PARTITION (R557): from created or sealed. -/
def State.tearDownFn (s : State) (p : Nat) : FnOut :=
  if !s.liveP p then refused s [partClamp 2 5 p]
  else if s.pstate p = 3 then refused s [partClamp 2 9 p]
  else ran (s.tearDown p) [s.rd F.pGen p]

/-- LOAD_KEY (R547 to R549, R575): form 0 plain, 1 wrapped (good: it unwraps under PART, slot and GEN), 2 generated. -/
def State.loadKey (s : State) (p slot form key : Nat) (good : Bool) : FnOut :=
  if !s.liveP p then refused s [partClamp 3 5 p]
  else if 16 ≤ slot then refused s [fnClamp 3 5 0x0D04 slot (nullOf 0x0D04)]
  else if form = 2 && slot != 0 then refused s [fnClamp 3 9 0x0D04 slot 0]
  else if form = 1 && !good then refused s []
  else if slot = 0 && (s.pstate p != 1 || thas (s.part p).keys 0) then refused s [fnClamp 3 9 0x0D04 slot 0]
  else
    let s := if form = 2 then s.drawKey p else s.putKey p slot (if slot = 0 then key else key % 2 ^ 256)
    let k := tgetD (s.part p).keys slot 0
    ran (s.partEvent p 6 slot 0) [sha3Nat (leBytes (if slot = 0 then 64 else 32) k)]

/-! ## Shared weight regions (R480, R564, R565) -/

/-- Whether a range of GiB is outside every extent, region and held extent (R43, R559, R564). -/
def State.rangeFree (s : State) (base len : Nat) : Bool :=
  let meets := fun (e : Nat × Nat) => decide (e.1 < base + len) && decide (base < e.1 + e.2)
  !((s.liveParts.flatMap (fun p => s.ordinary p)) ++ s.mem.shared.map (fun e => (e.2.base, e.2.len)) ++ s.heldExtents).any meets

/-- One granule of a region written from its backing copy. -/
def State.fillGranule (s : State) (x : SharedRegion) (g : Nat) : Option State :=
  match s.granule x.owner x.handle g with
  | (none, _) => none
  | (some d, s) =>
    let ls := s.granLines (x.base * gib + g * 4096)
    some ((List.range 32).foldl (fun s i => s.lineWrite noPart hintStream (nthD ls i 0) 0 (bytesAt d (128 * i) 128) false false) s)

/-- A region filled whole from its backing copy (R564); none where a granule cannot be read. -/
def State.fillRegion (s : State) (x : SharedRegion) : Option State :=
  (List.range (x.len * gib / 4096)).foldl (fun (a : Option State) g => a.bind (fun s => s.fillGranule x g)) (some s)

/-- SHARED_REGION_CREATE. -/
def State.regionCreate (s : State) (r base len owner handle : Nat) : FnOut :=
  let no := refused s [fnClamp 4 5 0x0D06 r (nullOf 0x0D06)]
  let x : SharedRegion := ⟨base, len, owner, handle⟩
  if 4 ≤ r || thas s.mem.shared r || len = 0 || s.rd F.memIlvGib - s.rd F.memFwResGib < base + len || !s.rangeFree base len then no
  else match s.obj? owner handle with
    | none => no
    | some o =>
      if o.tier != 1 || o.state != 2 || o.length < len * gib then no
      else match s.fillRegion x with
        | none => no
        | some t => ran { t with mem := { t.mem with shared := tput t.mem.shared r x } } [r]

/-- SHARED_REGION_GRANT. -/
def State.regionGrant (s : State) (r p : Nat) : FnOut :=
  match s.region? r with
  | none => refused s [fnClamp 4 5 0x0D06 r (nullOf 0x0D06)]
  | some x =>
    if !s.liveP p then refused s [partClamp 4 5 p]
    else if s.pstate p != 1 then refused s [partClamp 4 9 p]
    else if bitN (s.rd F.pShared p) r then refused s [fnClamp 4 9 0x0D06 r 0]
    else match s.grantRegion p r x with
      | some t => ran t [r]
      | none => refused s [fnClamp 4 5 0x0D06 r (nullOf 0x0D06)]

/-- SHARED_REGION_REVOKE. -/
def State.regionRevoke (s : State) (r p : Nat) : FnOut :=
  if (s.region? r).isNone then refused s [fnClamp 4 5 0x0D06 r (nullOf 0x0D06)]
  else if !s.liveP p then refused s [partClamp 4 5 p]
  else if s.pstate p != 1 then refused s [partClamp 4 9 p]
  else if !bitN (s.rd F.pShared p) r then refused s [fnClamp 4 5 0x0D06 r (nullOf 0x0D06)]
  else
    let is := ((s.part p).sharedExt.filter (fun e => e.2 == r)).map (fun e => e.1)
    let s := is.foldl (fun s i => ((s.wr F.pExtBase 0 p i).wr F.pExtLen 0 p i).modPart p (fun y => { y with sharedExt := tdel y.sharedExt i })) s
    ran ((s.wr F.pShared (setFld (s.rd F.pShared p) r 1 0) p).partEvent p 9 r 0) [r]

/-- SHARED_REGION_REMOVE. -/
def State.regionRemove (s : State) (r : Nat) : FnOut :=
  if (s.region? r).isNone then refused s [fnClamp 4 5 0x0D06 r (nullOf 0x0D06)]
  else if s.liveParts.any (fun p => bitN (s.rd F.pShared p) r) then refused s [fnClamp 4 9 0x0D06 r 0]
  else ran { s with mem := { s.mem with shared := tdel s.mem.shared r } } [r]

/-! ## Firmware and calibration (R493, R567, R568, R607, R608) -/

/-- A firmware image as module flash keeps it. -/
def blobImage (x : FwBlob) : FwImage :=
  ⟨x.sigOk, x.svn.val, x.major.toNat, x.minor.toNat, x.build.toNat, x.stages.map (fun d => d.toNat)⟩

/-- Whether the members of every job of the module have paused at the step named (R493). -/
def State.paused (s : State) : Bool :=
  s.liveParts.all (fun p => match s.job? p with
    | none => true
    | some j => match j.pauseAt with
      | none => true
      | some n => decide (n ≤ s.rd F.pCommit p) && j.others.all (fun r => j.pauseAcks.contains r))

/-- The warm reset into the new firmware (R493). -/
def State.activateNow (s : State) : State :=
  let s := s.liveParts.foldl (fun s p => s.modJob p (fun j => { j with restarting := true })) s
  (s.modMgmt (fun m => { m with switchImage := true, pausing := false })).source 5 false

/-- An activation started: at once where no partition is an active member of a job, else after PAUSE has been answered (R493). -/
def State.activate (s : State) : State :=
  let ps := s.liveParts.filter (fun p => s.rd F.pJstate p == jsActive)
  if ps = [] then s.activateNow
  else
    let s := s.modMgmt (fun m => { m with pausing := true })
    ps.foldl (fun s p => match s.job? p with
      | none => s
      | some j =>
        let n := s.rd F.pCommit p + 1
        (s.modJob p (fun j => { j with pauseAt := some n, pauseAcks := [] })).clusterAll p j.others ccPause n [0]) s

/-- A waiting activation looked at (R493). -/
def State.activateLook (s : State) : State := if s.mgmt.pausing && s.paused then s.activateNow else s

/-- A binary32 value held to a range; NaN lies below every range. -/
def clampF32 (lo hi v : Nat) : Nat × Nat :=
  let x := ofF32 v
  if x.isNan then (lo, 1)
  else if x.cmp (ofF32 lo) == .lt then (lo, 1)
  else if (ofF32 hi).cmp x == .lt then (hi, 2)
  else (v, 0)

/-- A signed value held to plus or minus m. -/
def clampInt (m v : Int) : Int × Nat := if v < -m then (-m, 1) else if m < v then (m, 2) else (v, 0)

/-- A clamp record of function 0x08, where a value changed. -/
def calClamp (reason code requested applied : Nat) : List Rec :=
  if reason = 0 then [] else [fnClamp 8 reason code requested applied]

/-- One item of the calibration set replaced whole, its values held to their ranges (R607, R608, Table 16-3). -/
def State.calItem (s : State) (x : CalItem) : List Rec × State :=
  match x with
  | .sense xs =>
    let vs := (List.range 13).map (fun i =>
      let e := nthD xs i (0, 0)
      let (g, r1) := clampF32 0x3F666666 0x3F8CCCCD e.1.toNat
      let (o, r2) := clampInt 2000 e.2.toInt
      (i, (g, o), calClamp r1 0x0B10 e.1.toNat g ++ calClamp r2 0x0B10 e.2.toNat (toField 16 o)))
    (vs.flatMap (fun v => v.2.2), s.modMgmt (fun m => { m with cal := { m.cal with sense := vs.map (fun v => (v.1, v.2.1)) } }))
  | .thermal xs =>
    let vs := (List.range 840).map (fun i =>
      let (o, r) := clampInt 32 (nthD xs i 0).toInt
      (i, o, calClamp r 0x0B11 (nthD xs i 0).toNat (toField 8 o)))
    (vs.flatMap (fun v => v.2.2), s.modMgmt (fun m => { m with cal := { m.cal with thermal := vs.map (fun v => (v.1, v.2.1)) } }))
  | .presets xs =>
    let vs := (List.range 96).map (fun i =>
      let e := nthD xs i (0, 0)
      let v := e.1.toNat
      (i, (Nat.min 15 v, e.2.toNat), calClamp (if 15 < v then 2 else 0) 0x0B12 v 15))
    (vs.flatMap (fun v => v.2.2), s.modMgmt (fun m => { m with cal := { m.cal with presets := vs.map (fun v => (v.1, v.2.1)) } }))
  | .seeds xs =>
    ([], s.modMgmt (fun m => { m with cal := { m.cal with seeds := (List.range 192).map (fun i => (i, (nthD xs i 0).toNat)) } }))
  | .coeffs xs =>
    let vs := (List.range 17).map (fun i =>
      let v := (nthD xs i 0).toNat
      let f := (Config.factoryCoeff i).toNat
      let (c, r) := clampF32 (f32Div f 0x41200000).1 (f32Mul f 0x41200000).1 v
      (i, c, calClamp r 0x0B14 v c))
    let s := s.modPower (fun w => { w with recal := true })
    (vs.flatMap (fun v => v.2.2), s.modMgmt (fun m => { m with cal := { m.cal with coeffs := vs.map (fun v => (v.1, v.2.1)) } }))

/-- The calibration write itself (R575, R607, R608). -/
def State.calWrite (s : State) (sess : Nat) (items : List CalItem) : State :=
  let r := items.foldl (fun (a : List Rec × State) x =>
    let (c, s) := a.2.calItem x
    (a.1 ++ c, s)) ([], s)
  let h := sha3Nat r.2.calBytes
  let s := ((r.2.wr F.idCalFact 0).extend 4 h).mgmtEvent 7 8 sess (r.2.sessCred sess) 0
  s.actReply sess 8 0 [h] r.1

/-! ## What an activity does as it starts and ends (R629 to R634) -/

/-- Repair access to a stack (R312). -/
def State.repairStart (s : State) (n : Nat) : State := (s.modStack n (fun k => { k with access := true })).wr F.memStkState 2 0 n

/-- An activity granted. -/
def State.actStart (a : Activity) (s : State) : State :=
  match a.work with
  | .repair => s.repairStart a.res
  | .portTest _ len rate secs dest _ =>
    (s.modNport a.res (fun p => { p with test := some ⟨len, rate, secs, dest, 0, 0, 0, 0, 0, 0⟩ })).pmodeLook a.res
  | .margining _ _ _ => s.modPort a.res (fun h => { h with marginingReady := true })
  | .calibration sess items => s.calWrite sess items
  | .load _ _ =>
    let i := 1 - s.rd F.idImage
    ((s.putImage i { s.image i with good := false }).busyLook 0).busyLook 1
  | .activate sess => (s.actReply sess 6 0 [] []).activate
  | .scrub => s
  | .debug sess m clamps => ((s.wr F.idDbgOpen 1).mgmtEvent 8 0x0E sess (s.sessCred sess) 0).actReply sess 0x0E 0 [m] clamps

/-- A function whose work the arbiter grants: refused to the claim code's session, else started or queued (R572, R631). -/
def State.funcAct (s : State) (sess fn : Nat) (a : Activity) : State :=
  if !s.mgmtUp then s
  else match tget? s.mgmt.sessions sess with
    | none => s
    | some x => if x.claim then (s.wake 4).reply sess fn 1 [] [] else (s.wake 4).arbRequest a State.actStart

/-- The load done: the image is whole (R567, R634). -/
def State.loadEnd (s : State) (a : Activity) : State :=
  match a.work with
  | .load sess x =>
    let i := 1 - s.rd F.idImage
    let s := (s.putImage i x).arbEnd a
    ((s.busyLook 0).busyLook 1).actReply sess 5 0 [i] []
  | _ => s

/-- Repair access to a stack ends (R312, R559, R627). -/
def State.repairEnd (s : State) (n : Nat) (a : Activity) : State :=
  let s := ((s.modStack n (fun k => { k with access := false, bypass := false })).wr F.memStkState 0 0 n).showStack n
  let s := if s.blockIn bkMemc n then s.memcReset n else s
  s.memServes.waitingLook.tearRest.arbEnd a

/-- MAINTENANCE_END (R631). -/
def State.maintEnd (s : State) (w : MaintEnd) : State :=
  match w with
  | .repair n => match s.runningAct? colRepair n.val with
    | none => s
    | some a => s.repairEnd n.val a
  | .calibration => match s.runningAct? colCal 0 with
    | none => s
    | some a => s.arbEnd a
  | .load => match s.runningAct? colLoad 0 with
    | none => s
    | some a => s.loadEnd a

/-- A port test over (R629): frames sent, echoes, errors, echoes lost, and the round trips. -/
def State.testEnd (s : State) (n : Nat) : State :=
  match s.runningAct? colPort n, (s.nport n).test with
  | some a, some t =>
    let s := ((s.modNport n (fun p => { p with test := none })).arbEnd a).pmodeLook n
    match a.work with
    | .portTest sess _ _ _ _ clamps =>
      s.actReply sess 0x12 0 [t.sent, t.echoes, t.errs, t.sent - t.echoes, t.least, t.sum / Nat.max 1 t.echoes, t.most] clamps
    | _ => s
  | _, _ => s

/-- Lane margining over (R630): the greatest timing and voltage offsets of each lane. -/
def State.marginEnd (s : State) (q : Nat) (lanes : List (Byte × Byte)) : State :=
  match s.runningAct? colMargin q with
  | none => s
  | some a =>
    let s := (s.modPort q (fun h => { h with marginingReady := false })).arbEnd a
    match a.work with
    | .margining sess _ clamps => s.actReply sess 0x13 0 (lanes.flatMap (fun e => [e.1.toNat, e.2.toNat])) clamps
    | _ => s

/-- A debug window closed (R556). -/
def State.debugClose (s : State) (sess : Nat) : State :=
  match s.runningAct? colDebug 0 with
  | none => s
  | some a => ((s.wr F.idDbgOpen 0).mgmtEvent 9 0x0E sess (s.sessCred sess) 0).arbEnd a

/-- FIRMWARE_LOAD (R567, R568): an image that does not verify, or whose SVN is burnt out, is refused. -/
def State.firmwareLoad (s : State) (sess : Nat) (x : FwBlob) (a : Activity) : State :=
  match tget? s.mgmt.sessions sess with
  | none => s
  | some y =>
    if !s.mgmtUp || y.claim then s.funcAct sess 5 a
    else if !x.sigOk then ((s.wake 4).mgmtEvent 4 5 sess (s.sessCred sess) 1).reply sess 5 1 [] []
    else if x.svn.val < s.rd F.idFuseSvn then ((s.wake 4).mgmtEvent 5 5 sess (s.sessCred sess) 1).reply sess 5 1 [] []
    else s.funcAct sess 5 a

/-! ## The other functions -/

/-- RESERVE_CORE_POLICY (R26, R574): a reserved mode takes the Reset value; back in automatic, fenced cores that wait for a site
are placed. -/
def State.reservePolicy (s : State) (mode : Nat) : FnOut :=
  let (m, c) := if 1 < mode then (0, [fnClamp 9 3 (mgmtAny 9 0) mode 0]) else (mode, [])
  let was := s.rd F.idRsvMode
  let s := s.wr F.idRsvMode m
  let s := if was = 1 && m = 0 then { s with cores := tmap s.cores (fun _ k => if k.fenced && !k.lost then { k with asked := true } else k) } else s
  ⟨0, [m], c, s⟩

/-- ASSIGN_RESERVE_SITE (R26, R574). -/
def State.assignSite (s : State) (c site : Nat) : FnOut :=
  if s.rd F.idRsvMode != 1 || !(s.core c).fenced || s.rd F.idState 0 site != 1 then refused s [] else ran (s.moveCore c site) [site]

/-- SET_UP_PORT_SETTINGS: kept for the next cold reset. -/
def State.setupPorts (s : State) (x : PortSetup) : FnOut :=
  let put := fun (t : Tab Nat) (k : Nat) (v : Option Nat) => match v with
    | some n => tput t k n
    | none => t
  let t := put s.mgmt.setup 0 (x.setupPort.map (fun q => q.val))
  let t := put t 1 (x.cxl0.map b2n)
  let t := put t 2 (x.cxl1.map b2n)
  let t := x.macs.foldl (fun t e => tput t (3 + e.1.val) e.2.toNat) t
  let t := put t 11 (x.maintVid.map (fun v => v.toNat))
  ran (s.modMgmt (fun m => { m with setup := t })) []

/-- The attestation report (R570), with the partition record of Table 15-1 when a partition is named. -/
def State.attestBytes (s : State) (nonce : Nat) (part : Option Nat) : List Byte :=
  leBytes 64 nonce ++ leBytes 8 Config.serialNumber.toNat ++ leBytes 1 (s.rd F.idFwMajor) ++ leBytes 1 (s.rd F.idFwMinor) ++
    leBytes 2 (s.rd F.idFwBuild) ++ leBytes 1 (s.rd F.idFwSvn) ++ leBytes 1 (s.rd F.idFuseSvn) ++ leBytes 1 (s.rd F.idCalFact) ++
    (List.range 8).flatMap (fun i => leBytes 64 (s.rd F.idMr 0 i)) ++ leBytes 1568 (Config.bootKem (s.rd F.rstColdCnt)).toNat ++
    (match part with
    | none => []
    | some p => leBytes 1 p ++ leBytes 8 (s.cgroups p) ++ leBytes 1 (s.rd F.pConf p) ++ leBytes 1 (s.rd F.pHostPort p) ++
        leBytes 2 (s.rd F.pMemQuota p) ++ leBytes 1 (s.rd F.pShared p) ++ leBytes 4 (s.rd F.pGen p) ++ leBytes 1 (s.pstate p) ++
        leBytes 2 (s.rd F.pKeys p) ++ leBytes 1 (s.rd F.pMkeyGen p))

/-- ATTESTATION_REPORT (R570). -/
def State.attest (s : State) (sess nonce : Nat) (part : Option Nat) : FnOut :=
  let bs := s.attestBytes nonce part
  ran (s.send (.record 1 [sess] bs (signed [0x50, 0x4A, 0x38, 0x2D, 0x41, 0x54, 0x54, 0x45, 0x53, 0x54] bs))) []

/-- The kept record a read names (R577). -/
def State.telFind (s : State) (n : Option Nat) : Option (Nat × List Byte) :=
  match n with
  | none => s.mgmt.records.getLast?
  | some k => match s.mgmt.records.find? (fun e => e.1 == k) with
    | some e => some e
    | none => if k = 0 then s.mgmt.first.map (fun b => (0, b)) else none

/-- TELEMETRY_READ (R577, R608): a record, or the calibration set; record 0 has been read once a session has it. -/
def State.telRead (s : State) (sess : Nat) (x : TelSel) : FnOut :=
  let give := fun (n : Option Nat) => match s.telFind n with
    | none => refused s []
    | some (k, b) =>
      let s := if k = 0 then s.modMgmt (fun m => { m with first := none }) else s
      ran (s.send (.record 3 [sess] b 0)) [k]
  match x with
  | .calibration => ran (s.send (.record 4 [sess] s.calBytes 0)) []
  | .latest => give none
  | .seq n => give (some n.toNat)

/-- A trace or sampling of a partition may run unless it is confidential (R555). -/
def State.observe (s : State) (p : Nat) (f : State → State) : FnOut :=
  if !s.liveP p then refused s [partClamp 0x0D 5 p]
  else if s.confidential p then refused s [partClamp 0x0D 9 p]
  else ran (f s) []

/-- COMMIT_SVN (R568). -/
def State.commitSvn (s : State) (sess : Nat) : FnOut :=
  let s := s.wr F.idFuseSvn (Nat.max (s.rd F.idFuseSvn) (s.rd F.idFwSvn))
  ran (s.mgmtEvent 6 7 sess (s.sessCred sess) 0) [s.rd F.idFuseSvn]

/-- MR5 extended and the event of a credential change (R569, R572). -/
def State.credChanged (s : State) (sess idx : Nat) : State := (s.extend 5 (sha3Nat s.credBytes)).mgmtEvent 10 0x0F sess idx 0

/-- ENROL_CREDENTIAL (R572): at most 8. -/
def State.enrol (s : State) (sess digest : Nat) : FnOut :=
  match tfree s.mgmt.creds 8 with
  | none => refused s []
  | some k =>
    let s := (s.modMgmt (fun m => { m with creds := tput m.creds k digest })).wr F.idClaimed 1
    ran (s.credChanged sess k) [k]

/-- REMOVE_CREDENTIAL (Table 15-7): at least one remains. -/
def State.removeCred (s : State) (sess idx : Nat) : FnOut :=
  let claim := match tget? s.mgmt.sessions sess with
    | some x => x.claim
    | none => true
  if claim || !thas s.mgmt.creds idx || s.mgmt.creds.length < 2 then refused s []
  else ran ((s.modMgmt (fun m => { m with creds := tdel m.creds idx })).credChanged sess idx) [idx]

/-! ## The commands -/

def execSessionOpen (cred : Option (BitVec 512)) (ok : Bool) (s : State) : Host.Outcome State Fault Refusal :=
  finish (s.sessionOpen (cred.map (fun d => d.toNat)) ok)

def execManagementSessionClose (sess : Fin 4) (s : State) : Host.Outcome State Fault Refusal := finish (s.sessionClose sess.val)

def execCreatePartition (sess : Fin 4) (part : Byte) (cgroups : BitVec 36) (conf : Bool) (q : HostPort) (quota : BitVec 16) (shared : Byte)
    (s : State) : Host.Outcome State Fault Refusal :=
  finish (s.func sess.val 1 (fun s => s.createPart part.toNat cgroups.toNat conf q.val quota.toNat shared.toNat))

def execTearDownPartition (sess : Fin 4) (part : Byte) (s : State) : Host.Outcome State Fault Refusal :=
  finish (s.func sess.val 2 (fun s => s.tearDownFn part.toNat))

/-- TEARDOWN_STEP_END (R557): stages 3 and 4. -/
def execTeardownStepEnd (p : PartId) (s : State) : Host.Outcome State Fault Refusal := closing (s.tearLook p.val)

def execTeardownScrubComplete (p : PartId) (s : State) : Host.Outcome State Fault Refusal := finish (s.tearDone p.val)

def execLoadKey (sess : Fin 4) (part slot : Byte) (form : Fin 3) (key : BitVec 512) (good : Bool) (s : State) : Host.Outcome State Fault Refusal :=
  finish (s.func sess.val 3 (fun s => s.loadKey part.toNat slot.toNat form.val key.toNat good))

def execSharedRegionCreate (sess : Fin 4) (r : Byte) (base : BitVec 18) (len : BitVec 12) (owner : PartId) (handle : Word) (s : State) :
    Host.Outcome State Fault Refusal :=
  finish (s.func sess.val 4 (fun s => s.regionCreate r.toNat base.toNat len.toNat owner.val handle.toNat))

def execSharedRegionGrant (sess : Fin 4) (r part : Byte) (s : State) : Host.Outcome State Fault Refusal :=
  finish (s.func sess.val 4 (fun s => s.regionGrant r.toNat part.toNat))

def execSharedRegionRevoke (sess : Fin 4) (r part : Byte) (s : State) : Host.Outcome State Fault Refusal :=
  finish (s.func sess.val 4 (fun s => s.regionRevoke r.toNat part.toNat))

def execSharedRegionRemove (sess : Fin 4) (r : Byte) (s : State) : Host.Outcome State Fault Refusal :=
  finish (s.func sess.val 4 (fun s => s.regionRemove r.toNat))

def execFirmwareLoad (sess : Fin 4) (image : FwBlob) (s : State) : Host.Outcome State Fault Refusal :=
  finish (s.firmwareLoad sess.val image ⟨colLoad, 0, .load sess.val (blobImage image)⟩)

def execFirmwareActivate (sess : Fin 4) (s : State) : Host.Outcome State Fault Refusal :=
  finish (s.funcAct sess.val 6 ⟨colActivate, 0, .activate sess.val⟩)

def execCommitSvn (sess : Fin 4) (s : State) : Host.Outcome State Fault Refusal :=
  finish (s.func sess.val 7 (fun s => s.commitSvn sess.val))

def execCalibrationWrite (sess : Fin 4) (items : List CalItem) (s : State) : Host.Outcome State Fault Refusal :=
  finish (s.funcAct sess.val 8 ⟨colCal, 0, .calibration sess.val items⟩)

def execReserveCorePolicy (sess : Fin 4) (mode : Fin 4) (s : State) : Host.Outcome State Fault Refusal :=
  finish (s.func sess.val 9 (fun s => s.reservePolicy mode.val))

def execFenceCore (sess : Fin 4) (c : CoreId) (s : State) : Host.Outcome State Fault Refusal :=
  closing (s.func sess.val 0x0A (fun s => if (s.core c.val).fenced then refused s [] else ran (s.fenceCore c.val) []))

def execAssignReserveSite (sess : Fin 4) (c : CoreId) (site : SiteId) (s : State) : Host.Outcome State Fault Refusal :=
  finish (s.func sess.val 0x0A (fun s => s.assignSite c.val site.val))

def execSetUpPortSettings (sess : Fin 4) (x : PortSetup) (s : State) : Host.Outcome State Fault Refusal :=
  finish (s.func sess.val 0x0B (fun s => s.setupPorts x))

def execAttestationReport (sess : Fin 4) (nonce : BitVec 512) (part : Option PartId) (s : State) : Host.Outcome State Fault Refusal :=
  finish (s.func sess.val 0x0C (fun s => s.attest sess.val nonce.toNat (part.map (fun p => p.val))))

def execTelemetryRead (sess : Fin 4) (x : TelSel) (s : State) : Host.Outcome State Fault Refusal :=
  finish (s.func sess.val 0x0D (fun s => s.telRead sess.val x))

def execTelemetrySubscribe (sess : Fin 4) (s : State) : Host.Outcome State Fault Refusal :=
  finish (s.func sess.val 0x0D (fun s => ran (s.modMgmt (fun m => { m with sessions := tmod m.sessions sess.val (fun x => { x with subscribed := true }) })) []))

def execGrainTrace (sess : Fin 4) (part : Byte) (on : Bool) (s : State) : Host.Outcome State Fault Refusal :=
  finish (s.func sess.val 0x0D (fun s => s.observe part.toNat (fun s => s.modMgmt (fun m => { m with
    trace := if on then some (sess.val, part.toNat) else m.trace.filter (fun t => t != (sess.val, part.toNat)) }))))

/-- ADDRESS_SAMPLING: one request PVA in every n; 0 ends it. -/
def execAddressSampling (sess : Fin 4) (part : Byte) (n : Word) (s : State) : Host.Outcome State Fault Refusal :=
  finish (s.func sess.val 0x0D (fun s => s.observe part.toNat (fun s => s.modMgmt (fun m => { m with
    sampling := if n = 0 then m.sampling.filter (fun t => t.2.1 != part.toNat) else some (sess.val, part.toNat, n.toNat), sampled := 0 }))))

def execDebugWindowOpen (sess : Fin 4) (minutes : BitVec 16) (s : State) : Host.Outcome State Fault Refusal :=
  let x := fnRange 0x0E 0x0D05 1 240 minutes.toNat
  finish (s.funcAct sess.val 0x0E ⟨colDebug, 0, .debug sess.val x.1 x.2⟩)

def execDebugWindowClose (sess : Fin 4) (s : State) : Host.Outcome State Fault Refusal :=
  finish (s.func sess.val 0x0E (fun s => if (s.runningAct? colDebug 0).isNone then refused s [] else ran (s.debugClose sess.val) []))

def execDebugWindowExpiry (s : State) : Host.Outcome State Fault Refusal := finish (s.debugClose 0xFF)

def execEnrolCredential (sess : Fin 4) (digest : BitVec 512) (s : State) : Host.Outcome State Fault Refusal :=
  finish (s.func sess.val 0x0F (fun s => s.enrol sess.val digest.toNat))

def execRemoveCredential (sess : Fin 4) (idx : Fin 8) (s : State) : Host.Outcome State Fault Refusal :=
  finish (s.func sess.val 0x0F (fun s => s.removeCred sess.val idx.val))

def execSupplyFlagClear (sess : Fin 4) (s : State) : Host.Outcome State Fault Refusal :=
  finish (s.func sess.val 0x10 (fun s => ran s.supplyFlagClear []))

/-- MODULE_RESET (R614): the reply goes out, then the reset begins. -/
def execModuleReset (sess : Fin 4) (cold : Bool) (s : State) : Host.Outcome State Fault Refusal :=
  let t := s.func sess.val 0x11 (fun s => ran s [])
  finish (match s.mgmtUp, tget? s.mgmt.sessions sess.val with
    | true, some x => if x.claim then t else t.source 5 cold
    | _, _ => t)

def execPortTest (sess : Fin 4) (n : NetPort) (len : Option (BitVec 16)) (rate : Option Byte) (secs : Option (BitVec 16))
    (dest : Option (BitVec 48)) (s : State) : Host.Outcome State Fault Refusal :=
  let l := fnRange 0x12 (mgmtAny 0x12 0) 64 9022 ((len.map (fun v => v.toNat)).getD 9022)
  let r := fnRange 0x12 (mgmtAny 0x12 1) 1 100 ((rate.map (fun v => v.toNat)).getD 100)
  let t := fnRange 0x12 (mgmtAny 0x12 2) 1 600 ((secs.map (fun v => v.toNat)).getD 10)
  finish (s.funcAct sess.val 0x12
    ⟨colPort, n.val, .portTest sess.val l.1 r.1 t.1 ((dest.map (fun d => d.toNat)).getD 0) (l.2 ++ r.2 ++ t.2)⟩)

def execPortTestEnd (n : NetPort) (s : State) : Host.Outcome State Fault Refusal := finish (s.testEnd n.val)

def execLaneMargining (sess : Fin 4) (q : HostPort) (secs : Option (BitVec 16)) (s : State) : Host.Outcome State Fault Refusal :=
  let t := fnRange 0x13 (mgmtAny 0x13 0) 1 600 ((secs.map (fun v => v.toNat)).getD 60)
  finish (s.funcAct sess.val 0x13 ⟨colMargin, q.val, .margining sess.val t.1 t.2⟩)

def execLaneMarginingEnd (q : HostPort) (lanes : List (Byte × Byte)) (s : State) : Host.Outcome State Fault Refusal :=
  finish (s.marginEnd q.val lanes)

/-- MAINTENANCE_GRANT (R632): repair access asked for a stack, or every queued activity that may start started. -/
def execMaintenanceGrant (access : Option StackId) (s : State) : Host.Outcome State Fault Refusal :=
  finish (if !s.mgmtUp then s
    else match access with
      | some n => s.arbRequest ⟨colRepair, n.val, .repair⟩ State.actStart
      | none => s.arbGrant State.actStart)

def execMaintenanceEnd (which : MaintEnd) (s : State) : Host.Outcome State Fault Refusal := finish (s.maintEnd which)

end Sys2Proof.Machine
end

