-- ==== Sys2Proof/Machine/PowerCmd.lean ====
section
/-! DEFINITION. The commands of the supply, the power controller, the sensors and the operating states (16_power_thermal.md). -/
namespace Sys2Proof.Machine
open Sys2Proof

/-- Whether the input is present: the controller and the sensors run, Off included (R604). -/
def State.fed (s : State) : Bool := s.rst.powered

def execSensorRead (readings : List Int) (vin iin : BitVec 16) (s : State) : Host.Outcome State Fault Refusal :=
  finish (if s.fed then s.sensorRead readings vin.toNat iin.toNat else s)

def execCriticalTemperatureEnd (s : State) : Host.Outcome State Fault Refusal := finish s.criticalEnd

def execThermalTrip (s : State) : Host.Outcome State Fault Refusal := finish s.thermalTrip

def execSupplyWarning (vin : BitVec 16) (s : State) : Host.Outcome State Fault Refusal :=
  finish (if s.fed then s.supplyWarning vin.toNat else s)

def execSupplyWarningClear (vin : BitVec 16) (s : State) : Host.Outcome State Fault Refusal := finish (s.supplyClear vin.toNat)

def execBrownOut (vin : BitVec 16) (s : State) : Host.Outcome State Fault Refusal := closing (s.brownOut vin.toNat)

def execBrownOutRelease (vin : BitVec 16) (s : State) : Host.Outcome State Fault Refusal := finish (s.brownRelease vin.toNat)

def execCapCompute (s : State) : Host.Outcome State Fault Refusal := finish (if s.rst.stage = 5 then s.capCompute else s)

def execPowerExcursion (pin : BitVec 16) (s : State) : Host.Outcome State Fault Refusal :=
  finish (if s.rst.stage = 5 then s.excursion pin.toNat else s)

def execIdleEntry (s : State) : Host.Outcome State Fault Refusal := finish s.idleEntry

def execStillEntry (s : State) : Host.Outcome State Fault Refusal := closing s.stillEntry

end Sys2Proof.Machine
end

