-- ==== Sys2Proof/Machine/RegCmd.lean ====
section
/-! DEFINITION. Reads and writes of BAR0 (R13 to R15, R500, R501, R522, R532, R553; Tables 14-3 and 14-4), and the commands that are a
write of one register. -/
namespace Sys2Proof.Machine
open Sys2Proof

/-! ## Registers by address -/

/-- The block a BAR0 address lies in, its number, and the offset within it (Table 14-4). -/
def locateReg (a : Nat) : Option (Blk × Nat × Nat) :=
  if a < 0x10000 then some (.ident, 0, a)
  else if a < 0x20000 then some (.host, (a - 0x10000) / 0x8000, (a - 0x10000) % 0x8000)
  else if a < 0x100000 then none
  else if a < 0x340000 then some (.part, (a - 0x100000) / 0x10000, (a - 0x100000) % 0x10000)
  else if a < 0x400000 then none
  else if a < 0x480000 then some (.net, (a - 0x400000) / 0x10000, (a - 0x400000) % 0x10000)
  else if a < 0x490000 then some (.cad, 0, a - 0x480000)
  else if a < 0x500000 then some (.gnx, 0, a - 0x490000)
  else if a < 0x502000 then some (.mem, 0, a - 0x500000)
  else if a < 0x600000 then some (.tier, 0, a - 0x502000)
  else if a < 0x700000 then some (.pwr, 0, a - 0x600000)
  else if a < 0x800000 then some (.rst, 0, a - 0x700000)
  else if a < 0x802000 then some (.mq, (a - 0x800000) / 0x1000, (a - 0x800000) % 0x1000)
  else none

/-- The index of a field and the word of it that the register at an offset holds. -/
def Fld.hit (f : Fld) (o : Nat) : Option (Nat × Nat) :=
  let span := (f.lo + f.w + 31) / 32 * 4
  if o < f.off then none
  else if f.stride = 0 then (if o < f.off + span then some (0, (o - f.off) / 4) else none)
  else
    let i := (o - f.off) / f.stride
    let r := (o - f.off) % f.stride
    if i < f.count && r < span then some (i, r / 4) else none

/-- The fields of the register at an offset of a block, with index and word. -/
def regHits (blk : Blk) (o : Nat) : List (Fld × Nat × Nat) :=
  F.all.filterMap (fun f => if f.blk = blk then (f.hit o).map (fun x => (f, x.1, x.2)) else none)

/-- What word k of a field shows in its register; a write-only field reads zero (Table 0-5). -/
def State.fieldWord (s : State) (b : Nat) (x : Fld × Nat × Nat) : Nat :=
  let v := s.rd x.1 b x.2.1
  if x.1.acc = .wo then 0 else if x.1.lo + x.1.w ≤ 32 then v * 2 ^ x.1.lo else fldN v (32 * x.2.2) 32

/-- The present value of a register. -/
def State.regNow (s : State) (blk : Blk) (b o : Nat) : Nat := sumOf ((regHits blk o).map (fun x => s.fieldWord b x))

/-! ## Reads (R500, R553) -/

/-- A 64-bit counter of which the register is a half: the low half at word 0. -/
def wideHit (blk : Blk) (o : Nat) : Option (Fld × Nat × Nat) := (regHits blk o).find? (fun x => x.1.w == 64)

/-- A register read through port q: its value, and the high half latched where it is the low half of a 64-bit counter. -/
def State.regRead (s : State) (q a : Nat) : Nat × State :=
  match locateReg a with
  | none => (0, s)
  | some (blk, b, o) =>
    if blk = .part && s.confidential b && s.portOf b != q then (0, s)
    else match wideHit blk o with
      | none => (s.regNow blk b o, s)
      | some (f, i, k) =>
        let v := s.rd f b i
        if k = 0 then (v % 2 ^ 32, { s with latches := tput s.latches (a + 4) (v / 2 ^ 32) })
        else ((tget? s.latches a).getD (v / 2 ^ 32), s)

/-- REGISTER_READ: 1 to 4 bytes within one register. -/
def State.barRead (s : State) (q a n : Nat) : State :=
  if !s.hostUp q then s
  else if n = 0 || 4 < a % 4 + n then s.answered .unsupported
  else
    let (v, s) := s.regRead q (a - a % 4)
    s.answered (.data (bytesAt (leBytes 4 v) (a % 4) n) false)

/-! ## Writes -/

/-- The clamp block of a partition window's registers, by the table they stand in (Table 0-7). -/
def partBlock (o : Nat) : Nat := nthD [16, 16, 16, 1, 16, 17, 2, 18, 8, 4, 5, 6, 7, 10, 14, 13, 11] (o / 256) 16

/-- The clamp block of a field whose rule gives no code (Table 0-7). -/
def Fld.block (f : Fld) : Nat :=
  match f.blk with
  | .ident => 14
  | .cad => 1
  | .mem => 4
  | .tier => 5
  | .net => 15
  | .gnx => 6
  | .host => 14
  | .mq => 14
  | .pwr => 11
  | .rst => 12
  | .part => partBlock f.off

/-- The field code a rule gives a field, or none. -/
def Fld.code? (f : Fld) : Option Nat :=
  match f.clamp with
  | .range _ _ c => some c
  | .enc _ _ _ c => some c
  | .any => none

/-- The field code of a field: the one its rule gives, else its block's over a free low byte. -/
def Fld.code (f : Fld) : Nat := f.code?.getD (freeCode f.block (1 + f.off * 32 + f.lo))

/-- The enable bits of the bindings (R532). -/
def bindEnables : List Fld := [F.mqEn, F.pAqEn, F.pEqEn]

/-- Where a field stands in the order of R522; fields without a code come last of their block (notes/assumptions/2.md), and behind
them the enable bits of the bindings, which take what the write carries (R532). -/
def Fld.rank (f : Fld) : Nat := if bindEnables.contains f then f.block * 256 + 256 else f.code?.getD (f.block * 256 + 255)

/-- A value held to what a field takes (R522): the applied value, and the reason where it changed. -/
def Fld.limit (f : Fld) (v : Nat) : Nat × Nat :=
  match f.clamp with
  | .any => (v, 0)
  | .range lo hi _ => if v < lo then (lo, 1) else if hi < v then (hi, 2) else (v, 0)
  | .enc lo hi r _ => if v < lo || hi < v then (r, 3) else (v, 0)

/-- The fields of a register in ascending field code (R522). -/
def byCode : List (Fld × Nat × Nat) → List (Fld × Nat × Nat)
  | [] => []
  | x :: r =>
    let below := fun (y : Fld × Nat × Nat) => decide (y.1.rank < x.1.rank) || (y.1.rank == x.1.rank && decide (y.1.lo < x.1.lo))
    (byCode r).takeWhile below ++ x :: (byCode r).dropWhile below

/-- The bindings of R532: the enable bit of the binding a field belongs to. -/
def bindOf (f : Fld) : Option Fld :=
  if f.blk = .mq then some F.mqEn
  else if [F.pAqLog, F.pAqVec, F.pAqVecEn, F.pAqSqL, F.pAqSqH, F.pAqCqL, F.pAqCqH, F.pAqCbL, F.pAqCbH].contains f then some F.pAqEn
  else if [F.pEqLog, F.pEqVec, F.pEqVecEn, F.pEqBaseL, F.pEqBaseH, F.pEqCbL, F.pEqCbH, F.pEqPayL, F.pEqPayH].contains f then some F.pEqEn
  else none

/-- Whether a binding's field may be taken from a write of v to the register at o: its enable bit is 0 before the write or after. -/
def State.bindTakes (s : State) (b o v : Nat) (f : Fld) : Bool :=
  match bindOf f with
  | none => true
  | some e => e == f || s.rd e b == 0 || ((e.hit o).isSome && fldN v e.lo 1 == 0)

/-- The rules of single fields beyond their range: the value applied and the reason, 0 where nothing changes (R168, R274, R410, R445,
R489, R537). -/
def State.special (s : State) (f : Fld) (b i v : Nat) : Nat × Nat :=
  if f == F.pFillRows then (if v != 0 && s.confidential b then (0, 8) else (v, 0))
  else if f == F.pFillBy then
    (if v = 0x3F then (v, 0)
    else if v = b || 35 < v then (0x3F, 5)
    else if s.confidential b || s.confidential v then (0x3F, 8)
    else (v, 0))
  else if f == F.pRingsMax then (if v < s.rd F.pRings b then (s.rd F.pRings b, 9) else (v, 0))
  else if f == F.pChanMax then
    (let n := (s.net.chans.filter (fun e => e.2.part == b)).length
    if v < n then (n, 9) else (v, 0))
  else if f == F.pObjMax then
    (let n := maxOf (((s.part b).tier.objs.filter (fun e => e.2.state != 0)).map (fun e => e.1 + 1))
    if v < n then (n, 9) else (v, 0))
  else if f == F.gnxRateMin then (if s.rd F.gnxRateInit < v then (s.rd F.gnxRateInit, 2) else (v, 0))
  else if f == F.memSetMask then
    (if (List.range 32).any (fun t => t != i && s.rd F.memSetMask 0 t &&& v != 0) then (0, 5) else (v, 0))
  else (v, 0)

/-- RETAIN is taken only with CKPT_EVERY 1 (R489). -/
def State.retainLook (s : State) (q p addr : Nat) : State :=
  if s.flag F.pRetain p && s.rd F.pCkptEvery p != 1 then (s.wr F.pRetain 0 p).clampReg q (some p) 8 0x0A03 addr 1 0 else s

/-- RATE_MIN is lowered to RATE_INIT (R410). -/
def State.rateLook (s : State) (q addr : Nat) : State :=
  let v := s.rd F.gnxRateMin
  let m := s.rd F.gnxRateInit
  if m < v then (s.wr F.gnxRateMin m).clampReg q none 2 0x0605 addr v m else s

/-- Two ports with one address: the lower-numbered port keeps it (R359). -/
def State.addrLook (s : State) (q n : Nat) (v6 : Bool) : State :=
  let has := fun (s : State) (m : Nat) => if v6 then (List.range 4).any (fun i => s.rd F.npIpv6 m i != 0) else s.rd F.npIpv4 m != 0
  let same := fun (s : State) (m : Nat) => if v6 then (List.range 4).all (fun i => s.rd F.npIpv6 m i == s.rd F.npIpv6 n i) else s.rd F.npIpv4 m == s.rd F.npIpv4 n
  let drop := fun (s : State) (m : Nat) =>
    if v6 then
      let r := s.rd F.npIpv6 m 0
      ((List.range 4).foldl (fun s i => s.wr F.npIpv6 0 m i) s).clampReg q none 8 0x0F0B (F.npIpv6.addr m 0) r 0
    else (s.wr F.npIpv4 0 m).clampReg q none 8 0x0F0B (F.npIpv4.addr m 0) (s.rd F.npIpv4 m) 0
  if !has s n then s
  else (List.range 8).foldl (fun s m => if m != n && has s n && same s m then drop s (Nat.max m n) else s) s

/-- Whether two spans of GiB meet. -/
def gibMeet (a la b lb : Nat) : Bool := decide (0 < la) && decide (0 < lb) && decide (a < b + lb) && decide (b < a + la)

/-- The extents of the module other than extent i of partition p: their partition, base and length; regions and held extents stand
for themselves (partition 64). -/
def State.otherExtents (s : State) (p i : Nat) : List (Nat × Nat × Nat) :=
  (List.range 36).flatMap (fun x => ((List.range 16).filter (fun j => (x, j) != (p, i) && !thas (s.part x).sharedExt j && s.rd F.pExtLen x j != 0)).map
    (fun j => (x, s.rd F.pExtBase x j, s.rd F.pExtLen x j))) ++
  s.mem.shared.map (fun e => (64, e.2.base, e.2.len)) ++ s.heldExtents.map (fun e => (64, e.1, e.2))

/-- Whether an extent lies within the space its form permits (R42, R272, R273). -/
def State.extentFits (s : State) (base len : Nat) : Bool :=
  if base < 2 ^ 17 then decide (base + len ≤ s.rd F.memIlvGib - s.rd F.memFwResGib)
  else decide (fldN base 0 12 + len ≤ (s.extentStacks base).length * s.rd F.memConfSplit)

/-- The checks of an ordinary extent (R42, R43, R542): the length applied and the clamps (code, reason, requested, applied). -/
def State.extentCheck (s : State) (p i base len : Nat) : Nat × List (Nat × Nat × Nat × Nat) :=
  let os := s.otherExtents p i
  if len = 0 then (0, [])
  else if !s.extentFits base len || os.any (fun e => e.1 != p && gibMeet base len e.2.1 e.2.2) then (0, [(0x1001, 5, len, 0)])
  else
    let left := s.rd F.memIlvGib - s.rd F.memFwResGib + 24 * s.rd F.memConfSplit - sumOf (os.map (fun e => e.2.2))
    let a := Nat.min len left
    let own := sumOf ((os.filter (fun e => e.1 == p)).map (fun e => e.2.2))
    let m := Nat.min a (s.rd F.pMemQuota p - own)
    (m, (if a < len then [(0x1002, 7, len, a)] else []) ++ (if m < a then [(0x1006, 7, a, m)] else []))

/-- The standing extents of every partition held to the space that CONF_SPLIT and the stack sets now leave (R272, R273): one that lies in it
no more is the null resource. -/
def State.extentsLook (s : State) (q addr : Nat) : State :=
  s.liveParts.foldl (fun s p => (List.range 16).foldl (fun s i =>
    let n := s.rd F.pExtLen p i
    if n = 0 || thas (s.part p).sharedExt i || s.extentFits (s.rd F.pExtBase p i) n then s
    else (s.clampReg q (some p) 5 0x1001 addr n 0).wr F.pExtLen 0 p i) s) s

/-- What a changed field brings with it. -/
def State.after (s : State) (q : Nat) (f : Fld) (b addr v : Nat) : State :=
  let unplace := fun (s : State) => { s with time := { s.time with placed := false } }
  if f == F.cadTickLen then (unplace s).wr F.cadGrainMax (1800 * v - 1800)
  else if f == F.cadEpochSl || f == F.cadEpochSh || f == F.cadEpochNs then unplace s
  else if f == F.cadPtpPort then s.ptpMove v
  else if f == F.memConfSplit then (s.wr F.memIlvGib (24 * (128 - v))).extentsLook q addr
  else if f == F.memSetMask then s.extentsLook q addr
  else if f == F.memDieMarkEn || f == F.memRowCeTh || f == F.memDieRowsTh then s.judgeAll
  else if f == F.pCkptEvery || f == F.pRetain then s.retainLook q b addr
  else if f == F.gnxRateInit then s.rateLook q addr
  else if f == F.npSpeed then s.linkDown b
  else if f == F.npIpv4 then s.addrLook q b false
  else if f == F.npIpv6 then s.addrLook q b true
  else if f == F.mqEn then (if v = 1 then s.moduleBind b else s.dropRing (moduleKey b))
  else if f == F.pAqEn then (if v = 1 then s.ring0Bind b else s.ring0Unbind b)
  else if f == F.pEqEn then (if v = 1 then s.eventBind b else s.dropRing (eventKey b))
  else s

/-- A write of EXT_BASE or EXT_LEN of extent i (R42, R43, R542, R565), the seal being clear. -/
def State.extentWrite (s : State) (q p i : Nat) (isLen : Bool) (v addr : Nat) : State :=
  let f := if isLen then F.pExtLen else F.pExtBase
  if thas (s.part p).sharedExt i then s.clampReg q (some p) 9 0x1007 addr v (s.rd f p i)
  else
    let s := if isLen then s else s.wr F.pExtBase v p i
    let r := s.extentCheck p i (s.rd F.pExtBase p i) (if isLen then v else s.rd F.pExtLen p i)
    (r.2.foldl (fun s c => s.clampReg q (some p) c.2.1 c.1 addr c.2.2.1 c.2.2.2) s).wr F.pExtLen r.1 p i

/-- Whether the seal that covers a block's RWL fields is set or under way (R15, R533, R535). -/
def State.blkLocked (s : State) (blk : Blk) (b : Nat) : Bool := if blk = .part then s.partLocked b else s.moduleLocked

/-- A write-only field acted on. -/
def State.actField (s : State) (q : Nat) (f : Fld) (b i v addr : Nat) : State :=
  if f == F.rstSwrst then (if v = 0xD1 then s.source 5 false else s.clampReg q none 3 0x0C02 addr v 0)
  else if f == F.hpAttach then (if v = 1 then s.attach b else s)
  else if f == F.hpDetach then (if v = 1 then s.detach b 8 else s)
  else if f == F.rstCoreRst then (bitsOf 32 v).foldl (fun s j => s.blockBegin bkCore (32 * i + j)) s
  else if f == F.rstFabRst then (bitsOf 12 v).foldl (fun s j => s.blockBegin bkFab j) s
  else if f == F.rstMemcRst then (bitsOf 24 v).foldl (fun s j => s.blockBegin bkMemc j) s
  else if f == F.rstEngRst then (bitsOf 22 v).foldl (fun s j => s.blockBegin (engOf j).1 (engOf j).2) s
  else s

/-- One field of a register write (R15, R522, R532). -/
def State.fieldWrite (s : State) (q : Nat) (blk : Blk) (b o addr v : Nat) (x : Fld × Nat × Nat) : State :=
  let (f, i, _) := x
  let part := if blk = .part then some b else none
  let req := fldN v f.lo f.w
  let cur := s.rd f b i
  match f.acc with
  | .ro => s
  | .wo => s.actField q f b i req addr
  | _ =>
    if f.acc = .rwl && s.blkLocked blk b then (if req = cur then s else s.clampReg q part 4 f.code addr req cur)
    else if !s.bindTakes b o v f then (if req = cur then s else s.clampReg q part 9 0x0E0A addr req cur)
    else if f == F.pExtBase || f == F.pExtLen then s.extentWrite q b i (f == F.pExtLen) req addr
    else
      let (a, r) := f.limit req
      let s := if r = 0 then s else s.clampReg q part r f.code addr req a
      let (a2, r2) := s.special f b i a
      let code := if f == F.pFillBy then 0x0705 else if f == F.memSetMask then 0x0407 else f.code
      let s := if r2 = 0 then s else s.clampReg q part r2 code addr a a2
      if a2 = cur then s else (s.wr f a2 b i).after q f b addr a2

/-- The port a block is written through (Table 14-4); a free partition has none. -/
def State.ownerPort (s : State) (blk : Blk) (b : Nat) : Option Nat :=
  match blk with
  | .host => some b
  | .mq => some b
  | .part => if s.pstate b = 0 then none else some (s.portOf b)
  | _ => some s.setupPort

/-- A write of SETUP_SEAL (R533). -/
def State.sealWrite (s : State) (q o v : Nat) : State :=
  if o = 0x100 then (if bitN v 0 then s.msealWrite q else s)
  else if o = 0x104 then (bitsOf 32 v).foldl (fun s p => s.psealWrite q p) s
  else (bitsOf 4 v).foldl (fun s p => s.psealWrite q (32 + p)) s

/-- A whole-word write of a register through port q. -/
def State.regWrite (s : State) (q a v : Nat) : State :=
  match locateReg a with
  | none => s
  | some (blk, b, o) =>
    if blk = .ident then (if o = 0x100 || o = 0x104 || o = 0x108 then s.sealWrite q o v else s)
    else if s.ownerPort blk b != some q then s.clampReg q (if blk = .part then some b else none) 6 0x0E09 a v 0
    else (byCode (regHits blk o)).foldl (fun s x => s.fieldWrite q blk b o a v x) s

/-- REGISTER_WRITE (R500, R501, R522). -/
def State.barWrite (s : State) (q a n v : Nat) : State :=
  if !s.hostUp q then s
  else if n != 4 || a % 4 != 0 then
    match locateReg (a - a % 4) with
    | none => s
    | some (blk, b, o) =>
      s.clampReg q (if blk = .part then some b else none) 3 0x0E01 a (v % 2 ^ (8 * n) * 2 ^ (8 * (a % 4)) % 2 ^ 32) (s.regNow blk b o)
  else s.regWrite q a v

/-! ## The commands -/

def execRegisterWrite (q : HostPort) (addr : BitVec 28) (len : Fin 5) (v : Word) (s : State) : Host.Outcome State Fault Refusal :=
  closing (s.barWrite q.val addr.toNat len.val v.toNat)

def execRegisterRead (q : HostPort) (addr : BitVec 28) (len : Fin 5) (s : State) : Host.Outcome State Fault Refusal :=
  finish (s.barRead q.val addr.toNat len.val)

/-- BAR0_CROSSING_READ (R500): a read of len + 1 bytes that crosses a register boundary. -/
def execBar0CrossingRead (q : HostPort) (addr : BitVec 28) (len : BitVec 12) (s : State) : Host.Outcome State Fault Refusal :=
  finish (if s.hostUp q.val && decide (4 < addr.toNat % 4 + len.toNat + 1) then s.answered .unsupported else s)

/-- A write of one register through port q, while its host domain runs. -/
def State.hostPut (s : State) (q a v : Nat) : State := if s.hostUp q then s.regWrite q a v else s

def execSetMaskWrite (q : HostPort) (i : Fin 32) (mask : BitVec 24) (s : State) : Host.Outcome State Fault Refusal :=
  finish (s.hostPut q.val (F.memSetMask.addr 0 i.val) mask.toNat)

def execExtentWrite (q : HostPort) (p : PartId) (i : Fin 16) (len : Bool) (v : Word) (s : State) : Host.Outcome State Fault Refusal :=
  finish (s.hostPut q.val ((if len then F.pExtLen else F.pExtBase).addr p.val i.val) v.toNat)

def execAttach (q : HostPort) (s : State) : Host.Outcome State Fault Refusal := finish (s.hostPut q.val (F.hpAttach.addr q.val 0) 1)

def execDetach (q : HostPort) (s : State) : Host.Outcome State Fault Refusal := finish (s.hostPut q.val (F.hpDetach.addr q.val 0) 2)

/-- A binding register written as it stands but for its enable bit. -/
def State.enablePut (s : State) (q : Nat) (f : Fld) (b : Nat) (on : Bool) : State :=
  let v := s.regNow f.blk b f.off
  s.hostPut q (f.addr b 0) (setFld v f.lo 1 (b2n on))

def execRing0Bind (q : HostPort) (p : PartId) (s : State) : Host.Outcome State Fault Refusal := finish (s.enablePut q.val F.pAqEn p.val true)

def execRing0Unbind (q : HostPort) (p : PartId) (s : State) : Host.Outcome State Fault Refusal := finish (s.enablePut q.val F.pAqEn p.val false)

def execEventRingBind (q : HostPort) (p : PartId) (s : State) : Host.Outcome State Fault Refusal := finish (s.enablePut q.val F.pEqEn p.val true)

def execEventRingUnbind (q : HostPort) (p : PartId) (s : State) : Host.Outcome State Fault Refusal :=
  finish (s.enablePut q.val F.pEqEn p.val false)

def execModuleRingBind (q : HostPort) (s : State) : Host.Outcome State Fault Refusal := finish (s.enablePut q.val F.mqEn q.val true)

def execModuleRingUnbind (q : HostPort) (s : State) : Host.Outcome State Fault Refusal := finish (s.enablePut q.val F.mqEn q.val false)

def execSwrstWrite (q : HostPort) (v : Byte) (s : State) : Host.Outcome State Fault Refusal :=
  finish (s.hostPut q.val (F.rstSwrst.addr 0 0) v.toNat)

end Sys2Proof.Machine
end

