-- ==== Sys2Proof/Machine/ResetCmd.lean ====
section
/-! DEFINITION. The commands of reset and of the input (17_reset_and_startup.md, 18_power_and_pins.md). -/
namespace Sys2Proof.Machine
open Sys2Proof

def execPowerOn (s : State) : Host.Outcome State Fault Refusal := finish s.powerOn

def execInputLoss (s : State) : Host.Outcome State Fault Refusal := finish s.inputLoss

/-- BULK_CHARGED (R642): the bulk capacitance stands at VIN. -/
def execBulkCharged (s : State) : Host.Outcome State Fault Refusal :=
  finish (if s.rst.powered then s.modRst (fun r => { r with charged := true }) else s)

def execInputSwitchOpen (cause : Fin 2) (peak : BitVec 16) (s : State) : Host.Outcome State Fault Refusal :=
  finish (s.switchOpens cause.val peak.toNat)

/-- RAIL_OUT_OF_REGULATION (R644): MOD_PWRGD follows the rails; they are back only while the sequencer has them on. -/
def execRailOutOfRegulation (out : Bool) (s : State) : Host.Outcome State Fault Refusal :=
  finish (if out then s.modRst (fun r => { r with pwrgd := false })
    else if s.rst.powered && !s.rst.off && decide (1 ≤ s.rst.stage) then s.modRst (fun r => { r with pwrgd := true })
    else s)

/-- MOD_RESET_ASSERT (R614, R619): the pin has been low for 1 µs, and holds the assertion until it rises. -/
def execModResetAssert (low : Bool) (s : State) : Host.Outcome State Fault Refusal :=
  closing (if low then (s.modRst (fun r => { r with pinLow := true })).source 3 false else s.modRst (fun r => { r with pinLow := false }))

/-- MOD_RESET_COLD (Table 17-1): the pin is still low 100 ms after it fell. -/
def execModResetCold (s : State) : Host.Outcome State Fault Refusal := closing (if s.rst.pinLow then s.source 3 true else s)

def execWatchdogExpiry (s : State) : Host.Outcome State Fault Refusal := closing (s.source 4 false)

/-- DBGRST (Table 17-1): while a debug window is open. -/
def execDbgrst (s : State) : Host.Outcome State Fault Refusal := closing (if s.flag F.idDbgOpen then s.source 6 false else s)

def execClockFailure (s : State) : Host.Outcome State Fault Refusal := closing (s.source 7 false)

/-- LOCK_UP (R617): LOCK_TICKS ticks in a row without progress while a partition has a step running. -/
def execLockUp (s : State) : Host.Outcome State Fault Refusal :=
  closing (if s.flag F.rstLockEn && decide (s.rd F.rstLockTicks ≤ s.rst.stuck) then
    (s.modRst (fun r => { r with stuck := 0 })).source 8 false else s)

/-- MEMORY_DOMAIN_ASSERT (R299, R618): the Mere has been written back and every stack is in self-refresh. -/
def State.memAssert (s : State) : State :=
  if s.rst.stage != 0 || s.rst.cold || s.rst.memIn || !s.rst.powered then s
  else
    let s := s.flushMere (fun _ => true)
    let s := (List.range 24).foldl (fun s n => s.modStack n (fun x => { x with selfRefresh := true })) s
    s.modRst (fun r => { r with memIn := true })

def execMemoryDomainAssert (s : State) : Host.Outcome State Fault Refusal := finish s.memAssert

/-- SELF_REFRESH_TIMEOUT (R616): a stack has not entered self-refresh within 100 µs of assertion. -/
def execSelfRefreshTimeout (s : State) : Host.Outcome State Fault Refusal :=
  closing (if s.rst.stage != 0 || s.rst.cold || s.rst.memIn || !s.rst.powered then s
    else (s.modRst (fun r => { r with cold := true, escal := true })).assert)

def execResetRelease (s : State) : Host.Outcome State Fault Refusal := finish s.releaseBegin

def execDomainRelease (us : Word) (s : State) : Host.Outcome State Fault Refusal := closing (s.domainRelease us.toNat)

def execDeviceMemoryZeroed (s : State) : Host.Outcome State Fault Refusal := finish s.zeroed

def execWarmResetScrubComplete (p : PartId) (s : State) : Host.Outcome State Fault Refusal := finish (s.warmScrubDone p.val)

end Sys2Proof.Machine
end

