-- ==== Sys2Proof/Machine/Ticks.lean ====
section
/-! DEFINITION. The tick boundary (02_cadence.md, R55, R83): what every part of the module does at it, in one cycle. -/
namespace Sys2Proof.Machine
open Sys2Proof

/-- Every partition's memory budgets full again, what was left discarded (R83, R304), the lines that waited drawn first (R84). -/
def State.refill (s : State) : State :=
  (s.refillTokens s.liveParts).memServes

/-- The first boundary after MSEAL (R61, R353). -/
def State.sealBoundary (s : State) : State :=
  if s.flag F.idMsealed && !s.net.sealPassed then { s with net := { s.net with sealPassed := true } }.pmodesLook else s.pmodesLook

/-- A parking judgement of every group, and the addresses of the port it parks withdrawn (R372 to R374). -/
def State.parkBoundary (s : State) : State :=
  iterN 8 (fun g s => match s.groupBoundary g with
    | (none, s) => s
    | (some n, s) => (s.sendAddrs n 1).pumpAll) s

/-- The frames a port test sends in one tick (R629): its rate in percent of what the port's width carries, on queue 0. -/
def State.testBoundary (s : State) (n : Nat) : State :=
  match (s.nport n).test with
  | none => s
  | some t =>
    if !s.maySend n false then s
    else
      let k := t.rate * s.laneBytes (s.rd F.npWidth n) / 100 / Nat.max 1 t.len
      let s := iterN k (fun i s => s.xmit false ⟨n, 0, t.len, noPart, .portCtl 6 0 0 ((t.sent + i) % 2 ^ 32)⟩) s
      s.modNport n (fun p => { p with test := some { t with sent := t.sent + k } })

/-- The lock-up count (R617): ticks in a row without progress while a step runs. -/
def State.lockBoundary (s : State) : State :=
  let idle := s.flag F.rstLockEn && !s.rst.progress && s.liveParts.any (fun p => (s.runStep? p).isSome)
  s.modRst (fun r => { r with stuck := if idle then r.stuck + 1 else 0, progress := false })

/-- One partition at a boundary: its range table, its promotions, its activation ledger, its slot grants and its ring sends. -/
def State.partBoundary (s : State) (p : Nat) : State :=
  ((((s.rtBoundary p).promoBoundary p false).ledgerBoundary p).collGrants p).ringsLook p

/-- Everything a boundary does once its number stands: the tick just ended is judged first, then the new one begins. -/
def State.atBoundary (s : State) (first : Bool) (m : Meter) : State :=
  let s := (iterN 8 (fun n s => s.portTally n) (s.presentTime.powerBoundary first m).refill).parkBoundary
  let s := iterN 8 (fun n s => s.portBoundary n) s
  let s := s.sealBoundary.fenceBoundary
  let s := (s.liveParts.foldl State.partBoundary s).gnxBoundary
  let s := iterN 8 (fun n s => s.testBoundary n) s
  let s := (s.timeBoundary).quietBoundary.lockBoundary
  let s := if first then s.liveParts.foldl State.firstBoundary s else s
  let s := s.liveParts.foldl State.placeSteps s.hangBoundary
  s.activateLook.waitingLook

/-- TICK_BOUNDARY k (R55, R83): boundary k follows boundary k - 1; the first one a time unit places may have any number. During a
reset and in Off only the number and the ledger go on (R604). -/
def State.tickBoundary (s : State) (k : Nat) (m : Meter) : State :=
  if !s.rst.powered || (s.time.placed && k != s.tick + 1) then s
  else if s.rst.stage != 5 || s.rst.off then (s.wr F.cadTickNow k).ledgerClose m
  else ({ s with time := { s.time with placed := true } }.wr F.cadTickNow k).atBoundary (!s.time.placed) m

def execTickBoundary (k : DWord) (m : Meter) (s : State) : Host.Outcome State Fault Refusal := closing (s.tickBoundary k.toNat m)

end Sys2Proof.Machine
end

