-- ==== Sys2Proof/Machine/TimeCmd.lean ====
section
/-! DEFINITION. The commands of the time unit (02_cadence.md). -/
namespace Sys2Proof.Machine
open Sys2Proof

def execPtpEventMessageRx (n : NetPort) (m : PtpIn) (s : State) : Host.Outcome State Fault Refusal :=
  finish (s.ptpRx n m.domain.toNat m.msg)

/-- PTP_PORT_FAILOVER (R54): PTP_PORT has lost its link, or had no master for 3 announce intervals. -/
def execPtpPortFailover (s : State) : Host.Outcome State Fault Refusal := finish s.ptpFail

/-- PTP_PORT_RETURN (R54): PTP_PORT has had a master for 16 announce intervals. -/
def execPtpPortReturn (s : State) : Host.Outcome State Fault Refusal := finish (s.ptpMove (s.rd F.cadPtpPort))

def execHoldoverEntry (s : State) : Host.Outcome State Fault Refusal := finish s.holdover

/-- FREE_RUN_ENTRY (R59): holdover has lasted HOLDOVER. -/
def execFreeRunEntry (s : State) : Host.Outcome State Fault Refusal :=
  finish (if s.rd F.cadState = tsHoldover then s.setTime tsFreeRun else s)

def execPpsEdge (s : State) : Host.Outcome State Fault Refusal := finish s.ppsEdge

/-- WHOLE_SECOND (R61, R53, R366): TICK_OUT in its second mode, and the unit's own messages; the echo answers of each port count anew
(Table 10-3). -/
def State.wholeSecond (s : State) : State :=
  let s := { s with net := { s.net with now := s.nextSecond } }.tickOutHigh 2
  (iterN 8 (fun n s => if (s.nport n).echoes = 0 then s else s.modNport n (fun p => { p with echoes := 0 })) s).ptpSecond

def execWholeSecond (s : State) : Host.Outcome State Fault Refusal := finish s.wholeSecond

def execTickOutPulseEnd (s : State) : Host.Outcome State Fault Refusal :=
  finish { s with time := { s.time with tickOut := false } }

def execTimeUnitTakeover (s : State) : Host.Outcome State Fault Refusal := finish s.unitTakeover

def execTickBeaconRx (n : NetPort) (seq : Word) (bound : DWord) (rx : Int) (s : State) : Host.Outcome State Fault Refusal :=
  finish (s.beaconRx n seq.toNat bound.toNat rx)

end Sys2Proof.Machine
end

