-- ==== Sys2Proof/Machine/Dispatch.lean ====
section
/-! DEFINITION. The one dispatch of the commands to their meanings, arm by arm. -/
namespace Sys2Proof.Machine
open Sys2Proof

/-- The effect of a command on everything but the queue. -/
def exec (i : Instr) (s : State) : Host.Outcome State Fault Refusal :=
  match i with
  | .tickBoundary k m => Sys2Proof.Machine.execTickBoundary k m s
  | .registerWrite q addr len v => Sys2Proof.Machine.execRegisterWrite q addr len v s
  | .bar0CrossingRead q addr len => Sys2Proof.Machine.execBar0CrossingRead q addr len s
  | .queueItemIssue q taken => Sys2Proof.Machine.execQueueItemIssue q taken s
  | .timeUnitTakeover => Sys2Proof.Machine.execTimeUnitTakeover s
  | .ptpEventMessageRx n m => Sys2Proof.Machine.execPtpEventMessageRx n m s
  | .ptpPortFailover => Sys2Proof.Machine.execPtpPortFailover s
  | .ptpPortReturn => Sys2Proof.Machine.execPtpPortReturn s
  | .holdoverEntry => Sys2Proof.Machine.execHoldoverEntry s
  | .freeRunEntry => Sys2Proof.Machine.execFreeRunEntry s
  | .ppsEdge => Sys2Proof.Machine.execPpsEdge s
  | .wholeSecond => Sys2Proof.Machine.execWholeSecond s
  | .tickOutPulseEnd => Sys2Proof.Machine.execTickOutPulseEnd s
  | .tickBeaconRx n seq bound rx => Sys2Proof.Machine.execTickBeaconRx n seq bound rx s
  | .tickPlanCheck p => Sys2Proof.Machine.execTickPlanCheck p s
  | .stepBegin p => Sys2Proof.Machine.execStepBegin p s
  | .grainStart c ofs => Sys2Proof.Machine.execGrainStart c ofs s
  | .grainComplete c ofs => Sys2Proof.Machine.execGrainComplete c ofs s
  | .grainOverrun c => Sys2Proof.Machine.execGrainOverrun c s
  | .hangFence c => Sys2Proof.Machine.execHangFence c s
  | .delayGrainElapsed c => Sys2Proof.Machine.execDelayGrainElapsed c s
  | .digestRootFormed p idx => Sys2Proof.Machine.execDigestRootFormed p idx s
  | .stepKick d => Sys2Proof.Machine.execStepKick d s
  | .planRegister d => Sys2Proof.Machine.execPlanRegister d s
  | .planRelease d => Sys2Proof.Machine.execPlanRelease d s
  | .stepHold d => Sys2Proof.Machine.execStepHold d s
  | .resourceReleaseComplete p => Sys2Proof.Machine.execResourceReleaseComplete p s
  | .shardRegister d => Sys2Proof.Machine.execShardRegister d s
  | .shardRelease d => Sys2Proof.Machine.execShardRelease d s
  | .shardQuery d => Sys2Proof.Machine.execShardQuery d s
  | .dispatchContextRegister d => Sys2Proof.Machine.execDispatchContextRegister d s
  | .dispatchContextRelease d => Sys2Proof.Machine.execDispatchContextRelease d s
  | .routerRecordAccept p => Sys2Proof.Machine.execRouterRecordAccept p s
  | .roundCollectionDeadline p n => Sys2Proof.Machine.execRoundCollectionDeadline p n s
  | .dispatchMessageRx cid => Sys2Proof.Machine.execDispatchMessageRx cid s
  | .heldDispatchPlace p n => Sys2Proof.Machine.execHeldDispatchPlace p n s
  | .receiveRoundDeadline p n b => Sys2Proof.Machine.execReceiveRoundDeadline p n b s
  | .returnMessageRx cid => Sys2Proof.Machine.execReturnMessageRx cid s
  | .returnRoundDeadline p n b => Sys2Proof.Machine.execReturnRoundDeadline p n b s
  | .nearMemoryAdd p core pva anchor srcs => Sys2Proof.Machine.execNearMemoryAdd p core pva anchor srcs s
  | .mereRequest p core engine pva hint data early waited errs => Sys2Proof.Machine.execMereRequest p core engine pva hint data early waited errs s
  | .locateFailingDies n dies => Sys2Proof.Machine.execLocateFailingDies n dies s
  | .remapCopyComplete n => Sys2Proof.Machine.execRemapCopyComplete n s
  | .patrolScrubRead n e => Sys2Proof.Machine.execPatrolScrubRead n e s
  | .sensorRead readings vin iin => Sys2Proof.Machine.execSensorRead readings vin iin s
  | .criticalTemperatureEnd => Sys2Proof.Machine.execCriticalTemperatureEnd s
  | .thermalTrip => Sys2Proof.Machine.execThermalTrip s
  | .keepRelease d => Sys2Proof.Machine.execKeepRelease d s
  | .transposeCopy d => Sys2Proof.Machine.execTransposeCopy d s
  | .setMaskWrite q idx mask => Sys2Proof.Machine.execSetMaskWrite q idx mask s
  | .extentWrite q p idx len v => Sys2Proof.Machine.execExtentWrite q p idx len v s
  | .rangeTableEdit d idx entry => Sys2Proof.Machine.execRangeTableEdit d idx entry s
  | .invRead n => Sys2Proof.Machine.execInvRead n s
  | .fuseRead n die => Sys2Proof.Machine.execFuseRead n die s
  | .sppr n die chan bank row => Sys2Proof.Machine.execSppr n die chan bank row s
  | .hppr n die chan bank row verified => Sys2Proof.Machine.execHppr n die chan bank row verified s
  | .mbist n lo hi failing => Sys2Proof.Machine.execMbist n lo hi failing s
  | .listRead n => Sys2Proof.Machine.execListRead n s
  | .bypass n code => Sys2Proof.Machine.execBypass n code s
  | .objectCreate d => Sys2Proof.Machine.execObjectCreate d s
  | .objectWrite d => Sys2Proof.Machine.execObjectWrite d s
  | .objectSeal d => Sys2Proof.Machine.execObjectSeal d s
  | .objectRetire d => Sys2Proof.Machine.execObjectRetire d s
  | .objectFree p slot => Sys2Proof.Machine.execObjectFree p slot s
  | .objectQuery d => Sys2Proof.Machine.execObjectQuery d s
  | .tierCopy d => Sys2Proof.Machine.execTierCopy d s
  | .promotionListRegister d => Sys2Proof.Machine.execPromotionListRegister d s
  | .promotionListRelease d => Sys2Proof.Machine.execPromotionListRelease d s
  | .lendRegister d => Sys2Proof.Machine.execLendRegister d s
  | .lendRelease d => Sys2Proof.Machine.execLendRelease d s
  | .granuleReadComplete p h g data => Sys2Proof.Machine.execGranuleReadComplete p h g data s
  | .granuleReadFail p h g => Sys2Proof.Machine.execGranuleReadFail p h g s
  | .tierReadRequestRx cid h => Sys2Proof.Machine.execTierReadRequestRx cid h s
  | .tierReadDataRx cid h data => Sys2Proof.Machine.execTierReadDataRx cid h data s
  | .tierWriteRx cid h data => Sys2Proof.Machine.execTierWriteRx cid h data s
  | .tierSealRx cid h => Sys2Proof.Machine.execTierSealRx cid h s
  | .tierUnsealRx cid h => Sys2Proof.Machine.execTierUnsealRx cid h s
  | .tierStatusRx cid h => Sys2Proof.Machine.execTierStatusRx cid h s
  | .promotionCopyComplete p plan idx => Sys2Proof.Machine.execPromotionCopyComplete p plan idx s
  | .demotionComplete p plan idx failed => Sys2Proof.Machine.execDemotionComplete p plan idx failed s
  | .intake d => Sys2Proof.Machine.execIntake d s
  | .intakeComplete hub => Sys2Proof.Machine.execIntakeComplete hub s
  | .swapSetRegister d => Sys2Proof.Machine.execSwapSetRegister d s
  | .swap d => Sys2Proof.Machine.execSwap d s
  | .swapSetRelease d => Sys2Proof.Machine.execSwapSetRelease d s
  | .swapSwitch p n => Sys2Proof.Machine.execSwapSwitch p n s
  | .networkLinkUp n => Sys2Proof.Machine.execNetworkLinkUp n s
  | .networkLinkDown n => Sys2Proof.Machine.execNetworkLinkDown n s
  | .frameRx n f => Sys2Proof.Machine.execFrameRx n f s
  | .arpRequestRx n target => Sys2Proof.Machine.execArpRequestRx n target s
  | .neighborSolicitationRx n a => Sys2Proof.Machine.execNeighborSolicitationRx n a s
  | .echoRequestRx n a => Sys2Proof.Machine.execEchoRequestRx n a s
  | .neighbourAgeOut n ip => Sys2Proof.Machine.execNeighbourAgeOut n ip s
  | .helloSend n => Sys2Proof.Machine.execHelloSend n s
  | .helloRx n vendor => Sys2Proof.Machine.execHelloRx n vendor s
  | .partnerTimeout n => Sys2Proof.Machine.execPartnerTimeout n s
  | .widthRequestRx n neww bound seq => Sys2Proof.Machine.execWidthRequestRx n neww bound seq s
  | .widthAcceptRx n => Sys2Proof.Machine.execWidthAcceptRx n s
  | .widthRefuseRx n => Sys2Proof.Machine.execWidthRefuseRx n s
  | .widthReplyTimeout n => Sys2Proof.Machine.execWidthReplyTimeout n s
  | .widthChange n => Sys2Proof.Machine.execWidthChange n s
  | .pcsRelockComplete n => Sys2Proof.Machine.execPcsRelockComplete n s
  | .relockTimeout n => Sys2Proof.Machine.execRelockTimeout n s
  | .portPark n => Sys2Proof.Machine.execPortPark n s
  | .portTestFrameRx n len seq => Sys2Proof.Machine.execPortTestFrameRx n len seq s
  | .portTestEchoRx n seq bad rtt => Sys2Proof.Machine.execPortTestEchoRx n seq bad rtt s
  | .channelOpen d => Sys2Proof.Machine.execChannelOpen d s
  | .channelClose d => Sys2Proof.Machine.execChannelClose d s
  | .bufferPost d => Sys2Proof.Machine.execBufferPost d s
  | .bufferRevoke d => Sys2Proof.Machine.execBufferRevoke d s
  | .send d => Sys2Proof.Machine.execSend d s
  | .channelQuery d => Sys2Proof.Machine.execChannelQuery d s
  | .openResend cid => Sys2Proof.Machine.execOpenResend cid s
  | .openTimeout cid => Sys2Proof.Machine.execOpenTimeout cid s
  | .openRx o => Sys2Proof.Machine.execOpenRx o s
  | .openAckRx h nonce peerNonce => Sys2Proof.Machine.execOpenAckRx h nonce peerNonce s
  | .dataRx h payload => Sys2Proof.Machine.execDataRx h payload s
  | .ackRx h b now => Sys2Proof.Machine.execAckRx h b now s
  | .creditRx h b => Sys2Proof.Machine.execCreditRx h b s
  | .closeRx m => Sys2Proof.Machine.execCloseRx m s
  | .addrRx h addr withdrawn => Sys2Proof.Machine.execAddrRx h addr withdrawn s
  | .violRx h code msn ofs => Sys2Proof.Machine.execViolRx h code msn ofs s
  | .violAckRx h psn => Sys2Proof.Machine.execViolAckRx h psn s
  | .nakRx h msn ofs => Sys2Proof.Machine.execNakRx h msn ofs s
  | .nakResend cid => Sys2Proof.Machine.execNakResend cid s
  | .retransmitTimeout cid psn => Sys2Proof.Machine.execRetransmitTimeout cid psn s
  | .noPathTimeout cid => Sys2Proof.Machine.execNoPathTimeout cid s
  | .closeTimeout cid => Sys2Proof.Machine.execCloseTimeout cid s
  | .slotGrantExpiry cid => Sys2Proof.Machine.execSlotGrantExpiry cid s
  | .groupRegister d => Sys2Proof.Machine.execGroupRegister d s
  | .groupRelease d => Sys2Proof.Machine.execGroupRelease d s
  | .sheafRegister d => Sys2Proof.Machine.execSheafRegister d s
  | .sheafRelease d => Sys2Proof.Machine.execSheafRelease d s
  | .collectiveListRegister d => Sys2Proof.Machine.execCollectiveListRegister d s
  | .collectiveListRelease d => Sys2Proof.Machine.execCollectiveListRelease d s
  | .activationLedgerRegister d => Sys2Proof.Machine.execActivationLedgerRegister d s
  | .activationLedgerRelease d => Sys2Proof.Machine.execActivationLedgerRelease d s
  | .permute d => Sys2Proof.Machine.execPermute d s
  | .chaffLedgerSet d => Sys2Proof.Machine.execChaffLedgerSet d s
  | .fillerListPost d => Sys2Proof.Machine.execFillerListPost d s
  | .fillerListWithdraw d => Sys2Proof.Machine.execFillerListWithdraw d s
  | .collectiveEntryBegin p idx => Sys2Proof.Machine.execCollectiveEntryBegin p idx s
  | .collectiveEntryDeadline p idx => Sys2Proof.Machine.execCollectiveEntryDeadline p idx s
  | .contributionRx cid => Sys2Proof.Machine.execContributionRx cid s
  | .gatherPieceRx cid => Sys2Proof.Machine.execGatherPieceRx cid s
  | .broadcastPieceRx cid => Sys2Proof.Machine.execBroadcastPieceRx cid s
  | .allToAllBlockRx cid => Sys2Proof.Machine.execAllToAllBlockRx cid s
  | .presenceMapRx cid => Sys2Proof.Machine.execPresenceMapRx cid s
  | .sheafClose p n => Sys2Proof.Machine.execSheafClose p n s
  | .mapsAwaitedTimeout p n => Sys2Proof.Machine.execMapsAwaitedTimeout p n s
  | .sheafRecordFinal p n => Sys2Proof.Machine.execSheafRecordFinal p n s
  | .sheafMergeComplete p n => Sys2Proof.Machine.execSheafMergeComplete p n s
  | .p2pRingSlotRx p g k => Sys2Proof.Machine.execP2pRingSlotRx p g k s
  | .p2pStallTimeout p g rank => Sys2Proof.Machine.execP2pStallTimeout p g rank s
  | .permuteLeafRx cid => Sys2Proof.Machine.execPermuteLeafRx cid s
  | .permuteControlRx cid => Sys2Proof.Machine.execPermuteControlRx cid s
  | .jobRegister d => Sys2Proof.Machine.execJobRegister d s
  | .jobLeave d => Sys2Proof.Machine.execJobLeave d s
  | .checkpointSet d => Sys2Proof.Machine.execCheckpointSet d s
  | .cursorWrite d => Sys2Proof.Machine.execCursorWrite d s
  | .checkpointTake d => Sys2Proof.Machine.execCheckpointTake d s
  | .stepReplay d => Sys2Proof.Machine.execStepReplay d s
  | .rollback d => Sys2Proof.Machine.execRollback d s
  | .memberRestore d => Sys2Proof.Machine.execMemberRestore d s
  | .renewSend p => Sys2Proof.Machine.execRenewSend p s
  | .renewRx p h state commit ckjob heard => Sys2Proof.Machine.execRenewRx p h state commit ckjob heard s
  | .leaseExpiry p => Sys2Proof.Machine.execLeaseExpiry p s
  | .candidateTimeout p => Sys2Proof.Machine.execCandidateTimeout p s
  | .proposeRx p h e mask proposer => Sys2Proof.Machine.execProposeRx p h e mask proposer s
  | .acceptRx p h e mask proposer st => Sys2Proof.Machine.execAcceptRx p h e mask proposer st s
  | .rootsRx p h idx tensor root => Sys2Proof.Machine.execRootsRx p h idx tensor root s
  | .readyRx p h => Sys2Proof.Machine.execReadyRx p h s
  | .notreadyRx p h cause => Sys2Proof.Machine.execNotreadyRx p h cause s
  | .treeRx p h idx level first digs evidence => Sys2Proof.Machine.execTreeRx p h idx level first digs evidence s
  | .ckdoneRx p h => Sys2Proof.Machine.execCkdoneRx p h s
  | .pauseRx p h answer => Sys2Proof.Machine.execPauseRx p h answer s
  | .joinRx p h active st => Sys2Proof.Machine.execJoinRx p h active st s
  | .activationAllowanceTimeout p r => Sys2Proof.Machine.execActivationAllowanceTimeout p r s
  | .coreUncorrectableError c => Sys2Proof.Machine.execCoreUncorrectableError c s
  | .coreRebuildComplete c times => Sys2Proof.Machine.execCoreRebuildComplete c times s
  | .refetchComplete r g failed => Sys2Proof.Machine.execRefetchComplete r g failed s
  | .pcieLinkUp q gen width cxl cache => Sys2Proof.Machine.execPcieLinkUp q gen width cxl cache s
  | .pcieLinkDown q => Sys2Proof.Machine.execPcieLinkDown q s
  | .perstAssert q => Sys2Proof.Machine.execPerstAssert q s
  | .perstRelease q => Sys2Proof.Machine.execPerstRelease q s
  | .hotReset q => Sys2Proof.Machine.execHotReset q s
  | .linkDisable q => Sys2Proof.Machine.execLinkDisable q s
  | .functionLevelReset q => Sys2Proof.Machine.execFunctionLevelReset q s
  | .d3hotEntry q => Sys2Proof.Machine.execD3hotEntry q s
  | .aerUncorrectableError q => Sys2Proof.Machine.execAerUncorrectableError q s
  | .configurationRequest q => Sys2Proof.Machine.execConfigurationRequest q s
  | .attach q => Sys2Proof.Machine.execAttach q s
  | .detach q => Sys2Proof.Machine.execDetach q s
  | .doorbellPollRound q reads => Sys2Proof.Machine.execDoorbellPollRound q reads s
  | .cxlSnoop q => Sys2Proof.Machine.execCxlSnoop q s
  | .msixCoalesceTimeout p ring => Sys2Proof.Machine.execMsixCoalesceTimeout p ring s
  | .undefinedOpcode opcode d => Sys2Proof.Machine.execUndefinedOpcode opcode d s
  | .ringPairCreate d => Sys2Proof.Machine.execRingPairCreate d s
  | .ringPairDestroy d => Sys2Proof.Machine.execRingPairDestroy d s
  | .regionRegister d => Sys2Proof.Machine.execRegionRegister d s
  | .regionRelease d => Sys2Proof.Machine.execRegionRelease d s
  | .bar2Read q ofs len => Sys2Proof.Machine.execBar2Read q ofs len s
  | .bar2Write q ofs data => Sys2Proof.Machine.execBar2Write q ofs data s
  | .bar2Resize q log => Sys2Proof.Machine.execBar2Resize q log s
  | .ring0Bind q p => Sys2Proof.Machine.execRing0Bind q p s
  | .ring0Unbind q p => Sys2Proof.Machine.execRing0Unbind q p s
  | .eventRingBind q p => Sys2Proof.Machine.execEventRingBind q p s
  | .eventRingUnbind q p => Sys2Proof.Machine.execEventRingUnbind q p s
  | .moduleRingBind q => Sys2Proof.Machine.execModuleRingBind q s
  | .moduleRingUnbind q => Sys2Proof.Machine.execModuleRingUnbind q s
  | .msealWrite q => Sys2Proof.Machine.execMsealWrite q s
  | .psealWrite q p => Sys2Proof.Machine.execPsealWrite q p s
  | .sealChangeEnd c => Sys2Proof.Machine.execSealChangeEnd c s
  | .sessionOpen cred ok => Sys2Proof.Machine.execSessionOpen cred ok s
  | .createPartition sess part cgroups conf q quota shared => Sys2Proof.Machine.execCreatePartition sess part cgroups conf q quota shared s
  | .tearDownPartition sess part => Sys2Proof.Machine.execTearDownPartition sess part s
  | .teardownStepEnd p => Sys2Proof.Machine.execTeardownStepEnd p s
  | .teardownScrubComplete p => Sys2Proof.Machine.execTeardownScrubComplete p s
  | .loadKey sess part slot form key good => Sys2Proof.Machine.execLoadKey sess part slot form key good s
  | .sharedRegionCreate sess r base len owner handle => Sys2Proof.Machine.execSharedRegionCreate sess r base len owner handle s
  | .sharedRegionGrant sess r part => Sys2Proof.Machine.execSharedRegionGrant sess r part s
  | .sharedRegionRevoke sess r part => Sys2Proof.Machine.execSharedRegionRevoke sess r part s
  | .sharedRegionRemove sess r => Sys2Proof.Machine.execSharedRegionRemove sess r s
  | .firmwareLoad sess image => Sys2Proof.Machine.execFirmwareLoad sess image s
  | .firmwareActivate sess => Sys2Proof.Machine.execFirmwareActivate sess s
  | .commitSvn sess => Sys2Proof.Machine.execCommitSvn sess s
  | .calibrationWrite sess items => Sys2Proof.Machine.execCalibrationWrite sess items s
  | .reserveCorePolicy sess mode => Sys2Proof.Machine.execReserveCorePolicy sess mode s
  | .fenceCore sess c => Sys2Proof.Machine.execFenceCore sess c s
  | .assignReserveSite sess c site => Sys2Proof.Machine.execAssignReserveSite sess c site s
  | .setUpPortSettings sess x => Sys2Proof.Machine.execSetUpPortSettings sess x s
  | .attestationReport sess nonce part => Sys2Proof.Machine.execAttestationReport sess nonce part s
  | .telemetryRead sess x => Sys2Proof.Machine.execTelemetryRead sess x s
  | .telemetrySubscribe sess => Sys2Proof.Machine.execTelemetrySubscribe sess s
  | .grainTrace sess part on => Sys2Proof.Machine.execGrainTrace sess part on s
  | .addressSampling sess part n => Sys2Proof.Machine.execAddressSampling sess part n s
  | .debugWindowOpen sess minutes => Sys2Proof.Machine.execDebugWindowOpen sess minutes s
  | .debugWindowClose sess => Sys2Proof.Machine.execDebugWindowClose sess s
  | .debugWindowExpiry => Sys2Proof.Machine.execDebugWindowExpiry s
  | .enrolCredential sess digest => Sys2Proof.Machine.execEnrolCredential sess digest s
  | .removeCredential sess idx => Sys2Proof.Machine.execRemoveCredential sess idx s
  | .supplyFlagClear sess => Sys2Proof.Machine.execSupplyFlagClear sess s
  | .moduleReset sess cold => Sys2Proof.Machine.execModuleReset sess cold s
  | .portTest sess n len rate secs dest => Sys2Proof.Machine.execPortTest sess n len rate secs dest s
  | .laneMargining sess q secs => Sys2Proof.Machine.execLaneMargining sess q secs s
  | .maintenanceGrant access => Sys2Proof.Machine.execMaintenanceGrant access s
  | .maintenanceEnd which => Sys2Proof.Machine.execMaintenanceEnd which s
  | .portTestEnd n => Sys2Proof.Machine.execPortTestEnd n s
  | .laneMarginingEnd q lanes => Sys2Proof.Machine.execLaneMarginingEnd q lanes s
  | .telemetryRecord occ => Sys2Proof.Machine.execTelemetryRecord occ s
  | .supplyWarning vin => Sys2Proof.Machine.execSupplyWarning vin s
  | .supplyWarningClear vin => Sys2Proof.Machine.execSupplyWarningClear vin s
  | .brownOut vin => Sys2Proof.Machine.execBrownOut vin s
  | .brownOutRelease vin => Sys2Proof.Machine.execBrownOutRelease vin s
  | .capCompute => Sys2Proof.Machine.execCapCompute s
  | .powerExcursion pin => Sys2Proof.Machine.execPowerExcursion pin s
  | .idleEntry => Sys2Proof.Machine.execIdleEntry s
  | .stillEntry => Sys2Proof.Machine.execStillEntry s
  | .powerOn => Sys2Proof.Machine.execPowerOn s
  | .inputLoss => Sys2Proof.Machine.execInputLoss s
  | .bulkCharged => Sys2Proof.Machine.execBulkCharged s
  | .inputSwitchOpen cause peak => Sys2Proof.Machine.execInputSwitchOpen cause peak s
  | .railOutOfRegulation out => Sys2Proof.Machine.execRailOutOfRegulation out s
  | .modResetAssert low => Sys2Proof.Machine.execModResetAssert low s
  | .modResetCold => Sys2Proof.Machine.execModResetCold s
  | .watchdogExpiry => Sys2Proof.Machine.execWatchdogExpiry s
  | .swrstWrite q v => Sys2Proof.Machine.execSwrstWrite q v s
  | .dbgrst => Sys2Proof.Machine.execDbgrst s
  | .clockFailure => Sys2Proof.Machine.execClockFailure s
  | .lockUp => Sys2Proof.Machine.execLockUp s
  | .memoryDomainAssert => Sys2Proof.Machine.execMemoryDomainAssert s
  | .selfRefreshTimeout => Sys2Proof.Machine.execSelfRefreshTimeout s
  | .resetRelease => Sys2Proof.Machine.execResetRelease s
  | .domainRelease us => Sys2Proof.Machine.execDomainRelease us s
  | .coreReset q c => Sys2Proof.Machine.execCoreReset q c s
  | .fabricStopReset q idx => Sys2Proof.Machine.execFabricStopReset q idx s
  | .memoryControllerReset q n => Sys2Proof.Machine.execMemoryControllerReset q n s
  | .networkPortReset q n => Sys2Proof.Machine.execNetworkPortReset q n s
  | .hostPortReset q n => Sys2Proof.Machine.execHostPortReset q n s
  | .intakeEngineReset q hub => Sys2Proof.Machine.execIntakeEngineReset q hub s
  | .dispatchEngineReset q hub => Sys2Proof.Machine.execDispatchEngineReset q hub s
  | .tierEngineReset q hub => Sys2Proof.Machine.execTierEngineReset q hub s
  | .checkpointEngineReset q hub => Sys2Proof.Machine.execCheckpointEngineReset q hub s
  | .sha3EngineReset q hub => Sys2Proof.Machine.execSha3EngineReset q hub s
  | .timeUnitReset q hub => Sys2Proof.Machine.execTimeUnitReset q hub s
  | .engineDrainEnd b => Sys2Proof.Machine.execEngineDrainEnd b s
  | .blockResetRelease block index us => Sys2Proof.Machine.execBlockResetRelease block index us s
  | .registerRead q addr len => Sys2Proof.Machine.execRegisterRead q addr len s
  | .managementSessionClose sess => Sys2Proof.Machine.execManagementSessionClose sess s
  | .msixVectorUnmask q v masked => Sys2Proof.Machine.execMsixVectorUnmask q v masked s
  | .deviceMemoryZeroed => Sys2Proof.Machine.execDeviceMemoryZeroed s
  | .warmResetScrubComplete p => Sys2Proof.Machine.execWarmResetScrubComplete p s

end Sys2Proof.Machine
end

