-- ==== Sys2Proof/Safety.lean ====
section
/-! DEFINITION. What counts as a sound state of the block, and the words the statements are written in. -/
namespace Sys2Proof.Machine
open Sys2Proof

/-- A sparse memory is in its canonical form: addresses rising, no listed zero. -/
abbrev Memory.wf (m : List Host.Cell) : Bool := cellsWf m

/-- Device memory, host memory and the register file are in their canonical form. -/
def State.wf (s : State) : Bool := Memory.wf s.mem.dram && Memory.wf s.host.mem && keysRising s.regs

/-- No record is in flight: while the host domain is released every record has reached its ring or its port's backlog; before that
the records wait behind the reset event (R621). -/
def State.recordsPlaced (s : State) : Prop := 4 ≤ s.rst.stage → s.out = []

/-- The state a command of the network side ends in, from the state its effect has made: the engines hear of the ends of what they
sent, the oldest steps, the releases that wait and the ports' modes are looked at, demand reads that lack a request send it, and the
records are delivered. -/
def State.closed (s : State) : State := s.settleEnds.stepsLook.tierLook.demandIssue.pmodesLook.flush

/-- The state in which an asker makes its demand reads (R322). -/
def State.asks (s : State) (a : Asker) : State := s.setTiers (fun y => { y with asking := some a })

/-- An asker has met no granule of an object that is not at hand (R322). -/
def State.atHand (s : State) (a : Asker) : Prop := s.demandWaits a = false

/-- What an asker has made, its demand reads over. -/
def State.ran (s : State) (a : Asker) : State :=
  s.setTiers (fun y => { y with asking := none, demand := y.demand.filter (fun d => d.asker != a) })

/-- Descriptor d of an opcode is consumed in s and starts at once in t, as the reference r: the module may consume it (R511), its VER
is one the port agreed to (R519), its FENCE does not hold it (R513), nor do device memory (R84, R312) and the checkpoint engine; in t its demand reads are its own. -/
def State.starts (s : State) (opcode : Nat) (d : Desc) (r : DRef) (t : State) : Prop :=
  ∃ u : State, s.consume opcode d = some (r, u) ∧ u.verBad d = false ∧ u.fenceWaits r d = false ∧ u.memStart r.part opcode = true ∧
    u.tiers.asking = none ∧ t = u.asks (.desc r)

end Sys2Proof.Machine
end

