-- ==== Sys2Proof/WellFormed.lean ====
section
/-! DEFINITION. Which commands are well formed: the lists a command carries have the lengths, and its numbers the ranges, that
the spec's formats give them where the operand's type does not already say so. -/
namespace Sys2Proof

/-- A burst read meets four codewords (R279). -/
def BurstErr.wf (e : BurstErr) : Bool := e.words.length == 4

/-- The counts of one interval: eight rails, and each partition at most once (R596, R604, R606). -/
def Meter.wf (m : Meter) : Bool :=
  m.rails.length == 8 && (m.acts.map (fun a => a.1)).Nodup && (m.stalls.map (fun a => a.1.val)).Nodup

/-- A calibration item is whole: 13 channels, 840 sensors, 96 lanes, 192 DRAM channels or 17 coefficients (Table 16-3, R607). -/
def CalItem.wf : CalItem → Bool
  | .sense xs => xs.length == 13
  | .thermal xs => xs.length == 840
  | .presets xs => xs.length == 96
  | .seeds xs => xs.length == 192
  | .coeffs xs => xs.length == 17

/-- An image measures four stages, for MR0 to MR3 (R569). -/
def FwBlob.wf (x : FwBlob) : Bool := x.stages.length == 4

/-- An access of BAR0 is one to four bytes within one register (R500). -/
def accessWf (addr : BitVec 28) (len : Fin 5) : Bool := len.val != 0 && addr.toNat % 4 + len.val ≤ 4

/-- A command whose operands the spec's own formats admit. -/
def Instr.wf : Instr → Bool
  | .tickBoundary _ m => m.wf
  | .registerWrite _ addr len _ => accessWf addr len
  | .registerRead _ addr len => accessWf addr len
  | .bar0CrossingRead _ addr len => decide (4 < addr.toNat % 4 + len.toNat + 1)
  | .sensorRead readings _ _ => readings.length == 840
  | .calibrationWrite _ items => items.all CalItem.wf
  | .firmwareLoad _ image => image.wf
  | .mereRequest _ _ _ _ _ data _ _ errs => (data.length == 0 || data.length == 128) && errs.all BurstErr.wf
  | .patrolScrubRead _ e => e.wf
  | .mbist _ lo hi _ => decide (lo.val ≤ hi.val)
  | .bypass _ code => decide (code.toNat = 0) || decide (6 < code.toNat)
  | .granuleReadComplete _ _ _ data => data.length == 4096
  | .tierReadDataRx _ h data => data.length == h.length.toNat
  | .tierWriteRx _ h data => data.length == h.length.toNat
  | .dataRx h payload => payload.length == h.plen.toNat
  | .bar2Write _ _ data => decide (1 ≤ data.length) && decide (data.length ≤ 4096)
  | .setUpPortSettings _ x => (x.macs.map (fun m => m.1.val)).Nodup
  | _ => true

end Sys2Proof
end

