-- ==== Sys2Proof/Certificates/Slice0/Obligations.lean ====
section
/-! DEFINITION. The statements of this row for the provers, from the numbered rules of the spec. Each command's statement says what
state the command answers: its effect in the shared operations of Machine/Ops.lean, then the close of the command (State.flush, or
State.closed for the commands of the network side). What an equation does not change is unchanged. -/
open Sys2Proof Sys2Proof.Machine

/-- A step runs the command at the front of the queue on the state with the queue's rest. For every command c, state s and queue
rest: when s.pending is c followed by rest, step s is exec c on s with rest as its queue; a state with c put in front of its
queue steps to exec c of that state. On an empty queue the block idles: step answers the same state (the model's choice,
notes/assumptions/1.md). (INDEX.md) -/
def Obligations.StepRunsTheFrontCommand : Prop :=
  (∀ (c : Instr) (s : State) (rest : List Instr), s.pending = c :: rest → step s = exec c { s with pending := rest }) ∧
  (∀ (c : Instr) (s : State), step (s.withFront c) = exec c s) ∧
  (∀ s : State, s.pending = [] → step s = .next s)

/-- Every command answers a next state from every state. For every command c and every state s, exec c s answers a next state;
and it answers it with its records delivered: the next state is the flush of some state. No command stops the block with a fault
or a refusal, because the spec gives the block no condition that stops it: every failure is recorded, answered or reported.
(INDEX.md, 14_host_interface.md) -/
def Obligations.EveryCommandAnswersANextState : Prop :=
  ∀ (c : Instr) (s : State), ∃ u : State, exec c s = .next u.flush

/-- Every step keeps the rule that no record is in flight. For every state s in which every record has reached its ring or its
port's backlog while the host domain is released (State.recordsPlaced), every next state of a step has that property too. So a
completion, event or clamp record is never held anywhere but in a ring, a backlog, or, before the host domain of a reset is
released, behind the reset event (R514, R521, R525, R621). (14_host_interface.md, 17_reset_and_startup.md) -/
def Obligations.StepKeepsRecordsPlaced : Prop :=
  ∀ s t : State, s.recordsPlaced → step s = .next t → t.recordsPlaced

/-- What the state right after reset holds. Right after reset no record is in flight, no command waits, the two memories and the
register file are in their canonical form, every register field reads its Reset value, no partition is live, no ring is bound,
every byte of device memory is zero, and no seal bit is set. (17_reset_and_startup.md, 14_host_interface.md) -/
def Obligations.ResetState : Prop :=
  State.reset.recordsPlaced ∧ State.reset.pending = [] ∧ State.reset.wf = true ∧
  (∀ (f : Fld) (b i : Nat), State.reset.rd f b i = f.resetVal b i) ∧
  State.reset.liveParts = [] ∧ (∀ k, State.reset.ring? k = none) ∧ (∀ a, cellGet State.reset.mem.dram a = 0) ∧
  State.reset.flag F.idMsealed = false ∧ (∀ p, State.reset.psealed p = false)

/-- A register field holds what was written, and a write leaves every field of another place. For every state, field f, block,
index and value: reading f after writing v gives v taken to the field's width; every field g whose place (BAR0 offset and lowest
bit) differs reads as before; and a counter raised by n saturates at its field's highest value. Beside the register file a write
changes nothing. (00_scope.md, 14_host_interface.md) -/
def Obligations.RegisterFieldsHoldWhatIsWritten : Prop :=
  ∀ (s : State) (f g : Fld) (v n b i b' i' : Nat),
    (s.wr f v b i).rd f b i = v % 2 ^ f.w ∧
    (f.key b i ≠ g.key b' i' → (s.wr f v b i).rd g b' i' = s.rd g b' i') ∧
    (s.inc f n b i).rd f b i = Nat.min (s.rd f b i + n) (2 ^ f.w - 1) ∧
    { s.wr f v b i with regs := s.regs } = s

/-- A delivered record enters its ring, or its port's backlog, or the count of records lost. For every state and record on its
way, with o the record as resolved (a completion whose ring is gone becomes an orphan for its partition's event ring) and q its
port: if its ring is bound, has room and no older record of the same ring waits, the ring's CQ_TAIL rises by one; else, if the
backlog holds fewer than 65,536 records, the backlog is the old one with o at its end; else the port's count of lost records
rises by one and the backlog stands (R514, R525, R530). No case does none of these. (14_host_interface.md) -/
def Obligations.DeliveredRecordIsNeverLostSilently : Prop :=
  ∀ (s : State) (x : OutRec),
    let o := s.resolve x
    let q := s.routePort o.route
    (∃ k r, s.routeKey? o.route = some k ∧ s.ring? k = some r ∧ r.room = true ∧
        (s.port q).backlog.any (fun b => b.route == o.route) = false ∧
        ∃ r', (s.deliver x).ring? k = some r' ∧ r'.cqTail = r.cqTail + 1) ∨
    ((s.port q).backlog.length < 65536 ∧ ((s.deliver x).port q).backlog = (s.port q).backlog ++ [o]) ∨
    (65536 ≤ (s.port q).backlog.length ∧ ((s.deliver x).port q).backlog = (s.port q).backlog ∧
        ((s.deliver x).port q).lostPending = (s.port q).lostPending + 1)

/-- A record is 32 bytes and its first byte carries PHASE and the record kind. For every record number n, ring size and record:
the record is 32 bytes; its first byte is the kind (1 completion, 2 event, 3 clamp) plus 128 times PHASE, PHASE being (floor(n /
entries) + 1) mod 2; so record 0 of a ring has PHASE 1 (Tables 14-10 to 14-12). (14_host_interface.md) -/
def Obligations.RecordBytesCarryPhase : Prop :=
  ∀ (n entries : Nat) (x : Rec),
    (recBytes n entries x).length = 32 ∧
    leAt (recBytes n entries x) 0 1 =
      (match x with | .cpl .. => 1 | .event .. => 2 | .clamp .. => 3) + 128 * ((n / entries + 1) % 2)

/-- When the module consumes a descriptor, and what consumption changes. For every opcode, descriptor and state: the module
consumes the descriptor exactly when its ring is bound and neither stopped nor named by a destroy, the records the ring owes
number fewer than its entries, MSEAL and the partition's seal are set, a driver is attached to the partition's port, BUSY_N of
the port is high and the partition is sealed (R511, R528, R534). The reference it gives carries the ring's life, the
descriptor's number, TAG and COOKIE, and not CLAMPED; the ring's SQ_HEAD rises by one and the reference joins its outstanding
list, its other words as they were but SQ_TAIL, which reads at least the new SQ_HEAD. (14_host_interface.md) -/
def Obligations.ConsumptionMovesTheRing : Prop :=
  ∀ (op : Nat) (d : Desc) (s : State),
    let p := d.part.val
    let k := pairKey p d.ring.val
    ((s.consume op d).isSome = true ↔
      ∃ r, s.ring? k = some r ∧ r.stopped = false ∧ r.destroyer = none ∧ r.sqHead - r.cqHead < 2 ^ r.log ∧
        s.rd F.idMsealed = 1 ∧ s.psealed p = true ∧ s.rd F.hpAttached (s.portOf p) = 1 ∧ (s.port (s.portOf p)).busyN = true ∧
        s.pstate p = 2) ∧
    (∀ x t, s.consume op d = some (x, t) → ∃ r, s.ring? k = some r ∧
      x = ⟨p, d.ring.val, r.life, r.sqHead, op, d.ver.toNat, d.tag.toNat, d.cookie.toNat, false⟩ ∧
      t.ring? k = some { r with sqHead := r.sqHead + 1, sqTail := Nat.max r.sqTail (r.sqHead + 1), outstanding := r.outstanding ++ [x] })

/-- A consumed descriptor produces its completion record once. Whenever a descriptor is owed (it stands among its ring life's
outstanding descriptors as y), completing it puts exactly one record at the end of the records on their way: a completion for
its ring life with its opcode, the status and result given, CLAMPED if the descriptor met a clamp, NOOP as given, its TAG and
COOKIE and the present tick. When its numbers are all different in the ring life that holds it, it is owed no longer, so a
second completion changes nothing; and completing a descriptor that is not owed changes nothing. (14_host_interface.md) -/
def Obligations.CompletionIsWrittenOnce : Prop :=
  (∀ (s : State) (d y : DRef) (status result : Nat) (noop : Bool), s.owed? d = some y →
      (s.complete d status noop result).out = s.out ++
        [⟨.cpl d.part d.ring d.life, .cpl d.opcode status (b2n (d.clamped || y.clamped) + 2 * b2n noop) d.tag d.cookie s.tick result⟩]) ∧
  (∀ (s : State) (d y : DRef) (status status' result result' : Nat) (noop noop' : Bool), s.owed? d = some y →
      (s.complete d status noop result).complete d status' noop' result' = s.complete d status noop result) ∧
  (∀ (s : State) (d : DRef) (status result : Nat) (noop : Bool), s.owed? d = none → s.complete d status noop result = s)

/-- A descriptor with a version outside the agreed range, held by its fence or memory, or lacking a granule. For every
descriptor the module consumes (reference r, state t): if its VER is below 0x10 or above the agreed version, the descriptor
command ends it at once with status 0xE1 and NOOP; else, if its FENCE holds it or device memory does (R84, R312), it joins the
ring's waiting list and nothing else changes; else it runs, and where its run meets a granule of an object that is not at hand,
nothing of it happens but that the granule is asked for and it joins the waiting list (R322). A descriptor the module may not
consume stays in the host's ring: nothing changes (R511, R513, R519). (14_host_interface.md, 01_organization.md) -/
def Obligations.UndefinedVersionEndsAsNoop : Prop :=
  ∀ (op : Nat) (d : Desc) (s : State) (run : DRef → Desc → State → State),
    (s.consume op d = none → withDesc op d s run = s) ∧
    (∀ r t, s.consume op d = some (r, t) →
      let wait := fun (x : Ring) => { x with waiting := x.waiting ++ [(op, r.num, d)] }
      ((d.ver.toNat < 0x10 ∨ t.rd F.hpHifAgreed (t.portOf d.part.val) < d.ver.toNat) → withDesc op d s run = t.complete r 0xE1 true 0) ∧
      (t.verBad d = false → (t.fenceWaits r d = true ∨ t.memStart r.part op = false) → ∀ x, t.ring? (pairKey r.part r.ring) = some x →
        withDesc op d s run = t.putRing (pairKey r.part r.ring) (wait x)) ∧
      (s.starts op d r (t.asks (.desc r)) → let y := run r d (t.asks (.desc r))
        (y.atHand (.desc r) → withDesc op d s run = y.ran (.desc r)) ∧
        (y.demandWaits (.desc r) = true → ∀ x, t.ring? (pairKey r.part r.ring) = some x →
          withDesc op d s run = (t.setTiers (fun z => { z with demand := y.tiers.demand })).putRing (pairKey r.part r.ring) (wait x))))

/-- What the time unit does on its state, port and unit changes, its PTP messages and TICK_PPS_IN. For every state s: (free run)
with STATE 2, FREE_RUN_ENTRY sets STATE 3 with a time event of cause 1 that names the old state; (holdover) with STATE 1 and a
master, HOLDOVER_ENTRY drops the master and sets STATE 2 with that event; (PPS) with PPS_EN 1 and no PTP master, PPS_EDGE puts a
free time of day at that edge, takes a free offset, and sets STATE 1, with the event unless it was 1; (domain) a PTP message of
another domain, or on a port without link, changes nothing; (Announce) on PORT_NOW an Announce brings a master unless GM_ALLOW
is 1 and the master is not better, and is ignored then; (Sync) with a master, a one-step Sync of that port sets the offset to
its lateness less the path delay (of the link under PROFILE 1, of the path else), locks the unit with the event unless it was
locked, and sends a Delay_Req but under PROFILE 1; a two-step one waits for its Follow_Up, which then does the same; (delays) a
Delay_Resp sets the path delay to half of the two ways, a Pdelay_Resp on a measuring port that of the link to half the round
trip; (failover, return) the unit moves from PTP_PORT to a different PTP_ALT, and back from any other port, with a time event of
cause 2; (takeover) with SRC 0 and HD3's unit in service, SRC becomes 1, HD2's unit counts as failed and a time event of cause 3
goes out. Each command answers the state so made, flushed. (02_cadence.md, 01_organization.md, 10_network_ports.md) -/
def Obligations.TimeUnitCommands : Prop :=
  ∀ s : State,
    (s.rd F.cadState = 2 → exec .freeRunEntry s = .next ((s.wr F.cadState 3).timeEvent 1 2 0 0).flush) ∧
    (s.rd F.cadState = 1 → s.time.hasMaster = true → exec .holdoverEntry s =
      .next ((({ s with time := { s.time with hasMaster := false } } : State).wr F.cadState 2).timeEvent 1 1 0 0).flush) ∧
    (s.rd F.cadPpsEn = 1 → s.time.hasMaster = false →
      let n := { s.net with now := (Config.timeOfDay s.freeCtr).toNat * 10 ^ 9 }
      let t := ({ s with freeCtr := s.freeCtr + 1, time := { s.time with ppsMaster := true }, net := n } : State).wr F.cadOffset
        (Config.edgeOffset s.freeCtr).toNat
      exec .ppsEdge s = .next (if t.rd F.cadState = 1 then t else (t.wr F.cadState 1).timeEvent 1 (t.rd F.cadState) 0 0).flush) ∧
    (∀ (n : NetPort) (d : Byte) (m : PtpMsg), (d.toNat ≠ s.rd F.cadDomain ∨ s.rd F.npLink n.val ≠ 1) →
      exec (.ptpEventMessageRx n ⟨d, m⟩) s = .next s.flush) ∧
    (∀ (n : NetPort) (d : Byte), d.toNat = s.rd F.cadDomain → s.rd F.npLink n.val = 1 → s.rd F.cadPortNow = n.val →
      (∀ better : Bool, (s.rd F.cadGmAllow ≠ 1 ∨ better = true) → exec (.ptpEventMessageRx n ⟨d, .announce better⟩) s =
        .next ({ s with time := { s.time with hasMaster := true, ppsMaster := false } } : State).flush) ∧
      (s.rd F.cadGmAllow = 1 → exec (.ptpEventMessageRx n ⟨d, .announce false⟩) s = .next s.flush) ∧
      (s.time.hasMaster = true → ∀ late : Int,
        let delay := if s.rd F.cadProfile = 1 then (s.nport n.val).peerDelay else s.time.pathDelay
        let t := ({ s with time := { s.time with late := late, awaitsFollow := false } } : State).wr F.cadOffset
          (toField 32 (satSigned 32 (late - delay)))
        let u := if t.rd F.cadState = 1 then t else (t.wr F.cadState 1).timeEvent 1 (t.rd F.cadState) 0 0
        let v := if s.rd F.cadProfile = 1 then u else u.sendPtpNew n.val 1 (List.replicate 10 0)
        exec (.ptpEventMessageRx n ⟨d, .sync false late⟩) s = .next v.flush ∧
        exec (.ptpEventMessageRx n ⟨d, .sync true late⟩) s =
          .next ({ s with time := { s.time with awaitsFollow := true } } : State).flush ∧
        (s.time.awaitsFollow = true → exec (.ptpEventMessageRx n ⟨d, .followUp late⟩) s = .next v.flush) ∧
        (s.rd F.cadProfile ≠ 1 → exec (.ptpEventMessageRx n ⟨d, .delayResp late⟩) s =
          .next ({ s with time := { s.time with pathDelay := (s.time.late + late) / 2 } } : State).flush))) ∧
    (∀ (n : NetPort) (d : Byte) (trip : Int), d.toNat = s.rd F.cadDomain → s.rd F.npLink n.val = 1 →
      (s.rd F.cadProfile = 1 ∨ s.rd F.npPartner n.val = 1) → exec (.ptpEventMessageRx n ⟨d, .pdelayResp trip⟩) s =
        .next (s.modNport n.val (fun p => { p with peerDelay := trip / 2 })).flush) ∧
    (s.rd F.cadPortNow = s.rd F.cadPtpPort → s.rd F.cadPortNow ≠ s.rd F.cadPtpAlt → exec .ptpPortFailover s =
      .next ((s.wr F.cadPortNow (s.rd F.cadPtpAlt)).timeEvent 2 (s.rd F.cadState) 0 0).flush) ∧
    (s.rd F.cadPortNow ≠ s.rd F.cadPtpPort → exec .ptpPortReturn s =
      .next ((s.wr F.cadPortNow (s.rd F.cadPtpPort)).timeEvent 2 (s.rd F.cadState) 0 0).flush) ∧
    (s.rd F.cadSrc = 0 → 1 ∉ s.time.failed → exec .timeUnitTakeover s =
      .next ((({ s with time := { s.time with failed := 0 :: s.time.failed } } : State).wr F.cadSrc 1).timeEvent 3 (s.rd F.cadState) 0 0).flush)

/-- TICK_OUT at whole seconds and its pulse's end, and a received tick beacon. For every state s: with TICKOUT 0b10 and a
boundary past since the module seal, WHOLE_SECOND drives TICK_OUT high, brings the cluster time known to the whole second after
it, starts every port's second of echo replies anew, leaves registers and records, and then sends the unit's own messages of a
whole second; TICK_OUT_PULSE_END drives TICK_OUT low and changes nothing else; on a port with its link up and a partner,
TICK_BEACON_RX appends the skew (receive time less the boundary BOUND names, the measured delay of the port's link and SEQ) of
the present tick and sets BCN_SKEW to the skew of largest magnitude of the last 256 ticks; a skew above 1,000 ns with no skew
event of the port before gives a time event of cause 4 naming port and skew; without a link or a partner nothing changes.
(02_cadence.md, 10_network_ports.md) -/
def Obligations.TickOutAndBeacons : Prop :=
  ∀ s : State,
    (s.rd F.cadTickout = 2 → s.net.sealPassed = true → ∃ u : State, exec .wholeSecond s = .next u.ptpSecond.flush ∧
      u.time.tickOut = true ∧ u.net.now = (s.net.now / 10 ^ 9 + 1) * 10 ^ 9 ∧ u.regs = s.regs ∧ u.out = s.out ∧
      ∀ n, n < 8 → (u.nport n).echoes = 0) ∧
    (exec .tickOutPulseEnd s = .next ({ s with time := { s.time with tickOut := false } } : State).flush) ∧
    (∀ (n : NetPort) (seq : Word) (bound : DWord) (rx : Int),
      let skew : Int := rx + ((s.tick : Int) - bound.toNat) * (s.rd F.cadTickLen * 1000) - (s.nport n.val).peerDelay - seq.toNat
      let l := (s.time.beacons ++ [(s.tick, skew)]).filter (fun e => decide (s.tick < e.1 + 256))
      let t := ({ s with time := { s.time with beacons := l } } : State).wr F.cadBcnSkew (toField 32 (satSigned 32 (worstSkew l)))
      s.rd F.npLink n.val = 1 → s.rd F.npPartner n.val = 1 →
        (skew.natAbs ≤ 1000 → exec (.tickBeaconRx n seq bound rx) s = .next t.flush) ∧
        (1000 < skew.natAbs → (s.nport n.val).skewTick = none → exec (.tickBeaconRx n seq bound rx) s =
          .next ((t.modNport n.val (fun p => { p with skewTick := some s.tick })).timeEvent 4 (s.rd F.cadState) n.val skew).flush)) ∧
    (∀ (n : NetPort) (seq : Word) (bound : DWord) (rx : Int), (s.rd F.npLink n.val ≠ 1 ∨ s.rd F.npPartner n.val ≠ 1) →
      exec (.tickBeaconRx n seq bound rx) s = .next s.flush)

/-- A producer issues an item only while its cumulative grant exceeds its cumulative issue count. For every internal queue that
is not stopped and that no block in reset holds, with the consumer's newly taken items added to its consumed and granted counts:
if consumed plus returned then exceeds issued, or issued exceeds granted, by more than what an earlier breach left when the
queue resumed (the model's choice, notes/assumptions/96.md; 0 without one), the queue stops with these counts and one credit
breach event names both ends and the four counts; else, if granted exceeds issued, issued rises by one; else the counts stand
and no item moves. A queue that is stopped, or that a reset holds, takes nothing. No other queue, register or table changes.
(01_organization.md, 02_cadence.md, 17_reset_and_startup.md) -/
def Obligations.QueueItemNeedsCredit : Prop :=
  ∀ (q : QueueId) (taken : Word) (s : State),
    let x := s.queue (qRow q) (qIndex q)
    let y : Queue := { x with consumed := x.consumed + taken.toNat, granted := x.granted + taken.toNat }
    ((x.stopped = true ∨ s.queueHeld (qRow q) (qIndex q) = true) → exec (.queueItemIssue q taken) s = .next s.flush) ∧
    (x.stopped = false → s.queueHeld (qRow q) (qIndex q) = false →
      (y.issued + x.excess < y.consumed + y.returned ∨ y.granted + x.beyond < y.issued) → exec (.queueItemIssue q taken) s =
      .next ((s.putQueue (qRow q) (qIndex q) { y with stopped := true }).breachEvent (qRow q) (qIndex q) y).flush) ∧
    (x.stopped = false → s.queueHeld (qRow q) (qIndex q) = false → y.consumed + y.returned ≤ y.issued + x.excess → y.issued < y.granted →
      exec (.queueItemIssue q taken) s = .next (s.putQueue (qRow q) (qIndex q) { y with issued := y.issued + 1 }).flush) ∧
    (x.stopped = false → s.queueHeld (qRow q) (qIndex q) = false → y.consumed + y.returned ≤ y.issued + x.excess → y.granted ≤ y.issued →
      y.issued ≤ y.granted + x.beyond → exec (.queueItemIssue q taken) s = .next (s.putQueue (qRow q) (qIndex q) y).flush)

/-- What a tick boundary takes, and the order of what it does. For every state, number k and meter: boundary k is taken only if
the module is powered and no boundary has been placed yet or k follows the present tick; another number changes nothing. During
a reset or in Off it sets TICK_NOW and closes the ledger alone. Else TICK_NOW becomes k and, in this order: cluster time is
presented, the power interval closes and the latched limits change, budgets refill, each port tallies, parking is judged, each
port closes its tick; the seal and the fences take effect; each live partition takes its range table, promotions, ledger, grants
and rings; the channels, port tests, time unit, idle and lock-up counts move on; at the first boundary placed each partition
hears of it; hang counts and steps are placed; the activation and waiting descriptors are looked at. A refill gives every live
partition that owes no lines its full tokens, then serves what waited on memory; where no edit waits to complete, the boundary
of a partition puts the table in the making in force and changes nothing else of the partition; and the lock-up count rises by
one where nothing has progressed and a step runs with LOCK_EN set, else returns to zero. (02_cadence.md, 01_organization.md, 16_power_thermal.md, 17_reset_and_startup.md) -/
def Obligations.TickBoundaryOrder : Prop :=
  (∀ (k : DWord) (m : Meter) (s : State),
    ((s.rst.powered = false ∨ s.time.placed = true ∧ k.toNat ≠ s.tick + 1) → exec (.tickBoundary k m) s = .next s.closed) ∧
    (s.rst.powered = true → (s.time.placed = true → k.toNat = s.tick + 1) → (s.rst.stage ≠ 5 ∨ s.rst.off = true) →
      exec (.tickBoundary k m) s = .next ((s.wr F.cadTickNow k.toNat).ledgerClose m).closed) ∧
    (s.rst.powered = true → (s.time.placed = true → k.toNat = s.tick + 1) → s.rst.stage = 5 → s.rst.off = false →
      let t0 := ({ s with time := { s.time with placed := true } } : State).wr F.cadTickNow k.toNat
      let t1 := (iterN 8 (fun n t => t.portTally n) (t0.presentTime.powerBoundary (!s.time.placed) m).refill).parkBoundary
      let t2 := (iterN 8 (fun n t => t.portBoundary n) t1).sealBoundary.fenceBoundary
      let t3 := (t2.liveParts.foldl State.partBoundary t2).gnxBoundary
      let t4 := ((iterN 8 (fun n t => t.testBoundary n) t3).timeBoundary).quietBoundary.lockBoundary
      let t5 := if s.time.placed then t4 else t4.liveParts.foldl State.firstBoundary t4
      let t6 := (t5.liveParts.foldl State.placeSteps t5.hangBoundary).activateLook.waitingLook
      t0.tick = k.toNat ∧ exec (.tickBoundary k m) s = .next t6.closed)) ∧
  (∀ (s : State) (p : Nat), p ∈ s.liveParts → (∀ q ∈ s.liveParts, s.owesLines q = false) →
    s.refill = (s.refillTokens s.liveParts).memServes ∧ tget? (s.refillTokens s.liveParts).mem.tokens p = some (s.fullTokens p)) ∧
  (∀ (s : State) (p : Nat), (s.part p).rtWait = [] →
    (s.rtBoundary p).part p = { s.part p with rt := (s.part p).rtNext }) ∧
  (∀ s : State, s.lockBoundary.rst.stuck =
    if s.rd F.rstLockEn = 1 ∧ s.rst.progress = false ∧ ∃ p ∈ s.liveParts, (s.runStep? p).isSome = true then s.rst.stuck + 1 else 0)

/-- What the descriptors of steps and plans do once they start (0x10 to 0x13). For every descriptor that starts and lacks no
granule of an object (reference r, state t, partition p, n the plan field, bits 7:0 of byte 16): a kick whose partition has room
in its step queue and names a registered plan that is not being released joins the partition's steps as the last one, queued,
with the plan's shape, STEP_NO of bytes 24 to 31, the next boundary as the first after it was consumed and a fresh run number;
then the queue is placed and its registers counted. A kick without room is not consumed: nothing changes. A plan register whose
number is free, whose 64 header bytes can be read and pass the checks of R73 and whose tick-plan table is mapped enters the plan
with the header's fields and completes as done; a number in use names the null resource. A plan release of a registered plan no
step uses takes it out and completes as done; one that a step uses is marked and waits. A step hold with no step begun and no
kick queued completes at once. (02_cadence.md) -/
def Obligations.StepAndPlanDescriptors : Prop :=
  (∀ (d : Desc) (s t : State) (r : DRef) (x : Plan), s.kickRoom d.part.val = true → s.starts 0x10 d r t →
      t.livePlan r.part (d.fld 0 8) = some x →
      let c := (t.part r.part).cad
      let y : StepRun := ⟨c.nextRun, d.fld 0 8, d.at 24 64, some r, t.tick + 1, 0, x.nticks, x.statStride, x.tptPva, x.statPva, .queued, 0,
        none, none, false, [], false, false⟩
      let y : State := (((t.modCad r.part (fun c => { c with steps := c.steps ++ [y], nextRun := c.nextRun + 1 })).placeSteps r.part).countSteps
          r.part)
      y.atHand (.desc r) → exec (.stepKick d) s = .next (y.ran (.desc r)).demandIssue.flush) ∧
  (∀ (d : Desc) (s : State), s.kickRoom d.part.val = false → exec (.stepKick d) s = .next s.flush) ∧
  (∀ (d : Desc) (s t u : State) (r : DRef) (b : List Byte), s.starts 0x11 d r t → tget? (t.part r.part).cad.plans (d.fld 0 8) = none →
      t.descRead r.part (d.at 24 64) 64 = (some b, u) →
      leAt b 0 1 = 0x10 → leAt b 2 2 ≠ 0 → leAt b 4 4 % 64 = 0 → leAt b 32 4 = crc32c (bytesAt b 0 32 ++ bytesAt b 36 28) →
      u.mapped r.part (u.part r.part).rt (leAt b 8 8) (8 * leAt b 2 2) false = true →
      let y : State := ((u.modCad r.part (fun c => { c with
        plans := tput c.plans (d.fld 0 8) ⟨leAt b 2 2, leAt b 4 4, leAt b 8 8, leAt b 16 8, none⟩ })).done r)
      y.atHand (.desc r) → exec (.planRegister d) s = .next (y.ran (.desc r)).demandIssue.flush) ∧
  (∀ (d : Desc) (s t : State) (r : DRef) (x : Plan), s.starts 0x11 d r t → tget? (t.part r.part).cad.plans (d.fld 0 8) = some x →
      let y : State := (t.nullDesc r planNull (d.fld 0 8))
      y.atHand (.desc r) → exec (.planRegister d) s = .next (y.ran (.desc r)).demandIssue.flush) ∧
  (∀ (d : Desc) (s t : State) (r : DRef) (x : Plan), s.starts 0x12 d r t → t.livePlan r.part (d.fld 0 8) = some x →
      let u := t.modCad r.part (fun c => { c with plans := tput c.plans (d.fld 0 8) { x with releasing := some r } })
      let y : State := (if t.planInUse r.part (d.fld 0 8) then u
        else (u.modCad r.part (fun c => { c with plans := tdel c.plans (d.fld 0 8) })).done r)
      y.atHand (.desc r) → exec (.planRelease d) s = .next (y.ran (.desc r)).demandIssue.flush) ∧
  (∀ (d : Desc) (s t : State) (r : DRef), s.starts 0x13 d r t → (t.part r.part).cad.steps = [] →
      let y : State := (t.done r)
      y.atHand (.desc r) → exec (.stepHold d) s = .next (y.ran (.desc r)).demandIssue.flush)

/-- What the shard descriptors do once they start (0x14 to 0x16), the digest root, and the releases that waited. For every
descriptor that starts and lacks no granule of an object (reference r, state t), n its shard index: a shard register whose 128
image bytes can be read, whose index is free and whose image passes the checks of R216 enters the shard, sets SHARDS and
completes as done; a shard release of a shard that is not being released takes it out and completes as done when its PEND is
clear and no queued or running step names it, else it waits; a shard query whose output is mapped writes the entry's 128 bytes
and completes as done. A shard whose PEND is set and whose SH_LAST grain has completed, not broken, without its root and in no
replay, while a SHA3 engine is out of reset, forms its root, sends it to the replicas and is compared, and the steps are looked
at. A release-complete command looks again at every release of the partition that waits for steps and at every ring pair that a
destroy waits for. (06_vector_and_isafen.md, 02_cadence.md, 98_reader.md) -/
def Obligations.ShardDescriptorsAndReleases : Prop :=
  (∀ (d : Desc) (s t u : State) (r : DRef) (b : List Byte), s.starts 0x14 d r t →
      t.descRead r.part (d.at 24 64) 128 = (some b, u) → u.shard? r.part (d.fld 0 12) = none → u.shardOk r.part b = true →
      let y : State := (((u.putShard r.part (d.fld 0 12) (shardOf b)).countShards r.part).done r)
      y.atHand (.desc r) → exec (.shardRegister d) s = .next (y.ran (.desc r)).demandIssue.flush) ∧
  (∀ (d : Desc) (s t : State) (r : DRef) (x : Shard), s.starts 0x15 d r t → t.shard? r.part (d.fld 0 12) = some x →
      x.releasing = none →
      let u := t.putShard r.part (d.fld 0 12) { x with releasing := some r }
      let y : State := (if x.pend = true ∨ (u.part r.part).cad.steps.any (u.stepNames r.part (d.fld 0 12)) = true then u
        else ((u.modPart r.part (fun q => { q with shards := tdel q.shards (d.fld 0 12) })).countShards r.part).done r)
      y.atHand (.desc r) → exec (.shardRelease d) s = .next (y.ran (.desc r)).demandIssue.flush) ∧
  (∀ (d : Desc) (s t u : State) (r : DRef) (x : Shard), s.starts 0x16 d r t → t.shard? r.part (d.fld 0 12) = some x →
      x.releasing = none → t.writePva (t.engCtx r.part engDesc) (d.at 24 64) x.image false = (false, u) →
      let y : State := (u.done r)
      y.atHand (.desc r) → exec (.shardQuery d) s = .next (y.ran (.desc r)).demandIssue.flush) ∧
  (∀ (p : PartId) (i : Fin 4096) (s : State) (x : Shard), s.shard? p.val i.val = some x → x.pend = true → x.lastDone = true →
      x.broken = false → x.rootNew = none → s.replaying p.val x.run = false → fldN (s.rd F.rstEngInr) 18 2 ≠ 3 →
      exec (.digestRootFormed p i) s =
        .next ((((s.formRoot p.val i.val x).sendRoots p.val i.val).rootsLook p.val i.val).stepLook p.val).flush) ∧
  (∀ (p : PartId) (s : State), exec (.resourceReleaseComplete p) s =
      .next ((List.range 64).foldl (fun u n => u.destroyLook (pairKey p.val n)) (s.releaseLook p.val)).flush)

/-- The check of a fetched tick plan and the begin of a step. For every state and partition p: let r be the first of its steps
that is not stopped, no replay, and has a tick plan unchecked; let it be due (its tick at most RUNAHEAD + 1 ticks ahead), not a
queued step that is blocked, and the partition sealed. If the plan cannot be read, the step stops with a plan fault of cause 2;
if it is read and fails a check of R66 or its status range is not writable, with cause 1; else its count of checked plans rises
by one and its grains are released. A queued step begins at a tick no earlier than its first, with a boundary placed and nothing
blocking it; the ticks of the running steps are over, what stood for a replay of a failed step that none replays is given up, it
is marked running, the partition's 64 signals are zero, its cores may fill again, STEP_NO is kept, STEP_LO and STEPQ are
counted, its activation ledger starts, promotions and swaps of its begin follow and the steps are looked at; before its first
tick nothing changes. (02_cadence.md, 13_continuity.md) -/
def Obligations.TickPlansAndStepBegin : Prop :=
  (∀ (p : PartId) (s : State) (r : StepRun),
      (s.part p.val).cad.steps.find? (fun r => !r.stopped && !r.replay && decide (r.checked < r.nticks)) = some r →
      r.first + r.checked ≤ s.tick + s.rd F.pRunahead p.val + 1 → (r.phase = .queued → s.stepBlocked p.val r = false) →
      s.pstate p.val = 2 →
      (∀ t, s.readPlan p.val r r.checked = (none, t) → exec (.tickPlanCheck p) s = .next (t.planFailed p.val r r.checked 2).flush) ∧
      (∀ b t, s.readPlan p.val r r.checked = (some b, t) →
        let ok := tickPlanOk b r.checked && t.mapped p.val (t.part p.val).rt (r.statPva + r.checked * r.statStride) (b.length / 2) true
        exec (.tickPlanCheck p) s = .next (if ok then
          ((t.modStep p.val r.id (fun y => { y with checked := r.checked + 1 })).releaseGrains p.val r r.checked
            (planCores b) (planGrains r b r.checked)).stepLook p.val
          else t.planFailed p.val r r.checked 1).flush)) ∧
  (∀ (p : PartId) (s : State) (r : StepRun), (s.part p.val).cad.steps.find? (fun r => r.phase == .queued) = some r →
      (s.tick < r.first → exec (.stepBegin p) s = .next s.flush) ∧
      (r.first ≤ s.tick → s.stepBlocked p.val r = false → s.time.placed = true →
        let a := ((s.actives p.val).filter (fun y => y.phase == .running)).foldl (fun s y => s.ticksOver p.val y) s
        let b := match (a.part p.val).cont.failed, (a.actives p.val).any (fun y => y.replay) with
          | some f, false => (a.sheafStepOver p.val f.stepNo).modCont p.val (fun c => { c with failed := none })
          | _, _ => a
        let t := (b.modStep p.val r.id (fun y => { y with phase := .running })).modCad p.val (fun c => { c with signals := [] })
        let u : State := { t with cores := tmap t.cores (fun c k => if t.ownsCore p.val c then { k with noFill := false } else k) }
        let v := u.modCad p.val (fun c => { c with lastStep := some r.stepNo })
        exec (.stepBegin p) s =
          .next ((((((v.countSteps p.val).ledgerStart p.val r.plan).promoBoundary p.val true).swapsBegin p.val r).stepLook p.val).flush)))

/-- When a grain starts on its core and when it ends there, and what each makes. For every core c that no asker's demand read is
running for: (start) let c belong to partition p, be neither fenced nor rebuilding nor held by a reset (its own or its die's
stop), run nothing and have taken no poisoned line, and let no stack of p be held; let x be its first waiting grain, neither a
filler nor a rerun, of a step r that is not queued, in a sealed partition, its tick come, without a signal wait, and held by no
swap. Then, when no granule is lacking, GRAIN_START takes x from the waiting grains and starts it at the cycle given: the core
then runs x, for p, from that cycle of the present tick. (complete) Let c be neither fenced nor rebuilding nor stalled by its
die's stop, run grain r of a unit other than delay, with no filler, not before its start cycle, no wait left and its unit not
run yet. If its start met a code, GRAIN_COMPLETE ends it with that code and no flags; else its unit runs and it ends with the
unit's code and flags, its clamp mark kept; each when p then waits neither on memory (R84, R312) nor on a router record (R194)
and no granule is lacking. (delay) A delay grain on which no filler runs, on a core neither fenced nor rebuilding, ends when its
BUDGET elapses, with exactly BUDGET cycles. (none) A fenced core, and one that runs nothing, ends no grain.
(02_cadence.md, 12_collectives_and_steps.md, 07_index_and_dispatch.md) -/
def Obligations.GrainsStartAndComplete : Prop :=
  (∀ (c : Fin 288) (ofs : Word) (s : State) (p : Nat) (x : Grain) (r : StepRun), s.tiers.asking = none → s.partOfCore c.val = some p →
      (s.core c.val).fenced = false → (s.core c.val).rebuild = false → s.coreHeld c.val = false → s.memHeld p = false →
      (∀ e ∈ s.mem.took, e.1 ≠ c.val) → (s.core c.val).run = none → x.filler = false → x.again = false →
      (s.part p).cad.work.find? (fun x => x.lcore == c.val) = some x → s.stepRun? p x.run = some r →
      s.pstate p = 2 → r.phase ≠ .queued → x.tick ≤ s.tick → bitN x.word 38 = false → s.swapHolds p x.tick = false →
      let y : State := ((s.asks (.core c.val)).modCad p (fun y => { y with work := y.work.erase x })).startGrain c.val p ofs.toNat x false
      y.atHand (.core c.val) → exec (.grainStart c ofs) s = .next (y.ran (.core c.val)).flush ∧
        ∃ R : Running, (y.core c.val).run = some R ∧ R.grain = { x with clamped := R.grain.clamped } ∧ R.part = p ∧
          R.startTick = s.tick ∧ R.startOfs = ofs.toNat) ∧
  (∀ (c : Fin 288) (ofs : Word) (s : State) (r : Running), s.tiers.asking = none → (s.core c.val).fenced = false →
      (s.core c.val).rebuild = false → s.stopHeld c.val = false → (s.core c.val).filler = none → (s.core c.val).run = some r →
      gUnit r.grain.word ≠ 6 → s.timeAt r.startTick r.startOfs ≤ s.timeAt s.tick ofs.toNat → r.waiting = false → r.ran = none →
      r.resume = none →
      let t := s.asks (.core c.val)
      let n := s.cyclesOf r ofs.toNat
      (r.code ≠ 0 → (t.lastNoWork r).memWaits r.part = false → (t.lastNoWork r).routerWaits c.val r.part = false →
        let y : State := (t.lastNoWork r).finishGrain c.val r n r.code 0
        y.atHand (.core c.val) → exec (.grainComplete c ofs) s = .next (y.ran (.core c.val)).flush) ∧
      (r.code = 0 →
        let o := t.unitRun (t.gctx c.val r.part r.grain r.rt) (gUnit r.grain.word) r.desc r.pre r.replayed
        let y : State := o.st.finishGrain c.val { r with clamped := r.clamped || o.clamped } n o.code o.flags
        o.st.memWaits r.part = false → o.st.routerWaits c.val r.part = false → y.atHand (.core c.val) →
          exec (.grainComplete c ofs) s = .next (y.ran (.core c.val)).flush)) ∧
  (∀ (c : Fin 288) (s : State) (r : Running), (s.core c.val).run = some r → (s.core c.val).filler = none →
      (s.core c.val).fenced = false → (s.core c.val).rebuild = false → gUnit r.grain.word = 6 →
      exec (.delayGrainElapsed c) s = .next (s.finishGrain c.val r (s.budget r.grain.word) 0 0).flush) ∧
  (∀ (c : Fin 288) (ofs : Word) (s : State), s.tiers.asking = none → (∀ d ∈ s.tiers.demand, d.asker ≠ .core c.val) →
      ((s.core c.val).fenced = true ∨ ((s.core c.val).run = none ∧ (s.core c.val).filler = none)) →
      exec (.grainComplete c ofs) s = .next s.flush)

/-- A grain past its deadline, a hung core, an uncorrectable core error, and a rebuilt core. For every state and core c: a
running grain that is no filler and no replay, whose tick has passed and that has not been reported, is marked as overrun and
reported with cause 1, its GRAIN_ID and the cycles it had run at its deadline, and OVR_COUNT rises, when it started before the
deadline. A grain that has retired nothing for HANG_TICKS ticks without a declared wait, and is in none, fences its core; an
uncorrectable error fences it at once. Fencing a core under the manual policy empties its rows, stores and registers, puts its
site in state 2 without a logical core, lowers ACTIVE, raises FENCED up to 32, marks the partition's evidence and emits a core
map event with no new site. A fenced core is not fenced again. A core that is rebuilding, with nothing in its window and nothing
cut, takes back the rows of its replay area and reports its replay, when no granule is lacking. (02_cadence.md, 01_organization.md, 13_continuity.md) -/
def Obligations.OverrunsHangsAndFences : Prop :=
  (∀ (c : Fin 288) (s : State) (p : Nat) (r : Running), s.partOfCore c.val = some p → (s.core c.val).run = some r →
      r.grain.tick < s.tick → r.grain.overrun = false → r.grain.filler = false → r.grain.again = false →
      s.timeAt r.startTick r.startOfs ≤ s.timeAt (r.grain.tick + 1) 1800 →
      exec (.grainOverrun c) s =
        .next (((s.modCore c.val (fun k => { k with run := some { r with grain := { r.grain with overrun := true } } })).event 0x04 p
          [p, c.val, r.grain.tick, gId r.grain.word, 1, s.timeAt (r.grain.tick + 1) 1800 - s.timeAt r.startTick r.startOfs]).inc
            F.pOvrCount 1 p).flush) ∧
  (∀ (c : Fin 288) (s : State) (r : Running), (s.core c.val).run = some r → r.since + s.rd F.cadHangTicks ≤ s.tick → s.inWait c.val r = false →
      exec (.hangFence c) s = .next (s.fenceCore c.val).flush) ∧
  (∀ (c : Fin 288) (s : State), exec (.coreUncorrectableError c) s = .next (s.fenceCore c.val).flush) ∧
  (∀ (c : Nat) (s : State), (s.core c).fenced = true → s.fenceCore c = s) ∧
  (∀ (c p : Nat) (s : State), (s.core c).fenced = false → s.rd F.idRsvMode ≠ 0 → s.partOfCore c = some p →
      let site := s.rd F.idSite 0 c
      let t := s.modCore c (fun k => { k with
        fenced := true, asked := false, tarn := [], opStore := [], vregs := [], sregs := [], rebuild := false })
      let u := ((t.wr F.idState 2 0 site).wr F.idLcore 0x1FF 0 site)
      let v := u.wr F.idActive (t.rd F.idActive - 1)
      let w := v.wr F.idFenced (capN 32 (v.rd F.idFenced + 1))
      w.partOfCore c = some p →
      s.fenceCore c = (w.modCont p (fun y => { y with evidence := insertUp y.evidence c })).mapEvent c site 0x1FF) ∧
  (∀ (c : Fin 288) (times : List (Word × Word)) (s : State) (p : Nat), s.tiers.asking = none → s.partOfCore c.val = some p →
      (s.core c.val).rebuild = true → (s.core c.val).window = [] → (s.core c.val).run = none → (s.core c.val).filler = none →
      let t := (s.asks (.core c.val)).modCore c.val (fun k => { k with tarn := k.spill, rebuild := false, run := none, filler := none })
      let y : State := ((t.replayEvent p c.val (s.core c.val).oldSite (t.rd F.idSite 0 c.val) 0 (((s.core c.val).spillTick).getD 0) 0).modCont p
          (fun y => { y with evidence := insertUp y.evidence c.val })).stepLook p
      y.atHand (.core c.val) → exec (.coreRebuildComplete c times) s = .next (y.ran (.core c.val)).flush)

/-- What the dispatch context descriptors do once they start (0x17, 0x18). For every descriptor that starts and lacks no granule
of an object (reference r, state t), n its context number: a register whose 256 image bytes and channel table can be read, whose
image is in range for n, whose number is free, whose areas are mapped and apart, whose channels to every other destination are
open, and for which the partition has a context left, enters the context with the image's fields and its channels, posts its
receive buffers on every channel but its own destination's, and completes as done. A release of a registered context with an
open round marks it and waits; one of an idle context sends its report of the rounds closed, if any, gives its receive buffers
back on its channels, takes it out and completes as done; one of a number not registered, or already being released, names the
null resource. (07_index_and_dispatch.md) -/
def Obligations.DispatchContextDescriptors : Prop :=
  (∀ (d : Desc) (s t u v : State) (r : DRef) (bs cb : List Byte), s.starts 0x17 d r t →
      t.descRead r.part (d.at 24 64) 256 = (some bs, u) →
      let n := d.fld 0 4
      let x0 : DispCtx := ⟨leNat bs, [], 0, [], [], 0, [], [], 0, 0, 0, [], [], 0, [], none⟩
      u.descRead r.part x0.chanPva (8 * x0.nDst) = (some cb, v) →
      let chans := (List.range x0.nDst).map (fun i => leAt cb (8 * i) 8 % 2 ^ 32)
      let x := { x0 with chans := chans }
      x0.inRange n = true → tget? (v.part r.part).dctx n = none →
      (∀ a ∈ x.areas, a.2 = 0 ∨ v.rwArea r.part a.1 a.2 = true) → areasApart x.areas = true →
      (∀ i, i < x.nDst → i = x.self ∨ ∃ cid c, v.chan? r.part (nthD chans i 0) = some (cid, c) ∧ c.state = 2) →
      (v.part r.part).dctx.length < v.rd F.pCtxMax r.part →
      let y : State := (((List.range x.nDst).foldl (fun w i =>
        if i = x.self then w
        else match w.chan? r.part (nthD chans i 0) with
          | none => w
          | some (cid, _) => (List.range x.rxbCount).foldl (fun w j =>
            w.postBuf cid j (x.rxbPva + (i * x.rxbCount + j) * mib16) mib16 (.engine 0 (16 * r.part + n))) w)
        (v.putDctx r.part n x)).done r)
      y.atHand (.desc r) → exec (.dispatchContextRegister d) s = .next (y.ran (.desc r)).closed) ∧
  (∀ (d : Desc) (s t : State) (r : DRef) (x : DispCtx), s.starts 0x18 d r t → t.dctx? r.part (d.fld 0 4) = some x →
      x.releasing = none →
      let u := t.putDctx r.part (d.fld 0 4) { x with releasing := some r }
      (x.busy = true →
      let y : State := u
      y.atHand (.desc r) → exec (.dispatchContextRelease d) s = .next (y.ran (.desc r)).closed) ∧
      (x.busy = false →
      let v := x.chans.foldl (fun w h => match w.chan? r.part h with
        | none => w
        | some (cid, c) => (c.bufs.filter (fun b => b.owner == .engine 0 (16 * r.part + d.fld 0 4))).foldl (fun w b => w.revoke cid b) w)
        (u.dispReport r.part (d.fld 0 4) (u.stepNo r.part))
      let y : State := ((v.modPart r.part (fun q => { q with dctx := tdel q.dctx (d.fld 0 4) })).done r)
      y.atHand (.desc r) → exec (.dispatchContextRelease d) s = .next (y.ran (.desc r)).closed)) ∧
  (∀ (d : Desc) (s t : State) (r : DRef), s.starts 0x18 d r t →
      (∀ x, t.dctx? r.part (d.fld 0 4) = some x → x.releasing ≠ none) →
      let y : State := (t.nullDesc r dispNull (d.fld 0 4))
      y.atHand (.desc r) → exec (.dispatchContextRelease d) s = .next (y.ran (.desc r)).closed)

/-- Which router record the dispatch engine takes, what it makes of it, and the deadlines of a round. For every partition p: the
record the engine takes next is one of p's, the earliest of its core, that it may take: a token slot of its core's hub is free
(the hub's queue neither stopped nor held, with more granted than issued) and its round is open or free to open (a record with
no context or outside it needs none). With no such record nothing changes. It leaves the records and its credit returns. A
record that names no context, a token outside the context, or a token the collecting round has, is refused: DDROP rises by one
and a dispatch fault of cause 2 names the token (the context counts it as out of range or as duplicate). One for the round that
collects joins it; with no round collecting it opens the next round, in the bank of its parity, and is its first; each raises
DTOK and ROUTED by one, a bad one DDROP too; a round that is then full closes its collection. A collection closes when DEADLINE
ticks have passed since it opened, a receive round when they have since its first message, a return when they have since its
sends; before that nothing changes. (07_index_and_dispatch.md, 05_tarn_and_epilogue.md, 01_organization.md) -/
def Obligations.RouterRecordsAndRounds : Prop :=
  (∀ (p : PartId) (s : State) (r : RouterRec), s.nextRouter? p.val = some r →
      r ∈ s.routers ∧ r.part = p.val ∧ s.routers.find? (fun y => y.core == r.core) = some r ∧ s.mayTake r = true) ∧
  (∀ (s : State) (r : RouterRec), s.mayTake r = true ↔
      (s.queue 6 (s.tokenHub r.core)).stopped = false ∧ s.queueHeld 6 (s.tokenHub r.core) = false ∧
      (s.queue 6 (s.tokenHub r.core)).issued < (s.queue 6 (s.tokenHub r.core)).granted ∧
      ∀ x, s.dctx? r.part r.dctx = some x →
        r.token < x.tokBase ∨ x.tokBase + x.nTok ≤ r.token ∨ x.collecting ≠ none ∨ tget? x.send (x.rounds % 2) = none) ∧
  (∀ (p : PartId) (s : State), s.nextRouter? p.val = none → exec (.routerRecordAccept p) s = .next s.flush) ∧
  (∀ (p : PartId) (s : State) (r : RouterRec), s.nextRouter? p.val = some r →
      let taken := ({ s with routers := s.routers.erase r } : State).tokenPass r.core
      let joins := fun (x : DispCtx) (b : Nat) (k : SendBank) =>
        let t := ((taken.putDctx r.part r.dctx { x with
          send := tput x.send b { k with recs := tput k.recs (r.token - x.tokBase) r } }).add F.pDtok 1 r.part).add F.pRouted 1 r.part
        let u := if r.bad then t.add F.pDdrop 1 r.part else t
        if k.recs.length + 1 = x.nTok then u.closeCollection r.part r.dctx b else u
      (s.dctx? r.part r.dctx = none →
        exec (.routerRecordAccept p) s = .next ((taken.add F.pDdrop 1 r.part).dispFault r.part r.dctx 0 2 r.token []).flush) ∧
      (∀ x, s.dctx? r.part r.dctx = some x → (r.token < x.tokBase ∨ x.tokBase + x.nTok ≤ r.token) →
        exec (.routerRecordAccept p) s = .next ((((taken.putDctx r.part r.dctx { x with oor := x.oor + 1 }).add F.pDdrop 1
          r.part).dispFault r.part r.dctx (((x.collecting).map (fun e => e.2.round)).getD x.rounds) 2 r.token [])).flush) ∧
      (∀ x, s.dctx? r.part r.dctx = some x → x.tokBase ≤ r.token → r.token < x.tokBase + x.nTok →
        (∀ b k, x.collecting = some (b, k) →
          (tget? k.recs (r.token - x.tokBase) = none → exec (.routerRecordAccept p) s = .next (joins x b k).flush) ∧
          (tget? k.recs (r.token - x.tokBase) ≠ none → exec (.routerRecordAccept p) s =
            .next (((taken.putDctx r.part r.dctx { x with dup := x.dup + 1 }).add F.pDdrop 1
              r.part).dispFault r.part r.dctx k.round 2 r.token []).flush)) ∧
        (x.collecting = none → exec (.routerRecordAccept p) s = .next (joins { x with rounds := x.rounds + 1 } (x.rounds % 2)
          ⟨x.rounds, s.tick, [], 0, 0, [], 0, List.replicate 13 0⟩).flush))) ∧
  (∀ (p : PartId) (n : Fin 16) (s : State) (x : DispCtx) (b : Nat) (k : SendBank), s.dctx? p.val n.val = some x →
      x.collecting = some (b, k) → exec (.roundCollectionDeadline p n) s =
        .next (if k.opened + x.deadline ≤ s.tick then s.closeCollection p.val n.val b else s).flush) ∧
  (∀ (p : PartId) (n : Fin 16) (b : Fin 2) (s : State) (x : DispCtx) (y : RecvBank), s.dctx? p.val n.val = some x →
      tget? x.recv b.val = some y → exec (.receiveRoundDeadline p n b) s =
        .next (if y.closed = false ∧ y.first + x.deadline ≤ s.tick then s.closeRecv p.val n.val b.val else s).flush) ∧
  (∀ (p : PartId) (n : Fin 16) (b : Fin 2) (s : State) (x : DispCtx) (k : SendBank), s.dctx? p.val n.val = some x →
      tget? x.send b.val = some k → exec (.returnRoundDeadline p n b) s =
        .next (if k.phase = 1 ∧ k.sentTick + x.deadline ≤ s.tick then s.closeReturn p.val n.val b.val 4 else s).flush)

/-- What becomes of a received dispatch or return message. For every channel whose oldest received message lies in a buffer of
the dispatch engine: a message of kind 1 goes to the context its header names as a dispatch message, one of kind 2 as returned
rows; a message of another kind stays. A dispatch message whose context is not registered gives its buffer back. One of a round
the context has closed (below RX_NEXT, or closed above it) counts as late by its rows, raises LATE_IN and gives its buffer back,
and one of a round not yet open is held, unplaced, behind the others of its context. A held message that can be placed or
discarded now (DispCtx.ready), the earliest of them, leaves the held ones and is taken as if it had just come; with none,
nothing changes. A return message gives its buffer back; its rows, when their round is not open, count as late and raise
LATE_IN. (07_index_and_dispatch.md) -/
def Obligations.DispatchMessages : Prop :=
  (∀ (cid : Fin 16384) (s t : State) (c : Chan) (b b' : GnxBuf) (rest : List GnxBuf) (k : Nat) (bs : List Byte),
      tget? s.net.chans cid.val = some c → c.taken = b :: rest → b.owner = .engine 0 k → s.takeMsg cid.val = (some (b', bs), t) →
      exec (.dispatchMessageRx cid) s = .next (if leAt bs 1 1 = 1 then t.takeDispatch c.part (some (cid.val, b')) bs else s).flush ∧
      exec (.returnMessageRx cid) s = .next (if leAt bs 1 1 = 2 then t.takeReturn c.part (some (cid.val, b')) bs else s).flush) ∧
  (∀ (s : State) (p : Nat) (o : Option (Nat × GnxBuf)) (bs : List Byte), s.dctx? p (dispMsgOf bs).n = none →
      s.takeDispatch p o bs = s.repost o) ∧
  (∀ (s : State) (p r : Nat) (o : Option (Nat × GnxBuf)) (bs : List Byte) (x : DispCtx), s.dctx? p (dispMsgOf bs).n = some x →
      unwrapN 32 x.rxNext (dispMsgOf bs).round = some r →
      ((r < x.rxNext ∨ r ∈ x.closedRounds) → s.takeDispatch p o bs = ((s.putDctx p (dispMsgOf bs).n
        { (x.count (dispMsgOf bs).src 0 (dispMsgOf bs).rows 0) with late := x.late + 1 }).inc F.pLateIn 1 p).repost o) ∧
      (x.rxNext + 2 ≤ r → r ∉ x.closedRounds → s.takeDispatch p o bs = s.putDctx p (dispMsgOf bs).n { x with held := x.held ++ [(o, bs)] })) ∧
  (∀ (p : PartId) (n : Fin 16) (s : State) (x : DispCtx), s.dctx? p.val n.val = some x →
      (∀ h, x.held.find? x.ready = some h → exec (.heldDispatchPlace p n) s =
        .next ((s.putDctx p.val n.val { x with held := x.held.erase h }).takeDispatch p.val h.1 h.2).flush) ∧
      (x.held.find? x.ready = none → exec (.heldDispatchPlace p n) s = .next s.flush)) ∧
  (∀ (s : State) (p : Nat) (o : Option (Nat × GnxBuf)) (bs : List Byte) (x : DispCtx), (s.repost o).dctx? p (dispMsgOf bs).n = some x →
      (∀ e ∈ x.send, ¬ (e.2.round % 2 ^ 32 = (dispMsgOf bs).round ∧ e.2.phase = 1)) →
      s.takeReturn p o bs = ((s.repost o).putDctx p (dispMsgOf bs).n { x with late := x.late + 1 }).inc F.pLateIn 1 p)

/-- What a line request of a partition does: its fault, its wait, its read and its write. For every MERE_REQUEST of a partition,
in the state t that the address sampling leaves (t is s with at most a sample sent): a request whose PVA does not translate
(cause 1 no entry, 2 no permission, 3 beyond the allotment or no such memory) ends with the translation fault event of that
cause, access kind 1 for a read and 2 for a write. A read of an object answers the bytes and poison its granule gives from the
PVA to the end of the line. A request of device memory has its bursts' errors put in place and the cycles it waited counted; it
then waits, behind the others held, exactly when a held request is for its line, or the Mere does not hold the line and the
stack takes no request, the row is in copy, or the partition finds no token. Else a read answers the line's bytes and poison
with the effects of its hint (State.lineRead: for a line the Mere holds, the Mere's copy and one more hit), a poisoned one noted
for its core; a write lays its bytes, cut at the end of the line, over the line. The hint is the request's own, or the range's
where that is 0. (01_organization.md, 08_memory.md) -/
def Obligations.LineRequests : Prop :=
  (∀ (p : PartId) (core : Option CoreId) (engine : Fin 10) (pva : DWord) (hint : Fin 4) (data : List Byte) (early : Bool) (waited : Word)
    (errs : List BurstErr) (s : State),
    let who := whoOf core engine.val
    let rt := (s.part p.val).rt
    let t := s.sampleReq p.val pva.toNat
    let bs := data.take (128 - pva.toNat % 128)
    (∀ k, t.xlate p.val rt pva.toNat (data != []) = .error k → exec (.mereRequest p core engine pva hint data early waited errs) s =
      .next (t.xfault p.val who pva.toNat (if data = [] then 1 else 2) k).flush) ∧
    (∀ a h, t.xlate p.val rt pva.toNat (data != []) = .ok (.dpa a h) → t.locate? a = none →
      exec (.mereRequest p core engine pva hint data early waited errs) s =
        .next (t.xfault p.val who pva.toNat (if data = [] then 1 else 2) 3).flush) ∧
    (∀ h ofs, t.xlate p.val rt pva.toNat (data != []) = .ok (.obj h ofs) →
      let u := t.readPlace ⟨p.val, who, rt, hint.val, early⟩ (.obj h ofs) (128 - pva.toNat % 128)
      exec (.mereRequest p core engine pva hint data early waited errs) s =
        .next ({ u.2.2 with mem := { u.2.2.mem with answer := some (u.1, u.2.1) } } : State).flush) ∧
    (∀ a h pa, t.xlate p.val rt pva.toNat (data != []) = .ok (.dpa a h) → t.locate? a = some pa →
      let v := (t.putErrs (pa / 128) errs).waitedOn p.val waited.toNat
      let q : HeldReq := ⟨p.val, who, useHint hint.val h, early, pa, bs⟩
      ((v.reqWaits q = true ∨ ∃ x ∈ v.mem.held, x.pa / 128 = pa / 128) →
        exec (.mereRequest p core engine pva hint data early waited errs) s =
          .next (v.setMem (fun m => { m with held := m.held ++ [q] })).flush) ∧
      (v.reqWaits q = false → (∀ x ∈ v.mem.held, x.pa / 128 ≠ pa / 128) →
        (data = [] →
          let u := v.lineRead p.val (useHint hint.val h) (pa / 128) early
          let w := if u.2.1 then u.2.2.tookPoison who (u.2.2.dpaOf (pa / 128 * 128)) else u.2.2
          exec (.mereRequest p core engine pva hint data early waited errs) s =
            .next ({ w with mem := { w.mem with answer := some (u.1, u.2.1) } } : State).flush) ∧
        (data ≠ [] →
          let w := v.lineWrite p.val (useHint hint.val h) (pa / 128) (pa % 128) bs false early
          exec (.mereRequest p core engine pva hint data early waited errs) s =
            .next ({ w with mem := { w.mem with answer := none } } : State).flush)))) ∧
  (∀ (s : State) (q : HeldReq), s.reqWaits q = true ↔ tget? s.mem.mere (q.pa / 128) = none ∧
    (s.stackServes (paStack q.pa) = false ∨ s.inCopy q.pa = true ∨ (q.part < 36 ∧ s.hasTokens q.part (paStack q.pa) q.early = false))) ∧
  (∀ (s : State) (p hint line : Nat) (early : Bool) (m : MereLine), tget? s.mem.mere line = some m →
    s.lineRead p hint line early = (m.data, m.poison, (s.readHit p hint line m).countMere p true))

/-- What a write leaves of a line and of its poison, and what a read of it then answers. A write of bytes into a line that the
Mere holds leaves there the line's bytes with those laid over them, marked dirty, poisoned only if the writer's bytes are or the
line was and the write is not of the whole line; a read of the line then answers exactly that. In a state whose memories are in
their canonical form, and for a line no symbol of whose bursts is in error: a write under the hint STREAM of a line that the
Mere does not hold places no line, and the stack holds the bytes laid over its own, poisoned by the same rule; a read of a line
the Mere does not hold answers the stack's bytes and poison: the bytes written there, or, where nothing has written it since its
scrub and it is encrypted under no key, zeros. (08_memory.md) -/
def Obligations.LinesKeepAndLosePoison : Prop :=
  (∀ (s : State) (p hint line ofs : Nat) (bs : List Byte) (po early : Bool) (m : MereLine), tget? s.mem.mere line = some m →
    let t := s.lineWrite p hint line ofs bs po early
    ∃ m', tget? t.mem.mere line = some m' ∧ m'.data = overlay m.data ofs bs ∧ m'.dirty = true ∧
      m'.poison = (po || (m.poison && bs.length != 128)) ∧
      ∀ q h e, (t.lineRead q h line e).1 = m'.data ∧ (t.lineRead q h line e).2.1 = m'.poison) ∧
  (∀ (s : State) (p line ofs : Nat) (bs : List Byte) (po early : Bool), s.wf = true → tget? s.mem.mere line = none →
    tget? s.mem.errs (2 * line) = none → tget? s.mem.errs (2 * line + 1) = none → bs ≠ [] → ofs + bs.length ≤ 128 →
    let t := s.lineWrite p hintStream line ofs bs po early
    t.mem.mere = s.mem.mere ∧ t.stackLine line = overlay (s.stackLine line) ofs bs ∧
      t.stackPoison line = (po || (s.stackPoison line && bs.length != 128))) ∧
  (∀ (s : State) (p hint line : Nat) (early : Bool), tget? s.mem.mere line = none →
    tget? s.mem.errs (2 * line) = none → tget? s.mem.errs (2 * line + 1) = none →
    (s.lineRead p hint line early).1 = s.stackLine line ∧ (s.lineRead p hint line early).2.1 = s.stackPoison line) ∧
  (∀ (s : State) (line : Nat), (s.mem.written.contains line = true → s.stackLine line = cellsRead s.mem.dram (line * 128) 128) ∧
    (s.mem.written.contains line = false → s.lineKey? (s.dpaOf (line * 128)) = none → s.stackLine line = List.replicate 128 0))

/-- A near-memory addition adds every source into its slot of the line at the stack, and adds nothing to a poisoned line.
NEAR_MEMORY_ADD without sources changes nothing. With any number of them it runs State.nmAdd line by line and raises the flags
of the additions in the partition's FL_VEC, naming the grain its core runs. Where the sources, from the slot its PVA lies in,
fit the line that holds it, nmAdd means: a PVA that does not translate for a write gives a translation fault of access kind 3
with the cause, code 0x67 and no flag, and nothing is added. A translated one first has the Mere's copy of the line written back
and dropped, both bursts charged and read; then a poisoned line is left as it is, with code 0x68; else the line stored in the
stack holds, slot by slot, each source added under the anchor to what the slot held, and SCAT_ADDS rises by the number of
sources. (07_index_and_dispatch.md, 08_memory.md, 03_numbers.md) -/
def Obligations.NearMemoryAdditions : Prop :=
  (∀ (p : PartId) (core : CoreId) (pva : DWord) (a : Int) (s : State), exec (.nearMemoryAdd p core pva a []) s = .next s.flush) ∧
  (∀ (p : PartId) (core : CoreId) (pva : DWord) (a : Int) (srcs : List (Fin 32 × BitVec 128)) (s : State),
    let u := s.nmAdd ⟨p.val, core.val, (s.part p.val).rt, 0, false⟩ pva.toNat a (srcs.map (fun x => ⟨x.1.val, x.2.toNat⟩))
    (∀ r, (u.2.2.2.core core.val).run = some r → exec (.nearMemoryAdd p core pva a srcs) s =
      .next (u.2.2.2.raiseFlags core.val p.val r.grain.stepNo 3 (gId r.grain.word) u.2.2.1).flush) ∧
    ((u.2.2.2.core core.val).run = none → exec (.nearMemoryAdd p core pva a srcs) s =
      .next (u.2.2.2.raiseFlags core.val p.val 0 3 0 u.2.2.1).flush)) ∧
  ∀ (c : Ctx) (pva : Nat) (a : Int) (srcs : List NmSrc) (s : State), srcs ≠ [] → pva / 16 % 8 + srcs.length ≤ 8 →
    let at16 := pva / 16 * 16
    (∀ k, s.xlate c.part c.rt at16 true = .error k → s.nmAdd c pva a srcs = (0x67, at16, 0, s.xfault c.part c.who at16 3 k)) ∧
    (∀ d h pa, s.xlate c.part c.rt at16 true = .ok (.dpa d h) → s.locate? d = some pa →
      let t := ((s.dropLine (pa / 128) c.early).charge c.part (paStack pa) 2 c.early).stackFetch (pa / 128) c.part 1 [0, 1]
      (t.stackPoison (pa / 128) = true → (s.nmAdd c pva a srcs).1 = 0x68 ∧ (s.nmAdd c pva a srcs).2.2.2 = t) ∧
      (t.stackPoison (pa / 128) = false →
        let bytes := (List.range srcs.length).foldl (fun l i =>
          overlay l (16 * (at16 % 128 / 16 + i)) (leBytes 16 (((nthD srcs i ⟨12, 0⟩).into a
            (slotOf (leAt l (16 * (at16 % 128 / 16 + i)) 16))).1.word))) (t.stackLine (pa / 128))
        (s.nmAdd c pva a srcs).1 = 0 ∧
          (s.nmAdd c pva a srcs).2.2.2 = (t.stackStore (pa / 128) bytes).add F.pScat srcs.length c.part))

/-- Location of failing dies, the end of a row copy, and a patrol read. For every stack n: with no poisoned line awaiting
location, LOCATE_FAILING_DIES changes nothing; else the oldest such line leaves the list and the row of each die found, each
once, is remapped: nothing for a row already steered, in copy, or refused in this interval, or of a marked die; a repair event
of action 2 with the CAM full, the copies under way counted, or 3 with no spare, told once in the interval; else a spare of its
bank is taken and the copy begun. With no row in copy REMAP_COPY_COMPLETE changes nothing; else the row longest in copy is
steered to its spare: one CAM entry more, REMAPS rises by one, a repair event of action 1 names the row, and the requests held
are looked at. PATROL_SCRUB_READ of a stack that serves puts the errors given into the next burst in SA order, reads it for no
partition's account and moves on, the tallies and refusals emptied at the end of the stack; of another it does nothing.
(08_memory.md) -/
def Obligations.RepairCommands : Prop :=
  (∀ (n : StackId) (dies : List (Fin 19)) (s : State), (s.stack n.val).locating = [] →
    exec (.locateFailingDies n dies) s = .next s.flush) ∧
  (∀ (n : StackId) (dies : List (Fin 19)) (s : State) x l, (s.stack n.val).locating = x :: l →
    exec (.locateFailingDies n dies) s = .next ((dies.map (fun d => d.val)).eraseDups.foldl
      (fun s d => s.remap n.val (dieRowOf (x.1 * 128) d)) (s.modStack n.val (fun k => { k with locating := l }))).flush) ∧
  (∀ (n : StackId) (s : State), (s.stack n.val).copying = [] → exec (.remapCopyComplete n) s = .next s.flush) ∧
  (∀ (n : StackId) (s : State) c l, (s.stack n.val).copying = c :: l →
    let t := s.modStack n.val (fun k => { k with copying := k.copying.erase c, cam := k.cam ++ [c] })
    exec (.remapCopyComplete n) s = .next ((((t.wr F.memCamUsed (s.rd F.memCamUsed 0 n.val + 1) 0 n.val).inc
      F.memRemaps 1 0 n.val).repairEvent n.val c.1 1).serveHeld).flush) ∧
  (∀ (s : State) (n : Nat) (r : DieRow), ((∃ e ∈ (s.stack n).copying, e.1 = r) ∨ (∃ e ∈ (s.stack n).cam, e.1 = r) ∨
    r ∈ (s.stack n).denied ∨ r.die ∈ s.marks n) → s.remap n r = s) ∧
  (∀ (s : State) (n : Nat) (r : DieRow), (∀ e ∈ (s.stack n).copying, e.1 ≠ r) → (∀ e ∈ (s.stack n).cam, e.1 ≠ r) →
    r ∉ (s.stack n).denied → r.die ∉ s.marks n →
    let deny := fun (a : Nat) => (s.modStack n (fun k => { k with denied := k.denied ++ [r] })).repairEvent n r a
    (4096 ≤ s.rd F.memCamUsed 0 n + (s.stack n).copying.length → s.remap n r = deny 2) ∧
    (s.rd F.memCamUsed 0 n + (s.stack n).copying.length < 4096 → (s.stack n).sparesLeft r = 0 → s.remap n r = deny 3) ∧
    (s.rd F.memCamUsed 0 n + (s.stack n).copying.length < 4096 → (s.stack n).sparesLeft r ≠ 0 →
      ∃ x ∈ (s.stack n).freeSpares r.bankKey, (s.takeSpare n r).1 = some x ∧
        s.remap n r = (s.takeSpare n r).2.modStack n (fun k => { k with copying := k.copying ++ [(r, x)] }))) ∧
  (∀ (n : StackId) (e : BurstErr) (s : State),
    (s.stackServes n.val = false → exec (.patrolScrubRead n e) s = .next s.flush) ∧
    (s.stackServes n.val = true →
      let b := n.val * 2 ^ 31 + (s.stack n.val).patrol
      let next := ((s.stack n.val).patrol + 1) % 2 ^ 31
      let t := (s.putErr b e).stackFetch (b / 2) (s.extentOwner (s.dpaOf (b * 64))) 2 [b % 2]
      exec (.patrolScrubRead n e) s = .next (if next = 0
        then t.modStack n.val (fun k => { k with patrol := 0, tallies := [], denied := [], refused := [] })
        else t.modStack n.val (fun k => { k with patrol := next })).flush))

/-- What a read makes of a burst with symbols in error, and what the code makes of a word. A burst no symbol of which is in
error reads as it is and changes nothing. For a burst b whose four codewords decode (State decodeBurst, under the stack's marks)
and none of which holds more errors than the code covers: with none uncorrectable and some die's symbols corrected, the errors
written back (those of a codeword with a symbol corrected on an unmarked die) leave the burst, CE_COUNT rises by one whatever
the number of codewords, and the row of each such die is tallied once; with one uncorrectable, still so when the burst is read
once more without its passing errors, the corrected ones count all the same and the line is poisoned with UE_COUNT and its
event. A poisoned word with no further error reads as poisoned, with one further symbol in error as uncorrectable. Of the word
of zeros: without marks an error of any value on any die is corrected on that die, and one on two dies is uncorrectable; with
both dies marked it is corrected on both. (08_memory.md) -/
def Obligations.BurstsAndTheMemoryCode : Prop :=
  (∀ (s : State) (b p source : Nat) (po : Bool), tget? s.mem.errs b = none → s.burstRead b p source po = (false, s)) ∧
  (∀ (s : State) (b p source : Nat) (po : Bool) (f : BurstFault), tget? s.mem.errs b = some f →
    let marks := s.marks (paStack (b * 64))
    let burst := bytesAt (s.stackLine (b / 2)) (b % 2 * 64) 64
    let ds := decodeBurst marks burst po (burstAdd f.stay f.once)
    let dies := (ds.flatMap Decode.dies).eraseDups
    let stay := (List.range 4).map (fun i => if (nthD ds i .clean).dies.any (fun d => !marks.contains d) then [] else nthD f.stay i [])
    let t := s.fresh.2.setStay b stay
    let u := if dies = [] then t else t.correctedBurst (b * 64) dies
    (∀ x ∈ ds, x ≠ .beyond) →
    ((∀ x ∈ ds, x ≠ .uncorrectable) → s.burstRead b p source po = (false, u)) ∧
    ((∃ x ∈ ds, x = .uncorrectable) → (∃ x ∈ decodeBurst marks burst po stay, x = .uncorrectable ∨ x = .beyond) →
      s.burstRead b p source po = (true, u.poisonLine (b * 64) p source))) ∧
  (∀ (s : State) (pa : Nat) (dies : List Nat), s.correctedBurst pa dies =
    dies.foldl (fun s d => s.tallyRow (paStack pa) (dieRowOf pa d)) ((s.noteEvidence (pa / 128)).inc F.memCeCount 1 0 (paStack pa))) ∧
  (∀ (marks : List Nat) (beat : List Byte) (d x : Nat), x ≠ 0 →
    decodeWord marks beat true [] = .poisoned ∧ decodeWord marks beat true [(d, x)] = .uncorrectable) ∧
  (∀ (d : Fin 19) (x : Fin 256), x ≠ 0 → decodeWord [] (List.replicate 16 0) false [(d.val, x.val)] = .corrected [d.val]) ∧
  (∀ (d e : Fin 19), d ≠ e → decodeWord [] (List.replicate 16 0) false [(d.val, 1), (e.val, 1)] = .uncorrectable ∧
    decodeWord [d.val, e.val] (List.replicate 16 0) false [(d.val, 1), (e.val, 1)] = .corrected [d.val, e.val])

/-- The wrapper instructions run only in repair access, and what each does. For every stack n: outside repair access none of the
seven wrapper instructions changes anything. In repair access each deselects BYPASS first; then INV_READ returns the free spares
of every die, channel and bank, FUSE_READ the hard-repaired rows of the die, LIST_READ the repair list and the marked dies; SPPR
takes a spare of the row's bank, puts the row on the repair list and gives a repair event of action 6, or gives action 3 with no
spare, and does nothing for a row already repaired; HPPR, verified, moves the row to the hard-repaired ones with action 7 (a row
not on the list takes a spare, or gives action 3 with none), and unverified, or for a row hard-repaired already, does nothing;
MBIST empties and poisons every line of the bank range, raises POISONED by their number and returns the failing rows; BYPASS,
for a code of Table 8-7's own list, changes nothing, and otherwise selects BYPASS. (08_memory.md) -/
def Obligations.WrapperInstructions : Prop :=
  ∀ (n : StackId) (s : State),
    ((s.stack n.val).access = false →
      exec (.invRead n) s = .next s.flush ∧ exec (.listRead n) s = .next s.flush ∧ (∀ die, exec (.fuseRead n die) s = .next s.flush) ∧
      (∀ die c b r, exec (.sppr n die c b r) s = .next s.flush) ∧ (∀ die c b r v, exec (.hppr n die c b r v) s = .next s.flush) ∧
      (∀ lo hi l, exec (.mbist n lo hi l) s = .next s.flush) ∧ (∀ code, exec (.bypass n code) s = .next s.flush)) ∧
    ((s.stack n.val).access = true →
      let t := s.modStack n.val (fun k => { k with bypass := false })
      let k := t.stack n.val
      exec (.invRead n) s = .next (t.wrapperOut n.val 1 ((List.range 2432).map (fun i => (k.freeSpares i).length))).flush ∧
      exec (.listRead n) s = .next (t.wrapperOut n.val 6 (k.repairList.map DieRow.word ++ t.marks n.val)).flush ∧
      (∀ die : Fin 19, exec (.fuseRead n die) s =
        .next (t.wrapperOut n.val 2 ((k.hardRepairs.filter (fun r => r.die == die.val)).map DieRow.word)).flush) ∧
      (∀ (die : Fin 19) (c : Fin 8) (b : Fin 16) (row : BitVec 16),
        let r : DieRow := ⟨die.val, c.val, b.val, row.toNat⟩
        exec (.sppr n die c b row) s = .next (if r ∈ k.repairList ∨ r ∈ k.hardRepairs then t
          else if k.sparesLeft r = 0 then t.repairEvent n.val r 3
          else ((t.takeSpare n.val r).2.modStack n.val (fun k => { k with repairList := k.repairList ++ [r] })).repairEvent n.val r 6).flush ∧
        exec (.hppr n die c b row false) s = .next t.flush ∧
        (r ∈ k.repairList → r ∉ k.hardRepairs → exec (.hppr n die c b row true) s = .next ((t.modStack n.val (fun k =>
          { k with repairList := k.repairList.erase r, hardRepairs := k.hardRepairs ++ [r] })).repairEvent n.val r 7).flush) ∧
        (r ∈ k.hardRepairs → exec (.hppr n die c b row true) s = .next t.flush) ∧
        (r ∉ k.repairList → r ∉ k.hardRepairs → k.sparesLeft r = 0 →
          exec (.hppr n die c b row true) s = .next (t.repairEvent n.val r 3).flush) ∧
        (r ∉ k.repairList → r ∉ k.hardRepairs → k.sparesLeft r ≠ 0 → exec (.hppr n die c b row true) s =
          .next (((t.takeSpare n.val r).2.modStack n.val (fun k => { k with
            repairList := k.repairList.erase r, hardRepairs := k.hardRepairs ++ [r] })).repairEvent n.val r 7).flush)) ∧
      (∀ (lo hi : Fin 16) l, exec (.mbist n lo hi l) s = .next ((((bankLines n.val lo.val hi.val).foldl (fun u x => u.setPoison x true)
        (t.stackScrub (fun x => x / 2 ^ 30 == n.val && decide (lo.val ≤ saBank (x * 128)) && decide (saBank (x * 128) ≤ hi.val)))).inc
          F.memPoisoned (bankLines n.val lo.val hi.val).length 0 n.val).wrapperOut n.val 5
          (l.map (fun x => DieRow.word ⟨x.1.val, x.2.1.val, x.2.2.1.val, x.2.2.2.toNat⟩))).flush) ∧
      (∀ code : Byte, (1 ≤ code.toNat ∧ code.toNat ≤ 6 → exec (.bypass n code) s = .next s.flush) ∧
        (¬ (1 ≤ code.toNat ∧ code.toNat ≤ 6) → exec (.bypass n code) s =
          .next (t.modStack n.val (fun k => { k with bypass := true })).flush)))

/-- Descriptors 0x2A and 0x2B, a range-table edit, and its coming into force. For every descriptor that starts at once and lacks
no granule of an object: KEEP_RELEASE releases the partition's own pins on the lines whose PVA lies in its range, on all of them
for a length of 0, and completes. TRANSPOSE_COPY (of ROWS and COLS not 0) of an element size 3 ends as a null resource; with
source and destination ranges that overlap, as a reported no-op; with a source or else a destination line that may not be
accessed so, as a no-op after that translation fault; else it gathers and writes block by block, 128 bytes of elements a side,
and completes. A range-table edit with VALID 0 of an entry below RT_SIZE that no swap set holds takes the entry from the table
in the making, of another index it names the null resource (notes/assumptions/47.md); one with VALID 1 that the range rules
refuse ends as a no-op; an accepted one of memory sets the entry as it is, one of a lower tier sets it read-only whatever its
PERM, with a clamp 0x1004 where that asked for reads and writes. The table in force changes at the tick boundary alone.
(01_organization.md, 08_memory.md) -/
def Obligations.KeepTransposeAndRangeEdits : Prop :=
  (∀ (s : State) (d : Desc) (r : DRef) (t : State), s.starts 0x2A d r t →
    let pick := fun (l : Nat) => d.fld 64 64 == 0 || t.lineIn r.part l (d.fld 0 64) (d.fld 64 64)
    let y : State := ((t.setMere (tmap t.mem.mere (fun l m =>
      if m.pin = some r.part ∧ pick l = true then { m with pin := none } else m))).keepNow r.part).done r
    y.atHand (.desc r) → exec (.keepRelease d) s = .next (y.ran (.desc r)).demandIssue.flush) ∧
  (∀ (s : State) (d : Desc) (r : DRef) (t : State), s.starts 0x2B d r t → d.fld 128 32 ≠ 0 → d.fld 160 32 ≠ 0 →
    let e := 2 ^ d.fld 256 2
    let b := blockSide e
    let rows := d.fld 128 32
    let cols := d.fld 160 32
    let c := t.engCtx r.part engDesc
    let apart := d.fld 64 64 + (cols - 1) * d.fld 224 32 + rows * e ≤ d.fld 0 64 ∨
      d.fld 0 64 + (rows - 1) * d.fld 192 32 + cols * e ≤ d.fld 64 64
    (d.fld 256 2 = 3 →
      let y : State := (t.nullDesc r mereNull 3)
      y.atHand (.desc r) → exec (.transposeCopy d) s = .next (y.ran (.desc r)).demandIssue.flush) ∧
    (d.fld 256 2 ≠ 3 → ¬ apart →
      let y : State := (t.noop r)
      y.atHand (.desc r) → exec (.transposeCopy d) s = .next (y.ran (.desc r)).demandIssue.flush) ∧
    (d.fld 256 2 ≠ 3 → apart →
      (∀ x why, t.badSpan? r.part (d.fld 0 64) (d.fld 192 32) rows (cols * e) false = some (x, why) →
        let y : State := ((t.xfault r.part c.who x 1 why).noop r)
        y.atHand (.desc r) → exec (.transposeCopy d) s = .next (y.ran (.desc r)).demandIssue.flush) ∧
      (t.badSpan? r.part (d.fld 0 64) (d.fld 192 32) rows (cols * e) false = none →
        (∀ x why, t.badSpan? r.part (d.fld 64 64) (d.fld 224 32) cols (rows * e) true = some (x, why) →
          let y : State := ((t.xfault r.part c.who x 2 why).noop r)
          y.atHand (.desc r) → exec (.transposeCopy d) s = .next (y.ran (.desc r)).demandIssue.flush) ∧
        (t.badSpan? r.part (d.fld 64 64) (d.fld 224 32) cols (rows * e) true = none →
          let y : State := (iterN ((rows + b - 1) / b) (fun i u => iterN ((cols + b - 1) / b) (fun j u =>
            u.transposeBlock c (d.fld 258 2) e (d.fld 0 64) (d.fld 192 32) (d.fld 64 64) (d.fld 224 32) (i * b) (j * b)
              (Nat.min b (rows - i * b)) (Nat.min b (cols - j * b))) u) t).done r
          y.atHand (.desc r) → exec (.transposeCopy d) s = .next (y.ran (.desc r)).demandIssue.flush)))) ∧
  (∀ (s : State) (d : Desc) (i : Fin 1024) (w : BitVec 128) (r : DRef) (t : State),
    s.starts Config.rangeEditOpcode.toNat { d with body := rangeEditBody i.val w.toNat } r t →
    let free := i.val < t.rd F.pRtSize r.part ∧ ∀ x ∈ (t.part r.part).tier.swaps, x.2.index ≠ i.val
    let e := rtEntryOf w.toNat
    (rtValid w.toNat = false → free →
      let y : State := ((t.rtSet r.part i.val none).done r)
      y.atHand (.desc r) → exec (.rangeTableEdit d i w) s = .next (y.ran (.desc r)).flush) ∧
    (rtValid w.toNat = false → ¬ free →
      let y : State := (t.nullDesc r partNull i.val)
      y.atHand (.desc r) → exec (.rangeTableEdit d i w) s = .next (y.ran (.desc r)).flush) ∧
    (rtValid w.toNat = true → t.rtEditOk r.part i.val e = false →
      let y : State := (t.noop r)
      y.atHand (.desc r) → exec (.rangeTableEdit d i w) s = .next (y.ran (.desc r)).flush) ∧
    (rtValid w.toNat = true → t.rtEditOk r.part i.val e = true → r.clamped = false →
      (e.target = 0 →
        let y : State := ((t.rtSet r.part i.val (some e)).done r)
        y.atHand (.desc r) → exec (.rangeTableEdit d i w) s = .next (y.ran (.desc r)).flush) ∧
      (e.target ≠ 0 → e.perm ≠ 3 →
        let y : State := ((t.rtSet r.part i.val (some { e with perm := 1 })).done r)
        y.atHand (.desc r) → exec (.rangeTableEdit d i w) s = .next (y.ran (.desc r)).flush) ∧
      (e.target ≠ 0 → e.perm = 3 →
        let y : State := (((t.clampDesc r 9 0x1004 3 1).rtSet r.part i.val (some { e with perm := 1 })).done { r with clamped := true })
        y.atHand (.desc r) → exec (.rangeTableEdit d i w) s = .next (y.ran (.desc r)).flush))) ∧
  (∀ (s : State) (p i : Nat) (e : Option RtEntry), ((s.rtSet p i e).part p).rt = (s.part p).rt)

/-- The refetch of a poisoned granule of a shared region. For every region r and granule g: with no such region, a granule past
its end or one with no poisoned line, REFETCH_COMPLETE changes nothing. Else the cores that took the poison are forgotten; with
no copy to be read every partition that maps the region gets a shared weight event of cause 2 and one more REFETCH; with a copy
the granule's 32 lines are written whole from it, the cores that took it are to rebuild on their own sites, and the event has
cause 1. (13_continuity.md, 15_partitions_security.md) -/
def Obligations.SharedWeightRefetch : Prop :=
  ∀ (r : Fin 4) (g : Word) (failed : Bool) (s : State),
    (tget? s.mem.shared r.val = none → exec (.refetchComplete r g failed) s = .next s.flush) ∧
    (∀ x, tget? s.mem.shared r.val = some x →
      let dpa := x.base * gib + g.toNat * 4096
      let t : State := { s with mem := { s.mem with took := s.mem.took.filter (fun e => e.2 != dpa / 4096) } }
      ((x.len * gib ≤ g.toNat * 4096 ∨ ∀ l ∈ s.granLines dpa, s.linePoison l = false) →
        exec (.refetchComplete r g failed) s = .next s.flush) ∧
      (g.toNat * 4096 < x.len * gib → (∃ l ∈ s.granLines dpa, s.linePoison l = true) →
        exec (.refetchComplete r g true) s = .next (t.sharedEvent r.val x dpa 2).flush ∧
        ((t.granule x.owner x.handle g.toNat).1 = none →
          exec (.refetchComplete r g false) s = .next ((t.granule x.owner x.handle g.toNat).2.sharedEvent r.val x dpa 2).flush) ∧
        (∀ d, (t.granule x.owner x.handle g.toNat).1 = some d →
          let u := (List.range 32).foldl (fun u i => u.lineWrite noPart hintStream (nthD (s.granLines dpa) i 0) 0
            (bytesAt d (128 * i) 128) false false) (t.granule x.owner x.handle g.toNat).2
          exec (.refetchComplete r g false) s = .next ((((s.mem.took.filter (fun e => e.2 == dpa / 4096)).map (fun e => e.1)).foldl
            (fun u c => u.modCore c (fun k => { k with rebuild := true, oldSite := u.rd F.idSite 0 c })) u).sharedEvent r.val x dpa 1).flush)))

/-- The supply warning, its clear, the brown-out and its release. For every state and input voltage: a warning at or above
VWARN_TH changes nothing; below it, with the module fed and the latch clear, VWARN is set, VWARN_N driven low, the lowest sample
noted, one dip counted and a supply event of cause 1 given (the supply then looked at for the eleventh dip of 60 s); with the
latch set the dip alone counts. A clear with the latch clear, in a brown-out or less than 1.0 V above the threshold changes
nothing; else VWARN is cleared, VWARN_N rises, the restore of four boundaries begins and the event of cause 2 goes out. A
brown-out below VRST_TH, once, holds every latched limit at 8, gives the event of cause 5 and raises reset source 2, warm; its
release, 1.0 V above VWARN_TH, clears the warning without an event and the restore begins. (16_power_thermal.md, 17_reset_and_startup.md) -/
def Obligations.SupplyAndBrownOut : Prop :=
  ∀ (v : BitVec 16) (s : State),
    let vN := fun (b : Bool) (t : State) => ({ t with rst := { t.rst with vwarnN := b } } : State)
    let clear := (vN true ((s.wr F.pwrVwarn 0).modPower (fun w => { w with rSupply := 4 }))).showRestore
    ((s.rst.powered = false ∨ 100 * s.rd F.pwrVwarnTh ≤ v.toNat) → exec (.supplyWarning v) s = .next s.flush) ∧
    (s.rst.powered = true → v.toNat < 100 * s.rd F.pwrVwarnTh → s.rd F.pwrVwarn = 0 → exec (.supplyWarning v) s =
      .next (((vN false ((s.wr F.pwrVwarn 1).modPower (fun w => { w with vlow := v.toNat }))).dip.supplyEvent 1).unstableLook).flush) ∧
    (s.rst.powered = true → v.toNat < 100 * s.rd F.pwrVwarnTh → s.rd F.pwrVwarn = 1 → exec (.supplyWarning v) s =
      .next (((s.modPower (fun w => { w with vlow := Nat.min w.vlow v.toNat })).dip).unstableLook).flush) ∧
    ((s.rd F.pwrVwarn = 0 ∨ s.rst.brown = true ∨ v.toNat < 100 * (s.rd F.pwrVwarnTh + 10)) →
      exec (.supplyWarningClear v) s = .next s.flush) ∧
    (s.rd F.pwrVwarn = 1 → s.rst.brown = false → 100 * (s.rd F.pwrVwarnTh + 10) ≤ v.toNat →
      exec (.supplyWarningClear v) s = .next (clear.supplyEvent 2).flush) ∧
    ((100 * s.rd F.pwrVrstTh ≤ v.toNat ∨ s.rst.brown = true ∨ s.rst.powered = false) → exec (.brownOut v) s = .next s.closed) ∧
    (v.toNat < 100 * s.rd F.pwrVrstTh → s.rst.brown = false → s.rst.powered = true → exec (.brownOut v) s =
      .next ((((s.modRst (fun r => { r with brown := true })).latchAll8).supplyEvent 5).raise 2 false).closed) ∧
    (s.rst.brown = true → 100 * (s.rd F.pwrVwarnTh + 10) ≤ v.toNat → ∃ u : State, exec (.brownOutRelease v) s = .next u.flush ∧
      u.rst.brown = false ∧ u.rst.vwarnN = true ∧ u.power.rSupply = 4 ∧ u.rd F.pwrVwarn = 0 ∧ u.out = s.out) ∧
    ((s.rst.brown = false ∨ v.toNat < 100 * (s.rd F.pwrVwarnTh + 10)) → exec (.brownOutRelease v) s = .next s.flush)

/-- After a supply clear the latched issue limits rise by 14 a boundary, and RESTORE counts the boundaries that remain. In every
state whose grants stand at 64 or below (CAP_COMPUTE leaves no other): a clear that is taken leaves four boundaries of restore,
and RESTORE at 4 (a restore of a critical temperature never has more). At the j-th boundary after it (j from 1 to 4, the
supply's restore standing at 5 - j), the latching leaves no core a latched limit above 8 + 14 j, that is 22, 36, 50 and 64;
while the warning is clear the restore then stands at 4 - j, and so does RESTORE where no restore of a critical temperature
runs. (R584) -/
def Obligations.RestoreAfterSupplyClear : Prop :=
  (∀ (v : BitVec 16) (s : State), s.rd F.pwrVwarn = 1 → s.rst.brown = false → 100 * (s.rd F.pwrVwarnTh + 10) ≤ v.toNat →
    ∃ t, exec (.supplyWarningClear v) s = .next t ∧ t.power.rSupply = 4 ∧ (s.power.rCrit ≤ 4 → t.rd F.pwrRestore = 4)) ∧
  (∀ (s : State) (c j : Nat), c < 288 → 1 ≤ j → j ≤ 4 → s.power.rSupply = 5 - j → s.rd F.pwrVwarn = 0 → (∀ e ∈ s.power.next, e.2 ≤ 64) →
    s.latchLimits.latchedLimit c ≤ 8 + 14 * j ∧ s.latchLimits.power.rSupply = 4 - j ∧
    (s.power.rCrit = 0 → s.latchLimits.rd F.pwrRestore = 4 - j)) ∧
  (∀ s : State, s.rst.stage = 5 → ∃ t, exec .capCompute s = .next t ∧ ∀ e ∈ t.power.next, e.2 ≤ 64)

/-- The effective cap is PCAP, or nine tenths of it rounded down while the supply is unstable, and CAP_EFF reports it. For every
state: a CAP_COMPUTE of a module out of reset answers a state whose CAP_EFF reads PCAP while SUP_UNST is 0, and floor(0.9 PCAP)
while it is 1; the same holds of the state that sets or clears SUP_UNST (the eleventh dip, and SUPPLY_FLAG_CLEAR through a
claimed session), and the budget that CAP_COMPUTE grants from is the effective cap. PCAP and SUP_UNST themselves stand as they
were. (R588) -/
def Obligations.EffectiveCap : Prop :=
  (∀ s : State, s.rst.stage = 5 → s.rd F.pwrPcap < 2 ^ F.pwrPcap.w → ∃ t, exec .capCompute s = .next t ∧
    t.rd F.pwrCapEff = (if s.rd F.pwrSupUnst = 1 then 9 * s.rd F.pwrPcap / 10 else s.rd F.pwrPcap) ∧
    t.rd F.pwrPcap = s.rd F.pwrPcap ∧ t.rd F.pwrSupUnst = s.rd F.pwrSupUnst) ∧
  (∀ s : State, 10 < s.power.dips.length → s.rd F.pwrSupUnst = 0 → s.rd F.pwrPcap < 2 ^ F.pwrPcap.w →
    s.unstableLook.rd F.pwrSupUnst = 1 ∧ s.unstableLook.rd F.pwrCapEff = 9 * s.rd F.pwrPcap / 10) ∧
  (∀ s : State, s.rd F.pwrSupUnst = 1 → s.rd F.pwrPcap < 2 ^ F.pwrPcap.w →
    s.supplyFlagClear.rd F.pwrSupUnst = 0 ∧ s.supplyFlagClear.rd F.pwrCapEff = s.rd F.pwrPcap)

/-- CAP_COMPUTE grants no core more than its preference, its zone and the restore allow, nor less than 8, and WARNING holds all
at 8. For every state out of reset, CAP_COMPUTE answers a next state in which every core granted is an active one, and its limit
lies from 8 to the larger of 8 and the least of 64, its zone's thermal limit and the restore's ceiling; out of stage 5 it
changes nothing. In every state, the issue limit of a core is at most its latched limit and its zone's, and at most 8 while
VWARN is set; and with a critical temperature or a brown-out the latching leaves every core at 8. (16_power_thermal.md, 08_memory.md, 04_matrix_engine.md) -/
def Obligations.GrantsStayWithinTheLimits : Prop :=
  (∀ s : State, s.rst.stage ≠ 5 → exec .capCompute s = .next s.flush) ∧
  (∀ s : State, s.rst.stage = 5 → ∃ t, exec .capCompute s = .next t ∧
    ∀ e ∈ t.power.next, e.1 ∈ s.activeCores ∧ 8 ≤ e.2 ∧ e.2 ≤ Nat.max 8 (Nat.min 64 (Nat.min (s.zoneLimit (s.dieOf e.1)) s.restoreCeiling))) ∧
  (∀ (s : State) (c : Nat), s.issueLimit c ≤ s.latchedLimit c ∧ s.issueLimit c ≤ s.zoneLimit (s.dieOf c) ∧
    (s.rd F.pwrVwarn = 1 → s.issueLimit c ≤ 8)) ∧
  (∀ (s : State) (c : Nat), c < 288 → (s.rd F.pwrTcrit = 1 ∨ s.rst.brown = true) → s.latchLimits.latchedLimit c = 8)

/-- A round of sensor readings, the begin and end of a critical temperature, and the thermal trip. For every state and round:
with the input present SENSOR_READ sets VIN and IIN, each zone's ZTEMP to its hottest sensor and its maximum, each stack's TEMP
to its hottest die and REFRESH to 2 from 95, 1 from 85, else 0; without input nothing changes. When a zone reads 110 or a stack
105, TCRIT is set, every latched limit becomes 8, THERM_N goes low and a thermal event of cause 3 names the first such zone;
below both nothing follows. CRITICAL_TEMPERATURE_END acts only while TCRIT is set and every zone is below 106 and stack below
101: TCRIT is cleared, THERM_N rises, a restore of four boundaries begins and the event of cause 4 names the hottest zone.
THERMAL_TRIP below 120 (a stack 110), unpowered or in Off changes nothing; else the module is Off, MOD_PWRGD and THERM_N low,
the trip kept for the reset event. (08_memory.md, 16_power_thermal.md) -/
def Obligations.SensorsAndCriticalTemperature : Prop :=
  (∀ (r : List Int) (v i : BitVec 16) (s : State), s.rst.powered = false → exec (.sensorRead r v i) s = .next s.flush) ∧
  (∀ (r : List Int) (v i : BitVec 16) (s : State), s.rst.powered = true → ∃ t, exec (.sensorRead r v i) s = .next t ∧
    t.rd F.pwrVin = v.toNat ∧ t.rd F.pwrIin = i.toNat ∧
    (∀ d, d < 8 → t.rd F.pwrZtemp 0 d = s.hottest r (dieSensors d) ∧
      (s.rd F.pwrZtempMax 0 d < 256 → t.rd F.pwrZtempMax 0 d = Nat.max (s.hottest r (dieSensors d)) (s.rd F.pwrZtempMax 0 d))) ∧
    (∀ h, h < 2 → t.rd F.pwrZtemp 0 (8 + h) = s.hottest r (hubSensors h)) ∧
    (∀ n, n < 24 → t.rd F.memTemp 0 n = s.hottest r (stackSensors n) ∧
      t.rd F.memRefresh 0 n = (if 95 ≤ s.hottest r (stackSensors n) then 2 else if 85 ≤ s.hottest r (stackSensors n) then 1 else 0)) ∧
    ((∃ d, d < 8 ∧ 110 ≤ s.hottest r (dieSensors d)) → t.rd F.pwrTcrit = 1)) ∧
  (∀ s : State, (s.rd F.pwrTcrit = 1 ∨ s.zoneAt 110 105 = none) → s.criticalLook = s) ∧
  (∀ (s : State) (z x k : Nat), s.rd F.pwrTcrit = 0 → s.zoneAt 110 105 = some (z, x, k) → s.criticalLook =
    (let t := (s.wr F.pwrTcrit 1).latchAll8
     let u : State := { t with rst := { t.rst with thermN := false } }
     u.thermalEvent z 3 (u.shownLimit z) 8)) ∧
  (∀ s : State, (s.rd F.pwrTcrit = 0 ∨ s.critical 4 = true) → exec .criticalTemperatureEnd s = .next s.flush) ∧
  (∀ s : State, s.rd F.pwrTcrit = 1 → s.critical 4 = false → ∃ t z, exec .criticalTemperatureEnd s = .next t ∧ z < 10 ∧
    (∀ y, y < 10 → s.rd F.pwrZtemp 0 y ≤ s.rd F.pwrZtemp 0 z) ∧
    (let u := ((s.wr F.pwrTcrit 0).modPower (fun w => { w with rCrit := 4 })).showRestore
     let u : State := { u with rst := { u.rst with thermN := true } }
     t = (u.thermalEvent z 4 8 (u.shownLimit z)).flush)) ∧
  (∀ s : State, (s.zoneAt 120 110 = none ∨ s.rst.powered = false ∨ s.rst.off = true) → exec .thermalTrip s = .next s.flush) ∧
  (∀ (s : State) (x : Nat × Nat × Nat), s.zoneAt 120 110 = some x → s.rst.powered = true → s.rst.off = false →
    ∃ t, exec .thermalTrip s = .next t ∧ t.rst.off = true ∧ t.rst.pwrgd = false ∧ t.rst.thermN = false ∧ t.rst.trip = some x)

/-- A power excursion, and the entries of Idle and Still. For every state: POWER_EXCURSION at or below 1,600 W, or out of stage
5, changes nothing; above it every latched limit becomes 8 and EXC_CNT rises by one, with a power cap event of cause 1 unless
one went out since the last boundary. IDLE_ENTRY acts only in Run (MSTATE 0) with no work, none since the last boundary and
IDLE_TICKS quiet ticks: MSTATE becomes 1 with a power state event. STILL_ENTRY acts only in Idle with STILL_EN set, STILL_TICKS
ticks of Idle, no work and no lender promotion: it leaves the Mere empty, every stack in self-refresh, MSTATE 2, and every port
but the time unit's parked, its link down. (16_power_thermal.md) -/
def Obligations.ExcursionsAndOperatingStates : Prop :=
  (∀ (v : BitVec 16) (s : State), (v.toNat ≤ 1600 ∨ s.rst.stage ≠ 5) → exec (.powerExcursion v) s = .next s.flush) ∧
  (∀ (v : BitVec 16) (s : State), s.rst.stage = 5 → 1600 < v.toNat → exec (.powerExcursion v) s =
    .next (if s.power.fast = true then s.latchAll8.inc F.pwrExcCnt 1
      else ((s.latchAll8.inc F.pwrExcCnt 1).modPower (fun w => { w with fast := true })).capEvent 1 noPart).flush) ∧
  (∀ s : State,
    let may := s.rd F.pwrMstate = 0 ∧ s.busy = false ∧ s.power.worked = false ∧ s.rd F.pwrIdleTicks ≤ s.power.quiet
    (¬ may → exec .idleEntry s = .next s.flush) ∧
    (may → exec .idleEntry s =
      .next (((s.wr F.pwrMstate 1).modPower (fun w => { w with idleFor := 0 })).eventAll 0x2E [0, 1, 0, s.tick]).flush)) ∧
  (∀ s : State,
    let may := s.rd F.pwrMstate = 1 ∧ s.rd F.pwrStillEn = 1 ∧ s.rd F.pwrStillTicks ≤ s.power.idleFor ∧ s.busy = false ∧
      ∀ p ∈ s.liveParts, (s.part p).tier.lends = []
    (¬ may → exec .stillEntry s = .next s.closed) ∧
    (may → ∃ u : State, exec .stillEntry s = .next u.closed ∧ u.rd F.pwrMstate = 2 ∧ u.mem.mere = [] ∧
      (∀ n, n < 24 → (u.stack n).selfRefresh = true) ∧
      ∀ n, n < 8 → n ≠ s.rd F.cadPortNow → u.rd F.npParked n = 1 ∧ (s.rd F.npParked n ≠ 1 → u.rd F.npLink n = 0)))

/-- What raises a reset: the pin, the watchdog, the debug unit, a clock, a lock-up and SWRST, each with its number and kind. For
every state s with its input present: MOD_RESET_N low notes the pin and raises source 3, warm; still low at 100 ms it raises 3,
cold; risen, it only lifts its hold; the watchdog raises 4, DBGRST 6 while a debug window is open, a clock failure 7, and a
lock-up 8 once LOCK_TICKS boundaries without progress have passed with LOCK_EN set, all warm. Where the condition does not hold
(pin high, no window, LOCK_EN 0 or too few ticks, no input) nothing is raised. A source raised in stage 5 begins a reset that it
names; joined to one under way it adds its bit to the sources seen, and a cold one turns a warm reset cold with ESCAL; in Off
only a cold source acts. Records produced before it reach their rings first. (17_reset_and_startup.md) -/
def Obligations.ResetSources : Prop :=
  (∀ s : State, s.rst.powered = true →
    exec (.modResetAssert true) s = .next ((s.modRst (fun r => { r with pinLow := true })).raise 3 false).closed ∧
    exec (.modResetAssert false) s = .next (s.modRst (fun r => { r with pinLow := false })).closed ∧
    (s.rst.pinLow = true → exec .modResetCold s = .next (s.raise 3 true).closed) ∧
    (s.rst.pinLow = false → exec .modResetCold s = .next s.closed) ∧
    exec .watchdogExpiry s = .next (s.raise 4 false).closed ∧
    (s.rd F.idDbgOpen = 1 → exec .dbgrst s = .next (s.raise 6 false).closed) ∧
    (s.rd F.idDbgOpen = 0 → exec .dbgrst s = .next s.closed) ∧
    exec .clockFailure s = .next (s.raise 7 false).closed ∧
    (s.rd F.rstLockEn = 1 → s.rd F.rstLockTicks ≤ s.rst.stuck →
      exec .lockUp s = .next ((s.modRst (fun r => { r with stuck := 0 })).raise 8 false).closed) ∧
    ((s.rd F.rstLockEn = 0 ∨ s.rst.stuck < s.rd F.rstLockTicks) → exec .lockUp s = .next s.closed)) ∧
  (∀ s : State, s.rst.powered = false → exec .watchdogExpiry s = .next s.closed ∧ exec .clockFailure s = .next s.closed) ∧
  (∀ (s : State) (src : Nat) (cold : Bool), s.rst.off = false → s.rst.stage = 5 → s.raise src cold =
    (s.flush.modRst (fun r => { r with cold := cold, src := src, seen := 2 ^ (src - 1), escal := false })).assert) ∧
  (∀ (s : State) (src : Nat), s.rst.off = true → s.raise src false = s.flush ∧ s.raise src true =
    (s.flush.modRst (fun r => { r with cold := true, src := src, seen := 2 ^ (src - 1), escal := false })).assert) ∧
  (∀ (s : State) (src : Nat), s.rst.off = false → s.rst.stage = 0 → s.rst.cold = false →
    (s.raise src false).rst.seen = s.rst.seen ||| 2 ^ (src - 1) ∧ (s.raise src false).rst.cold = false ∧
    (s.raise src true).rst.escal = true ∧ (s.raise src true).rst.cold = true)

/-- What the assertion of a cold reset keeps, and how a warm one leaves block resets and power limits. For every state whose
reset is being asserted: a cold one raises COLD_CNT by one (as far as its field holds) and the stage becomes 0; the SVN fuses,
the image number, the claim, the set-up port and every port's MAC address read as before, as do the dies' marks; the repair
lists, hard repairs, credentials, firmware images and calibration set stand; device memory lists no cell, the Mere no line, no
poison and no ring is left. A warm one ends every block reset (no block is in reset, and the four status registers read 0), puts
MSTATE back to 0 and every limit of the power controller and of the zones back to 64. (17_reset_and_startup.md) -/
def Obligations.WhatResetsKeep : Prop :=
  (∀ s : State, s.rst.cold = true →
    let t := s.assert
    t.rd F.rstColdCnt = Nat.min (s.rd F.rstColdCnt + 1) (2 ^ 32 - 1) ∧ t.rst.stage = 0 ∧
    t.rd F.idFuseSvn = s.rd F.idFuseSvn % 2 ^ F.idFuseSvn.w ∧ t.rd F.idImage = s.rd F.idImage % 2 ^ F.idImage.w ∧
    t.rd F.idClaimed = s.rd F.idClaimed % 2 ^ F.idClaimed.w ∧ t.rd F.hpSetupPt = s.rd F.hpSetupPt % 2 ^ F.hpSetupPt.w ∧
    (∀ n, n < 8 → t.rd F.npMacL n = s.rd F.npMacL n % 2 ^ F.npMacL.w ∧ t.rd F.npMacH n = s.rd F.npMacH n % 2 ^ F.npMacH.w) ∧
    (∀ n, n < 24 → t.rd F.memMark0 0 n = s.rd F.memMark0 0 n % 2 ^ F.memMark0.w ∧
      t.rd F.memMark1 0 n = s.rd F.memMark1 0 n % 2 ^ F.memMark1.w) ∧
    (∀ n, (t.stack n).repairList = (s.stack n).repairList ∧ (t.stack n).hardRepairs = (s.stack n).hardRepairs) ∧
    t.mgmt.creds = s.mgmt.creds ∧ t.mgmt.images = s.mgmt.images ∧ t.mgmt.cal = s.mgmt.cal ∧
    t.mem.dram = [] ∧ t.mem.mere = [] ∧ t.mem.poison = [] ∧ t.host.rings = []) ∧
  (∀ s : State, s.rst.cold = false →
    let t := s.assert
    t.rst.blocks = [] ∧ (∀ i, i < 9 → t.rd F.rstCoreInr 0 i = 0) ∧ t.rd F.rstFabInr = 0 ∧ t.rd F.rstMemcInr = 0 ∧
    t.rd F.rstEngInr = 0 ∧ t.rd F.pwrMstate = 0 ∧ (∀ c, t.latchedLimit c = 64) ∧ ∀ d, t.dieLimit d = 64 ∧ t.memLimit d = 64)

/-- The input's arrival and loss, the charged bulk, the input switch and the rails. For every state: POWER_ON of a module
without input whose switch is not held open begins a cold reset that counts source 1 among those seen; else it changes nothing.
BULK_CHARGED, with the input present, is noted. INPUT_LOSS of a powered module loses everything but flash and fuses and leaves
it unpowered, in assertion, a reset under way turned cold with ESCAL where it was warm; of an unpowered one it lets the switch
close. INPUT_SWITCH_OPEN of a powered module is such a loss, and holds cause and peak for the reset event and the switch open.
RAIL_OUT_OF_REGULATION drops MOD_PWRGD; the rails back raise it only while the sequencer has them on.
(16_power_thermal.md, 17_reset_and_startup.md, 18_module_hardware.md) -/
def Obligations.PowerAndInput : Prop :=
  ∀ s : State,
    ((s.rst.powered = true ∨ s.rst.switchOpen = true) → exec .powerOn s = .next s.flush) ∧
    (s.rst.powered = false → s.rst.switchOpen = false → exec .powerOn s = .next (s.modRst (fun r => { r with
      powered := true, cold := true, seen := r.seen ||| 1, src := if r.src = 0 then 1 else r.src })).assert.flush) ∧
    (s.rst.powered = true → exec .bulkCharged s = .next (s.modRst (fun r => { r with charged := true })).flush) ∧
    (s.rst.powered = false → exec .bulkCharged s = .next s.flush) ∧
    (s.rst.powered = true → ∃ t, exec .inputLoss s = .next t ∧ t.rst.powered = false ∧ t.rst.charged = false ∧ t.rst.pwrgd = false ∧
      t.rst.stage = 0 ∧ t.rst.cold = true ∧ t.mem.dram = [] ∧
      (s.rst.stage ≠ 5 → s.rst.off = false → s.rst.cold = false → t.rst.escal = true)) ∧
    (s.rst.powered = false → exec .inputLoss s = .next (s.modRst (fun r => { r with switchOpen := false })).flush) ∧
    (∀ (cause : Fin 2) (peak : BitVec 16), (s.rst.powered = true → ∃ t, exec (.inputSwitchOpen cause peak) s = .next t ∧
        t.rst.powered = false ∧ t.rst.switchOpen = true ∧ t.rst.switched = some (cause.val + 1, peak.toNat)) ∧
      (s.rst.powered = false → exec (.inputSwitchOpen cause peak) s = .next s.flush)) ∧
    exec (.railOutOfRegulation true) s = .next (s.modRst (fun r => { r with pwrgd := false })).flush ∧
    exec (.railOutOfRegulation false) s = .next (if s.rst.powered = true ∧ s.rst.off = false ∧ 1 ≤ s.rst.stage then
      s.modRst (fun r => { r with pwrgd := true }) else s).flush

/-- The steps of a reset from the memory domain's assertion to step 9, each taken only in its turn. For every state s: in a warm
assertion (stage 0, input present, memory not yet in), MEMORY_DOMAIN_ASSERT writes the Mere back, puts every stack into
self-refresh and notes it, and SELF_REFRESH_TIMEOUT instead asserts a cold reset with ESCAL; else neither changes anything.
RESET_RELEASE acts only in assertion with input, charged bulk, no brown-out, the pin high and memory in: stage 1. With the
module in no recovery and not Off, DOMAIN_RELEASE goes from stage 1 to 2, from 2 to 3 with the soft repair of every CAM entry (a
cold reset drawing the firmware and region keys), from 3 to 4 with the reset event first of all records, from 4 to 5 with what
the network domain does; in stage 5 nothing. DEVICE_MEMORY_ZEROED acts once, in stage 5: device memory reads fresh, each
teardown cut short gets its scrub record, the module is ready, and telemetry begins. A warm scrub's completion, of one begun,
gives its record and event. (17_reset_and_startup.md, 15_partitions_security.md) -/
def Obligations.ResetSequence : Prop :=
  (∀ s : State,
    let may := s.rst.stage = 0 ∧ s.rst.cold = false ∧ s.rst.memIn = false ∧ s.rst.powered = true
    (¬ may → exec .memoryDomainAssert s = .next s.flush ∧ exec .selfRefreshTimeout s = .next s.closed) ∧
    (may → exec .selfRefreshTimeout s = .next (s.modRst (fun r => { r with cold := true, escal := true })).assert.closed ∧
      ∃ t, exec .memoryDomainAssert s = .next t ∧ t.mem.mere = [] ∧ t.rst.memIn = true ∧ ∀ n, n < 24 → (t.stack n).selfRefresh = true)) ∧
  (∀ s : State,
    let may := s.rst.stage = 0 ∧ s.rst.powered = true ∧ s.rst.charged = true ∧ s.rst.brown = false ∧ s.rst.pinLow = false ∧
      s.rst.memIn = true
    (¬ may → exec .resetRelease s = .next s.flush) ∧
    (may → ∃ t, exec .resetRelease s = .next t ∧ t.rst.stage = 1 ∧ t.rst.pwrgd = true)) ∧
  (∀ (us : Word) (s : State), s.rst.off = false → s.rst.recovery = false → s.rst.powered = true →
    (s.rst.stage = 1 → exec (.domainRelease us) s = .next (s.modRst (fun r => { r with stage := 2 })).closed) ∧
    (s.rst.stage = 2 → exec (.domainRelease us) s = .next ((List.range 24).foldl (fun t n => t.camRepair n)
      ((if s.rst.cold = true then s.coldKeys else s).modRst (fun r => { r with stage := 3, memIn := false }))).closed) ∧
    (s.coldKeys.mem.keyDraw = s.freeCtr + 1 ∧ s.coldKeys.freeCtr = s.freeCtr + 1) ∧
    (s.rst.stage = 3 → exec (.domainRelease us) s = .next (s.hostRelease us.toNat).closed ∧ ∃ x l,
      (s.resetEvent us.toNat).out = ⟨.port 0, x⟩ :: ⟨.port 1, x⟩ :: l ∧ l = s.out) ∧
    (s.rst.stage = 4 → exec (.domainRelease us) s = .next s.netRelease.closed) ∧
    ((s.rst.stage = 0 ∨ s.rst.stage = 5) → exec (.domainRelease us) s = .next s.closed)) ∧
  (∀ (us : Word) (s : State), (s.rst.off = true ∨ s.rst.recovery = true ∨ s.rst.powered = false) →
    exec (.domainRelease us) s = .next s.closed) ∧
  (∀ s : State, ((s.rst.ready = true ∨ s.rst.stage ≠ 5) → exec .deviceMemoryZeroed s = .next s.flush) ∧
    (s.rst.ready = false → s.rst.stage = 5 → ∃ t, exec .deviceMemoryZeroed s = .next t ∧ t.rst.ready = true ∧ t.mem.dram = [] ∧
      t.mem.written = [] ∧ t.mem.mere = [] ∧ t.mgmt.cut = [])) ∧
  (∀ (p : PartId) (s : State), tget? s.mgmt.warmScrubs p.val = none → exec (.warmResetScrubComplete p) s = .next s.flush) ∧
  (∀ (p : PartId) (s : State) (b : Nat), tget? s.mgmt.warmScrubs p.val = some b → s.heldStacks = [] →
    let c := s.cutOf p.val b
    let t := s.modMgmt (fun m => { m with warmScrubs := tdel m.warmScrubs p.val })
    exec (.warmResetScrubComplete p) s = .next (((t.scrubItems p.val []).issueScrub c 2 false (t.extentBytes c.extents []) 0x3F).partEvent
      p.val 5 0 (2 * b2n c.conf)).flush)

/-- Block resets: who may ask, what each block does, the end of a drain and the release. For every block reset written while its
host port is up: through a port other than the set-up port it is clamped (0x0E09, reason 6) and begins nothing; through the
set-up port the block begins its reset by State.blockBegin: a block already in reset changes nothing, a second fabric stop is
refused with a block reset event of cause 2, a stack in repair access waits, a stack's lines are written back and its requests
return, a core's and a fabric stop's queues return or finish what they hold, a network port drops its link, a host port is
reset, a time unit hands over, and an engine shows its bit and drains. Through a port that is down nothing happens.
ENGINE_DRAIN_END and BLOCK_RESET_RELEASE of a block not in reset change nothing; a drained engine's release, like any block's
that may be released, clears its bit, leaves the list, resumes its queues and gives a block reset event of cause 1 with the
descriptors ended and the time. (17_reset_and_startup.md) -/
def Obligations.BlockResets : Prop :=
  (∀ (q k : HostPort) (c : CoreId) (i : Fin 12) (n : StackId) (m : NetPort) (h : Fin 2) (s : State),
    let asks : List (Instr × Nat × Nat) := [(.coreReset q c, bkCore, c.val), (.fabricStopReset q i, bkFab, i.val),
      (.memoryControllerReset q n, bkMemc, n.val), (.hostPortReset q k, bkHost, k.val), (.intakeEngineReset q h, bkIntake, h.val),
      (.dispatchEngineReset q h, bkDisp, h.val + 2), (.tierEngineReset q h, bkTier, h.val), (.checkpointEngineReset q h, bkCkpt, h.val),
      (.sha3EngineReset q h, bkSha3, h.val), (.timeUnitReset q h, bkTime, h.val + 2)]
    let clamp := fun (b j : Nat) => s.clampReg q.val none 6 0x0E09 ((rstOf b j).1.addr 0 (rstOf b j).2.1) (2 ^ (rstOf b j).2.2) 0
    (s.hostUp q.val = false → (∀ e ∈ asks, exec e.1 s = .next s.flush) ∧ exec (.networkPortReset q m) s = .next s.closed) ∧
    (s.hostUp q.val = true → q.val ≠ s.setupPort → (∀ e ∈ asks, exec e.1 s = .next (clamp e.2.1 e.2.2).flush) ∧
      exec (.networkPortReset q m) s = .next (clamp bkNet m.val).closed) ∧
    (s.hostUp q.val = true → q.val = s.setupPort → (∀ e ∈ asks, exec e.1 s = .next (s.blockBegin e.2.1 e.2.2).flush) ∧
      exec (.networkPortReset q m) s = .next (s.blockBegin bkNet m.val).closed)) ∧
  (∀ (s : State) (b i : Nat), s.blockIn b i = true → s.blockBegin b i = s) ∧
  (∀ (s : State) (i : Nat), s.blockIn bkFab i = false → s.rd F.rstFabInr ≠ 0 → s.blockBegin bkFab i = s.blockEvent bkFab i 2 0 0) ∧
  (∀ (s : State) (b i : Nat), s.blockIn b i = false → b ≠ bkFab ∨ s.rd F.rstFabInr = 0 →
    s.blockBegin b i = (s.modRst (fun r => { r with blocks := tput r.blocks (blockKey b i) ⟨false, 0⟩ })).blockStart b i) ∧
  (∀ (s : State) (i : Nat), (s.blockStart bkMemc i = if (s.stack i).access = true then s else s.memcReset i) ∧
    s.blockStart bkCore i = (s.setInr bkCore i true).queuesReset bkCore i ∧
    s.blockStart bkFab i = (s.setInr bkFab i true).queuesReset bkFab i ∧ s.blockStart bkNet i = (s.setInr bkNet i true).linkDown i ∧
    s.blockStart bkHost i = (s.setInr bkHost i true).portReset i 8 ∧ s.blockStart bkTime i = (s.setInr bkTime i true).timeReset (i - 2) ∧
    ∀ b, bkIntake ≤ b → b ≤ bkSha3 → s.blockStart b i = s.setInr b i true) ∧
  (∀ (k : Fin 22) (s : State), (s.blockIn (engOf k.val).1 (engOf k.val).2 = false → exec (.engineDrainEnd k) s = .next s.closed) ∧
    (∀ x, tget? s.rst.blocks (blockKey bkIntake 0) = some x → x.drained = false →
      exec (.engineDrainEnd 10) s = .next (((s.drainIntake 0).queuesReset bkIntake 0).modRst (fun r => { r with
        blocks := tput r.blocks (blockKey bkIntake 0) ⟨true, s.owedCount - (s.drainIntake 0).owedCount⟩ })).closed)) ∧
  (∀ (c : Fin 288) (s : State), s.queuesReset bkCore c.val = ((s.queueConsumerReset 2 c.val).queueConsumerReset 3 c.val).queueProducerReset 4 c.val ∧
    s.queuesResume bkCore c.val = ((s.queueRelease 2 c.val).queueRelease 3 c.val).queueRelease 4 c.val) ∧
  (∀ (b : Fin 12) (i : Fin 288) (us : Word) (s : State),
    (s.blockIn b.val i.val = false → exec (.blockResetRelease b i us) s = .next s.closed) ∧
    (∀ x, tget? s.rst.blocks (blockKey b.val i.val) = some x → s.blockMay b.val i.val x = false →
      exec (.blockResetRelease b i us) s = .next s.closed) ∧
    (∀ x, tget? s.rst.blocks (blockKey b.val i.val) = some x → s.blockMay b.val i.val x = true →
      bkIntake ≤ b.val → b.val ≤ bkSha3 →
      (let t := ((s.setInr b.val i.val false).modRst (fun r => { r with blocks := tdel r.blocks (blockKey b.val i.val) })).queuesResume b.val i.val
       let u := if b.val = bkTier then t.tierIssueAll else t
       exec (.blockResetRelease b i us) s = .next ((u.blockEvent b.val i.val 1 x.ended us.toNat).waitingLook).closed)))

/-- The life of a tier object: created, written, sealed, retired, queried and freed. For every descriptor that starts at once
and lacks no granule of an object: OBJECT_CREATE whose image can be read, of a free slot below OBJ_MAX and an image in its
ranges, leaves a building object in the slot with its generation, the handle written behind the image and OBJ_USED counted, and
completes; an unreadable image is a reported no-op; a slot at or past OBJ_MAX or in use, or a bad image, is a null resource. A
write, seal, retire or query of a handle that names no object is a null resource. A write past the object's end is cut to fit,
with a clamp 0x0506; one whose source faults ends with 0x05, or is poisoned with 0x03; else it goes to the backing and completes
once no message of it is out, with 0x03 where a copy's channel is not open. A write or a seal of an object not building or whose
seal waits, and a retirement of one not sealed, end with STATUS 0x02. A seal of a building object with no write pending seals
it, telling the lenders of a neighbour object, and completes; with writes pending it waits. A retirement of a sealed object
makes it retiring. A query writes the object's image. OBJECT_FREE frees a retiring object that nothing holds, its generation
raised and its retirement completed, or, where a demotion retired it, makes it a building object again and names it so in its
promotion entry; of any other slot it changes nothing. (09_tiers_and_weights.md) -/
def Obligations.TierObjects : Prop :=
  (∀ (s : State) (d : Desc) (r : DRef) (t u : State), s.starts 0x20 d r t → t.descRead r.part (d.at 24 64) 128 = (none, u) →
    let y : State := (u.noop r)
    y.atHand (.desc r) → exec (.objectCreate d) s = .next (y.ran (.desc r)).closed) ∧
  (∀ (s : State) (d : Desc) (r : DRef) (t u : State) (bs : List Byte), s.starts 0x20 d r t →
    t.descRead r.part (d.at 24 64) 128 = (some bs, u) →
    let slot := d.fld 0 12
    let old := tget? (u.part r.part).tier.objs slot
    let gen := (old.map (fun o => o.gen)).getD 0
    let o := objOf (leNat bs) gen
    let ok := slot < u.rd F.pObjMax r.part ∧ (∀ x, old = some x → x.state = 0) ∧ u.imageOk r.part (leNat bs) o = true
    (¬ ok →
      let y : State := (u.nullDesc r tierNull slot)
      y.atHand (.desc r) → exec (.objectCreate d) s = .next (y.ran (.desc r)).closed) ∧
    (ok → let v := u.modTier r.part (fun y => { y with objs := tput y.objs slot o })
      let y : State := ((((v.writePva (v.engCtx r.part engDesc) (d.at 24 64 + 124) (leBytes 4 (objHandle slot gen))
        false).2).countObjs r.part).done r)
      y.atHand (.desc r) → exec (.objectCreate d) s = .next (y.ran (.desc r)).closed)) ∧
  (∀ (s : State) (d : Desc) (r : DRef) (t : State), s.starts 0x21 d r t → t.obj? r.part (d.at 16 32) = none →
    let y : State := (t.nullDesc r tierNull (d.at 16 32))
    y.atHand (.desc r) → exec (.objectWrite d) s = .next (y.ran (.desc r)).closed) ∧
  (∀ (s : State) (d : Desc) (r : DRef) (t : State) (o : Obj), s.starts 0x21 d r t → t.obj? r.part (d.at 16 32) = some o →
    (o.state ≠ 1 ∨ o.sealer.isSome = true →
      let y : State := (t.wrongState r (d.at 16 32))
      y.atHand (.desc r) → exec (.objectWrite d) s = .next (y.ran (.desc r)).closed) ∧
    (o.state = 1 → o.sealer = none →
      let fit := Nat.min (d.at 32 64) (o.length - d.at 24 64)
      let t' := if fit < d.at 32 64 then t.clampDesc r 2 0x0506 (d.at 32 64) fit else t
      let r' : DRef := { r with clamped := r.clamped || decide (fit < d.at 32 64) }
      let x := t'.readPva (t'.engCtx r.part engTier) (d.at 40 64) fit
      (x.1.fault = true →
      let y : State := (x.2.complete r' 5 false 0)
      y.atHand (.desc r) → exec (.objectWrite d) s = .next (y.ran (.desc r)).closed) ∧
      (x.1.fault = false → x.1.poison = true →
      let y : State := (x.2.complete r' 3 false 0)
      y.atHand (.desc r) → exec (.objectWrite d) s = .next (y.ran (.desc r)).closed) ∧
      (x.1.fault = false → x.1.poison = false →
        let w := (x.2.modObj r.part (hSlot (d.at 16 32)) (fun o => { o with pendingWrites := o.pendingWrites ++ [r'] })).writeBacking
          r.part (d.at 16 32) o (d.at 24 64) x.1.bytes (some r')
        let y : State := (if w.1 = false then w.2.endWrite r.part r' 3
          else if w.2.tiers.msgs.any (fun e => e.2.write == some r') then w.2 else w.2.endWrite r.part r' 0)
        y.atHand (.desc r) → exec (.objectWrite d) s = .next (y.ran (.desc r)).closed))) ∧
  (∀ (s : State) (d : Desc) (r : DRef) (t : State), s.starts 0x22 d r t →
    let h := d.at 16 32
    (t.obj? r.part h = none →
      let y : State := (t.nullDesc r tierNull h)
      y.atHand (.desc r) → exec (.objectSeal d) s = .next (y.ran (.desc r)).closed) ∧
    (∀ o, t.obj? r.part h = some o →
      (o.state ≠ 1 ∨ o.sealer.isSome = true →
      let y : State := (t.wrongState r h)
      y.atHand (.desc r) → exec (.objectSeal d) s = .next (y.ran (.desc r)).closed) ∧
      (o.state = 1 → o.sealer = none →
      let y : State := ((t.modObj r.part (hSlot h) (fun o => { o with sealer := some r })).trySeal r.part (hSlot h))
      y.atHand (.desc r) → exec (.objectSeal d) s = .next (y.ran (.desc r)).closed))) ∧
  (∀ (s : State) (p slot : Nat) (o : Obj) (r : DRef), tget? (s.part p).tier.objs slot = some o → o.sealer = some r →
    (o.pendingWrites ≠ [] → s.trySeal p slot = s) ∧
    (o.pendingWrites = [] → let v := (s.modObj p slot (fun o => { o with state := 2, sealer := none })).dropBuilds p (objHandle slot o.gen)
      s.trySeal p slot = (if o.tier = 2 then v.sealReplicas p o 4 else v).done r)) ∧
  (∀ (s : State) (d : Desc) (r : DRef) (t : State), s.starts 0x23 d r t →
    let h := d.at 16 32
    (t.obj? r.part h = none →
      let y : State := (t.nullDesc r tierNull h)
      y.atHand (.desc r) → exec (.objectRetire d) s = .next (y.ran (.desc r)).closed) ∧
    (∀ o, t.obj? r.part h = some o → o.state ≠ 2 →
      let y : State := (t.wrongState r h)
      y.atHand (.desc r) → exec (.objectRetire d) s = .next (y.ran (.desc r)).closed) ∧
    (∀ o, t.obj? r.part h = some o → o.state = 2 →
      let y : State := (t.modObj r.part (hSlot h) (fun o => { o with state := 3, retirer := some r }))
      y.atHand (.desc r) → exec (.objectRetire d) s = .next (y.ran (.desc r)).closed)) ∧
  (∀ (s : State) (d : Desc) (r : DRef) (t : State), s.starts 0x24 d r t →
    let h := d.at 16 32
    (t.obj? r.part h = none →
      let y : State := (t.nullDesc r tierNull h)
      y.atHand (.desc r) → exec (.objectQuery d) s = .next (y.ran (.desc r)).closed) ∧
    (∀ o, t.obj? r.part h = some o →
      let x := t.writePva (t.engCtx r.part engDesc) (d.at 24 64) (leBytes 128 (o.image (hSlot h))) false
      let y : State := (if x.1 then x.2.complete r 5 false 0 else x.2.done r)
      y.atHand (.desc r) → exec (.objectQuery d) s = .next (y.ran (.desc r)).closed)) ∧
  (∀ (p : PartId) (slot : Fin 4096) (s : State),
    (tget? (s.part p.val).tier.objs slot.val = none → exec (.objectFree p slot) s = .next s.flush) ∧
    (∀ o, tget? (s.part p.val).tier.objs slot.val = some o →
      (o.state ≠ 3 ∨ s.objHeld p.val (objHandle slot.val o.gen) o = true → exec (.objectFree p slot) s = .next s.flush) ∧
      (o.state = 3 → s.objHeld p.val (objHandle slot.val o.gen) o = false →
        let h := objHandle slot.val o.gen
        let g := (o.gen + 1) % 2 ^ 20
        let t := (s.setTiers (fun y => { y with gbuf := y.gbuf.filter (fun x => !(x.part == p.val && x.handle == h)) })).dropBuilds p.val h
        let t := if o.tier = 2 then t.sealReplicas p.val o 5 else t
        let v := (o.retirer.map (fun r => t.done r)).getD t
        (o.recreate = none → exec (.objectFree p slot) s = .next ((v.modObj p.val slot.val (fun _ =>
          { objOf 0 g with state := 0 })).countObjs p.val).flush) ∧
        (∀ n i, o.recreate = some (n, i) → exec (.objectFree p slot) s = .next (((v.modObj p.val slot.val (fun o =>
          { o with gen := g, state := 1, recreate := none, retirer := none, lastRead := none })).modEntry p.val n i
            (fun e => { e with objAlt := objHandle slot.val g })).writeEntry p.val n i).flush))))

/-- Tier copies, the granules that come from hosts and neighbours, failing reads and lenders' statuses. For every TIER_COPY that
starts at once and lacks no granule of an object: no such object is a null resource, an unsealed one ends with STATUS 0x02, a
range past its end is a null resource, an empty range completes at once, another begins a bulk read. A granule that comes for no
host object, or past its end, or for no read in flight while its tier engine drains or is held, is dropped (the partition's
checkpoint alone is looked at); another of a host object leaves the reads in flight, is counted, and in the clear goes to its
hub's buffer and to every read that waits for it. A granule that fails with a read of it in flight fails that read; with none it
is dropped. A failing host read with a second copy is asked of it once, with a tier event of cause 1; one with none, or that
failed there, is lost: counted, reported with cause 2, and its demand reads told. Neighbour data for no read in flight changes
nothing; data of a chunk serves its granules in order. A lender's status 0 of a chunk in flight changes nothing, and a failing
one is a failing read; a status of a message of this module ends it; one of no message changes nothing, unless the module lends
on the channel, when it answers. (09_tiers_and_weights.md, 13_continuity.md) -/
def Obligations.LowerTierReads : Prop :=
  (∀ (s : State) (d : Desc) (r : DRef) (t : State), s.starts 0x25 d r t →
    let h := d.at 16 32
    (t.obj? r.part h = none →
      let y : State := (t.nullDesc r tierNull h)
      y.atHand (.desc r) → exec (.tierCopy d) s = .next (y.ran (.desc r)).closed) ∧
    (∀ o, t.obj? r.part h = some o →
      (o.state ≠ 2 →
      let y : State := (t.wrongState r h)
      y.atHand (.desc r) → exec (.tierCopy d) s = .next (y.ran (.desc r)).closed) ∧
      (o.state = 2 → o.length < d.at 24 64 + d.at 32 64 →
      let y : State := (t.nullDesc r tierNull h)
      y.atHand (.desc r) → exec (.tierCopy d) s = .next (y.ran (.desc r)).closed) ∧
      (o.state = 2 → d.at 24 64 ≤ o.length → d.at 32 64 = 0 →
      let y : State := (t.done r)
      y.atHand (.desc r) → exec (.tierCopy d) s = .next (y.ran (.desc r)).closed) ∧
      (o.state = 2 → d.at 24 64 + d.at 32 64 ≤ o.length → d.at 32 64 ≠ 0 →
      let y : State := (t.tierStart r.part h (d.at 24 64) (d.at 32 64) (.copy r (d.at 40 64))).2
      y.atHand (.desc r) → exec (.tierCopy d) s = .next (y.ran (.desc r)).closed))) ∧
  (∀ (p : PartId) (h g : Word) (data : List Byte) (s : State),
    (s.obj? p.val h.toNat = none → exec (.granuleReadComplete p h g data) s = .next (s.ckptStep p.val).closed) ∧
    (∀ o, s.obj? p.val h.toNat = some o → (o.tier ≠ 1 ∨ o.length ≤ g.toNat * 4096) →
      exec (.granuleReadComplete p h g data) s = .next (s.ckptStep p.val).closed) ∧
    (∀ o, s.obj? p.val h.toNat = some o → o.tier = 1 → g.toNat * 4096 < o.length →
      let hit := s.tiers.reads.find? (fun r => r.part == p.val && r.handle == h.toNat && r.gran == g.toNat)
      let q := (hit.map (fun r => r.copy)).getD (s.granPort o g.toNat)
      (hit = none → s.tierHolds q = true → exec (.granuleReadComplete p h g data) s = .next (s.ckptStep p.val).closed) ∧
      (hit.isSome = true ∨ s.tierHolds q = false →
      let rest := s.tiers.reads.filter (fun x => !(x.part == p.val && x.handle == h.toNat && x.gran == g.toNat))
      let t := ((s.hostWrite q (o.hostAddr q g.toNat) (bytesAt data 0 4096)).tierMib (if q = 0 then F.tierHrd0 else F.tierHrd1) 0 q
        4096).setTiers (fun y => { y with reads := rest })
      exec (.granuleReadComplete p h g data) s = .next (((t.granuleIn p.val h.toNat g.toNat q
        (t.granCrypt p.val o g.toNat true (bytesAt data 0 4096))).tierIssueAll.demandIssue).ckptStep p.val).closed))) ∧
  (∀ (p : PartId) (h g : Word) (s : State),
    let f := fun (r : TierRead) => r.part == p.val && r.handle == h.toNat && decide (r.gran ≤ g.toNat) && decide (g.toNat < r.gran + r.n)
    (∀ r, s.tiers.reads.find? f = some r →
      exec (.granuleReadFail p h g) s = .next (((s.tierReadFail r).tierIssueAll.demandIssue).ckptStep p.val).closed) ∧
    (s.tiers.reads.find? f = none → exec (.granuleReadFail p h g) s = .next (s.ckptStep p.val).closed)) ∧
  (∀ (s : State) (r : TierRead) (o : Obj), s.obj? r.part r.handle = some o →
    let t := s.setTiers (fun y => { y with reads := y.reads.erase r })
    (o.tier = 1 → o.hmode = 2 → r.rounds = 0 → s.tierReadFail r = (t.tierEvent r.part r.handle r.gran (1 - r.copy) 1 0 0).setTiers
      (fun y => { y with reads := y.reads ++ [{ r with copy := 1 - r.copy, rounds := 1 }] })) ∧
    (o.tier = 1 → o.hmode ≠ 2 ∨ r.rounds ≠ 0 → s.tierReadFail r = t.granulesLost r.part r.handle r.gran r.n r.copy r.op)) ∧
  (∀ (s : State) (p h g n copy : Nat), s.granulesLost p h g n copy none =
    ((s.inc F.tierRdFail n).tierEvent p h g copy 2 0 0).setTiers (fun y => { y with demand := y.demand.map (fun d =>
      if d.part = p ∧ d.handle = h ∧ g ≤ d.gran ∧ d.gran < g + n ∧ d.answer = none then { d with answer := some none } else d) })) ∧
  (∀ (cid : Fin 16384) (h : TierHdr) (data : List Byte) (s : State), s.chanPart cid.val = none →
    exec (.tierReadDataRx cid h data) s = .next s.closed ∧ exec (.tierStatusRx cid h) s = .next s.closed) ∧
  (∀ (cid : Fin 16384) (h : TierHdr) (data : List Byte) (s t : State) (p : Nat), s.chanPart cid.val = some p →
    s.restoreData p h.tag.toNat (some data) = (false, t) →
    exec (.tierReadDataRx cid h data) s = .next ((t.tierReadData cid.val h.tag.toNat data).ckptStep p).closed) ∧
  (∀ (s : State) (cid tag : Nat) (data : List Byte), (∀ c, tget? s.net.chans cid = some c → s.nbrRead? c.part tag = none) →
    s.tierReadData cid tag data = s) ∧
  (∀ (s : State) (cid tag : Nat) (data : List Byte) (c : Chan) (r : TierRead) (o : Obj), tget? s.net.chans cid = some c →
    s.nbrRead? c.part tag = some r → s.obj? r.part r.handle = some o →
    s.tierReadData cid tag data = ((List.range r.n).foldl (fun u i => u.granuleIn r.part r.handle (r.gran + i) ((r.gran + i) % 2)
      (u.granCrypt r.part o (r.gran + i) true (bytesAt data (4096 * i) 4096)))
      ((s.setTiers (fun y => { y with reads := y.reads.erase r })).tierMib F.tierNrd 0 2 (4096 * r.n))).tierIssueAll.demandIssue) ∧
  (∀ (cid : Fin 16384) (h : TierHdr) (s t : State) (p : Nat), s.chanPart cid.val = some p →
    s.restoreData p h.tag.toNat none = (false, t) →
    (∀ r, t.nbrRead? p h.tag.toNat = some r → exec (.tierStatusRx cid h) s =
      .next ((if h.status.toNat = 0 then t else (t.tierReadFail r).tierIssueAll.demandIssue).ckptStep p).closed) ∧
    (∀ m, t.nbrRead? p h.tag.toNat = none → tget? t.tiers.msgs h.tag.toNat = some m → m.part = p → exec (.tierStatusRx cid h) s =
      .next ((t.tierStatus p h.tag.toNat h.status.toNat).ckptStep p).closed) ∧
    (t.nbrRead? p h.tag.toNat = none → tget? t.tiers.msgs h.tag.toNat = none → exec (.tierStatusRx cid h) s =
      .next (if (t.lend? cid.val h.lend.toNat).isSome then t.lendReply cid.val 6 h.lend.toNat 0 h.tag.toNat 0 0 []
        else t.ckptStep p).closed))

/-- A lend registered and released, and what the lender answers to reads, writes, seals and unseals of it. For every
LEND_REGISTER that starts at once and lacks no granule of an object: a number in use, a channel that is not open, or a range
that cannot be read and written, is a null resource; else the lend stands with no sealed extent. A release of no lend, or of one
already releasing, is a null resource; else it completes once nothing of it is in flight. A message that names no lend of its
channel is answered by status 3; one past the region's end by 1 (a read of more than 64 KiB too). A read of bytes not all in one
sealed extent gets 2, one that cannot be read 1, and else the data. A write that touches a sealed extent is violation 0x04 and
writes nothing; else it writes, with status 0. A seal of a region with 256 extents gets 4, else adds its extent; an unseal
removes exactly its extent, or gets 2. (09_tiers_and_weights.md) -/
def Obligations.LendsAndTheirAnswers : Prop :=
  (∀ (s : State) (d : Desc) (r : DRef) (t : State), s.starts 0x28 d r t →
    let n := d.fld 0 8
    let ok := thas (t.part r.part).tier.lends n = false ∧ (∃ x, t.chan? r.part (d.at 20 32) = some x ∧ x.2.state = 2) ∧
      t.rwArea r.part (d.at 24 64) (d.at 32 64) = true
    (¬ ok →
      let y : State := (t.nullDesc r tierNull n)
      y.atHand (.desc r) → exec (.lendRegister d) s = .next (y.ran (.desc r)).closed) ∧
    (ok →
      let y : State := ((t.putLend r.part n ⟨r.part, d.at 20 32, d.at 24 64, d.at 32 64, [], none⟩).done r)
      y.atHand (.desc r) → exec (.lendRegister d) s = .next (y.ran (.desc r)).closed)) ∧
  (∀ (s : State) (d : Desc) (r : DRef) (t : State), s.starts 0x29 d r t →
    let n := d.fld 0 8
    ((∀ l, tget? (t.part r.part).tier.lends n = some l → l.releasing.isSome = true) →
      let y : State := (t.nullDesc r tierNull n)
      y.atHand (.desc r) → exec (.lendRelease d) s = .next (y.ran (.desc r)).closed) ∧
    (∀ l, tget? (t.part r.part).tier.lends n = some l → l.releasing = none →
      let y : State := ((t.putLend r.part n { l with releasing := some r }).lendTryRelease r.part n)
      y.atHand (.desc r) → exec (.lendRelease d) s = .next (y.ran (.desc r)).closed)) ∧
  (∀ (cid : Fin 16384) (h : TierHdr) (data : List Byte) (s : State), s.lend? cid.val h.lend.toNat = none →
    let no := s.lendReply cid.val 6 h.lend.toNat 3 h.tag.toNat h.offset.toNat h.length.toNat []
    exec (.tierReadRequestRx cid h) s = .next no.flush ∧ exec (.tierWriteRx cid h data) s = .next no.flush ∧
    exec (.tierSealRx cid h) s = .next no.flush ∧ exec (.tierUnsealRx cid h) s = .next no.flush) ∧
  (∀ (cid : Fin 16384) (h : TierHdr) (data : List Byte) (s : State) (p : Nat) (l : Lend), s.lend? cid.val h.lend.toNat = some (p, l) →
    let say := fun (t : State) (k : Nat) => t.lendReply cid.val 6 h.lend.toNat k h.tag.toNat h.offset.toNat h.length.toNat []
    let inside := l.inside h.offset.toNat h.length.toNat
    (inside = false → exec (.tierReadRequestRx cid h) s = .next (say s 1).flush ∧ exec (.tierWriteRx cid h data) s = .next (say s 1).flush ∧
      exec (.tierSealRx cid h) s = .next (say s 1).flush ∧ exec (.tierUnsealRx cid h) s = .next (say s 1).flush) ∧
    (inside = true →
      (65536 < h.length.toNat → exec (.tierReadRequestRx cid h) s = .next (say s 1).flush) ∧
      (h.length.toNat ≤ 65536 → l.sealedAll h.offset.toNat h.length.toNat = false →
        exec (.tierReadRequestRx cid h) s = .next (say s 2).flush) ∧
      (h.length.toNat ≤ 65536 → l.sealedAll h.offset.toNat h.length.toNat = true →
        let x := s.readPva (s.lendCtx p) (l.pva + h.offset.toNat) h.length.toNat
        exec (.tierReadRequestRx cid h) s = .next (if x.1.fault ∨ x.1.poison then say x.2 1
          else x.2.lendReply cid.val 2 h.lend.toNat 0 h.tag.toNat h.offset.toNat h.length.toNat x.1.bytes).flush) ∧
      (l.sealedAny h.offset.toNat h.length.toNat = true → ∀ c, tget? s.net.chans cid.val = some c → exec (.tierWriteRx cid h data) s =
        .next (s.violationOf cid.val 4 h.msn.toNat h.offset.toNat c.pkey c.peerCid ((c.remotes.head?).getD c.peerIp) 0 0).flush) ∧
      (l.sealedAny h.offset.toNat h.length.toNat = false →
        let x := s.writePva (s.lendCtx p) (l.pva + h.offset.toNat) (bytesAt data 0 h.length.toNat) false
        exec (.tierWriteRx cid h data) s = .next (say x.2 (if x.1 then 1 else 0)).flush) ∧
      exec (.tierSealRx cid h) s = .next (if 256 ≤ l.extents.length then say s 4
        else say (s.putLend p h.lend.toNat { l with extents := l.extents ++ [(h.offset.toNat, h.length.toNat)] }) 0).flush ∧
      exec (.tierUnsealRx cid h) s = .next (if (h.offset.toNat, h.length.toNat) ∈ l.extents then
        say (s.putLend p h.lend.toNat { l with extents := l.extents.erase (h.offset.toNat, h.length.toNat) }) 0 else say s 2).flush))

/-- Promotion lists, the end of a promotion's copy and the end of a demotion. For every PROMOTION_LIST_REGISTER that starts at
once and lacks no granule of an object with 1 to 4,096 entries: an unknown or releasing plan, or one that has a list, is a null
resource; a list that cannot be read a reported no-op. A release of no list, or of one already releasing, is a null resource;
else the list leaves once no copy and no demotion of it is under way. PROMOTION_COPY_COMPLETE of an entry with no copy under
way, or one not ready, changes nothing; a ready copy written to a readable shard image that does not meet another shard leaves
the shard registered, the entry promoted, one more promotion and the entry's signal posted; one whose image cannot be read,
whose write fails, or that meets another shard is a failed promotion: tier event of cause 3, its signal posted, no step that
took the entry can commit. A waiting release of the list is then tried. DEMOTION_COMPLETE of an entry no demotion reads changes
nothing; one that failed leaves the entry promoted, owing another demotion, with a tier event of cause 4.
(09_tiers_and_weights.md) -/
def Obligations.PromotionsAndDemotions : Prop :=
  (∀ (s : State) (d : Desc) (r : DRef) (t : State), s.starts 0x26 d r t → 1 ≤ d.fld 16 13 → d.fld 16 13 ≤ 4096 →
    let plan := d.fld 0 8
    let known := ∃ x, tget? (t.part r.part).cad.plans plan = some x ∧ x.releasing = none
    ((¬ known ∨ thas (t.part r.part).tier.promos plan = true) →
      let y : State := (t.nullDesc r tierNull plan)
      y.atHand (.desc r) → exec (.promotionListRegister d) s = .next (y.ran (.desc r)).closed) ∧
    (∀ u, known → thas (t.part r.part).tier.promos plan = false → t.descRead r.part (d.at 24 64) (128 * d.fld 16 13) = (none, u) →
      let y : State := (u.noop r)
      y.atHand (.desc r) → exec (.promotionListRegister d) s = .next (y.ran (.desc r)).closed) ∧
    (∀ bs u, known → thas (t.part r.part).tier.promos plan = false →
      t.descRead r.part (d.at 24 64) (128 * d.fld 16 13) = (some bs, u) →
      let es := (List.range (d.fld 16 13)).map (fun i => promoOf (leAt bs (128 * i) 128))
      let x := es.foldl (fun (a : Bool × State) e => if a.1 then a.2.promoEntryOk r.part e else a) (true, u)
      let y : State := (if x.1 then
        (x.2.modTier r.part (fun y => { y with promos := tput y.promos plan ⟨d.at 24 64, es, none⟩ })).done r
        else x.2.nullDesc r tierNull plan)
      y.atHand (.desc r) → exec (.promotionListRegister d) s = .next (y.ran (.desc r)).closed)) ∧
  (∀ (s : State) (d : Desc) (r : DRef) (t : State), s.starts 0x27 d r t →
    let plan := d.fld 0 8
    ((∀ l, tget? (t.part r.part).tier.promos plan = some l → l.releasing.isSome = true) →
      let y : State := (t.nullDesc r tierNull plan)
      y.atHand (.desc r) → exec (.promotionListRelease d) s = .next (y.ran (.desc r)).closed) ∧
    (∀ l, tget? (t.part r.part).tier.promos plan = some l → l.releasing = none →
      let y : State := ((t.modTier r.part (fun y => { y with promos := tput y.promos plan { l with releasing := some r } })).promoTryRelease
        r.part plan)
      y.atHand (.desc r) → exec (.promotionListRelease d) s = .next (y.ran (.desc r)).closed)) ∧
  (∀ (p : PartId) (plan : Byte) (i : Fin 4096) (s : State),
    ((∀ e, s.promoEntry? p.val plan.toNat i.val = some e → e.copying = none) →
      exec (.promotionCopyComplete p plan i) s = .next s.flush) ∧
    (∀ e k x, s.promoEntry? p.val plan.toNat i.val = some e → e.copying = some k → tget? s.tiers.ops k = some x →
      (x.ready = false → exec (.promotionCopyComplete p plan i) s = .next s.flush) ∧
      (x.ready = true → ∀ b u, s.descRead p.val e.shePva 128 = (some b, u) →
        let sh : Shard := { shardOf b with commits := e.commits, root := e.root }
        let w := u.writePva (u.engCtx p.val engTier) sh.curSet x.bytes false
        let t := w.2.tierDrop k
        ((w.1 = true ∨ thas (t.part p.val).shards e.shard = true ∨ t.shardOk p.val b = false) →
          exec (.promotionCopyComplete p plan i) s = .next ((t.promoFail p.val plan.toNat i.val).promoTryRelease p.val plan.toNat).flush) ∧
        (w.1 = false → thas (t.part p.val).shards e.shard = false → t.shardOk p.val b = true →
          exec (.promotionCopyComplete p plan i) s = .next (((((((t.putShard p.val e.shard sh).countShards p.val).modEntry p.val
            plan.toNat i.val (fun e => { e with state := 1, copying := none, failed := false })).inc F.pPromos 1 p.val).postSig
              p.val e.sig)).promoTryRelease p.val plan.toNat).flush)) ∧
      (x.ready = true → ∀ u, s.descRead p.val e.shePva 128 = (none, u) → exec (.promotionCopyComplete p plan i) s =
        .next (((u.tierDrop k).promoFail p.val plan.toNat i.val).promoTryRelease p.val plan.toNat).flush))) ∧
  (∀ (s : State) (p plan i : Nat) (e : PromoEntry), s.promoEntry? p plan i = some e → s.promoFail p plan i =
    (let t := s.modEntry p plan i (fun e => { e with copying := none, failed := true })
     e.touched.foldl (fun u x => u.failRun p x.1 5)
       (((t.postSig p e.sig).tierEvent p e.objCur 0 0 3 plan e.shard).inc F.pTierFail 1 p))) ∧
  (∀ (p : PartId) (plan : Byte) (i : Fin 4096) (failed : Bool) (s : State),
    ((∀ e, s.promoEntry? p.val plan.toNat i.val = some e → e.state ≠ 2 ∨ e.reading = false) →
      exec (.demotionComplete p plan i failed) s = .next s.flush) ∧
    (∀ e alt cur sh, s.promoEntry? p.val plan.toNat i.val = some e → e.state = 2 → e.reading = true →
      s.obj? p.val e.objAlt = some alt → s.obj? p.val e.objCur = some cur → s.shard? p.val e.shard = some sh → alt.state = 1 →
      exec (.demotionComplete p plan i true) s = .next ((((s.modEntry p.val plan.toNat i.val
        (fun e => { e with state := 1, reading := false, owed := true })).tierEvent p.val e.objAlt 0 0 4 plan.toNat e.shard).inc
          F.pTierFail 1 p.val).promoTryRelease p.val plan.toNat).flush))

/-- Swap sets, the boundary they turn at, and intakes. For every descriptor that starts at once and lacks no granule of an
object: a swap set of a number in use, an unaligned range or one the range rules refuse on either side, or with no free
range-table entry, is a null resource; else the set stands with side 0 active, its entry comes into force at the next boundary,
and only then does it complete. A swap of no set, or of one releasing, is a null resource; one for a boundary already past ends
with 0x07, one on a set whose swap is pending 0x08, one onto a faulted side 0x06, each with a swap event of cause 3; else it
waits. SWAP_SWITCH turns the set to its other side only when its boundary has come, the earlier grains have started and no
intake or write consumed before the swap still writes that side. A release waits for the pending swap. INTAKE of an unreadable
block is a no-op and of a bad type or kind a null resource, each with an intake event of status 1; one over a device source, in
formats that may be taken, waits its turn. INTAKE_COMPLETE changes nothing with no intake on the hub, while the hub is stopped,
or while the intake waits for a swap or for its source; else it runs the hub's first intake, if it lacks no granule.
(09_tiers_and_weights.md) -/
def Obligations.SwapsAndIntakes : Prop :=
  (∀ (s : State) (d : Desc) (r : DRef) (t : State), s.starts 0x60 d r t →
    let n := d.fld 0 6
    let w : SwapSet := ⟨d.fld 6 3, d.fld 9 3, d.at 32 32, d.at 36 32, d.fld 12 2, d.fld 32 32, d.at 24 64 / mib2, 0, 0, [], none, none⟩
    let free := (List.range (t.rd F.pRtSize r.part)).find? (fun i => !thas (t.part r.part).rtNext i && !thas (t.part r.part).rt i)
    (free = none →
      let y : State := (t.nullDesc r tierNull n)
      y.atHand (.desc r) → exec (.swapSetRegister d) s = .next (y.ran (.desc r)).closed) ∧
    (∀ i, free = some i →
      let ok := t.swap? r.part n = none ∧ d.at 24 64 % mib2 = 0 ∧ t.rtEditOk r.part i (w.entry 0) = true ∧
        t.rtEditOk r.part i (w.entry 1) = true
      (¬ ok →
      let y : State := (t.nullDesc r tierNull n)
      y.atHand (.desc r) → exec (.swapSetRegister d) s = .next (y.ran (.desc r)).closed) ∧
      (ok →
      let y : State := (((t.putSwap r.part n { w with index := i }).rtSet r.part i (some (w.entry 0))).modPart
        r.part (fun x => { x with rtWait := x.rtWait ++ [r] }))
      y.atHand (.desc r) → exec (.swapSetRegister d) s = .next (y.ran (.desc r)).closed))) ∧
  (∀ (s : State) (d : Desc) (r : DRef) (t : State), s.starts 0x61 d r t →
    let n := d.fld 0 6
    (t.swap? r.part n = none →
      let y : State := (t.nullDesc r tierNull n)
      y.atHand (.desc r) → exec (.swap d) s = .next (y.ran (.desc r)).closed) ∧
    (∀ w, t.swap? r.part n = some w →
      let cad := (t.part r.part).cad
      let o : SwapOp := ⟨r, if d.at 24 64 = 2 ^ 64 - 1 then none else some (d.at 24 64),
        ((cad.steps.find? (fun x => x.phase == .queued)).map (fun x => x.id)).getD cad.nextRun, d.fld 16 16, none,
        t.writesInto r.part n (1 - w.active), false⟩
      let gone := ∃ k l, o.stepNo = some k ∧ cad.lastStep = some l ∧ k ≤ l ∧ cad.steps.any o.names = false
      let late := gone ∨ ∃ b, t.swapTick? r.part o = some b ∧ b ≤ t.tick
      let refuse := fun (k : Nat) =>
        let y : State := ((t.swapEvent r.part n (d.at 24 64) o.tidx t.tick w.active 3).complete r k true 0)
        y.atHand (.desc r) → exec (.swap d) s = .next (y.ran (.desc r)).closed
      (w.releasing.isSome = true →
      let y : State := (t.nullDesc r tierNull n)
      y.atHand (.desc r) → exec (.swap d) s = .next (y.ran (.desc r)).closed) ∧
      (w.releasing = none → late → refuse 7) ∧
      (w.releasing = none → ¬ late → w.op.isSome = true → refuse 8) ∧
      (w.releasing = none → ¬ late → w.op = none → (1 - w.active) ∈ w.faulted → refuse 6) ∧
      (w.releasing = none → ¬ late → w.op = none → (1 - w.active) ∉ w.faulted →
        let y : State := (t.putSwap r.part n { w with op := some { o with
          tick := (cad.steps.find? (fun x => x.phase != .queued && o.names x)).map (fun x => x.first + o.tidx) } })
        y.atHand (.desc r) → exec (.swap d) s = .next (y.ran (.desc r)).closed))) ∧
  (∀ (s : State) (d : Desc) (r : DRef) (t : State), s.starts 0x62 d r t →
    let n := d.fld 0 6
    ((∀ w, t.swap? r.part n = some w → w.releasing.isSome = true) →
      let y : State := (t.nullDesc r tierNull n)
      y.atHand (.desc r) → exec (.swapSetRelease d) s = .next (y.ran (.desc r)).closed) ∧
    (∀ w, t.swap? r.part n = some w → w.releasing = none →
      let y : State := ((t.putSwap r.part n { w with releasing := some r }).swapTryRelease r.part n)
      y.atHand (.desc r) → exec (.swapSetRelease d) s = .next (y.ran (.desc r)).closed)) ∧
  (∀ (p : PartId) (n : Fin 64) (s : State),
    (∀ w o b, s.swap? p.val n.val = some w → w.op = some o → s.swapTick? p.val o = some b →
      let busy := ∃ x ∈ s.writesInto p.val n.val (1 - w.active), x ∈ o.before
      (o.switched = true ∨ s.tick < b ∨ s.earlierStarted p.val b = false ∨ busy → exec (.swapSwitch p n) s = .next s.flush) ∧
      (o.switched = false → b ≤ s.tick → s.earlierStarted p.val b = true → ¬ busy →
        let i := 1 - w.active
        let w' : SwapSet := { w with active := i, faulted := w.faulted.filter (fun x => x != i), op := some { o with switched := true } }
        let t := (s.putSwap p.val n.val w').modPart p.val (fun x =>
          { x with rt := tput x.rt w.index (w.entry i), rtNext := tput x.rtNext w.index (w.entry i) })
        let u := t.inc F.pSwaps 1 p.val
        exec (.swapSwitch p n) s = .next ((u.swapEvent p.val n.val (o.stepNo.getD (u.stepNo p.val)) o.tidx u.tick i
          (if b < u.tick then 2 else 1)).swapTryDone p.val).flush)) ∧
    (s.swap? p.val n.val = none → exec (.swapSwitch p n) s = .next s.flush) ∧
    (∀ w, s.swap? p.val n.val = some w → w.op = none → exec (.swapSwitch p n) s = .next s.flush) ∧
    (∀ w o, s.swap? p.val n.val = some w → w.op = some o → s.swapTick? p.val o = none → exec (.swapSwitch p n) s = .next s.flush)) ∧
  (∀ (s : State) (d : Desc) (r : DRef) (t : State), s.starts 0x70 d r t →
    (∀ u, t.descRead r.part (d.at 16 64) 128 = (none, u) →
      let y : State := ((u.intakeEvent r.part (d.at 16 64) { intOf 0 with swapDst := false } 1 0 0).noop r)
      y.atHand (.desc r) → exec (.intake d) s = .next (y.ran (.desc r)).closed) ∧
    (∀ bs u, t.descRead r.part (d.at 16 64) 128 = (some bs, u) → fldN (leNat bs) 96 32 ≠ 0 → fldN (leNat bs) 128 32 ≠ 0 →
      convRmBad (fldN (leNat bs) 20 8) = false →
      let x := intOf (leNat bs)
      let q : DRef := { r with clamped := false }
      (fldN (leNat bs) 0 8 ≠ 0x10 ∨ 1 < x.kind →
      let y : State := ((u.intakeEvent r.part (d.at 16 64) x 1 0 0).nullDesc q (freeCode 9 0) x.kind)
      y.atHand (.desc r) → exec (.intake d) s = .next (y.ran (.desc r)).closed) ∧
      (fldN (leNat bs) 0 8 = 0x10 → x.kind = 0 → x.swapDst = false → (x.sfmt ≤ 4 ∨ x.sfmt = 13) → x.dfmt ≤ 9 →
        fldN x.conv 0 5 = x.dfmt →
      let y : State := (u.setTiers (fun y => { y with
          intakes := y.intakes ++ [⟨q, leNat bs, d.at 16 64, u.portOf r.part, none⟩] }))
      y.atHand (.desc r) → exec (.intake d) s = .next (y.ran (.desc r)).closed))) ∧
  (∀ (hub : Fin 2) (s : State),
    (s.tiers.intakes.find? (fun o => o.hub == hub.val) = none → exec (.intakeComplete hub) s = .next s.flush) ∧
    (s.hostStopped hub.val = true → exec (.intakeComplete hub) s = .next s.flush) ∧
    (∀ o, s.tiers.intakes.find? (fun o => o.hub == hub.val) = some o →
      (s.intakeWaits o.desc.part (intOf o.block) = true → exec (.intakeComplete hub) s = .next s.flush) ∧
      (∀ k x, o.op = some k → tget? s.tiers.ops k = some x → x.failed = false → x.ready = false →
        exec (.intakeComplete hub) s = .next s.flush) ∧
      (s.hostStopped hub.val = false → s.intakeWaits o.desc.part (intOf o.block) = false →
        (∀ k x, o.op = some k → tget? s.tiers.ops k = some x → x.failed = true ∨ x.ready = true) → s.tiers.asking = none →
        let y : State := ((s.asks (.intake hub.val)).intakeRun o (intOf o.block))
        y.atHand (.intake hub.val) → exec (.intakeComplete hub) s = .next (y.ran (.intake hub.val)).flush)))

/-- A port's link up and down, its partner, received frames, its responders, parking and the port test's frames. For every port
n: NETWORK_LINK_UP of a link up resumes, at full width, the queues that a failed relock left held, and else changes nothing; of
a link down it acts only where SPEED gives lanes, out of reset: full width, no longer parked, link event of cause 1 (a width
event of cause 6 when it was parked), its mode looked at, a hello, its queues resumed. NETWORK_LINK_DOWN of a link down changes
nothing; else the queued frames are lost and counted, LINK, WIDTH, PARTNER and PMODE read 0. HELLO goes only on a link; an
Ebquel hello on a link sets PARTNER, with a link event of cause 3 when it was 0; PARTNER_TIMEOUT clears it with cause 4. A frame
on a link counts; one of bad FCS, length outside 64 to 9,022 or MAC control goes into its own counter, any other is discarded
into FILT_DROP or CSUM_DROP by Table 10-3 or delivered; a delivered ARP or neighbour frame is learned. The port answers ARP and
solicitations for its own address, and an echo while ECHO_EN, at most 1,500 bytes and 100 a second, else counts it in FILT_DROP.
PORT_PARK idles a port told to park once its queue is empty and 2 ticks quiet. An aged neighbour is forgotten; a test frame is
sent back. (10_network_ports.md, 17_reset_and_startup.md) -/
def Obligations.PortLinksPartnersAndFrames : Prop :=
  ∀ (n : NetPort) (s : State),
    let w := lanesOf (s.rd F.npSpeed n)
    (s.rd F.npLink n = 1 → exec (.networkLinkUp n) s = .next (if (s.nport n).held = true ∧ (s.nport n).change = none
      then ((s.wr F.npWidth w n).resumeQueues n).closed else s.closed)) ∧
    (s.rd F.npLink n ≠ 1 → (w = 0 ∨ s.rst.stage ≠ 5 ∨ bitN (s.rd F.rstEngInr) n = true) → exec (.networkLinkUp n) s = .next s.closed) ∧
    (s.rd F.npLink n ≠ 1 → w ≠ 0 → s.rst.stage = 5 → bitN (s.rd F.rstEngInr) n = false →
      let t := ((((s.wr F.npLink 1 n).wr F.npWidth w n).wr F.npParked 0 n).modNport n (fun p => { p with unparking := false })).linkEvent n 1 0
      let t := if s.rd F.npParked n = 1 then t.widthEvent n 6 0 w else t
      exec (.networkLinkUp n) s = .next (((t.pmodeLook n).sendPortCtl n 1 0 0 0).resumeQueues n).closed) ∧
    (s.rd F.npLink n ≠ 1 → exec (.networkLinkDown n) s = .next s.closed) ∧
    (s.rd F.npLink n = 1 →
      let t := s.modNport n (fun p => { p with
        queued := [], held := false, asked := none, change := none, parking := none })
      let t := (t.inc F.npLinkDisc (s.nport n).queued.length n).inc F.npLinkDown 1 n
      let t := (((t.wr F.npLink 0 n).wr F.npWidth 0 n).wr F.npPartner 0 n).wr F.npPmode pmDown n
      let t := t.linkEvent n 2 (s.nport n).queued.length
      let t := if t.rd F.npParkEn n = 1 then t.unparkGroup (t.rd F.npPgroup n) else t
      let t := if t.rd F.cadPortNow = n then t.ptpFail else t
      let t := if s.rd F.npPmode n = pmService ∧ (s.nport n).parking = none then t.sendAddrs n 1 else t
      exec (.networkLinkDown n) s = .next t.pumpAll.closed) ∧
    (exec (.helloSend n) s = .next (if s.rd F.npLink n = 1 then s.sendPortCtl n 1 0 0 0 else s).flush) ∧
    (∀ v : BitVec 16,
      let t := (s.wr F.npPartner 1 n).modNport n (fun p => { p with lastHello := s.tick })
      exec (.helloRx n v) s = .next (if s.rd F.npLink n = 1 ∧ v = 0xEB9C then
        (if s.rd F.npPartner n = 1 then t else t.linkEvent n 3 0) else s).flush) ∧
    (exec (.partnerTimeout n) s = .next (if s.rd F.npPartner n = 1 then (s.wr F.npPartner 0 n).linkEvent n 4 0 else s).flush) ∧
    (∀ f : FrameIn, (s.rd F.npLink n ≠ 1 → exec (.frameRx n f) s = .next s.flush) ∧
      (s.rd F.npLink n = 1 →
        let b := (s.nport n).rxBytes + f.len
        let t := (s.add F.npRxf 1 n).modNport n (fun p => { p with
          rxNow := p.rxNow + f.len, rxBytes := b, lastRx := s.tick, fecUnc := p.fecUnc + f.fecUnc })
        let t := ((t.wr F.npRxMib (capN (2 ^ 32 - 1) (b / 2 ^ 20)) n).inc F.npFecCorr f.fecCorr n).inc F.npFecUnc f.fecUnc n
        (t.frameFate n f = .fcs → exec (.frameRx n f) s = .next (t.inc F.npFcsErr 1 n).flush) ∧
        (t.frameFate n f = .length → exec (.frameRx n f) s = .next (t.inc F.npFiltDrop 1 n).flush) ∧
        (t.frameFate n f = .mac → exec (.frameRx n f) s = .next (t.inc F.npMaccIgn 1 n).flush) ∧
        (t.frameFate n f = .filtered → exec (.frameRx n f) s = .next (t.inc F.npFiltDrop 1 n).flush) ∧
        (t.frameFate n f = .checksum → exec (.frameRx n f) s = .next (t.inc F.npCsumDrop 1 n).flush) ∧
        (∀ ip mac, t.frameFate n f = .delivered → (f.kind = .arp ip mac ∨ f.kind = .neighbour ip mac) → exec (.frameRx n f) s =
          .next (t.modNport n (fun p => p.learn ip.toNat mac.toNat t.tick)).flush) ∧
        (t.frameFate n f = .delivered → (∀ ip mac, f.kind ≠ .arp ip mac ∧ f.kind ≠ .neighbour ip mac) →
          exec (.frameRx n f) s = .next t.flush)) ∧
      (f.fcsOk = false → s.frameFate n f = .fcs) ∧
      (f.fcsOk = true → (f.len < 64 ∨ 9022 < f.len) → s.frameFate n f = .length) ∧
      (f.fcsOk = true → 64 ≤ f.len → f.len ≤ 9022 →
        (f.kind = .macControl → s.frameFate n f = .mac) ∧
        (f.vid = none → f.kind = .other → s.frameFate n f = .filtered) ∧
        (f.vid = none → f.kind = .badIpChecksum → s.frameFate n f = .checksum) ∧
        (∀ ip mac, f.vid = none → f.kind = .arp ip mac → s.frameFate n f = .delivered))) ∧
    (∀ ip : BitVec 128, exec (.neighbourAgeOut n ip) s =
      .next (s.modNport n (fun p => { p with neighbours := tdel p.neighbours ip.toNat })).flush) ∧
    (∀ a : Word, exec (.arpRequestRx n a) s = .next (if s.hasFamily n false = true ∧ s.rd F.npIpv4 n = a.toNat then
      s.xmit false ⟨n, 0, 64, noPart, .responder 1 [a.toNat, s.rd F.npMacL n, s.rd F.npMacH n]⟩ else s).flush) ∧
    (∀ src a : BitVec 128, exec (.neighborSolicitationRx n ⟨src, a⟩) s = .next (if s.hasFamily n true = true ∧ s.portAddr n true = a.toNat
      then s.xmit false ⟨n, 0, 90, noPart, .responder 2 [a.toNat, s.rd F.npMacL n, s.rd F.npMacH n, src.toNat]⟩ else s).flush) ∧
    (∀ (src : BitVec 128) (len : BitVec 16),
      let ok := s.rd F.npEchoEn n = 1 ∧ len.toNat ≤ 1500 ∧ (s.nport n).echoes < 100
      (ok → exec (.echoRequestRx n ⟨src, len⟩) s = .next ((s.modNport n (fun p => { p with echoes := p.echoes + 1 })).xmit false
        ⟨n, 0, len.toNat, noPart, .responder 3 [src.toNat, len.toNat]⟩).flush) ∧
      (¬ ok → exec (.echoRequestRx n ⟨src, len⟩) s = .next (s.inc F.npFiltDrop 1 n).flush)) ∧
    (∀ (len : BitVec 16) (q : Word), exec (.portTestFrameRx n len q) s =
      .next (s.xmit false ⟨n, 0, len.toNat, noPart, .portCtl 7 0 0 q.toNat⟩).flush) ∧
    (∀ (q r : Word) (bad : Bool),
      ((s.nport n).test = none → exec (.portTestEchoRx n q bad r) s = .next s.flush) ∧
      (∀ t, (s.nport n).test = some t → t.sent ≤ q.toNat → exec (.portTestEchoRx n q bad r) s = .next s.flush) ∧
      (∀ t, (s.nport n).test = some t → q.toNat < t.sent → ∃ u, exec (.portTestEchoRx n q bad r) s = .next (s.modNport n
          (fun p => { p with test := some u })).flush ∧ u.echoes = t.echoes + 1 ∧ u.errs = t.errs + b2n bad ∧ u.sum = t.sum + r.toNat)) ∧
    ((s.nport n).parking = none → exec (.portPark n) s = .next s.flush) ∧
    (∀ k, (s.nport n).parking = some k →
      let ok := (s.nport n).queued = [] ∧ k + 2 ≤ s.tick ∧ (s.nport n).lastRx + 2 ≤ s.tick
      (¬ ok → exec (.portPark n) s = .next s.flush) ∧
      (ok → exec (.portPark n) s = .next ((((((((s.wr F.npParked 1 n).wr F.npLink 0 n).wr F.npWidth 0 n).wr F.npPmode pmDown n).inc
        F.npParks 1 n).modNport n (fun p => { p with parking := none })).widthEvent n 5 (s.rd F.npWidth n) 0)).flush))

/-- Agreement on a lane width, its boundary, and the relock. For every port n: a width request of a port without a partner
changes nothing. With no request of its own outstanding the port accepts a widen, or a narrow that its own judgement holds for,
for the request's BOUND, and refuses another narrow; with a request of its own for the same width it accepts for the later of
the two bounds; its own widen prevails over a narrow, which it refuses; else it accepts. Accepting sets the change and answers
KIND 3, refusing answers KIND 4. An accept sets the port's own change, a refusal drops it with a width event of cause 3, and no
reply within a tick drops it; without a request each changes nothing. WIDTH_CHANGE holds the queues once BOUND has come. With
the queues held, a relock puts the width in force, counts it, resumes the queues and gives a width event of cause 2 for a
widening, 1 for a narrowing; a timeout gives cause 4 and leaves the queues held. Without a change, or not held, neither acts.
(10_network_ports.md) -/
def Obligations.LaneWidthChanges : Prop :=
  ∀ (n : NetPort) (s : State),
    (∀ (w : Fin 9) (b : DWord) (q : Word),
      let take := fun (b : Nat) => ((s.modNport n (fun p => { p with change := some (w.val, b), asked := none })).sendPortCtl n 3 w b
        q.toNat).flush
      let refuse := (s.sendPortCtl n 4 w b.toNat q.toNat).flush
      let now := s.rd F.npWidth n
      (s.rd F.npPartner n ≠ 1 → exec (.widthRequestRx n w b q) s = .next s.flush) ∧
      (s.rd F.npPartner n = 1 → (s.nport n).asked = none → exec (.widthRequestRx n w b q) s =
        .next (if now < w.val ∨ s.judgesNarrow n = true then take b.toNat else refuse)) ∧
      (∀ mine mb t, s.rd F.npPartner n = 1 → (s.nport n).asked = some (mine, mb, t) → exec (.widthRequestRx n w b q) s =
        .next (if mine = w.val then take (Nat.max b.toNat mb) else if now < mine ∧ w.val < now then refuse else take b.toNat))) ∧
    ((s.nport n).asked = none → exec (.widthAcceptRx n) s = .next s.flush ∧ exec (.widthRefuseRx n) s = .next s.flush ∧
      exec (.widthReplyTimeout n) s = .next s.flush) ∧
    (∀ w b t, (s.nport n).asked = some (w, b, t) →
      exec (.widthAcceptRx n) s = .next (s.modNport n (fun p => { p with asked := none, change := some (w, b) })).flush ∧
      exec (.widthRefuseRx n) s = .next ((s.modNport n (fun p => { p with asked := none })).widthEvent n 3 (s.rd F.npWidth n) w).flush ∧
      exec (.widthReplyTimeout n) s = .next (if t + 1 ≤ s.tick then s.modNport n (fun p => { p with asked := none }) else s).flush) ∧
    ((s.nport n).change = none → exec (.widthChange n) s = .next s.flush ∧ exec (.pcsRelockComplete n) s = .next s.flush ∧
      exec (.relockTimeout n) s = .next s.flush) ∧
    (∀ w b, (s.nport n).change = some (w, b) →
      exec (.widthChange n) s = .next (if b ≤ s.tick then s.modNport n (fun p => { p with held := true }) else s).flush ∧
      ((s.nport n).held = false → exec (.pcsRelockComplete n) s = .next s.flush ∧ exec (.relockTimeout n) s = .next s.flush) ∧
      ((s.nport n).held = true →
        exec (.pcsRelockComplete n) s = .next (((((s.wr F.npWidth w n).inc F.npWchg 1 n).modNport n (fun p =>
          { p with change := none })).resumeQueues n).widthEvent n
            (if s.rd F.npWidth n < w then 2 else 1) (s.rd F.npWidth n) w).flush ∧
        exec (.relockTimeout n) s = .next ((s.modNport n (fun p => { p with change := none })).widthEvent n 4 (s.rd F.npWidth n)
          (lanesOf (s.rd F.npSpeed n))).flush))

/-- The descriptors of Gnoxel: open, close, post, revoke, send and query. For every descriptor that starts at once and lacks no
granule of an object. CHANNEL_OPEN with QUEUE at most 5, GRANT_TICK at least 1 and ENC where the partition is confidential: one
that may not be opened is a null resource, as is one without a free CID; another stands pending and is completed later. A close,
post, revoke or send whose HANDLE names no established channel, and a query whose HANDLE names none at all, is a null resource.
CHANNEL_CLOSE closes its end and completes. BUFFER_POST of 64 bytes to 16 MiB whose range does not translate ends with 0x0B;
else the buffer is posted, and a channel on credits grants. BUFFER_REVOKE of a TAG with no buffer posted by a descriptor is a
reported no-op; else the oldest is revoked and the descriptor completes. SEND of at most 16 MiB queues its message. A query
writes the channel's record and completes, or is a no-op where that does not translate. (11_gnoxel_transport.md) -/
def Obligations.ChannelDescriptors : Prop :=
  (∀ (s : State) (d : Desc) (r : DRef) (t : State), s.starts 0x30 d r t → (d.fld 25 2 = 2 ∨ d.fld 22 3 ≤ 5) → d.fld 48 16 ≠ 0 →
    (t.confidential r.part = false ∨ d.fld 27 1 = 1) →
    let a : ChanAsk :=
      { part := r.part, cid := d.fld 0 16, peerPart := d.fld 16 6, queue := d.fld 22 3, mode := d.fld 25 2,
        enc := d.fld 27 1 == 1, kslot := d.fld 28 4, npath := if d.fld 32 6 = 0 then 64 else d.fld 32 6, grantTick := d.fld 48 16,
        pkey := d.at 24 32, peerIp := d.addr 32 }
    (t.mayOpen a = false →
      let y : State := (t.nullDesc r gnxNull a.cid)
      y.atHand (.desc r) → exec (.channelOpen d) s = .next (y.ran (.desc r)).closed) ∧
    (t.mayOpen a = true → (a.cid ≠ 0xFFFF ∨ ∃ k, tfree t.net.chans 16384 = some k) →
      let y : State := (t.openChan a (.desc r)).2
      y.atHand (.desc r) → exec (.channelOpen d) s = .next (y.ran (.desc r)).closed) ∧
    (t.mayOpen a = true → a.cid = 0xFFFF → tfree t.net.chans 16384 = none →
      let y : State := (t.nullDesc r gnxNull a.cid)
      y.atHand (.desc r) → exec (.channelOpen d) s = .next (y.ran (.desc r)).closed)) ∧
  (∀ (s : State) (d : Desc) (r : DRef) (t : State),
    (s.starts 0x31 d r t → t.openChan? r.part (d.at 16 32) = none →
      let y : State := (t.nullDesc r gnxNull (d.at 16 32))
      y.atHand (.desc r) → exec (.channelClose d) s = .next (y.ran (.desc r)).closed) ∧
    (s.starts 0x32 d r t → t.openChan? r.part (d.at 16 32) = none →
      let y : State := (t.nullDesc r gnxNull (d.at 16 32))
      y.atHand (.desc r) → exec (.bufferPost d) s = .next (y.ran (.desc r)).closed) ∧
    (s.starts 0x33 d r t → t.openChan? r.part (d.at 16 32) = none →
      let y : State := (t.nullDesc r gnxNull (d.at 16 32))
      y.atHand (.desc r) → exec (.bufferRevoke d) s = .next (y.ran (.desc r)).closed) ∧
    (s.starts 0x34 d r t → t.openChan? r.part (d.at 16 32) = none →
      let y : State := (t.nullDesc r gnxNull (d.at 16 32))
      y.atHand (.desc r) → exec (.send d) s = .next (y.ran (.desc r)).closed) ∧
    (s.starts 0x35 d r t → t.chan? r.part (d.at 16 32) = none →
      let y : State := (t.nullDesc r gnxNull (d.at 16 32))
      y.atHand (.desc r) → exec (.channelQuery d) s = .next (y.ran (.desc r)).closed)) ∧
  (∀ (s : State) (d : Desc) (r : DRef) (t : State) (cid : Nat) (c : Chan), t.openChan? r.part (d.at 16 32) = some (cid, c) →
    (s.starts 0x31 d r t →
      let y : State := ((t.closeChan cid 5).done r)
      y.atHand (.desc r) → exec (.channelClose d) s = .next (y.ran (.desc r)).closed) ∧
    (s.starts 0x32 d r t → 64 ≤ d.at 32 32 → d.at 32 32 ≤ 2 ^ 24 →
      let q : DRef := { r with clamped := r.clamped || false }
      (t.mapped r.part (t.part r.part).rt (d.at 24 64) (d.at 32 32) false = false →
        let y : State := (t.complete q 0x0B false 0)
        y.atHand (.desc r) → exec (.bufferPost d) s = .next (y.ran (.desc r)).closed) ∧
      (t.mapped r.part (t.part r.part).rt (d.at 24 64) (d.at 32 32) false = true →
        let u := t.postBuf cid (d.at 20 32) (d.at 24 64) (d.at 32 32) (.desc q)
        let y : State := (if c.credits then u.grant cid false else u)
        y.atHand (.desc r) → exec (.bufferPost d) s = .next (y.ran (.desc r)).closed)) ∧
    (s.starts 0x33 d r t →
      let mine := fun (b : GnxBuf) => b.tag = d.at 20 32 ∧ ∃ x, b.owner = .desc x
      ((∀ b ∈ c.bufs, ¬ mine b) →
      let y : State := (t.noop r)
      y.atHand (.desc r) → exec (.bufferRevoke d) s = .next (y.ran (.desc r)).closed) ∧
      (∀ b l l', c.bufs = l ++ b :: l' → (∀ x ∈ l, ¬ mine x) → mine b →
        let y : State := ((t.revoke cid b).done r)
        y.atHand (.desc r) → exec (.bufferRevoke d) s = .next (y.ran (.desc r)).closed)) ∧
    (s.starts 0x34 d r t → d.at 32 32 ≤ 2 ^ 24 →
      let y : State := (t.sendMsg cid (d.at 24 64) (d.at 32 32) none (.desc { r with clamped := r.clamped || false }))
      y.atHand (.desc r) → exec (.send d) s = .next (y.ran (.desc r)).closed)) ∧
  (∀ (s : State) (d : Desc) (r : DRef) (t : State) (cid : Nat) (c : Chan), s.starts 0x35 d r t → t.chan? r.part (d.at 16 32) = some (cid, c) →
    let w := t.writePva (t.engCtx r.part engDesc) (d.at 24 64) (c.record cid) false
    let y : State := (if w.1 then w.2.noop r else w.2.done r)
    y.atHand (.desc r) → exec (.channelQuery d) s = .next (y.ran (.desc r)).closed)

/-- How channels open, close, time out and lose their addresses. For every channel: OPEN_RESEND sends the OPEN of a pending open
again, OPEN_TIMEOUT ends it with STATUS 0x02. A packet heard for a partition ends Idle, and any ends Still. An OPEN_RX that
matches no pending open and repeats none answered changes nothing more; the first matching open with a version both know and the
same MODE and ENC answers by OPEN_ACK, is agreed and, its own ACK seen, established; other MODE or ENC refuses it with STATUS
0x04. A packet for a hub whose fabric stop is in reset waits. OPEN_ACK_RX of no channel counts in UNK_CID, of a version not
agreed in VER_DROP, of another PKEY is violation 0x03, of another nonce changes nothing, and else is noted. CLOSE_RX that passes
the packet checks frees a closing channel, and ends an open one with 0x05 and a channel event. ADDR_RX that passes them
withdraws or restores the peer's address. CLOSE_TIMEOUT frees a closing channel 16 ticks after; NO_PATH_TIMEOUT fails an open
one whose list L or A is empty; RETRANSMIT_TIMEOUT of a packet in flight, with a path, judges it lost; NAK_RESEND and
SLOT_GRANT_EXPIRY let sending go on. Without the channel nothing changes. (11_gnoxel_transport.md, 01_organization.md) -/
def Obligations.OpeningAndEndingOfChannels : Prop :=
  (∀ (cid : Fin 16384) (psn : Word) (s : State), tget? s.net.chans cid.val = none →
    exec (.openResend cid) s = .next s.flush ∧ exec (.openTimeout cid) s = .next s.flush ∧ exec (.closeTimeout cid) s = .next s.flush ∧
    exec (.noPathTimeout cid) s = .next s.flush ∧ exec (.retransmitTimeout cid psn) s = .next s.closed ∧
    exec (.nakResend cid) s = .next s.closed ∧ exec (.slotGrantExpiry cid) s = .next s.closed) ∧
  (∀ (cid : Fin 16384) (s : State) (c : Chan), tget? s.net.chans cid.val = some c →
    exec (.openResend cid) s = .next (if c.state = 1 then s.sendOpen cid.val else s).flush ∧
    exec (.openTimeout cid) s = .next (if c.state = 1 then (s.refuseOpen cid.val 2 chTimedOut).closed else s.flush) ∧
    exec (.closeTimeout cid) s = .next (if c.state = 3 ∧ c.closeTick + 16 ≤ s.tick then (s.delChan cid.val).closed else s.flush) ∧
    exec (.noPathTimeout cid) s =
      .next (if c.state = 2 ∧ s.hasPath c = false then (s.failChan cid.val 6 chNoPath).closed else s.flush) ∧
    exec (.slotGrantExpiry cid) s = .next (if c.state = 2 ∧ c.mode = 2 ∧ c.version ≠ 0x10 then
      (s.setChan cid.val (c.slotTurn s.tick true)).pump cid.val else s).closed ∧
    exec (.nakResend cid) s = .next ((s.setChan cid.val { c with sends := c.sends.map (fun m => { m with
      again := m.again ++ (m.refused.filter (fun x => decide (x.2.1 + 1 ≤ s.tick))).map (fun x => (x.1, x.2.2, 64)),
      refused := m.refused.filter (fun x => !decide (x.2.1 + 1 ≤ s.tick)) }) }).pump cid.val).closed ∧
    (∀ psn : Word, (c.flights.find? (fun f => f.psn % 2 ^ 32 == psn.toNat) = none ∨ c.state ≠ 2 ∨ s.hasPath c = false) →
      exec (.retransmitTimeout cid psn) s = .next s.closed) ∧
    (∀ (psn : Word) f, c.flights.find? (fun f => f.psn % 2 ^ 32 == psn.toNat) = some f → c.state = 2 → s.hasPath c = true →
      let x := ({ c with timedOut := true } : Chan).lose f s.tick (s.rd F.gnxRetryMax)
      exec (.retransmitTimeout cid psn) s = .next (if x.1 = true then (s.setChan cid.val x.2).failChan cid.val 6 chFailed
        else (s.setChan cid.val x.2).pump cid.val).closed)) ∧
  (∀ (mine : Bool) (s : State), (mine = true ∨ s.rd F.pwrMstate = 2) → (s.heard mine).rd F.pwrMstate = 0) ∧
  (∀ (o : GnxOpen) (s₀ : State),
    let s := s₀.heard (s₀.liveParts.contains o.peerPart.toNat)
    s.net.chans.find? (fun e => e.2.ackSent && e.2.peerNonce == o.nonce.toNat && e.2.peerCid == o.scid.toNat &&
      e.2.part == o.peerPart.toNat) = none →
    let ms := (s.net.chans.filter (fun e => s.openMatches o e.2)).mergeSort (fun a b => decide (a.2.order ≤ b.2.order))
    (ms = [] → exec (.openRx o) s₀ = .next s.closed) ∧
    (∀ cid c l port l', ms = (cid, c) :: l → s.localPorts c = port :: l' →
      (∀ v, agreedVersion (s.rd F.idGnxMin) (s.rd F.idGnxMax) o.lo.toNat o.hi.toNat = some v →
        ((c.mode ≠ o.mode.val ∨ c.enc ≠ o.enc) → exec (.openRx o) s₀ = .next (s.refuseOpen cid 4 chRefused).closed) ∧
        (c.mode = o.mode.val → c.enc = o.enc →
          let c' : Chan := { c with version := v, peerNonce := o.nonce.toNat, peerCid := o.scid.toNat, peerLo := o.lo.toNat,
                                    peerHi := o.hi.toNat, addrs := o.addrs.map BitVec.toNat,
                                    ackSent := true, maxPay := maxPayOf (Nat.min (s.rd F.npMtu port) o.mtu.toNat) (isV6 c.peerIp) c.enc }
          exec (.openRx o) s₀ = .next (((s.setChan cid c').sendOpenAck cid).establish cid).closed)) ∧
      (agreedVersion (s.rd F.idGnxMin) (s.rd F.idGnxMax) o.lo.toNat o.hi.toNat = none → exec (.openRx o) s₀ =
        .next ((s.event 0x03 c.part [2, c.handle cid, s.rd F.idGnxMin + 256 * s.rd F.idGnxMax, o.lo.toNat + 256 * o.hi.toNat, 0]).refuseOpen
          cid 3 chRefused).closed))) ∧
  (∀ (h : GnxHdr) (a b : BitVec 128) (addr : BitVec 128) (w : Bool) (k : DWord) (s₀ : State),
    let s := s₀.heard (thas s₀.net.chans h.dcid.toNat)
    s.hubStopped (h.dcid.toNat % 2) = true →
    let wait : GnxIn → Host.Outcome State Fault Refusal := fun x =>
      .next ({ s with net := { s.net with heldRx := s.net.heldRx ++ [x] } } : State).closed
    exec (.openAckRx h a b) s₀ = wait (.openAck h a b) ∧ exec (.closeRx ⟨h, k⟩) s₀ = wait (.close h k) ∧
    exec (.addrRx h addr w) s₀ = wait (.addr h addr w)) ∧
  (∀ (h : GnxHdr) (a b : BitVec 128) (s₀ : State),
    let s := s₀.heard (thas s₀.net.chans h.dcid.toNat)
    s.hubStopped (h.dcid.toNat % 2) = false →
    (tget? s.net.chans h.dcid.toNat = none → exec (.openAckRx h a b) s₀ = .next (s.inc F.gnxUnkCid 1).closed) ∧
    (∀ c, tget? s.net.chans h.dcid.toNat = some c →
      let old := (c.ackSent = true ∧ h.ver.toNat ≠ c.version) ∨ (c.ackSent = false ∧ s.rd F.idGnxMax < h.ver.toNat)
      let mine := c.state = 1 ∧ c.nonce = a.toNat ∧ (c.ackSent = true → c.peerNonce = b.toNat)
      (old → exec (.openAckRx h a b) s₀ = .next (s.inc F.gnxVerDrop 1).closed) ∧
      (¬ old → h.pkey.toNat ≠ c.pkey → exec (.openAckRx h a b) s₀ = .next (s.violation h.dcid.toNat h 3 0).closed) ∧
      (¬ old → h.pkey.toNat = c.pkey → ¬ mine → exec (.openAckRx h a b) s₀ = .next s.closed) ∧
      (¬ old → h.pkey.toNat = c.pkey → mine →
        exec (.openAckRx h a b) s₀ = .next ((s.setChan h.dcid.toNat { c with ackSeen := true }).establish h.dcid.toNat).closed))) ∧
  (∀ (h : GnxHdr) (k : DWord) (s₀ : State),
    let s := s₀.heard (thas s₀.net.chans h.dcid.toNat)
    s.hubStopped (h.dcid.toNat % 2) = false →
    let g := s.gnxCheckIn [2, 3] h (ctlBytes 6 [k.toNat])
    let cid := h.dcid.toNat
    (g.1 = none → exec (.closeRx ⟨h, k⟩) s₀ = .next g.2.closed) ∧
    (∀ c, g.1 = some (cid, c) → exec (.closeRx ⟨h, k⟩) s₀ = .next (if c.state = 3 then g.2.delChan cid
      else ((g.2.closeChan cid 5).chanEvent cid chPeerClosed).delChan cid).closed)) ∧
  (∀ (h : GnxHdr) (addr : BitVec 128) (w : Bool) (s₀ : State),
    let s := s₀.heard (thas s₀.net.chans h.dcid.toNat)
    s.hubStopped (h.dcid.toNat % 2) = false →
    let g := s.gnxCheck h (ctlBytes 7 [addr.toNat, if w then 1 else 2])
    (g.1 = none → exec (.addrRx h addr w) s₀ = .next g.2.closed) ∧
    (∀ cid c, g.1 = some (cid, c) →
      let l := c.withdrawn.filter (fun x => x != addr.toNat)
      exec (.addrRx h addr w) s₀ = .next ((g.2.setChan cid { c with withdrawn := if w = true then l ++ [addr.toNat] else l }).pump cid).closed))

/-- The checks of a received packet in their order, and what DATA, ACK, CREDIT, VIOL, VIOL_ACK and NAK do. For every packet,
once heard (for a channel it ends Idle, and any ends Still): one for a hub whose fabric stop is in reset waits; one of no open
channel counts in UNK_CID, of another version in VER_DROP, of an unknown type or, for DATA, a payload that does not fit in
MALFORMED, of another PKEY is violation 0x03, and on an encrypted channel one not sealed, or whose tag is not the one its key
gives, is violation 0x05; one that fails does nothing else. DATA of a PSN received before is dropped, counted and acknowledged;
of one 4,096 or more ahead is malformed; of a new message with no unbound buffer is refused by a NAK; of one whose buffer it
takes, binds it and is placed. ACK with nothing acknowledged or lost takes the peer's counts, never lowered, and sending goes
on. CREDIT raises GRANT_SEEN, never lowers it. NAK of a packet in flight lets its range wait and counts RNR. VIOL_ACK ends the
VIOL it echoes. VIOL of another version than its open channel's counts in VER_DROP, of a code outside 1 to 5 is malformed; any
other is acknowledged and reported, and on an open channel ends the message it names, by code 1 with 0x08, 2 with 0x09, 4 with
0x0A, or fails the channel, code 3. (11_gnoxel_transport.md) -/
def Obligations.ChannelPackets : Prop :=
  (∀ (s : State) (h : GnxHdr) (plain : List Byte),
    let cid := h.dcid.toNat
    ((∀ c, tget? s.net.chans cid = some c → c.state ≠ 2) → s.gnxCheck h plain = (none, s.inc F.gnxUnkCid 1)) ∧
    (∀ c, tget? s.net.chans cid = some c → c.state = 2 →
      let fits := 1 ≤ h.type.toNat ∧ h.type.toNat ≤ 10 ∧ (h.type = 1 → h.plen.toNat ≤ c.maxPay ∧
        (h.last = true ∨ h.plen.toNat = c.maxPay) ∧ h.offset.toNat % Nat.max 1 c.maxPay = 0)
      let n := c.rcvCounts h
      let safe := c.enc = true → h.enc = true ∧ leNat (c.cipher cid false (epochOf n.1 n.2) (rcvHead h) plain).2 = h.tag.toNat
      (h.ver.toNat ≠ c.version → s.gnxCheck h plain = (none, s.inc F.gnxVerDrop 1)) ∧
      (h.ver.toNat = c.version → ¬ fits → s.gnxCheck h plain = (none, s.inc F.gnxMalformed 1)) ∧
      (h.ver.toNat = c.version → fits → h.pkey.toNat ≠ c.pkey → s.gnxCheck h plain = (none, s.violation cid h 3 0)) ∧
      (h.ver.toNat = c.version → fits → h.pkey.toNat = c.pkey → ¬ safe → s.gnxCheck h plain = (none, s.violation cid h 5 0)) ∧
      (h.ver.toNat = c.version → fits → h.pkey.toNat = c.pkey → safe →
        let c' : Chan := { c with peerCtl := n.2 }
        s.gnxCheck h plain = (some (cid, c'), s.setChan cid c')))) ∧
  (∀ (h : GnxHdr) (b : GnxAck) (k : GnxCredit) (now psn : Word) (msn : BitVec 24) (ofs : Word) (code : Byte) (pay : List Byte) (s₀ : State),
    let s := s₀.heard (thas s₀.net.chans h.dcid.toNat)
    s.hubStopped (h.dcid.toNat % 2) = true →
    let wait : GnxIn → Host.Outcome State Fault Refusal := fun x =>
      .next ({ s with net := { s.net with heldRx := s.net.heldRx ++ [x] } } : State).closed
    exec (.dataRx h pay) s₀ = wait (.data h pay) ∧ exec (.ackRx h b now) s₀ = wait (.ack h b now) ∧
    exec (.creditRx h k) s₀ = wait (.credit h k) ∧ exec (.violRx h code msn ofs) s₀ = wait (.viol h code msn ofs) ∧
    exec (.violAckRx h psn) s₀ = wait (.violAck h psn) ∧ exec (.nakRx h msn ofs) s₀ = wait (.nak h msn ofs)) ∧
  (∀ (h : GnxHdr) (pay : List Byte) (s₀ : State),
    let s := s₀.heard (thas s₀.net.chans h.dcid.toNat)
    s.hubStopped (h.dcid.toNat % 2) = false →
    let g := s.gnxCheck h (bytesAt pay 0 h.plen.toNat)
    let t := g.2
    (g.1 = none → exec (.dataRx h pay) s₀ = .next t.closed) ∧
    (∀ cid c, g.1 = some (cid, c) →
      let frame := gnxFrame (isV6 c.peerIp) c.enc h.plen.toNat
      (∀ psn, unwrapN 32 c.cumPsn h.psn.toNat = some psn → (psn < c.cumPsn ∨ c.seen.contains psn = true) →
        exec (.dataRx h pay) s₀ = .next (t.dupPacket cid c h).closed) ∧
      (∀ psn, unwrapN 32 c.cumPsn h.psn.toNat = some psn → c.seen.contains psn = false → c.cumPsn + 4096 ≤ psn →
        exec (.dataRx h pay) s₀ = .next (t.inc F.gnxMalformed 1).closed) ∧
      (∀ psn msn, unwrapN 32 c.cumPsn h.psn.toNat = some psn → c.cumPsn ≤ psn → psn < c.cumPsn + 4096 → c.seen.contains psn = false →
        unwrapN 24 c.rcvLow h.msn.toNat = some msn → c.rcvLow ≤ msn → msn < c.rcvLow + 4096 → c.doneMsns.contains msn = false →
        c.msgs.find? (fun m => m.msn == msn) = none →
        (c.bufs.find? (fun b => b.bound.isNone) = none → exec (.dataRx h pay) s₀ =
          .next (t.sendCtl cid 10 h.path [h.msn.toNat, h.offset.toNat, 1]).closed) ∧
        (∀ b, c.bufs.find? (fun b => b.bound.isNone) = some b →
          let c' := c.take psn frame h.ce
          let c2 : Chan := { c' with bufs := c'.bufs.map (fun x => if x == b then { b with bound := some msn } else x),
                                     msgs := c'.msgs ++ [⟨msn, b.tag, [], none, none⟩] }
          let u := (t.setChan cid c2).placePacket cid h msn pay
          (∀ e, tget? u.net.chans cid = some e → exec (.dataRx h pay) s₀ =
            .next (if h.solicit = true ∨ 8 ≤ e.sinceAck then u.sendAck cid h.path h.tstamp.toNat else u).closed))))) ∧
  (∀ (h : GnxHdr) (b : GnxAck) (now : Word) (s₀ : State),
    let s := s₀.heard (thas s₀.net.chans h.dcid.toNat)
    s.hubStopped (h.dcid.toNat % 2) = false →
    let g := s.gnxCheck h (ctlBytes 2 (ackFields b))
    (g.1 = none → exec (.ackRx h b now) s₀ = .next g.2.closed) ∧
    (∀ cid c cum, g.1 = some (cid, c) → c.flights = [] → c.sends = [] → b.echo = 0 → b.rcvBytes.toNat ≤ c.peerRcv →
      unwrapN 32 c.cumAcked b.cumPsn.toNat = some cum → exec (.ackRx h b now) s₀ = .next ((g.2.setChan cid { c with
        cumAcked := Nat.max c.cumAcked (Nat.min cum c.nextPsn), peerPosted := Nat.max c.peerPosted b.posted.toNat,
        peerRet := Nat.max c.peerRet b.ret.toNat, peerRcv := Nat.max c.peerRcv b.rcvBytes.toNat,
        peerCe := Nat.max c.peerCe b.ceBytes.toNat }).pump cid).closed)) ∧
  (∀ (h : GnxHdr) (k : GnxCredit) (s₀ : State),
    let s := s₀.heard (thas s₀.net.chans h.dcid.toNat)
    s.hubStopped (h.dcid.toNat % 2) = false →
    let g := s.gnxCheck h (ctlBytes 3 (creditFields k))
    (g.1 = none → exec (.creditRx h k) s₀ = .next g.2.closed) ∧
    (∀ cid c, g.1 = some (cid, c) → c.mode ≠ 2 →
      let c' : Chan := { c with grantSeen := Nat.max c.grantSeen k.grant.toNat, peerPosted := Nat.max c.peerPosted k.posted.toNat }
      exec (.creditRx h k) s₀ = .next ((g.2.setChan cid (c'.slotTurn g.2.tick false)).pump cid).closed)) ∧
  (∀ (h : GnxHdr) (psn : Word) (s₀ : State),
    let s := s₀.heard (thas s₀.net.chans h.dcid.toNat)
    s.hubStopped (h.dcid.toNat % 2) = false →
    let g := s.gnxCheck h (ctlBytes 9 [psn.toNat])
    (g.1 = none → exec (.violAckRx h psn) s₀ = .next g.2.closed) ∧
    (∀ cid c, g.1 = some (cid, c) → exec (.violAckRx h psn) s₀ =
      .next (g.2.modChan cid (fun c => { c with viols := c.viols.filter (fun v => v.psn != psn.toNat) })).closed)) ∧
  (∀ (h : GnxHdr) (msn : BitVec 24) (ofs : Word) (s₀ : State),
    let s := s₀.heard (thas s₀.net.chans h.dcid.toNat)
    s.hubStopped (h.dcid.toNat % 2) = false →
    let g := s.gnxCheck h (ctlBytes 10 [msn.toNat, ofs.toNat, 1])
    (g.1 = none → exec (.nakRx h msn ofs) s₀ = .next g.2.closed) ∧
    (∀ cid c m f, g.1 = some (cid, c) → c.sends.find? (fun m => m.started && m.msn % 2 ^ 24 == msn.toNat) = some m →
      c.flights.find? (fun f => f.msn == m.msn && f.offset == ofs.toNat) = some f →
      let sends' := c.sends.map (fun x => if x.msn = m.msn then { x with refused := x.refused ++ [(ofs.toNat, g.2.tick, f.tries)] } else x)
      exec (.nakRx h msn ofs) s₀ =
        .next ((g.2.setChan cid { c with flights := c.flights.erase f, sends := sends' }).inc F.pRnr 1 c.part).closed)) ∧
  (∀ (h : GnxHdr) (code : Byte) (msn : BitVec 24) (ofs : Word) (s₀ : State),
    let s := s₀.heard (thas s₀.net.chans h.dcid.toNat)
    s.hubStopped (h.dcid.toNat % 2) = false →
    let old := ∃ c, tget? s.net.chans h.dcid.toNat = some c ∧ c.state = 2 ∧ h.ver.toNat ≠ c.version
    let t := s.sendViolAck h
    let tell := fun (p : Option Nat) (k : Nat) =>
      t.violEvent p k 2 code.toNat h.src.toNat h.dcid.toNat h.scid.toNat msn.toNat ofs.toNat 0
    (old → exec (.violRx h code msn ofs) s₀ = .next (s.inc F.gnxVerDrop 1).closed) ∧
    (¬ old → (code.toNat < 1 ∨ 5 < code.toNat) → exec (.violRx h code msn ofs) s₀ = .next (s.inc F.gnxMalformed 1).closed) ∧
    (¬ old → 1 ≤ code.toNat → code.toNat ≤ 5 →
      ((∀ c, tget? t.net.chans h.dcid.toNat = some c → c.state ≠ 2) → exec (.violRx h code msn ofs) s₀ = .next (tell none 0xFFFFFFFF).closed) ∧
      (∀ c, tget? t.net.chans h.dcid.toNat = some c → c.state = 2 →
        let u := tell (some c.part) (c.handle h.dcid.toNat)
        let stop := fun (m : Option TxMsg) (k : Nat) => (m.map (fun m => (u.endSend h.dcid.toNat m k).pump h.dcid.toNat)).getD u
        let hit := c.sends.find? (fun m => m.started && m.msn % 2 ^ 24 == msn.toNat)
        exec (.violRx h code msn ofs) s₀ = .next (match code.toNat with
          | 1 => stop hit 8
          | 2 => stop hit 9
          | 3 => u.failChan h.dcid.toNat 6 chFailed
          | 4 => stop hit 0x0A
          | _ => u).closed)))

/-- Groups, sheaves, collective lists, activation ledgers, the chaff ledger, filler lists and permutes registered and released.
For every descriptor that starts at once and lacks no granule of an object: a group or sheaf number in use is a null resource,
an image that cannot be read a reported no-op, one outside its rules a null resource; a group of a partition that is not
confidential posts its pool and is registered, and a sheaf without AUTO and with GL_DECAY in 0.0 to 1.0 is registered. A
collective list or an activation ledger of no live plan, of one that has one already, of 0 or too many entries, unreadable, or
with an entry outside its rules, is a no-op; else it is registered. A release of what is not registered, or already releasing,
is a null resource; else it is marked and completes once nothing uses it. CHAFF_LEDGER_SET of 0 or 64 to 65,536 entries sets the
ring and completes. A filler list for a host partition that may not be filled is a no-op, an empty one completes at once,
another is kept; a withdrawal of no list is a null resource, of a list the pending grains leave it with FAULT in their status.
PERMUTE of a partition with a step or a permute is not consumed; of an unreadable block, an unknown group, or with maps outside
the rules, it is a no-op; another, no member's map digest here yet, begins: it sends its own to every member.
(12_collectives_and_steps.md) -/
def Obligations.CollectiveRegistrations : Prop :=
  (∀ (s : State) (d : Desc) (r : DRef) (t : State), s.starts 0x40 d r t →
    let g := d.fld 0 4
    ((t.group? r.part g).isSome = true →
      let y : State := (t.nullDesc r collNull g)
      y.atHand (.desc r) → exec (.groupRegister d) s = .next (y.ran (.desc r)).closed) ∧
    (∀ u, t.group? r.part g = none → t.descRead r.part (d.at 24 64) 1088 = (none, u) →
      let y : State := (u.noop r)
      y.atHand (.desc r) → exec (.groupRegister d) s = .next (y.ran (.desc r)).closed) ∧
    (∀ bs u, t.group? r.part g = none → t.descRead r.part (d.at 24 64) 1088 = (some bs, u) →
      (u.groupOk r.part g (leNat bs) = false →
      let y : State := (u.nullDesc r collNull g)
      y.atHand (.desc r) → exec (.groupRegister d) s = .next (y.ran (.desc r)).closed) ∧
      (u.groupOk r.part g (leNat bs) = true → u.confidential r.part = false →
      let y : State := (((u.putGroup r.part g (groupOf (leNat bs))).postPool r.part g (groupOf (leNat bs))).done r)
      y.atHand (.desc r) → exec (.groupRegister d) s = .next (y.ran (.desc r)).closed))) ∧
  (∀ (s : State) (d : Desc) (r : DRef) (t : State), s.starts 0x41 d r t →
    let g := d.fld 0 4
    ((∀ x, t.group? r.part g = some x → x.releasing.isSome = true) →
      let y : State := (t.nullDesc r collNull g)
      y.atHand (.desc r) → exec (.groupRelease d) s = .next (y.ran (.desc r)).closed) ∧
    (∀ x, t.group? r.part g = some x → x.releasing = none →
      let y : State := ((t.putGroup r.part g { x with releasing := some r }).groupTryRelease r.part g)
      y.atHand (.desc r) → exec (.groupRelease d) s = .next (y.ran (.desc r)).closed)) ∧
  (∀ (s : State) (p g : Nat) (x : CollGroup) (r : DRef), s.group? p g = some x → x.releasing = some r → s.groupTryRelease p g =
    if s.groupNamed p g = true then s else ((s.returnPool p g x).modColl p (fun c => { c with groups := tdel c.groups g })).done r) ∧
  (∀ (s : State) (d : Desc) (r : DRef) (t : State), s.starts 0x42 d r t →
    let n := d.fld 0 10
    ((t.sheaf? r.part n).isSome = true →
      let y : State := (t.nullDesc r collNull n)
      y.atHand (.desc r) → exec (.sheafRegister d) s = .next (y.ran (.desc r)).closed) ∧
    (∀ u, t.sheaf? r.part n = none → t.descRead r.part (d.at 24 64) 128 = (none, u) →
      let y : State := (u.noop r)
      y.atHand (.desc r) → exec (.sheafRegister d) s = .next (y.ran (.desc r)).closed) ∧
    (∀ bs u, t.sheaf? r.part n = none → t.descRead r.part (d.at 24 64) 128 = (some bs, u) →
      (u.sheafOk r.part n (leNat bs) = false →
      let y : State := (u.nullDesc r collNull n)
      y.atHand (.desc r) → exec (.sheafRegister d) s = .next (y.ran (.desc r)).closed) ∧
      (u.sheafOk r.part n (leNat bs) = true → bitN (leNat bs) 202 = false →
        decayClamp (fldN (leNat bs) 224 32) = (fldN (leNat bs) 224 32, none) →
      let y : State := ((u.putSheaf r.part n { sheafOf (leNat bs) with decay := fldN (leNat bs) 224 32 }).done
            { r with clamped := r.clamped || false || false })
      y.atHand (.desc r) → exec (.sheafRegister d) s = .next (y.ran (.desc r)).closed))) ∧
  (∀ (s : State) (d : Desc) (r : DRef) (t : State), s.starts 0x43 d r t →
    let n := d.fld 0 10
    ((∀ x, t.sheaf? r.part n = some x → x.releasing.isSome = true) →
      let y : State := (t.nullDesc r collNull n)
      y.atHand (.desc r) → exec (.sheafRelease d) s = .next (y.ran (.desc r)).closed) ∧
    (∀ x, t.sheaf? r.part n = some x → x.releasing = none →
      let y : State := ((t.putSheaf r.part n { x with releasing := some r }).sheafTryRelease r.part n)
      y.atHand (.desc r) → exec (.sheafRelease d) s = .next (y.ran (.desc r)).closed)) ∧
  (∀ (s : State) (p n : Nat) (x : Sheaf) (r : DRef), s.sheaf? p n = some x → x.releasing = some r →
    let used := (∃ l ∈ (s.part p).coll.lists, ∃ e ∈ l.2.entries, eOp e = 0 ∧ eSheaf e = n) ∨ x.banks ≠ [] ∨ x.close.isSome = true
    (used → s.sheafTryRelease p n = s) ∧ (¬ used → s.sheafTryRelease p n = (s.sheafGone p n).done r)) ∧
  (∀ (s : State) (p plan : Nat) (r : DRef),
    (∀ l, tget? (s.part p).coll.lists plan = some l → l.releasing = some r → s.listTryRelease p plan =
      if s.planInUse p plan = true then s else (s.modColl p (fun c => { c with lists := tdel c.lists plan })).done r) ∧
    (∀ l, tget? (s.part p).coll.ledgers plan = some l → l.releasing = some r → s.ledgerTryRelease p plan =
      if s.planInUse p plan = true then s else (s.modColl p (fun c => { c with ledgers := tdel c.ledgers plan })).done r)) ∧
  (∀ (s : State) (d : Desc) (r : DRef) (t : State), s.starts 0x44 d r t →
    let plan := d.fld 0 8
    let n := d.fld 16 11
    ((t.livePlan r.part plan = none ∨ thas (t.part r.part).coll.lists plan = true ∨ n = 0 ∨ 1024 < n) →
      let y : State := (t.noop r)
      y.atHand (.desc r) → exec (.collectiveListRegister d) s = .next (y.ran (.desc r)).closed) ∧
    (∀ x u, t.livePlan r.part plan = some x → thas (t.part r.part).coll.lists plan = false → n ≠ 0 → n ≤ 1024 →
      t.descRead r.part (d.at 24 64) (64 * n) = (none, u) →
      let y : State := (u.noop r)
      y.atHand (.desc r) → exec (.collectiveListRegister d) s = .next (y.ran (.desc r)).closed) ∧
    (∀ x bs u, t.livePlan r.part plan = some x → thas (t.part r.part).coll.lists plan = false → n ≠ 0 → n ≤ 1024 →
      t.descRead r.part (d.at 24 64) (64 * n) = (some bs, u) →
      let es := (List.range n).map (fun i => leAt bs (64 * i) 64)
      let y : State := (if es.all (fun e => u.entryOk r.part x.nticks e) then
        (u.modColl r.part (fun c => { c with lists := tput c.lists plan ⟨es, none⟩ })).done r else u.noop r)
      y.atHand (.desc r) → exec (.collectiveListRegister d) s = .next (y.ran (.desc r)).closed)) ∧
  (∀ (s : State) (d : Desc) (r : DRef) (t : State), s.starts 0x45 d r t →
    let plan := d.fld 0 8
    ((∀ l, tget? (t.part r.part).coll.lists plan = some l → l.releasing.isSome = true) →
      let y : State := (t.nullDesc r collNull plan)
      y.atHand (.desc r) → exec (.collectiveListRelease d) s = .next (y.ran (.desc r)).closed) ∧
    (∀ l, tget? (t.part r.part).coll.lists plan = some l → l.releasing = none →
      let y : State := ((t.modColl r.part (fun c => { c with lists := tput c.lists plan { l with releasing := some r } })).listTryRelease
        r.part plan)
      y.atHand (.desc r) → exec (.collectiveListRelease d) s = .next (y.ran (.desc r)).closed)) ∧
  (∀ (s : State) (d : Desc) (r : DRef) (t : State), s.starts 0x46 d r t →
    let plan := d.fld 0 8
    let n := d.at 20 32
    ((t.livePlan r.part plan = none ∨ thas (t.part r.part).coll.ledgers plan = true ∨ n = 0 ∨ 65536 < n) →
      let y : State := (t.noop r)
      y.atHand (.desc r) → exec (.activationLedgerRegister d) s = .next (y.ran (.desc r)).closed) ∧
    (∀ x u, t.livePlan r.part plan = some x → thas (t.part r.part).coll.ledgers plan = false → n ≠ 0 → n ≤ 65536 →
      t.descRead r.part (d.at 24 64) (32 * n) = (none, u) →
      let y : State := (u.noop r)
      y.atHand (.desc r) → exec (.activationLedgerRegister d) s = .next (y.ran (.desc r)).closed) ∧
    (∀ x bs u, t.livePlan r.part plan = some x → thas (t.part r.part).coll.ledgers plan = false → n ≠ 0 → n ≤ 65536 →
      t.descRead r.part (d.at 24 64) (32 * n) = (some bs, u) →
      let es := (List.range n).map (fun i => leAt bs (32 * i) 32)
      let y : State := (if es.all (fun w => u.ledgerEntryOk r.part w) then
        (u.modColl r.part (fun c => { c with ledgers := tput c.ledgers plan ⟨d.at 24 64, es, [], 0, none⟩ })).done r
        else u.noop r)
      y.atHand (.desc r) → exec (.activationLedgerRegister d) s = .next (y.ran (.desc r)).closed)) ∧
  (∀ (s : State) (d : Desc) (r : DRef) (t : State), s.starts 0x47 d r t →
    let plan := d.fld 0 8
    ((∀ l, tget? (t.part r.part).coll.ledgers plan = some l → l.releasing.isSome = true) →
      let y : State := (t.nullDesc r collNull plan)
      y.atHand (.desc r) → exec (.activationLedgerRelease d) s = .next (y.ran (.desc r)).closed) ∧
    (∀ l, tget? (t.part r.part).coll.ledgers plan = some l → l.releasing = none →
      let y : State := ((t.modColl r.part (fun c => { c with ledgers := tput c.ledgers plan { l with releasing := some r } })).ledgerTryRelease
        r.part plan)
      y.atHand (.desc r) → exec (.activationLedgerRelease d) s = .next (y.ran (.desc r)).closed)) ∧
  (∀ (s : State) (d : Desc) (r : DRef) (t : State), s.permRoom d.part.val = true → s.starts 0x48 d r t →
    (∀ u, t.descRead r.part (d.at 16 64) 128 = (none, u) →
      let y : State := (u.noop r)
      y.atHand (.desc r) → exec (.permute d) s = .next (y.ran (.desc r)).closed) ∧
    (∀ bs u, t.descRead r.part (d.at 16 64) 128 = (some bs, u) →
      let b := leNat bs
      (u.group? r.part (fldN b 8 4) = none →
        let y : State := (u.noop r)
        y.atHand (.desc r) → exec (.permute d) s = .next (y.ran (.desc r)).closed) ∧
      (∀ g ob nb v w, u.group? r.part (fldN b 8 4) = some g →
        u.descRead r.part (fldN b 320 64) (16 * permCount (fldN b 272 6)) = (some ob, v) →
        v.descRead r.part (fldN b 384 64) (16 * permCount (fldN b 278 6)) = (some nb, w) →
        let x := permuteOf r (d.at 16 64) b g.self ob nb
        (w.permuteOk r.part (fldN b 0 8) (fldN b 128 64) g x = false →
          let y : State := (w.noop r)
          y.atHand (.desc r) → exec (.permute d) s = .next (y.ran (.desc r)).closed) ∧
        (w.permuteOk r.part (fldN b 0 8) (fldN b 128 64) g x = true → (w.part r.part).coll.permEarly = [] →
          let t' := w.modColl r.part (fun c => { c with permute := some x })
          let y : State := (g.peers.foldl (fun q k => q.permCtl r.part x k pcDigest 0 (leBytes 64 x.mapDig)) t').permAgreed r.part
          y.atHand (.desc r) → exec (.permute d) s = .next (y.ran (.desc r)).closed)))) ∧
  (∀ (s : State) (d : Desc), s.permRoom d.part.val = false → exec (.permute d) s = .next s.closed) ∧
  (∀ (s : State) (d : Desc) (r : DRef) (t : State), s.starts 0x49 d r t →
    (d.at 16 32 = 0 ∨ 64 ≤ d.at 16 32 ∧ d.at 16 32 ≤ 65536) →
      let y : State := ((t.modColl r.part (fun c => { c with chaffN := d.at 16 32, chaffPva := d.at 24 64 })).done
        { r with clamped := r.clamped || false })
      y.atHand (.desc r) → exec (.chaffLedgerSet d) s = .next (y.ran (.desc r)).closed) ∧
  (∀ (s : State) (d : Desc) (r : DRef) (t : State), s.starts 0x4A d r t →
    let n := d.fld 16 16
    (t.mayFill r.part (d.fld 0 6) = false →
      let y : State := (t.noop r)
      y.atHand (.desc r) → exec (.fillerListPost d) s = .next (y.ran (.desc r)).closed) ∧
    (∀ bs u, t.mayFill r.part (d.fld 0 6) = true → t.descRead r.part (d.at 24 64) (32 * n) = (some bs, u) →
      let y : State := (if n = 0 then u.done r else u.modColl r.part (fun c => { c with fillers := c.fillers ++
        [⟨r, d.fld 0 6, d.at 24 64, d.at 32 64, d.at 40 64, (List.range n).map (fun i => (i, leAt bs (32 * i) 32)), [], none⟩] }))
      y.atHand (.desc r) → exec (.fillerListPost d) s = .next (y.ran (.desc r)).closed)) ∧
  (∀ (s : State) (d : Desc) (r : DRef) (t : State), s.starts 0x4B d r t →
    let hit := (t.part r.part).coll.fillers.find? (fun l => l.host == d.fld 0 6 && l.pva == d.at 24 64 && l.withdrawn.isNone)
    (hit = none →
      let y : State := (t.nullDesc r collNull (d.at 24 64))
      y.atHand (.desc r) → exec (.fillerListWithdraw d) s = .next (y.ran (.desc r)).closed) ∧
    (∀ l, hit = some l →
      let u := l.grains.foldl (fun q e => q.skipStatus r.part (l.stat + 16 * e.1) (fldN e.2 48 16)) t
      let y : State := ((u.modColl r.part (fun c => { c with fillers := c.fillers.map (fun y =>
        if y.desc = l.desc then { y with grains := [], withdrawn := some r } else y) })).fillersLook r.part)
      y.atHand (.desc r) → exec (.fillerListWithdraw d) s = .next (y.ran (.desc r)).closed))

/-- List entries, sheaves, rings and permutes: what begins, closes or fails them, and what a received message does. For every
partition and entry: the oldest step in progress whose entry has neither begun nor failed begins it only once its tick has come
and its wait is met; the oldest overdue one fails at its deadline with cause 1, its signals posted, a collective fault, its
step's commit lost; without such a step nothing changes. A sheaf closes for its open step only at or past a deadline that it
has; its maps awaited are told once; its record becomes final only with every map, and not while its bank is held, which is told
once; it merges only a final close. R432 decides a contribution: on time in its own close, gleaned at most eight closes later,
chaff once the window has passed, else pending. A collective message of another MVER, group, KIND or sender, or cut short, is
discarded into COLL_BAD and its buffer posted again; of a KIND another command takes, it stays; else it is placed. A ring slot
without the next SEQ is not taken; a stall that is none changes nothing. (12_collectives_and_steps.md, 14_host_interface.md) -/
def Obligations.CollectiveTraffic : Prop :=
  (∀ (p : PartId) (idx : Fin 1024) (s : State),
    (s.entryToBegin p.val idx.val = none → exec (.collectiveEntryBegin p idx) s = .next s.flush) ∧
    (∀ r, s.entryToBegin p.val idx.val = some r →
      exec (.collectiveEntryBegin p idx) s = .next (s.beginEntry p.val r.id idx.val).closed) ∧
    (s.entryOverdue p.val idx.val = none → exec (.collectiveEntryDeadline p idx) s = .next s.flush) ∧
    (∀ r, s.entryOverdue p.val idx.val = some r →
      exec (.collectiveEntryDeadline p idx) s = .next (s.failEntry p.val r.id idx.val 1 0).closed)) ∧
  (∀ (s : State) (p run idx e : Nat) (r : StepRun), s.entry? p run idx = some (r, e) →
    (s.tick < r.first + eStart e → s.beginEntry p run idx = s) ∧
    (bitN e 102 = true → s.signal p (fldN e 96 6) < fldN e 128 32 → s.beginEntry p run idx = s) ∧
    (∀ x, (s.entryRun p run idx).begun = false → (s.entryRun p run idx).failed = false → r.first + eStart e ≤ s.tick → bitN e 102 = false →
      s.group? p (eGroup e) = some x →
      let stands := eOp e = 0 ∧ s.recordStands p (eSheaf e) r.stepNo = true
      let t := s.putEntryRun p { s.entryRun p run idx with begun := true, need := if stands then [] else (s.entryRun p run idx).need }
      s.beginEntry p run idx = (if eOp e = 0 then t.sheafStart p idx r e else t.entryStart p idx r e x).entryLook p run idx)) ∧
  (∀ (s : State) (p run idx cause rank e : Nat) (r : StepRun), s.entry? p run idx = some (r, e) →
    let x := s.entryRun p run idx
    ((eOp e = 0 ∨ x.failed = true ∨ x.complete = true) → s.failEntry p run idx cause rank = s) ∧
    (eOp e ≠ 0 → x.failed = false → x.complete = false →
      let t := s.putEntryRun p { x with failed := true, posted := true, sentDone := true }
      let t := if x.posted = false ∧ bitN e 109 = true then t.postSig p (fldN e 103 6) else t
      let t := if x.sentDone = false ∧ bitN e 116 = true then t.postSig p (fldN e 110 6) else t
      s.failEntry p run idx cause rank = (t.collFault p r.plan idx (eOp e) (eGroup e) cause rank 0).failRun p run 6)) ∧
  (∀ (p : PartId) (n : Fin 1024) (s : State),
    (s.sheafOpen? p.val n.val = none → exec (.sheafClose p n) s = .next s.flush) ∧
    (∀ r e, s.sheafOpen? p.val n.val = some (r, e) → exec (.sheafClose p n) s =
      .next (if eDl e ≠ 0xFFFF ∧ r.first + eDl e ≤ s.tick then (s.closeSheaf p.val n.val r.stepNo (closeFlags e)).closed else s.flush)) ∧
    ((∀ h, s.sheaf? p.val n.val = some h → h.close = none) → exec (.mapsAwaitedTimeout p n) s = .next s.flush ∧
      exec (.sheafRecordFinal p n) s = .next s.closed ∧ exec (.sheafMergeComplete p n) s = .next s.closed) ∧
    (∀ h c x, s.sheaf? p.val n.val = some h → h.close = some c → s.group? p.val h.group = some x →
      ((c.final.isSome = true ∨ c.toldMaps = true ∨ s.mapsMissing p.val h x c = []) →
        exec (.mapsAwaitedTimeout p n) s = .next s.flush) ∧
      (c.final = none → c.toldMaps = false → s.mapsMissing p.val h x c ≠ [] → exec (.mapsAwaitedTimeout p n) s =
        .next ((s.putSheaf p.val n.val { h with close := some { c with toldMaps := true } }).sheafEvent p.val n.val x.ownShard c.step 3
          (nthD c.own 0 0) h.expMask 0).flush) ∧
      ((c.final.isSome = true ∨ s.mapsMissing p.val h x c ≠ []) → exec (.sheafRecordFinal p n) s = .next s.closed) ∧
      (c.final = none → s.mapsMissing p.val h x c = [] → thas h.banks (c.step % 2) = true → exec (.sheafRecordFinal p n) s =
        .next (if c.toldBank then s else (s.putSheaf p.val n.val { h with close := some { c with toldBank := true } }).sheafEvent p.val n.val
          x.ownShard c.step 4 (nthD c.own 0 0) h.expMask 0).closed) ∧
      (c.final = none → s.mapsMissing p.val h x c = [] → thas h.banks (c.step % 2) = false → (s.activeStep p.val c.step).isSome = true →
        exec (.sheafRecordFinal p n) s = .next (s.decideClose p.val n.val { h with banks := tput h.banks (c.step % 2) c.step } x c
          (s.agreedMaps p.val h x c)).closed) ∧
      (c.final = none → exec (.sheafMergeComplete p n) s = .next s.closed))) ∧
  (∀ (p : PartId) (n : Fin 1024) (s : State), exec (.sheafMergeComplete p n) s = .next (s.sheafMerge p.val n.val).closed) ∧
  (∀ (final : List Nat) (n win step src : Nat),
    (step = n → bitN (nthD final 0 0) src = true → decideOf final n win step src = 1) ∧
    (step < n → n - step ≤ 8 → bitN (nthD final (n - step) 0) src = true → decideOf final n win step src = 2) ∧
    (¬ (step = n ∧ bitN (nthD final 0 0) src = true) → ¬ (step < n ∧ n - step ≤ 8 ∧ bitN (nthD final (n - step) 0) src = true) →
      decideOf final n win step src = if step + win ≤ n then 3 else 0)) ∧
  (∀ (cid : Fin 16384) (s : State), (∀ c, tget? s.net.chans cid.val = some c → c.taken = []) →
    exec (.gatherPieceRx cid) s = .next s.closed ∧ exec (.broadcastPieceRx cid) s = .next s.closed ∧
    exec (.allToAllBlockRx cid) s = .next s.closed ∧ exec (.contributionRx cid) s = .next s.closed ∧
    exec (.presenceMapRx cid) s = .next s.closed ∧ exec (.permuteLeafRx cid) s = .next s.closed ∧
    exec (.permuteControlRx cid) s = .next s.closed) ∧
  (∀ (cid : Fin 16384) (s t : State) (c : Chan) (b b' : GnxBuf) (l : List GnxBuf) (k : Nat) (bs : List Byte) (x : CollGroup),
    tget? s.net.chans cid.val = some c → c.taken = b :: l → b.owner = .engine 2 k → s.takeMsg cid.val = (some (b', bs), t) →
    t.group? (k / 16) (k % 16) = some x →
    let h := collHdr bs
    let p := k / 16
    let g := k % 16
    let good := h.mver = 0x10 ∧ h.group = g ∧ x.rankOf (c.handle cid.val) = some h.src ∧ (if h.kind = 0x16 then 128 else 64) + h.len ≤ bs.length
    let place := fun (a : Bool × State) => (if a.1 then a.2.collRepost p g cid.val b' else a.2.collDrop p g cid.val b').closed
    (t.collDrop p g cid.val b' = ((t.inc F.pCollBad 1 p).postBuf cid.val b'.tag b'.pva x.bufLen b'.owner)) ∧
    (∀ e ∈ [(0x11, Instr.contributionRx cid), (0x12, .gatherPieceRx cid), (0x13, .broadcastPieceRx cid), (0x14, .allToAllBlockRx cid),
      (0x15, .presenceMapRx cid), (0x16, .permuteLeafRx cid), (0x17, .permuteControlRx cid)],
      (h.kind ≠ e.1 → 0x11 ≤ h.kind → h.kind ≤ 0x17 → exec e.2 s = .next s.closed) ∧
      ((h.kind < 0x11 ∨ 0x17 < h.kind) → exec e.2 s = .next (t.collDrop p g cid.val b').closed) ∧
      (¬ good → h.kind = e.1 → exec e.2 s = .next (t.collDrop p g cid.val b').closed)) ∧
    (good → h.kind = 0x12 → exec (.gatherPieceRx cid) s = .next (place (t.entryPart p g h.src h (bytesAt bs 64 h.len)))) ∧
    (good → h.kind = 0x13 → exec (.broadcastPieceRx cid) s = .next (place (t.entryPart p g h.src h (bytesAt bs 64 h.len)))) ∧
    (good → h.kind = 0x14 → exec (.allToAllBlockRx cid) s = .next (place (t.entryPart p g h.src h (bytesAt bs 64 h.len)))) ∧
    (good → h.kind = 0x15 → exec (.presenceMapRx cid) s = .next (place (t.presenceMap p g h.src h bs))) ∧
    (good → h.kind = 0x16 → exec (.permuteLeafRx cid) s = .next (place (t.permLeaf p g h.src h bs))) ∧
    (good → h.kind = 0x17 → exec (.permuteControlRx cid) s = .next (place (t.permControl p g h.src h bs))) ∧
    (good → h.kind = 0x11 → let a := t.contribution p g h.src cid.val b' h bs
      exec (.contributionRx cid) s = .next (if a.1 = false then (a.2.2.collDrop p g cid.val b').closed
        else if a.2.1 then a.2.2.closed else (a.2.2.collRepost p g cid.val b').closed))) ∧
  (∀ (p : PartId) (g : Fin 16) (k : Fin 64) (s : State),
    (s.group? p.val g.val = none → exec (.p2pRingSlotRx p g k) s = .next s.closed) ∧
    (∀ x m, s.group? p.val g.val = some x → x.members[k.val]? = some m → x.ringSlots ≠ 0 →
      let o := s.readPva (s.engCtx p.val engColl) (x.ring + 512 + k.val * x.ringSlots * x.slotLen + m.taken % x.ringSlots * x.slotLen) x.slotLen
      ((o.1.fault = true ∨ (collHdr o.1.bytes).seq ≠ (m.taken + 1) % 2 ^ 32) → exec (.p2pRingSlotRx p g k) s = .next o.2.closed)) ∧
    (s.group? p.val g.val = none → exec (.p2pStallTimeout p g k) s = .next s.closed) ∧
    (exec (.p2pStallTimeout p g k) s = .next ((s.ringLook p.val g.val k.val).p2pStall p.val g.val k.val).closed) ∧
    (exec (.p2pRingSlotRx p g k) s = .next (s.takeSlot p.val g.val k.val).closed) ∧
    (∀ x m, s.group? p.val g.val = some x → x.members[k.val]? = some m →
      (m.flight = [] ∨ m.fallback = true ∨ s.tick < m.moved + s.rd F.hpP2pTmo m.port) → s.p2pStall p.val g.val k.val = s))

/-- The descriptors of a job: registration, leaving, checkpoint sets, the cursor, takes, replay, rollback and restore. For every
descriptor that starts at once and lacks no granule of an object: JOB_REGISTER of an unreadable image is a reported no-op, of
one outside its rules (or with a job already) a null resource; one whose buddy bits all stand sets the job, EPOCH, RANK, N_ACT
and JSTATE (active or spare), with a membership event of cause 1, and completes. JOB_LEAVE of no job, or twice, is a null
resource; else the member leaves at once if it is alone, and otherwise holds. CHECKPOINT_SET of no job is a null resource, of a
member without buddies sets none and completes. CURSOR_WRITE of at most 4,096 bytes keeps what it reads, or is a no-op.
CHECKPOINT_TAKE waits for the next commit. STEP_REPLAY of no failed step, not of that one, beside another replay, or in hold, is
a null resource; of a plan without promotions it runs the failed step's update grains again and counts in STEP_RPL; ROLLBACK of
step 0 with no job-complete checkpoint, or past COMMIT, is a null resource, else it rolls back; MEMBER_RESTORE of no job or no
such rank is a null resource, of an unreadable list a no-op, else begins. (13_continuity.md) -/
def Obligations.JobDescriptors : Prop :=
  (∀ (s : State) (d : Desc) (r : DRef) (t : State), s.starts 0x50 d r t →
    (∀ u, t.descRead r.part (d.at 16 64) 2112 = (none, u) →
      let y : State := (u.noop r)
      y.atHand (.desc r) → exec (.jobRegister d) s = .next (y.ran (.desc r)).closed) ∧
    (∀ bs u, t.descRead r.part (d.at 16 64) 2112 = (some bs, u) →
      let b := leNat bs
      let n := fldN b 8 7
      let ms := (List.range n).map (jobMember b)
      let active := (List.range n).filter (fun i => ((ms[i]?).map (fun m => m.role)) == some 0)
      (u.jobOk r.part b = false →
      let y : State := (u.nullDesc r contNull (d.at 16 64))
      y.atHand (.desc r) → exec (.jobRegister d) s = .next (y.ran (.desc r)).closed) ∧
      (u.jobOk r.part b = true → (∀ m ∈ ms, buddyKept ms m m.buddy0 = m.buddy0 ∧ buddyKept ms m m.buddy1 = m.buddy1) →
        let j : Job :=
          { n := n, self := fldN b 15 6, anchor := fldN b 21 6, jobId := fldN b 64 64, members := ms, active := active,
            version := u.rd F.idCifMax, heard := active.map (fun i => (i, u.tick)), reports := [], excused := [], accepted := none,
            accepts := [], readies := [], roots := [], ckdone := [], joined := [], stated := [], lastRenew := u.tick, pauseAt := none,
            pauseAcks := [], restarting := false, joinOwed := false, leaving := none }
        let v := (u.modCont r.part (fun c => { c with job := some j })).wr F.pEpoch (fldN b 128 64) r.part
        let v := (v.wr F.pRank (fldN b 15 6) r.part).wr F.pNAct active.length r.part
        let v := v.wr F.pJstate (if fldN b 15 6 ∈ active then jsActive else jsSpare) r.part
        let y : State := ((v.memberEvent r.part (fldN b 64 64) 0 (fldN b 128 64) (maskOf active) 1 0).done
          { r with clamped := r.clamped || false })
        y.atHand (.desc r) → exec (.jobRegister d) s = .next (y.ran (.desc r)).closed))) ∧
  (∀ (s : State) (d : Desc) (r : DRef) (t : State), s.starts 0x51 d r t →
    ((∀ j, t.job? r.part = some j → j.leaving.isSome = true) →
      let y : State := (t.nullDesc r contNull 0)
      y.atHand (.desc r) → exec (.jobLeave d) s = .next (y.ran (.desc r)).closed) ∧
    (∀ j, t.job? r.part = some j → j.leaving = none →
      let u := t.modJob r.part (fun j => { j with leaving := some r })
      let y : State := (if j.others = [] then (u.abandonAll r.part 7).leftJob r.part ((u.abandonAll r.part 7).rd F.pEpoch r.part)
        else (u.abandonAll r.part 8).wr F.pJstate jsHold r.part)
      y.atHand (.desc r) → exec (.jobLeave d) s = .next (y.ran (.desc r)).closed)) ∧
  (∀ (s : State) (d : Desc) (r : DRef) (t : State), s.starts 0x52 d r t →
    (t.job? r.part = none →
      let y : State := (t.nullDesc r contNull 0)
      y.atHand (.desc r) → exec (.checkpointSet d) s = .next (y.ran (.desc r)).closed) ∧
    (∀ j m, t.job? r.part = some j → j.members[j.self]? = some m → m.buddy0 = none → m.buddy1 = none →
      let y : State := ((t.modCont r.part (fun c => { c with buddies := [], slotLen := d.at 32 64 })).done r)
      y.atHand (.desc r) → exec (.checkpointSet d) s = .next (y.ran (.desc r)).closed)) ∧
  (∀ (s : State) (d : Desc) (r : DRef) (t : State), s.starts 0x53 d r t → d.at 24 13 ≤ 4096 →
    (∀ u, t.descRead r.part (d.at 16 64) (d.at 24 13) = (none, u) →
      let y : State := (u.noop r)
      y.atHand (.desc r) → exec (.cursorWrite d) s = .next (y.ran (.desc r)).closed) ∧
    (∀ b u, t.descRead r.part (d.at 16 64) (d.at 24 13) = (some b, u) →
      let y : State := ((u.modCont r.part (fun c => { c with cursor := b })).done { r with clamped := r.clamped || false })
      y.atHand (.desc r) → exec (.cursorWrite d) s = .next (y.ran (.desc r)).closed)) ∧
  (∀ (s : State) (d : Desc) (r : DRef) (t : State), s.starts 0x54 d r t →
      let y : State := (t.modCont r.part (fun c => { c with takes := c.takes ++ [r] }))
      y.atHand (.desc r) → exec (.checkpointTake d) s = .next (y.ran (.desc r)).closed) ∧
  (∀ (s : State) (d : Desc) (r : DRef) (t : State), s.starts 0x55 d r t →
    (t.part r.part).cont.failed = none →
      let y : State := (t.nullDesc r contNull (d.at 16 64))
      y.atHand (.desc r) → exec (.stepReplay d) s = .next (y.ran (.desc r)).closed) ∧
  (∀ (s : State) (d : Desc) (r : DRef) (t : State) f x, s.starts 0x55 d r t → (t.part r.part).cont.failed = some f →
    tget? (t.part r.part).cad.plans f.plan = some x →
    ((f.stepNo ≠ d.at 16 64 ∨ (∃ y ∈ t.actives r.part, y.replay = true) ∨ t.rd F.pJstate r.part = jsHold) →
      let y : State := (t.nullDesc r contNull (d.at 16 64))
      y.atHand (.desc r) → exec (.stepReplay d) s = .next (y.ran (.desc r)).closed) ∧
    (f.stepNo = d.at 16 64 → (∀ y ∈ t.actives r.part, y.replay = false) → t.rd F.pJstate r.part ≠ jsHold → tget? (t.part r.part).tier.promos f.plan = none →
      let id := (t.part r.part).cad.nextRun
      let y : StepRun := ⟨id, f.plan, d.at 16 64, some r, t.tick, t.tick, 0, x.statStride, x.tptPva, x.statPva, .running, 0, none, none,
        false, f.updates, true, false⟩
      let u := t.modCad r.part (fun c => { c with
        steps := y :: c.steps, nextRun := id + 1, work := f.updates.map (fun g => t.toAgain id g) ++ c.work })
      let v := u.inc F.pStepRpl 1 r.part
      let w := v.commitEvent r.part (d.at 16 64) 0x10 (v.rd F.pRank r.part)
      tget? (w.part r.part).tier.promos f.plan = none →
      let y : State := ((w.countSteps r.part).stepLook r.part)
      y.atHand (.desc r) → exec (.stepReplay d) s = .next (y.ran (.desc r)).closed)) ∧
  (∀ (s : State) (d : Desc) (r : DRef) (t : State), s.starts 0x56 d r t →
    let c := if d.at 16 64 = 0 then t.rd F.pCkjob r.part else d.at 16 64
    ((c = 0 ∨ t.rd F.pCommit r.part < c) →
      let y : State := (t.nullDesc r contNull (d.at 16 64))
      y.atHand (.desc r) → exec (.rollback d) s = .next (y.ran (.desc r)).closed) ∧
    (c ≠ 0 → c ≤ t.rd F.pCommit r.part →
      let y : State := (t.rollback r.part c (some r))
      y.atHand (.desc r) → exec (.rollback d) s = .next (y.ran (.desc r)).closed)) ∧
  (∀ (s : State) (d : Desc) (r : DRef) (t : State), s.starts 0x57 d r t →
    (t.job? r.part = none →
      let y : State := (t.nullDesc r contNull (d.fld 0 6))
      y.atHand (.desc r) → exec (.memberRestore d) s = .next (y.ran (.desc r)).closed) ∧
    (∀ j, t.job? r.part = some j →
      (j.n ≤ d.fld 0 6 →
        let y : State := (t.nullDesc r contNull (d.fld 0 6))
        y.atHand (.desc r) → exec (.memberRestore d) s = .next (y.ran (.desc r)).closed) ∧
      (d.fld 0 6 < j.n →
        (∀ u, t.descRead r.part (d.at 24 64) (136 * d.fld 6 12) = (none, u) →
      let y : State := (u.noop r)
      y.atHand (.desc r) → exec (.memberRestore d) s = .next (y.ran (.desc r)).closed) ∧
        (∀ bs u, t.descRead r.part (d.at 24 64) (136 * d.fld 6 12) = (some bs, u) →
          let l := (List.range (d.fld 6 12)).map (fun i => (leAt bs (136 * i) 8 % 4096, bytesAt bs (136 * i + 8) 128))
          let y : State := (u.restoreStart r.part
            ⟨some r, false, d.fld 0 6, u.rd F.pCkjob r.part, l, d.at 32 64, [], 0, 0, 0, false, [], [], [], []⟩)
          y.atHand (.desc r) → exec (.memberRestore d) s = .next (y.ran (.desc r)).closed))))

/-- Two quorums always share an active member; and what each cluster-control message and timeout does. For every job, any two
sets that are quorums of its active members share an active member, so two epochs can never form side by side. A message heard
ends Still. One of another job, or of no other member, changes nothing more; one of a version above the epoch's changes nothing
but for the version event that reports it; nor does a step message of an epoch left behind or of a sender not active change
anything. RENEW under the own epoch notes its sender as heard, with its report; under a lower one it is dropped. RENEW goes out
from an active member every LEASE_TICKS / 16 ticks. A member active without its lease enters hold, with one it does not. The
leading member, unless it leaves, proposes the epoch without those it no longer hears. A PROPOSE is taken, an ACCEPT recorded
when it is the one accepted here and its sender's statement fits. JOIN whose statement fits notes its sender heard; the leading
member proposes the active set, without a sender that joins as a spare. PAUSE asks are taken and answered, answers kept. An
excused member past its ticks is missing. ROOTS, READY, NOTREADY and CKDONE are kept once and the step or checkpoint looked at;
TREE compares the shard of its step. (13_continuity.md, 01_organization.md) -/
def Obligations.MembershipAndCommitMessages : Prop :=
  (∀ (j : Job) (a b : List Nat), j.quorum a = true → j.quorum b = true → ∃ r ∈ j.active, r ∈ a ∧ r ∈ b) ∧
  (∀ (p : PartId) (h : ClHdr) (st : Fin 4) (c k d : DWord) (w : Fin 64) (x : ClStated) (act ans : Bool) (s₀ : State),
    let s := s₀.heard false
    s.fromMember p.val h = none →
    exec (.renewRx p h st c k d) s₀ = .next s.closed ∧ exec (.proposeRx p h c k w) s₀ = .next s.closed ∧
    exec (.acceptRx p h c k w x) s₀ = .next s.closed ∧ exec (.joinRx p h act x) s₀ = .next s.closed ∧
    exec (.pauseRx p h ans) s₀ = .next s.closed) ∧
  (∀ (p : PartId) (h : ClHdr) (st : Fin 4) (c k d : DWord) (w : Fin 64) (x : ClStated) (act ans : Bool) (i : Fin 4096) (tn : Word)
    (root : BitVec 512) (cause lv : Byte) (fst ev : Word) (dg : List (BitVec 512)) (s₀ : State) (j : Job),
    let s := s₀.heard false
    s.fromMember p.val h = some j → j.version < h.ver.toNat →
    let told : Host.Outcome State Fault Refusal := .next (s.versionEvent p.val h.src.val h.ver.toNat h.ver.toNat 0).closed
    exec (.renewRx p h st c k d) s₀ = told ∧ exec (.proposeRx p h c k w) s₀ = told ∧ exec (.acceptRx p h c k w x) s₀ = told ∧
    exec (.joinRx p h act x) s₀ = told ∧ exec (.pauseRx p h ans) s₀ = told ∧ exec (.rootsRx p h i tn root) s₀ = told ∧
    exec (.readyRx p h) s₀ = told ∧ exec (.notreadyRx p h cause) s₀ = told ∧ exec (.treeRx p h i lv fst dg ev) s₀ = told ∧
    exec (.ckdoneRx p h) s₀ = told) ∧
  (∀ (p : PartId) (h : ClHdr) (i : Fin 4096) (tn : Word) (root : BitVec 512) (cause lv : Byte) (fst ev : Word) (dg : List (BitVec 512))
    (s₀ : State),
    let s := s₀.heard false
    s.stepMsg p.val h = none → (∀ j, s.fromMember p.val h = some j → h.ver.toNat ≤ j.version) →
    exec (.rootsRx p h i tn root) s₀ = .next s.closed ∧ exec (.readyRx p h) s₀ = .next s.closed ∧
    exec (.notreadyRx p h cause) s₀ = .next s.closed ∧ exec (.treeRx p h i lv fst dg ev) s₀ = .next s.closed ∧
    exec (.ckdoneRx p h) s₀ = .next s.closed) ∧
  (∀ (p : PartId) (s : State), s.job? p.val = none → exec (.renewSend p) s = .next s.flush ∧ exec (.leaseExpiry p) s = .next s.closed ∧
    exec (.candidateTimeout p) s = .next s.closed ∧ ∀ r, exec (.activationAllowanceTimeout p r) s = .next s.closed) ∧
  (∀ (p : PartId) (s : State) (j : Job), s.job? p.val = some j →
    let n := s.rd F.pLeaseTicks p.val
    let due := s.rd F.pJstate p.val = jsActive ∧ j.lastRenew + n / 16 ≤ s.tick
    (¬ due → exec (.renewSend p) s = .next s.flush) ∧
    (due → exec (.renewSend p) s = .next ((s.modJob p.val (fun j => { j with lastRenew := s.tick })).clusterAll p.val
      ((List.range j.n).filter (fun r => r != j.self)) ccRenew (s.stepNo p.val)
      [s.rd F.cadState, s.rd F.pCommit p.val, s.rd F.pCkjob p.val, maskOf (s.heardIn p.val n j)]).flush) ∧
    exec (.leaseExpiry p) s = .next (if s.rd F.pJstate p.val = jsActive ∧ s.holdsLease p.val j = false then s.enterHold p.val 2 else s).closed ∧
    exec (.candidateTimeout p) s = .next (if s.silent p.val j ≠ [] ∧ s.leads p.val j j.n = true ∧ j.leaving = none then
      (s.propose p.val j (j.active.filter (fun r => !(s.silent p.val j).contains r))).epochLook p.val else s).closed ∧
    (∀ r : Fin 64, (∀ t, tget? j.excused r.val = some t → s.tick ≤ t) → exec (.activationAllowanceTimeout p r) s = .next s.closed) ∧
    (∀ (r : Fin 64) t, tget? j.excused r.val = some t → t < s.tick →
      let u := s.modJob p.val (fun j => { j with excused := tdel j.excused r.val })
      ∀ i, u.job? p.val = some i → exec (.activationAllowanceTimeout p r) s =
        .next (if u.leads p.val i r.val = true ∧ r.val ∈ i.active then
          (u.propose p.val i (i.active.filter (fun k => k != r.val))).epochLook p.val else u).closed)) ∧
  (∀ (p : PartId) (h : ClHdr) (s₀ : State) (j : Job),
    let s := s₀.heard false
    s.fromMember p.val h = some j → h.ver.toNat ≤ j.version →
    let e := s.rd F.pEpoch p.val
    (∀ (st : Fin 4) (c k d : DWord),
      (h.epoch.toNat = e → exec (.renewRx p h st c k d) s₀ = .next (s.modJob p.val (fun j => { j with
        heard := tput j.heard h.src.val s.tick, reports := tput j.reports h.src.val (c.toNat, k.toNat) })).closed) ∧
      (h.epoch.toNat < e → exec (.renewRx p h st c k d) s₀ = .next s.closed) ∧
      (e < h.epoch.toNat → j.leaving.isSome = true → exec (.renewRx p h st c k d) s₀ = .next (s.leftJob p.val h.epoch.toNat).closed) ∧
      (e < h.epoch.toNat → j.leaving = none → exec (.renewRx p h st c k d) s₀ =
        .next (if s.rd F.pJstate p.val = jsHold then s.sendJoin p.val else s).closed)) ∧
    (∀ (c k : DWord) (w : Fin 64), exec (.proposeRx p h c k w) s₀ =
      .next ((s.takePropose p.val c.toNat k.toNat w.val).epochLook p.val).closed) ∧
    (∀ (c k : DWord) (w : Fin 64) (x : ClStated) (act : Bool) t, s.takeStated p.val h.src.val x = (false, t) →
      exec (.acceptRx p h c k w x) s₀ = .next t.closed ∧ exec (.joinRx p h act x) s₀ = .next t.closed) ∧
    (∀ (c k : DWord) (w : Fin 64) (x : ClStated) t i, s.takeStated p.val h.src.val x = (true, t) →
      let u := t.takePropose p.val c.toNat k.toNat w.val
      u.job? p.val = some i → exec (.acceptRx p h c k w x) s₀ =
        .next (if i.accepted = some (c.toNat, w.val, k.toNat) then (u.modJob p.val (fun j => { j with
          accepts := if j.accepts.contains h.src.val then j.accepts else j.accepts ++ [h.src.val] })).epochLook p.val else u).closed) ∧
    (∀ (x : ClStated) (act : Bool) t i, s.takeStated p.val h.src.val x = (true, t) →
      let u := t.modJob p.val (fun j => { j with heard := tput j.heard h.src.val t.tick,
                                                 joined := if j.joined.contains h.src.val then j.joined else j.joined ++ [h.src.val] })
      let v := if act = true ∧ i.active.contains h.src.val = true then u
        else u.memberEvent p.val i.jobId (u.rd F.pEpoch p.val) (u.rd F.pEpoch p.val) (maskOf i.active) 3 0
      let set := if act then i.active else i.active.filter (fun r => r != h.src.val)
      u.job? p.val = some i → exec (.joinRx p h act x) s₀ =
        .next (if v.leads p.val i h.src.val then (v.propose p.val i set).epochLook p.val else v).closed) ∧
    (h.epoch.toNat < e → ∀ ans, exec (.pauseRx p h ans) s₀ = .next s.closed) ∧
    (e ≤ h.epoch.toNat → exec (.pauseRx p h true) s₀ = .next (s.modJob p.val (fun j => { j with
      pauseAcks := if j.pauseAcks.contains h.src.val then j.pauseAcks else j.pauseAcks ++ [h.src.val] })).closed ∧
      ∃ f, exec (.pauseRx p h false) s₀ = .next ((s.modJob p.val f).clusterSend p.val h.src.val ccPause h.step.toNat [1]).closed ∧
        ∀ i, (f i).excused = tput i.excused h.src.val (s.tick + s.rd F.pUpdTicks p.val) ∧
          (f i).pauseAt = some ((i.pauseAt.map (fun k => Nat.min k h.step.toNat)).getD h.step.toNat))) ∧
  (∀ (p : PartId) (h : ClHdr) (s₀ : State) (j : Job),
    let s := s₀.heard false
    s.stepMsg p.val h = some j → h.ver.toNat ≤ j.version →
    (∀ (i : Fin 4096) (tn : Word) (root : BitVec 512),
      let key := fun (e : Nat × Nat × Nat × Nat) => e.1 == h.step.toNat && e.2.1 == h.src.val && e.2.2.1 == i.val
      exec (.rootsRx p h i tn root) s₀ = .next (((s.modJob p.val (fun j => { j with
        roots := j.roots.filter (fun e => !key e) ++ [(h.step.toNat, h.src.val, i.val, root.toNat)] })).rootsLook p.val i.val).stepLook
          p.val).closed) ∧
    (let x := (h.src.val, h.step.toNat, h.epoch.toNat)
     exec (.readyRx p h) s₀ = .next ((s.modJob p.val (fun j => { j with
       readies := if j.readies.contains x then j.readies else j.readies ++ [x] })).stepLook p.val).closed) ∧
    (∀ c : Byte, let hit := (s.part p.val).cad.steps.find? (fun r => r.stepNo == h.step.toNat && r.fail.isNone)
      (hit = none → exec (.notreadyRx p h c) s₀ = .next s.closed) ∧
      (∀ r, hit = some r → exec (.notreadyRx p h c) s₀ = .next ((s.modStep p.val r.id (fun y =>
        { y with fail := some c.toNat, failFrom := some h.src.val })).stepLook p.val).closed)) ∧
    (∀ (i : Fin 4096) (lv : Byte) (fst ev : Word) (dg : List (BitVec 512)),
      (s.shard? p.val i.val = none → exec (.treeRx p h i lv fst dg ev) s₀ = .next s.closed) ∧
      (∀ x, s.shard? p.val i.val = some x → exec (.treeRx p h i lv fst dg ev) s₀ = .next (if x.stepNo = h.step.toNat then
        s.treeRx p.val h.src.val i.val lv.toNat fst.toNat (dg.map BitVec.toNat) ev.toNat else s).closed)) ∧
    (let x := (h.src.val, h.step.toNat)
     exec (.ckdoneRx p h) s₀ = .next ((s.modJob p.val (fun j => { j with
       ckdone := if j.ckdone.contains x then j.ckdone else j.ckdone ++ [x] })).ckjobLook p.val h.step.toNat).closed))

/-- The PCI Express links and pins of a host port, and the detach that each loss of the link brings. For every host port and
state: a link comes up only with PERST_N high and the host domain released; then LINK_GEN and LINK_WIDTH tell the link, CXL_MODE
is 1 exactly where CXL was offered, enabled by CXL_OFFER, at 32 GT/s and x16 or x8, CXL_CACHE likewise where the partner has it,
training ends, and the link-up event follows unless the port trained because of a module reset. With no link, a link loss, hot
reset, link disable, FLR, D3hot entry or uncorrectable error changes nothing; with one, the first is the port's loss of its link
(cause 2), the next three reset the port (causes 4, 5, 6), D3hot detaches it, and the error gives event 9. PERST_N falling
resets the port once (cause 3); its rise only lets it train. A configuration request with PERST_N high before the host domain
runs is answered with Retry. ATTACH of an attached port is a clamp of reason 9; else HIF_AGREED takes the agreed version and
ATTACHED whether there is one, with the version event, and the attach event only where there is one. DETACH detaches; both need
the host domain. A detach clears ATTACHED and HIF_AGREED and leaves no ring of the port: not the module event ring, nor any pair
or event ring of a partition whose port it is. (14_host_interface.md, 17_reset_and_startup.md) -/
def Obligations.HostLinksAndPins : Prop :=
  (∀ (q : HostPort) (gen : Fin 5) (width : Fin 3) (cxl cache : Bool) (s : State),
    let c := cxl && s.flag F.hpCxlOffer q.val && gen.val == 4 && width.val != 0
    ((s.port q.val).perstN = false ∨ s.hostUp q.val = false → exec (.pcieLinkUp q gen width cxl cache) s = .next s.flush) ∧
    ((s.port q.val).perstN = true → s.hostUp q.val = true → ∃ u : State, exec (.pcieLinkUp q gen width cxl cache) s =
        .next (if (s.port q.val).afterReset = true then u else u.hostEvent q.val 1).flush ∧
      u.rd F.hpLinkGen q.val = gen.val + 1 ∧ u.rd F.hpLinkWidth q.val = 4 * 2 ^ width.val ∧ u.rd F.hpCxlMode q.val = b2n c ∧
      u.rd F.hpCxlCache q.val = b2n (c && cache) ∧ (u.port q.val).training = false ∧ (u.port q.val).afterReset = false ∧ u.out = s.out)) ∧
  (∀ (q : HostPort) (s : State),
    (s.hostLink q.val = false → ∀ c ∈ [Instr.pcieLinkDown q, .hotReset q, .linkDisable q, .functionLevelReset q, .d3hotEntry q,
      .aerUncorrectableError q], exec c s = .next s.flush) ∧
    (s.hostLink q.val = true →
      exec (.pcieLinkDown q) s = .next (s.portDown q.val 2).flush ∧ exec (.hotReset q) s = .next (s.portReset q.val 4).flush ∧
      exec (.linkDisable q) s = .next (s.portReset q.val 5).flush ∧ exec (.functionLevelReset q) s = .next (s.portReset q.val 6).flush ∧
      exec (.d3hotEntry q) s = .next (s.detach q.val 8).flush ∧ exec (.aerUncorrectableError q) s = .next (s.hostEvent q.val 9).flush) ∧
    ((s.port q.val).perstN = false → exec (.perstAssert q) s = .next s.flush) ∧
    ((s.port q.val).perstN = true → exec (.perstAssert q) s =
      .next ((s.modPort q.val (fun h => { h with perstN := false })).portReset q.val 3).flush) ∧
    exec (.perstRelease q) s = .next (s.modPort q.val (fun h => { h with perstN := true })).flush ∧
    exec (.configurationRequest q) s =
      .next (if (s.port q.val).perstN = true ∧ s.hostUp q.val = false then s.answered .retry else s).flush) ∧
  (∀ (q : HostPort) (s : State),
    (s.hostUp q.val = false → exec (.attach q) s = .next s.flush ∧ exec (.detach q) s = .next s.flush) ∧
    (s.hostUp q.val = true → exec (.detach q) s = .next (s.detach q.val 8).flush) ∧
    (s.hostUp q.val = true → s.rd F.hpAttached q.val = 1 →
      exec (.attach q) s = .next (s.clampReg q.val none 9 0x0E0A (F.hpAttach.addr q.val 0) 1 0).flush) ∧
    (s.hostUp q.val = true → s.rd F.hpAttached q.val = 0 →
      let v := hostAgreed (s.rd F.idHifMin) (s.rd F.idHifMax) (s.rd F.hpDrvMin q.val) (s.rd F.hpDrvMax q.val)
      let t := ((s.wr F.hpHifAgreed v q.val).wr F.hpAttached (b2n (v != 0)) q.val).hostVersionEvent q.val v
      exec (.attach q) s = .next (if v = 0 then t else t.hostEvent q.val 7).flush) ∧
    (s.detachRings q.val).rd F.hpAttached q.val = 0 ∧ (s.detachRings q.val).rd F.hpHifAgreed q.val = 0 ∧
    (s.detachRings q.val).ring? (moduleKey q.val) = none ∧
    (∀ p n, p < 36 → n ≤ 64 → s.portOf p = q.val → (s.detachRings q.val).ring? (pairKey p n) = none))

/-- Poll rounds, ring pairs, registered regions, BAR2 and the coalesced MSI-X messages. A poll round of a port whose host domain
is down changes nothing; else it wakes a module in Still whose port accepts submissions on new work, writes POLL_RND (the longer
of 1,000 DB_POLL ns and 32 ns a polled ring), reads the rings given, drains the backlog and looks at what waits and at RDY_N. A
snoop counts only on a watched port. A vector's mask write takes effect; unmasked under a clear function mask, a vector held
pending sends its one message. A coalescing timeout sends the ring's message only where one is due: a record since the last, its
vector on, version 1.2 agreed. A descriptor of an undefined opcode that starts completes with 0xE0. RING_CREATE of pair 0, an
existing pair or one beyond RINGS_MAX is a null resource; else a pair of a size from 2^6 to 2^16 stands, with its message count
and time only at version 1.2, and completes. RING_DESTROY of no pair, of pair 0 or of the pair it came through is a null
resource; else it is marked and ends when idle. REGION_REGISTER with no permission, an unaligned or untranslated address, no
room or no region left is a null resource; else the lowest offset that fits is registered and returned with the region's number.
A release needs the partition's own region, not yet releasing. A BAR2 access to a region being released is a miss; one behind
others, to a partition that waits on device memory or of a module in Still, or while the hub's stop is in reset, waits; else, if
it lacks no granule of an object, a read that misses counts and is Unsupported, one that hits answers the bytes, a write that
misses is counted and dropped, one that hits is written; a resize releases the regions that no longer fit.
(14_host_interface.md) -/
def Obligations.RingsRegionsAndMessages : Prop :=
  (∀ (q : HostPort) (s : State),
    (∀ reads, s.hostUp q.val = false → exec (.doorbellPollRound q reads) s = .next s.closed) ∧
    (∀ reads, s.hostUp q.val = true →
      let work := s.rd F.pwrMstate = 2 ∧ (s.port q.val).busyN = true ∧ ∃ x ∈ reads, ∃ r, s.ring? (readKey q.val x) = some r ∧ r.sqHead < x.tail.toNat ∧ x.ring.val < 64
      ∀ t, (work → t = s.wake 1) → (¬ work → t = s) →
        let u := (t.wr F.hpPollRnd (capN (2 ^ 32 - 1) (t.pollNs q.val)) q.val).modPort q.val (fun h => { h with snooped := false })
        exec (.doorbellPollRound q reads) s =
          .next ((((reads.foldl (fun v x => v.readRing q.val x) u).drain q.val).waitingLook).readyLook q.val).closed) ∧
    exec (.cxlSnoop q) s = .next (if s.rd F.hpCxlCache q.val = 1 ∧ s.rd F.hpWatchEn q.val = 1 then
      s.modPort q.val (fun h => { h with snooped := true }) else s).flush ∧
    (∀ v masked, exec (.msixVectorUnmask q v masked) s = .next (s.msixMask q.val (v.map (fun x => x.val)) masked).flush) ∧
    (∀ (v : Fin 2048) x, tget? (s.port q.val).vectors v.val = some x → x.pending = true → (s.port q.val).msixFnMask = false →
      ∃ t : State, exec (.msixVectorUnmask q (some v) false) s = .next t.flush ∧ t.rd F.hpMsixSent q.val =
        Nat.min (s.rd F.hpMsixSent q.val + 1) (2 ^ 32 - 1) ∧ tget? (t.port q.val).vectors v.val = some { x with masked := false, pending := false }) ∧
    (∀ ofs len, s.hostLink q.val = false → exec (.bar2Read q ofs len) s = .next s.flush) ∧
    (∀ ofs data, s.hostLink q.val = false → exec (.bar2Write q ofs data) s = .next s.flush) ∧
    (∀ ofs len data, s.hostLink q.val = true → s.tiers.asking = none →
      let w := s.wakeBar2
      let v := w.asks (.bar2 q.val)
      let gone := ∃ g, w.regionAt? q.val ofs.toNat = some g ∧ g.releasing.isSome = true
      let busy := (w.port q.val).waiting ≠ [] ∨ w.hostStopped q.val = true ∨ ∃ g, w.regionAt? q.val ofs.toNat = some g ∧ (w.memWaits g.part = true ∨ w.rd F.pwrMstate = 2)
      let queue := fun (x : Bar2Req) => w.modPort q.val (fun h => { h with waiting := h.waiting ++ [x] })
      (gone → exec (.bar2Read q ofs len) s = .next ((w.bar2Miss q.val ofs.toNat).answered .unsupported).flush ∧
        exec (.bar2Write q ofs data) s = .next (w.bar2Miss q.val ofs.toNat).flush) ∧
      (¬ gone → busy → exec (.bar2Read q ofs len) s = .next (queue ⟨ofs.toNat, len.toNat + 1, none⟩).flush ∧
        exec (.bar2Write q ofs data) s = .next (queue ⟨ofs.toNat, data.length, some data⟩).flush) ∧
      (∀ u, ¬ gone → ¬ busy → v.bar2Find q.val ofs.toNat (len.toNat + 1) false = (none, u) →
        let y : State := ((u.bar2Miss q.val ofs.toNat).answered .unsupported)
        y.atHand (.bar2 q.val) → exec (.bar2Read q ofs len) s = .next (y.ran (.bar2 q.val)).flush) ∧
      (∀ p pva u, ¬ gone → ¬ busy → v.bar2Find q.val ofs.toNat (len.toNat + 1) false = (some (p, pva), u) →
        let r := u.readPva (u.engCtx p engBar2) pva (len.toNat + 1)
        let y : State := (r.2.answered (.data r.1.bytes r.1.poison))
        y.atHand (.bar2 q.val) → exec (.bar2Read q ofs len) s = .next (y.ran (.bar2 q.val)).flush) ∧
      (∀ u, ¬ gone → ¬ busy → v.bar2Find q.val ofs.toNat data.length true = (none, u) →
        let y : State := (u.bar2Miss q.val ofs.toNat)
        y.atHand (.bar2 q.val) → exec (.bar2Write q ofs data) s = .next (y.ran (.bar2 q.val)).flush) ∧
      (∀ p pva u, ¬ gone → ¬ busy → v.bar2Find q.val ofs.toNat data.length true = (some (p, pva), u) →
        let y : State := (u.writePva (u.engCtx p engBar2) pva data false).2
        y.atHand (.bar2 q.val) → exec (.bar2Write q ofs data) s = .next (y.ran (.bar2 q.val)).flush)) ∧
    (∀ log : Fin 7, ∃ t : State, exec (.bar2Resize q log) s = .next t.flush ∧ t.rd F.hpBar2Log q.val = log.val ∧
      (keysRising (s.port q.val).regions = true → (t.port q.val).regions =
        (s.port q.val).regions.filter (fun e => decide (e.2.ofs + e.2.len ≤ 2 ^ (15 + log.val)))))) ∧
  (∀ (p : PartId) (n : Fin 65) (s : State),
    (s.ring? (pairKey p.val n.val) = none → exec (.msixCoalesceTimeout p n) s = .next s.flush) ∧
    (∀ r, s.ring? (pairKey p.val n.val) = some r → exec (.msixCoalesceTimeout p n) s =
      .next (if r.sinceMsg ≠ 0 ∧ r.vecEn = true ∧ 0x12 ≤ s.rd F.hpHifAgreed (s.portOf p.val) then
        (s.putRing (pairKey p.val n.val) { r with sinceMsg := 0 }).msixSend (s.portOf p.val) r.vec else s).flush)) ∧
  (∀ (op : Byte) (d : Desc) (s : State) (r : DRef) (t : State), runOp? op.toNat = none → s.starts op.toNat d r t →
    let y : State := (t.complete r 0xE0 true 0)
    y.atHand (.desc r) → exec (.undefinedOpcode op d) s = .next (y.ran (.desc r)).flush) ∧
  (∀ (d : Desc) (s : State) (r : DRef) (t : State), s.starts 0x19 d r t →
    let n := d.fld 0 6
    let used := ((List.range 64).filter (fun k => k != 0 && thas t.host.rings (pairKey r.part k))).length + 1
    let bad := n = 0 ∨ thas t.host.rings (pairKey r.part n) = true ∨ t.rd F.pRingsMax r.part ≤ used
    (bad →
      let y : State := (t.nullDesc r hostNull n)
      y.atHand (.desc r) → exec (.ringPairCreate d) s = .next (y.ran (.desc r)).flush) ∧
    let new := 0x12 ≤ t.rd F.hpHifAgreed (t.portOf r.part)
    (¬ bad → 6 ≤ d.fld 8 5 → d.fld 8 5 ≤ 16 → (new → 1 ≤ d.fld 32 8) →
      let y : State := (((t.newRing (pairKey r.part n) (d.fld 8 5) (d.at 24 64) (d.at 32 64) (d.at 40 64) 0 (d.fld 16 11) (d.fld 27 1 == 1)
        (if new then d.fld 32 8 else 1) (if new then d.fld 40 8 else 0)).countRings r.part).done r)
      y.atHand (.desc r) → exec (.ringPairCreate d) s = .next (y.ran (.desc r)).flush)) ∧
  (∀ (d : Desc) (s : State) (r : DRef) (t : State), s.starts 0x1A d r t →
    (∀ x, t.ring? (pairKey r.part (d.fld 0 6)) = some x →
      let y : State := (if d.fld 0 6 = 0 ∨ d.fld 0 6 = r.ring ∨ x.destroyer.isSome = true then t.nullDesc r hostNull (d.fld 0 6)
        else (t.putRing (pairKey r.part (d.fld 0 6)) { x with destroyer := some r }).destroyLook (pairKey r.part (d.fld 0 6)))
      y.atHand (.desc r) → exec (.ringPairDestroy d) s = .next (y.ran (.desc r)).flush) ∧
    (t.ring? (pairKey r.part (d.fld 0 6)) = none →
      let y : State := (t.nullDesc r hostNull (d.fld 0 6))
      y.atHand (.desc r) → exec (.ringPairDestroy d) s = .next (y.ran (.desc r)).flush)) ∧
  (∀ (d : Desc) (s : State) (r : DRef) (t : State), s.starts 0x2C d r t → 0 < d.fld 64 32 → d.fld 64 32 ≤ 2 ^ 21 →
    let q := t.portOf r.part
    let n := d.fld 64 32
    let bad := d.at 28 2 = 0 ∨ d.fld 0 64 % mib2 ≠ 0 ∨ ∃ i, i < n ∧ rtFind (t.part r.part).rt (d.fld 0 64 + i * mib2) = none
    (bad ∨ t.regionFit q n = none ∨ tfree (t.port q).regions 4096 = none →
      let y : State := (t.nullDesc r hostNull (d.fld 0 64))
      y.atHand (.desc r) → exec (.regionRegister d) s = .next (y.ran (.desc r)).flush) ∧
    (∀ o g, ¬ bad → t.regionFit q n = some o → tfree (t.port q).regions 4096 = some g →
      let y : State := ((t.modPort q (fun h => { h with regions := tput h.regions g ⟨r.part, d.fld 0 64, n, d.at 28 2, o, none⟩ })).complete r 0 false
        (g + o * 2 ^ 16))
      y.atHand (.desc r) → exec (.regionRegister d) s = .next (y.ran (.desc r)).flush)) ∧
  (∀ (d : Desc) (s : State) (r : DRef) (t : State), s.starts 0x2D d r t →
    let q := t.portOf r.part
    let g := d.fld 0 12
    (∀ x, tget? (t.port q).regions g = some x → x.part = r.part → x.releasing = none →
      let y : State := ((t.modPort q (fun h => { h with regions := tput h.regions g { x with releasing := some r } })).regionsLook q)
      y.atHand (.desc r) → exec (.regionRelease d) s = .next (y.ran (.desc r)).flush) ∧
    ((∀ x, tget? (t.port q).regions g = some x → x.part ≠ r.part ∨ x.releasing.isSome = true) →
      let y : State := (t.nullDesc r hostNull g)
      y.atHand (.desc r) → exec (.regionRelease d) s = .next (y.ran (.desc r)).flush))

/-- Register reads and writes, the writes that are commands of their own, and the seals. For every port and state: with the host
domain down no access acts. A register write that is not of four aligned bytes is a clamp of code 0x0E01, or nothing outside
every block; else the register is written. A write through a port that is not the block's is a clamp 0x0E09 of reason 6; a
read-only field ignores it; a field under a seal keeps its value, with a clamp of reason 4 where the write differs. A read that
crosses a register is Unsupported; of a confidential partition's window through another port it answers zeros; of a plain
register its bytes. SET_MASK, extent, SWRST and binding writes are writes of their register, a binding with its enable bit. A
module seal write before READY is a clamp of reason 9, through a port not the set-up port of reason 6, of a locked module
nothing, else the change begins; of a partition likewise, and a free or scrubbing partition is a clamp 0x0E0B. A seal change
that is not under way does not end; the module's end sets MSEALED and raises no GUAR_FR; a partition's end seals it, with a
memory key. (14_host_interface.md, 15_partitions_security.md, 08_memory.md) -/
def Obligations.RegisterAccessAndSeals : Prop :=
  (∀ (q : HostPort) (addr : BitVec 28) (s : State),
    (∀ len v, s.hostUp q.val = false → exec (.registerWrite q addr len v) s = .next s.closed) ∧
    (∀ (len : Fin 5) v, s.hostUp q.val = true → (len.val ≠ 4 ∨ addr.toNat % 4 ≠ 0) →
      (locateReg (addr.toNat - addr.toNat % 4) = none → exec (.registerWrite q addr len v) s = .next s.closed) ∧
      ∀ blk b o, locateReg (addr.toNat - addr.toNat % 4) = some (blk, b, o) → ∃ x y, exec (.registerWrite q addr len v) s =
        .next (s.clampReg q.val (if blk = .part then some b else none) 3 0x0E01 addr.toNat x y).closed) ∧
    (∀ v, s.hostUp q.val = true → addr.toNat % 4 = 0 →
      exec (.registerWrite q addr 4 v) s = .next (s.regWrite q.val addr.toNat v.toNat).closed) ∧
    (∀ blk b o v, blk ≠ .ident → locateReg addr.toNat = some (blk, b, o) → (regHits blk o).isEmpty = false →
      s.ownerPort blk b ≠ some q.val → s.regWrite q.val addr.toNat v =
        s.clampReg q.val (if blk = .part then some b else none) 6 0x0E09 addr.toNat v 0) ∧
    (∀ blk b o a v (f : Fld) i k, (f.acc = .ro → s.fieldWrite q.val blk b o a v (f, i, k) = s) ∧
      (f.acc = .rwl → s.blkLocked blk b = true → s.fieldWrite q.val blk b o a v (f, i, k) =
        if fldN v f.lo f.w = s.rd f b i then s else
          s.clampReg q.val (if blk = .part then some b else none) 4 f.code a (fldN v f.lo f.w) (s.rd f b i))) ∧
    (∀ len, s.hostUp q.val = false → exec (.registerRead q addr len) s = .next s.flush) ∧
    (∀ len : Fin 5, s.hostUp q.val = true → 4 < addr.toNat % 4 + len.val →
      exec (.registerRead q addr len) s = .next (s.answered .unsupported).flush) ∧
    (∀ (len : Fin 5) b o, s.hostUp q.val = true → 0 < len.val → addr.toNat % 4 + len.val ≤ 4 →
      locateReg (addr.toNat - addr.toNat % 4) = some (.part, b, o) → s.rd F.pConf b = 1 → s.portOf b ≠ q.val →
      exec (.registerRead q addr len) s = .next (s.answered (.data (List.replicate len.val 0) false)).flush) ∧
    (∀ (len : Fin 5) blk b o, s.hostUp q.val = true → 0 < len.val → addr.toNat % 4 + len.val ≤ 4 →
      locateReg (addr.toNat - addr.toNat % 4) = some (blk, b, o) → (blk = .part → s.rd F.pConf b = 1 → s.portOf b = q.val) → wideHit blk o = none → exec (.registerRead q addr len) s =
        .next (s.answered (.data (bytesAt (leBytes 4 (s.regNow blk b o)) (addr.toNat % 4) len.val) false)).flush) ∧
    (∀ len : BitVec 12, exec (.bar0CrossingRead q addr len) s =
      .next (if s.hostUp q.val = true ∧ 4 < addr.toNat % 4 + len.toNat + 1 then s.answered .unsupported else s).flush)) ∧
  (∀ (q : HostPort) (s : State),
    let on := fun (f : Fld) (b v : Nat) => s.hostPut q.val (f.addr b 0) (setFld (s.regNow f.blk b f.off) f.lo 1 v)
    (∀ a v, s.hostUp q.val = true → s.hostPut q.val a v = s.regWrite q.val a v) ∧ (∀ a v, s.hostUp q.val = false → s.hostPut q.val a v = s) ∧
    (∀ i m, exec (.setMaskWrite q i m) s = .next (s.hostPut q.val (F.memSetMask.addr 0 i.val) m.toNat).flush) ∧
    (∀ p i v, exec (.extentWrite q p i true v) s = .next (s.hostPut q.val (F.pExtLen.addr p.val i.val) v.toNat).flush ∧
      exec (.extentWrite q p i false v) s = .next (s.hostPut q.val (F.pExtBase.addr p.val i.val) v.toNat).flush) ∧
    (∀ v, exec (.swrstWrite q v) s = .next (s.hostPut q.val (F.rstSwrst.addr 0 0) v.toNat).flush) ∧
    (∀ p : PartId, exec (.ring0Bind q p) s = .next (on F.pAqEn p.val 1).flush ∧ exec (.ring0Unbind q p) s = .next (on F.pAqEn p.val 0).flush ∧
      exec (.eventRingBind q p) s = .next (on F.pEqEn p.val 1).flush ∧ exec (.eventRingUnbind q p) s = .next (on F.pEqEn p.val 0).flush) ∧
    exec (.moduleRingBind q) s = .next (on F.mqEn q.val 1).flush ∧ exec (.moduleRingUnbind q) s = .next (on F.mqEn q.val 0).flush) ∧
  (∀ (q : HostPort) (s : State),
    (s.rst.ready = false → exec (.msealWrite q) s = .next (s.clampReg q.val none 9 0x0C03 (F.idMseal.addr 0 0) 1 0).flush) ∧
    (s.rst.ready = true → q.val ≠ s.rd F.hpSetupPt 0 →
      exec (.msealWrite q) s = .next (s.clampReg q.val none 6 0x0E09 (F.idMseal.addr 0 0) 1 0).flush) ∧
    (s.rst.ready = true → q.val = s.rd F.hpSetupPt 0 → exec (.msealWrite q) s =
      .next (if s.rd F.idMsealed = 1 ∨ SealChange.module ∈ s.host.sealing then s else s.sealBegin .module).flush) ∧
    (∀ p : PartId,
      let a := if p.val < 32 then F.idPsealL.addr 0 0 else F.idPsealH.addr 0 0
      let bit := 2 ^ (p.val % 32)
      let dead := s.rd F.pPstate p.val = 0 ∨ s.rd F.pPstate p.val = 3
      (s.rst.ready = false → exec (.psealWrite q p) s = .next (s.clampReg q.val none 9 0x0C03 a bit 0).flush) ∧
      (s.rst.ready = true → dead → exec (.psealWrite q p) s = .next (s.clampReg q.val none 9 0x0E0B a bit 0).flush) ∧
      (s.rst.ready = true → ¬ dead → q.val ≠ s.portOf p.val →
        exec (.psealWrite q p) s = .next (s.clampReg q.val none 6 0x0E09 a bit 0).flush) ∧
      (s.rst.ready = true → ¬ dead → q.val = s.portOf p.val → exec (.psealWrite q p) s =
        .next (if s.psealed p.val = true ∨ SealChange.part p.val ∈ s.host.sealing then s else s.sealBegin (.part p.val)).flush))) ∧
  (∀ s : State,
    (SealChange.module ∉ s.host.sealing → exec (.sealChangeEnd none) s = .next s.flush) ∧
    (SealChange.module ∈ s.host.sealing → ∃ u : State, exec (.sealChangeEnd none) s = .next u.flush ∧ u.rd F.idMsealed = 1 ∧
      SealChange.module ∉ u.host.sealing ∧ ∀ p < 36, u.rd F.pGuarFr p ≤ s.rd F.pGuarFr p) ∧
    (∀ p : PartId,
      (SealChange.part p.val ∉ s.host.sealing → exec (.sealChangeEnd (some p)) s = .next s.flush) ∧
      (SealChange.part p.val ∈ s.host.sealing → ∃ u : State, exec (.sealChangeEnd (some p)) s = .next u.flush ∧
        u.psealed p.val = true ∧ u.rd F.pPstate p.val = 2 ∧ thas (u.part p.val).keys 0 = true ∧
        SealChange.part p.val ∉ u.host.sealing ∧ u.rd F.pGuarFr p.val ≤ s.rd F.pGuarFr p.val)))

/-- The management functions: who may call one, what each does for a claimed session, and what is refused. A function asked of a
session that is not open, or while the management domain is down, changes nothing; of the claim code's session every function
but 0x0F is refused, after waking the module. For any other open session the function runs in the woken state and its status,
words and clamps are the reply. CREATE_PARTITION refuses a PART past 35 or not free and core groups that are none or held; else,
with a quota in range and free and no region named, the partition is created with that set-up, a new GEN, and the reply tells
GEN and quota. A teardown of a free or scrubbing partition is refused, else it begins. LOAD_KEY refuses a dead partition, a slot
past 15, a generated key elsewhere than slot 0, a key that does not unwrap, and slot 0 once keyed or sealed; else the slot is
loaded, or drawn, and its digest answered. A shared region granted shows in SHARED, one revoked no longer, one removed is gone,
and one still granted is not removed. COMMIT_SVN raises the fused SVN to the running one's (each below 128), never lowers it. A
core fenced is not fenced again. RESERVE_CORE_POLICY takes mode 0 or 1, else 0 with a clamp. Assigning a site needs manual mode,
a fenced core and a reserve site. Tracing and sampling are refused for a dead or confidential partition. Enrolment fills the
lowest free of 8 credentials and claims the module; the last credential is not removed. A reset replies first.
(15_partitions_security.md, 16_power_thermal.md, 17_reset_and_startup.md, 01_organization.md) -/
def Obligations.ManagementFunctions : Prop :=
  ∀ (sess : Fin 4) (part slot r : Byte) (cg : BitVec 36) (conf on good cold : Bool) (q : HostPort) (quota : BitVec 16) (shared : Byte) (form : Fin 3)
    (key nonce digest : BitVec 512) (base : BitVec 18) (len : BitVec 12) (owner : PartId) (handle n : Word) (mode : Fin 4) (c : CoreId)
    (site : SiteId) (x : PortSetup) (po : Option PartId) (tel : TelSel) (idx : Fin 8) (s : State),
    let fns : List (Instr × Nat) := [(.createPartition sess part cg conf q quota shared, 1), (.tearDownPartition sess part, 2),
      (.loadKey sess part slot form key good, 3), (.sharedRegionCreate sess r base len owner handle, 4), (.sharedRegionGrant sess r part, 4),
      (.sharedRegionRevoke sess r part, 4), (.sharedRegionRemove sess r, 4), (.commitSvn sess, 7), (.reserveCorePolicy sess mode, 9),
      (.assignReserveSite sess c site, 0x0A), (.setUpPortSettings sess x, 0x0B), (.attestationReport sess nonce po, 0x0C),
      (.telemetryRead sess tel, 0x0D), (.telemetrySubscribe sess, 0x0D), (.grainTrace sess part on, 0x0D),
      (.addressSampling sess part n, 0x0D), (.debugWindowClose sess, 0x0E), (.supplyFlagClear sess, 0x10), (.moduleReset sess cold, 0x11)]
    let creds : List Instr := [.enrolCredential sess digest, .removeCredential sess idx]
    let w := s.wake 4
    let ans := fun (k : Nat) (o : FnOut) => o.st.reply sess.val k o.status o.words o.clamps
    (s.mgmtUp = false ∨ tget? s.mgmt.sessions sess.val = none → (∀ e ∈ fns, exec e.1 s = .next s.flush) ∧
      (∀ i ∈ creds, exec i s = .next s.flush) ∧ exec (.fenceCore sess c) s = .next s.closed) ∧
    (∀ y, s.mgmtUp = true → tget? s.mgmt.sessions sess.val = some y → y.claim = true →
      (∀ e ∈ fns, exec e.1 s = .next (w.reply sess.val e.2 1 [] []).flush) ∧
      exec (.fenceCore sess c) s = .next (w.reply sess.val 0x0A 1 [] []).closed) ∧
    (∀ y, s.mgmtUp = true → tget? s.mgmt.sessions sess.val = some y →
      exec (.enrolCredential sess digest) s = .next (ans 0x0F (w.enrol sess.val digest.toNat)).flush ∧
      exec (.removeCredential sess idx) s = .next (ans 0x0F (w.removeCred sess.val idx.val)).flush) ∧
    (∀ y, s.mgmtUp = true → tget? s.mgmt.sessions sess.val = some y → y.claim = false →
      exec (.createPartition sess part cg conf q quota shared) s =
        .next (ans 1 (w.createPart part.toNat cg.toNat conf q.val quota.toNat shared.toNat)).flush ∧
      exec (.tearDownPartition sess part) s = .next (ans 2 (if w.liveP part.toNat = false then refused w [partClamp 2 5 part.toNat] else
        if w.pstate part.toNat = 3 then refused w [partClamp 2 9 part.toNat] else
          ran (w.tearDown part.toNat) [w.rd F.pGen part.toNat])).flush ∧
      exec (.loadKey sess part slot form key good) s =
        .next (ans 3 (w.loadKey part.toNat slot.toNat form.val key.toNat good)).flush ∧
      exec (.sharedRegionCreate sess r base len owner handle) s =
        .next (ans 4 (w.regionCreate r.toNat base.toNat len.toNat owner.val handle.toNat)).flush ∧
      exec (.sharedRegionGrant sess r part) s = .next (ans 4 (w.regionGrant r.toNat part.toNat)).flush ∧
      exec (.sharedRegionRevoke sess r part) s = .next (ans 4 (w.regionRevoke r.toNat part.toNat)).flush ∧
      exec (.sharedRegionRemove sess r) s = .next (ans 4 (w.regionRemove r.toNat)).flush ∧
      exec (.commitSvn sess) s = .next (ans 7 (w.commitSvn sess.val)).flush ∧
      exec (.reserveCorePolicy sess mode) s = .next (ans 9 (w.reservePolicy mode.val)).flush ∧
      exec (.assignReserveSite sess c site) s = .next (ans 0x0A (if w.rd F.idRsvMode = 1 ∧ (w.core c.val).fenced = true ∧
        w.rd F.idState 0 site.val = 1 then ran (w.moveCore c.val site.val) [site.val] else refused w [])).flush ∧
      exec (.fenceCore sess c) s = .next (ans 0x0A (if (w.core c.val).fenced = true then refused w [] else ran (w.fenceCore c.val) [])).closed ∧
      exec (.supplyFlagClear sess) s = .next (ans 0x10 (ran w.supplyFlagClear [])).flush ∧
      exec (.setUpPortSettings sess x) s = .next (ans 0x0B (w.setupPorts x)).flush ∧
      exec (.attestationReport sess nonce po) s = .next (ans 0x0C (w.attest sess.val nonce.toNat (po.map (fun p => p.val)))).flush ∧
      exec (.telemetryRead sess tel) s = .next (ans 0x0D (w.telRead sess.val tel)).flush ∧
      exec (.telemetrySubscribe sess) s = .next (ans 0x0D (ran (w.modMgmt (fun m => { m with
        sessions := tmod m.sessions sess.val (fun z => { z with subscribed := true }) })) [])).flush ∧
      (w.liveP part.toNat = false → exec (.grainTrace sess part on) s = .next (ans 0x0D (refused w [partClamp 0x0D 5 part.toNat])).flush ∧
        exec (.addressSampling sess part n) s = .next (ans 0x0D (refused w [partClamp 0x0D 5 part.toNat])).flush) ∧
      (w.liveP part.toNat = true → w.rd F.pConf part.toNat = 1 →
        exec (.grainTrace sess part on) s = .next (ans 0x0D (refused w [partClamp 0x0D 9 part.toNat])).flush ∧
        exec (.addressSampling sess part n) s = .next (ans 0x0D (refused w [partClamp 0x0D 9 part.toNat])).flush) ∧
      (let tr := if on then some (sess.val, part.toNat) else w.mgmt.trace.filter (fun t => t != (sess.val, part.toNat))
       let sm := if n = 0 then w.mgmt.sampling.filter (fun t => t.2.1 != part.toNat) else some (sess.val, part.toNat, n.toNat)
       w.liveP part.toNat = true → w.rd F.pConf part.toNat = 0 →
        exec (.grainTrace sess part on) s = .next (ans 0x0D (ran (w.modMgmt (fun m => { m with trace := tr })) [])).flush ∧
        exec (.addressSampling sess part n) s =
          .next (ans 0x0D (ran (w.modMgmt (fun m => { m with sampling := sm, sampled := 0 })) [])).flush) ∧
      exec (.debugWindowClose sess) s = .next (ans 0x0E (if w.runningAct? colDebug 0 = none then refused w [] else
        ran (w.debugClose sess.val) [])).flush ∧
      exec (.moduleReset sess cold) s = .next ((ans 0x11 (ran w [])).source 5 cold).flush) ∧
    (let p := part.toNat
     (36 ≤ p ∨ w.pstate p ≠ 0 → w.createPart p cg.toNat conf q.val quota.toNat shared.toNat = refused w [partClamp 1 5 p]) ∧
     (p < 36 → w.pstate p = 0 → (cg = 0 ∨ cg.toNat &&& w.heldGroups ≠ 0) → w.createPart p cg.toNat conf q.val quota.toNat shared.toNat =
       refused w [fnClamp 1 5 0x0D02 cg.toNat (nullOf 0x0D02)]) ∧
     (p < 36 → w.pstate p = 0 → cg ≠ 0 → cg.toNat &&& w.heldGroups = 0 → 1 ≤ quota.toNat → quota.toNat ≤ 3048 → quota.toNat ≤ w.quotaFree →
       ∃ u : State, w.createPart p cg.toNat conf q.val quota.toNat 0 = ⟨0, [u.rd F.pGen p, quota.toNat], [], u⟩ ∧ u.pstate p = 1 ∧
         u.rd F.pConf p = b2n conf ∧ u.portOf p = q.val ∧ u.rd F.pMemQuota p = quota.toNat ∧ u.cgroups p = cg.toNat ∧
         u.rd F.pGen p = (w.rd F.pGen p + 1) % 2 ^ 32) ∧
     (let o := w.loadKey p slot.toNat form.val key.toNat good
      (w.liveP p = false ∨ 16 ≤ slot.toNat ∨ form.val = 2 ∧ slot ≠ 0 ∨ form.val = 1 ∧ good = false ∨
        slot = 0 ∧ (w.pstate p ≠ 1 ∨ thas (w.part p).keys 0 = true) → o.status = 1 ∧ o.st = w) ∧
      (w.liveP p = true → slot.toNat < 16 → slot ≠ 0 → form.val ≠ 2 → (form.val = 1 → good = true) → o.status = 0 ∧
        tget? (o.st.part p).keys slot.toNat = some (key.toNat % 2 ^ 256) ∧ o.words = [sha3Nat (leBytes 32 (key.toNat % 2 ^ 256))]) ∧
      (slot = 0 → w.pstate p = 1 → p < 36 → thas (w.part p).keys 0 = false → (form.val = 1 → good = true) → o.status = 0 ∧
        let k := if form.val = 2 then (Config.randomKey w.freeCtr).toNat else key.toNat
        tget? (o.st.part p).keys 0 = some k ∧ o.words = [sha3Nat (leBytes 64 k)])) ∧
     ((w.regionGrant r.toNat p).status = 0 → bitN ((w.regionGrant r.toNat p).st.rd F.pShared p) r.toNat = true) ∧
     ((w.regionRevoke r.toNat p).status = 0 → bitN ((w.regionRevoke r.toNat p).st.rd F.pShared p) r.toNat = false) ∧
     ((∃ y ∈ w.liveParts, bitN (w.rd F.pShared y) r.toNat = true) → (w.regionRemove r.toNat).status = 1 ∧ (w.regionRemove r.toNat).st = w) ∧
     ((w.regionRemove r.toNat).status = 0 → tget? (w.regionRemove r.toNat).st.mem.shared r.toNat = none)) ∧
    (w.rd F.idFuseSvn < 128 → w.rd F.idFwSvn < 128 →
      (w.commitSvn sess.val).st.rd F.idFuseSvn = Nat.max (w.rd F.idFuseSvn) (w.rd F.idFwSvn)) ∧
    ((w.reservePolicy mode.val).st.rd F.idRsvMode = (if mode.val < 2 then mode.val else 0) ∧
      (w.reservePolicy mode.val).clamps.length = (if mode.val < 2 then 0 else 1)) ∧
    (∀ k, tfree w.mgmt.creds 8 = some k → (w.enrol sess.val digest.toNat).status = 0 ∧
      (w.enrol sess.val digest.toNat).st.rd F.idClaimed = 1 ∧ tget? (w.enrol sess.val digest.toNat).st.mgmt.creds k = some digest.toNat) ∧
    (tfree w.mgmt.creds 8 = none → w.enrol sess.val digest.toNat = refused w []) ∧
    (w.mgmt.creds.length < 2 ∨ thas w.mgmt.creds idx.val = false → w.removeCred sess.val idx.val = refused w [])

/-- Management sessions, the teardown's stages, and the activities the maintenance arbiter grants, queues and ends. A session
opens while the management domain runs, one of four is free and the caller authenticates: an enrolled credential, or the claim
code while nothing is enrolled, claimed or open; else event 2 tells. A close ends its session, trace and sampling. A teardown
step end without a teardown changes nothing; with one it is stage 3 or 4 as far as they can go. Scrub completion needs a running
scrub. Firmware activation, calibration, debug window, port test and lane margining are asked of the arbiter with settings held
to their ranges, refused to the claim code's session, nothing for a session not open; a load also needs a good signature and an
SVN not burnt out. An asked activity that fits Table 17-9 starts with event 2, shows in MNT_RUN and does what it starts with: a
calibration is written, the window opens, a test or margining of its settings runs, an activation replies and begins; else it
queues with event 1. A grant starts what may start, or asks for repair access. An end of an activity that does not run changes
nothing; a calibration, load or repair that runs ends, a port test or margining ends with its figures in the reply, a debug
window's expiry closes it. Telemetry is composed only while the controller runs and the module is ready.
(15_partitions_security.md, 17_reset_and_startup.md, 08_memory.md, 10_network_ports.md, 14_host_interface.md) -/
def Obligations.SessionsAndMaintenance : Prop :=
  (∀ (cred : Option (BitVec 512)) (ok : Bool) (s : State),
    let idx := cred.bind (fun d => (s.mgmt.creds.find? (fun e => e.2 == d.toNat)).map (fun e => e.1))
    let may := ok = true ∧ (if cred = none then s.mgmt.creds = [] ∧ s.flag F.idClaimed = false ∧ s.mgmt.sessions = [] else idx.isSome = true)
    (s.mgmtUp = false → exec (.sessionOpen cred ok) s = .next s.flush) ∧
    (s.mgmtUp = true → (¬ may ∨ tfree s.mgmt.sessions 4 = none) →
      exec (.sessionOpen cred ok) s = .next (s.mgmtEvent 2 0 0xFF (idx.getD 0xFF) 1).flush) ∧
    (∀ k, s.mgmtUp = true → may → tfree s.mgmt.sessions 4 = some k → exec (.sessionOpen cred ok) s =
      .next ((s.modMgmt (fun m => { m with sessions := tput m.sessions k ⟨cred.isNone, idx.getD 0xFF, false⟩ })).mgmtEvent 1 0 k
        (idx.getD 0xFF) 0).flush)) ∧
  (∀ (sess : Fin 4) (s : State), ∃ t : State, exec (.managementSessionClose sess) s = .next t.flush ∧
    t.mgmt.sessions = tdel s.mgmt.sessions sess.val ∧ (∀ e, t.mgmt.trace = some e → e.1 ≠ sess.val ∧ s.mgmt.trace = some e) ∧
    (∀ e, t.mgmt.sampling = some e → e.1 ≠ sess.val ∧ s.mgmt.sampling = some e)) ∧
  (∀ (p : PartId) (s : State),
    (tget? s.mgmt.tears p.val = none → exec (.teardownStepEnd p) s = .next s.closed ∧ exec (.teardownScrubComplete p) s = .next s.flush) ∧
    exec (.teardownStepEnd p) s = .next (s.tearLook p.val).closed ∧ exec (.teardownScrubComplete p) s = .next (s.tearDone p.val).flush ∧
    (∀ t, tget? s.mgmt.tears p.val = some t → t.stage = 2 → s.grainsRun p.val = true → s.tearLook p.val = s) ∧
    (s.runningAct? colScrub p.val = none → s.tearDone p.val = s)) ∧
  (∀ (sess : Fin 4) (x : FwBlob) (items : List CalItem) (m : BitVec 16) (n : NetPort) (l t : Option (BitVec 16)) (rate : Option Byte)
    (dest : Option (BitVec 48)) (q : HostPort) (s : State),
    let hold := fun (fn code lo hi v : Nat) => (Nat.max lo (Nat.min hi v),
      if v < lo then [fnClamp fn 1 code v lo] else if hi < v then [fnClamp fn 2 code v hi] else [])
    let val := fun (w : Nat) (o : Option (BitVec w)) (d : Nat) => (o.map (fun v => v.toNat)).getD d
    let dm := hold 0x0E 0x0D05 1 240 m.toNat
    let tl := hold 0x12 (mgmtAny 0x12 0) 64 9022 (val 16 l 9022)
    let tr := hold 0x12 (mgmtAny 0x12 1) 1 100 (val 8 rate 100)
    let ts := hold 0x12 (mgmtAny 0x12 2) 1 600 (val 16 t 10)
    let ms := hold 0x13 (mgmtAny 0x13 0) 1 600 (val 16 t 60)
    let acts : List (Instr × Nat × Activity) :=
      [(.firmwareActivate sess, 6, ⟨colActivate, 0, .activate sess.val⟩), (.calibrationWrite sess items, 8, ⟨colCal, 0, .calibration sess.val items⟩),
       (.debugWindowOpen sess m, 0x0E, ⟨colDebug, 0, .debug sess.val dm.1 dm.2⟩),
       (.portTest sess n l rate t dest, 0x12, ⟨colPort, n.val, .portTest sess.val tl.1 tr.1 ts.1 (val 48 dest 0) (tl.2 ++ tr.2 ++ ts.2)⟩),
       (.laneMargining sess q t, 0x13, ⟨colMargin, q.val, .margining sess.val ms.1 ms.2⟩)]
    let load : Activity := ⟨colLoad, 0, .load sess.val (blobImage x)⟩
    let w := s.wake 4
    (s.mgmtUp = false ∨ tget? s.mgmt.sessions sess.val = none → exec (.firmwareLoad sess x) s = .next s.flush ∧
      ∀ e ∈ acts, exec e.1 s = .next s.flush) ∧
    (∀ y, s.mgmtUp = true → tget? s.mgmt.sessions sess.val = some y → y.claim = true →
      exec (.firmwareLoad sess x) s = .next (w.reply sess.val 5 1 [] []).flush ∧
      ∀ e ∈ acts, exec e.1 s = .next (w.reply sess.val e.2.1 1 [] []).flush) ∧
    (∀ y, s.mgmtUp = true → tget? s.mgmt.sessions sess.val = some y → y.claim = false →
      (∀ e ∈ acts, exec e.1 s = .next (w.arbRequest e.2.2 State.actStart).flush) ∧
      exec (.firmwareLoad sess x) s = .next (if x.sigOk = false then (w.mgmtEvent 4 5 sess.val (s.sessCred sess.val) 1).reply sess.val 5 1 [] []
        else if x.svn.val < s.rd F.idFuseSvn then (w.mgmtEvent 5 5 sess.val (s.sessCred sess.val) 1).reply sess.val 5 1 [] []
        else w.arbRequest load State.actStart).flush)) ∧
  (∀ (a : Activity) (start : Activity → State → State) (s : State),
    let fits := (∀ b ∈ s.rst.running ++ s.rst.queue, a.fits b = true) ∧ (a.col = colRepair → s.stackFree a.res = true)
    (fits → ∃ u : State, s.arbRequest a start = start a (u.arbEvent a 2 0) ∧ u.rst.running = s.rst.running ++ [a] ∧ u.rst.queue = s.rst.queue ∧
      (1 ≤ a.col → a.col ≤ 8 → bitN (u.rd F.rstMntRun) (a.col - 1) = true)) ∧
    (∀ k items, a.work = .calibration k items → State.actStart a s = s.calWrite k items) ∧
    (∀ k m cl, a.work = .debug k m cl → State.actStart a s =
      ((s.wr F.idDbgOpen 1).mgmtEvent 8 0x0E k (s.sessCred k) 0).actReply k 0x0E 0 [m] cl) ∧
    (∀ k l r d e cl, a.work = .portTest k l r d e cl → State.actStart a s =
      (s.modNport a.res (fun p => { p with test := some ⟨l, r, d, e, 0, 0, 0, 0, 0, 0⟩ })).pmodeLook a.res) ∧
    (∀ k d cl, a.work = .margining k d cl → State.actStart a s = s.modPort a.res (fun h => { h with marginingReady := true })) ∧
    (∀ k, a.work = .activate k → State.actStart a s = (s.actReply k 6 0 [] []).activate) ∧
    (¬ fits → ∃ (u : State) (k : Nat), s.arbRequest a start = u.arbEvent a 1 k ∧ u.rst.running = s.rst.running ∧
      u.rst.queue = s.rst.queue ++ [a])) ∧
  (∀ s : State,
    (∀ access, s.mgmtUp = false → exec (.maintenanceGrant access) s = .next s.flush) ∧
    (s.mgmtUp = true → exec (.maintenanceGrant none) s = .next (s.arbGrant State.actStart).flush ∧
      ∀ n : StackId, exec (.maintenanceGrant (some n)) s = .next (s.arbRequest ⟨colRepair, n.val, .repair⟩ State.actStart).flush) ∧
    (∀ n : StackId, (s.runningAct? colRepair n.val = none → exec (.maintenanceEnd (.repair n)) s = .next s.flush) ∧
      ∀ a, s.runningAct? colRepair n.val = some a → exec (.maintenanceEnd (.repair n)) s = .next (s.repairEnd n.val a).flush) ∧
    ((s.runningAct? colCal 0 = none → exec (.maintenanceEnd .calibration) s = .next s.flush) ∧
      ∀ a, s.runningAct? colCal 0 = some a → exec (.maintenanceEnd .calibration) s = .next (s.arbEnd a).flush) ∧
    ((s.runningAct? colLoad 0 = none → exec (.maintenanceEnd .load) s = .next s.flush) ∧
      ∀ a k x, s.runningAct? colLoad 0 = some a → a.work = .load k x →
        let t := (s.putImage (1 - s.rd F.idImage) x).arbEnd a
        exec (.maintenanceEnd .load) s = .next (((t.busyLook 0).busyLook 1).actReply k 5 0 [1 - s.rd F.idImage] []).flush) ∧
    (∀ n : NetPort, (s.runningAct? colPort n.val = none → exec (.portTestEnd n) s = .next s.flush) ∧
      ∀ a t k l r d e cl, s.runningAct? colPort n.val = some a → (s.nport n.val).test = some t → a.work = .portTest k l r d e cl →
        exec (.portTestEnd n) s = .next (((((s.modNport n.val (fun p => { p with test := none })).arbEnd a).pmodeLook n.val).actReply k 0x12 0
          [t.sent, t.echoes, t.errs, t.sent - t.echoes, t.least, t.sum / Nat.max 1 t.echoes, t.most] cl)).flush) ∧
    (∀ (q : HostPort) lanes, (s.runningAct? colMargin q.val = none → exec (.laneMarginingEnd q lanes) s = .next s.flush) ∧
      ∀ a k d cl, s.runningAct? colMargin q.val = some a → a.work = .margining k d cl → exec (.laneMarginingEnd q lanes) s =
        .next (((s.modPort q.val (fun h => { h with marginingReady := false })).arbEnd a).actReply k 0x13 0
          (lanes.flatMap (fun e => [e.1.toNat, e.2.toNat])) cl).flush) ∧
    ((s.runningAct? colDebug 0 = none → exec .debugWindowExpiry s = .next s.flush) ∧
      ∀ a, s.runningAct? colDebug 0 = some a → exec .debugWindowExpiry s =
        .next (((s.wr F.idDbgOpen 0).mgmtEvent 9 0x0E 0xFF (s.sessCred 0xFF) 0).arbEnd a).flush) ∧
    (∀ occ, exec (.telemetryRecord occ) s = .next (if s.mgmtUp = true ∧ s.rst.ready = true then s.telemetry occ else s).flush))
end

