-- ==== Sys2Proof/Laws/State.lean ====
section
/-! SUPPORT. What each shared operation leaves of the state: one lemma per field and operation, true by definition, so that
no proof unfolds a record update. -/
namespace Sys2Proof.Machine.Laws
open Sys2Proof

@[simp] theorem wr_pending (s : State) (f : Fld) (v b i : Nat) : (s.wr f v b i).pending = s.pending := rfl
@[simp] theorem wr_freeCtr (s : State) (f : Fld) (v b i : Nat) : (s.wr f v b i).freeCtr = s.freeCtr := rfl
@[simp] theorem wr_latches (s : State) (f : Fld) (v b i : Nat) : (s.wr f v b i).latches = s.latches := rfl
@[simp] theorem wr_out (s : State) (f : Fld) (v b i : Nat) : (s.wr f v b i).out = s.out := rfl
@[simp] theorem wr_time (s : State) (f : Fld) (v b i : Nat) : (s.wr f v b i).time = s.time := rfl
@[simp] theorem wr_queues (s : State) (f : Fld) (v b i : Nat) : (s.wr f v b i).queues = s.queues := rfl
@[simp] theorem wr_parts (s : State) (f : Fld) (v b i : Nat) : (s.wr f v b i).parts = s.parts := rfl
@[simp] theorem wr_cores (s : State) (f : Fld) (v b i : Nat) : (s.wr f v b i).cores = s.cores := rfl
@[simp] theorem wr_host (s : State) (f : Fld) (v b i : Nat) : (s.wr f v b i).host = s.host := rfl
@[simp] theorem wr_mem (s : State) (f : Fld) (v b i : Nat) : (s.wr f v b i).mem = s.mem := rfl
@[simp] theorem wr_tiers (s : State) (f : Fld) (v b i : Nat) : (s.wr f v b i).tiers = s.tiers := rfl
@[simp] theorem wr_routers (s : State) (f : Fld) (v b i : Nat) : (s.wr f v b i).routers = s.routers := rfl
@[simp] theorem wr_net (s : State) (f : Fld) (v b i : Nat) : (s.wr f v b i).net = s.net := rfl
@[simp] theorem wr_mgmt (s : State) (f : Fld) (v b i : Nat) : (s.wr f v b i).mgmt = s.mgmt := rfl
@[simp] theorem wr_power (s : State) (f : Fld) (v b i : Nat) : (s.wr f v b i).power = s.power := rfl
@[simp] theorem wr_rst (s : State) (f : Fld) (v b i : Nat) : (s.wr f v b i).rst = s.rst := rfl

@[simp] theorem inc_pending (s : State) (f : Fld) (n b i : Nat) : (s.inc f n b i).pending = s.pending := rfl
@[simp] theorem inc_freeCtr (s : State) (f : Fld) (n b i : Nat) : (s.inc f n b i).freeCtr = s.freeCtr := rfl
@[simp] theorem inc_latches (s : State) (f : Fld) (n b i : Nat) : (s.inc f n b i).latches = s.latches := rfl
@[simp] theorem inc_out (s : State) (f : Fld) (n b i : Nat) : (s.inc f n b i).out = s.out := rfl
@[simp] theorem inc_time (s : State) (f : Fld) (n b i : Nat) : (s.inc f n b i).time = s.time := rfl
@[simp] theorem inc_queues (s : State) (f : Fld) (n b i : Nat) : (s.inc f n b i).queues = s.queues := rfl
@[simp] theorem inc_parts (s : State) (f : Fld) (n b i : Nat) : (s.inc f n b i).parts = s.parts := rfl
@[simp] theorem inc_cores (s : State) (f : Fld) (n b i : Nat) : (s.inc f n b i).cores = s.cores := rfl
@[simp] theorem inc_host (s : State) (f : Fld) (n b i : Nat) : (s.inc f n b i).host = s.host := rfl
@[simp] theorem inc_mem (s : State) (f : Fld) (n b i : Nat) : (s.inc f n b i).mem = s.mem := rfl
@[simp] theorem inc_tiers (s : State) (f : Fld) (n b i : Nat) : (s.inc f n b i).tiers = s.tiers := rfl
@[simp] theorem inc_routers (s : State) (f : Fld) (n b i : Nat) : (s.inc f n b i).routers = s.routers := rfl
@[simp] theorem inc_net (s : State) (f : Fld) (n b i : Nat) : (s.inc f n b i).net = s.net := rfl
@[simp] theorem inc_mgmt (s : State) (f : Fld) (n b i : Nat) : (s.inc f n b i).mgmt = s.mgmt := rfl
@[simp] theorem inc_power (s : State) (f : Fld) (n b i : Nat) : (s.inc f n b i).power = s.power := rfl
@[simp] theorem inc_rst (s : State) (f : Fld) (n b i : Nat) : (s.inc f n b i).rst = s.rst := rfl

@[simp] theorem add_pending (s : State) (f : Fld) (n b i : Nat) : (s.add f n b i).pending = s.pending := rfl
@[simp] theorem add_freeCtr (s : State) (f : Fld) (n b i : Nat) : (s.add f n b i).freeCtr = s.freeCtr := rfl
@[simp] theorem add_latches (s : State) (f : Fld) (n b i : Nat) : (s.add f n b i).latches = s.latches := rfl
@[simp] theorem add_out (s : State) (f : Fld) (n b i : Nat) : (s.add f n b i).out = s.out := rfl
@[simp] theorem add_time (s : State) (f : Fld) (n b i : Nat) : (s.add f n b i).time = s.time := rfl
@[simp] theorem add_queues (s : State) (f : Fld) (n b i : Nat) : (s.add f n b i).queues = s.queues := rfl
@[simp] theorem add_parts (s : State) (f : Fld) (n b i : Nat) : (s.add f n b i).parts = s.parts := rfl
@[simp] theorem add_cores (s : State) (f : Fld) (n b i : Nat) : (s.add f n b i).cores = s.cores := rfl
@[simp] theorem add_host (s : State) (f : Fld) (n b i : Nat) : (s.add f n b i).host = s.host := rfl
@[simp] theorem add_mem (s : State) (f : Fld) (n b i : Nat) : (s.add f n b i).mem = s.mem := rfl
@[simp] theorem add_tiers (s : State) (f : Fld) (n b i : Nat) : (s.add f n b i).tiers = s.tiers := rfl
@[simp] theorem add_routers (s : State) (f : Fld) (n b i : Nat) : (s.add f n b i).routers = s.routers := rfl
@[simp] theorem add_net (s : State) (f : Fld) (n b i : Nat) : (s.add f n b i).net = s.net := rfl
@[simp] theorem add_mgmt (s : State) (f : Fld) (n b i : Nat) : (s.add f n b i).mgmt = s.mgmt := rfl
@[simp] theorem add_power (s : State) (f : Fld) (n b i : Nat) : (s.add f n b i).power = s.power := rfl
@[simp] theorem add_rst (s : State) (f : Fld) (n b i : Nat) : (s.add f n b i).rst = s.rst := rfl

@[simp] theorem modPart_pending (s : State) (p : Nat) (f : PartState → PartState) : (s.modPart p f).pending = s.pending := rfl
@[simp] theorem modPart_freeCtr (s : State) (p : Nat) (f : PartState → PartState) : (s.modPart p f).freeCtr = s.freeCtr := rfl
@[simp] theorem modPart_regs (s : State) (p : Nat) (f : PartState → PartState) : (s.modPart p f).regs = s.regs := rfl
@[simp] theorem modPart_latches (s : State) (p : Nat) (f : PartState → PartState) : (s.modPart p f).latches = s.latches := rfl
@[simp] theorem modPart_out (s : State) (p : Nat) (f : PartState → PartState) : (s.modPart p f).out = s.out := rfl
@[simp] theorem modPart_time (s : State) (p : Nat) (f : PartState → PartState) : (s.modPart p f).time = s.time := rfl
@[simp] theorem modPart_queues (s : State) (p : Nat) (f : PartState → PartState) : (s.modPart p f).queues = s.queues := rfl
@[simp] theorem modPart_cores (s : State) (p : Nat) (f : PartState → PartState) : (s.modPart p f).cores = s.cores := rfl
@[simp] theorem modPart_host (s : State) (p : Nat) (f : PartState → PartState) : (s.modPart p f).host = s.host := rfl
@[simp] theorem modPart_mem (s : State) (p : Nat) (f : PartState → PartState) : (s.modPart p f).mem = s.mem := rfl
@[simp] theorem modPart_tiers (s : State) (p : Nat) (f : PartState → PartState) : (s.modPart p f).tiers = s.tiers := rfl
@[simp] theorem modPart_routers (s : State) (p : Nat) (f : PartState → PartState) : (s.modPart p f).routers = s.routers := rfl
@[simp] theorem modPart_net (s : State) (p : Nat) (f : PartState → PartState) : (s.modPart p f).net = s.net := rfl
@[simp] theorem modPart_mgmt (s : State) (p : Nat) (f : PartState → PartState) : (s.modPart p f).mgmt = s.mgmt := rfl
@[simp] theorem modPart_power (s : State) (p : Nat) (f : PartState → PartState) : (s.modPart p f).power = s.power := rfl
@[simp] theorem modPart_rst (s : State) (p : Nat) (f : PartState → PartState) : (s.modPart p f).rst = s.rst := rfl

@[simp] theorem modCad_pending (s : State) (p : Nat) (f : PCad → PCad) : (s.modCad p f).pending = s.pending := rfl
@[simp] theorem modCad_freeCtr (s : State) (p : Nat) (f : PCad → PCad) : (s.modCad p f).freeCtr = s.freeCtr := rfl
@[simp] theorem modCad_regs (s : State) (p : Nat) (f : PCad → PCad) : (s.modCad p f).regs = s.regs := rfl
@[simp] theorem modCad_latches (s : State) (p : Nat) (f : PCad → PCad) : (s.modCad p f).latches = s.latches := rfl
@[simp] theorem modCad_out (s : State) (p : Nat) (f : PCad → PCad) : (s.modCad p f).out = s.out := rfl
@[simp] theorem modCad_time (s : State) (p : Nat) (f : PCad → PCad) : (s.modCad p f).time = s.time := rfl
@[simp] theorem modCad_queues (s : State) (p : Nat) (f : PCad → PCad) : (s.modCad p f).queues = s.queues := rfl
@[simp] theorem modCad_cores (s : State) (p : Nat) (f : PCad → PCad) : (s.modCad p f).cores = s.cores := rfl
@[simp] theorem modCad_host (s : State) (p : Nat) (f : PCad → PCad) : (s.modCad p f).host = s.host := rfl
@[simp] theorem modCad_mem (s : State) (p : Nat) (f : PCad → PCad) : (s.modCad p f).mem = s.mem := rfl
@[simp] theorem modCad_tiers (s : State) (p : Nat) (f : PCad → PCad) : (s.modCad p f).tiers = s.tiers := rfl
@[simp] theorem modCad_routers (s : State) (p : Nat) (f : PCad → PCad) : (s.modCad p f).routers = s.routers := rfl
@[simp] theorem modCad_net (s : State) (p : Nat) (f : PCad → PCad) : (s.modCad p f).net = s.net := rfl
@[simp] theorem modCad_mgmt (s : State) (p : Nat) (f : PCad → PCad) : (s.modCad p f).mgmt = s.mgmt := rfl
@[simp] theorem modCad_power (s : State) (p : Nat) (f : PCad → PCad) : (s.modCad p f).power = s.power := rfl
@[simp] theorem modCad_rst (s : State) (p : Nat) (f : PCad → PCad) : (s.modCad p f).rst = s.rst := rfl

@[simp] theorem modTier_pending (s : State) (p : Nat) (f : PTier → PTier) : (s.modTier p f).pending = s.pending := rfl
@[simp] theorem modTier_freeCtr (s : State) (p : Nat) (f : PTier → PTier) : (s.modTier p f).freeCtr = s.freeCtr := rfl
@[simp] theorem modTier_regs (s : State) (p : Nat) (f : PTier → PTier) : (s.modTier p f).regs = s.regs := rfl
@[simp] theorem modTier_latches (s : State) (p : Nat) (f : PTier → PTier) : (s.modTier p f).latches = s.latches := rfl
@[simp] theorem modTier_out (s : State) (p : Nat) (f : PTier → PTier) : (s.modTier p f).out = s.out := rfl
@[simp] theorem modTier_time (s : State) (p : Nat) (f : PTier → PTier) : (s.modTier p f).time = s.time := rfl
@[simp] theorem modTier_queues (s : State) (p : Nat) (f : PTier → PTier) : (s.modTier p f).queues = s.queues := rfl
@[simp] theorem modTier_cores (s : State) (p : Nat) (f : PTier → PTier) : (s.modTier p f).cores = s.cores := rfl
@[simp] theorem modTier_host (s : State) (p : Nat) (f : PTier → PTier) : (s.modTier p f).host = s.host := rfl
@[simp] theorem modTier_mem (s : State) (p : Nat) (f : PTier → PTier) : (s.modTier p f).mem = s.mem := rfl
@[simp] theorem modTier_tiers (s : State) (p : Nat) (f : PTier → PTier) : (s.modTier p f).tiers = s.tiers := rfl
@[simp] theorem modTier_routers (s : State) (p : Nat) (f : PTier → PTier) : (s.modTier p f).routers = s.routers := rfl
@[simp] theorem modTier_net (s : State) (p : Nat) (f : PTier → PTier) : (s.modTier p f).net = s.net := rfl
@[simp] theorem modTier_mgmt (s : State) (p : Nat) (f : PTier → PTier) : (s.modTier p f).mgmt = s.mgmt := rfl
@[simp] theorem modTier_power (s : State) (p : Nat) (f : PTier → PTier) : (s.modTier p f).power = s.power := rfl
@[simp] theorem modTier_rst (s : State) (p : Nat) (f : PTier → PTier) : (s.modTier p f).rst = s.rst := rfl

@[simp] theorem modColl_pending (s : State) (p : Nat) (f : PColl → PColl) : (s.modColl p f).pending = s.pending := rfl
@[simp] theorem modColl_freeCtr (s : State) (p : Nat) (f : PColl → PColl) : (s.modColl p f).freeCtr = s.freeCtr := rfl
@[simp] theorem modColl_regs (s : State) (p : Nat) (f : PColl → PColl) : (s.modColl p f).regs = s.regs := rfl
@[simp] theorem modColl_latches (s : State) (p : Nat) (f : PColl → PColl) : (s.modColl p f).latches = s.latches := rfl
@[simp] theorem modColl_out (s : State) (p : Nat) (f : PColl → PColl) : (s.modColl p f).out = s.out := rfl
@[simp] theorem modColl_time (s : State) (p : Nat) (f : PColl → PColl) : (s.modColl p f).time = s.time := rfl
@[simp] theorem modColl_queues (s : State) (p : Nat) (f : PColl → PColl) : (s.modColl p f).queues = s.queues := rfl
@[simp] theorem modColl_cores (s : State) (p : Nat) (f : PColl → PColl) : (s.modColl p f).cores = s.cores := rfl
@[simp] theorem modColl_host (s : State) (p : Nat) (f : PColl → PColl) : (s.modColl p f).host = s.host := rfl
@[simp] theorem modColl_mem (s : State) (p : Nat) (f : PColl → PColl) : (s.modColl p f).mem = s.mem := rfl
@[simp] theorem modColl_tiers (s : State) (p : Nat) (f : PColl → PColl) : (s.modColl p f).tiers = s.tiers := rfl
@[simp] theorem modColl_routers (s : State) (p : Nat) (f : PColl → PColl) : (s.modColl p f).routers = s.routers := rfl
@[simp] theorem modColl_net (s : State) (p : Nat) (f : PColl → PColl) : (s.modColl p f).net = s.net := rfl
@[simp] theorem modColl_mgmt (s : State) (p : Nat) (f : PColl → PColl) : (s.modColl p f).mgmt = s.mgmt := rfl
@[simp] theorem modColl_power (s : State) (p : Nat) (f : PColl → PColl) : (s.modColl p f).power = s.power := rfl
@[simp] theorem modColl_rst (s : State) (p : Nat) (f : PColl → PColl) : (s.modColl p f).rst = s.rst := rfl

@[simp] theorem modCont_pending (s : State) (p : Nat) (f : PCont → PCont) : (s.modCont p f).pending = s.pending := rfl
@[simp] theorem modCont_freeCtr (s : State) (p : Nat) (f : PCont → PCont) : (s.modCont p f).freeCtr = s.freeCtr := rfl
@[simp] theorem modCont_regs (s : State) (p : Nat) (f : PCont → PCont) : (s.modCont p f).regs = s.regs := rfl
@[simp] theorem modCont_latches (s : State) (p : Nat) (f : PCont → PCont) : (s.modCont p f).latches = s.latches := rfl
@[simp] theorem modCont_out (s : State) (p : Nat) (f : PCont → PCont) : (s.modCont p f).out = s.out := rfl
@[simp] theorem modCont_time (s : State) (p : Nat) (f : PCont → PCont) : (s.modCont p f).time = s.time := rfl
@[simp] theorem modCont_queues (s : State) (p : Nat) (f : PCont → PCont) : (s.modCont p f).queues = s.queues := rfl
@[simp] theorem modCont_cores (s : State) (p : Nat) (f : PCont → PCont) : (s.modCont p f).cores = s.cores := rfl
@[simp] theorem modCont_host (s : State) (p : Nat) (f : PCont → PCont) : (s.modCont p f).host = s.host := rfl
@[simp] theorem modCont_mem (s : State) (p : Nat) (f : PCont → PCont) : (s.modCont p f).mem = s.mem := rfl
@[simp] theorem modCont_tiers (s : State) (p : Nat) (f : PCont → PCont) : (s.modCont p f).tiers = s.tiers := rfl
@[simp] theorem modCont_routers (s : State) (p : Nat) (f : PCont → PCont) : (s.modCont p f).routers = s.routers := rfl
@[simp] theorem modCont_net (s : State) (p : Nat) (f : PCont → PCont) : (s.modCont p f).net = s.net := rfl
@[simp] theorem modCont_mgmt (s : State) (p : Nat) (f : PCont → PCont) : (s.modCont p f).mgmt = s.mgmt := rfl
@[simp] theorem modCont_power (s : State) (p : Nat) (f : PCont → PCont) : (s.modCont p f).power = s.power := rfl
@[simp] theorem modCont_rst (s : State) (p : Nat) (f : PCont → PCont) : (s.modCont p f).rst = s.rst := rfl

@[simp] theorem modStep_pending (s : State) (p id : Nat) (f : StepRun → StepRun) : (s.modStep p id f).pending = s.pending := rfl
@[simp] theorem modStep_freeCtr (s : State) (p id : Nat) (f : StepRun → StepRun) : (s.modStep p id f).freeCtr = s.freeCtr := rfl
@[simp] theorem modStep_regs (s : State) (p id : Nat) (f : StepRun → StepRun) : (s.modStep p id f).regs = s.regs := rfl
@[simp] theorem modStep_latches (s : State) (p id : Nat) (f : StepRun → StepRun) : (s.modStep p id f).latches = s.latches := rfl
@[simp] theorem modStep_out (s : State) (p id : Nat) (f : StepRun → StepRun) : (s.modStep p id f).out = s.out := rfl
@[simp] theorem modStep_time (s : State) (p id : Nat) (f : StepRun → StepRun) : (s.modStep p id f).time = s.time := rfl
@[simp] theorem modStep_queues (s : State) (p id : Nat) (f : StepRun → StepRun) : (s.modStep p id f).queues = s.queues := rfl
@[simp] theorem modStep_cores (s : State) (p id : Nat) (f : StepRun → StepRun) : (s.modStep p id f).cores = s.cores := rfl
@[simp] theorem modStep_host (s : State) (p id : Nat) (f : StepRun → StepRun) : (s.modStep p id f).host = s.host := rfl
@[simp] theorem modStep_mem (s : State) (p id : Nat) (f : StepRun → StepRun) : (s.modStep p id f).mem = s.mem := rfl
@[simp] theorem modStep_tiers (s : State) (p id : Nat) (f : StepRun → StepRun) : (s.modStep p id f).tiers = s.tiers := rfl
@[simp] theorem modStep_routers (s : State) (p id : Nat) (f : StepRun → StepRun) : (s.modStep p id f).routers = s.routers := rfl
@[simp] theorem modStep_net (s : State) (p id : Nat) (f : StepRun → StepRun) : (s.modStep p id f).net = s.net := rfl
@[simp] theorem modStep_mgmt (s : State) (p id : Nat) (f : StepRun → StepRun) : (s.modStep p id f).mgmt = s.mgmt := rfl
@[simp] theorem modStep_power (s : State) (p id : Nat) (f : StepRun → StepRun) : (s.modStep p id f).power = s.power := rfl
@[simp] theorem modStep_rst (s : State) (p id : Nat) (f : StepRun → StepRun) : (s.modStep p id f).rst = s.rst := rfl

@[simp] theorem modObj_pending (s : State) (p slot : Nat) (f : Obj → Obj) : (s.modObj p slot f).pending = s.pending := rfl
@[simp] theorem modObj_freeCtr (s : State) (p slot : Nat) (f : Obj → Obj) : (s.modObj p slot f).freeCtr = s.freeCtr := rfl
@[simp] theorem modObj_regs (s : State) (p slot : Nat) (f : Obj → Obj) : (s.modObj p slot f).regs = s.regs := rfl
@[simp] theorem modObj_latches (s : State) (p slot : Nat) (f : Obj → Obj) : (s.modObj p slot f).latches = s.latches := rfl
@[simp] theorem modObj_out (s : State) (p slot : Nat) (f : Obj → Obj) : (s.modObj p slot f).out = s.out := rfl
@[simp] theorem modObj_time (s : State) (p slot : Nat) (f : Obj → Obj) : (s.modObj p slot f).time = s.time := rfl
@[simp] theorem modObj_queues (s : State) (p slot : Nat) (f : Obj → Obj) : (s.modObj p slot f).queues = s.queues := rfl
@[simp] theorem modObj_cores (s : State) (p slot : Nat) (f : Obj → Obj) : (s.modObj p slot f).cores = s.cores := rfl
@[simp] theorem modObj_host (s : State) (p slot : Nat) (f : Obj → Obj) : (s.modObj p slot f).host = s.host := rfl
@[simp] theorem modObj_mem (s : State) (p slot : Nat) (f : Obj → Obj) : (s.modObj p slot f).mem = s.mem := rfl
@[simp] theorem modObj_tiers (s : State) (p slot : Nat) (f : Obj → Obj) : (s.modObj p slot f).tiers = s.tiers := rfl
@[simp] theorem modObj_routers (s : State) (p slot : Nat) (f : Obj → Obj) : (s.modObj p slot f).routers = s.routers := rfl
@[simp] theorem modObj_net (s : State) (p slot : Nat) (f : Obj → Obj) : (s.modObj p slot f).net = s.net := rfl
@[simp] theorem modObj_mgmt (s : State) (p slot : Nat) (f : Obj → Obj) : (s.modObj p slot f).mgmt = s.mgmt := rfl
@[simp] theorem modObj_power (s : State) (p slot : Nat) (f : Obj → Obj) : (s.modObj p slot f).power = s.power := rfl
@[simp] theorem modObj_rst (s : State) (p slot : Nat) (f : Obj → Obj) : (s.modObj p slot f).rst = s.rst := rfl

@[simp] theorem modJob_pending (s : State) (p : Nat) (f : Job → Job) : (s.modJob p f).pending = s.pending := rfl
@[simp] theorem modJob_freeCtr (s : State) (p : Nat) (f : Job → Job) : (s.modJob p f).freeCtr = s.freeCtr := rfl
@[simp] theorem modJob_regs (s : State) (p : Nat) (f : Job → Job) : (s.modJob p f).regs = s.regs := rfl
@[simp] theorem modJob_latches (s : State) (p : Nat) (f : Job → Job) : (s.modJob p f).latches = s.latches := rfl
@[simp] theorem modJob_out (s : State) (p : Nat) (f : Job → Job) : (s.modJob p f).out = s.out := rfl
@[simp] theorem modJob_time (s : State) (p : Nat) (f : Job → Job) : (s.modJob p f).time = s.time := rfl
@[simp] theorem modJob_queues (s : State) (p : Nat) (f : Job → Job) : (s.modJob p f).queues = s.queues := rfl
@[simp] theorem modJob_cores (s : State) (p : Nat) (f : Job → Job) : (s.modJob p f).cores = s.cores := rfl
@[simp] theorem modJob_host (s : State) (p : Nat) (f : Job → Job) : (s.modJob p f).host = s.host := rfl
@[simp] theorem modJob_mem (s : State) (p : Nat) (f : Job → Job) : (s.modJob p f).mem = s.mem := rfl
@[simp] theorem modJob_tiers (s : State) (p : Nat) (f : Job → Job) : (s.modJob p f).tiers = s.tiers := rfl
@[simp] theorem modJob_routers (s : State) (p : Nat) (f : Job → Job) : (s.modJob p f).routers = s.routers := rfl
@[simp] theorem modJob_net (s : State) (p : Nat) (f : Job → Job) : (s.modJob p f).net = s.net := rfl
@[simp] theorem modJob_mgmt (s : State) (p : Nat) (f : Job → Job) : (s.modJob p f).mgmt = s.mgmt := rfl
@[simp] theorem modJob_power (s : State) (p : Nat) (f : Job → Job) : (s.modJob p f).power = s.power := rfl
@[simp] theorem modJob_rst (s : State) (p : Nat) (f : Job → Job) : (s.modJob p f).rst = s.rst := rfl

@[simp] theorem putGroup_pending (s : State) (p g : Nat) (x : CollGroup) : (s.putGroup p g x).pending = s.pending := rfl
@[simp] theorem putGroup_freeCtr (s : State) (p g : Nat) (x : CollGroup) : (s.putGroup p g x).freeCtr = s.freeCtr := rfl
@[simp] theorem putGroup_regs (s : State) (p g : Nat) (x : CollGroup) : (s.putGroup p g x).regs = s.regs := rfl
@[simp] theorem putGroup_latches (s : State) (p g : Nat) (x : CollGroup) : (s.putGroup p g x).latches = s.latches := rfl
@[simp] theorem putGroup_out (s : State) (p g : Nat) (x : CollGroup) : (s.putGroup p g x).out = s.out := rfl
@[simp] theorem putGroup_time (s : State) (p g : Nat) (x : CollGroup) : (s.putGroup p g x).time = s.time := rfl
@[simp] theorem putGroup_queues (s : State) (p g : Nat) (x : CollGroup) : (s.putGroup p g x).queues = s.queues := rfl
@[simp] theorem putGroup_cores (s : State) (p g : Nat) (x : CollGroup) : (s.putGroup p g x).cores = s.cores := rfl
@[simp] theorem putGroup_host (s : State) (p g : Nat) (x : CollGroup) : (s.putGroup p g x).host = s.host := rfl
@[simp] theorem putGroup_mem (s : State) (p g : Nat) (x : CollGroup) : (s.putGroup p g x).mem = s.mem := rfl
@[simp] theorem putGroup_tiers (s : State) (p g : Nat) (x : CollGroup) : (s.putGroup p g x).tiers = s.tiers := rfl
@[simp] theorem putGroup_routers (s : State) (p g : Nat) (x : CollGroup) : (s.putGroup p g x).routers = s.routers := rfl
@[simp] theorem putGroup_net (s : State) (p g : Nat) (x : CollGroup) : (s.putGroup p g x).net = s.net := rfl
@[simp] theorem putGroup_mgmt (s : State) (p g : Nat) (x : CollGroup) : (s.putGroup p g x).mgmt = s.mgmt := rfl
@[simp] theorem putGroup_power (s : State) (p g : Nat) (x : CollGroup) : (s.putGroup p g x).power = s.power := rfl
@[simp] theorem putGroup_rst (s : State) (p g : Nat) (x : CollGroup) : (s.putGroup p g x).rst = s.rst := rfl

@[simp] theorem putSheaf_pending (s : State) (p n : Nat) (x : Sheaf) : (s.putSheaf p n x).pending = s.pending := rfl
@[simp] theorem putSheaf_freeCtr (s : State) (p n : Nat) (x : Sheaf) : (s.putSheaf p n x).freeCtr = s.freeCtr := rfl
@[simp] theorem putSheaf_regs (s : State) (p n : Nat) (x : Sheaf) : (s.putSheaf p n x).regs = s.regs := rfl
@[simp] theorem putSheaf_latches (s : State) (p n : Nat) (x : Sheaf) : (s.putSheaf p n x).latches = s.latches := rfl
@[simp] theorem putSheaf_out (s : State) (p n : Nat) (x : Sheaf) : (s.putSheaf p n x).out = s.out := rfl
@[simp] theorem putSheaf_time (s : State) (p n : Nat) (x : Sheaf) : (s.putSheaf p n x).time = s.time := rfl
@[simp] theorem putSheaf_queues (s : State) (p n : Nat) (x : Sheaf) : (s.putSheaf p n x).queues = s.queues := rfl
@[simp] theorem putSheaf_cores (s : State) (p n : Nat) (x : Sheaf) : (s.putSheaf p n x).cores = s.cores := rfl
@[simp] theorem putSheaf_host (s : State) (p n : Nat) (x : Sheaf) : (s.putSheaf p n x).host = s.host := rfl
@[simp] theorem putSheaf_mem (s : State) (p n : Nat) (x : Sheaf) : (s.putSheaf p n x).mem = s.mem := rfl
@[simp] theorem putSheaf_tiers (s : State) (p n : Nat) (x : Sheaf) : (s.putSheaf p n x).tiers = s.tiers := rfl
@[simp] theorem putSheaf_routers (s : State) (p n : Nat) (x : Sheaf) : (s.putSheaf p n x).routers = s.routers := rfl
@[simp] theorem putSheaf_net (s : State) (p n : Nat) (x : Sheaf) : (s.putSheaf p n x).net = s.net := rfl
@[simp] theorem putSheaf_mgmt (s : State) (p n : Nat) (x : Sheaf) : (s.putSheaf p n x).mgmt = s.mgmt := rfl
@[simp] theorem putSheaf_power (s : State) (p n : Nat) (x : Sheaf) : (s.putSheaf p n x).power = s.power := rfl
@[simp] theorem putSheaf_rst (s : State) (p n : Nat) (x : Sheaf) : (s.putSheaf p n x).rst = s.rst := rfl

@[simp] theorem putDctx_pending (s : State) (p n : Nat) (x : DispCtx) : (s.putDctx p n x).pending = s.pending := rfl
@[simp] theorem putDctx_freeCtr (s : State) (p n : Nat) (x : DispCtx) : (s.putDctx p n x).freeCtr = s.freeCtr := rfl
@[simp] theorem putDctx_regs (s : State) (p n : Nat) (x : DispCtx) : (s.putDctx p n x).regs = s.regs := rfl
@[simp] theorem putDctx_latches (s : State) (p n : Nat) (x : DispCtx) : (s.putDctx p n x).latches = s.latches := rfl
@[simp] theorem putDctx_out (s : State) (p n : Nat) (x : DispCtx) : (s.putDctx p n x).out = s.out := rfl
@[simp] theorem putDctx_time (s : State) (p n : Nat) (x : DispCtx) : (s.putDctx p n x).time = s.time := rfl
@[simp] theorem putDctx_queues (s : State) (p n : Nat) (x : DispCtx) : (s.putDctx p n x).queues = s.queues := rfl
@[simp] theorem putDctx_cores (s : State) (p n : Nat) (x : DispCtx) : (s.putDctx p n x).cores = s.cores := rfl
@[simp] theorem putDctx_host (s : State) (p n : Nat) (x : DispCtx) : (s.putDctx p n x).host = s.host := rfl
@[simp] theorem putDctx_mem (s : State) (p n : Nat) (x : DispCtx) : (s.putDctx p n x).mem = s.mem := rfl
@[simp] theorem putDctx_tiers (s : State) (p n : Nat) (x : DispCtx) : (s.putDctx p n x).tiers = s.tiers := rfl
@[simp] theorem putDctx_routers (s : State) (p n : Nat) (x : DispCtx) : (s.putDctx p n x).routers = s.routers := rfl
@[simp] theorem putDctx_net (s : State) (p n : Nat) (x : DispCtx) : (s.putDctx p n x).net = s.net := rfl
@[simp] theorem putDctx_mgmt (s : State) (p n : Nat) (x : DispCtx) : (s.putDctx p n x).mgmt = s.mgmt := rfl
@[simp] theorem putDctx_power (s : State) (p n : Nat) (x : DispCtx) : (s.putDctx p n x).power = s.power := rfl
@[simp] theorem putDctx_rst (s : State) (p n : Nat) (x : DispCtx) : (s.putDctx p n x).rst = s.rst := rfl

@[simp] theorem putShard_pending (s : State) (p i : Nat) (x : Shard) : (s.putShard p i x).pending = s.pending := rfl
@[simp] theorem putShard_freeCtr (s : State) (p i : Nat) (x : Shard) : (s.putShard p i x).freeCtr = s.freeCtr := rfl
@[simp] theorem putShard_regs (s : State) (p i : Nat) (x : Shard) : (s.putShard p i x).regs = s.regs := rfl
@[simp] theorem putShard_latches (s : State) (p i : Nat) (x : Shard) : (s.putShard p i x).latches = s.latches := rfl
@[simp] theorem putShard_out (s : State) (p i : Nat) (x : Shard) : (s.putShard p i x).out = s.out := rfl
@[simp] theorem putShard_time (s : State) (p i : Nat) (x : Shard) : (s.putShard p i x).time = s.time := rfl
@[simp] theorem putShard_queues (s : State) (p i : Nat) (x : Shard) : (s.putShard p i x).queues = s.queues := rfl
@[simp] theorem putShard_cores (s : State) (p i : Nat) (x : Shard) : (s.putShard p i x).cores = s.cores := rfl
@[simp] theorem putShard_host (s : State) (p i : Nat) (x : Shard) : (s.putShard p i x).host = s.host := rfl
@[simp] theorem putShard_mem (s : State) (p i : Nat) (x : Shard) : (s.putShard p i x).mem = s.mem := rfl
@[simp] theorem putShard_tiers (s : State) (p i : Nat) (x : Shard) : (s.putShard p i x).tiers = s.tiers := rfl
@[simp] theorem putShard_routers (s : State) (p i : Nat) (x : Shard) : (s.putShard p i x).routers = s.routers := rfl
@[simp] theorem putShard_net (s : State) (p i : Nat) (x : Shard) : (s.putShard p i x).net = s.net := rfl
@[simp] theorem putShard_mgmt (s : State) (p i : Nat) (x : Shard) : (s.putShard p i x).mgmt = s.mgmt := rfl
@[simp] theorem putShard_power (s : State) (p i : Nat) (x : Shard) : (s.putShard p i x).power = s.power := rfl
@[simp] theorem putShard_rst (s : State) (p i : Nat) (x : Shard) : (s.putShard p i x).rst = s.rst := rfl

@[simp] theorem modCore_pending (s : State) (c : Nat) (f : CoreState → CoreState) : (s.modCore c f).pending = s.pending := rfl
@[simp] theorem modCore_freeCtr (s : State) (c : Nat) (f : CoreState → CoreState) : (s.modCore c f).freeCtr = s.freeCtr := rfl
@[simp] theorem modCore_regs (s : State) (c : Nat) (f : CoreState → CoreState) : (s.modCore c f).regs = s.regs := rfl
@[simp] theorem modCore_latches (s : State) (c : Nat) (f : CoreState → CoreState) : (s.modCore c f).latches = s.latches := rfl
@[simp] theorem modCore_out (s : State) (c : Nat) (f : CoreState → CoreState) : (s.modCore c f).out = s.out := rfl
@[simp] theorem modCore_time (s : State) (c : Nat) (f : CoreState → CoreState) : (s.modCore c f).time = s.time := rfl
@[simp] theorem modCore_queues (s : State) (c : Nat) (f : CoreState → CoreState) : (s.modCore c f).queues = s.queues := rfl
@[simp] theorem modCore_parts (s : State) (c : Nat) (f : CoreState → CoreState) : (s.modCore c f).parts = s.parts := rfl
@[simp] theorem modCore_host (s : State) (c : Nat) (f : CoreState → CoreState) : (s.modCore c f).host = s.host := rfl
@[simp] theorem modCore_mem (s : State) (c : Nat) (f : CoreState → CoreState) : (s.modCore c f).mem = s.mem := rfl
@[simp] theorem modCore_tiers (s : State) (c : Nat) (f : CoreState → CoreState) : (s.modCore c f).tiers = s.tiers := rfl
@[simp] theorem modCore_routers (s : State) (c : Nat) (f : CoreState → CoreState) : (s.modCore c f).routers = s.routers := rfl
@[simp] theorem modCore_net (s : State) (c : Nat) (f : CoreState → CoreState) : (s.modCore c f).net = s.net := rfl
@[simp] theorem modCore_mgmt (s : State) (c : Nat) (f : CoreState → CoreState) : (s.modCore c f).mgmt = s.mgmt := rfl
@[simp] theorem modCore_power (s : State) (c : Nat) (f : CoreState → CoreState) : (s.modCore c f).power = s.power := rfl
@[simp] theorem modCore_rst (s : State) (c : Nat) (f : CoreState → CoreState) : (s.modCore c f).rst = s.rst := rfl

@[simp] theorem setRow_pending (s : State) (c r : Nat) (x : TarnRow) : (s.setRow c r x).pending = s.pending := rfl
@[simp] theorem setRow_freeCtr (s : State) (c r : Nat) (x : TarnRow) : (s.setRow c r x).freeCtr = s.freeCtr := rfl
@[simp] theorem setRow_regs (s : State) (c r : Nat) (x : TarnRow) : (s.setRow c r x).regs = s.regs := rfl
@[simp] theorem setRow_latches (s : State) (c r : Nat) (x : TarnRow) : (s.setRow c r x).latches = s.latches := rfl
@[simp] theorem setRow_out (s : State) (c r : Nat) (x : TarnRow) : (s.setRow c r x).out = s.out := rfl
@[simp] theorem setRow_time (s : State) (c r : Nat) (x : TarnRow) : (s.setRow c r x).time = s.time := rfl
@[simp] theorem setRow_queues (s : State) (c r : Nat) (x : TarnRow) : (s.setRow c r x).queues = s.queues := rfl
@[simp] theorem setRow_parts (s : State) (c r : Nat) (x : TarnRow) : (s.setRow c r x).parts = s.parts := rfl
@[simp] theorem setRow_host (s : State) (c r : Nat) (x : TarnRow) : (s.setRow c r x).host = s.host := rfl
@[simp] theorem setRow_mem (s : State) (c r : Nat) (x : TarnRow) : (s.setRow c r x).mem = s.mem := rfl
@[simp] theorem setRow_tiers (s : State) (c r : Nat) (x : TarnRow) : (s.setRow c r x).tiers = s.tiers := rfl
@[simp] theorem setRow_routers (s : State) (c r : Nat) (x : TarnRow) : (s.setRow c r x).routers = s.routers := rfl
@[simp] theorem setRow_net (s : State) (c r : Nat) (x : TarnRow) : (s.setRow c r x).net = s.net := rfl
@[simp] theorem setRow_mgmt (s : State) (c r : Nat) (x : TarnRow) : (s.setRow c r x).mgmt = s.mgmt := rfl
@[simp] theorem setRow_power (s : State) (c r : Nat) (x : TarnRow) : (s.setRow c r x).power = s.power := rfl
@[simp] theorem setRow_rst (s : State) (c r : Nat) (x : TarnRow) : (s.setRow c r x).rst = s.rst := rfl

@[simp] theorem putRun_pending (s : State) (c : Nat) (r : Running) : (s.putRun c r).pending = s.pending := rfl
@[simp] theorem putRun_freeCtr (s : State) (c : Nat) (r : Running) : (s.putRun c r).freeCtr = s.freeCtr := rfl
@[simp] theorem putRun_regs (s : State) (c : Nat) (r : Running) : (s.putRun c r).regs = s.regs := rfl
@[simp] theorem putRun_latches (s : State) (c : Nat) (r : Running) : (s.putRun c r).latches = s.latches := rfl
@[simp] theorem putRun_out (s : State) (c : Nat) (r : Running) : (s.putRun c r).out = s.out := rfl
@[simp] theorem putRun_time (s : State) (c : Nat) (r : Running) : (s.putRun c r).time = s.time := rfl
@[simp] theorem putRun_queues (s : State) (c : Nat) (r : Running) : (s.putRun c r).queues = s.queues := rfl
@[simp] theorem putRun_parts (s : State) (c : Nat) (r : Running) : (s.putRun c r).parts = s.parts := rfl
@[simp] theorem putRun_host (s : State) (c : Nat) (r : Running) : (s.putRun c r).host = s.host := rfl
@[simp] theorem putRun_mem (s : State) (c : Nat) (r : Running) : (s.putRun c r).mem = s.mem := rfl
@[simp] theorem putRun_tiers (s : State) (c : Nat) (r : Running) : (s.putRun c r).tiers = s.tiers := rfl
@[simp] theorem putRun_routers (s : State) (c : Nat) (r : Running) : (s.putRun c r).routers = s.routers := rfl
@[simp] theorem putRun_net (s : State) (c : Nat) (r : Running) : (s.putRun c r).net = s.net := rfl
@[simp] theorem putRun_mgmt (s : State) (c : Nat) (r : Running) : (s.putRun c r).mgmt = s.mgmt := rfl
@[simp] theorem putRun_power (s : State) (c : Nat) (r : Running) : (s.putRun c r).power = s.power := rfl
@[simp] theorem putRun_rst (s : State) (c : Nat) (r : Running) : (s.putRun c r).rst = s.rst := rfl

@[simp] theorem modStack_pending (s : State) (n : Nat) (f : Stack → Stack) : (s.modStack n f).pending = s.pending := rfl
@[simp] theorem modStack_freeCtr (s : State) (n : Nat) (f : Stack → Stack) : (s.modStack n f).freeCtr = s.freeCtr := rfl
@[simp] theorem modStack_regs (s : State) (n : Nat) (f : Stack → Stack) : (s.modStack n f).regs = s.regs := rfl
@[simp] theorem modStack_latches (s : State) (n : Nat) (f : Stack → Stack) : (s.modStack n f).latches = s.latches := rfl
@[simp] theorem modStack_out (s : State) (n : Nat) (f : Stack → Stack) : (s.modStack n f).out = s.out := rfl
@[simp] theorem modStack_time (s : State) (n : Nat) (f : Stack → Stack) : (s.modStack n f).time = s.time := rfl
@[simp] theorem modStack_queues (s : State) (n : Nat) (f : Stack → Stack) : (s.modStack n f).queues = s.queues := rfl
@[simp] theorem modStack_parts (s : State) (n : Nat) (f : Stack → Stack) : (s.modStack n f).parts = s.parts := rfl
@[simp] theorem modStack_cores (s : State) (n : Nat) (f : Stack → Stack) : (s.modStack n f).cores = s.cores := rfl
@[simp] theorem modStack_host (s : State) (n : Nat) (f : Stack → Stack) : (s.modStack n f).host = s.host := rfl
@[simp] theorem modStack_tiers (s : State) (n : Nat) (f : Stack → Stack) : (s.modStack n f).tiers = s.tiers := rfl
@[simp] theorem modStack_routers (s : State) (n : Nat) (f : Stack → Stack) : (s.modStack n f).routers = s.routers := rfl
@[simp] theorem modStack_net (s : State) (n : Nat) (f : Stack → Stack) : (s.modStack n f).net = s.net := rfl
@[simp] theorem modStack_mgmt (s : State) (n : Nat) (f : Stack → Stack) : (s.modStack n f).mgmt = s.mgmt := rfl
@[simp] theorem modStack_power (s : State) (n : Nat) (f : Stack → Stack) : (s.modStack n f).power = s.power := rfl
@[simp] theorem modStack_rst (s : State) (n : Nat) (f : Stack → Stack) : (s.modStack n f).rst = s.rst := rfl

@[simp] theorem modPort_pending (s : State) (q : Nat) (f : HPort → HPort) : (s.modPort q f).pending = s.pending := rfl
@[simp] theorem modPort_freeCtr (s : State) (q : Nat) (f : HPort → HPort) : (s.modPort q f).freeCtr = s.freeCtr := rfl
@[simp] theorem modPort_regs (s : State) (q : Nat) (f : HPort → HPort) : (s.modPort q f).regs = s.regs := rfl
@[simp] theorem modPort_latches (s : State) (q : Nat) (f : HPort → HPort) : (s.modPort q f).latches = s.latches := rfl
@[simp] theorem modPort_out (s : State) (q : Nat) (f : HPort → HPort) : (s.modPort q f).out = s.out := rfl
@[simp] theorem modPort_time (s : State) (q : Nat) (f : HPort → HPort) : (s.modPort q f).time = s.time := rfl
@[simp] theorem modPort_queues (s : State) (q : Nat) (f : HPort → HPort) : (s.modPort q f).queues = s.queues := rfl
@[simp] theorem modPort_parts (s : State) (q : Nat) (f : HPort → HPort) : (s.modPort q f).parts = s.parts := rfl
@[simp] theorem modPort_cores (s : State) (q : Nat) (f : HPort → HPort) : (s.modPort q f).cores = s.cores := rfl
@[simp] theorem modPort_mem (s : State) (q : Nat) (f : HPort → HPort) : (s.modPort q f).mem = s.mem := rfl
@[simp] theorem modPort_tiers (s : State) (q : Nat) (f : HPort → HPort) : (s.modPort q f).tiers = s.tiers := rfl
@[simp] theorem modPort_routers (s : State) (q : Nat) (f : HPort → HPort) : (s.modPort q f).routers = s.routers := rfl
@[simp] theorem modPort_net (s : State) (q : Nat) (f : HPort → HPort) : (s.modPort q f).net = s.net := rfl
@[simp] theorem modPort_mgmt (s : State) (q : Nat) (f : HPort → HPort) : (s.modPort q f).mgmt = s.mgmt := rfl
@[simp] theorem modPort_power (s : State) (q : Nat) (f : HPort → HPort) : (s.modPort q f).power = s.power := rfl
@[simp] theorem modPort_rst (s : State) (q : Nat) (f : HPort → HPort) : (s.modPort q f).rst = s.rst := rfl

@[simp] theorem hostWrite_pending (s : State) (q a : Nat) (bs : List Byte) : (s.hostWrite q a bs).pending = s.pending := rfl
@[simp] theorem hostWrite_freeCtr (s : State) (q a : Nat) (bs : List Byte) : (s.hostWrite q a bs).freeCtr = s.freeCtr := rfl
@[simp] theorem hostWrite_regs (s : State) (q a : Nat) (bs : List Byte) : (s.hostWrite q a bs).regs = s.regs := rfl
@[simp] theorem hostWrite_latches (s : State) (q a : Nat) (bs : List Byte) : (s.hostWrite q a bs).latches = s.latches := rfl
@[simp] theorem hostWrite_out (s : State) (q a : Nat) (bs : List Byte) : (s.hostWrite q a bs).out = s.out := rfl
@[simp] theorem hostWrite_time (s : State) (q a : Nat) (bs : List Byte) : (s.hostWrite q a bs).time = s.time := rfl
@[simp] theorem hostWrite_queues (s : State) (q a : Nat) (bs : List Byte) : (s.hostWrite q a bs).queues = s.queues := rfl
@[simp] theorem hostWrite_parts (s : State) (q a : Nat) (bs : List Byte) : (s.hostWrite q a bs).parts = s.parts := rfl
@[simp] theorem hostWrite_cores (s : State) (q a : Nat) (bs : List Byte) : (s.hostWrite q a bs).cores = s.cores := rfl
@[simp] theorem hostWrite_mem (s : State) (q a : Nat) (bs : List Byte) : (s.hostWrite q a bs).mem = s.mem := rfl
@[simp] theorem hostWrite_tiers (s : State) (q a : Nat) (bs : List Byte) : (s.hostWrite q a bs).tiers = s.tiers := rfl
@[simp] theorem hostWrite_routers (s : State) (q a : Nat) (bs : List Byte) : (s.hostWrite q a bs).routers = s.routers := rfl
@[simp] theorem hostWrite_net (s : State) (q a : Nat) (bs : List Byte) : (s.hostWrite q a bs).net = s.net := rfl
@[simp] theorem hostWrite_mgmt (s : State) (q a : Nat) (bs : List Byte) : (s.hostWrite q a bs).mgmt = s.mgmt := rfl
@[simp] theorem hostWrite_power (s : State) (q a : Nat) (bs : List Byte) : (s.hostWrite q a bs).power = s.power := rfl
@[simp] theorem hostWrite_rst (s : State) (q a : Nat) (bs : List Byte) : (s.hostWrite q a bs).rst = s.rst := rfl

@[simp] theorem putRing_pending (s : State) (k : Nat) (r : Ring) : (s.putRing k r).pending = s.pending := rfl
@[simp] theorem putRing_freeCtr (s : State) (k : Nat) (r : Ring) : (s.putRing k r).freeCtr = s.freeCtr := rfl
@[simp] theorem putRing_regs (s : State) (k : Nat) (r : Ring) : (s.putRing k r).regs = s.regs := rfl
@[simp] theorem putRing_latches (s : State) (k : Nat) (r : Ring) : (s.putRing k r).latches = s.latches := rfl
@[simp] theorem putRing_out (s : State) (k : Nat) (r : Ring) : (s.putRing k r).out = s.out := rfl
@[simp] theorem putRing_time (s : State) (k : Nat) (r : Ring) : (s.putRing k r).time = s.time := rfl
@[simp] theorem putRing_queues (s : State) (k : Nat) (r : Ring) : (s.putRing k r).queues = s.queues := rfl
@[simp] theorem putRing_parts (s : State) (k : Nat) (r : Ring) : (s.putRing k r).parts = s.parts := rfl
@[simp] theorem putRing_cores (s : State) (k : Nat) (r : Ring) : (s.putRing k r).cores = s.cores := rfl
@[simp] theorem putRing_mem (s : State) (k : Nat) (r : Ring) : (s.putRing k r).mem = s.mem := rfl
@[simp] theorem putRing_tiers (s : State) (k : Nat) (r : Ring) : (s.putRing k r).tiers = s.tiers := rfl
@[simp] theorem putRing_routers (s : State) (k : Nat) (r : Ring) : (s.putRing k r).routers = s.routers := rfl
@[simp] theorem putRing_net (s : State) (k : Nat) (r : Ring) : (s.putRing k r).net = s.net := rfl
@[simp] theorem putRing_mgmt (s : State) (k : Nat) (r : Ring) : (s.putRing k r).mgmt = s.mgmt := rfl
@[simp] theorem putRing_power (s : State) (k : Nat) (r : Ring) : (s.putRing k r).power = s.power := rfl
@[simp] theorem putRing_rst (s : State) (k : Nat) (r : Ring) : (s.putRing k r).rst = s.rst := rfl

@[simp] theorem delRing_pending (s : State) (k : Nat) : (s.delRing k).pending = s.pending := rfl
@[simp] theorem delRing_freeCtr (s : State) (k : Nat) : (s.delRing k).freeCtr = s.freeCtr := rfl
@[simp] theorem delRing_regs (s : State) (k : Nat) : (s.delRing k).regs = s.regs := rfl
@[simp] theorem delRing_latches (s : State) (k : Nat) : (s.delRing k).latches = s.latches := rfl
@[simp] theorem delRing_out (s : State) (k : Nat) : (s.delRing k).out = s.out := rfl
@[simp] theorem delRing_time (s : State) (k : Nat) : (s.delRing k).time = s.time := rfl
@[simp] theorem delRing_queues (s : State) (k : Nat) : (s.delRing k).queues = s.queues := rfl
@[simp] theorem delRing_parts (s : State) (k : Nat) : (s.delRing k).parts = s.parts := rfl
@[simp] theorem delRing_cores (s : State) (k : Nat) : (s.delRing k).cores = s.cores := rfl
@[simp] theorem delRing_mem (s : State) (k : Nat) : (s.delRing k).mem = s.mem := rfl
@[simp] theorem delRing_tiers (s : State) (k : Nat) : (s.delRing k).tiers = s.tiers := rfl
@[simp] theorem delRing_routers (s : State) (k : Nat) : (s.delRing k).routers = s.routers := rfl
@[simp] theorem delRing_net (s : State) (k : Nat) : (s.delRing k).net = s.net := rfl
@[simp] theorem delRing_mgmt (s : State) (k : Nat) : (s.delRing k).mgmt = s.mgmt := rfl
@[simp] theorem delRing_power (s : State) (k : Nat) : (s.delRing k).power = s.power := rfl
@[simp] theorem delRing_rst (s : State) (k : Nat) : (s.delRing k).rst = s.rst := rfl

@[simp] theorem answered_pending (s : State) (a : HostAnswer) : (s.answered a).pending = s.pending := rfl
@[simp] theorem answered_freeCtr (s : State) (a : HostAnswer) : (s.answered a).freeCtr = s.freeCtr := rfl
@[simp] theorem answered_regs (s : State) (a : HostAnswer) : (s.answered a).regs = s.regs := rfl
@[simp] theorem answered_latches (s : State) (a : HostAnswer) : (s.answered a).latches = s.latches := rfl
@[simp] theorem answered_out (s : State) (a : HostAnswer) : (s.answered a).out = s.out := rfl
@[simp] theorem answered_time (s : State) (a : HostAnswer) : (s.answered a).time = s.time := rfl
@[simp] theorem answered_queues (s : State) (a : HostAnswer) : (s.answered a).queues = s.queues := rfl
@[simp] theorem answered_parts (s : State) (a : HostAnswer) : (s.answered a).parts = s.parts := rfl
@[simp] theorem answered_cores (s : State) (a : HostAnswer) : (s.answered a).cores = s.cores := rfl
@[simp] theorem answered_mem (s : State) (a : HostAnswer) : (s.answered a).mem = s.mem := rfl
@[simp] theorem answered_tiers (s : State) (a : HostAnswer) : (s.answered a).tiers = s.tiers := rfl
@[simp] theorem answered_routers (s : State) (a : HostAnswer) : (s.answered a).routers = s.routers := rfl
@[simp] theorem answered_net (s : State) (a : HostAnswer) : (s.answered a).net = s.net := rfl
@[simp] theorem answered_mgmt (s : State) (a : HostAnswer) : (s.answered a).mgmt = s.mgmt := rfl
@[simp] theorem answered_power (s : State) (a : HostAnswer) : (s.answered a).power = s.power := rfl
@[simp] theorem answered_rst (s : State) (a : HostAnswer) : (s.answered a).rst = s.rst := rfl

@[simp] theorem emit_pending (s : State) (r : Route) (x : Rec) : (s.emit r x).pending = s.pending := rfl
@[simp] theorem emit_freeCtr (s : State) (r : Route) (x : Rec) : (s.emit r x).freeCtr = s.freeCtr := rfl
@[simp] theorem emit_regs (s : State) (r : Route) (x : Rec) : (s.emit r x).regs = s.regs := rfl
@[simp] theorem emit_latches (s : State) (r : Route) (x : Rec) : (s.emit r x).latches = s.latches := rfl
@[simp] theorem emit_time (s : State) (r : Route) (x : Rec) : (s.emit r x).time = s.time := rfl
@[simp] theorem emit_queues (s : State) (r : Route) (x : Rec) : (s.emit r x).queues = s.queues := rfl
@[simp] theorem emit_parts (s : State) (r : Route) (x : Rec) : (s.emit r x).parts = s.parts := rfl
@[simp] theorem emit_cores (s : State) (r : Route) (x : Rec) : (s.emit r x).cores = s.cores := rfl
@[simp] theorem emit_host (s : State) (r : Route) (x : Rec) : (s.emit r x).host = s.host := rfl
@[simp] theorem emit_mem (s : State) (r : Route) (x : Rec) : (s.emit r x).mem = s.mem := rfl
@[simp] theorem emit_tiers (s : State) (r : Route) (x : Rec) : (s.emit r x).tiers = s.tiers := rfl
@[simp] theorem emit_routers (s : State) (r : Route) (x : Rec) : (s.emit r x).routers = s.routers := rfl
@[simp] theorem emit_net (s : State) (r : Route) (x : Rec) : (s.emit r x).net = s.net := rfl
@[simp] theorem emit_mgmt (s : State) (r : Route) (x : Rec) : (s.emit r x).mgmt = s.mgmt := rfl
@[simp] theorem emit_power (s : State) (r : Route) (x : Rec) : (s.emit r x).power = s.power := rfl
@[simp] theorem emit_rst (s : State) (r : Route) (x : Rec) : (s.emit r x).rst = s.rst := rfl

@[simp] theorem event_pending (s : State) (type p : Nat) (words : List Nat) : (s.event type p words).pending = s.pending := rfl
@[simp] theorem event_freeCtr (s : State) (type p : Nat) (words : List Nat) : (s.event type p words).freeCtr = s.freeCtr := rfl
@[simp] theorem event_regs (s : State) (type p : Nat) (words : List Nat) : (s.event type p words).regs = s.regs := rfl
@[simp] theorem event_latches (s : State) (type p : Nat) (words : List Nat) : (s.event type p words).latches = s.latches := rfl
@[simp] theorem event_time (s : State) (type p : Nat) (words : List Nat) : (s.event type p words).time = s.time := rfl
@[simp] theorem event_queues (s : State) (type p : Nat) (words : List Nat) : (s.event type p words).queues = s.queues := rfl
@[simp] theorem event_parts (s : State) (type p : Nat) (words : List Nat) : (s.event type p words).parts = s.parts := rfl
@[simp] theorem event_cores (s : State) (type p : Nat) (words : List Nat) : (s.event type p words).cores = s.cores := rfl
@[simp] theorem event_host (s : State) (type p : Nat) (words : List Nat) : (s.event type p words).host = s.host := rfl
@[simp] theorem event_mem (s : State) (type p : Nat) (words : List Nat) : (s.event type p words).mem = s.mem := rfl
@[simp] theorem event_tiers (s : State) (type p : Nat) (words : List Nat) : (s.event type p words).tiers = s.tiers := rfl
@[simp] theorem event_routers (s : State) (type p : Nat) (words : List Nat) : (s.event type p words).routers = s.routers := rfl
@[simp] theorem event_net (s : State) (type p : Nat) (words : List Nat) : (s.event type p words).net = s.net := rfl
@[simp] theorem event_mgmt (s : State) (type p : Nat) (words : List Nat) : (s.event type p words).mgmt = s.mgmt := rfl
@[simp] theorem event_power (s : State) (type p : Nat) (words : List Nat) : (s.event type p words).power = s.power := rfl
@[simp] theorem event_rst (s : State) (type p : Nat) (words : List Nat) : (s.event type p words).rst = s.rst := rfl

@[simp] theorem eventAt_pending (s : State) (q type part : Nat) (words : List Nat) : (s.eventAt q type part words).pending = s.pending := rfl
@[simp] theorem eventAt_freeCtr (s : State) (q type part : Nat) (words : List Nat) : (s.eventAt q type part words).freeCtr = s.freeCtr := rfl
@[simp] theorem eventAt_regs (s : State) (q type part : Nat) (words : List Nat) : (s.eventAt q type part words).regs = s.regs := rfl
@[simp] theorem eventAt_latches (s : State) (q type part : Nat) (words : List Nat) : (s.eventAt q type part words).latches = s.latches := rfl
@[simp] theorem eventAt_time (s : State) (q type part : Nat) (words : List Nat) : (s.eventAt q type part words).time = s.time := rfl
@[simp] theorem eventAt_queues (s : State) (q type part : Nat) (words : List Nat) : (s.eventAt q type part words).queues = s.queues := rfl
@[simp] theorem eventAt_parts (s : State) (q type part : Nat) (words : List Nat) : (s.eventAt q type part words).parts = s.parts := rfl
@[simp] theorem eventAt_cores (s : State) (q type part : Nat) (words : List Nat) : (s.eventAt q type part words).cores = s.cores := rfl
@[simp] theorem eventAt_host (s : State) (q type part : Nat) (words : List Nat) : (s.eventAt q type part words).host = s.host := rfl
@[simp] theorem eventAt_mem (s : State) (q type part : Nat) (words : List Nat) : (s.eventAt q type part words).mem = s.mem := rfl
@[simp] theorem eventAt_tiers (s : State) (q type part : Nat) (words : List Nat) : (s.eventAt q type part words).tiers = s.tiers := rfl
@[simp] theorem eventAt_routers (s : State) (q type part : Nat) (words : List Nat) : (s.eventAt q type part words).routers = s.routers := rfl
@[simp] theorem eventAt_net (s : State) (q type part : Nat) (words : List Nat) : (s.eventAt q type part words).net = s.net := rfl
@[simp] theorem eventAt_mgmt (s : State) (q type part : Nat) (words : List Nat) : (s.eventAt q type part words).mgmt = s.mgmt := rfl
@[simp] theorem eventAt_power (s : State) (q type part : Nat) (words : List Nat) : (s.eventAt q type part words).power = s.power := rfl
@[simp] theorem eventAt_rst (s : State) (q type part : Nat) (words : List Nat) : (s.eventAt q type part words).rst = s.rst := rfl

@[simp] theorem eventAll_pending (s : State) (type : Nat) (words : List Nat) : (s.eventAll type words).pending = s.pending := rfl
@[simp] theorem eventAll_freeCtr (s : State) (type : Nat) (words : List Nat) : (s.eventAll type words).freeCtr = s.freeCtr := rfl
@[simp] theorem eventAll_regs (s : State) (type : Nat) (words : List Nat) : (s.eventAll type words).regs = s.regs := rfl
@[simp] theorem eventAll_latches (s : State) (type : Nat) (words : List Nat) : (s.eventAll type words).latches = s.latches := rfl
@[simp] theorem eventAll_time (s : State) (type : Nat) (words : List Nat) : (s.eventAll type words).time = s.time := rfl
@[simp] theorem eventAll_queues (s : State) (type : Nat) (words : List Nat) : (s.eventAll type words).queues = s.queues := rfl
@[simp] theorem eventAll_parts (s : State) (type : Nat) (words : List Nat) : (s.eventAll type words).parts = s.parts := rfl
@[simp] theorem eventAll_cores (s : State) (type : Nat) (words : List Nat) : (s.eventAll type words).cores = s.cores := rfl
@[simp] theorem eventAll_host (s : State) (type : Nat) (words : List Nat) : (s.eventAll type words).host = s.host := rfl
@[simp] theorem eventAll_mem (s : State) (type : Nat) (words : List Nat) : (s.eventAll type words).mem = s.mem := rfl
@[simp] theorem eventAll_tiers (s : State) (type : Nat) (words : List Nat) : (s.eventAll type words).tiers = s.tiers := rfl
@[simp] theorem eventAll_routers (s : State) (type : Nat) (words : List Nat) : (s.eventAll type words).routers = s.routers := rfl
@[simp] theorem eventAll_net (s : State) (type : Nat) (words : List Nat) : (s.eventAll type words).net = s.net := rfl
@[simp] theorem eventAll_mgmt (s : State) (type : Nat) (words : List Nat) : (s.eventAll type words).mgmt = s.mgmt := rfl
@[simp] theorem eventAll_power (s : State) (type : Nat) (words : List Nat) : (s.eventAll type words).power = s.power := rfl
@[simp] theorem eventAll_rst (s : State) (type : Nat) (words : List Nat) : (s.eventAll type words).rst = s.rst := rfl

@[simp] theorem clampGrain_pending (s : State) (p c gid reason field requested applied : Nat) : (s.clampGrain p c gid reason field requested applied).pending = s.pending := rfl
@[simp] theorem clampGrain_freeCtr (s : State) (p c gid reason field requested applied : Nat) : (s.clampGrain p c gid reason field requested applied).freeCtr = s.freeCtr := rfl
@[simp] theorem clampGrain_regs (s : State) (p c gid reason field requested applied : Nat) : (s.clampGrain p c gid reason field requested applied).regs = s.regs := rfl
@[simp] theorem clampGrain_latches (s : State) (p c gid reason field requested applied : Nat) : (s.clampGrain p c gid reason field requested applied).latches = s.latches := rfl
@[simp] theorem clampGrain_time (s : State) (p c gid reason field requested applied : Nat) : (s.clampGrain p c gid reason field requested applied).time = s.time := rfl
@[simp] theorem clampGrain_queues (s : State) (p c gid reason field requested applied : Nat) : (s.clampGrain p c gid reason field requested applied).queues = s.queues := rfl
@[simp] theorem clampGrain_parts (s : State) (p c gid reason field requested applied : Nat) : (s.clampGrain p c gid reason field requested applied).parts = s.parts := rfl
@[simp] theorem clampGrain_cores (s : State) (p c gid reason field requested applied : Nat) : (s.clampGrain p c gid reason field requested applied).cores = s.cores := rfl
@[simp] theorem clampGrain_host (s : State) (p c gid reason field requested applied : Nat) : (s.clampGrain p c gid reason field requested applied).host = s.host := rfl
@[simp] theorem clampGrain_mem (s : State) (p c gid reason field requested applied : Nat) : (s.clampGrain p c gid reason field requested applied).mem = s.mem := rfl
@[simp] theorem clampGrain_tiers (s : State) (p c gid reason field requested applied : Nat) : (s.clampGrain p c gid reason field requested applied).tiers = s.tiers := rfl
@[simp] theorem clampGrain_routers (s : State) (p c gid reason field requested applied : Nat) : (s.clampGrain p c gid reason field requested applied).routers = s.routers := rfl
@[simp] theorem clampGrain_net (s : State) (p c gid reason field requested applied : Nat) : (s.clampGrain p c gid reason field requested applied).net = s.net := rfl
@[simp] theorem clampGrain_mgmt (s : State) (p c gid reason field requested applied : Nat) : (s.clampGrain p c gid reason field requested applied).mgmt = s.mgmt := rfl
@[simp] theorem clampGrain_power (s : State) (p c gid reason field requested applied : Nat) : (s.clampGrain p c gid reason field requested applied).power = s.power := rfl
@[simp] theorem clampGrain_rst (s : State) (p c gid reason field requested applied : Nat) : (s.clampGrain p c gid reason field requested applied).rst = s.rst := rfl

@[simp] theorem modNport_pending (s : State) (n : Nat) (f : NPort → NPort) : (s.modNport n f).pending = s.pending := rfl
@[simp] theorem modNport_freeCtr (s : State) (n : Nat) (f : NPort → NPort) : (s.modNport n f).freeCtr = s.freeCtr := rfl
@[simp] theorem modNport_regs (s : State) (n : Nat) (f : NPort → NPort) : (s.modNport n f).regs = s.regs := rfl
@[simp] theorem modNport_latches (s : State) (n : Nat) (f : NPort → NPort) : (s.modNport n f).latches = s.latches := rfl
@[simp] theorem modNport_out (s : State) (n : Nat) (f : NPort → NPort) : (s.modNport n f).out = s.out := rfl
@[simp] theorem modNport_time (s : State) (n : Nat) (f : NPort → NPort) : (s.modNport n f).time = s.time := rfl
@[simp] theorem modNport_queues (s : State) (n : Nat) (f : NPort → NPort) : (s.modNport n f).queues = s.queues := rfl
@[simp] theorem modNport_parts (s : State) (n : Nat) (f : NPort → NPort) : (s.modNport n f).parts = s.parts := rfl
@[simp] theorem modNport_cores (s : State) (n : Nat) (f : NPort → NPort) : (s.modNport n f).cores = s.cores := rfl
@[simp] theorem modNport_host (s : State) (n : Nat) (f : NPort → NPort) : (s.modNport n f).host = s.host := rfl
@[simp] theorem modNport_mem (s : State) (n : Nat) (f : NPort → NPort) : (s.modNport n f).mem = s.mem := rfl
@[simp] theorem modNport_tiers (s : State) (n : Nat) (f : NPort → NPort) : (s.modNport n f).tiers = s.tiers := rfl
@[simp] theorem modNport_routers (s : State) (n : Nat) (f : NPort → NPort) : (s.modNport n f).routers = s.routers := rfl
@[simp] theorem modNport_mgmt (s : State) (n : Nat) (f : NPort → NPort) : (s.modNport n f).mgmt = s.mgmt := rfl
@[simp] theorem modNport_power (s : State) (n : Nat) (f : NPort → NPort) : (s.modNport n f).power = s.power := rfl
@[simp] theorem modNport_rst (s : State) (n : Nat) (f : NPort → NPort) : (s.modNport n f).rst = s.rst := rfl

@[simp] theorem setChan_pending (s : State) (cid : Nat) (c : Chan) : (s.setChan cid c).pending = s.pending := rfl
@[simp] theorem setChan_freeCtr (s : State) (cid : Nat) (c : Chan) : (s.setChan cid c).freeCtr = s.freeCtr := rfl
@[simp] theorem setChan_regs (s : State) (cid : Nat) (c : Chan) : (s.setChan cid c).regs = s.regs := rfl
@[simp] theorem setChan_latches (s : State) (cid : Nat) (c : Chan) : (s.setChan cid c).latches = s.latches := rfl
@[simp] theorem setChan_out (s : State) (cid : Nat) (c : Chan) : (s.setChan cid c).out = s.out := rfl
@[simp] theorem setChan_time (s : State) (cid : Nat) (c : Chan) : (s.setChan cid c).time = s.time := rfl
@[simp] theorem setChan_queues (s : State) (cid : Nat) (c : Chan) : (s.setChan cid c).queues = s.queues := rfl
@[simp] theorem setChan_parts (s : State) (cid : Nat) (c : Chan) : (s.setChan cid c).parts = s.parts := rfl
@[simp] theorem setChan_cores (s : State) (cid : Nat) (c : Chan) : (s.setChan cid c).cores = s.cores := rfl
@[simp] theorem setChan_host (s : State) (cid : Nat) (c : Chan) : (s.setChan cid c).host = s.host := rfl
@[simp] theorem setChan_mem (s : State) (cid : Nat) (c : Chan) : (s.setChan cid c).mem = s.mem := rfl
@[simp] theorem setChan_tiers (s : State) (cid : Nat) (c : Chan) : (s.setChan cid c).tiers = s.tiers := rfl
@[simp] theorem setChan_routers (s : State) (cid : Nat) (c : Chan) : (s.setChan cid c).routers = s.routers := rfl
@[simp] theorem setChan_mgmt (s : State) (cid : Nat) (c : Chan) : (s.setChan cid c).mgmt = s.mgmt := rfl
@[simp] theorem setChan_power (s : State) (cid : Nat) (c : Chan) : (s.setChan cid c).power = s.power := rfl
@[simp] theorem setChan_rst (s : State) (cid : Nat) (c : Chan) : (s.setChan cid c).rst = s.rst := rfl

@[simp] theorem modChan_pending (s : State) (cid : Nat) (f : Chan → Chan) : (s.modChan cid f).pending = s.pending := rfl
@[simp] theorem modChan_freeCtr (s : State) (cid : Nat) (f : Chan → Chan) : (s.modChan cid f).freeCtr = s.freeCtr := rfl
@[simp] theorem modChan_regs (s : State) (cid : Nat) (f : Chan → Chan) : (s.modChan cid f).regs = s.regs := rfl
@[simp] theorem modChan_latches (s : State) (cid : Nat) (f : Chan → Chan) : (s.modChan cid f).latches = s.latches := rfl
@[simp] theorem modChan_out (s : State) (cid : Nat) (f : Chan → Chan) : (s.modChan cid f).out = s.out := rfl
@[simp] theorem modChan_time (s : State) (cid : Nat) (f : Chan → Chan) : (s.modChan cid f).time = s.time := rfl
@[simp] theorem modChan_queues (s : State) (cid : Nat) (f : Chan → Chan) : (s.modChan cid f).queues = s.queues := rfl
@[simp] theorem modChan_parts (s : State) (cid : Nat) (f : Chan → Chan) : (s.modChan cid f).parts = s.parts := rfl
@[simp] theorem modChan_cores (s : State) (cid : Nat) (f : Chan → Chan) : (s.modChan cid f).cores = s.cores := rfl
@[simp] theorem modChan_host (s : State) (cid : Nat) (f : Chan → Chan) : (s.modChan cid f).host = s.host := rfl
@[simp] theorem modChan_mem (s : State) (cid : Nat) (f : Chan → Chan) : (s.modChan cid f).mem = s.mem := rfl
@[simp] theorem modChan_tiers (s : State) (cid : Nat) (f : Chan → Chan) : (s.modChan cid f).tiers = s.tiers := rfl
@[simp] theorem modChan_routers (s : State) (cid : Nat) (f : Chan → Chan) : (s.modChan cid f).routers = s.routers := rfl
@[simp] theorem modChan_mgmt (s : State) (cid : Nat) (f : Chan → Chan) : (s.modChan cid f).mgmt = s.mgmt := rfl
@[simp] theorem modChan_power (s : State) (cid : Nat) (f : Chan → Chan) : (s.modChan cid f).power = s.power := rfl
@[simp] theorem modChan_rst (s : State) (cid : Nat) (f : Chan → Chan) : (s.modChan cid f).rst = s.rst := rfl

@[simp] theorem modMgmt_pending (s : State) (f : MgmtState → MgmtState) : (s.modMgmt f).pending = s.pending := rfl
@[simp] theorem modMgmt_freeCtr (s : State) (f : MgmtState → MgmtState) : (s.modMgmt f).freeCtr = s.freeCtr := rfl
@[simp] theorem modMgmt_regs (s : State) (f : MgmtState → MgmtState) : (s.modMgmt f).regs = s.regs := rfl
@[simp] theorem modMgmt_latches (s : State) (f : MgmtState → MgmtState) : (s.modMgmt f).latches = s.latches := rfl
@[simp] theorem modMgmt_out (s : State) (f : MgmtState → MgmtState) : (s.modMgmt f).out = s.out := rfl
@[simp] theorem modMgmt_time (s : State) (f : MgmtState → MgmtState) : (s.modMgmt f).time = s.time := rfl
@[simp] theorem modMgmt_queues (s : State) (f : MgmtState → MgmtState) : (s.modMgmt f).queues = s.queues := rfl
@[simp] theorem modMgmt_parts (s : State) (f : MgmtState → MgmtState) : (s.modMgmt f).parts = s.parts := rfl
@[simp] theorem modMgmt_cores (s : State) (f : MgmtState → MgmtState) : (s.modMgmt f).cores = s.cores := rfl
@[simp] theorem modMgmt_host (s : State) (f : MgmtState → MgmtState) : (s.modMgmt f).host = s.host := rfl
@[simp] theorem modMgmt_mem (s : State) (f : MgmtState → MgmtState) : (s.modMgmt f).mem = s.mem := rfl
@[simp] theorem modMgmt_tiers (s : State) (f : MgmtState → MgmtState) : (s.modMgmt f).tiers = s.tiers := rfl
@[simp] theorem modMgmt_routers (s : State) (f : MgmtState → MgmtState) : (s.modMgmt f).routers = s.routers := rfl
@[simp] theorem modMgmt_net (s : State) (f : MgmtState → MgmtState) : (s.modMgmt f).net = s.net := rfl
@[simp] theorem modMgmt_power (s : State) (f : MgmtState → MgmtState) : (s.modMgmt f).power = s.power := rfl
@[simp] theorem modMgmt_rst (s : State) (f : MgmtState → MgmtState) : (s.modMgmt f).rst = s.rst := rfl

@[simp] theorem send_pending (s : State) (o : MgmtOut) : (s.send o).pending = s.pending := rfl
@[simp] theorem send_freeCtr (s : State) (o : MgmtOut) : (s.send o).freeCtr = s.freeCtr := rfl
@[simp] theorem send_regs (s : State) (o : MgmtOut) : (s.send o).regs = s.regs := rfl
@[simp] theorem send_latches (s : State) (o : MgmtOut) : (s.send o).latches = s.latches := rfl
@[simp] theorem send_out (s : State) (o : MgmtOut) : (s.send o).out = s.out := rfl
@[simp] theorem send_time (s : State) (o : MgmtOut) : (s.send o).time = s.time := rfl
@[simp] theorem send_queues (s : State) (o : MgmtOut) : (s.send o).queues = s.queues := rfl
@[simp] theorem send_parts (s : State) (o : MgmtOut) : (s.send o).parts = s.parts := rfl
@[simp] theorem send_cores (s : State) (o : MgmtOut) : (s.send o).cores = s.cores := rfl
@[simp] theorem send_host (s : State) (o : MgmtOut) : (s.send o).host = s.host := rfl
@[simp] theorem send_mem (s : State) (o : MgmtOut) : (s.send o).mem = s.mem := rfl
@[simp] theorem send_tiers (s : State) (o : MgmtOut) : (s.send o).tiers = s.tiers := rfl
@[simp] theorem send_routers (s : State) (o : MgmtOut) : (s.send o).routers = s.routers := rfl
@[simp] theorem send_net (s : State) (o : MgmtOut) : (s.send o).net = s.net := rfl
@[simp] theorem send_power (s : State) (o : MgmtOut) : (s.send o).power = s.power := rfl
@[simp] theorem send_rst (s : State) (o : MgmtOut) : (s.send o).rst = s.rst := rfl

@[simp] theorem modRst_pending (s : State) (f : ResetState → ResetState) : (s.modRst f).pending = s.pending := rfl
@[simp] theorem modRst_freeCtr (s : State) (f : ResetState → ResetState) : (s.modRst f).freeCtr = s.freeCtr := rfl
@[simp] theorem modRst_regs (s : State) (f : ResetState → ResetState) : (s.modRst f).regs = s.regs := rfl
@[simp] theorem modRst_latches (s : State) (f : ResetState → ResetState) : (s.modRst f).latches = s.latches := rfl
@[simp] theorem modRst_out (s : State) (f : ResetState → ResetState) : (s.modRst f).out = s.out := rfl
@[simp] theorem modRst_time (s : State) (f : ResetState → ResetState) : (s.modRst f).time = s.time := rfl
@[simp] theorem modRst_queues (s : State) (f : ResetState → ResetState) : (s.modRst f).queues = s.queues := rfl
@[simp] theorem modRst_parts (s : State) (f : ResetState → ResetState) : (s.modRst f).parts = s.parts := rfl
@[simp] theorem modRst_cores (s : State) (f : ResetState → ResetState) : (s.modRst f).cores = s.cores := rfl
@[simp] theorem modRst_host (s : State) (f : ResetState → ResetState) : (s.modRst f).host = s.host := rfl
@[simp] theorem modRst_mem (s : State) (f : ResetState → ResetState) : (s.modRst f).mem = s.mem := rfl
@[simp] theorem modRst_tiers (s : State) (f : ResetState → ResetState) : (s.modRst f).tiers = s.tiers := rfl
@[simp] theorem modRst_routers (s : State) (f : ResetState → ResetState) : (s.modRst f).routers = s.routers := rfl
@[simp] theorem modRst_net (s : State) (f : ResetState → ResetState) : (s.modRst f).net = s.net := rfl
@[simp] theorem modRst_mgmt (s : State) (f : ResetState → ResetState) : (s.modRst f).mgmt = s.mgmt := rfl
@[simp] theorem modRst_power (s : State) (f : ResetState → ResetState) : (s.modRst f).power = s.power := rfl

@[simp] theorem moved_pending (s : State) : (s.moved).pending = s.pending := rfl
@[simp] theorem moved_freeCtr (s : State) : (s.moved).freeCtr = s.freeCtr := rfl
@[simp] theorem moved_regs (s : State) : (s.moved).regs = s.regs := rfl
@[simp] theorem moved_latches (s : State) : (s.moved).latches = s.latches := rfl
@[simp] theorem moved_out (s : State) : (s.moved).out = s.out := rfl
@[simp] theorem moved_time (s : State) : (s.moved).time = s.time := rfl
@[simp] theorem moved_queues (s : State) : (s.moved).queues = s.queues := rfl
@[simp] theorem moved_parts (s : State) : (s.moved).parts = s.parts := rfl
@[simp] theorem moved_cores (s : State) : (s.moved).cores = s.cores := rfl
@[simp] theorem moved_host (s : State) : (s.moved).host = s.host := rfl
@[simp] theorem moved_mem (s : State) : (s.moved).mem = s.mem := rfl
@[simp] theorem moved_tiers (s : State) : (s.moved).tiers = s.tiers := rfl
@[simp] theorem moved_routers (s : State) : (s.moved).routers = s.routers := rfl
@[simp] theorem moved_net (s : State) : (s.moved).net = s.net := rfl
@[simp] theorem moved_mgmt (s : State) : (s.moved).mgmt = s.mgmt := rfl
@[simp] theorem moved_power (s : State) : (s.moved).power = s.power := rfl

@[simp] theorem setTiers_pending (s : State) (f : TierState → TierState) : (s.setTiers f).pending = s.pending := rfl
@[simp] theorem setTiers_freeCtr (s : State) (f : TierState → TierState) : (s.setTiers f).freeCtr = s.freeCtr := rfl
@[simp] theorem setTiers_regs (s : State) (f : TierState → TierState) : (s.setTiers f).regs = s.regs := rfl
@[simp] theorem setTiers_latches (s : State) (f : TierState → TierState) : (s.setTiers f).latches = s.latches := rfl
@[simp] theorem setTiers_out (s : State) (f : TierState → TierState) : (s.setTiers f).out = s.out := rfl
@[simp] theorem setTiers_time (s : State) (f : TierState → TierState) : (s.setTiers f).time = s.time := rfl
@[simp] theorem setTiers_queues (s : State) (f : TierState → TierState) : (s.setTiers f).queues = s.queues := rfl
@[simp] theorem setTiers_parts (s : State) (f : TierState → TierState) : (s.setTiers f).parts = s.parts := rfl
@[simp] theorem setTiers_cores (s : State) (f : TierState → TierState) : (s.setTiers f).cores = s.cores := rfl
@[simp] theorem setTiers_host (s : State) (f : TierState → TierState) : (s.setTiers f).host = s.host := rfl
@[simp] theorem setTiers_mem (s : State) (f : TierState → TierState) : (s.setTiers f).mem = s.mem := rfl
@[simp] theorem setTiers_routers (s : State) (f : TierState → TierState) : (s.setTiers f).routers = s.routers := rfl
@[simp] theorem setTiers_net (s : State) (f : TierState → TierState) : (s.setTiers f).net = s.net := rfl
@[simp] theorem setTiers_mgmt (s : State) (f : TierState → TierState) : (s.setTiers f).mgmt = s.mgmt := rfl
@[simp] theorem setTiers_power (s : State) (f : TierState → TierState) : (s.setTiers f).power = s.power := rfl
@[simp] theorem setTiers_rst (s : State) (f : TierState → TierState) : (s.setTiers f).rst = s.rst := rfl

@[simp] theorem part_wr (s : State) (f : Fld) (v b i : Nat) (ky : Nat) : (s.wr f v b i).part ky = s.part ky := rfl
@[simp] theorem core_wr (s : State) (f : Fld) (v b i : Nat) (ky : Nat) : (s.wr f v b i).core ky = s.core ky := rfl
@[simp] theorem stack_wr (s : State) (f : Fld) (v b i : Nat) (ky : Nat) : (s.wr f v b i).stack ky = s.stack ky := rfl
@[simp] theorem port_wr (s : State) (f : Fld) (v b i : Nat) (ky : Nat) : (s.wr f v b i).port ky = s.port ky := rfl
@[simp] theorem ring?_wr (s : State) (f : Fld) (v b i : Nat) (ky : Nat) : (s.wr f v b i).ring? ky = s.ring? ky := rfl
@[simp] theorem nport_wr (s : State) (f : Fld) (v b i : Nat) (ky : Nat) : (s.wr f v b i).nport ky = s.nport ky := rfl

@[simp] theorem part_inc (s : State) (f : Fld) (n b i : Nat) (ky : Nat) : (s.inc f n b i).part ky = s.part ky := rfl
@[simp] theorem core_inc (s : State) (f : Fld) (n b i : Nat) (ky : Nat) : (s.inc f n b i).core ky = s.core ky := rfl
@[simp] theorem stack_inc (s : State) (f : Fld) (n b i : Nat) (ky : Nat) : (s.inc f n b i).stack ky = s.stack ky := rfl
@[simp] theorem port_inc (s : State) (f : Fld) (n b i : Nat) (ky : Nat) : (s.inc f n b i).port ky = s.port ky := rfl
@[simp] theorem ring?_inc (s : State) (f : Fld) (n b i : Nat) (ky : Nat) : (s.inc f n b i).ring? ky = s.ring? ky := rfl
@[simp] theorem nport_inc (s : State) (f : Fld) (n b i : Nat) (ky : Nat) : (s.inc f n b i).nport ky = s.nport ky := rfl

@[simp] theorem part_add (s : State) (f : Fld) (n b i : Nat) (ky : Nat) : (s.add f n b i).part ky = s.part ky := rfl
@[simp] theorem core_add (s : State) (f : Fld) (n b i : Nat) (ky : Nat) : (s.add f n b i).core ky = s.core ky := rfl
@[simp] theorem stack_add (s : State) (f : Fld) (n b i : Nat) (ky : Nat) : (s.add f n b i).stack ky = s.stack ky := rfl
@[simp] theorem port_add (s : State) (f : Fld) (n b i : Nat) (ky : Nat) : (s.add f n b i).port ky = s.port ky := rfl
@[simp] theorem ring?_add (s : State) (f : Fld) (n b i : Nat) (ky : Nat) : (s.add f n b i).ring? ky = s.ring? ky := rfl
@[simp] theorem nport_add (s : State) (f : Fld) (n b i : Nat) (ky : Nat) : (s.add f n b i).nport ky = s.nport ky := rfl

@[simp] theorem core_modPart (s : State) (p : Nat) (f : PartState → PartState) (ky : Nat) : (s.modPart p f).core ky = s.core ky := rfl
@[simp] theorem stack_modPart (s : State) (p : Nat) (f : PartState → PartState) (ky : Nat) : (s.modPart p f).stack ky = s.stack ky := rfl
@[simp] theorem port_modPart (s : State) (p : Nat) (f : PartState → PartState) (ky : Nat) : (s.modPart p f).port ky = s.port ky := rfl
@[simp] theorem ring?_modPart (s : State) (p : Nat) (f : PartState → PartState) (ky : Nat) : (s.modPart p f).ring? ky = s.ring? ky := rfl
@[simp] theorem nport_modPart (s : State) (p : Nat) (f : PartState → PartState) (ky : Nat) : (s.modPart p f).nport ky = s.nport ky := rfl
@[simp] theorem rd_modPart (s : State) (p : Nat) (f : PartState → PartState) (fd : Fld) (bk ix : Nat) : (s.modPart p f).rd fd bk ix = s.rd fd bk ix := rfl
@[simp] theorem flag_modPart (s : State) (p : Nat) (f : PartState → PartState) (fd : Fld) (bk ix : Nat) : (s.modPart p f).flag fd bk ix = s.flag fd bk ix := rfl
@[simp] theorem tick_modPart (s : State) (p : Nat) (f : PartState → PartState) : (s.modPart p f).tick = s.tick := rfl

@[simp] theorem core_modCad (s : State) (p : Nat) (f : PCad → PCad) (ky : Nat) : (s.modCad p f).core ky = s.core ky := rfl
@[simp] theorem stack_modCad (s : State) (p : Nat) (f : PCad → PCad) (ky : Nat) : (s.modCad p f).stack ky = s.stack ky := rfl
@[simp] theorem port_modCad (s : State) (p : Nat) (f : PCad → PCad) (ky : Nat) : (s.modCad p f).port ky = s.port ky := rfl
@[simp] theorem ring?_modCad (s : State) (p : Nat) (f : PCad → PCad) (ky : Nat) : (s.modCad p f).ring? ky = s.ring? ky := rfl
@[simp] theorem nport_modCad (s : State) (p : Nat) (f : PCad → PCad) (ky : Nat) : (s.modCad p f).nport ky = s.nport ky := rfl
@[simp] theorem rd_modCad (s : State) (p : Nat) (f : PCad → PCad) (fd : Fld) (bk ix : Nat) : (s.modCad p f).rd fd bk ix = s.rd fd bk ix := rfl
@[simp] theorem flag_modCad (s : State) (p : Nat) (f : PCad → PCad) (fd : Fld) (bk ix : Nat) : (s.modCad p f).flag fd bk ix = s.flag fd bk ix := rfl
@[simp] theorem tick_modCad (s : State) (p : Nat) (f : PCad → PCad) : (s.modCad p f).tick = s.tick := rfl

@[simp] theorem core_modTier (s : State) (p : Nat) (f : PTier → PTier) (ky : Nat) : (s.modTier p f).core ky = s.core ky := rfl
@[simp] theorem stack_modTier (s : State) (p : Nat) (f : PTier → PTier) (ky : Nat) : (s.modTier p f).stack ky = s.stack ky := rfl
@[simp] theorem port_modTier (s : State) (p : Nat) (f : PTier → PTier) (ky : Nat) : (s.modTier p f).port ky = s.port ky := rfl
@[simp] theorem ring?_modTier (s : State) (p : Nat) (f : PTier → PTier) (ky : Nat) : (s.modTier p f).ring? ky = s.ring? ky := rfl
@[simp] theorem nport_modTier (s : State) (p : Nat) (f : PTier → PTier) (ky : Nat) : (s.modTier p f).nport ky = s.nport ky := rfl
@[simp] theorem rd_modTier (s : State) (p : Nat) (f : PTier → PTier) (fd : Fld) (bk ix : Nat) : (s.modTier p f).rd fd bk ix = s.rd fd bk ix := rfl
@[simp] theorem flag_modTier (s : State) (p : Nat) (f : PTier → PTier) (fd : Fld) (bk ix : Nat) : (s.modTier p f).flag fd bk ix = s.flag fd bk ix := rfl
@[simp] theorem tick_modTier (s : State) (p : Nat) (f : PTier → PTier) : (s.modTier p f).tick = s.tick := rfl

@[simp] theorem core_modColl (s : State) (p : Nat) (f : PColl → PColl) (ky : Nat) : (s.modColl p f).core ky = s.core ky := rfl
@[simp] theorem stack_modColl (s : State) (p : Nat) (f : PColl → PColl) (ky : Nat) : (s.modColl p f).stack ky = s.stack ky := rfl
@[simp] theorem port_modColl (s : State) (p : Nat) (f : PColl → PColl) (ky : Nat) : (s.modColl p f).port ky = s.port ky := rfl
@[simp] theorem ring?_modColl (s : State) (p : Nat) (f : PColl → PColl) (ky : Nat) : (s.modColl p f).ring? ky = s.ring? ky := rfl
@[simp] theorem nport_modColl (s : State) (p : Nat) (f : PColl → PColl) (ky : Nat) : (s.modColl p f).nport ky = s.nport ky := rfl
@[simp] theorem rd_modColl (s : State) (p : Nat) (f : PColl → PColl) (fd : Fld) (bk ix : Nat) : (s.modColl p f).rd fd bk ix = s.rd fd bk ix := rfl
@[simp] theorem flag_modColl (s : State) (p : Nat) (f : PColl → PColl) (fd : Fld) (bk ix : Nat) : (s.modColl p f).flag fd bk ix = s.flag fd bk ix := rfl
@[simp] theorem tick_modColl (s : State) (p : Nat) (f : PColl → PColl) : (s.modColl p f).tick = s.tick := rfl

@[simp] theorem core_modCont (s : State) (p : Nat) (f : PCont → PCont) (ky : Nat) : (s.modCont p f).core ky = s.core ky := rfl
@[simp] theorem stack_modCont (s : State) (p : Nat) (f : PCont → PCont) (ky : Nat) : (s.modCont p f).stack ky = s.stack ky := rfl
@[simp] theorem port_modCont (s : State) (p : Nat) (f : PCont → PCont) (ky : Nat) : (s.modCont p f).port ky = s.port ky := rfl
@[simp] theorem ring?_modCont (s : State) (p : Nat) (f : PCont → PCont) (ky : Nat) : (s.modCont p f).ring? ky = s.ring? ky := rfl
@[simp] theorem nport_modCont (s : State) (p : Nat) (f : PCont → PCont) (ky : Nat) : (s.modCont p f).nport ky = s.nport ky := rfl
@[simp] theorem rd_modCont (s : State) (p : Nat) (f : PCont → PCont) (fd : Fld) (bk ix : Nat) : (s.modCont p f).rd fd bk ix = s.rd fd bk ix := rfl
@[simp] theorem flag_modCont (s : State) (p : Nat) (f : PCont → PCont) (fd : Fld) (bk ix : Nat) : (s.modCont p f).flag fd bk ix = s.flag fd bk ix := rfl
@[simp] theorem tick_modCont (s : State) (p : Nat) (f : PCont → PCont) : (s.modCont p f).tick = s.tick := rfl

@[simp] theorem core_modStep (s : State) (p id : Nat) (f : StepRun → StepRun) (ky : Nat) : (s.modStep p id f).core ky = s.core ky := rfl
@[simp] theorem stack_modStep (s : State) (p id : Nat) (f : StepRun → StepRun) (ky : Nat) : (s.modStep p id f).stack ky = s.stack ky := rfl
@[simp] theorem port_modStep (s : State) (p id : Nat) (f : StepRun → StepRun) (ky : Nat) : (s.modStep p id f).port ky = s.port ky := rfl
@[simp] theorem ring?_modStep (s : State) (p id : Nat) (f : StepRun → StepRun) (ky : Nat) : (s.modStep p id f).ring? ky = s.ring? ky := rfl
@[simp] theorem nport_modStep (s : State) (p id : Nat) (f : StepRun → StepRun) (ky : Nat) : (s.modStep p id f).nport ky = s.nport ky := rfl
@[simp] theorem rd_modStep (s : State) (p id : Nat) (f : StepRun → StepRun) (fd : Fld) (bk ix : Nat) : (s.modStep p id f).rd fd bk ix = s.rd fd bk ix := rfl
@[simp] theorem flag_modStep (s : State) (p id : Nat) (f : StepRun → StepRun) (fd : Fld) (bk ix : Nat) : (s.modStep p id f).flag fd bk ix = s.flag fd bk ix := rfl
@[simp] theorem tick_modStep (s : State) (p id : Nat) (f : StepRun → StepRun) : (s.modStep p id f).tick = s.tick := rfl

@[simp] theorem core_modObj (s : State) (p slot : Nat) (f : Obj → Obj) (ky : Nat) : (s.modObj p slot f).core ky = s.core ky := rfl
@[simp] theorem stack_modObj (s : State) (p slot : Nat) (f : Obj → Obj) (ky : Nat) : (s.modObj p slot f).stack ky = s.stack ky := rfl
@[simp] theorem port_modObj (s : State) (p slot : Nat) (f : Obj → Obj) (ky : Nat) : (s.modObj p slot f).port ky = s.port ky := rfl
@[simp] theorem ring?_modObj (s : State) (p slot : Nat) (f : Obj → Obj) (ky : Nat) : (s.modObj p slot f).ring? ky = s.ring? ky := rfl
@[simp] theorem nport_modObj (s : State) (p slot : Nat) (f : Obj → Obj) (ky : Nat) : (s.modObj p slot f).nport ky = s.nport ky := rfl
@[simp] theorem rd_modObj (s : State) (p slot : Nat) (f : Obj → Obj) (fd : Fld) (bk ix : Nat) : (s.modObj p slot f).rd fd bk ix = s.rd fd bk ix := rfl
@[simp] theorem flag_modObj (s : State) (p slot : Nat) (f : Obj → Obj) (fd : Fld) (bk ix : Nat) : (s.modObj p slot f).flag fd bk ix = s.flag fd bk ix := rfl
@[simp] theorem tick_modObj (s : State) (p slot : Nat) (f : Obj → Obj) : (s.modObj p slot f).tick = s.tick := rfl

@[simp] theorem core_modJob (s : State) (p : Nat) (f : Job → Job) (ky : Nat) : (s.modJob p f).core ky = s.core ky := rfl
@[simp] theorem stack_modJob (s : State) (p : Nat) (f : Job → Job) (ky : Nat) : (s.modJob p f).stack ky = s.stack ky := rfl
@[simp] theorem port_modJob (s : State) (p : Nat) (f : Job → Job) (ky : Nat) : (s.modJob p f).port ky = s.port ky := rfl
@[simp] theorem ring?_modJob (s : State) (p : Nat) (f : Job → Job) (ky : Nat) : (s.modJob p f).ring? ky = s.ring? ky := rfl
@[simp] theorem nport_modJob (s : State) (p : Nat) (f : Job → Job) (ky : Nat) : (s.modJob p f).nport ky = s.nport ky := rfl
@[simp] theorem rd_modJob (s : State) (p : Nat) (f : Job → Job) (fd : Fld) (bk ix : Nat) : (s.modJob p f).rd fd bk ix = s.rd fd bk ix := rfl
@[simp] theorem flag_modJob (s : State) (p : Nat) (f : Job → Job) (fd : Fld) (bk ix : Nat) : (s.modJob p f).flag fd bk ix = s.flag fd bk ix := rfl
@[simp] theorem tick_modJob (s : State) (p : Nat) (f : Job → Job) : (s.modJob p f).tick = s.tick := rfl

@[simp] theorem core_putGroup (s : State) (p g : Nat) (x : CollGroup) (ky : Nat) : (s.putGroup p g x).core ky = s.core ky := rfl
@[simp] theorem stack_putGroup (s : State) (p g : Nat) (x : CollGroup) (ky : Nat) : (s.putGroup p g x).stack ky = s.stack ky := rfl
@[simp] theorem port_putGroup (s : State) (p g : Nat) (x : CollGroup) (ky : Nat) : (s.putGroup p g x).port ky = s.port ky := rfl
@[simp] theorem ring?_putGroup (s : State) (p g : Nat) (x : CollGroup) (ky : Nat) : (s.putGroup p g x).ring? ky = s.ring? ky := rfl
@[simp] theorem nport_putGroup (s : State) (p g : Nat) (x : CollGroup) (ky : Nat) : (s.putGroup p g x).nport ky = s.nport ky := rfl
@[simp] theorem rd_putGroup (s : State) (p g : Nat) (x : CollGroup) (fd : Fld) (bk ix : Nat) : (s.putGroup p g x).rd fd bk ix = s.rd fd bk ix := rfl
@[simp] theorem flag_putGroup (s : State) (p g : Nat) (x : CollGroup) (fd : Fld) (bk ix : Nat) : (s.putGroup p g x).flag fd bk ix = s.flag fd bk ix := rfl
@[simp] theorem tick_putGroup (s : State) (p g : Nat) (x : CollGroup) : (s.putGroup p g x).tick = s.tick := rfl

@[simp] theorem core_putSheaf (s : State) (p n : Nat) (x : Sheaf) (ky : Nat) : (s.putSheaf p n x).core ky = s.core ky := rfl
@[simp] theorem stack_putSheaf (s : State) (p n : Nat) (x : Sheaf) (ky : Nat) : (s.putSheaf p n x).stack ky = s.stack ky := rfl
@[simp] theorem port_putSheaf (s : State) (p n : Nat) (x : Sheaf) (ky : Nat) : (s.putSheaf p n x).port ky = s.port ky := rfl
@[simp] theorem ring?_putSheaf (s : State) (p n : Nat) (x : Sheaf) (ky : Nat) : (s.putSheaf p n x).ring? ky = s.ring? ky := rfl
@[simp] theorem nport_putSheaf (s : State) (p n : Nat) (x : Sheaf) (ky : Nat) : (s.putSheaf p n x).nport ky = s.nport ky := rfl
@[simp] theorem rd_putSheaf (s : State) (p n : Nat) (x : Sheaf) (fd : Fld) (bk ix : Nat) : (s.putSheaf p n x).rd fd bk ix = s.rd fd bk ix := rfl
@[simp] theorem flag_putSheaf (s : State) (p n : Nat) (x : Sheaf) (fd : Fld) (bk ix : Nat) : (s.putSheaf p n x).flag fd bk ix = s.flag fd bk ix := rfl
@[simp] theorem tick_putSheaf (s : State) (p n : Nat) (x : Sheaf) : (s.putSheaf p n x).tick = s.tick := rfl

@[simp] theorem core_putDctx (s : State) (p n : Nat) (x : DispCtx) (ky : Nat) : (s.putDctx p n x).core ky = s.core ky := rfl
@[simp] theorem stack_putDctx (s : State) (p n : Nat) (x : DispCtx) (ky : Nat) : (s.putDctx p n x).stack ky = s.stack ky := rfl
@[simp] theorem port_putDctx (s : State) (p n : Nat) (x : DispCtx) (ky : Nat) : (s.putDctx p n x).port ky = s.port ky := rfl
@[simp] theorem ring?_putDctx (s : State) (p n : Nat) (x : DispCtx) (ky : Nat) : (s.putDctx p n x).ring? ky = s.ring? ky := rfl
@[simp] theorem nport_putDctx (s : State) (p n : Nat) (x : DispCtx) (ky : Nat) : (s.putDctx p n x).nport ky = s.nport ky := rfl
@[simp] theorem rd_putDctx (s : State) (p n : Nat) (x : DispCtx) (fd : Fld) (bk ix : Nat) : (s.putDctx p n x).rd fd bk ix = s.rd fd bk ix := rfl
@[simp] theorem flag_putDctx (s : State) (p n : Nat) (x : DispCtx) (fd : Fld) (bk ix : Nat) : (s.putDctx p n x).flag fd bk ix = s.flag fd bk ix := rfl
@[simp] theorem tick_putDctx (s : State) (p n : Nat) (x : DispCtx) : (s.putDctx p n x).tick = s.tick := rfl

@[simp] theorem core_putShard (s : State) (p i : Nat) (x : Shard) (ky : Nat) : (s.putShard p i x).core ky = s.core ky := rfl
@[simp] theorem stack_putShard (s : State) (p i : Nat) (x : Shard) (ky : Nat) : (s.putShard p i x).stack ky = s.stack ky := rfl
@[simp] theorem port_putShard (s : State) (p i : Nat) (x : Shard) (ky : Nat) : (s.putShard p i x).port ky = s.port ky := rfl
@[simp] theorem ring?_putShard (s : State) (p i : Nat) (x : Shard) (ky : Nat) : (s.putShard p i x).ring? ky = s.ring? ky := rfl
@[simp] theorem nport_putShard (s : State) (p i : Nat) (x : Shard) (ky : Nat) : (s.putShard p i x).nport ky = s.nport ky := rfl
@[simp] theorem rd_putShard (s : State) (p i : Nat) (x : Shard) (fd : Fld) (bk ix : Nat) : (s.putShard p i x).rd fd bk ix = s.rd fd bk ix := rfl
@[simp] theorem flag_putShard (s : State) (p i : Nat) (x : Shard) (fd : Fld) (bk ix : Nat) : (s.putShard p i x).flag fd bk ix = s.flag fd bk ix := rfl
@[simp] theorem tick_putShard (s : State) (p i : Nat) (x : Shard) : (s.putShard p i x).tick = s.tick := rfl

@[simp] theorem part_modCore (s : State) (c : Nat) (f : CoreState → CoreState) (ky : Nat) : (s.modCore c f).part ky = s.part ky := rfl
@[simp] theorem stack_modCore (s : State) (c : Nat) (f : CoreState → CoreState) (ky : Nat) : (s.modCore c f).stack ky = s.stack ky := rfl
@[simp] theorem port_modCore (s : State) (c : Nat) (f : CoreState → CoreState) (ky : Nat) : (s.modCore c f).port ky = s.port ky := rfl
@[simp] theorem ring?_modCore (s : State) (c : Nat) (f : CoreState → CoreState) (ky : Nat) : (s.modCore c f).ring? ky = s.ring? ky := rfl
@[simp] theorem nport_modCore (s : State) (c : Nat) (f : CoreState → CoreState) (ky : Nat) : (s.modCore c f).nport ky = s.nport ky := rfl
@[simp] theorem rd_modCore (s : State) (c : Nat) (f : CoreState → CoreState) (fd : Fld) (bk ix : Nat) : (s.modCore c f).rd fd bk ix = s.rd fd bk ix := rfl
@[simp] theorem flag_modCore (s : State) (c : Nat) (f : CoreState → CoreState) (fd : Fld) (bk ix : Nat) : (s.modCore c f).flag fd bk ix = s.flag fd bk ix := rfl
@[simp] theorem tick_modCore (s : State) (c : Nat) (f : CoreState → CoreState) : (s.modCore c f).tick = s.tick := rfl

@[simp] theorem part_setRow (s : State) (c r : Nat) (x : TarnRow) (ky : Nat) : (s.setRow c r x).part ky = s.part ky := rfl
@[simp] theorem stack_setRow (s : State) (c r : Nat) (x : TarnRow) (ky : Nat) : (s.setRow c r x).stack ky = s.stack ky := rfl
@[simp] theorem port_setRow (s : State) (c r : Nat) (x : TarnRow) (ky : Nat) : (s.setRow c r x).port ky = s.port ky := rfl
@[simp] theorem ring?_setRow (s : State) (c r : Nat) (x : TarnRow) (ky : Nat) : (s.setRow c r x).ring? ky = s.ring? ky := rfl
@[simp] theorem nport_setRow (s : State) (c r : Nat) (x : TarnRow) (ky : Nat) : (s.setRow c r x).nport ky = s.nport ky := rfl
@[simp] theorem rd_setRow (s : State) (c r : Nat) (x : TarnRow) (fd : Fld) (bk ix : Nat) : (s.setRow c r x).rd fd bk ix = s.rd fd bk ix := rfl
@[simp] theorem flag_setRow (s : State) (c r : Nat) (x : TarnRow) (fd : Fld) (bk ix : Nat) : (s.setRow c r x).flag fd bk ix = s.flag fd bk ix := rfl
@[simp] theorem tick_setRow (s : State) (c r : Nat) (x : TarnRow) : (s.setRow c r x).tick = s.tick := rfl

@[simp] theorem part_putRun (s : State) (c : Nat) (r : Running) (ky : Nat) : (s.putRun c r).part ky = s.part ky := rfl
@[simp] theorem stack_putRun (s : State) (c : Nat) (r : Running) (ky : Nat) : (s.putRun c r).stack ky = s.stack ky := rfl
@[simp] theorem port_putRun (s : State) (c : Nat) (r : Running) (ky : Nat) : (s.putRun c r).port ky = s.port ky := rfl
@[simp] theorem ring?_putRun (s : State) (c : Nat) (r : Running) (ky : Nat) : (s.putRun c r).ring? ky = s.ring? ky := rfl
@[simp] theorem nport_putRun (s : State) (c : Nat) (r : Running) (ky : Nat) : (s.putRun c r).nport ky = s.nport ky := rfl
@[simp] theorem rd_putRun (s : State) (c : Nat) (r : Running) (fd : Fld) (bk ix : Nat) : (s.putRun c r).rd fd bk ix = s.rd fd bk ix := rfl
@[simp] theorem flag_putRun (s : State) (c : Nat) (r : Running) (fd : Fld) (bk ix : Nat) : (s.putRun c r).flag fd bk ix = s.flag fd bk ix := rfl
@[simp] theorem tick_putRun (s : State) (c : Nat) (r : Running) : (s.putRun c r).tick = s.tick := rfl

@[simp] theorem part_modStack (s : State) (n : Nat) (f : Stack → Stack) (ky : Nat) : (s.modStack n f).part ky = s.part ky := rfl
@[simp] theorem core_modStack (s : State) (n : Nat) (f : Stack → Stack) (ky : Nat) : (s.modStack n f).core ky = s.core ky := rfl
@[simp] theorem port_modStack (s : State) (n : Nat) (f : Stack → Stack) (ky : Nat) : (s.modStack n f).port ky = s.port ky := rfl
@[simp] theorem ring?_modStack (s : State) (n : Nat) (f : Stack → Stack) (ky : Nat) : (s.modStack n f).ring? ky = s.ring? ky := rfl
@[simp] theorem nport_modStack (s : State) (n : Nat) (f : Stack → Stack) (ky : Nat) : (s.modStack n f).nport ky = s.nport ky := rfl
@[simp] theorem rd_modStack (s : State) (n : Nat) (f : Stack → Stack) (fd : Fld) (bk ix : Nat) : (s.modStack n f).rd fd bk ix = s.rd fd bk ix := rfl
@[simp] theorem flag_modStack (s : State) (n : Nat) (f : Stack → Stack) (fd : Fld) (bk ix : Nat) : (s.modStack n f).flag fd bk ix = s.flag fd bk ix := rfl
@[simp] theorem tick_modStack (s : State) (n : Nat) (f : Stack → Stack) : (s.modStack n f).tick = s.tick := rfl

@[simp] theorem part_modPort (s : State) (q : Nat) (f : HPort → HPort) (ky : Nat) : (s.modPort q f).part ky = s.part ky := rfl
@[simp] theorem core_modPort (s : State) (q : Nat) (f : HPort → HPort) (ky : Nat) : (s.modPort q f).core ky = s.core ky := rfl
@[simp] theorem stack_modPort (s : State) (q : Nat) (f : HPort → HPort) (ky : Nat) : (s.modPort q f).stack ky = s.stack ky := rfl
@[simp] theorem ring?_modPort (s : State) (q : Nat) (f : HPort → HPort) (ky : Nat) : (s.modPort q f).ring? ky = s.ring? ky := rfl
@[simp] theorem nport_modPort (s : State) (q : Nat) (f : HPort → HPort) (ky : Nat) : (s.modPort q f).nport ky = s.nport ky := rfl
@[simp] theorem rd_modPort (s : State) (q : Nat) (f : HPort → HPort) (fd : Fld) (bk ix : Nat) : (s.modPort q f).rd fd bk ix = s.rd fd bk ix := rfl
@[simp] theorem flag_modPort (s : State) (q : Nat) (f : HPort → HPort) (fd : Fld) (bk ix : Nat) : (s.modPort q f).flag fd bk ix = s.flag fd bk ix := rfl
@[simp] theorem tick_modPort (s : State) (q : Nat) (f : HPort → HPort) : (s.modPort q f).tick = s.tick := rfl

@[simp] theorem part_hostWrite (s : State) (q a : Nat) (bs : List Byte) (ky : Nat) : (s.hostWrite q a bs).part ky = s.part ky := rfl
@[simp] theorem core_hostWrite (s : State) (q a : Nat) (bs : List Byte) (ky : Nat) : (s.hostWrite q a bs).core ky = s.core ky := rfl
@[simp] theorem stack_hostWrite (s : State) (q a : Nat) (bs : List Byte) (ky : Nat) : (s.hostWrite q a bs).stack ky = s.stack ky := rfl
@[simp] theorem port_hostWrite (s : State) (q a : Nat) (bs : List Byte) (ky : Nat) : (s.hostWrite q a bs).port ky = s.port ky := rfl
@[simp] theorem ring?_hostWrite (s : State) (q a : Nat) (bs : List Byte) (ky : Nat) : (s.hostWrite q a bs).ring? ky = s.ring? ky := rfl
@[simp] theorem nport_hostWrite (s : State) (q a : Nat) (bs : List Byte) (ky : Nat) : (s.hostWrite q a bs).nport ky = s.nport ky := rfl
@[simp] theorem rd_hostWrite (s : State) (q a : Nat) (bs : List Byte) (fd : Fld) (bk ix : Nat) : (s.hostWrite q a bs).rd fd bk ix = s.rd fd bk ix := rfl
@[simp] theorem flag_hostWrite (s : State) (q a : Nat) (bs : List Byte) (fd : Fld) (bk ix : Nat) : (s.hostWrite q a bs).flag fd bk ix = s.flag fd bk ix := rfl
@[simp] theorem tick_hostWrite (s : State) (q a : Nat) (bs : List Byte) : (s.hostWrite q a bs).tick = s.tick := rfl

@[simp] theorem part_putRing (s : State) (k : Nat) (r : Ring) (ky : Nat) : (s.putRing k r).part ky = s.part ky := rfl
@[simp] theorem core_putRing (s : State) (k : Nat) (r : Ring) (ky : Nat) : (s.putRing k r).core ky = s.core ky := rfl
@[simp] theorem stack_putRing (s : State) (k : Nat) (r : Ring) (ky : Nat) : (s.putRing k r).stack ky = s.stack ky := rfl
@[simp] theorem port_putRing (s : State) (k : Nat) (r : Ring) (ky : Nat) : (s.putRing k r).port ky = s.port ky := rfl
@[simp] theorem nport_putRing (s : State) (k : Nat) (r : Ring) (ky : Nat) : (s.putRing k r).nport ky = s.nport ky := rfl
@[simp] theorem rd_putRing (s : State) (k : Nat) (r : Ring) (fd : Fld) (bk ix : Nat) : (s.putRing k r).rd fd bk ix = s.rd fd bk ix := rfl
@[simp] theorem flag_putRing (s : State) (k : Nat) (r : Ring) (fd : Fld) (bk ix : Nat) : (s.putRing k r).flag fd bk ix = s.flag fd bk ix := rfl
@[simp] theorem tick_putRing (s : State) (k : Nat) (r : Ring) : (s.putRing k r).tick = s.tick := rfl

@[simp] theorem part_delRing (s : State) (k : Nat) (ky : Nat) : (s.delRing k).part ky = s.part ky := rfl
@[simp] theorem core_delRing (s : State) (k : Nat) (ky : Nat) : (s.delRing k).core ky = s.core ky := rfl
@[simp] theorem stack_delRing (s : State) (k : Nat) (ky : Nat) : (s.delRing k).stack ky = s.stack ky := rfl
@[simp] theorem port_delRing (s : State) (k : Nat) (ky : Nat) : (s.delRing k).port ky = s.port ky := rfl
@[simp] theorem nport_delRing (s : State) (k : Nat) (ky : Nat) : (s.delRing k).nport ky = s.nport ky := rfl
@[simp] theorem rd_delRing (s : State) (k : Nat) (fd : Fld) (bk ix : Nat) : (s.delRing k).rd fd bk ix = s.rd fd bk ix := rfl
@[simp] theorem flag_delRing (s : State) (k : Nat) (fd : Fld) (bk ix : Nat) : (s.delRing k).flag fd bk ix = s.flag fd bk ix := rfl
@[simp] theorem tick_delRing (s : State) (k : Nat) : (s.delRing k).tick = s.tick := rfl

@[simp] theorem part_answered (s : State) (a : HostAnswer) (ky : Nat) : (s.answered a).part ky = s.part ky := rfl
@[simp] theorem core_answered (s : State) (a : HostAnswer) (ky : Nat) : (s.answered a).core ky = s.core ky := rfl
@[simp] theorem stack_answered (s : State) (a : HostAnswer) (ky : Nat) : (s.answered a).stack ky = s.stack ky := rfl
@[simp] theorem port_answered (s : State) (a : HostAnswer) (ky : Nat) : (s.answered a).port ky = s.port ky := rfl
@[simp] theorem ring?_answered (s : State) (a : HostAnswer) (ky : Nat) : (s.answered a).ring? ky = s.ring? ky := rfl
@[simp] theorem nport_answered (s : State) (a : HostAnswer) (ky : Nat) : (s.answered a).nport ky = s.nport ky := rfl
@[simp] theorem rd_answered (s : State) (a : HostAnswer) (fd : Fld) (bk ix : Nat) : (s.answered a).rd fd bk ix = s.rd fd bk ix := rfl
@[simp] theorem flag_answered (s : State) (a : HostAnswer) (fd : Fld) (bk ix : Nat) : (s.answered a).flag fd bk ix = s.flag fd bk ix := rfl
@[simp] theorem tick_answered (s : State) (a : HostAnswer) : (s.answered a).tick = s.tick := rfl

@[simp] theorem part_emit (s : State) (r : Route) (x : Rec) (ky : Nat) : (s.emit r x).part ky = s.part ky := rfl
@[simp] theorem core_emit (s : State) (r : Route) (x : Rec) (ky : Nat) : (s.emit r x).core ky = s.core ky := rfl
@[simp] theorem stack_emit (s : State) (r : Route) (x : Rec) (ky : Nat) : (s.emit r x).stack ky = s.stack ky := rfl
@[simp] theorem port_emit (s : State) (r : Route) (x : Rec) (ky : Nat) : (s.emit r x).port ky = s.port ky := rfl
@[simp] theorem ring?_emit (s : State) (r : Route) (x : Rec) (ky : Nat) : (s.emit r x).ring? ky = s.ring? ky := rfl
@[simp] theorem nport_emit (s : State) (r : Route) (x : Rec) (ky : Nat) : (s.emit r x).nport ky = s.nport ky := rfl
@[simp] theorem rd_emit (s : State) (r : Route) (x : Rec) (fd : Fld) (bk ix : Nat) : (s.emit r x).rd fd bk ix = s.rd fd bk ix := rfl
@[simp] theorem flag_emit (s : State) (r : Route) (x : Rec) (fd : Fld) (bk ix : Nat) : (s.emit r x).flag fd bk ix = s.flag fd bk ix := rfl
@[simp] theorem tick_emit (s : State) (r : Route) (x : Rec) : (s.emit r x).tick = s.tick := rfl

@[simp] theorem part_event (s : State) (type p : Nat) (words : List Nat) (ky : Nat) : (s.event type p words).part ky = s.part ky := rfl
@[simp] theorem core_event (s : State) (type p : Nat) (words : List Nat) (ky : Nat) : (s.event type p words).core ky = s.core ky := rfl
@[simp] theorem stack_event (s : State) (type p : Nat) (words : List Nat) (ky : Nat) : (s.event type p words).stack ky = s.stack ky := rfl
@[simp] theorem port_event (s : State) (type p : Nat) (words : List Nat) (ky : Nat) : (s.event type p words).port ky = s.port ky := rfl
@[simp] theorem ring?_event (s : State) (type p : Nat) (words : List Nat) (ky : Nat) : (s.event type p words).ring? ky = s.ring? ky := rfl
@[simp] theorem nport_event (s : State) (type p : Nat) (words : List Nat) (ky : Nat) : (s.event type p words).nport ky = s.nport ky := rfl
@[simp] theorem rd_event (s : State) (type p : Nat) (words : List Nat) (fd : Fld) (bk ix : Nat) : (s.event type p words).rd fd bk ix = s.rd fd bk ix := rfl
@[simp] theorem flag_event (s : State) (type p : Nat) (words : List Nat) (fd : Fld) (bk ix : Nat) : (s.event type p words).flag fd bk ix = s.flag fd bk ix := rfl
@[simp] theorem tick_event (s : State) (type p : Nat) (words : List Nat) : (s.event type p words).tick = s.tick := rfl

@[simp] theorem part_eventAt (s : State) (q type part : Nat) (words : List Nat) (ky : Nat) : (s.eventAt q type part words).part ky = s.part ky := rfl
@[simp] theorem core_eventAt (s : State) (q type part : Nat) (words : List Nat) (ky : Nat) : (s.eventAt q type part words).core ky = s.core ky := rfl
@[simp] theorem stack_eventAt (s : State) (q type part : Nat) (words : List Nat) (ky : Nat) : (s.eventAt q type part words).stack ky = s.stack ky := rfl
@[simp] theorem port_eventAt (s : State) (q type part : Nat) (words : List Nat) (ky : Nat) : (s.eventAt q type part words).port ky = s.port ky := rfl
@[simp] theorem ring?_eventAt (s : State) (q type part : Nat) (words : List Nat) (ky : Nat) : (s.eventAt q type part words).ring? ky = s.ring? ky := rfl
@[simp] theorem nport_eventAt (s : State) (q type part : Nat) (words : List Nat) (ky : Nat) : (s.eventAt q type part words).nport ky = s.nport ky := rfl
@[simp] theorem rd_eventAt (s : State) (q type part : Nat) (words : List Nat) (fd : Fld) (bk ix : Nat) : (s.eventAt q type part words).rd fd bk ix = s.rd fd bk ix := rfl
@[simp] theorem flag_eventAt (s : State) (q type part : Nat) (words : List Nat) (fd : Fld) (bk ix : Nat) : (s.eventAt q type part words).flag fd bk ix = s.flag fd bk ix := rfl
@[simp] theorem tick_eventAt (s : State) (q type part : Nat) (words : List Nat) : (s.eventAt q type part words).tick = s.tick := rfl

@[simp] theorem part_eventAll (s : State) (type : Nat) (words : List Nat) (ky : Nat) : (s.eventAll type words).part ky = s.part ky := rfl
@[simp] theorem core_eventAll (s : State) (type : Nat) (words : List Nat) (ky : Nat) : (s.eventAll type words).core ky = s.core ky := rfl
@[simp] theorem stack_eventAll (s : State) (type : Nat) (words : List Nat) (ky : Nat) : (s.eventAll type words).stack ky = s.stack ky := rfl
@[simp] theorem port_eventAll (s : State) (type : Nat) (words : List Nat) (ky : Nat) : (s.eventAll type words).port ky = s.port ky := rfl
@[simp] theorem ring?_eventAll (s : State) (type : Nat) (words : List Nat) (ky : Nat) : (s.eventAll type words).ring? ky = s.ring? ky := rfl
@[simp] theorem nport_eventAll (s : State) (type : Nat) (words : List Nat) (ky : Nat) : (s.eventAll type words).nport ky = s.nport ky := rfl
@[simp] theorem rd_eventAll (s : State) (type : Nat) (words : List Nat) (fd : Fld) (bk ix : Nat) : (s.eventAll type words).rd fd bk ix = s.rd fd bk ix := rfl
@[simp] theorem flag_eventAll (s : State) (type : Nat) (words : List Nat) (fd : Fld) (bk ix : Nat) : (s.eventAll type words).flag fd bk ix = s.flag fd bk ix := rfl
@[simp] theorem tick_eventAll (s : State) (type : Nat) (words : List Nat) : (s.eventAll type words).tick = s.tick := rfl

@[simp] theorem part_clampGrain (s : State) (p c gid reason field requested applied : Nat) (ky : Nat) : (s.clampGrain p c gid reason field requested applied).part ky = s.part ky := rfl
@[simp] theorem core_clampGrain (s : State) (p c gid reason field requested applied : Nat) (ky : Nat) : (s.clampGrain p c gid reason field requested applied).core ky = s.core ky := rfl
@[simp] theorem stack_clampGrain (s : State) (p c gid reason field requested applied : Nat) (ky : Nat) : (s.clampGrain p c gid reason field requested applied).stack ky = s.stack ky := rfl
@[simp] theorem port_clampGrain (s : State) (p c gid reason field requested applied : Nat) (ky : Nat) : (s.clampGrain p c gid reason field requested applied).port ky = s.port ky := rfl
@[simp] theorem ring?_clampGrain (s : State) (p c gid reason field requested applied : Nat) (ky : Nat) : (s.clampGrain p c gid reason field requested applied).ring? ky = s.ring? ky := rfl
@[simp] theorem nport_clampGrain (s : State) (p c gid reason field requested applied : Nat) (ky : Nat) : (s.clampGrain p c gid reason field requested applied).nport ky = s.nport ky := rfl
@[simp] theorem rd_clampGrain (s : State) (p c gid reason field requested applied : Nat) (fd : Fld) (bk ix : Nat) : (s.clampGrain p c gid reason field requested applied).rd fd bk ix = s.rd fd bk ix := rfl
@[simp] theorem flag_clampGrain (s : State) (p c gid reason field requested applied : Nat) (fd : Fld) (bk ix : Nat) : (s.clampGrain p c gid reason field requested applied).flag fd bk ix = s.flag fd bk ix := rfl
@[simp] theorem tick_clampGrain (s : State) (p c gid reason field requested applied : Nat) : (s.clampGrain p c gid reason field requested applied).tick = s.tick := rfl

@[simp] theorem part_modNport (s : State) (n : Nat) (f : NPort → NPort) (ky : Nat) : (s.modNport n f).part ky = s.part ky := rfl
@[simp] theorem core_modNport (s : State) (n : Nat) (f : NPort → NPort) (ky : Nat) : (s.modNport n f).core ky = s.core ky := rfl
@[simp] theorem stack_modNport (s : State) (n : Nat) (f : NPort → NPort) (ky : Nat) : (s.modNport n f).stack ky = s.stack ky := rfl
@[simp] theorem port_modNport (s : State) (n : Nat) (f : NPort → NPort) (ky : Nat) : (s.modNport n f).port ky = s.port ky := rfl
@[simp] theorem ring?_modNport (s : State) (n : Nat) (f : NPort → NPort) (ky : Nat) : (s.modNport n f).ring? ky = s.ring? ky := rfl
@[simp] theorem rd_modNport (s : State) (n : Nat) (f : NPort → NPort) (fd : Fld) (bk ix : Nat) : (s.modNport n f).rd fd bk ix = s.rd fd bk ix := rfl
@[simp] theorem flag_modNport (s : State) (n : Nat) (f : NPort → NPort) (fd : Fld) (bk ix : Nat) : (s.modNport n f).flag fd bk ix = s.flag fd bk ix := rfl
@[simp] theorem tick_modNport (s : State) (n : Nat) (f : NPort → NPort) : (s.modNport n f).tick = s.tick := rfl

@[simp] theorem part_setChan (s : State) (cid : Nat) (c : Chan) (ky : Nat) : (s.setChan cid c).part ky = s.part ky := rfl
@[simp] theorem core_setChan (s : State) (cid : Nat) (c : Chan) (ky : Nat) : (s.setChan cid c).core ky = s.core ky := rfl
@[simp] theorem stack_setChan (s : State) (cid : Nat) (c : Chan) (ky : Nat) : (s.setChan cid c).stack ky = s.stack ky := rfl
@[simp] theorem port_setChan (s : State) (cid : Nat) (c : Chan) (ky : Nat) : (s.setChan cid c).port ky = s.port ky := rfl
@[simp] theorem ring?_setChan (s : State) (cid : Nat) (c : Chan) (ky : Nat) : (s.setChan cid c).ring? ky = s.ring? ky := rfl
@[simp] theorem nport_setChan (s : State) (cid : Nat) (c : Chan) (ky : Nat) : (s.setChan cid c).nport ky = s.nport ky := rfl
@[simp] theorem rd_setChan (s : State) (cid : Nat) (c : Chan) (fd : Fld) (bk ix : Nat) : (s.setChan cid c).rd fd bk ix = s.rd fd bk ix := rfl
@[simp] theorem flag_setChan (s : State) (cid : Nat) (c : Chan) (fd : Fld) (bk ix : Nat) : (s.setChan cid c).flag fd bk ix = s.flag fd bk ix := rfl
@[simp] theorem tick_setChan (s : State) (cid : Nat) (c : Chan) : (s.setChan cid c).tick = s.tick := rfl

@[simp] theorem part_modChan (s : State) (cid : Nat) (f : Chan → Chan) (ky : Nat) : (s.modChan cid f).part ky = s.part ky := rfl
@[simp] theorem core_modChan (s : State) (cid : Nat) (f : Chan → Chan) (ky : Nat) : (s.modChan cid f).core ky = s.core ky := rfl
@[simp] theorem stack_modChan (s : State) (cid : Nat) (f : Chan → Chan) (ky : Nat) : (s.modChan cid f).stack ky = s.stack ky := rfl
@[simp] theorem port_modChan (s : State) (cid : Nat) (f : Chan → Chan) (ky : Nat) : (s.modChan cid f).port ky = s.port ky := rfl
@[simp] theorem ring?_modChan (s : State) (cid : Nat) (f : Chan → Chan) (ky : Nat) : (s.modChan cid f).ring? ky = s.ring? ky := rfl
@[simp] theorem nport_modChan (s : State) (cid : Nat) (f : Chan → Chan) (ky : Nat) : (s.modChan cid f).nport ky = s.nport ky := rfl
@[simp] theorem rd_modChan (s : State) (cid : Nat) (f : Chan → Chan) (fd : Fld) (bk ix : Nat) : (s.modChan cid f).rd fd bk ix = s.rd fd bk ix := rfl
@[simp] theorem flag_modChan (s : State) (cid : Nat) (f : Chan → Chan) (fd : Fld) (bk ix : Nat) : (s.modChan cid f).flag fd bk ix = s.flag fd bk ix := rfl
@[simp] theorem tick_modChan (s : State) (cid : Nat) (f : Chan → Chan) : (s.modChan cid f).tick = s.tick := rfl

@[simp] theorem part_modMgmt (s : State) (f : MgmtState → MgmtState) (ky : Nat) : (s.modMgmt f).part ky = s.part ky := rfl
@[simp] theorem core_modMgmt (s : State) (f : MgmtState → MgmtState) (ky : Nat) : (s.modMgmt f).core ky = s.core ky := rfl
@[simp] theorem stack_modMgmt (s : State) (f : MgmtState → MgmtState) (ky : Nat) : (s.modMgmt f).stack ky = s.stack ky := rfl
@[simp] theorem port_modMgmt (s : State) (f : MgmtState → MgmtState) (ky : Nat) : (s.modMgmt f).port ky = s.port ky := rfl
@[simp] theorem ring?_modMgmt (s : State) (f : MgmtState → MgmtState) (ky : Nat) : (s.modMgmt f).ring? ky = s.ring? ky := rfl
@[simp] theorem nport_modMgmt (s : State) (f : MgmtState → MgmtState) (ky : Nat) : (s.modMgmt f).nport ky = s.nport ky := rfl
@[simp] theorem rd_modMgmt (s : State) (f : MgmtState → MgmtState) (fd : Fld) (bk ix : Nat) : (s.modMgmt f).rd fd bk ix = s.rd fd bk ix := rfl
@[simp] theorem flag_modMgmt (s : State) (f : MgmtState → MgmtState) (fd : Fld) (bk ix : Nat) : (s.modMgmt f).flag fd bk ix = s.flag fd bk ix := rfl
@[simp] theorem tick_modMgmt (s : State) (f : MgmtState → MgmtState) : (s.modMgmt f).tick = s.tick := rfl

@[simp] theorem part_send (s : State) (o : MgmtOut) (ky : Nat) : (s.send o).part ky = s.part ky := rfl
@[simp] theorem core_send (s : State) (o : MgmtOut) (ky : Nat) : (s.send o).core ky = s.core ky := rfl
@[simp] theorem stack_send (s : State) (o : MgmtOut) (ky : Nat) : (s.send o).stack ky = s.stack ky := rfl
@[simp] theorem port_send (s : State) (o : MgmtOut) (ky : Nat) : (s.send o).port ky = s.port ky := rfl
@[simp] theorem ring?_send (s : State) (o : MgmtOut) (ky : Nat) : (s.send o).ring? ky = s.ring? ky := rfl
@[simp] theorem nport_send (s : State) (o : MgmtOut) (ky : Nat) : (s.send o).nport ky = s.nport ky := rfl
@[simp] theorem rd_send (s : State) (o : MgmtOut) (fd : Fld) (bk ix : Nat) : (s.send o).rd fd bk ix = s.rd fd bk ix := rfl
@[simp] theorem flag_send (s : State) (o : MgmtOut) (fd : Fld) (bk ix : Nat) : (s.send o).flag fd bk ix = s.flag fd bk ix := rfl
@[simp] theorem tick_send (s : State) (o : MgmtOut) : (s.send o).tick = s.tick := rfl

@[simp] theorem part_modRst (s : State) (f : ResetState → ResetState) (ky : Nat) : (s.modRst f).part ky = s.part ky := rfl
@[simp] theorem core_modRst (s : State) (f : ResetState → ResetState) (ky : Nat) : (s.modRst f).core ky = s.core ky := rfl
@[simp] theorem stack_modRst (s : State) (f : ResetState → ResetState) (ky : Nat) : (s.modRst f).stack ky = s.stack ky := rfl
@[simp] theorem port_modRst (s : State) (f : ResetState → ResetState) (ky : Nat) : (s.modRst f).port ky = s.port ky := rfl
@[simp] theorem ring?_modRst (s : State) (f : ResetState → ResetState) (ky : Nat) : (s.modRst f).ring? ky = s.ring? ky := rfl
@[simp] theorem nport_modRst (s : State) (f : ResetState → ResetState) (ky : Nat) : (s.modRst f).nport ky = s.nport ky := rfl
@[simp] theorem rd_modRst (s : State) (f : ResetState → ResetState) (fd : Fld) (bk ix : Nat) : (s.modRst f).rd fd bk ix = s.rd fd bk ix := rfl
@[simp] theorem flag_modRst (s : State) (f : ResetState → ResetState) (fd : Fld) (bk ix : Nat) : (s.modRst f).flag fd bk ix = s.flag fd bk ix := rfl
@[simp] theorem tick_modRst (s : State) (f : ResetState → ResetState) : (s.modRst f).tick = s.tick := rfl

@[simp] theorem part_moved (s : State) (ky : Nat) : (s.moved).part ky = s.part ky := rfl
@[simp] theorem core_moved (s : State) (ky : Nat) : (s.moved).core ky = s.core ky := rfl
@[simp] theorem stack_moved (s : State) (ky : Nat) : (s.moved).stack ky = s.stack ky := rfl
@[simp] theorem port_moved (s : State) (ky : Nat) : (s.moved).port ky = s.port ky := rfl
@[simp] theorem ring?_moved (s : State) (ky : Nat) : (s.moved).ring? ky = s.ring? ky := rfl
@[simp] theorem nport_moved (s : State) (ky : Nat) : (s.moved).nport ky = s.nport ky := rfl
@[simp] theorem rd_moved (s : State) (fd : Fld) (bk ix : Nat) : (s.moved).rd fd bk ix = s.rd fd bk ix := rfl
@[simp] theorem flag_moved (s : State) (fd : Fld) (bk ix : Nat) : (s.moved).flag fd bk ix = s.flag fd bk ix := rfl
@[simp] theorem tick_moved (s : State) : (s.moved).tick = s.tick := rfl

@[simp] theorem part_setTiers (s : State) (f : TierState → TierState) (ky : Nat) : (s.setTiers f).part ky = s.part ky := rfl
@[simp] theorem core_setTiers (s : State) (f : TierState → TierState) (ky : Nat) : (s.setTiers f).core ky = s.core ky := rfl
@[simp] theorem stack_setTiers (s : State) (f : TierState → TierState) (ky : Nat) : (s.setTiers f).stack ky = s.stack ky := rfl
@[simp] theorem port_setTiers (s : State) (f : TierState → TierState) (ky : Nat) : (s.setTiers f).port ky = s.port ky := rfl
@[simp] theorem ring?_setTiers (s : State) (f : TierState → TierState) (ky : Nat) : (s.setTiers f).ring? ky = s.ring? ky := rfl
@[simp] theorem nport_setTiers (s : State) (f : TierState → TierState) (ky : Nat) : (s.setTiers f).nport ky = s.nport ky := rfl
@[simp] theorem rd_setTiers (s : State) (f : TierState → TierState) (fd : Fld) (bk ix : Nat) : (s.setTiers f).rd fd bk ix = s.rd fd bk ix := rfl
@[simp] theorem flag_setTiers (s : State) (f : TierState → TierState) (fd : Fld) (bk ix : Nat) : (s.setTiers f).flag fd bk ix = s.flag fd bk ix := rfl
@[simp] theorem tick_setTiers (s : State) (f : TierState → TierState) : (s.setTiers f).tick = s.tick := rfl

theorem wr_regs (s : State) (f : Fld) (v b i : Nat) :
    (s.wr f v b i).regs = if v % 2 ^ f.w = f.resetVal b i then tdel s.regs (f.key b i) else tput s.regs (f.key b i) (v % 2 ^ f.w) := rfl
@[simp] theorem emit_out (s : State) (r : Route) (x : Rec) : (s.emit r x).out = s.out ++ [⟨r, x⟩] := rfl
@[simp] theorem event_out (s : State) (type p : Nat) (words : List Nat) :
    (s.event type p words).out = s.out ++ [⟨.part p, .event type p false s.tick words⟩] := rfl
@[simp] theorem eventAt_out (s : State) (q type part : Nat) (words : List Nat) :
    (s.eventAt q type part words).out = s.out ++ [⟨.port q, .event type part false s.tick words⟩] := rfl
theorem eventAll_out (s : State) (type : Nat) (words : List Nat) :
    (s.eventAll type words).out = s.out ++ [⟨.port 0, .event type noPart false s.tick words⟩, ⟨.port 1, .event type noPart false s.tick words⟩] := by
  simp [State.eventAll, State.eventAt, State.emit, State.tick, State.rd]
@[simp] theorem modRst_rst (s : State) (f : ResetState → ResetState) : (s.modRst f).rst = f s.rst := rfl
@[simp] theorem modMgmt_mgmt (s : State) (f : MgmtState → MgmtState) : (s.modMgmt f).mgmt = f s.mgmt := rfl
@[simp] theorem setTiers_tiers (s : State) (f : TierState → TierState) : (s.setTiers f).tiers = f s.tiers := rfl
@[simp] theorem answered_answer (s : State) (a : HostAnswer) : (s.answered a).host.answer = a := rfl
@[simp] theorem hostWrite_rings (s : State) (q a : Nat) (bs : List Byte) : (s.hostWrite q a bs).host.rings = s.host.rings := rfl
@[simp] theorem hostWrite_ports (s : State) (q a : Nat) (bs : List Byte) : (s.hostWrite q a bs).host.ports = s.host.ports := rfl
@[simp] theorem putRing_ports (s : State) (k : Nat) (r : Ring) : (s.putRing k r).host.ports = s.host.ports := rfl
@[simp] theorem putRing_hostMem (s : State) (k : Nat) (r : Ring) : (s.putRing k r).host.mem = s.host.mem := rfl
@[simp] theorem modPort_rings (s : State) (q : Nat) (f : HPort → HPort) : (s.modPort q f).host.rings = s.host.rings := rfl
@[simp] theorem modPort_hostMem (s : State) (q : Nat) (f : HPort → HPort) : (s.modPort q f).host.mem = s.host.mem := rfl
@[simp] theorem modStack_dram (s : State) (n : Nat) (f : Stack → Stack) : (s.modStack n f).mem.dram = s.mem.dram := rfl

end Sys2Proof.Machine.Laws
end

