-- ==== Sys2Proof/Laws/Tables.lean ====
section
/-! SUPPORT. The laws of the sparse tables: what a key reads after an update, and that every update keeps the keys rising. -/
namespace Sys2Proof.Machine.Laws
variable {α : Type}

@[simp] theorem tget?_tput_same (t : List (Nat × α)) (k : Nat) (v : α) : tget? (tput t k v) k = some v := by
  induction t with
  | nil => simp [tput, tget?]
  | cons e r ih =>
    simp only [tput]
    split
    · next h => simp [tget?, Nat.ne_of_lt h, ih]
    · split <;> simp [tget?]

theorem tget?_tput_other (t : List (Nat × α)) (k j : Nat) (v : α) (h : k ≠ j) : tget? (tput t k v) j = tget? t j := by
  induction t with
  | nil => simp [tput, tget?, h]
  | cons e r ih =>
    simp only [tput]
    split
    · simp only [tget?, ih]
    · split
      · next h2 => subst h2; simp [tget?, h]
      · simp [tget?, h]

@[simp] theorem tget?_tdel_same (t : List (Nat × α)) (k : Nat) : tget? (tdel t k) k = none := by
  induction t with
  | nil => rfl
  | cons e r ih =>
    by_cases h : e.1 = k
    · simpa [tdel, h] using ih
    · simpa [tdel, h, tget?] using ih

theorem tget?_tdel_other (t : List (Nat × α)) (k j : Nat) (h : k ≠ j) : tget? (tdel t k) j = tget? t j := by
  induction t with
  | nil => rfl
  | cons e r ih =>
    by_cases hk : e.1 = k
    · have : e.1 ≠ j := hk ▸ h
      simpa [tdel, hk, tget?, this, h] using ih
    · simp only [tdel, ne_eq, bne_iff_ne, List.filter_cons, hk, not_false_eq_true, if_true, tget?]
      split
      · rfl
      · simpa [tdel] using ih

@[simp] theorem tgetD_tput_same (t : List (Nat × α)) (k : Nat) (v d : α) : tgetD (tput t k v) k d = v := by simp [tgetD]

theorem tgetD_tput_other (t : List (Nat × α)) (k j : Nat) (v d : α) (h : k ≠ j) : tgetD (tput t k v) j d = tgetD t j d := by
  simp [tgetD, tget?_tput_other t k j v h]

/-- The keys are rising exactly when the list of keys is strictly sorted. -/
theorem keysRising_iff (t : List (Nat × α)) : keysRising t = true ↔ (t.map Prod.fst).Pairwise (· < ·) := by
  induction t with
  | nil => simp [keysRising]
  | cons a r ih =>
    cases r with
    | nil => simp [keysRising]
    | cons b q =>
      simp only [keysRising, Bool.and_eq_true, decide_eq_true_eq, ih, List.map_cons, List.pairwise_cons, List.mem_cons,
        forall_eq_or_imp]
      constructor
      · rintro ⟨hab, hb, hq⟩
        exact ⟨⟨hab, fun x hx => Nat.lt_trans hab (hb x hx)⟩, hb, hq⟩
      · rintro ⟨⟨hab, _⟩, hb, hq⟩
        exact ⟨hab, hb, hq⟩

theorem keysRising_tdel (t : List (Nat × α)) (k : Nat) (h : keysRising t = true) : keysRising (tdel t k) = true := by
  rw [keysRising_iff] at *
  exact h.sublist (List.Sublist.map _ List.filter_sublist)

/-- The keys of an updated table are the key and keys of the table. -/
theorem mem_keys_tput (t : List (Nat × α)) (k : Nat) (v : α) (x : Nat) (h : x ∈ (tput t k v).map Prod.fst) :
    x = k ∨ x ∈ t.map Prod.fst := by
  induction t with
  | nil => simpa [tput] using h
  | cons e r ih =>
    simp only [tput] at h
    split at h
    · simp only [List.map_cons, List.mem_cons] at h ⊢
      rcases h with h | h
      · exact .inr (.inl h)
      · rcases ih h with h | h
        · exact .inl h
        · exact .inr (.inr h)
    · split at h
      · simp only [List.map_cons, List.mem_cons] at h ⊢
        rcases h with h | h
        · exact .inl h
        · exact .inr (.inr h)
      · simp only [List.map_cons, List.mem_cons] at h ⊢
        rcases h with h | h | h
        · exact .inl h
        · exact .inr (.inl h)
        · exact .inr (.inr h)

theorem keysRising_tput (t : List (Nat × α)) (k : Nat) (v : α) (h : keysRising t = true) : keysRising (tput t k v) = true := by
  rw [keysRising_iff] at *
  induction t with
  | nil => simp [tput]
  | cons e r ih =>
    simp only [List.map_cons, List.pairwise_cons] at h
    simp only [tput]
    split
    · next hk =>
      simp only [List.map_cons, List.pairwise_cons]
      refine ⟨fun x hx => ?_, ih h.2⟩
      rcases mem_keys_tput r k v x hx with rfl | hx
      · exact hk
      · exact h.1 x hx
    · split
      · next hk => subst hk; simpa using h
      · next h1 h2 =>
        have hk : k < e.1 := by omega
        simp only [List.map_cons, List.pairwise_cons, List.mem_cons, forall_eq_or_imp]
        exact ⟨⟨hk, fun x hx => Nat.lt_trans hk (h.1 x hx)⟩, h⟩

end Sys2Proof.Machine.Laws
end

