-- ==== Sys2Proof/Laws/Registers.lean ====
section
/-! SUPPORT. The laws of the register file (R13 to R15): what a field reads after a write of it or of another, and that the
register file keeps its canonical form. -/
namespace Sys2Proof.Machine.Laws
open Sys2Proof

/-- A field read after it was written holds the value taken to its width. -/
@[simp] theorem rd_wr_same (s : State) (f : Fld) (v b i : Nat) : (s.wr f v b i).rd f b i = v % 2 ^ f.w := by
  simp only [State.rd, wr_regs]
  split
  · next h => simp [h]
  · simp

/-- A write of one field leaves every field of another place. -/
theorem rd_wr_other (s : State) (f g : Fld) (v b i b' i' : Nat) (h : f.key b i ≠ g.key b' i') :
    (s.wr f v b i).rd g b' i' = s.rd g b' i' := by
  simp only [State.rd, wr_regs]
  split
  · rw [tget?_tdel_other _ _ _ h]
  · rw [tget?_tput_other _ _ _ _ h]

/-- A register reads the same in two states with one register file. -/
theorem rd_congr {s t : State} (h : t.regs = s.regs) (f : Fld) (b i : Nat) : t.rd f b i = s.rd f b i := by
  simp [State.rd, h]

/-- A saturating counter stays at its field's highest value. -/
theorem rd_inc_same (s : State) (f : Fld) (n b i : Nat) :
    (s.inc f n b i).rd f b i = Nat.min (s.rd f b i + n) (2 ^ f.w - 1) := by
  have hp : 0 < 2 ^ f.w := Nat.two_pow_pos _
  have key : ∀ m x : Nat, capN m x = Nat.min x m := by
    intro m x
    by_cases h : m < x
    · simp [capN, h, Nat.min_eq_right (Nat.le_of_lt h)]
    · simp [capN, h, Nat.min_eq_left (Nat.le_of_not_lt h)]
  rw [State.inc, rd_wr_same, key]
  have : Nat.min (s.rd f b i + n) (2 ^ f.w - 1) ≤ 2 ^ f.w - 1 := Nat.min_le_right _ _
  exact Nat.mod_eq_of_lt (by omega)

/-- A write keeps the register file's keys rising. -/
theorem wr_regs_rising (s : State) (f : Fld) (v b i : Nat) (h : keysRising s.regs = true) : keysRising (s.wr f v b i).regs = true := by
  rw [wr_regs]
  split
  · exact keysRising_tdel _ _ h
  · exact keysRising_tput _ _ _ h

section
variable (s : State)
@[simp] theorem part_modPart_same (p : Nat) (f : PartState → PartState) : (s.modPart p f).part p = f (s.part p) := by
  simp [State.part, State.modPart]
theorem part_modPart_other (p q : Nat) (f : PartState → PartState) (h : p ≠ q) : (s.modPart p f).part q = s.part q := by
  simp [State.part, State.modPart, tgetD_tput_other _ _ _ _ _ h]
@[simp] theorem core_modCore_same (c : Nat) (f : CoreState → CoreState) : (s.modCore c f).core c = f (s.core c) := by
  simp [State.core, State.modCore]
theorem core_modCore_other (c d : Nat) (f : CoreState → CoreState) (h : c ≠ d) : (s.modCore c f).core d = s.core d := by
  simp [State.core, State.modCore, tgetD_tput_other _ _ _ _ _ h]
@[simp] theorem stack_modStack_same (n : Nat) (f : Stack → Stack) : (s.modStack n f).stack n = f (s.stack n) := by
  simp [State.stack, State.modStack]
@[simp] theorem port_modPort_same (q : Nat) (f : HPort → HPort) : (s.modPort q f).port q = f (s.port q) := by
  simp [State.port, State.modPort]
theorem port_modPort_other (q r : Nat) (f : HPort → HPort) (h : q ≠ r) : (s.modPort q f).port r = s.port r := by
  simp [State.port, State.modPort, tgetD_tput_other _ _ _ _ _ h]
@[simp] theorem nport_modNport_same (n : Nat) (f : NPort → NPort) : (s.modNport n f).nport n = f (s.nport n) := by
  simp [State.nport, State.modNport]
@[simp] theorem ring?_putRing_same (k : Nat) (r : Ring) : (s.putRing k r).ring? k = some r := by
  simp [State.ring?, State.putRing]
theorem ring?_putRing_other (k j : Nat) (r : Ring) (h : k ≠ j) : (s.putRing k r).ring? j = s.ring? j := by
  simp [State.ring?, State.putRing, tget?_tput_other _ _ _ _ h]
@[simp] theorem ring?_delRing_same (k : Nat) : (s.delRing k).ring? k = none := by simp [State.ring?, State.delRing]
end

end Sys2Proof.Machine.Laws
end

