-- ==== Sys2Proof/Laws/Memory.lean ====
section
/-! SUPPORT. The laws of the sparse memories: read after write, and that every memory operation keeps the canonical form. -/
namespace Sys2Proof.Machine.Laws
open Sys2Proof

/-- The canonical form: no listed zero, addresses strictly sorted. -/
theorem cellsWf_iff (m : List Host.Cell) :
    cellsWf m = true ↔ (∀ c ∈ m, c.2 ≠ 0) ∧ (m.map Prod.fst).Pairwise (· < ·) := by
  induction m with
  | nil => simp [cellsWf]
  | cons a r ih =>
    cases r with
    | nil => simp [cellsWf]
    | cons b q =>
      simp only [cellsWf, Bool.and_eq_true, decide_eq_true_eq, bne_iff_ne, ih, List.map_cons, List.pairwise_cons,
        List.mem_cons, forall_eq_or_imp]
      constructor
      · rintro ⟨⟨ha, hab⟩, ⟨hb, hq⟩, hbl, hp⟩
        exact ⟨⟨ha, hb, hq⟩, ⟨hab, fun x hx => Nat.lt_trans hab (hbl x hx)⟩, hbl, hp⟩
      · rintro ⟨⟨ha, hb, hq⟩, ⟨hab, _⟩, hbl, hp⟩
        exact ⟨⟨ha, hab⟩, ⟨hb, hq⟩, hbl, hp⟩

theorem cellGet_below (m : List Host.Cell) (a : Nat) (h : ∀ x ∈ m.map Prod.fst, a < x) : cellGet m a = 0 := by
  cases m with
  | nil => rfl
  | cons e r =>
    have := h e.1 (by simp)
    have hne : e.1 ≠ a := by omega
    simp [cellGet, hne, this]

/-- A byte read after it was written holds what was written. -/
theorem cellGet_cellPut_same (m : List Host.Cell) (a : Nat) (v : Byte) (h : cellsWf m = true) : cellGet (cellPut m a v) a = v := by
  rw [cellsWf_iff] at h
  induction m with
  | nil =>
    simp only [cellPut]
    split
    · next hv => rw [hv]; rfl
    · simp [cellGet]
  | cons e r ih =>
    have hp := h.2
    simp only [List.map_cons, List.pairwise_cons] at hp
    have hr := ih ⟨fun c hc => h.1 c (List.mem_cons_of_mem _ hc), hp.2⟩
    simp only [cellPut]
    split
    · next hlt =>
      have hne : e.1 ≠ a := by omega
      have hng : ¬ a < e.1 := by omega
      simp [cellGet, hne, hng, hr]
    · split
      · next heq =>
        subst heq
        split
        · next hv => subst hv; exact cellGet_below r _ hp.1
        · simp [cellGet]
      · next h1 h2 =>
        have hlt : a < e.1 := by omega
        have hne : e.1 ≠ a := by omega
        split
        · next hv => subst hv; simp [cellGet, hne, hlt]
        · simp [cellGet]

/-- A byte written leaves every other byte. -/
theorem cellGet_cellPut_other (m : List Host.Cell) (a b : Nat) (v : Byte) (h : cellsWf m = true) (hab : a ≠ b) :
    cellGet (cellPut m a v) b = cellGet m b := by
  rw [cellsWf_iff] at h
  induction m with
  | nil =>
    simp only [cellPut]
    split
    · rfl
    · simp [cellGet, hab]
  | cons e r ih =>
    have hp := h.2
    simp only [List.map_cons, List.pairwise_cons] at hp
    have hr := ih ⟨fun c hc => h.1 c (List.mem_cons_of_mem _ hc), hp.2⟩
    simp only [cellPut]
    split
    · simp only [cellGet, hr]
    · split
      · next heq =>
        subst heq
        have hb : b < e.1 → cellGet r b = 0 := fun hb => cellGet_below r b (fun x hx => Nat.lt_trans hb (hp.1 x hx))
        split
        · simp only [cellGet, hab, if_false]
          split
          · next hb' => exact hb hb'
          · rfl
        · simp only [cellGet, hab, if_false]
      · next h1 h2 =>
        split
        · rfl
        · simp only [cellGet, hab, if_false]
          split
          · next hb =>
            have hne : e.1 ≠ b := by omega
            have hlt : b < e.1 := by omega
            simp [hne, hlt]
          · rfl

theorem mem_keys_cellPut (m : List Host.Cell) (a : Nat) (v : Byte) (x : Nat) (h : x ∈ (cellPut m a v).map Prod.fst) :
    x = a ∨ x ∈ m.map Prod.fst := by
  induction m with
  | nil =>
    by_cases hv : v = 0
    · simp [cellPut, hv] at h
    · simp only [cellPut, hv, if_false, List.map_cons, List.map_nil, List.mem_singleton] at h
      exact .inl h
  | cons e r ih =>
    simp only [cellPut] at h
    split at h
    · simp only [List.map_cons, List.mem_cons] at h ⊢
      rcases h with h | h
      · exact .inr (.inl h)
      · exact (ih h).imp id .inr
    · split at h
      · next heq =>
        split at h
        · exact .inr (List.mem_cons_of_mem _ h)
        · simp only [List.map_cons, List.mem_cons] at h ⊢
          exact h.imp id .inr
      · split at h
        · exact .inr h
        · simp only [List.map_cons, List.mem_cons] at h ⊢
          exact h

/-- A byte written keeps the canonical form. -/
theorem cellsWf_cellPut (m : List Host.Cell) (a : Nat) (v : Byte) (h : cellsWf m = true) : cellsWf (cellPut m a v) = true := by
  rw [cellsWf_iff] at *
  induction m with
  | nil =>
    simp only [cellPut]
    split
    · simp
    · next hv => exact ⟨by simpa using hv, by simp⟩
  | cons e r ih =>
    have hp := h.2
    simp only [List.map_cons, List.pairwise_cons] at hp
    have he := h.1 e (by simp)
    have hr := ih ⟨fun c hc => h.1 c (List.mem_cons_of_mem _ hc), hp.2⟩
    simp only [cellPut]
    split
    · next hlt =>
      refine ⟨fun c hc => ?_, ?_⟩
      · rcases List.mem_cons.1 hc with rfl | hc
        · exact he
        · exact hr.1 c hc
      · simp only [List.map_cons, List.pairwise_cons]
        refine ⟨fun x hx => ?_, hr.2⟩
        rcases mem_keys_cellPut r a v x hx with rfl | hx
        · exact hlt
        · exact hp.1 x hx
    · split
      · next heq =>
        split
        · exact ⟨fun c hc => h.1 c (List.mem_cons_of_mem _ hc), hp.2⟩
        · next hv =>
          refine ⟨fun c hc => ?_, by simpa [heq] using hp⟩
          rcases List.mem_cons.1 hc with rfl | hc
          · exact hv
          · exact h.1 c (List.mem_cons_of_mem _ hc)
      · next h1 h2 =>
        have hlt : a < e.1 := by omega
        split
        · exact h
        · next hv =>
          refine ⟨fun c hc => ?_, ?_⟩
          · rcases List.mem_cons.1 hc with rfl | hc
            · exact hv
            · exact h.1 c hc
          · simp only [List.map_cons, List.pairwise_cons, List.mem_cons, forall_eq_or_imp]
            exact ⟨⟨hlt, fun x hx => Nat.lt_trans hlt (hp.1 x hx)⟩, hp⟩

/-- Bytes written keep the canonical form. -/
theorem cellsWf_cellsWrite (bs : List Byte) (m : List Host.Cell) (a : Nat) (h : cellsWf m = true) : cellsWf (cellsWrite m a bs) = true := by
  induction bs generalizing m a with
  | nil => exact h
  | cons b bs ih => exact ih _ _ (cellsWf_cellPut m a b h)

/-- Cells taken out keep the canonical form. -/
theorem cellsWf_filter (m : List Host.Cell) (f : Host.Cell → Bool) (h : cellsWf m = true) : cellsWf (m.filter f) = true := by
  rw [cellsWf_iff] at *
  exact ⟨fun c hc => h.1 c (List.mem_of_mem_filter hc), h.2.sublist (List.Sublist.map _ List.filter_sublist)⟩

/-- Bytes written leave every byte outside them. -/
theorem cellGet_cellsWrite_other (bs : List Byte) (m : List Host.Cell) (a b : Nat) (h : cellsWf m = true)
    (hb : b < a ∨ a + bs.length ≤ b) : cellGet (cellsWrite m a bs) b = cellGet m b := by
  induction bs generalizing m a with
  | nil => rfl
  | cons c bs ih =>
    simp only [List.length_cons] at hb
    rw [cellsWrite, ih _ _ (cellsWf_cellPut m a c h) (by omega), cellGet_cellPut_other m a b c h (by omega)]

/-- Bytes read back after they were written are the bytes written. -/
theorem cellGet_cellsWrite_same (bs : List Byte) (m : List Host.Cell) (a i : Nat) (h : cellsWf m = true) (hi : i < bs.length) :
    cellGet (cellsWrite m a bs) (a + i) = bs[i] := by
  induction bs generalizing m a i with
  | nil => simp at hi
  | cons c bs ih =>
    have hw := cellsWf_cellPut m a c h
    cases i with
    | zero =>
      show cellGet (cellsWrite (cellPut m a c) (a + 1) bs) a = c
      rw [cellGet_cellsWrite_other bs _ _ _ hw (by omega), cellGet_cellPut_same m a c h]
    | succ n =>
      simp only [List.length_cons] at hi
      have := ih (cellPut m a c) (a + 1) n hw (by omega)
      rw [cellsWrite, show a + (n + 1) = a + 1 + n by omega, this]
      rfl

/-- The parts of a sound state. -/
theorem wf_iff (s : State) :
    s.wf = true ↔ cellsWf s.mem.dram = true ∧ cellsWf s.host.mem = true ∧ keysRising s.regs = true := by
  simp [State.wf, Memory.wf, and_assoc]

/-- Only the two memories and the register file bear on soundness. -/
theorem wf_congr {s t : State} (hd : t.mem.dram = s.mem.dram) (hh : t.host.mem = s.host.mem) (hr : t.regs = s.regs)
    (h : s.wf = true) : t.wf = true := by
  rw [wf_iff] at *
  rw [hd, hh, hr]
  exact h

theorem wf_wr (s : State) (f : Fld) (v b i : Nat) (h : s.wf = true) : (s.wr f v b i).wf = true := by
  rw [wf_iff] at *
  exact ⟨h.1, h.2.1, wr_regs_rising s f v b i h.2.2⟩

theorem wf_hostWrite (s : State) (q a : Nat) (bs : List Byte) (h : s.wf = true) : (s.hostWrite q a bs).wf = true := by
  rw [wf_iff] at *
  exact ⟨h.1, cellsWf_cellsWrite bs _ _ h.2.1, h.2.2⟩

theorem wf_stackPut (s : State) (line : Nat) (d : List Byte) (h : s.wf = true) : (s.stackPut line d).wf = true := by
  rw [wf_iff] at *
  exact ⟨cellsWf_cellsWrite d _ _ h.1, h.2.1, h.2.2⟩

/-- Fresh codewords change no byte of memory. -/
theorem wf_clearErrs (s : State) (bursts : List Nat) (h : s.wf = true) : (s.clearErrs bursts).wf = true := by
  unfold State.clearErrs
  split
  · exact h
  · exact wf_congr rfl rfl rfl h

theorem wf_stackStore (s : State) (line : Nat) (d : List Byte) (h : s.wf = true) : (s.stackStore line d).wf = true :=
  wf_clearErrs _ _ (wf_stackPut s line d h)

theorem wf_stackScrub (s : State) (pick : Nat → Bool) (h : s.wf = true) : (s.stackScrub pick).wf = true := by
  rw [wf_iff] at *
  exact ⟨cellsWf_filter _ _ h.1, h.2.1, h.2.2⟩

/-- Reset's tables are in their canonical form. -/
theorem wf_reset_memory : Memory.wf State.reset.mem.dram = true ∧ Memory.wf State.reset.host.mem = true := ⟨rfl, rfl⟩

/-- A host write leaves every byte outside it. -/
theorem hostWrite_other (s : State) (q a b : Nat) (bs : List Byte) (h : cellsWf s.host.mem = true)
    (hb : b < hostAddr q a ∨ hostAddr q a + bs.length ≤ b) :
    cellGet (s.hostWrite q a bs).host.mem b = cellGet s.host.mem b :=
  cellGet_cellsWrite_other bs _ _ _ h hb

end Sys2Proof.Machine.Laws
end

