-- ==== Sys2Proof/Laws/Records.lean ====
section
/-! SUPPORT. What the delivery of records can change (R514, R525): the host side and the counters of the host ports, nothing else;
and what a flush leaves on its way. -/
namespace Sys2Proof.Machine.Laws
open Sys2Proof

@[simp] theorem msixSend_pending (s : State) (q v : Nat) : (s.msixSend q v).pending = s.pending := by
  unfold State.msixSend; dsimp only; split <;> simp
@[simp] theorem msixSend_freeCtr (s : State) (q v : Nat) : (s.msixSend q v).freeCtr = s.freeCtr := by
  unfold State.msixSend; dsimp only; split <;> simp
@[simp] theorem msixSend_latches (s : State) (q v : Nat) : (s.msixSend q v).latches = s.latches := by
  unfold State.msixSend; dsimp only; split <;> simp
@[simp] theorem msixSend_out (s : State) (q v : Nat) : (s.msixSend q v).out = s.out := by
  unfold State.msixSend; dsimp only; split <;> simp
@[simp] theorem msixSend_time (s : State) (q v : Nat) : (s.msixSend q v).time = s.time := by
  unfold State.msixSend; dsimp only; split <;> simp
@[simp] theorem msixSend_queues (s : State) (q v : Nat) : (s.msixSend q v).queues = s.queues := by
  unfold State.msixSend; dsimp only; split <;> simp
@[simp] theorem msixSend_parts (s : State) (q v : Nat) : (s.msixSend q v).parts = s.parts := by
  unfold State.msixSend; dsimp only; split <;> simp
@[simp] theorem msixSend_cores (s : State) (q v : Nat) : (s.msixSend q v).cores = s.cores := by
  unfold State.msixSend; dsimp only; split <;> simp
@[simp] theorem msixSend_mem (s : State) (q v : Nat) : (s.msixSend q v).mem = s.mem := by
  unfold State.msixSend; dsimp only; split <;> simp
@[simp] theorem msixSend_tiers (s : State) (q v : Nat) : (s.msixSend q v).tiers = s.tiers := by
  unfold State.msixSend; dsimp only; split <;> simp
@[simp] theorem msixSend_routers (s : State) (q v : Nat) : (s.msixSend q v).routers = s.routers := by
  unfold State.msixSend; dsimp only; split <;> simp
@[simp] theorem msixSend_net (s : State) (q v : Nat) : (s.msixSend q v).net = s.net := by
  unfold State.msixSend; dsimp only; split <;> simp
@[simp] theorem msixSend_mgmt (s : State) (q v : Nat) : (s.msixSend q v).mgmt = s.mgmt := by
  unfold State.msixSend; dsimp only; split <;> simp
@[simp] theorem msixSend_power (s : State) (q v : Nat) : (s.msixSend q v).power = s.power := by
  unfold State.msixSend; dsimp only; split <;> simp
@[simp] theorem msixSend_rst (s : State) (q v : Nat) : (s.msixSend q v).rst = s.rst := by
  unfold State.msixSend; dsimp only; split <;> simp

@[simp] theorem writeRec_pending (s : State) (k : Nat) (r : Ring) (x : Rec) : (s.writeRec k r x).pending = s.pending := by
  unfold State.writeRec; dsimp only; repeat' split
  all_goals simp
@[simp] theorem writeRec_freeCtr (s : State) (k : Nat) (r : Ring) (x : Rec) : (s.writeRec k r x).freeCtr = s.freeCtr := by
  unfold State.writeRec; dsimp only; repeat' split
  all_goals simp
@[simp] theorem writeRec_latches (s : State) (k : Nat) (r : Ring) (x : Rec) : (s.writeRec k r x).latches = s.latches := by
  unfold State.writeRec; dsimp only; repeat' split
  all_goals simp
@[simp] theorem writeRec_out (s : State) (k : Nat) (r : Ring) (x : Rec) : (s.writeRec k r x).out = s.out := by
  unfold State.writeRec; dsimp only; repeat' split
  all_goals simp
@[simp] theorem writeRec_time (s : State) (k : Nat) (r : Ring) (x : Rec) : (s.writeRec k r x).time = s.time := by
  unfold State.writeRec; dsimp only; repeat' split
  all_goals simp
@[simp] theorem writeRec_queues (s : State) (k : Nat) (r : Ring) (x : Rec) : (s.writeRec k r x).queues = s.queues := by
  unfold State.writeRec; dsimp only; repeat' split
  all_goals simp
@[simp] theorem writeRec_parts (s : State) (k : Nat) (r : Ring) (x : Rec) : (s.writeRec k r x).parts = s.parts := by
  unfold State.writeRec; dsimp only; repeat' split
  all_goals simp
@[simp] theorem writeRec_cores (s : State) (k : Nat) (r : Ring) (x : Rec) : (s.writeRec k r x).cores = s.cores := by
  unfold State.writeRec; dsimp only; repeat' split
  all_goals simp
@[simp] theorem writeRec_mem (s : State) (k : Nat) (r : Ring) (x : Rec) : (s.writeRec k r x).mem = s.mem := by
  unfold State.writeRec; dsimp only; repeat' split
  all_goals simp
@[simp] theorem writeRec_tiers (s : State) (k : Nat) (r : Ring) (x : Rec) : (s.writeRec k r x).tiers = s.tiers := by
  unfold State.writeRec; dsimp only; repeat' split
  all_goals simp
@[simp] theorem writeRec_routers (s : State) (k : Nat) (r : Ring) (x : Rec) : (s.writeRec k r x).routers = s.routers := by
  unfold State.writeRec; dsimp only; repeat' split
  all_goals simp
@[simp] theorem writeRec_net (s : State) (k : Nat) (r : Ring) (x : Rec) : (s.writeRec k r x).net = s.net := by
  unfold State.writeRec; dsimp only; repeat' split
  all_goals simp
@[simp] theorem writeRec_mgmt (s : State) (k : Nat) (r : Ring) (x : Rec) : (s.writeRec k r x).mgmt = s.mgmt := by
  unfold State.writeRec; dsimp only; repeat' split
  all_goals simp
@[simp] theorem writeRec_power (s : State) (k : Nat) (r : Ring) (x : Rec) : (s.writeRec k r x).power = s.power := by
  unfold State.writeRec; dsimp only; repeat' split
  all_goals simp
@[simp] theorem writeRec_rst (s : State) (k : Nat) (r : Ring) (x : Rec) : (s.writeRec k r x).rst = s.rst := by
  unfold State.writeRec; dsimp only; repeat' split
  all_goals simp

@[simp] theorem toBacklog_pending (s : State) (q : Nat) (o : OutRec) : (s.toBacklog q o).pending = s.pending := by
  unfold State.toBacklog; dsimp only; split <;> simp
@[simp] theorem toBacklog_freeCtr (s : State) (q : Nat) (o : OutRec) : (s.toBacklog q o).freeCtr = s.freeCtr := by
  unfold State.toBacklog; dsimp only; split <;> simp
@[simp] theorem toBacklog_latches (s : State) (q : Nat) (o : OutRec) : (s.toBacklog q o).latches = s.latches := by
  unfold State.toBacklog; dsimp only; split <;> simp
@[simp] theorem toBacklog_out (s : State) (q : Nat) (o : OutRec) : (s.toBacklog q o).out = s.out := by
  unfold State.toBacklog; dsimp only; split <;> simp
@[simp] theorem toBacklog_time (s : State) (q : Nat) (o : OutRec) : (s.toBacklog q o).time = s.time := by
  unfold State.toBacklog; dsimp only; split <;> simp
@[simp] theorem toBacklog_queues (s : State) (q : Nat) (o : OutRec) : (s.toBacklog q o).queues = s.queues := by
  unfold State.toBacklog; dsimp only; split <;> simp
@[simp] theorem toBacklog_parts (s : State) (q : Nat) (o : OutRec) : (s.toBacklog q o).parts = s.parts := by
  unfold State.toBacklog; dsimp only; split <;> simp
@[simp] theorem toBacklog_cores (s : State) (q : Nat) (o : OutRec) : (s.toBacklog q o).cores = s.cores := by
  unfold State.toBacklog; dsimp only; split <;> simp
@[simp] theorem toBacklog_mem (s : State) (q : Nat) (o : OutRec) : (s.toBacklog q o).mem = s.mem := by
  unfold State.toBacklog; dsimp only; split <;> simp
@[simp] theorem toBacklog_tiers (s : State) (q : Nat) (o : OutRec) : (s.toBacklog q o).tiers = s.tiers := by
  unfold State.toBacklog; dsimp only; split <;> simp
@[simp] theorem toBacklog_routers (s : State) (q : Nat) (o : OutRec) : (s.toBacklog q o).routers = s.routers := by
  unfold State.toBacklog; dsimp only; split <;> simp
@[simp] theorem toBacklog_net (s : State) (q : Nat) (o : OutRec) : (s.toBacklog q o).net = s.net := by
  unfold State.toBacklog; dsimp only; split <;> simp
@[simp] theorem toBacklog_mgmt (s : State) (q : Nat) (o : OutRec) : (s.toBacklog q o).mgmt = s.mgmt := by
  unfold State.toBacklog; dsimp only; split <;> simp
@[simp] theorem toBacklog_power (s : State) (q : Nat) (o : OutRec) : (s.toBacklog q o).power = s.power := by
  unfold State.toBacklog; dsimp only; split <;> simp
@[simp] theorem toBacklog_rst (s : State) (q : Nat) (o : OutRec) : (s.toBacklog q o).rst = s.rst := by
  unfold State.toBacklog; dsimp only; split <;> simp

@[simp] theorem deliver_pending (s : State) (o : OutRec) : (s.deliver o).pending = s.pending := by
  unfold State.deliver; dsimp only; repeat' split
  all_goals simp
@[simp] theorem deliver_freeCtr (s : State) (o : OutRec) : (s.deliver o).freeCtr = s.freeCtr := by
  unfold State.deliver; dsimp only; repeat' split
  all_goals simp
@[simp] theorem deliver_latches (s : State) (o : OutRec) : (s.deliver o).latches = s.latches := by
  unfold State.deliver; dsimp only; repeat' split
  all_goals simp
@[simp] theorem deliver_out (s : State) (o : OutRec) : (s.deliver o).out = s.out := by
  unfold State.deliver; dsimp only; repeat' split
  all_goals simp
@[simp] theorem deliver_time (s : State) (o : OutRec) : (s.deliver o).time = s.time := by
  unfold State.deliver; dsimp only; repeat' split
  all_goals simp
@[simp] theorem deliver_queues (s : State) (o : OutRec) : (s.deliver o).queues = s.queues := by
  unfold State.deliver; dsimp only; repeat' split
  all_goals simp
@[simp] theorem deliver_parts (s : State) (o : OutRec) : (s.deliver o).parts = s.parts := by
  unfold State.deliver; dsimp only; repeat' split
  all_goals simp
@[simp] theorem deliver_cores (s : State) (o : OutRec) : (s.deliver o).cores = s.cores := by
  unfold State.deliver; dsimp only; repeat' split
  all_goals simp
@[simp] theorem deliver_mem (s : State) (o : OutRec) : (s.deliver o).mem = s.mem := by
  unfold State.deliver; dsimp only; repeat' split
  all_goals simp
@[simp] theorem deliver_tiers (s : State) (o : OutRec) : (s.deliver o).tiers = s.tiers := by
  unfold State.deliver; dsimp only; repeat' split
  all_goals simp
@[simp] theorem deliver_routers (s : State) (o : OutRec) : (s.deliver o).routers = s.routers := by
  unfold State.deliver; dsimp only; repeat' split
  all_goals simp
@[simp] theorem deliver_net (s : State) (o : OutRec) : (s.deliver o).net = s.net := by
  unfold State.deliver; dsimp only; repeat' split
  all_goals simp
@[simp] theorem deliver_mgmt (s : State) (o : OutRec) : (s.deliver o).mgmt = s.mgmt := by
  unfold State.deliver; dsimp only; repeat' split
  all_goals simp
@[simp] theorem deliver_power (s : State) (o : OutRec) : (s.deliver o).power = s.power := by
  unfold State.deliver; dsimp only; repeat' split
  all_goals simp
@[simp] theorem deliver_rst (s : State) (o : OutRec) : (s.deliver o).rst = s.rst := by
  unfold State.deliver; dsimp only; repeat' split
  all_goals simp

@[simp] theorem delivers_pending (l : List OutRec) (s : State) : (l.foldl State.deliver s).pending = s.pending := by
  induction l generalizing s with
  | nil => rfl
  | cons o l ih => rw [List.foldl_cons, ih, deliver_pending]
@[simp] theorem flush_pending (s : State) : s.flush.pending = s.pending := by
  unfold State.flush; split <;> simp
@[simp] theorem delivers_freeCtr (l : List OutRec) (s : State) : (l.foldl State.deliver s).freeCtr = s.freeCtr := by
  induction l generalizing s with
  | nil => rfl
  | cons o l ih => rw [List.foldl_cons, ih, deliver_freeCtr]
@[simp] theorem flush_freeCtr (s : State) : s.flush.freeCtr = s.freeCtr := by
  unfold State.flush; split <;> simp
@[simp] theorem delivers_latches (l : List OutRec) (s : State) : (l.foldl State.deliver s).latches = s.latches := by
  induction l generalizing s with
  | nil => rfl
  | cons o l ih => rw [List.foldl_cons, ih, deliver_latches]
@[simp] theorem flush_latches (s : State) : s.flush.latches = s.latches := by
  unfold State.flush; split <;> simp
@[simp] theorem delivers_time (l : List OutRec) (s : State) : (l.foldl State.deliver s).time = s.time := by
  induction l generalizing s with
  | nil => rfl
  | cons o l ih => rw [List.foldl_cons, ih, deliver_time]
@[simp] theorem flush_time (s : State) : s.flush.time = s.time := by
  unfold State.flush; split <;> simp
@[simp] theorem delivers_queues (l : List OutRec) (s : State) : (l.foldl State.deliver s).queues = s.queues := by
  induction l generalizing s with
  | nil => rfl
  | cons o l ih => rw [List.foldl_cons, ih, deliver_queues]
@[simp] theorem flush_queues (s : State) : s.flush.queues = s.queues := by
  unfold State.flush; split <;> simp
@[simp] theorem delivers_parts (l : List OutRec) (s : State) : (l.foldl State.deliver s).parts = s.parts := by
  induction l generalizing s with
  | nil => rfl
  | cons o l ih => rw [List.foldl_cons, ih, deliver_parts]
@[simp] theorem flush_parts (s : State) : s.flush.parts = s.parts := by
  unfold State.flush; split <;> simp
@[simp] theorem delivers_cores (l : List OutRec) (s : State) : (l.foldl State.deliver s).cores = s.cores := by
  induction l generalizing s with
  | nil => rfl
  | cons o l ih => rw [List.foldl_cons, ih, deliver_cores]
@[simp] theorem flush_cores (s : State) : s.flush.cores = s.cores := by
  unfold State.flush; split <;> simp
@[simp] theorem delivers_mem (l : List OutRec) (s : State) : (l.foldl State.deliver s).mem = s.mem := by
  induction l generalizing s with
  | nil => rfl
  | cons o l ih => rw [List.foldl_cons, ih, deliver_mem]
@[simp] theorem flush_mem (s : State) : s.flush.mem = s.mem := by
  unfold State.flush; split <;> simp
@[simp] theorem delivers_tiers (l : List OutRec) (s : State) : (l.foldl State.deliver s).tiers = s.tiers := by
  induction l generalizing s with
  | nil => rfl
  | cons o l ih => rw [List.foldl_cons, ih, deliver_tiers]
@[simp] theorem flush_tiers (s : State) : s.flush.tiers = s.tiers := by
  unfold State.flush; split <;> simp
@[simp] theorem delivers_routers (l : List OutRec) (s : State) : (l.foldl State.deliver s).routers = s.routers := by
  induction l generalizing s with
  | nil => rfl
  | cons o l ih => rw [List.foldl_cons, ih, deliver_routers]
@[simp] theorem flush_routers (s : State) : s.flush.routers = s.routers := by
  unfold State.flush; split <;> simp
@[simp] theorem delivers_net (l : List OutRec) (s : State) : (l.foldl State.deliver s).net = s.net := by
  induction l generalizing s with
  | nil => rfl
  | cons o l ih => rw [List.foldl_cons, ih, deliver_net]
@[simp] theorem flush_net (s : State) : s.flush.net = s.net := by
  unfold State.flush; split <;> simp
@[simp] theorem delivers_mgmt (l : List OutRec) (s : State) : (l.foldl State.deliver s).mgmt = s.mgmt := by
  induction l generalizing s with
  | nil => rfl
  | cons o l ih => rw [List.foldl_cons, ih, deliver_mgmt]
@[simp] theorem flush_mgmt (s : State) : s.flush.mgmt = s.mgmt := by
  unfold State.flush; split <;> simp
@[simp] theorem delivers_power (l : List OutRec) (s : State) : (l.foldl State.deliver s).power = s.power := by
  induction l generalizing s with
  | nil => rfl
  | cons o l ih => rw [List.foldl_cons, ih, deliver_power]
@[simp] theorem flush_power (s : State) : s.flush.power = s.power := by
  unfold State.flush; split <;> simp
@[simp] theorem delivers_rst (l : List OutRec) (s : State) : (l.foldl State.deliver s).rst = s.rst := by
  induction l generalizing s with
  | nil => rfl
  | cons o l ih => rw [List.foldl_cons, ih, deliver_rst]
@[simp] theorem flush_rst (s : State) : s.flush.rst = s.rst := by
  unfold State.flush; split <;> simp
theorem delivers_out (l : List OutRec) (s : State) : (l.foldl State.deliver s).out = s.out := by
  induction l generalizing s with
  | nil => rfl
  | cons o l ih => rw [List.foldl_cons, ih, deliver_out]

/-- After a flush with the host domain released no record is on its way; before, every one still is. -/
theorem flush_out (s : State) : s.flush.out = if s.rst.stage < 4 then s.out else [] := by
  unfold State.flush
  split
  · rfl
  · rw [delivers_out]

@[simp] theorem ring?_msixSend (s : State) (q v k : Nat) : (s.msixSend q v).ring? k = s.ring? k := by
  unfold State.msixSend
  dsimp only
  split <;> simp
@[simp] theorem msixDue_hostWrite (s : State) (q a p n : Nat) (r : Ring) (bs : List Byte) :
    (s.hostWrite q a bs).msixDue p r n = s.msixDue p r n := rfl

/-- A record written into a ring raises CQ_TAIL by one, and counts from the last message on (R514, R526). -/
theorem writeRec_ring (s : State) (k : Nat) (r : Ring) (x : Rec) :
    (s.writeRec k r x).ring? k = some { r with
      cqTail := r.cqTail + 1, sinceMsg := if s.msixDue (s.keyPort k) r (r.sinceMsg + 1) then 0 else r.sinceMsg + 1 } := by
  unfold State.writeRec
  dsimp only
  by_cases h1 : recPayload x = [] <;> by_cases h2 : x.isCpl = true <;> cases h3 : s.msixDue (s.keyPort k) r (r.sinceMsg + 1) <;>
    simp [h1, h2, h3]

/-- The register file stays in its canonical form, and so do the memories, through a delivery. -/
theorem wf_msixSend (s : State) (q v : Nat) (h : s.wf = true) : (s.msixSend q v).wf = true := by
  unfold State.msixSend
  dsimp only
  split
  · exact wf_congr rfl rfl rfl h
  · exact wf_wr _ _ _ _ _ h

theorem wf_writeRec (s : State) (k : Nat) (r : Ring) (x : Rec) (h : s.wf = true) : (s.writeRec k r x).wf = true := by
  unfold State.writeRec
  dsimp only
  have h1 := wf_hostWrite s (s.keyPort k) (r.cqBase + r.cqTail % 2 ^ r.log * 32) (recBytes r.cqTail (2 ^ r.log) x) h
  have hif : ∀ (c : Prop) [Decidable c] (t u : State), t.wf = true → u.wf = true → (if c then t else u).wf = true := by
    intro c _ t u h1 h2
    split <;> assumption
  have h2 := hif (recPayload x = []) _ _ h1 (wf_hostWrite _ (s.keyPort k) (r.pay + r.cqTail % 2 ^ r.log * 256) (recPayload x) h1)
  have h3 := wf_hostWrite _ (s.keyPort k) (r.cb + 72) (leBytes 8 (r.cqTail + 1)) h2
  refine hif _ _ _ (wf_msixSend _ _ _ ?_) ?_ <;>
  · refine wf_congr (s := ite _ _ _) rfl rfl rfl (hif _ _ _ (wf_wr _ _ _ _ _ ?_) ?_) <;> exact wf_congr rfl rfl rfl h3

theorem wf_toBacklog (s : State) (q : Nat) (o : OutRec) (h : s.wf = true) : (s.toBacklog q o).wf = true := by
  unfold State.toBacklog
  dsimp only
  split
  · exact wf_wr _ _ _ _ _ (wf_congr rfl rfl rfl h)
  · exact wf_wr _ _ _ _ _ (wf_congr rfl rfl rfl h)

theorem wf_deliver (s : State) (o : OutRec) (h : s.wf = true) : (s.deliver o).wf = true := by
  unfold State.deliver
  dsimp only
  repeat' split
  all_goals first | exact wf_writeRec _ _ _ _ h | exact wf_toBacklog _ _ _ h

theorem wf_flush (s : State) (h : s.wf = true) : s.flush.wf = true := by
  unfold State.flush
  split
  · exact h
  · generalize s.out = l
    have : ({ s with out := [] } : State).wf = true := wf_congr rfl rfl rfl h
    revert this
    generalize ({ s with out := [] } : State) = t
    intro ht
    induction l generalizing t with
    | nil => exact ht
    | cons o l ih => exact ih _ (wf_deliver _ _ ht)

end Sys2Proof.Machine.Laws
end

