-- ==== Sys2Proof/Tests/Slice0.lean ====
section
/-! SUPPORT. Tests: a term each check of WellFormed refuses, and, for the statements, states and operands that meet their hypotheses
(a statement's clause is named by the theorem's docstring). -/
set_option maxRecDepth 20000
set_option Elab.async false
namespace Sys2Proof.Tests
open Sys2Proof Sys2Proof.Machine

/-! ## Terms that are not well formed -/

/-- A meter that read nothing. -/
def meter0 : Meter := { ein := 0, qin := 0, peak := 0, rails := List.replicate 8 0, rows := [], acts := [], stalls := [] }

/-- A tier message header and a Gnoxel header of zeros. -/
def tier0 : TierHdr := ⟨0, 0, 0, 0, 0, 0⟩

theorem test_wf_meter_rails : (Instr.tickBoundary 0 { meter0 with rails := [] }).wf = false ∧ (Instr.tickBoundary 0 meter0).wf = true := by decide
theorem test_wf_meter_parts : (Instr.tickBoundary 0 { meter0 with stalls := [(0, ⟨0, 0, 0, 0⟩), (0, ⟨0, 0, 0, 0⟩)] }).wf = false := by decide
theorem test_wf_register_write : (Instr.registerWrite 0 2 3 0).wf = false ∧ (Instr.registerWrite 0 0 4 0).wf = true := by decide
theorem test_wf_register_read : (Instr.registerRead 0 0 0).wf = false ∧ (Instr.registerRead 0 3 1).wf = true := by decide
theorem test_wf_crossing_read : (Instr.bar0CrossingRead 0 0 3).wf = false ∧ (Instr.bar0CrossingRead 0 3 1).wf = true := by decide
theorem test_wf_sensor_read : (Instr.sensorRead [] 0 0).wf = false := by decide
theorem test_wf_calibration : (Instr.calibrationWrite 0 [.sense []]).wf = false ∧ (Instr.calibrationWrite 0 [.coeffs (List.replicate 17 0)]).wf = true :=
  by decide
theorem test_wf_firmware : (Instr.firmwareLoad 0 { sigOk := true, svn := 0, major := 1, minor := 0, build := 0, stages := [0] }).wf = false := by
  decide
theorem test_wf_line_request : (Instr.mereRequest 0 none 0 0 0 [1] false 0 []).wf = false := by decide
theorem test_wf_scrub_read : (Instr.patrolScrubRead 0 { words := [], transient := false }).wf = false := by decide
theorem test_wf_mbist : (Instr.mbist 0 1 0 []).wf = false := by decide
theorem test_wf_bypass : (Instr.bypass 0 3).wf = false ∧ (Instr.bypass 0 7).wf = true := by decide
theorem test_wf_granule : (Instr.granuleReadComplete 0 0 0 [1]).wf = false := by decide
theorem test_wf_tier_read_data : (Instr.tierReadDataRx 0 tier0 [1]).wf = false ∧ (Instr.tierReadDataRx 0 tier0 []).wf = true := by decide
theorem test_wf_tier_write : (Instr.tierWriteRx 0 { tier0 with length := 2 } [1]).wf = false := by decide
theorem test_wf_data (h : GnxHdr) (e : h.plen = 1) : (Instr.dataRx h []).wf = false := by simp [Instr.wf, e]
theorem test_wf_bar2_write : (Instr.bar2Write 0 0 []).wf = false ∧ (Instr.bar2Write 0 0 [1]).wf = true := by decide
theorem test_wf_ports : (Instr.setUpPortSettings 0 ⟨none, none, none, [(0, 1), (0, 2)], none⟩).wf = false := by decide

/-! ## Small states -/

/-- Partition 0 sealed at port 0 with an attached driver, its ring 0 bound, 1 GiB of its own mapped at PVA 0 for reads and writes. -/
def live : State :=
  let s := (((((State.reset.wr F.idMsealed 1).wr F.pPstate 2 0).wr F.hpAttached 1 0).wr F.hpHifAgreed 0x12 0).wr F.pExtLen 1 0 0).setPsealed 0 true
  let s := (s.wr F.pCgrpL 1 0).modPart 0 (fun p => { p with rt := [(0, ⟨0, 3, 0, 0, 512, 0⟩)] })
  s.newRing (pairKey 0 0) 6 0 0 0 0 0 false 1 0

/-- A descriptor of ring 0 of partition 0 with the body given, field by field from bit 0. -/
def dsc (body : Nat) : Desc := ⟨0, 0, 0x10, false, 7, 9, BitVec.ofNat 384 body⟩

/-- Bytes put where partition 0 reads them. -/
def poke (s : State) (pva : Nat) (bs : List Byte) : State := (s.writePva (s.engCtx 0 engDesc) pva bs false).2

/-- Whether descriptor d starts at once, and what follows holds of its reference and state. -/
def startsB (s : State) (op : Nat) (d : Desc) (k : DRef → State → Bool) : Bool :=
  match s.consume op d with
  | none => false
  | some (r, u) => !u.verBad d && !u.fenceWaits r d && u.memStart r.part op && u.tiers.asking.isNone && k r (u.asks (.desc r))

/-- A descriptor that startsB accepts starts in the statements' sense. -/
theorem startsB_sound {s : State} {op : Nat} {d : Desc} {k : DRef → State → Bool} (h : startsB s op d k = true) :
    ∃ r t, s.starts op d r t ∧ k r t = true := by
  unfold startsB at h
  split at h
  · cases h
  · next r u e =>
    simp only [Bool.and_eq_true, Bool.not_eq_true', Option.isNone_iff_eq_none] at h
    exact ⟨r, u.asks (.desc r), ⟨u, e, h.1.1.1.1, h.1.1.1.2, h.1.1.2, h.1.2, rfl⟩, h.2⟩

/-- Whether what a descriptor has made lacks no granule. -/
def handB (y : State) (r : DRef) : Bool := !y.demandWaits (.desc r)

theorem handB_sound {y : State} {r : DRef} (h : handB y r = true) : y.atHand (.desc r) := by
  simpa [handB, State.atHand] using h

/-- A descriptor that starts at once and whose meaning lacks no granule. -/
def startsRun (s : State) (op : Nat) (d : Desc) (run : DRef → Desc → State → State) (k : DRef → State → Bool) : Bool :=
  startsB s op d (fun r t => handB (run r d t) r && k r t)

/-! ## 01: the queue, consumption, completion -/

/-- StepRunsTheFrontCommand: a queue with a command in front, and an empty one. -/
theorem test_step_front : ({ State.reset with pending := [.perstRelease 0] } : State).pending = [.perstRelease 0] ∧ State.reset.pending = [] := by decide
/-- StepKeepsRecordsPlaced. -/
theorem test_placed_step : State.reset.recordsPlaced ∧ ∃ t, step State.reset = .next t := ⟨fun _ => rfl, State.reset, rfl⟩
/-- RegisterFieldsHoldWhatIsWritten: two places that differ. -/
theorem test_field_places : F.pPstate.key 0 0 ≠ F.pGen.key 0 0 := by decide
/-- ConsumptionMovesTheRing, UndefinedVersionEndsAsNoop: a descriptor that starts, one of a version not agreed, and none to consume. -/
theorem test_consume : startsB live 0x10 (dsc 0) (fun _ _ => true) = true := by decide +kernel
theorem test_consume_none : State.reset.consume 0x10 (dsc 0) = none := by decide +kernel
theorem test_bad_version : (match live.consume 0x10 { dsc 0 with ver := 0x0F } with
  | some (_, t) => decide ((dsc 0).ver.toNat = 0x10) && t.verBad { dsc 0 with ver := 0x13 } && !t.verBad { dsc 0 with ver := 0x12 }
  | none => false) = true := by decide +kernel
/-- A FENCE that holds: an earlier descriptor of the ring is outstanding. -/
theorem test_fence_waits : startsB live 0x10 (dsc 0) (fun r t => match t.consume 0x10 { dsc 0 with fence := true } with
  | some (r', t') => !t'.verBad (dsc 0) && t'.fenceWaits r' { dsc 0 with fence := true } && (t'.ring? (pairKey r.part r.ring)).isSome
  | none => false) = true := by decide +kernel
/-- CompletionIsWrittenOnce: a descriptor owed, and one that is not. -/
theorem test_owed : startsB live 0x10 (dsc 0) (fun r t => (t.owed? r).isSome && ((t.done r).owed? r).isNone) = true := by decide +kernel

/-! ## 02: the time unit, the queues, the tick boundary -/

/-- TimeUnitCommands, clause by clause. -/
theorem test_time_unit : (State.reset.wr F.cadState 2).rd F.cadState = 2 ∧
    (({ State.reset with time := { State.reset.time with hasMaster := true } } : State).wr F.cadState 1).rd F.cadState = 1 ∧
    ((State.reset.wr F.cadPpsEn 1).rd F.cadPpsEn = 1 ∧ (State.reset.wr F.cadPpsEn 1).time.hasMaster = false) ∧
    ((State.reset.wr F.npLink 1 0).wr F.cadPortNow 0).rd F.cadPortNow = 0 ∧ ((State.reset.wr F.npLink 1 0).wr F.cadPortNow 0).rd F.npLink 0 = 1 ∧
    (let s := (State.reset.wr F.cadPtpAlt 1).wr F.cadPortNow 0;
      s.rd F.cadPortNow = s.rd F.cadPtpPort ∧ s.rd F.cadPortNow ≠ s.rd F.cadPtpAlt) ∧
    (State.reset.wr F.cadPortNow 1).rd F.cadPortNow ≠ (State.reset.wr F.cadPortNow 1).rd F.cadPtpPort ∧
    State.reset.rd F.cadSrc = 0 ∧ 1 ∉ State.reset.time.failed := by decide +kernel
/-- TimeUnitCommands, the messages: another domain, a port without link, one that has it, a clock that may be master and one that may not, a
master with a Follow_Up to come, both profiles. -/
theorem test_ptp_messages : (let s := (State.reset.wr F.npLink 1 0).wr F.cadPortNow 0;
    let t : State := { s with time := { s.time with hasMaster := true, awaitsFollow := true } };
    (1 ≠ s.rd F.cadDomain ∧ State.reset.rd F.npLink 0 ≠ 1) ∧ (s.rd F.cadDomain = 0 ∧ s.rd F.npLink 0 = 1 ∧ s.rd F.cadPortNow = 0) ∧
    s.rd F.cadGmAllow ≠ 1 ∧ (s.wr F.cadGmAllow 1).rd F.cadGmAllow = 1 ∧ t.time.hasMaster = true ∧ t.time.awaitsFollow = true ∧
    t.rd F.cadProfile ≠ 1 ∧ (s.wr F.cadProfile 1).rd F.cadProfile = 1 ∧ (s.wr F.npPartner 1 0).rd F.npPartner 0 = 1) := by decide +kernel
/-- TickOutAndBeacons: the second's pulse, a near and a far beacon of a partner, a port with none; skews 1,000 and 1,001 ns. -/
theorem test_tick_out : (({ State.reset with net := { State.reset.net with sealPassed := true } } : State).wr F.cadTickout 2).rd F.cadTickout = 2 ∧
    (let s := (State.reset.wr F.npLink 1 0).wr F.npPartner 1 0;
      s.rd F.npLink 0 = 1 ∧ s.rd F.npPartner 0 = 1 ∧ (s.nport 0).skewTick = none) ∧ State.reset.rd F.npPartner 0 ≠ 1 ∧
    ((1010 : Int) - 10 - 0).natAbs ≤ 1000 ∧ 1000 < ((1011 : Int) - 10 - 0).natAbs := by decide +kernel
/-- QueueItemNeedsCredit: stopped, breaching, with credit, at the edge where none is left. -/
theorem test_queue : (let q : Queue := ⟨16, 0, 0, 0, false, 0, 0⟩;
    let z := State.reset.putQueue 0 0;
    ((z { q with stopped := true }).queue 0 0).stopped = true ∧
    (((z { q with issued := 17 }).queue 0 0).granted < ((z { q with issued := 17 }).queue 0 0).issued) ∧
    ((z q).queue 0 0).consumed + ((z q).queue 0 0).returned ≤ ((z q).queue 0 0).issued ∧
    ((z q).queue 0 0).issued < ((z q).queue 0 0).granted ∧ ((z { q with issued := 16 }).queue 0 0).issued = 16 ∧
    ((z { q with issued := 16 }).queue 0 0).granted = 16 ∧ (z q).queueHeld 0 0 = false ∧
    ((z { q with issued := 18, beyond := 2 }).queue 0 0).issued ≤ 16 + ((z { q with issued := 18, beyond := 2 }).queue 0 0).beyond) := by
  decide +kernel
/-- QueueItemNeedsCredit: the row of a core in reset. -/
theorem test_queue_held : (State.reset.wr F.rstCoreInr 1 0 0).queueHeld (qRow (.grains 0)) 0 = true := by
  decide +kernel
/-- TickBoundaryOrder: no power, a number out of turn, a module in reset, and the boundary of a running module. -/
theorem test_tick_boundary : ({ State.reset with rst := { State.reset.rst with powered := false } } : State).rst.powered = false ∧
    (let s : State := { State.reset with time := { State.reset.time with placed := true } };
      s.time.placed = true ∧ 5 ≠ s.tick + 1 ∧ 1 = s.tick + 1 ∧ s.rst.powered = true ∧ s.rst.stage = 5 ∧ s.rst.off = false) ∧
    ({ State.reset with rst := { State.reset.rst with stage := 3 } } : State).rst.stage ≠ 5 ∧ 0 ∈ live.liveParts ∧ (live.part 0).rtWait = [] := by
  decide +kernel

/-! ## 03: steps, shards, grains -/

/-- A tick plan and a plan object image of one tick, its checksum as the spec has it. -/
def planImage : List Byte :=
  let b := leBytes 1 0x10 ++ leBytes 1 0 ++ leBytes 2 1 ++ leBytes 4 64 ++ leBytes 8 0x1000 ++ leBytes 8 0x2000 ++ leBytes 8 0
  b ++ leBytes 4 (crc32c (b ++ List.replicate 28 0)) ++ List.replicate 28 0

def plan0 : Plan := ⟨1, 64, 0x1000, 0x2000, none⟩
def dref0 : DRef := ⟨0, 0, 0, 0, 0x10, 0x10, 0, 0, false⟩
def step0 : StepRun := ⟨0, 0, 1, some dref0, 0, 0, 1, 64, 0x1000, 0x2000, .running, 0, none, none, false, [], false, false⟩
def grain0 : Grain := ⟨0, 1, 0, 0, 0, 0, 0, 0x2000, false, false, false, false⟩
def run0 : Running := ⟨grain0, 0, 0, 0, [], 0, [], 0, false, false, false, 0, none, none⟩
def shard0 : Shard := ⟨0, true, false, 0, 0, 0, 0, 0, 0, 2, 0, 0, 0, 0, 0, 0, [], true, none, 0, none, none⟩
def withPlan : State := live.modCad 0 (fun c => { c with plans := [(0, plan0)] })
def withStep : State := live.modCad 0 (fun c => { c with plans := [(0, plan0)], steps := [step0] })

/-- StepAndPlanDescriptors. -/
theorem test_kick_room : withPlan.kickRoom 0 = true ∧ startsRun withPlan 0x10 (dsc 0) State.runKick (fun r t => (t.livePlan r.part 0).isSome) = true := by
  decide +kernel
theorem test_kick_no_room : (live.modCad 0 (fun c => { c with steps := List.replicate 4 { step0 with phase := .queued } })).kickRoom 0 = false := by decide +kernel
theorem test_plan_register : startsRun (poke live 0x4000 planImage) 0x11 (dsc (0x4000 * 2 ^ 64)) State.runPlanRegister (fun r t =>
    (tget? (t.part r.part).cad.plans 0).isNone && (match t.descRead r.part 0x4000 64 with
    | (some b, u) => decide (b = planImage) && u.mapped r.part (u.part r.part).rt (leAt b 8 8) (8 * leAt b 2 2) false
    | _ => false)) = true := by decide +kernel
theorem test_plan_taken : startsRun withPlan 0x11 (dsc 0) State.runPlanRegister (fun r t => (tget? (t.part r.part).cad.plans 0).isSome) = true := by decide +kernel
theorem test_plan_release : startsRun withPlan 0x12 (dsc 0) State.runPlanRelease (fun r t => (t.livePlan r.part 0).isSome && !t.planInUse r.part 0) = true := by decide +kernel
theorem test_step_hold : startsRun live 0x13 (dsc 0) State.runStepHold (fun r t => decide ((t.part r.part).cad.steps = [])) = true := by decide +kernel

/-- A shard entry image of one element in formats 0 at two 4 KiB regions. -/
def shardImage : List Byte :=
  leBytes 1 0x10 ++ leBytes 7 0 ++ leBytes 8 0 ++ leBytes 8 1 ++ leBytes 4 1 ++ leBytes 4 0 ++ leBytes 8 0x8000 ++ leBytes 8 0xA000 ++ List.replicate 80 0

/-- ShardDescriptorsAndReleases. -/
theorem test_shard_register : startsRun (poke live 0x4000 shardImage) 0x14 (dsc (0x4000 * 2 ^ 64)) State.runShardRegister (fun r t =>
    match t.descRead r.part 0x4000 128 with
    | (some b, u) => (u.shard? r.part 0).isNone && u.shardOk r.part b
    | _ => false) = true := by decide +kernel
def withShard : State := live.putShard 0 0 { shard0 with setA := 0x8000, setB := 0x9000, pend := false }
theorem test_shard_release : startsRun withShard 0x15 (dsc 0) State.runShardRelease (fun r t => decide ((t.shard? r.part 0).map (fun x => x.releasing) = some none)) = true := by
  decide +kernel
theorem test_shard_query : startsRun withShard 0x16 (dsc (0x4000 * 2 ^ 64)) State.runShardQuery (fun r t =>
    match t.shard? r.part 0 with
    | some x => x.releasing.isNone && !(t.writePva (t.engCtx r.part engDesc) 0x4000 x.image false).1
    | none => false) = true := by decide +kernel
theorem test_root_formed : (match (live.putShard 0 0 shard0).shard? 0 0 with
  | some x => x.pend && x.lastDone && !x.broken && x.rootNew.isNone && !(live.putShard 0 0 shard0).replaying 0 x.run
  | none => false) = true := by decide +kernel

/-- A tick plan of eight cores without grains, and the states that check it: one in which it lies behind the table entry, one without. -/
def tickImage : List Byte :=
  let b := leBytes 2 8 ++ leBytes 2 0 ++ leBytes 4 96 ++ leBytes 2 0 ++ List.replicate 82 0
  leBytes 4 (crc32c (List.replicate 4 0 ++ b)) ++ b
def tickReady : State := poke (poke withStep 0x1000 (leBytes 8 0x3000)) 0x3000 tickImage

/-- TickPlansAndStepBegin: a plan read whole and sound, a plan no read reaches, a step not yet due and one that begins. -/
theorem test_tick_plan : (match (tickReady.part 0).cad.steps.find? (fun r => !r.stopped && !r.replay && decide (r.checked < r.nticks)) with
  | some r => decide (r = step0) && decide (r.first + r.checked ≤ tickReady.tick + tickReady.rd F.pRunahead 0 + 1) &&
      decide (tickReady.pstate 0 = 2) && (match tickReady.readPlan 0 r 0 with
      | (some b, t) => tickPlanOk b 0 && t.mapped 0 (t.part 0).rt 0x2000 (b.length / 2) true
      | _ => false)
  | none => false) = true := by decide +kernel
theorem test_tick_plan_unread : (withStep.readPlan 0 { step0 with tptPva := 2 ^ 40 } 0).1 = none := by decide +kernel
theorem test_step_begin : (let q := { step0 with phase := .queued };
    let s := live.modCad 0 (fun c => { c with plans := [(0, plan0)], steps := [q] });
    let t : State := { s with time := { s.time with placed := true } };
    t.stepBlocked 0 q = false ∧ q.first ≤ t.tick ∧ t.actives 0 = [] ∧ (t.part 0).cont.failed = none ∧ t.time.placed = true ∧
    t.tick < { q with first := 1 }.first ∧ (t.part 0).cad.steps.find? (fun r => r.phase == .queued) = some q) := by decide +kernel

def withGrain : State := live.modCad 0 (fun c => { c with plans := [(0, plan0)], steps := [step0], work := [grain0] })
def withRun (r : Running) : State := withStep.modCore 0 (fun k => { k with run := some r })

/-- GrainsStartAndComplete: a grain that may start, one that failed its checks, one that runs, a delay grain, an idle core. -/
theorem test_grain_start : withGrain.partOfCore 0 = some 0 ∧ (withGrain.core 0).fenced = false ∧ (withGrain.core 0).rebuild = false ∧
    withGrain.coreHeld 0 = false ∧ (∀ e ∈ withGrain.mem.took, e.1 ≠ 0) ∧ (withGrain.core 0).run = none ∧
    (withGrain.part 0).cad.work.find? (fun x => x.lcore == 0) = some grain0 ∧ withGrain.stepRun? 0 0 = some step0 ∧ withGrain.pstate 0 = 2 ∧
    grain0.tick ≤ withGrain.tick ∧ bitN grain0.word 38 = false ∧ withGrain.swapHolds 0 0 = false := by decide +kernel
theorem test_grain_complete : let s := withRun { run0 with code := 3 };
    (s.core 0).fenced = false ∧ (s.core 0).rebuild = false ∧ s.stopHeld 0 = false ∧ (s.core 0).filler = none ∧
    (s.core 0).run = some { run0 with code := 3 } ∧ gUnit run0.grain.word ≠ 6 ∧ s.timeAt 0 0 ≤ s.timeAt s.tick 0 ∧ run0.code = 0 ∧
    gUnit 6 = 6 ∧ (withStep.core 0).run = none := by decide +kernel
/-- OverrunsHangsAndFences: a grain past its tick, one of the hang limit, a fenced core, one fenced under manual sites, a core rebuilt. -/
theorem test_grain_overrun : let s := (withRun run0).wr F.cadTickNow 1;
    s.partOfCore 0 = some 0 ∧ (s.core 0).run = some run0 ∧ run0.grain.tick < s.tick ∧ s.timeAt 0 0 ≤ s.timeAt 1 1800 := by decide +kernel
theorem test_hang : let s := (withRun run0).wr F.cadTickNow ((withRun run0).rd F.cadHangTicks);
    (s.core 0).run = some run0 ∧ run0.startTick + s.rd F.cadHangTicks ≤ s.tick ∧ run0.waiting = false := by decide +kernel
theorem test_fence_manual : let s := withStep.wr F.idRsvMode 1;
    (s.core 0).fenced = false ∧ s.rd F.idRsvMode ≠ 0 ∧ s.partOfCore 0 = some 0 ∧
    ((s.modCore 0 (fun k => { k with fenced := true })).core 0).fenced = true := by decide +kernel
theorem test_rebuild : let s := withStep.modCore 0 (fun k => { k with rebuild := true });
    s.partOfCore 0 = some 0 ∧ (s.core 0).rebuild = true ∧ (s.core 0).window = [] ∧ (s.core 0).run = none ∧ (s.core 0).filler = none := by
  decide +kernel

/-! ## 04: the dispatch engine -/

/-- A channel as an open makes it, established. -/
def chan0 : Chan :=
  { gen := 0, part := 0, peerPart := 0, queue := 0, mode := 0, enc := false, kslot := 0, key := 0, npath := 1, grantTick := 4096, pkey := 0, peerIp := 2, state := 2,
    version := 0x12, opener := none, order := 0, nonce := 0, peerNonce := 0, peerCid := 0, peerLo := 0x10, peerHi := 0x12, ackSent := true, ackSeen := true, addrs := [], withdrawn := [],
    maxPay := 4096, posted := 0, consumed := 0, returned := 0, msgStart := 0, msgDone := 0, granted := 0, grantSeen := 0, used := 0, expired := 0,
    slotTick := 0, slotGranted := 0, slotSeen := 0, slotSeenTick := 0, slotNext := none, grantLeft := 0, peerPosted := 0, peerRet := 0, sends := [],
    nextMsn := 0, nextPsn := 0, cumAcked := 0, flights := [], nextPath := 0, rest := [], bufs := [], taken := [], msgs := [], rcvLow := 0, doneMsns := [],
    cumPsn := 0, seen := [], rcvBytes := 0, ceBytes := 0, sinceAck := 0, ctlPsn := 0, peerCtl := 0, rate := 100000000, alpha := 0, clean := 0, step := 1000000,
    peerRcv := 0, peerCe := 0, lastRcv := 0, lastCe := 0, timedOut := false, budget := 0, srtt := 0, retx := 0, viols := [], violTick := none,
    stopped := false, closeTick := 0, pathAcked := [] }

/-- A context image: one destination, itself; one token, one choice. -/
def dctxImage : Nat := 0x10 + 1 * 2 ^ 12 + 1 * 2 ^ 24 + 1 * 2 ^ 32 + 1 * 2 ^ 64 + 1 * 2 ^ 80 + 1 * 2 ^ 128 + 64 * 2 ^ 160 + 64 * 2 ^ 176 + 2 * 2 ^ 352 +
  0x5000 * 2 ^ 448 + 0x20000 * 2 ^ 704 + 0x21000 * 2 ^ 640 + 0x1000000 * 2 ^ 832 + 0x22000 * 2 ^ 896
def dctx0 : DispCtx := ⟨dctxImage, [0], 0, [], [], 0, [], [], 0, 0, 0, [], [], 0, [], none⟩
def router0 : RouterRec := ⟨0, 0, 0, 0, 1, 0, false, []⟩
def sendBank0 : SendBank := ⟨0, 0, [], 0, 0, [], 0, []⟩
def withDctx (x : DispCtx) : State := { live.putDctx 0 0 x with routers := [router0] }

/-- DispatchContextDescriptors: an image that is taken, a context to release, and none. -/
theorem test_dctx_register : startsRun ((poke live 0x4000 (leBytes 256 dctxImage)).wr F.pCtxMax 1 0) 0x17 (dsc (0x4000 * 2 ^ 64)) State.runDctxRegister (fun r t =>
    match t.descRead r.part 0x4000 256 with
    | (some bs, u) => decide (leNat bs = dctxImage) && (match u.descRead r.part 0x5000 8 with
      | (some cb, v) => decide (leAt cb 0 8 = 0) && dctx0.inRange 0 && (tget? (v.part r.part).dctx 0).isNone &&
          dctx0.areas.all (fun a => a.2 == 0 || v.rwArea r.part a.1 a.2) && areasApart dctx0.areas && decide (dctx0.nDst = 1) &&
          decide (dctx0.self = 0) && decide ((v.part r.part).dctx.length < v.rd F.pCtxMax r.part)
      | _ => false)
    | _ => false) = true := by decide +kernel
theorem test_dctx_release : startsRun (withDctx { dctx0 with chans := [] }) 0x18 (dsc 0) State.runDctxRelease (fun r t =>
    decide (t.dctx? r.part 0 = some { dctx0 with chans := [] }) && !dctx0.busy && dctx0.releasing.isNone) = true ∧
    ({ dctx0 with send := [(0, sendBank0)] } : DispCtx).busy = true ∧
    startsRun live 0x18 (dsc 0) State.runDctxRelease (fun r t => (t.dctx? r.part 0).isNone) = true := by decide +kernel
/-- RouterRecordsAndRounds: no context, a token outside the round (TOK_BASE 0, N_TOK 1: token 1), a new record, a second one, a bank still busy. -/
theorem test_router_record : (withDctx dctx0).nextRouter? 0 = some router0 ∧ ({ live with routers := [router0] } : State).nextRouter? 0 = some router0 ∧
    live.nextRouter? 0 = none ∧ (withDctx { dctx0 with send := [(0, { sendBank0 with phase := 1 })] }).nextRouter? 0 = none ∧
    ({ live with routers := [router0] } : State).dctx? 0 0 = none ∧ dctx0.tokBase + dctx0.nTok ≤ 1 ∧ dctx0.tokBase ≤ 0 ∧ 0 < dctx0.tokBase + dctx0.nTok ∧
    dctx0.collecting = none ∧ ({ dctx0 with send := [(0, sendBank0)] } : DispCtx).collecting = some (0, sendBank0) ∧ tget? sendBank0.recs 0 = none ∧
    ({ dctx0 with send := [(0, { sendBank0 with recs := [(0, router0)] })] } : DispCtx).collecting = some (0, { sendBank0 with recs := [(0, router0)] }) ∧
    ({ dctx0 with send := [(0, { sendBank0 with phase := 1 })] } : DispCtx).collecting = none := by decide +kernel
theorem test_round_banks : (withDctx { dctx0 with recv := [(1, ⟨0, 0, false, [], [], [], [], 0⟩)] }).dctx? 0 0 =
    some { dctx0 with recv := [(1, ⟨0, 0, false, [], [], [], [], 0⟩)] } := by decide +kernel
/-- DispatchMessages: a message at the front of a channel, its context gone, late, far ahead, held and ready, and a return nobody awaits. -/
def withMsg : State :=
  let b : GnxBuf := ⟨0, 0x4000, 64, none, true, .engine 0 0⟩
  (poke live 0x4000 [0x10, 1]).setChan 0 { chan0 with taken := [b] }
theorem test_dispatch_message : (match withMsg.takeMsg 0 with
    | (some (_, bs), _) => leAt bs 1 1 == 1 && (withMsg.dctx? 0 (dispMsgOf bs).n).isNone
    | _ => false) = true := by decide +kernel
theorem test_dispatch_rounds : unwrapN 32 5 (dispMsgOf (List.replicate 64 0)).round = some 0 ∧ 0 < 5 ∧ 1 ∈ ({ dctx0 with closedRounds := [1] } : DispCtx).closedRounds ∧
    unwrapN 32 0 (dispMsgOf (List.replicate 8 0 ++ leBytes 8 2 ++ List.replicate 48 0)).round = some 2 ∧
    dctx0.ready (none, List.replicate 64 0) = true ∧ ({ dctx0 with held := [(none, List.replicate 64 0)] } : DispCtx).held.find? dctx0.ready =
      some (none, List.replicate 64 0) ∧ dctx0.held.find? dctx0.ready = none ∧
    (∀ e ∈ dctx0.send, ¬ (e.2.round % 2 ^ 32 = (dispMsgOf (List.replicate 64 0)).round ∧ e.2.phase = 1)) := by decide +kernel

/-! ## 05: device memory -/

def mere0 : MereLine := ⟨0, false, none, false, false, List.replicate 128 7⟩
/-- The line of PVA 0 of partition 0, in the Mere. -/
def withLine : State := live.setMere [(0, mere0)]
def tokens1 : State := { live with mem := { live.mem with tokens := [(0, ⟨1, 1, []⟩)] } }
def noTokens : State := { live with mem := { live.mem with tokens := [(0, ⟨0, 0, []⟩)] } }
def row0 : DieRow := ⟨1, 0, 0, 0⟩

/-- LineRequests: an untranslated PVA, one beyond memory, a hit, a write hit, no token, and a clean miss. -/
theorem test_line_fault : (match live.xlate 0 (live.part 0).rt (2 ^ 40) false, live.xlate 0 (live.part 0).rt (2 ^ 40) true with
    | .error k, .error k' => k == 1 && k' == 1
    | _, _ => false) = true := by decide +kernel
theorem test_line_beyond : (let s := (live.wr F.pExtBase 131071 0 0);
    match s.xlate 0 (s.part 0).rt 0 false with
    | .ok (.dpa a _) => (s.locate? a).isNone
    | _ => false) = true := by decide +kernel
theorem test_line_hit : (match withLine.xlate 0 (withLine.part 0).rt 0 true with
    | .ok (.dpa a _) => (match withLine.locate? a with
      | some pa =>
        let q : HeldReq := ⟨0, 12, 0, false, pa, []⟩
        decide (tget? withLine.mem.mere (pa / 128) = some mere0) && !withLine.reqWaits q && withLine.mem.held.isEmpty &&
          decide (tget? live.mem.mere (pa / 128) = none) && noTokens.reqWaits q && !tokens1.reqWaits q &&
          (({ tokens1 with mem := { tokens1.mem with held := [q] } } : State).mem.held.any (fun x => x.pa / 128 == pa / 128)) &&
          ((live.wr F.memStkState 2 0 (paStack pa)).stackServes (paStack pa) == false) &&
          (live.modStack (paStack pa) (fun k => { k with copying := [(dieRowOf pa 0, 0)] })).inCopy pa
      | none => false)
    | _ => false) = true := by decide +kernel
/-- LinesKeepAndLosePoison: a line held, one that is not, with no symbol in error, written and not. -/
theorem test_lines : tget? withLine.mem.mere 0 = some mere0 ∧ tget? live.mem.mere 0 = none ∧ live.mem.written.contains 0 = false ∧
    tget? live.mem.errs 0 = none ∧ tget? live.mem.errs 1 = none ∧ live.wf = true ∧
    live.lineKey? (live.dpaOf 0) = none ∧ (live.lineWrite 0 hintStream 0 0 [1] false false).mem.written.contains 0 = true := by
  decide +kernel
/-- NearMemoryAdditions: the last slot of a line, a target out of the table, a poisoned and a clean line. -/
theorem test_near_memory : (0x70 : Nat) / 16 % 8 + [((0 : Fin 32), (0 : BitVec 128))].length ≤ 8 ∧
    (match live.xlate 0 (live.part 0).rt (2 ^ 40 / 16 * 16) true with
    | .error k => k == 1
    | _ => false) = true ∧
    (match live.xlate 0 (live.part 0).rt 0 true with
    | .ok (.dpa d _) => (match live.locate? d with
      | some pa =>
        let f := fun (s : State) => (((s.dropLine (pa / 128) false).charge 0 (paStack pa) 2 false).stackFetch (pa / 128) 0 1 [0, 1]).stackPoison (pa / 128)
        !f live && f (live.setPoison (pa / 128) true)
      | none => false)
    | _ => false) = true := by decide +kernel
/-- RepairCommands. -/
theorem test_repair : (live.stack 0).locating = [] ∧ ((live.modStack 0 (fun k => { k with locating := [(0, [])] })).stack 0).locating = [(0, [])] ∧
    (live.stack 0).copying = [] ∧ ((live.modStack 0 (fun k => { k with copying := [(row0, 0)] })).stack 0).copying = [(row0, 0)] ∧
    (∀ e ∈ (live.stack 0).copying, e.1 ≠ row0) ∧ row0 ∉ (live.stack 0).denied ∧
    row0 ∈ ((live.modStack 0 (fun k => { k with denied := [row0] })).stack 0).denied ∧ (live.stack 0).sparesLeft row0 ≠ 0 ∧
    live.rd F.memCamUsed 0 0 + (live.stack 0).copying.length < 4096 ∧ 4096 ≤ (live.wr F.memCamUsed 4096 0 0).rd F.memCamUsed 0 0 ∧
    (∀ e ∈ (live.stack 0).cam, e.1 ≠ row0) ∧ row0.die ∉ live.marks 0 ∧ (live.wr F.memStkState 2 0 0).stackServes 0 = false ∧ live.stackServes 0 = true := by
  decide +kernel
/-- BurstsAndTheMemoryCode. -/
theorem test_bursts : let f : BurstFault := ⟨[[(3, 1)], [], [], []], [[], [], [], []]⟩
    let s : State := { live with mem := { live.mem with errs := [(0, f)] } }
    tget? s.mem.errs 0 = some f ∧ tget? live.mem.errs 0 = none ∧ live.marks (paStack 0) = [] ∧ (3 : Fin 19) ≠ 4 ∧
    (∀ x ∈ decodeBurst [] (bytesAt (s.stackLine 0) 0 64) false (burstAdd f.stay f.once), x ≠ .beyond ∧ x ≠ .uncorrectable) := by decide +kernel
/-- BurstsAndTheMemoryCode: two symbols of one word in error. -/
theorem test_burst_uncorrectable : let f : BurstFault := ⟨[[(3, 1), (4, 1)], [], [], []], [[], [], [], []]⟩
    let s : State := { live with mem := { live.mem with errs := [(0, f)] } }
    (∀ x ∈ decodeBurst [] (bytesAt (s.stackLine 0) 0 64) false (burstAdd f.stay f.once), x ≠ .beyond) ∧
    (∃ x ∈ decodeBurst [] (bytesAt (s.stackLine 0) 0 64) false f.stay, x = .uncorrectable) := by decide +kernel
/-- WrapperInstructions: repair access, a row on the lists and off them, with spares and without, the codes 1, 6 and 7. -/
theorem test_wrapper : (live.stack 0).access = false ∧ ((live.modStack 0 (fun k => { k with access := true })).stack 0).access = true ∧
    row0 ∈ ((live.modStack 0 (fun k => { k with repairList := [row0] })).stack 0).repairList ∧ row0 ∉ (live.stack 0).hardRepairs ∧
    row0 ∈ ((live.modStack 0 (fun k => { k with hardRepairs := [row0] })).stack 0).hardRepairs ∧ (live.stack 0).sparesLeft row0 ≠ 0 ∧
    ((live.modStack 0 (fun k => { k with used := (List.range 2432).map (fun i => (i, 2 ^ 32 - 1)) })).stack 0).sparesLeft row0 = 0 := by decide +kernel
/-- KeepTransposeAndRangeEdits. -/
theorem test_keep : startsRun live 0x2A (dsc 0) State.runKeep (fun _ _ => (dsc 0).fld 64 64 == 0) = true ∧
    startsRun live 0x2A (dsc (128 * 2 ^ 64)) State.runKeep (fun _ _ => (dsc (128 * 2 ^ 64)).fld 64 64 != 0) = true := by decide +kernel
/-- One byte from 0x4000 to 0x5000; the same with a reserved element size; onto itself; and from a PVA that does not translate. -/
def transpose0 (src dst e : Nat) : Desc := dsc (src + dst * 2 ^ 64 + 2 ^ 128 + 2 ^ 160 + 2 ^ 192 + 2 ^ 224 + e * 2 ^ 256)
theorem test_transpose : startsRun live 0x2B (transpose0 0x4000 0x5000 0) State.runTranspose (fun r t =>
    decide (t.badSpan? r.part 0x4000 1 1 1 false = none) && decide (t.badSpan? r.part 0x5000 1 1 1 true = none) &&
      (t.badSpan? r.part (2 ^ 40) 1 1 1 false).isSome && (t.badSpan? r.part (2 ^ 40) 1 1 1 true).isSome) = true ∧
    (transpose0 0x4000 0x4000 3).fld 256 2 = 3 ∧ (transpose0 0x4000 0x4000 0).fld 0 64 = (transpose0 0x4000 0x4000 0).fld 64 64 ∧
    (transpose0 0x4000 0x5000 0).fld 128 32 = 1 ∧ (transpose0 0x4000 0x5000 0).fld 160 32 = 1 := by decide +kernel
/-- An edit that removes, one refused, one of memory, one of an object. -/
def rtWord (target perm vbase : Nat) : Nat := 1 + target * 2 + perm * 2 ^ 4 + vbase * 2 ^ 21 + 2 ^ 64
theorem test_range_edit_op (last : Bool) : startsRun (live.wr F.pRtSize 16 0) (if last then (0x2F : BitVec 8) else 0x2E).toNat { dsc 0 with body := rangeEditBody 1 (rtWord 0 3 1024) } State.runRangeEdit (fun r t =>
    !rtValid 0 && decide (1 < t.rd F.pRtSize r.part) && (t.part r.part).tier.swaps.isEmpty && rtValid (rtWord 0 3 1024) &&
    !t.rtEditOk r.part 1 (rtEntryOf (rtWord 7 3 1024)) && t.rtEditOk r.part 1 (rtEntryOf (rtWord 0 3 1024)) &&
    (t.part r.part).tier.swaps.isEmpty && !r.clamped && (rtEntryOf (rtWord 0 3 1024)).target == 0) = true := by
  cases last <;> decide +kernel
theorem test_range_edit : ∃ r t, (live.wr F.pRtSize 16 0).starts Config.rangeEditOpcode.toNat { dsc 0 with body := rangeEditBody 1 (rtWord 0 3 1024) } r t :=
  let ⟨r, t, h, _⟩ := startsB_sound (test_range_edit_op Config.rangeEditLast)
  ⟨r, t, h⟩
/-- SharedWeightRefetch: no region; a region whose granule 0 is whole, poisoned without a copy, poisoned with one; the region's last granule is 262,143. -/
def withRegion : State := { live with mem := { live.mem with shared := [(0, ⟨8, 1, 0, 0⟩)] } }
def poisonedRegion : State := withRegion.setPoison ((withRegion.granLines (8 * gib)).headD 0) true
theorem test_refetch : tget? live.mem.shared 0 = none ∧ tget? withRegion.mem.shared 0 = some ⟨8, 1, 0, 0⟩ ∧ 262143 * 4096 < 1 * gib ∧
    (∀ l ∈ withRegion.granLines (8 * gib), withRegion.linePoison l = false) ∧
    (∃ l ∈ poisonedRegion.granLines (8 * gib), poisonedRegion.linePoison l = true) ∧ (poisonedRegion.granule 0 0 0).1 = none ∧
    (({ poisonedRegion with tiers := { poisonedRegion.tiers with gbuf := [⟨0, 0, 0, 0, [1]⟩] } } : State).granule 0 0 0).1 = some [1] := by decide +kernel

/-! ## 06: power and heat -/

/-- The reset state with its reset part changed. -/
def inRst (f : ResetState → ResetState) : State := { State.reset with rst := f State.reset.rst }

/-- SupplyAndBrownOut, RestoreAfterSupplyClear: the thresholds themselves and 10 mV below; the warning set and clear; a brown-out. -/
theorem test_supply : let s := State.reset; let th := s.rd F.pwrVwarnTh; let w := s.wr F.pwrVwarn 1; let b := inRst (fun r => { r with brown := true });
    100 * th ≤ (BitVec.ofNat 16 (100 * th)).toNat ∧ (BitVec.ofNat 16 (100 * th - 1)).toNat < 100 * th ∧ s.rd F.pwrVwarn = 0 ∧ s.rst.powered = true ∧
    w.rd F.pwrVwarn = 1 ∧ w.rst.brown = false ∧ 100 * (w.rd F.pwrVwarnTh + 10) ≤ (BitVec.ofNat 16 (100 * (th + 10))).toNat ∧
    100 * s.rd F.pwrVrstTh ≤ (BitVec.ofNat 16 (100 * th)).toNat ∧ (0 : BitVec 16).toNat < 100 * s.rd F.pwrVrstTh ∧ b.rst.brown = true ∧
    s.power.rCrit ≤ 4 ∧ (inRst (fun r => { r with powered := false })).rst.powered = false := by decide +kernel
/-- The first and the fourth boundary of a restore. -/
theorem test_restore : (let s := State.reset.modPower (fun w => { w with rSupply := 4 });
      s.power.rSupply = 5 - 1 ∧ s.rd F.pwrVwarn = 0 ∧ (∀ e ∈ s.power.next, e.2 ≤ 64) ∧ s.power.rCrit = 0) ∧
    (State.reset.modPower (fun w => { w with rSupply := 1 })).power.rSupply = 5 - 4 ∧ State.reset.rst.stage = 5 := by decide +kernel
/-- EffectiveCap: the highest PCAP its field holds, the eleventh dip, and the flag set. -/
theorem test_cap : (let s := State.reset.wr F.pwrPcap (2 ^ F.pwrPcap.w - 1); s.rd F.pwrPcap < 2 ^ F.pwrPcap.w) ∧
    10 < (State.reset.modPower (fun w => { w with dips := List.replicate 11 0 })).power.dips.length ∧ State.reset.rd F.pwrSupUnst = 0 ∧
    (State.reset.wr F.pwrSupUnst 1).rd F.pwrSupUnst = 1 := by decide +kernel
/-- GrantsStayWithinTheLimits. -/
theorem test_grants : (inRst (fun r => { r with stage := 3 })).rst.stage ≠ 5 ∧ (State.reset.wr F.pwrVwarn 1).rd F.pwrVwarn = 1 ∧
    (State.reset.wr F.pwrTcrit 1).rd F.pwrTcrit = 1 := by decide +kernel
/-- SensorsAndCriticalTemperature: a die sensor at 110 °C, critical and its end, the trip at 120 °C. -/
theorem test_sensors : (let s := { State.reset with mgmt := { State.reset.mgmt with cal := { State.reset.mgmt.cal with
      thermal := (List.range 840).map (fun i => (i, 0)) } } };
    110 ≤ s.hottest (List.replicate 40 440) (dieSensors 0) ∧ s.rd F.pwrZtempMax 0 0 < 256) ∧
    State.reset.zoneAt 110 105 = none ∧ (State.reset.wr F.pwrZtemp 110 0 3).zoneAt 110 105 = some (3, 110, 1) ∧
    (State.reset.wr F.pwrZtemp 110 0 3).rd F.pwrTcrit = 0 ∧ ((State.reset.wr F.pwrTcrit 1).critical 4 = false) ∧
    ((State.reset.wr F.pwrTcrit 1).wr F.pwrZtemp 106 0 0).critical 4 = true ∧ (State.reset.wr F.memTemp 110 0 23).zoneAt 120 110 = some (7, 110, 2) ∧
    State.reset.zoneAt 120 110 = none ∧ State.reset.rst.off = false := by decide +kernel
/-- ExcursionsAndOperatingStates: 1,600 W and 1,601 W; Idle and STILL entered and not. -/
theorem test_excursion : (BitVec.ofNat 16 1600).toNat ≤ 1600 ∧ 1600 < (BitVec.ofNat 16 1601).toNat ∧
    (let s := State.reset.modPower (fun w => { w with quiet := State.reset.rd F.pwrIdleTicks });
      s.rd F.pwrMstate = 0 ∧ s.busy = false ∧ s.power.worked = false ∧ s.rd F.pwrIdleTicks ≤ s.power.quiet) ∧
    (let s := ((State.reset.wr F.pwrMstate 1).wr F.pwrStillEn 1).modPower (fun w => { w with idleFor := State.reset.rd F.pwrStillTicks });
      s.rd F.pwrMstate = 1 ∧ s.rd F.pwrStillEn = 1 ∧ s.rd F.pwrStillTicks ≤ s.power.idleFor ∧ s.busy = false ∧
      ∀ p ∈ s.liveParts, (s.part p).tier.lends = []) ∧
    (State.reset.wr F.pwrMstate 1).rd F.pwrMstate ≠ 0 ∧ 1 ≠ State.reset.rd F.pwrMstate := by decide +kernel

/-! ## 07: resets -/

/-- ResetSources: power, the pin low and high, an open debug window, a stuck module at the lock-up limit and one boundary short, Off, and a warm reset under way. -/
theorem test_reset_sources : State.reset.rst.powered = true ∧ (inRst (fun r => { r with pinLow := true })).rst.pinLow = true ∧ State.reset.rst.pinLow = false ∧
    (State.reset.wr F.idDbgOpen 1).rd F.idDbgOpen = 1 ∧ State.reset.rd F.idDbgOpen = 0 ∧
    (let t := State.reset.rd F.rstLockTicks; let s := (inRst (fun r => { r with stuck := t })).wr F.rstLockEn 1;
      s.rd F.rstLockEn = 1 ∧ s.rd F.rstLockTicks ≤ s.rst.stuck ∧ 0 < State.reset.rd F.rstLockTicks) ∧
    State.reset.rst.off = false ∧ State.reset.rst.stage = 5 ∧ (inRst (fun r => { r with off := true })).rst.off = true ∧
    (let s := inRst (fun r => { r with stage := 0, cold := false }); s.rst.stage = 0 ∧ s.rst.cold = false ∧ s.rst.off = false) := by decide +kernel
/-- WhatResetsKeep, PowerAndInput. -/
theorem test_resets_keep : State.reset.rst.cold = true ∧ (inRst (fun r => { r with cold := false })).rst.cold = false ∧
    (let s := inRst (fun r => { r with powered := false }); s.rst.powered = false ∧ s.rst.switchOpen = false) ∧
    (inRst (fun r => { r with switchOpen := true })).rst.switchOpen = true ∧ (inRst (fun r => { r with cold := false, stage := 3 })).rst.stage ≠ 5 := by
  decide +kernel
/-- ResetSequence: the memory domain, the release, each stage of the release, the zeroing, a warm scrub. -/
theorem test_reset_sequence : (let s := inRst (fun r => { r with stage := 0, cold := false, memIn := false });
      s.rst.stage = 0 ∧ s.rst.cold = false ∧ s.rst.memIn = false ∧ s.rst.powered = true) ∧
    (let s := inRst (fun r => { r with stage := 0, memIn := true });
      s.rst.stage = 0 ∧ s.rst.powered = true ∧ s.rst.charged = true ∧ s.rst.brown = false ∧ s.rst.pinLow = false ∧ s.rst.memIn = true) ∧
    (∀ k ∈ [0, 1, 2, 3, 4, 5], (inRst (fun r => { r with stage := k })).rst.stage = k ∧ (inRst (fun r => { r with stage := k })).rst.recovery = false) ∧
    (inRst (fun r => { r with recovery := true })).rst.recovery = true ∧ State.reset.rst.ready = true ∧
    (inRst (fun r => { r with ready := false })).rst.ready = false ∧ tget? State.reset.mgmt.warmScrubs 0 = none ∧
    (let s := State.reset.modMgmt (fun m => { m with warmScrubs := [(0, 5)] }); tget? s.mgmt.warmScrubs 0 = some 5 ∧ s.heldStacks = []) := by
  decide +kernel
/-- BlockResets: the set-up port and another, a block in reset, a fabric stop beside another, an engine drained and not. -/
theorem test_block_resets : State.reset.hostUp 0 = true ∧ (0 = State.reset.setupPort) ∧ State.reset.hostUp 1 = true ∧ 1 ≠ State.reset.setupPort ∧
    (inRst (fun r => { r with stage := 2 })).hostUp 0 = false ∧ (let s := State.reset.blockBegin bkCore 0; s.blockIn bkCore 0 = true) ∧
    State.reset.blockIn bkFab 1 = false ∧ (State.reset.blockBegin bkFab 0).rd F.rstFabInr ≠ 0 ∧ (State.reset.blockBegin bkFab 0).blockIn bkFab 1 = false ∧
    State.reset.rd F.rstFabInr = 0 ∧ State.reset.blockIn (engOf 21).1 (engOf 21).2 = false ∧
    (let s := inRst (fun r => { r with blocks := [(blockKey bkIntake 0, ⟨false, 0⟩)] });
      tget? s.rst.blocks (blockKey bkIntake 0) = some ⟨false, 0⟩ ∧ s.blockMay bkIntake 0 ⟨false, 0⟩ = false ∧ s.blockMay bkIntake 0 ⟨true, 0⟩ = true) ∧
    bkIntake ≤ bkSha3 := by decide +kernel

/-! ## 08: tiers -/

/-- A host object image of 4 KiB; the object it makes in a state; a state that holds it in slot 0. -/
def objImage : Nat := 0x10 + 1 * 2 ^ 8 + 4096 * 2 ^ 128
def obj0 (state : Nat) : Obj := { objOf objImage 0 with state := state }
def withObj (o : Obj) : State := (live.wr F.pObjMax 16 0).modTier 0 (fun t => { t with objs := [(0, o)] })
def at24 (n : Nat) : Nat := n * 2 ^ 64

/-- TierObjects: created (slot 15 is the last), unreadable, a handle that names nothing, an object of each state. -/
theorem test_obj_create : startsRun ((poke live 0x4000 (leBytes 128 objImage)).wr F.pObjMax 16 0) 0x20 (dsc (15 + at24 0x4000)) State.runObjCreate (fun r t =>
    match t.descRead r.part 0x4000 128 with
    | (some bs, u) => decide (15 < u.rd F.pObjMax r.part) && (tget? (u.part r.part).tier.objs 15).isNone && u.imageOk r.part (leNat bs) (objOf (leNat bs) 0)
    | _ => false) = true := by decide +kernel
theorem test_obj_unreadable : startsRun live 0x20 (dsc (at24 (2 ^ 40))) State.runObjCreate (fun r t => (t.descRead r.part (2 ^ 40) 128).1.isNone &&
    (t.obj? r.part 0).isNone) = true := by decide +kernel
/-- A write of 4,096 bytes at 0 that fits, of 1 byte at the object's end, from a PVA that faults, and from a poisoned line. -/
theorem test_obj_write : startsRun (withObj (obj0 1)) 0x21 (dsc (at24 0 + 4096 * 2 ^ 128)) State.runObjWrite (fun r t =>
    decide ((t.obj? r.part 0).map (fun o => (o.state, o.sealer, o.length)) = some (1, none, 4096)) &&
    !(t.readPva (t.engCtx r.part engTier) 0x4000 1).1.fault && !(t.readPva (t.engCtx r.part engTier) 0x4000 1).1.poison &&
    (t.readPva (t.engCtx r.part engTier) (2 ^ 40) 1).1.fault && ((t.setPoison 0 true).readPva (t.engCtx r.part engTier) 0 1).1.poison) = true := by
  decide +kernel
theorem test_obj_states : startsRun (withObj (obj0 2)) 0x23 (dsc 0) State.runObjRetire (fun r t => decide ((t.obj? r.part 0).map (fun o => o.state) = some 2)) = true ∧
    startsRun (withObj (obj0 1)) 0x22 (dsc 0) State.runObjSeal (fun r t => decide ((t.obj? r.part 0).map (fun o => o.state) = some 1)) = true ∧
    startsRun (withObj (obj0 1)) 0x24 (dsc (at24 0x4000)) State.runObjQuery (fun r t => (t.obj? r.part 0).isSome) = true ∧
    (let o := { obj0 1 with sealer := some dref0 }; o.sealer = some dref0 ∧ o.pendingWrites = [] ∧
      tget? ((withObj o).part 0).tier.objs 0 = some o ∧ { o with pendingWrites := [dref0] }.pendingWrites ≠ []) := by decide +kernel
theorem test_obj_free : (withObj (obj0 3)).objHeld 0 (objHandle 0 0) (obj0 3) = false ∧ (obj0 3).recreate = none ∧ (obj0 2).state ≠ 3 ∧
    { obj0 3 with recreate := some (0, 0) }.recreate = some (0, 0) ∧
    (withObj { obj0 3 with recreate := some (0, 0) }).objHeld 0 (objHandle 0 0) { obj0 3 with recreate := some (0, 0) } = false ∧
    tget? (live.part 0).tier.objs 0 = none ∧ tget? ((withObj (obj0 3)).part 0).tier.objs 0 = some (obj0 3) := by decide +kernel

def nbr0 : Obj := { obj0 2 with tier := 2, nrep := 1, reps := [⟨0, 0, 0⟩] }
def read0 : TierRead := ⟨0, 0, 0, 1, 1, 0, 0, 5, none⟩
def withRead : State := ((withObj nbr0).setTiers (fun t => { t with reads := [read0], msgs := [(6, ⟨0, 1, none⟩)] })).setChan 0 chan0

/-- LowerTierReads: copies of nothing, of the whole object and past its end; granules of host and neighbour objects; replies that are awaited or not. -/
theorem test_tier_copy : startsRun (withObj (obj0 2)) 0x25 (dsc (4096 * 2 ^ 128)) State.runTierCopy (fun r t =>
    decide ((t.obj? r.part 0).map (fun o => (o.state, o.length)) = some (2, (dsc (4096 * 2 ^ 128)).at 24 64 + (dsc (4096 * 2 ^ 128)).at 32 64))) = true ∧
    (dsc (4097 * 2 ^ 128)).at 32 64 = 4097 ∧ (dsc 0).at 32 64 = 0 := by decide +kernel
theorem test_granules : ((withObj (obj0 2)).obj? 0 0).isSome = true ∧ (obj0 2).tier = 1 ∧ 0 * 4096 < (obj0 2).length ∧ (obj0 2).length ≤ 1 * 4096 ∧
    nbr0.tier ≠ 1 ∧ withRead.tiers.reads.find? (fun r => r.part == 0 && r.handle == 0 && decide (r.gran ≤ 0) && decide (0 < r.gran + r.n)) = some read0 ∧
    live.tiers.reads = [] ∧ live.obj? 0 0 = none := by decide +kernel
/-- LowerTierReads: a host granule in flight, none, and an engine that drains. -/
theorem test_granule_held : (withObj (obj0 2)).tierHolds 0 = false ∧ ((withObj (obj0 2)).wr F.rstEngInr (2 ^ 14)).tierHolds 0 = true ∧
    ((withObj (obj0 2)).wr F.rstFabInr (2 ^ 8)).hostStopped 0 = true ∧ (obj0 2).hmode ≠ 2 ∧ { obj0 2 with hmode := 2 }.hmode = 2 ∧ read0.rounds = 0 ∧
    { read0 with rounds := 1 }.rounds ≠ 0 ∧ (withObj (obj0 2)).tiers.reads = [] := by decide +kernel
theorem test_tier_replies : live.chanPart 0 = none ∧ withRead.chanPart 0 = some 0 ∧ withRead.restoreData 0 5 none = (false, withRead) ∧
    withRead.nbrRead? 0 5 = some read0 ∧ withRead.nbrRead? 0 6 = none ∧ tget? withRead.tiers.msgs 6 = some ⟨0, 1, none⟩ ∧
    withRead.nbrRead? 0 7 = none ∧ tget? withRead.tiers.msgs 7 = none ∧ tget? withRead.net.chans 0 = some chan0 ∧
    withRead.obj? 0 0 = some nbr0 := by decide +kernel

def lend0 : Lend := ⟨0, 0, 0x4000, 4096, [(0, 128)], none⟩
def withLend (l : Lend) : State := (live.modTier 0 (fun t => { t with lends := [(0, l)] })).setChan 0 chan0
/-- LendsAndTheirAnswers: a lend registered, released, asked for inside and past its end, sealed and not. -/
theorem test_lends : startsRun (live.setChan 0 chan0) 0x28 (dsc (at24 0x4000 + 4096 * 2 ^ 128)) State.runLendRegister (fun r t =>
    !thas (t.part r.part).tier.lends 0 && (match t.chan? r.part 0 with
    | some x => x.2.state == 2
    | none => false) && t.rwArea r.part 0x4000 4096) = true ∧
    startsRun (withLend lend0) 0x29 (dsc 0) State.runLendRelease (fun r t => decide (tget? (t.part r.part).tier.lends 0 = some lend0)) = true ∧
    tget? (live.part 0).tier.lends 0 = none ∧ (withLend lend0).lend? 0 0 = some (0, lend0) ∧ live.lend? 0 0 = none ∧ lend0.inside 4096 1 = false ∧
    lend0.inside 0 4096 = true ∧ lend0.sealedAll 0 128 = true ∧ lend0.sealedAll 0 129 = false ∧ lend0.sealedAny 127 1 = true ∧
    lend0.sealedAny 128 128 = false ∧ { lend0 with len := 131072 }.inside 0 65537 = true := by decide +kernel

/-- A promotion entry, its list in plan 0, and its parts. -/
def promo0 : PromoEntry := ⟨0, 0, 0, 0, 0, 0, 0x1001, 0x4000, 0, 0, some 0, [], false, false, 0, false⟩
def withPromo (e : PromoEntry) (ready : Bool) : State :=
  let s := (poke live 0x4000 shardImage).modTier 0 (fun t => { t with promos := [(0, ⟨0x2000, [e], none⟩)] })
  s.setTiers (fun t => { t with ops := [(0, ⟨0, 0, 0, 4096, .promo 0 0, [], [], if ready then [(0, List.replicate 4096 0)] else [], false⟩)] })
/-- PromotionsAndDemotions. -/
theorem test_promo_register : startsRun withPlan 0x26 (dsc (1 * 2 ^ 16 + at24 0x4000)) State.runPromoRegister (fun r t =>
    decide ((dsc (1 * 2 ^ 16 + at24 0x4000)).fld 16 13 = 1) && decide ((tget? (t.part r.part).cad.plans 0).map (fun x => x.releasing) = some none) &&
    !thas (t.part r.part).tier.promos 0 && (t.descRead r.part 0x4000 128).1.isSome && (t.descRead r.part (2 ^ 40) 128).1.isNone &&
    (tget? (t.part r.part).cad.plans 1).isNone) = true := by decide +kernel
theorem test_promo_release : startsRun (withPromo promo0 true) 0x27 (dsc 0) State.runPromoRelease (fun r t =>
    decide ((tget? (t.part r.part).tier.promos 0).map (fun l => l.releasing) = some none) && (tget? (t.part r.part).tier.promos 1).isNone) = true := by
  decide +kernel
/-- An operation that is ready with its shard image, one still waiting, a shard number taken, and a demotion read but not written. -/
theorem test_promo_complete : let s := withPromo promo0 true;
    s.promoEntry? 0 0 0 = some promo0 ∧ s.promoEntry? 0 0 1 = none ∧ ((tget? s.tiers.ops 0).map (fun x => x.ready)) = some true ∧
    { (⟨0, 0, 0, 4096, .promo 0 0, [1], [], [], false⟩ : TierOp) with queue := [1] }.ready = false ∧
    (match s.descRead 0 0x4000 128 with
    | (some b, u) => let sh : Shard := { shardOf b with commits := 0, root := 0 };
      let w := u.writePva (u.engCtx 0 engTier) sh.curSet (List.replicate 8 0) false;
      !w.1 && !thas ((w.2.tierDrop 0).part 0).shards 0 && (w.2.tierDrop 0).shardOk 0 b
    | _ => false) = true ∧ (s.writePva (s.engCtx 0 engTier) (2 ^ 40) [0] false).1 = true := by decide +kernel
theorem test_demotion : let e := { promo0 with state := 2, reading := true };
    let s := (((withPromo e true).wr F.pObjMax 16 0).modTier 0 (fun t => { t with objs := [(0, obj0 2), (1, { obj0 1 with gen := 1 })] })).putShard 0 0 shard0;
    s.promoEntry? 0 0 0 = some e ∧ e.state = 2 ∧ e.reading = true ∧ s.obj? 0 0x1001 = some { obj0 1 with gen := 1 } ∧ s.obj? 0 0 = some (obj0 2) ∧
    s.shard? 0 0 = some shard0 ∧ promo0.state ≠ 2 := by decide +kernel

/-- A swap of set 0 with a switch asked for tick 0 of a step that runs. -/
def swapOp0 : SwapOp := ⟨dref0, some 1, 0, 0, none, [], false⟩
def swap0 : SwapSet := ⟨0, 0, 0, 1, 0, 1, 1024, 1, 0, [], some swapOp0, none⟩
def withSwap (w : SwapSet) : State := withStep.modTier 0 (fun t => { t with swaps := [(0, w)] })
/-- SwapsAndIntakes: a set registered, with no index left, unaligned; a swap asked for, late, twice, onto a faulted side; its switch. -/
theorem test_swap_register : startsRun live 0x60 (dsc (2 ^ 32 + at24 (1024 * mib2) + 1 * 2 ^ 160)) State.runSwapRegister (fun r t =>
    let d := dsc (2 ^ 32 + at24 (1024 * mib2) + 1 * 2 ^ 160)
    let w : SwapSet := ⟨d.fld 6 3, d.fld 9 3, d.at 32 32, d.at 36 32, d.fld 12 2, d.fld 32 32, d.at 24 64 / mib2, 0, 0, [], none, none⟩
    decide ((List.range (t.rd F.pRtSize r.part)).find? (fun i => !thas (t.part r.part).rtNext i && !thas (t.part r.part).rt i) = some 1) &&
    (t.swap? r.part 0).isNone && d.at 24 64 % mib2 == 0 && t.rtEditOk r.part 1 (w.entry 0) && t.rtEditOk r.part 1 (w.entry 1)) = true ∧
    (let s := (live.wr F.pRtSize 1 0);
      (List.range (s.rd F.pRtSize 0)).find? (fun i => !thas (s.part 0).rtNext i && !thas (s.part 0).rt i) = none) ∧ (dsc (at24 1)).at 24 64 % mib2 ≠ 0 := by
  decide +kernel
theorem test_swap : startsRun (withSwap { swap0 with op := none }) 0x61 (dsc (at24 2)) State.runSwap (fun r t => match t.swap? r.part 0 with
    | some w => w.releasing.isNone && w.op.isNone && !w.faulted.contains (1 - w.active) &&
        decide (t.swapTick? r.part { swapOp0 with stepNo := some 2 } = none) && decide (t.swapTick? r.part swapOp0 = some 0) && decide (0 ≤ t.tick)
    | none => false) = true ∧ { swap0 with faulted := [1] }.faulted.contains (1 - swap0.active) = true ∧ swap0.op.isSome = true ∧
    startsRun (withSwap swap0) 0x62 (dsc 0) State.runSwapRelease (fun r t => decide ((t.swap? r.part 0).map (fun w => w.releasing) = some none)) = true ∧ live.swap? 0 0 = none := by
  decide +kernel
theorem test_swap_switch : let s := withSwap swap0;
    s.swap? 0 0 = some swap0 ∧ swap0.op = some swapOp0 ∧ s.swapTick? 0 swapOp0 = some 0 ∧ swapOp0.switched = false ∧ 0 ≤ s.tick ∧
    s.earlierStarted 0 0 = true ∧ s.writesInto 0 0 1 = [] ∧
    (let u := withSwap { swap0 with op := some { swapOp0 with before := [dref0] } };
     let v := u.setTiers (fun x => { x with intakes := [⟨dref0, 2 ^ 28 + 2 ^ 29, 0, 0, none⟩] });
     dref0 ∈ v.writesInto 0 0 1) ∧ { swapOp0 with switched := true }.switched = true := by decide +kernel
/-- SwapsAndIntakes: a swap of a step that has ended. -/
theorem test_swap_gone : startsRun ((withSwap { swap0 with op := none }).modCad 0 (fun c => { c with steps := [], lastStep := some 1 })) 0x61
    (dsc (at24 1)) State.runSwap (fun r t => match t.swap? r.part 0 with
    | some w => w.releasing.isNone && decide ((t.part r.part).cad.lastStep = some 1) && (t.part r.part).cad.steps.isEmpty
    | none => false) = true := by decide +kernel

/-- A conversion block of one element from format 0 to format 0, and an intake of it waiting at hub 0. -/
def intImage : Nat := 0x10 + 2 ^ 96 + 2 ^ 128 + 2 ^ 160 + 0x5000 * 2 ^ 192 + 0x6000 * 2 ^ 384 + 2 ^ 448
def intake0 (op : Option Nat) : IntakeOp := ⟨dref0, intImage, 0x4000, 0, op⟩
def withIntake (op : Option Nat) : State := live.setTiers (fun t => { t with intakes := [intake0 op], ops := [(0, ⟨0, 0, 0, 4, .intake 0, [], [], [], false⟩)] })
theorem test_intake : startsRun (poke live 0x4000 (leBytes 128 intImage)) 0x70 (dsc (0x4000)) State.runIntake (fun r t =>
    match t.descRead r.part ((dsc 0x4000).at 16 64) 128 with
    | (some bs, _) => decide (leNat bs = intImage) && fldN intImage 96 32 != 0 && fldN intImage 128 32 != 0 && !convRmBad (fldN intImage 20 8) &&
        (intOf intImage).kind == 0 && !(intOf intImage).swapDst && decide ((intOf intImage).sfmt ≤ 4) && decide ((intOf intImage).dfmt ≤ 9) &&
        fldN (intOf intImage).conv 0 5 == (intOf intImage).dfmt && fldN 0x11 0 8 != 0x10
    | _ => false) = true ∧ (live.descRead 0 (2 ^ 40) 128).1 = none := by decide +kernel
theorem test_intake_complete : live.tiers.intakes.find? (fun o => o.hub == 0) = none ∧
    (withIntake none).tiers.intakes.find? (fun o => o.hub == 0) = some (intake0 none) ∧ (withIntake none).intakeWaits 0 (intOf intImage) = false ∧
    (withIntake (some 0)).tiers.intakes.find? (fun o => o.hub == 0) = some (intake0 (some 0)) ∧ (tget? (withIntake (some 0)).tiers.ops 0).isSome = true := by
  decide +kernel

/-! ## 09: the network ports -/

def linked : State := live.wr F.npLink 1 0
def frame0 (k : FrameKind) : FrameIn := ⟨64, true, none, 0, 0, k⟩
def test0 : PortTest := ⟨64, 1, 1, 0, 3, 0, 0, 0, 0, 0⟩
def portIn (f : NPort → NPort) : State := linked.modNport 0 f

/-- PortLinksPartnersAndFrames: links, partners, one frame of each fate (64 and 9,022 bytes, and one less and more), responders, tests, parking. -/
theorem test_links : linked.rd F.npLink 0 = 1 ∧ live.rd F.npLink 0 ≠ 1 ∧ lanesOf ((live.wr F.npSpeed 4 0).rd F.npSpeed 0) ≠ 0 ∧ live.rst.stage = 5 ∧
    bitN (live.rd F.rstEngInr) 0 = false ∧ lanesOf 0 = 0 ∧ (linked.wr F.npPartner 1 0).rd F.npPartner 0 = 1 := by decide +kernel
theorem test_frames : linked.frameFate 0 { frame0 .other with fcsOk := false } = .fcs ∧ linked.frameFate 0 { frame0 .other with len := 63 } = .length ∧
    linked.frameFate 0 { frame0 .other with len := 9023 } = .length ∧ linked.frameFate 0 (frame0 .macControl) = .mac ∧
    linked.frameFate 0 { frame0 .other with len := 9022 } = .filtered ∧ linked.frameFate 0 (frame0 .badIpChecksum) = .checksum ∧
    linked.frameFate 0 (frame0 (.arp 5 6)) = .delivered ∧ linked.frameFate 0 (frame0 .portControl) = .delivered := by decide +kernel
theorem test_responders : (let s := (linked.wr F.npIpv4 0x0A000001 0).wr F.npIpMode 1 0; s.hasFamily 0 false = true ∧ s.rd F.npIpv4 0 = 0x0A000001) ∧
    (let s := (linked.wr F.npIpv6 1 0 3).wr F.npIpMode 2 0; s.hasFamily 0 true = true ∧ s.portAddr 0 true = 1) ∧
    (linked.wr F.npEchoEn 1 0).rd F.npEchoEn 0 = 1 ∧ (1500 : BitVec 16).toNat ≤ 1500 ∧ (linked.nport 0).echoes < 100 ∧
    ¬ (portIn (fun p => { p with echoes := 100 })).nport 0 = linked.nport 0 := by decide +kernel
theorem test_port_tests : (linked.nport 0).test = none ∧ ((portIn (fun p => { p with test := some test0 })).nport 0).test = some test0 ∧ test0.sent ≤ 3 ∧
    2 < test0.sent ∧ (linked.nport 0).parking = none ∧
    (let s := (portIn (fun p => { p with parking := some 5 })).wr F.cadTickNow 7;
      (s.nport 0).parking = some 5 ∧ (s.nport 0).queued = [] ∧ 5 + 2 ≤ s.tick ∧ (s.nport 0).lastRx + 2 ≤ s.tick) := by decide +kernel
/-- LaneWidthChanges. -/
theorem test_widths : (linked.nport 0).asked = none ∧ linked.rd F.npPartner 0 ≠ 1 ∧ (linked.wr F.npPartner 1 0).rd F.npPartner 0 = 1 ∧
    ((portIn (fun p => { p with asked := some (4, 9, 1) })).nport 0).asked = some (4, 9, 1) ∧ (linked.nport 0).change = none ∧
    ((portIn (fun p => { p with change := some (4, 9) })).nport 0).change = some (4, 9) ∧
    ((portIn (fun p => { p with change := some (4, 9) })).nport 0).held = false ∧
    ((portIn (fun p => { p with change := some (4, 9), held := true })).nport 0).held = true := by decide +kernel

/-! ## 10: Gnoxel -/

def withChan (c : Chan) : State := live.setChan 0 c
def hdr0 (type : Byte) : GnxHdr :=
  ⟨0, 2, 0x12, type, true, false, false, 0, 0, 0, 0, 0, 0, 0, 64, 0, false, 0⟩
def buf0 : GnxBuf := ⟨7, 0x4000, 64, none, false, .desc dref0⟩
def tx0 : TxMsg := ⟨0, 0x4000, 64, none, true, 0, [], [], [], .desc dref0⟩
def flight0 : Flight := ⟨0, 0, 0, 0, 0, 0⟩

/-- ChannelDescriptors: an open that is taken (CID 5, and any CID), one the limits refuse; handles that name nothing; a buffer posted, unmapped, revoked; a send; a query. -/
theorem test_channel_open : startsRun live 0x30 (dsc (5 + 1 * 2 ^ 48)) State.runOpen (fun r t =>
    let d := dsc (5 + 1 * 2 ^ 48)
    let a : ChanAsk := { part := r.part, cid := 5, peerPart := 0, queue := 0, mode := 0, enc := false, kslot := 0, npath := 64, grantTick := 1, pkey := 0, peerIp := d.addr 32 }
    decide (d.fld 22 3 ≤ 5) && d.fld 48 16 == 1 && !t.confidential r.part && t.mayOpen a && !t.mayOpen { a with mode := 3 } &&
    decide (tfree t.net.chans 16384 = some 0)) = true ∧ (dsc (0xFFFF + 1 * 2 ^ 48)).fld 0 16 = 0xFFFF := by decide +kernel
theorem test_channel_handles : startsRun live 0x34 (dsc 0) State.runSend (fun r t => (t.openChan? r.part 0).isNone && (t.chan? r.part 0).isNone) = true ∧
    startsRun (withChan chan0) 0x31 (dsc 0) State.runClose (fun r t => decide (t.openChan? r.part 0 = some (0, chan0))) = true ∧
    startsRun (withChan chan0) 0x32 (dsc (at24 0x4000 + 64 * 2 ^ 128)) State.runPost (fun r t => decide (64 ≤ (dsc (at24 0x4000 + 64 * 2 ^ 128)).at 32 32) &&
      t.mapped r.part (t.part r.part).rt 0x4000 64 false && !t.mapped r.part (t.part r.part).rt (2 ^ 40) 64 false) = true ∧
    startsRun (withChan { chan0 with bufs := [buf0] }) 0x33 (dsc (7 * 2 ^ 32)) State.runRevoke (fun r t => decide ((dsc (7 * 2 ^ 32)).at 20 32 = 7) &&
      (t.openChan? r.part 0).isSome) = true ∧
    startsRun (withChan chan0) 0x35 (dsc (at24 0x4000)) State.runQuery (fun r t => (t.chan? r.part 0).isSome) = true := by decide +kernel
theorem test_revoke_none : (∀ b ∈ chan0.bufs, ¬ (b.tag = 7 ∧ ∃ x, b.owner = .desc x)) ∧
    ({ chan0 with bufs := [buf0] } : Chan).bufs = [] ++ buf0 :: [] ∧ (buf0.tag = 7 ∧ ∃ x, buf0.owner = .desc x) := by
  exact ⟨by simp [chan0], rfl, rfl, dref0, rfl⟩

/-- OpeningAndEndingOfChannels. -/
def inService : State := (((live.wr F.npLink 1 0).wr F.npPmode pmService 0).wr F.npIpv4 0x0A000001 0).wr F.npIpMode 1 0
def v4 (a : Nat) : Nat := mapped4 a
def open0 : GnxOpen := ⟨0, BitVec.ofNat 128 (v4 0x0A000001), 9, 0, 0x10, 0x12, 4096, 0, false, [BitVec.ofNat 128 (v4 0x0A000002)], 0, 0, 77⟩
def pending0 : Chan := { chan0 with state := 1, ackSent := false, ackSeen := false, peerIp := v4 0x0A000002, nonce := 3 }
theorem test_channel_ends : tget? live.net.chans 0 = none ∧ tget? (withChan chan0).net.chans 0 = some chan0 ∧
    (let s := inService.setChan 0 { chan0 with peerIp := v4 0x0A000002, addrs := [v4 0x0A000002], flights := [flight0] };
      s.hasPath { chan0 with peerIp := v4 0x0A000002, addrs := [v4 0x0A000002] } = true) ∧ live.hasPath chan0 = false ∧
    ({ chan0 with flights := [flight0] } : Chan).flights.find? (fun f => f.psn % 2 ^ 32 == (0 : Word).toNat) = some flight0 ∧
    chan0.flights.find? (fun f => f.psn % 2 ^ 32 == (0 : Word).toNat) = none := by decide +kernel
theorem test_open_rx : let s := inService.setChan 0 pending0;
    s.net.chans.find? (fun e => e.2.ackSent && e.2.peerNonce == open0.nonce.toNat && e.2.peerCid == open0.scid.toNat && e.2.part == open0.peerPart.toNat) = none ∧
    s.net.chans.filter (fun e => s.openMatches open0 e.2) = [(0, pending0)] ∧ s.localPorts pending0 = [0] ∧
    agreedVersion (s.rd F.idGnxMin) (s.rd F.idGnxMax) 0x10 0x12 ≠ none ∧ agreedVersion (s.rd F.idGnxMin) (s.rd F.idGnxMax) 0x20 0x21 = none ∧
    pending0.mode = open0.mode.val ∧ pending0.enc = open0.enc ∧ ({ open0 with mode := 1 } : GnxOpen).mode.val ≠ pending0.mode ∧
    live.net.chans.filter (fun e => live.openMatches open0 e.2) = [] := by decide +kernel
theorem test_open_ack : (hdr0 5).pkey.toNat = chan0.pkey ∧ ({ hdr0 5 with pkey := 1 } : GnxHdr).pkey.toNat ≠ chan0.pkey ∧ pending0.nonce = (3 : BitVec 128).toNat ∧
    pending0.state = 1 ∧ pending0.ackSent = false ∧ chan0.state ≠ 1 ∧ { chan0 with state := 3 }.state = 3 ∧ (live.gnxCheck (hdr0 6) []).1 = none ∧
    ((withChan chan0).gnxCheckIn [2, 3] (hdr0 6) (ctlBytes 6 [0])).1.isSome = true ∧ live.hubStopped 0 = false ∧
    (live.wr F.rstFabInr (2 ^ 10) 0).hubStopped 0 = true ∧ chan0.ackSent = true ∧ (hdr0 5).ver.toNat = chan0.version ∧
    ({ hdr0 5 with ver := 0x11 } : GnxHdr).ver.toNat ≠ chan0.version := by decide +kernel

/-- ChannelPackets: one packet of each fate at an established channel, with and without encryption; the data, acknowledgement and control packets. -/
theorem test_packets : ((withChan chan0).gnxCheck (hdr0 10) []).1.isSome = true ∧ (hdr0 1).ver.toNat = chan0.version ∧
    ({ hdr0 1 with ver := 0x11 } : GnxHdr).ver.toNat ≠ chan0.version ∧ ¬ (11 : Byte).toNat ≤ 10 ∧ (hdr0 1).plen.toNat ≤ chan0.maxPay ∧
    ({ chan0 with enc := true } : Chan).enc = true ∧ (hdr0 1).enc = false ∧
    ((withChan { chan0 with enc := true }).gnxCheck (hdr0 10) []).1 = none := by decide +kernel
theorem test_data : unwrapN 32 { chan0 with cumPsn := 1 }.cumPsn (hdr0 1).psn.toNat = some 0 ∧ (0 : Nat) < { chan0 with cumPsn := 1 }.cumPsn ∧
    unwrapN 32 chan0.cumPsn ({ hdr0 1 with psn := 4096 } : GnxHdr).psn.toNat = some 4096 ∧ chan0.cumPsn + 4096 ≤ 4096 ∧
    unwrapN 32 chan0.cumPsn ({ hdr0 1 with psn := 4095 } : GnxHdr).psn.toNat = some 4095 ∧ 4095 < chan0.cumPsn + 4096 ∧ chan0.seen.contains 4095 = false ∧
    unwrapN 24 chan0.rcvLow ({ hdr0 1 with msn := 4095 } : GnxHdr).msn.toNat = some 4095 ∧ chan0.doneMsns.contains 4095 = false ∧
    chan0.msgs.find? (fun m => m.msn == 4095) = none ∧ chan0.bufs.find? (fun b => b.bound.isNone) = none ∧
    ({ chan0 with bufs := [buf0] } : Chan).bufs.find? (fun b => b.bound.isNone) = some buf0 ∧
    (tget? (((withChan { chan0 with bufs := [buf0] }).placePacket 0 (hdr0 1) 0 [])).net.chans 0).isSome = true := by decide +kernel
theorem test_controls : chan0.flights = [] ∧ chan0.sends = [] ∧ (0 : DWord).toNat ≤ chan0.peerRcv ∧ unwrapN 32 chan0.cumAcked (0 : Word).toNat = some 0 ∧
    chan0.mode ≠ 2 ∧ (match ((withChan { chan0 with sends := [tx0], flights := [flight0] }).gnxCheck (hdr0 10) (ctlBytes 10 [0, 0, 1])).1 with
      | some (k, c) => k == 0 && decide (c.sends = [tx0]) && decide (c.flights = [flight0])
      | none => false) = true ∧
    [tx0].find? (fun m => m.started && m.msn % 2 ^ 24 == (0 : BitVec 24).toNat) = some tx0 ∧
    [flight0].find? (fun f => f.msn == tx0.msn && f.offset == (0 : Word).toNat) = some flight0 := by decide +kernel
theorem test_violations : (6 : Byte).toNat > 5 ∧ (0 : Byte).toNat < 1 ∧ tget? (live.sendViolAck (hdr0 8)).net.chans 0 = none ∧
    tget? ((withChan chan0).sendViolAck (hdr0 8)).net.chans 0 = some chan0 ∧ chan0.state = 2 := by decide +kernel

/-! ## 11: collectives -/

/-- A group of one member, itself; a sheaf of it; a list entry that gathers one byte in ticks 0 to 0 of a step of two ticks. -/
def groupImage : Nat := 0x10 + 1 * 2 ^ 12 + 1 * 2 ^ 19
def sheafImage : Nat := 0x10 + 1 * 2 ^ 64 + 0x30000 * 2 ^ 256 + 0x40000 * 2 ^ 320 + 0x50000 * 2 ^ 384
def entryImage : Nat := 1 + 1 * 2 ^ 64 + 0x10000 * 2 ^ 192 + 0x20000 * 2 ^ 256 + 1 * 2 ^ 320
def group0 : CollGroup := groupOf groupImage
def sheaf0 : Sheaf := sheafOf sheafImage
def withGroup : State := withPlan.modColl 0 (fun c => { c with groups := [(0, group0)], sheaves := [(0, sheaf0)] })

/-- CollectiveRegistrations: images that are taken, handles in use, unreadable images, releases. -/
theorem test_group_register : startsRun (poke live 0x4000 (leBytes 128 groupImage)) 0x40 (dsc (at24 0x4000)) State.runGroupRegister (fun r t => (t.group? r.part 0).isNone &&
    (match t.descRead r.part 0x4000 1088 with
    | (some bs, u) => u.groupOk r.part 0 (leNat bs) && !u.groupOk r.part 1 (leNat bs) && !u.confidential r.part
    | _ => false) && (t.descRead r.part (2 ^ 40) 1088).1.isNone) = true := by decide +kernel
theorem test_sheaf_register : startsRun (poke (live.modColl 0 (fun c => { c with groups := [(0, group0)] })) 0x4000 (leBytes 128 sheafImage)) 0x42 (dsc (at24 0x4000)) State.runSheafRegister
    (fun r t => (t.sheaf? r.part 0).isNone && (match t.descRead r.part 0x4000 128 with
    | (some bs, u) => u.sheafOk r.part 0 (leNat bs) && !u.sheafOk r.part 1 (leNat bs) && !bitN (leNat bs) 202 &&
        decide (decayClamp (fldN (leNat bs) 224 32) = (fldN (leNat bs) 224 32, none))
    | _ => false) && (t.descRead r.part (2 ^ 40) 128).1.isNone) = true := by decide +kernel
theorem test_coll_releases : startsRun withGroup 0x41 (dsc 0) State.runGroupRelease (fun r t => decide ((t.group? r.part 0).map (fun x => x.releasing) = some none) &&
      decide ((t.sheaf? r.part 0).map (fun x => x.releasing) = some none) && (t.group? r.part 1).isNone) = true ∧
    (let s := withPlan.modColl 0 (fun c => { c with lists := [(0, ⟨[], none⟩)], ledgers := [(0, ⟨0, [], [], 0, none⟩)] });
      tget? (s.part 0).coll.lists 0 = some ⟨[], none⟩ ∧ tget? (s.part 0).coll.ledgers 0 = some ⟨0, [], [], 0, none⟩ ∧
      tget? (s.part 0).coll.lists 1 = none ∧ tget? (s.part 0).coll.ledgers 1 = none) := by decide +kernel
theorem test_lists : startsRun (poke (poke withGroup 0x4000 (leBytes 64 entryImage)) 0x5000 (List.replicate 32 0)) 0x44 (dsc (1 * 2 ^ 16 + at24 0x4000)) State.runCollListRegister (fun r t =>
    (t.livePlan r.part 0).isSome && (t.livePlan r.part 1).isNone && !thas (t.part r.part).coll.lists 0 && !thas (t.part r.part).coll.ledgers 0 &&
    (dsc (1 * 2 ^ 16 + at24 0x4000)).fld 16 11 == 1 && (dsc (1024 * 2 ^ 16)).fld 16 11 == 1024 && (dsc (65536 * 2 ^ 32)).at 20 32 == 65536 &&
    (match t.descRead r.part 0x4000 64 with
    | (some bs, u) => u.entryOk r.part 2 (leAt bs 0 64)
    | _ => false) && (match t.descRead r.part 0x5000 32 with
    | (some bs, u) => u.ledgerEntryOk r.part (leAt bs 0 32)
    | _ => false)) = true := by decide +kernel
theorem test_permute : live.permRoom 0 = true ∧ withStep.permRoom 0 = false ∧ startsRun live 0x48 (dsc 0x4000) State.runPermute (fun r t =>
    (t.descRead r.part ((dsc 0x4000).at 16 64) 128).1.isSome && (t.group? r.part 0).isNone && (t.descRead r.part (2 ^ 40) 128).1.isNone) = true := by
  decide +kernel
/-- A permute that moves one leaf from rank 0 to rank 1 of a group of two: its block and its two maps, which R439 takes; those of a map that does not cover
the tensor it does not. -/
def permBlock (newLen : Nat) : List Byte := leBytes 128 (0x10 + 0x200000 * 2 ^ 64 + 0x100000 * 2 ^ 128 + 0x300000 * 2 ^ 192 + 1 * 2 ^ 256 + 1 * 2 ^ 272 +
  1 * 2 ^ 278 + 0x4080 * 2 ^ 320 + 0x4090 * 2 ^ 384 + 0x100000 * 2 ^ 448) ++ leBytes 16 (0x100000 * 2 ^ 64) ++ leBytes 16 (newLen * 2 ^ 64 + 1 * 2 ^ 120)
def permReady (newLen : Nat) : State := poke (live.modColl 0 (fun c => { c with groups := [(0, groupOf (0x10 + 2 * 2 ^ 12))] })) 0x4000 (permBlock newLen)
def permTaken (r : DRef) (t : State) : Bool :=
  match t.descRead r.part 0x4000 128 with
  | (some bs, u) =>
    let b := leNat bs
    match u.group? r.part (fldN b 8 4), u.descRead r.part (fldN b 320 64) (16 * permCount (fldN b 272 6)) with
    | some g, (some ob, v) => match v.descRead r.part (fldN b 384 64) (16 * permCount (fldN b 278 6)) with
      | (some nb, w) => w.permuteOk r.part (fldN b 0 8) (fldN b 128 64) g (permuteOf r 0x4000 b g.self ob nb) && (w.part r.part).coll.permEarly.isEmpty
      | _ => false
    | _, _ => false
  | _ => false
theorem test_permute_taken : (permReady 0x100000).permRoom 0 = true ∧ startsRun (permReady 0x100000) 0x48 (dsc 0x4000) State.runPermute permTaken = true ∧
    startsRun (permReady 0) 0x48 (dsc 0x4000) State.runPermute (fun r t => !permTaken r t) = true := by decide +kernel
theorem test_chaff : startsRun live 0x49 (dsc 65536) State.runChaffSet (fun _ _ => (dsc 65536).at 16 32 == 65536 && (dsc 64).at 16 32 == 64 && (dsc 0).at 16 32 == 0) = true := by
  decide +kernel
def filler0 : FillerList := ⟨dref0, 1, 0x4000, 0x5000, 0, [], [], none⟩
theorem test_fillers : startsRun (live.wr F.pFillBy 0 1) 0x4A (dsc (1 + at24 0x4000)) State.runFillerPost (fun r t => t.mayFill r.part 1 && !t.mayFill r.part 0 &&
      (t.descRead r.part 0x4000 0).1.isSome) = true ∧
    startsRun (live.modColl 0 (fun c => { c with fillers := [filler0] })) 0x4B (dsc (1 + at24 0x4000)) State.runFillerWithdraw (fun r t =>
      decide ((t.part r.part).coll.fillers.find? (fun l => l.host == 1 && l.pva == 0x4000 && l.withdrawn.isNone) = some filler0) &&
      decide ((t.part r.part).coll.fillers.find? (fun l => l.host == 2 && l.pva == 0x4000 && l.withdrawn.isNone) = none)) = true := by decide +kernel

/-- CollectiveTraffic: an entry that begins, waits for its tick or its signal, and is overdue; a sheaf open, closing, missing maps, final. -/
def withList (r : StepRun) (e : Nat) : State :=
  withGroup.modPart 0 (fun x => { x with cad := { x.cad with steps := [r] }, coll := { x.coll with lists := [(0, ⟨[e], none⟩)] } })
def run2 : StepRun := { step0 with nticks := 2 }
theorem test_entries : (withList run2 entryImage).entryToBegin 0 0 = some run2 ∧ live.entryToBegin 0 0 = none ∧ live.entryOverdue 0 0 = none ∧
    ((withList run2 entryImage).wr F.cadTickNow 1).entryOverdue 0 0 = some run2 ∧ (withList run2 entryImage).entry? 0 0 0 = some (run2, entryImage) ∧
    ((withList run2 entryImage).entryRun 0 0 0).begun = false ∧ ((withList run2 entryImage).entryRun 0 0 0).failed = false ∧ bitN entryImage 102 = false ∧
    (withList run2 entryImage).group? 0 (eGroup entryImage) = some group0 ∧ (withList run2 entryImage).tick < run2.first + eStart (entryImage + 2 ^ 16) ∧
    bitN (entryImage + 2 ^ 102 + 2 ^ 128) 102 = true ∧ (withList run2 (entryImage + 2 ^ 102 + 2 ^ 128)).signal 0 0 < fldN (entryImage + 2 ^ 102 + 2 ^ 128) 128 32 := by decide +kernel
def close0 : SheafClose := ⟨1, 0, 0, [], false, false, none, 0⟩
def withSheaf (h : Sheaf) : State := (withList run2 0).putSheaf 0 0 h
theorem test_sheaf_close : (withSheaf sheaf0).sheafOpen? 0 0 = some (run2, 0) ∧ live.sheafOpen? 0 0 = none ∧ live.sheaf? 0 0 = none ∧
    (withSheaf { sheaf0 with close := some close0 }).sheaf? 0 0 = some { sheaf0 with close := some close0 } ∧
    (withSheaf sheaf0).group? 0 sheaf0.group = some group0 ∧ (withSheaf sheaf0).mapsMissing 0 sheaf0 group0 close0 = [] ∧
    ((withSheaf sheaf0).activeStep 0 1).isSome = true ∧ thas sheaf0.banks 1 = false ∧
    ({ close0 with final := some [] } : SheafClose).final.isSome = true ∧ thas ({ sheaf0 with banks := [(1, 3)] } : Sheaf).banks 1 = true := by decide +kernel
/-- Two replicas of one shard in an epoch together: a map is missing. -/
theorem test_maps_missing : let x : CollGroup := groupOf (0x10 + 2 * 2 ^ 12 + 2 * 2 ^ 19 + 5 * 2 ^ 640);
    (withSheaf sheaf0).mapsMissing 0 sheaf0 x close0 ≠ [] := by decide +kernel
theorem test_decide : bitN (nthD [1] 0 0) 0 = true ∧ bitN (nthD [0, 1] (1 : Nat) 0) 0 = true ∧ (9 : Nat) - 1 = 8 ∧ 8 < (10 : Nat) - 1 ∧
    bitN (nthD [0] 1 0) 0 = false := by decide +kernel
/-- A message of a group at the front of a channel: its header as the group would take it, a bad one, and no message. -/
def pieceMsg (kind : Byte) : List Byte := [0x10, kind, 0, 0] ++ List.replicate 60 0
def withPiece (kind : Byte) : State :=
  (poke withGroup 0x4000 (pieceMsg kind)).setChan 0 { chan0 with taken := [⟨0, 0x4000, 64, none, true, .engine 2 0⟩] }
theorem test_piece : ((withPiece 0x12).takeMsg 0).1 = some (⟨0, 0x4000, 64, none, true, .engine 2 0⟩, pieceMsg 0x12) ∧
    ((withPiece 0x12).takeMsg 0).2.group? 0 0 = some group0 ∧ (collHdr (pieceMsg 0x12)).mver = 0x10 ∧ (collHdr (pieceMsg 0x12)).group = 0 ∧
    (groupOf (groupImage + 1 * 2 ^ 12)).rankOf (chan0.handle 0) = some 1 ∧ 64 + (collHdr (pieceMsg 0x12)).len ≤ (pieceMsg 0x12).length ∧
    (collHdr (pieceMsg 0x17)).kind = 0x17 ∧ (collHdr (0 :: (pieceMsg 0x11).drop 1)).mver ≠ 0x10 ∧ (withChan chan0).net.chans = [(0, chan0)] ∧ chan0.taken = [] := by
  decide +kernel
/-- A group with rings, its member 0, and a member whose flight is empty. -/
def ringGroup : CollGroup := { groupOf (groupImage + 1 * 2 ^ 32) with ring := 0x10000 }
theorem test_rings : live.group? 0 0 = none ∧ ringGroup.ringSlots ≠ 0 ∧ (ringGroup.members[0]?).map (fun m => m.flight) = some [] ∧
    (let s := live.modColl 0 (fun c => { c with groups := [(0, ringGroup)] }); s.group? 0 0 = some ringGroup) ∧
    (collHdr (List.replicate 64 0)).seq ≠ (0 + 1) % 2 ^ 32 := by decide +kernel

/-! ## 12: jobs, membership, commits -/

def member0 : JobMember := ⟨0, 0, 0, none, none, 0, 0⟩
/-- A job of two members of which this is the first, both active. -/
def job0 : Job :=
  { n := 2, self := 0, anchor := 0, jobId := 77, members := [member0, { member0 with domain := 1 }], active := [0, 1], version := 0x10, heard := [], reports := [],
    excused := [], accepted := none, accepts := [], readies := [], roots := [], ckdone := [], joined := [], stated := [], lastRenew := 0, pauseAt := none,
    pauseAcks := [], restarting := false, joinOwed := false, leaving := none }
def withJob (j : Job) : State := (live.modCont 0 (fun c => { c with job := some j })).wr F.pJstate jsActive 0

/-- An image of a job of one member, the module whose serial number is 0, in epoch 1. -/
def jobImage : Nat := 0x10 + 1 * 2 ^ 8 + 77 * 2 ^ 64 + 1 * 2 ^ 128
/-- JobDescriptors, JOB_REGISTER: the image names the module, whose serial number is a free value of Config; here for the value 0. -/
theorem test_job_register (h : Config.serialNumber = 0) : startsRun (poke live 0x4000 (leBytes 64 jobImage)) 0x50 (dsc 0x4000) State.runJobRegister (fun r t =>
    match t.descRead r.part 0x4000 2112 with
    | (some bs, u) => u.jobOk r.part (leNat bs)
    | _ => false) = true := by
  unfold startsRun State.runJobRegister State.jobOk
  rw [h]
  decide +kernel
theorem test_job_members : (∀ m ∈ (List.range 1).map (jobMember jobImage), buddyKept [member0] m m.buddy0 = m.buddy0 ∧ buddyKept [member0] m m.buddy1 = m.buddy1) ∧
    (withJob job0).jobOk 0 jobImage = false ∧ (live.descRead 0 (2 ^ 40) 2112).1 = none := by decide +kernel
theorem test_job_leave : startsRun (withJob job0) 0x51 (dsc 0) State.runJobLeave (fun r t => match t.job? r.part with
    | some j => j.leaving.isNone && decide (j.others = [1]) && decide ({ j with active := [0] }.others = [])
    | none => false) = true ∧ live.job? 0 = none := by decide +kernel
theorem test_ckpt_set : startsRun (withJob job0) 0x52 (dsc 0) State.runCkptSet (fun r t => match t.job? r.part with
    | some j => decide (j.members[j.self]? = some member0) && member0.buddy0.isNone && member0.buddy1.isNone && (t.part r.part).cont.setting.isNone &&
        (t.part r.part).cont.ckpt.isNone
    | none => false) = true := by decide +kernel
theorem test_cursor : startsRun live 0x53 (dsc (0x4000 + 4096 * 2 ^ 64)) State.runCursor (fun r t => decide ((dsc (0x4000 + 4096 * 2 ^ 64)).at 24 13 = 4096) &&
    (t.descRead r.part 0x4000 16).1.isSome && (t.descRead r.part (2 ^ 40) 16).1.isNone) = true := by decide +kernel
theorem test_replay : startsRun ((withPlan.modCont 0 (fun c => { c with failed := some ⟨5, 0, []⟩ }))) 0x55 (dsc 5) State.runStepReplay (fun r t =>
    decide ((t.part r.part).cont.failed = some ⟨5, 0, []⟩) && decide (tget? (t.part r.part).cad.plans 0 = some plan0) && decide ((dsc 5).at 16 64 = 5) &&
    decide (t.actives r.part = []) && decide (t.rd F.pJstate r.part ≠ jsHold) && (tget? (t.part r.part).tier.promos 0).isNone &&
    decide ((dsc 4).at 16 64 ≠ 5)) = true := by decide +kernel
theorem test_rollback : startsRun ((live.wr F.pCkjob 3 0).wr F.pCommit 4 0) 0x56 (dsc 0) State.runRollback (fun r t => decide (t.rd F.pCkjob r.part = 3) &&
    decide (3 ≤ t.rd F.pCommit r.part) && (t.part r.part).cont.restore.isNone && decide (t.rd F.pCommit r.part < 5)) = true := by decide +kernel
theorem test_restore_member : startsRun (withJob job0) 0x57 (dsc (1 + at24 0x4000)) State.runMemberRestore (fun r t => match t.job? r.part with
    | some j => decide ((dsc (1 + at24 0x4000)).fld 0 6 < j.n) && decide (j.n ≤ 2) && (t.part r.part).cont.restore.isNone &&
        (t.descRead r.part 0x4000 0).1.isSome && (t.descRead r.part (2 ^ 40) 136).1.isNone
    | none => false) = true := by decide +kernel

/-- MembershipAndCommitMessages: quorums, messages of a member and of a stranger, of this epoch, an older and a newer one. -/
def cl0 : ClHdr := ⟨0x10, 1, 77, 0, 3⟩
def stated0 (s : State) : ClStated :=
  ⟨BitVec.ofNat 8 (s.rd F.idCifMin), BitVec.ofNat 8 (s.rd F.idCifMax), BitVec.ofNat 32 (s.rd F.cadTickLen),
    BitVec.ofNat 64 (s.rd F.cadEpochSl + 2 ^ 32 * s.rd F.cadEpochSh), BitVec.ofNat 32 (s.rd F.cadEpochNs)⟩
theorem test_quorum : job0.quorum [0, 1] = true ∧ job0.quorum [0] = true ∧ job0.quorum [1] = false := by decide +kernel
theorem test_members : (withJob job0).fromMember 0 cl0 = some job0 ∧ (withJob job0).fromMember 0 { cl0 with src := 2 } = none ∧
    (withJob job0).stepMsg 0 cl0 = some job0 ∧ ((withJob job0).wr F.pEpoch 1 0).stepMsg 0 cl0 = none ∧ cl0.epoch.toNat = (withJob job0).rd F.pEpoch 0 ∧
    cl0.epoch.toNat < ((withJob job0).wr F.pEpoch 1 0).rd F.pEpoch 0 ∧ (withJob job0).rd F.pEpoch 0 < ({ cl0 with epoch := 1 } : ClHdr).epoch.toNat ∧
    (withJob { job0 with leaving := some dref0 }).fromMember 0 cl0 = some { job0 with leaving := some dref0 } := by decide +kernel
theorem test_lease : (withJob job0).job? 0 = some job0 ∧ (withJob job0).rd F.pJstate 0 = jsActive ∧
    (let s := (withJob job0).wr F.cadTickNow ((withJob job0).rd F.pLeaseTicks 0);
      job0.lastRenew + s.rd F.pLeaseTicks 0 / 16 ≤ s.tick) ∧ (withJob job0).tick < job0.lastRenew + (withJob job0).rd F.pLeaseTicks 0 / 16 ∧
    (let s := (withJob { job0 with excused := [(1, 3)] }).wr F.cadTickNow 4; tget? { job0 with excused := [(1, 3)] }.excused 1 = some 3 ∧ 3 < s.tick ∧
      ((s.modJob 0 (fun j => { j with excused := tdel j.excused 1 })).job? 0).isSome = true) := by decide +kernel
theorem test_stated : ((withJob job0).takeStated 0 1 (stated0 (withJob job0))).1 = true ∧
    ((withJob job0).takeStated 0 1 { stated0 (withJob job0) with tickLen := 0 }).1 = false ∧
    (((withJob job0).takeStated 0 1 (stated0 (withJob job0))).2.takePropose 0 1 3 0).job? 0 ≠ none ∧ job0.active.contains 1 = true := by decide +kernel
theorem test_step_messages : (withStep.part 0).cad.steps.find? (fun r => r.stepNo == 1 && r.fail.isNone) = some step0 ∧
    (live.part 0).cad.steps.find? (fun r => r.stepNo == 1 && r.fail.isNone) = none ∧ withShard.shard? 0 1 = none ∧ (withShard.shard? 0 0).isSome = true := by
  decide +kernel
/-- A packet heard: out of Still whatever it is, out of Idle for a partition; what it finds is as before. -/
theorem test_heard : ((live.wr F.pwrMstate 2).heard false).rd F.pwrMstate = 0 ∧ ((live.wr F.pwrMstate 1).heard false).rd F.pwrMstate = 1 ∧
    ((live.wr F.pwrMstate 1).heard true).rd F.pwrMstate = 0 ∧ ((withJob job0).heard false).fromMember 0 cl0 = some job0 ∧
    (((withChan chan0).heard true).gnxCheck (hdr0 10) []).1.isSome = true ∧ ((withChan chan0).heard true).hubStopped 0 = false := by decide +kernel

/-! ## 13: host links -/

/-- HostLinksAndPins: a port that runs with its pin high and low, before the release, with and without a link, attached and not. -/
theorem test_host_links : (live.port 0).perstN = true ∧ live.hostUp 0 = true ∧ (inRst (fun r => { r with stage := 3 })).hostUp 0 = false ∧
    (live.modPort 0 (fun h => { h with perstN := false })).port 0 ≠ live.port 0 ∧ ((live.modPort 0 (fun h => { h with perstN := false })).port 0).perstN = false ∧
    (live.wr F.hpLinkWidth 16 0).hostLink 0 = true ∧ (live.wr F.hpLinkWidth 0 0).hostLink 0 = false ∧ live.rd F.hpAttached 0 = 1 ∧
    State.reset.rd F.hpAttached 0 = 0 ∧ State.reset.hostUp 0 = true ∧ 0 < 36 ∧ 64 ≤ 64 ∧ live.portOf 0 = 0 ∧ (live.ring? (pairKey 0 0)).isSome = true := by
  decide +kernel
/-- The versions an attach may agree and may fail to agree (R491). -/
theorem test_attach_versions : hostAgreed (State.reset.rd F.idHifMin) (State.reset.rd F.idHifMax) (State.reset.rd F.idHifMin) 0xFF ≠ 0 ∧
    hostAgreed (State.reset.rd F.idHifMin) (State.reset.rd F.idHifMax) 0xFE 0xFF = 0 := by decide +kernel

/-! ## 14: rings, regions, messages -/

def ring1 : State := live.newRing (pairKey 0 1) 6 0 0 0 0 5 true 1 0
/-- One region of 2 MiB at offset 0 of BAR2 of port 0, reads and writes, over PVA 0. -/
def withBar2 : State := (live.wr F.hpLinkWidth 16 0).modPort 0 (fun h => { h with regions := [(0, ⟨0, 0, 1, 3, 0, none⟩)] })
/-- RingsRegionsAndMessages: new work read while the module is ready, a pending vector, a message due, links, hits and misses of BAR2. -/
theorem test_poll : live.hostUp 0 = true ∧ (inRst (fun r => { r with stage := 3 })).hostUp 0 = false ∧
    (let s := ring1.modPort 0 (fun h => { h with busyN := true });
      let k := pairKey 0 1;
      (s.port 0).busyN = true ∧ (s.ring? k).map (fun r => decide (r.sqHead < 1)) = some true ∧ ((1 : Nat) < 64)) ∧
    (let s := (live.wr F.hpCxlCache 1 0).wr F.hpWatchEn 1 0; s.rd F.hpCxlCache 0 = 1 ∧ s.rd F.hpWatchEn 0 = 1) := by decide +kernel
theorem test_messages : (let s := live.modPort 0 (fun h => { h with msixFnMask := false, vectors := [(2047, ⟨true, true⟩)] });
      tget? (s.port 0).vectors 2047 = some ⟨true, true⟩ ∧ (s.port 0).msixFnMask = false) ∧
    (ring1.ring? (pairKey 0 1)).map (fun r => r.vecEn) = some true ∧ live.ring? (pairKey 0 64) = none ∧ 0x12 ≤ ring1.rd F.hpHifAgreed (ring1.portOf 0) := by decide +kernel
theorem test_bar2 : let s := withBar2;
    s.hostLink 0 = true ∧ ((s.wakeBar2).bar2Find 0 4095 1 false).1 = some (0, 4095) ∧ ((s.wakeBar2).bar2Find 0 (2 ^ 21 - 1) 1 true).1 = some (0, 2 ^ 21 - 1) ∧
    ((s.wakeBar2).bar2Find 0 (2 ^ 21) 1 false).1 = none ∧ ((s.wakeBar2).bar2Find 0 (2 ^ 21 - 1) 2 true).1 = none ∧ (live.wr F.hpLinkWidth 0 0).hostLink 0 = false ∧
    keysRising (s.port 0).regions = true := by decide +kernel
/-- BAR2: a region being released, accesses that wait behind another or at a stop in reset, a read and a write that miss and that hit. -/
def withGone : State := (live.wr F.hpLinkWidth 16 0).modPort 0 (fun h => { h with regions := [(0, ⟨0, 0, 1, 3, 0, some dref0⟩)] })
def bar2At (ofs : Nat) (write : Bool) (k : Option (Nat × Nat) → State → Bool) : Bool :=
  let v := (withBar2.wakeBar2).asks (.bar2 0)
  let (hit, u) := v.bar2Find 0 ofs 1 write
  k hit u
theorem test_bar2_waits : (((withGone.wakeBar2).regionAt? 0 0).map (fun g => g.releasing.isSome)) = some true ∧ withBar2.tiers.asking = none ∧
    (((withBar2.modPort 0 (fun h => { h with waiting := [⟨0, 1, none⟩] })).wakeBar2).port 0).waiting ≠ [] ∧
    ((withBar2.wr F.rstFabInr (2 ^ 8)).wakeBar2).hostStopped 0 = true ∧ (withBar2.wakeBar2).hostStopped 0 = false ∧
    ((withBar2.wakeBar2).port 0).waiting = [] ∧ ((withBar2.wakeBar2).regionAt? 0 0).map (fun g => (withBar2.wakeBar2).memWaits g.part) = some false ∧ withBar2.wakeBar2.rd F.pwrMstate = 0 ∧
    (withBar2.wr F.pwrMstate 2).wakeBar2.rd F.pwrMstate = 2 ∧
    (((withBar2.wakeBar2).regionAt? 0 0).map (fun g => g.releasing.isSome)) = some false := by decide +kernel
theorem test_bar2_runs :
    bar2At (2 ^ 21) false (fun hit u => hit.isNone && !((u.bar2Miss 0 (2 ^ 21)).answered .unsupported).demandWaits (.bar2 0)) = true ∧
    bar2At 4095 false (fun hit u => let r := u.readPva (u.engCtx 0 engBar2) 4095 1
      decide (hit = some (0, 4095)) && !(r.2.answered (.data r.1.bytes r.1.poison)).demandWaits (.bar2 0)) = true ∧
    bar2At (2 ^ 21) true (fun hit u => hit.isNone && !(u.bar2Miss 0 (2 ^ 21)).demandWaits (.bar2 0)) = true ∧
    bar2At 4095 true (fun hit u => decide (hit = some (0, 4095)) &&
      !(u.writePva (u.engCtx 0 engBar2) 4095 [1] false).2.demandWaits (.bar2 0)) = true := by decide +kernel
/-- An opcode that stands for nothing: of two that no chapter defines, one is not the range edit's. -/
theorem test_undefined_opcode : ∃ (op : Byte) (d : Desc) (s : State) (r : DRef) (t : State), runOp? op.toNat = none ∧ s.starts op.toNat d r t := by
  have hw : ∀ op ∈ [0xFE, 0xFF], startsB live op (dsc 0) (fun _ _ => true) = true := by decide +kernel
  by_cases h : (0xFE : Nat) = Config.rangeEditOpcode.toNat
  · obtain ⟨r, t, hs, -⟩ := startsB_sound (hw 0xFF (by simp))
    refine ⟨0xFF, dsc 0, live, r, t, ?_, hs⟩
    have e : ¬ (0xFF : Nat) = Config.rangeEditOpcode.toNat := by omega
    have a : runOpA? 0xFF = none := rfl
    have b : runOpB? 0xFF = none := rfl
    simp [runOp?, a, b, e]
  · obtain ⟨r, t, hs, -⟩ := startsB_sound (hw 0xFE (by simp))
    refine ⟨0xFE, dsc 0, live, r, t, ?_, hs⟩
    have a : runOpA? 0xFE = none := rfl
    have b : runOpB? 0xFE = none := rfl
    simp [runOp?, a, b, h]
/-- Ring pairs: pair 1 of 2^6 entries, the size at its two ends, pair 0; a pair that stands and one that does not. -/
theorem test_ring_create : startsRun live 0x19 (dsc (1 + 6 * 2 ^ 8 + 2 ^ 32)) State.runRingCreate (fun r t => let d := dsc (1 + 6 * 2 ^ 8 + 2 ^ 32);
      let used := ((List.range 64).filter (fun k => k != 0 && thas t.host.rings (pairKey r.part k))).length + 1
      d.fld 0 6 != 0 && !thas t.host.rings (pairKey r.part 1) && decide (used < t.rd F.pRingsMax r.part) && decide (d.fld 8 5 = 6) &&
        decide (1 ≤ d.fld 32 8) && decide ((dsc (63 + 16 * 2 ^ 8)).fld 8 5 = 16) && decide ((dsc 0).fld 0 6 = 0)) = true := by decide +kernel
theorem test_ring_destroy : startsRun ring1 0x1A (dsc 1) State.runRingDestroy (fun r t => (t.ring? (pairKey r.part 1)).isSome && (t.ring? (pairKey r.part 0)).isSome &&
    (t.ring? (pairKey r.part 2)).isNone && r.ring == 0) = true := by decide +kernel
/-- Regions: one of 2 MiB that fits, the largest length, one without permission, one that stands, one of another partition. -/
theorem test_regions : startsRun live 0x2C (dsc (2 ^ 64 + 3 * 2 ^ 96)) State.runRegion (fun r t => let d := dsc (2 ^ 64 + 3 * 2 ^ 96);
      decide (d.fld 64 32 = 1) && decide (d.at 28 2 = 3) && decide (d.fld 0 64 % mib2 = 0) && (rtFind (t.part r.part).rt 0).isSome &&
        decide (t.regionFit (t.portOf r.part) 1 = some 0) && decide (tfree (t.port (t.portOf r.part)).regions 4096 = some 0) &&
        decide ((dsc (2 ^ 64)).at 28 2 = 0) && decide ((dsc (2 ^ 85)).fld 64 32 = 2 ^ 21) && (t.regionFit (t.portOf r.part) (2 ^ 21 + 1)).isNone) = true ∧
    startsRun withBar2 0x2D (dsc 0) State.runRegionRelease (fun r t => decide ((tget? (t.port (t.portOf r.part)).regions 0).map (fun x => x.part) = some r.part) &&
      (tget? (t.port (t.portOf r.part)).regions 4095).isNone) = true := by decide +kernel

/-! ## 15: registers and seals -/

/-- RegisterAccessAndSeals, reads and writes: a register of a partition, one outside every block, unaligned and short accesses, another port's
block, a read-only and a locked field, a confidential partition's window seen from the other port, a wide register and a plain one. -/
theorem test_registers : live.hostUp 0 = true ∧ (inRst (fun r => { r with stage := 3 })).hostUp 0 = false ∧ locateReg 0x100000 = some (.part, 0, 0) ∧
    locateReg 0x33FFFC = some (.part, 35, 0xFFFC) ∧ locateReg 0x20000 = none ∧ 4 ∣ 0x33FFFC ∧ (0x33FFFC : Nat) < 2 ^ 28 ∧ 0x20000 % 4 = 0 := by decide +kernel
theorem test_register_fields : F.pPstate.acc = .ro ∧ F.memSetMask.acc = .rwl ∧ (live.blkLocked .mem 0 = true) ∧ State.reset.blkLocked .mem 0 = false ∧
    locateReg (F.memSetMask.addr 0 0) = some (.mem, 0, F.memSetMask.off) ∧ (regHits .mem F.memSetMask.off).isEmpty = false ∧
    live.ownerPort .mem 0 = some 0 ∧ live.ownerPort .mem 0 ≠ some 1 := by decide +kernel
theorem test_register_reads : (let s := live.wr F.pConf 1 0; s.rd F.pConf 0 = 1 ∧ s.portOf 0 ≠ 1 ∧ s.portOf 0 = 0) ∧
    wideHit .part F.pPstate.off = none ∧ (F.all.find? (fun f => f.w == 64)).isSome = true ∧ (0 < 1 ∧ 3 % 4 + 1 ≤ 4) ∧ 4 < 3 % 4 + 2 := by decide +kernel
/-- Seals: before READY, the set-up port and the other, a free, a live and a sealed partition, changes under way and not. -/
theorem test_seals : (inRst (fun r => { r with ready := false })).rst.ready = false ∧ live.rst.ready = true ∧ 0 = live.rd F.hpSetupPt 0 ∧
    1 ≠ live.rd F.hpSetupPt 0 ∧ live.rd F.idMsealed = 1 ∧ State.reset.rd F.idMsealed = 0 ∧ State.reset.rd F.pPstate 0 = 0 ∧ live.rd F.pPstate 0 = 2 ∧
    live.psealed 0 = true ∧ live.portOf 0 = 0 ∧ SealChange.module ∉ State.reset.host.sealing ∧ SealChange.module ∈ (State.reset.sealBegin .module).host.sealing ∧
    SealChange.part 35 ∈ (State.reset.sealBegin (.part 35)).host.sealing ∧ SealChange.part 35 ∉ State.reset.host.sealing := by decide +kernel

/-! ## 16: management -/

def sess (claim : Bool) : Session := ⟨claim, 0, false⟩
def mg (s : State) (f : MgmtState → MgmtState) : State := s.modMgmt f
/-- Session 0 of an enrolled credential is open. -/
def opened (s : State) : State := mg s (fun m => { m with sessions := [(0, sess false)], creds := [(0, 5)] })
def acted (a : Activity) : State := inRst (fun r => { r with running := [a] })

/-- ManagementFunctions: the management domain down, no session, the claim code's session, another session; a partition free, live, confidential
and scrubbing; a debug window; a reserve site for a fenced core. -/
theorem test_sessions : State.reset.mgmtUp = true ∧ (inRst (fun r => { r with powered := false })).mgmtUp = false ∧
    tget? State.reset.mgmt.sessions 3 = none ∧ tget? (opened live).mgmt.sessions 0 = some (sess false) ∧ (sess false).claim = false ∧
    tget? (mg State.reset (fun m => { m with sessions := [(3, sess true)] })).mgmt.sessions 3 = some (sess true) ∧ (sess true).claim = true ∧
    (opened live).mgmtUp = true := by decide +kernel
theorem test_function_partitions : (let w := (opened live).wake 4;
      w.liveP 0 = true ∧ w.liveP 1 = false ∧ w.liveP 36 = false ∧ w.rd F.pConf 0 = 0 ∧ (w.wr F.pConf 1 0).rd F.pConf 0 = 1 ∧
      w.pstate 0 ≠ 0 ∧ w.pstate 1 = 0 ∧ w.pstate 35 = 0 ∧ w.heldGroups ≠ 0 ∧ (1 : Nat) &&& w.heldGroups ≠ 0 ∧ (2 : Nat) &&& w.heldGroups = 0 ∧
      (2 : BitVec 36) ≠ 0 ∧ 1 ≤ w.quotaFree ∧ (w.wr F.pPstate 3 0).rd F.pPstate 0 = 3) ∧
    ((live.wr F.idRsvMode 1).rd F.idRsvMode = 1) ∧ State.reset.rd F.idFuseSvn < 128 ∧ State.reset.rd F.idFwSvn < 128 := by decide +kernel
/-- Cores: one in use, one fenced, and a reserve site to assign under manual mode. -/
theorem test_function_cores : (let w := ((opened live).wr F.idRsvMode 1).wake 4;
      (w.core 3).fenced = false ∧ ((w.fenceCore 3).core 3).fenced = true ∧ w.rd F.idRsvMode = 1 ∧ (w.wr F.idState 1 0 319).rd F.idState 0 319 = 1) := by
  decide +kernel
/-- LOAD_KEY into slot 15 of a live partition; into slot 0 of one that is created and has no key, and of one that has. -/
theorem test_load_key : (let w := (opened live).wake 4; w.liveP 0 = true ∧ (15 : Nat) < 16 ∧ w.pstate 0 = 2) ∧
    (let w := live.wr F.pPstate 1 0; w.pstate 0 = 1 ∧ thas (w.part 0).keys 0 = false) := by decide +kernel
/-- A region granted, revoked and removed; credentials with the table full and with one left. -/
theorem test_regions_and_credentials :
    (let w := live.wr F.pPstate 1 0; let t := { w with mem := { w.mem with shared := [(3, ⟨500, 1, 0, 0⟩)] } };
      (t.regionGrant 3 0).status = 0 ∧ ((t.regionGrant 3 0).st.regionRevoke 3 0).status = 0 ∧ (t.regionRemove 3).status = 0 ∧
      (∃ y ∈ (t.regionGrant 3 0).st.liveParts, bitN ((t.regionGrant 3 0).st.rd F.pShared y) 3 = true)) ∧
    tfree State.reset.mgmt.creds 8 = some 0 ∧ (let s := mg live (fun m => { m with creds := (List.range 8).map (fun i => (i, i)) });
      tfree s.mgmt.creds 8 = none ∧ ¬ s.mgmt.creds.length < 2) ∧ (opened live).mgmt.creds.length < 2 := by decide +kernel

/-- SessionsAndMaintenance: who may open a session, and with four open; teardowns at stage 2; the work that an activity may carry. -/
theorem test_session_open : State.reset.mgmt.creds = [] ∧ State.reset.flag F.idClaimed = false ∧ State.reset.mgmt.sessions = [] ∧
    tfree State.reset.mgmt.sessions 4 = some 0 ∧ ((opened live).mgmt.creds.find? (fun e => e.2 == (5 : BitVec 512).toNat)).isSome = true ∧
    tfree (opened live).mgmt.sessions 4 = some 1 ∧
    (let s := mg live (fun m => { m with sessions := (List.range 4).map (fun i => (i, sess false)) }); tfree s.mgmt.sessions 4 = none) := by decide +kernel
theorem test_teardown : (let s := mg withStep (fun m => { m with tears := [(0, ⟨2, 0, [], none⟩)] });
      tget? s.mgmt.tears 0 = some ⟨2, 0, [], none⟩ ∧ s.runningAct? colScrub 0 = none) ∧ tget? live.mgmt.tears 0 = none := by decide +kernel
theorem test_teardown_grains : (let s := mg (withRun run0) (fun m => { m with tears := [(0, ⟨2, 0, [], none⟩)] });
      tget? s.mgmt.tears 0 = some ⟨2, 0, [], none⟩ ∧ s.grainsRun 0 = true) := by decide +kernel
theorem test_arbiter : (let a : Activity := ⟨colCal, 0, .calibration 0 []⟩;
      (∀ b ∈ State.reset.rst.running ++ State.reset.rst.queue, a.fits b = true) ∧ a.col ≠ colRepair ∧ 1 ≤ a.col ∧ a.col ≤ 8) ∧
    (let a : Activity := ⟨colRepair, 23, .repair⟩; State.reset.stackFree a.res = true) ∧
    (let a : Activity := ⟨colLoad, 0, .load 0 (blobImage ⟨true, 0, 1, 0, 0, []⟩)⟩; (acted a).rst.running ++ (acted a).rst.queue = [a] ∧ a.fits a = false) := by
  decide +kernel
theorem test_activity_ends : (acted ⟨colRepair, 23, .repair⟩).runningAct? colRepair 23 = some ⟨colRepair, 23, .repair⟩ ∧
    (acted ⟨colCal, 0, .calibration 0 []⟩).runningAct? colCal 0 = some ⟨colCal, 0, .calibration 0 []⟩ ∧
    (let a : Activity := ⟨colLoad, 0, .load 0 (blobImage ⟨true, 0, 1, 0, 0, []⟩)⟩; (acted a).runningAct? colLoad 0 = some a) ∧
    (let a : Activity := ⟨colPort, 7, .portTest 0 64 1 1 0 []⟩;
      let t : PortTest := ⟨64, 1, 1, 0, 10, 9, 0, 5, 50, 7⟩;
      let s := (acted a).modNport 7 (fun p => { p with test := some t });
      s.runningAct? colPort 7 = some a ∧ (s.nport 7).test = some t) ∧
    (let a : Activity := ⟨colMargin, 1, .margining 0 60 []⟩; (acted a).runningAct? colMargin 1 = some a) ∧
    (let a : Activity := ⟨colDebug, 0, .debug 0 60 []⟩; (acted a).runningAct? colDebug 0 = some a) ∧ State.reset.runningAct? colDebug 0 = none ∧
    State.reset.runningAct? colRepair 23 = none ∧ State.reset.rst.ready = true := by decide +kernel

end Sys2Proof.Tests
end

section
/-! PROOF. The restore after a supply clear (16_power_thermal.md, R584): the clear that begins it, the limits latched at each of its
boundaries, and the bound on what CAP_COMPUTE grants. -/
namespace Sys2Proof.Machine.PowerLaws
open Sys2Proof Sys2Proof.Machine.Laws

/-! ## Fields of different lowest bits -/

/-- A field's key gives back its lowest bit, so fields of different lowest bits never share a place, whatever their registers. -/
theorem key_ne_of_lo_ne {f g : Fld} (hf : f.lo < 64) (hg : g.lo < 64) (h : f.lo ≠ g.lo) (b i b' i' : Nat) :
    f.key b i ≠ g.key b' i' := by
  simp only [Fld.key]
  omega

/-- A field that begins above bit 0 of its register stands through a write of a field that begins at bit 0. -/
theorem rd_wr_of_lo_zero (s : State) {f g : Fld} (hf : f.lo = 0) (hg : 0 < g.lo ∧ g.lo < 64) (v b i b' i' : Nat) :
    (s.wr f v b i).rd g b' i' = s.rd g b' i' :=
  rd_wr_other _ _ _ _ _ _ _ _ (key_ne_of_lo_ne (by omega) hg.2 (by omega) _ _ _ _)

theorem rd_inc_of_lo_zero (s : State) {f g : Fld} (hf : f.lo = 0) (hg : 0 < g.lo ∧ g.lo < 64) (n b i b' i' : Nat) :
    (s.inc f n b i).rd g b' i' = s.rd g b' i' := rd_wr_of_lo_zero _ hf hg _ _ _ _ _

/-! ## Delivery leaves the fields above bit 0: the host ports' counters all begin there -/

section
variable {g : Fld} (hg : 0 < g.lo ∧ g.lo < 64)
include hg

theorem rd_msixSend_of_lo (s : State) (q v b i : Nat) : (s.msixSend q v).rd g b i = s.rd g b i := by
  unfold State.msixSend
  dsimp only
  split
  · rw [rd_modPort]
  · exact rd_inc_of_lo_zero _ rfl hg _ _ _ _ _

theorem rd_writeRec_of_lo (s : State) (k : Nat) (r : Ring) (x : Rec) (b i : Nat) : (s.writeRec k r x).rd g b i = s.rd g b i := by
  have hcpl : ∀ (t : State) (n q : Nat), (t.add F.hpCpl n q).rd g b i = t.rd g b i :=
    fun t n q => rd_wr_of_lo_zero t rfl hg _ _ _ _ _
  unfold State.writeRec
  dsimp only
  repeat' split
  all_goals simp [rd_msixSend_of_lo hg, hcpl]

theorem rd_toBacklog_of_lo (s : State) (q : Nat) (o : OutRec) (b i : Nat) : (s.toBacklog q o).rd g b i = s.rd g b i := by
  unfold State.toBacklog
  dsimp only
  split
  · rw [rd_wr_of_lo_zero _ rfl hg, rd_modPort]
  · rw [rd_inc_of_lo_zero _ rfl hg, rd_modPort]

theorem rd_deliver_of_lo (s : State) (o : OutRec) (b i : Nat) : (s.deliver o).rd g b i = s.rd g b i := by
  unfold State.deliver
  dsimp only
  repeat' split
  all_goals simp [rd_writeRec_of_lo hg, rd_toBacklog_of_lo hg]

theorem rd_flush_of_lo (s : State) (b i : Nat) : s.flush.rd g b i = s.rd g b i := by
  unfold State.flush
  split
  · rfl
  · refine List.foldlRecOn (motive := fun t : State => t.rd g b i = s.rd g b i) _ State.deliver rfl fun t ht o _ => ?_
    rw [rd_deliver_of_lo hg, ht]

end

/-! ## The power state -/

@[simp] theorem modPower_power (s : State) (f : PowerState → PowerState) : (s.modPower f).power = f s.power := rfl
@[simp] theorem showRestore_power (s : State) : s.showRestore.power = s.power := rfl
@[simp] theorem supplyEvent_power (s : State) (cause : Nat) : (s.supplyEvent cause).power = s.power := rfl
@[simp] theorem rd_supplyEvent (s : State) (cause : Nat) (f : Fld) (b i : Nat) : (s.supplyEvent cause).rd f b i = s.rd f b i := rfl
@[simp] theorem capEvent_power (s : State) (cause p : Nat) : (s.capEvent cause p).power = s.power := by
  unfold State.capEvent
  dsimp only
  split <;> simp

/-- RESTORE shows the longer of the two restores, which its three bits hold. -/
theorem rd_showRestore (s : State) (h : s.power.rSupply < 8) (h' : s.power.rCrit < 8) :
    s.showRestore.rd F.pwrRestore = Nat.max s.power.rSupply s.power.rCrit := by
  rw [State.showRestore, rd_wr_same]
  exact Nat.mod_eq_of_lt (Nat.max_lt.2 ⟨h, h'⟩)

/-! ## The clear (R583, R584) -/

theorem exec_supplyWarningClear (v : BitVec 16) (s : State) :
    exec (.supplyWarningClear v) s = .next (s.supplyClear v.toNat).flush := rfl

/-- A clear that is taken clears the warning and tells it. -/
theorem supplyClear_of_taken {s : State} {vin : Nat} (hw : s.rd F.pwrVwarn = 1) (hb : s.rst.brown = false)
    (hv : 100 * (s.rd F.pwrVwarnTh + 10) ≤ vin) : s.supplyClear vin = s.clearWarning.supplyEvent 2 := by
  simp [State.supplyClear, State.flag, hw, hb, Nat.not_lt.2 hv]

theorem clearWarning_rSupply (s : State) : s.clearWarning.power.rSupply = 4 := rfl

theorem rd_restore_clearWarning (s : State) (h : s.power.rCrit < 8) :
    s.clearWarning.rd F.pwrRestore = Nat.max 4 s.power.rCrit := by
  refine rd_showRestore _ ?_ h
  show 4 < 8
  omega

/-! ## The ceiling of a restore (R584, R602) -/

theorem ceilingOf_le (r : Nat) : ceilingOf r ≤ 64 := by
  unfold ceilingOf
  split <;> omega

theorem le_ceilingOf (r : Nat) : 8 ≤ ceilingOf r := by
  unfold ceilingOf
  split <;> omega

/-- At the j-th boundary of a restore, when 5 - j are left, the ceiling is 8 + 14 j. -/
theorem ceilingOf_boundary {j : Nat} (h1 : 1 ≤ j) (h4 : j ≤ 4) : ceilingOf (5 - j) = 8 + 14 * j := by
  unfold ceilingOf
  rw [if_neg (by omega)]
  omega

theorem restoreCeiling_le (s : State) : s.restoreCeiling ≤ 64 := (Nat.min_le_left _ _).trans (ceilingOf_le _)

theorem le_restoreCeiling (s : State) : 8 ≤ s.restoreCeiling := Nat.le_min.2 ⟨le_ceilingOf _, le_ceilingOf _⟩

/-! ## The latching at a boundary (R83, R584, R601) -/

/-- The statistics of the interval that ends: LIM_AVG and CAPPED_TK of every partition in use. -/
def boundaryStats (s : State) : State :=
  s.liveParts.foldl (fun u p =>
    let cs := u.activeCores.filter (fun c => u.ownsCore p c)
    (u.wr F.pLimAvg (sumOf (cs.map s.latchedLimit) / Nat.max 1 cs.length) p).inc F.pCappedTk (b2n (u.power.capped.contains p)) p) s

/-- The limits of the interval that begins, those at 64 still listed: 8 for all under a critical temperature or a brown-out, the
granted ones held to a ceiling below 64, or the granted ones as they are. -/
def boundaryLimits (s : State) : Tab Nat :=
  if s.flag F.pwrTcrit || s.rst.brown then (List.range 288).map (fun c => (c, 8))
  else if s.restoreCeiling < 64 then (List.range 288).map (fun c => (c, Nat.min s.restoreCeiling (tgetD s.power.next c 64)))
  else s.power.next

/-- The power state a boundary leaves: the limits latched, and each restore one boundary shorter while its cause is clear. -/
def boundaryPower (s : State) : PowerState :=
  { s.power with
    latched := (boundaryLimits s).filter (fun e => e.2 != 64), fast := false, unreach := false,
    rSupply := if s.flag F.pwrVwarn then s.power.rSupply else s.power.rSupply - 1,
    rCrit := if s.flag F.pwrTcrit then s.power.rCrit else s.power.rCrit - 1 }

theorem boundaryStats_power (s : State) : (boundaryStats s).power = s.power := by
  refine List.foldlRecOn (motive := fun u : State => u.power = s.power) _ _ rfl fun u hu p _ => ?_
  simpa using hu

theorem rd_boundaryStats (s : State) {g : Fld} (hg : 0 < g.lo ∧ g.lo < 64) (b i : Nat) :
    (boundaryStats s).rd g b i = s.rd g b i := by
  refine List.foldlRecOn (motive := fun u : State => u.rd g b i = s.rd g b i) _ _ rfl fun u hu p _ => ?_
  rw [rd_inc_of_lo_zero _ rfl hg, rd_wr_of_lo_zero _ rfl hg, hu]

theorem flag_boundaryStats (s : State) {g : Fld} (hg : 0 < g.lo ∧ g.lo < 64) : (boundaryStats s).flag g = s.flag g := by
  rw [State.flag, State.flag, rd_boundaryStats s hg]

/-- What the latching does, in one line: statistics, the power state moved on, RESTORE shown. -/
theorem latchLimits_eq (s : State) : s.latchLimits = ((boundaryStats s).modPower (fun _ => boundaryPower s)).showRestore := by
  unfold State.latchLimits
  extract_lets top hold old u next u'
  have hp : u.power = s.power := boundaryStats_power s
  have hv : u.flag F.pwrVwarn = s.flag F.pwrVwarn := flag_boundaryStats s (by decide)
  have ht : u.flag F.pwrTcrit = s.flag F.pwrTcrit := flag_boundaryStats s (by decide)
  have hu' : u' = u.modPower (fun _ => boundaryPower s) := by
    simp only [u', next, State.modPower, hp, hv, ht]
    rfl
  exact congrArg State.showRestore hu'

@[simp] theorem latchLimits_power (s : State) : s.latchLimits.power = boundaryPower s := by
  rw [latchLimits_eq, showRestore_power, modPower_power]

/-- While the warning is clear a boundary shortens the supply's restore. -/
theorem boundaryPower_rSupply {s : State} (hw : s.rd F.pwrVwarn = 0) : (boundaryPower s).rSupply = s.power.rSupply - 1 := by
  simp [boundaryPower, State.flag, hw]

/-- No restore grows at a boundary. -/
theorem boundaryPower_rSupply_le (s : State) : (boundaryPower s).rSupply ≤ s.power.rSupply := by
  simp only [boundaryPower]
  split <;> omega

theorem boundaryPower_rCrit_le (s : State) : (boundaryPower s).rCrit ≤ s.power.rCrit := by
  simp only [boundaryPower]
  split <;> omega

/-- RESTORE shows what a boundary leaves of the longer restore. -/
theorem rd_restore_latchLimits {s : State} (hs : s.power.rSupply < 8) (hc : s.power.rCrit < 8) :
    s.latchLimits.rd F.pwrRestore = Nat.max (boundaryPower s).rSupply (boundaryPower s).rCrit := by
  have hs' := (boundaryPower_rSupply_le s).trans_lt hs
  have hc' := (boundaryPower_rCrit_le s).trans_lt hc
  rw [latchLimits_eq]
  exact rd_showRestore _ hs' hc'

/-- A table that lists g c for every c of a list, the entries at the default left out, still reads g c. -/
theorem tgetD_filter_tabulate (l : List Nat) (g : Nat → Nat) (d c : Nat) :
    tgetD ((l.map (fun c => (c, g c))).filter (fun e => e.2 != d)) c d = if c ∈ l then g c else d := by
  induction l with
  | nil => rfl
  | cons a l ih =>
    by_cases hd : g a = d
    · by_cases hac : c = a
      · simpa [hd, hac] using ih
      · simpa [hd, hac] using ih
    · by_cases hac : c = a
      · simp [hd, hac, tgetD, tget?]
      · simpa [hd, hac, Ne.symm hac, tgetD, tget?] using ih

/-- A table whose entries and default stand at or below m reads at most m. -/
theorem tgetD_le {t : Tab Nat} {d m : Nat} (ht : ∀ e ∈ t, e.2 ≤ m) (hd : d ≤ m) (c : Nat) : tgetD t c d ≤ m := by
  induction t with
  | nil => exact hd
  | cons e t ih =>
    obtain ⟨he, ht⟩ := List.forall_mem_cons.1 ht
    by_cases h : e.1 = c
    · simpa [tgetD, tget?, h] using he
    · simpa [tgetD, tget?, h] using ih ht

/-- No boundary latches a limit above the ceiling of the restores that run, where no grant stands above 64. -/
theorem latchedLimit_le_restoreCeiling {s : State} {c : Nat} (hc : c < 288) (hn : ∀ e ∈ s.power.next, e.2 ≤ 64) :
    s.latchLimits.latchedLimit c ≤ s.restoreCeiling := by
  have hmem : c ∈ List.range 288 := List.mem_range.2 hc
  simp only [State.latchedLimit, latchLimits_power, boundaryPower, boundaryLimits]
  split
  · rw [tgetD_filter_tabulate _ (fun _ => 8), if_pos hmem]
    exact le_restoreCeiling s
  · split
    · rw [tgetD_filter_tabulate _ (fun c => Nat.min s.restoreCeiling (tgetD s.power.next c 64)), if_pos hmem]
      exact Nat.min_le_left _ _
    · next htop =>
      have h64 : 64 ≤ s.restoreCeiling := Nat.le_of_not_lt htop
      exact (tgetD_le (fun e he => hn e (List.mem_of_mem_filter he)) le_rfl c).trans h64

/-! ## The grants of CAP_COMPUTE (R593 to R595) -/

theorem exec_capCompute {s : State} (h : s.rst.stage = 5) : exec .capCompute s = .next s.capCompute.flush := by
  rw [show exec .capCompute s = finish (if s.rst.stage = 5 then s.capCompute else s) from rfl, if_pos h]
  rfl

/-- Every core's limit and preference stand at 64 or below. -/
def WithinFull (cs : List CapCore) : Prop := ∀ c ∈ cs, c.lim ≤ 64 ∧ c.d ≤ 64

theorem WithinFull.append {a b : List CapCore} (ha : WithinFull a) (hb : WithinFull b) : WithinFull (a ++ b) :=
  List.forall_mem_append.2 ⟨ha, hb⟩

theorem WithinFull.filter {cs : List CapCore} (h : WithinFull cs) (q : CapCore → Bool) : WithinFull (cs.filter q) :=
  fun c hc => h c (List.mem_of_mem_filter hc)

/-- A round raises a limit only where it is below the core's d. -/
theorem withinFull_capRound (pr : Nat) {a : List CapCore × Int × Nat} (h : WithinFull a.1) : WithinFull (capRound pr a).1 := by
  refine List.foldlRecOn (motive := fun x : List CapCore × Int × Nat => WithinFull x.1) a.1 _ (by simp [WithinFull])
    fun x hx c hc => ?_
  obtain ⟨hlim, hd⟩ := h c hc
  split
  · next hraise =>
    simp only [Bool.and_eq_true, decide_eq_true_eq] at hraise
    refine hx.append (List.forall_mem_singleton.2 ⟨?_, hd⟩)
    show c.lim + 1 ≤ 64
    omega
  · exact hx.append (List.forall_mem_singleton.2 ⟨hlim, hd⟩)

theorem withinFull_capRounds (pr : Nat) {a : List CapCore × Int × Nat} (h : WithinFull a.1) : WithinFull (capRounds pr a).1 :=
  List.foldlRecOn (motive := fun x : List CapCore × Int × Nat => WithinFull x.1) _ _ h fun _ hx _ _ => withinFull_capRound pr hx

theorem withinFull_priorities (prs : List Nat) {a : List CapCore × Int × Nat} (h : WithinFull a.1) :
    WithinFull (prs.foldl (fun a pr => capRounds pr a) a).1 :=
  List.foldlRecOn (motive := fun x : List CapCore × Int × Nat => WithinFull x.1) _ _ h fun _ hx pr _ => withinFull_capRounds pr hx

/-- CAP_COMPUTE leaves no grant above 64. -/
theorem capCompute_next_le (s : State) : ∀ e ∈ s.capCompute.power.next, e.2 ≤ 64 := by
  unfold State.capCompute
  extract_lets s1 t pt excess act codes s2 mk cs b low s3 order r short capped s4
  have hcs : WithinFull cs := by
    refine List.forall_mem_map.2 fun e _ => ⟨show 8 ≤ 64 by omega, ?_⟩
    exact (Nat.min_le_right _ _).trans (restoreCeiling_le s2)
  have horder : WithinFull order := (hcs.filter _).append (hcs.filter _)
  have hr : WithinFull r.1 := by
    simp only [r]
    split
    · exact hcs
    · exact withinFull_priorities [3, 2, 1, 0] horder
  have hs4 : ∀ e ∈ s4.power.next, e.2 ≤ 64 := by
    intro e he
    obtain ⟨c, -, hc⟩ := List.mem_filterMap.1 he
    obtain ⟨x, hx, rfl⟩ := Option.map_eq_some_iff.1 hc
    exact (hr x (List.mem_of_find?_eq_some hx)).1
  refine List.foldlRecOn (motive := fun u : State => ∀ e ∈ u.power.next, e.2 ≤ 64) capped _ hs4 fun u hu p _ => ?_
  simpa only [apply_ite State.power, apply_ite PowerState.next, capEvent_power, modPower_power, ite_self] using hu

/-! ## The statement -/

/-- Settles O32: the clear starts the restore (`clearWarning_rSupply`, `rd_restore_clearWarning`), each boundary latches within its
ceiling and shortens it (`latchedLimit_le_restoreCeiling`, `latchLimits_power`), and CAP_COMPUTE grants at most 64
(`capCompute_next_le`). -/
theorem restoreAfterSupplyClear : Obligations.RestoreAfterSupplyClear := by
  unfold Obligations.RestoreAfterSupplyClear
  refine ⟨fun v s hw hb hv => ?_, fun s c j hc h1 h4 hr hw hn => ⟨?_, ?_, fun hcrit => ?_⟩, fun s h5 => ?_⟩
  · refine ⟨_, exec_supplyWarningClear v s, ?_, fun hcrit => ?_⟩
    · rw [flush_power, supplyClear_of_taken hw hb hv, supplyEvent_power, clearWarning_rSupply]
    · rw [rd_flush_of_lo (by decide), supplyClear_of_taken hw hb hv, rd_supplyEvent, rd_restore_clearWarning _ (by omega)]
      exact Nat.max_eq_left hcrit
  · calc s.latchLimits.latchedLimit c ≤ s.restoreCeiling := latchedLimit_le_restoreCeiling hc hn
      _ ≤ ceilingOf s.power.rSupply := Nat.min_le_left _ _
      _ = 8 + 14 * j := by rw [hr, ceilingOf_boundary h1 h4]
  · rw [latchLimits_power, boundaryPower_rSupply hw, hr]
    omega
  · have hc0 : (boundaryPower s).rCrit = 0 := Nat.le_zero.1 (hcrit ▸ boundaryPower_rCrit_le s)
    rw [rd_restore_latchLimits (by omega) (by omega), hc0, boundaryPower_rSupply hw, hr]
    exact (Nat.max_zero _).trans (by omega)
  · exact ⟨_, exec_capCompute h5, by rw [flush_power]; exact capCompute_next_le s⟩

end Sys2Proof.Machine.PowerLaws
end

section
/-! PROOF. Every command ends in the delivery of its records, so every step keeps them placed (O1, O2, O3). -/
namespace Sys2Proof.Machine.CommandLaws
open Sys2Proof Sys2Proof.Machine.Laws

/-- An outcome is a next state whose records have been delivered. -/
def Delivered (o : Host.Outcome State Fault Refusal) : Prop := ∃ u : State, o = .next u.flush

/-- Every meaning ends in `finish`, the close of the network side too. -/
theorem delivered_finish (s : State) : Delivered (finish s) := ⟨s, rfl⟩

/-- Every command delivers its records. The commands named apart choose between several closes before they end; the meaning of every
other one is a single `finish`. -/
theorem exec_delivered (c : Instr) (s : State) : Delivered (exec c s) := by
  cases c
  case helloRx | widthRequestRx | widthAcceptRx | widthRefuseRx | widthReplyTimeout | widthChange | pcsRelockComplete | relockTimeout |
      portPark | echoRequestRx | portTestEchoRx =>
    all_goals
      dsimp only [exec, execHelloRx, execWidthRequestRx, execWidthAcceptRx, execWidthRefuseRx, execWidthReplyTimeout, execWidthChange,
        execPcsRelockComplete, execRelockTimeout, execPortPark, execEchoRequestRx, execPortTestEchoRx]
      repeat' split
    all_goals exact delivered_finish _
  case routerRecordAccept | roundCollectionDeadline | receiveRoundDeadline | returnRoundDeadline =>
    all_goals
      dsimp only [exec, execRouterRecordAccept, execRoundCollectionDeadline, execReceiveRoundDeadline, execReturnRoundDeadline]
      repeat' split
    all_goals exact delivered_finish _
  case openResend | openTimeout | noPathTimeout | closeTimeout =>
    all_goals
      dsimp only [exec, execOpenResend, execOpenTimeout, execNoPathTimeout, execCloseTimeout]
      repeat' split
    all_goals exact delivered_finish _
  case collectiveEntryBegin | collectiveEntryDeadline | sheafClose | mapsAwaitedTimeout =>
    all_goals
      dsimp only [exec, execCollectiveEntryBegin, execCollectiveEntryDeadline, execSheafClose, execMapsAwaitedTimeout]
      repeat' split
    all_goals exact delivered_finish _
  all_goals exact delivered_finish _

/-- Settles O2: every meaning ends in the close of a command (`exec_delivered`). -/
theorem everyCommandAnswersANextState : Obligations.EveryCommandAnswersANextState := exec_delivered

/-- After a flush no record is in flight while the host domain is released. -/
theorem recordsPlaced_flush (s : State) : s.flush.recordsPlaced := by
  intro h
  rw [flush_rst] at h
  rw [flush_out, if_neg (Nat.not_lt.2 h)]

/-- Settles O3: a command ends in a flush (`exec_delivered`), which places every record (`recordsPlaced_flush`); an idle step keeps the
state. -/
theorem stepKeepsRecordsPlaced : Obligations.StepKeepsRecordsPlaced := by
  intro s t hs h
  unfold step at h
  split at h
  · cases h
    exact hs
  · next c rest _ =>
    obtain ⟨u, hu⟩ := exec_delivered c { s with pending := rest }
    rw [hu] at h
    cases h
    exact recordsPlaced_flush u

/-- Settles O1: the step reads the command off the front of the queue. -/
theorem stepRunsTheFrontCommand : Obligations.StepRunsTheFrontCommand := by
  refine ⟨fun c s rest h => ?_, fun c s => rfl, fun s h => ?_⟩ <;> unfold step <;> rw [h]

end Sys2Proof.Machine.CommandLaws
end

section
/-! PROOF. The register file and the bytes of a record, and the life of a descriptor: consumed, started, held, completed
(O4, O5, O7 to O10). -/
namespace Sys2Proof.Machine.RingLaws
open Sys2Proof Sys2Proof.Machine.Laws

/-! ## Bytes of a record (R514, Tables 14-10 to 14-12) -/

@[simp] theorem length_leBytes (n x : Nat) : (leBytes n x).length = n := by
  induction n generalizing x with
  | zero => rfl
  | succ n ih => simp [leBytes, ih]

/-- The first byte of a byte string that has one. -/
theorem leAt_zero_one (x : Nat) (l : List Byte) : leAt (leBytes 1 x ++ l) 0 1 = x % 256 := by
  simp [leAt, bytesAt, leBytes, leNat]

/-- Every record has the layout of its table: one byte of kind and PHASE, and 31 others. -/
theorem recBytes_layout (n entries : Nat) (x : Rec) : ∃ l : List Byte, l.length = 31 ∧ recBytes n entries x =
    leBytes 1 ((match x with | .cpl .. => 1 | .event .. => 2 | .clamp .. => 3) + 128 * phaseOf n entries) ++ l := by
  cases x <;> simp only [recBytes, List.append_assoc]
  all_goals exact ⟨_, by simp, rfl⟩

/-- Settles O7: the layout of a record (`recBytes_layout`) begins with its kind and PHASE, which fit a byte. -/
theorem recordBytesCarryPhase : Obligations.RecordBytesCarryPhase := by
  intro n entries x
  obtain ⟨l, hl, hx⟩ := recBytes_layout n entries x
  rw [hx]
  refine ⟨by simp [hl], ?_⟩
  rw [leAt_zero_one, phaseOf]
  have := Nat.mod_lt (n / entries + 1) (show 0 < 2 by omega)
  refine Nat.mod_eq_of_lt ?_
  cases x <;> simp only <;> omega

/-! ## The register file and the reset state -/

/-- Settles O5: by the laws of the register file; a write is a change of that file alone. -/
theorem registerFieldsHoldWhatIsWritten : Obligations.RegisterFieldsHoldWhatIsWritten :=
  fun s f g v n b i b' i' => ⟨rd_wr_same s f v b i, rd_wr_other s f g v b i b' i', rd_inc_same s f n b i, rfl⟩

/-- A register of the reset state reads its Reset value. -/
theorem rd_reset (f : Fld) (b i : Nat) : State.reset.rd f b i = f.resetVal b i := rfl

theorem psealed_reset (p : Nat) : State.reset.psealed p = false := by
  have hz : ∀ j, bitN 0 j = false := fun j => by simp [bitN]
  unfold State.psealed
  split <;> exact hz _

/-- Settles O4: every table of the reset state is empty, so each of its parts reads its default. -/
theorem resetState : Obligations.ResetState :=
  ⟨fun _ => rfl, rfl, rfl, rd_reset, by decide, fun _ => rfl, fun _ => rfl, rfl, psealed_reset⟩

/-! ## Consumption (R511, R512) -/

/-- When R511 lets the module consume from ring r of partition p. -/
theorem mayConsume_iff (s : State) (p : Nat) (r : Ring) : s.mayConsume p r = true ↔
    r.stopped = false ∧ r.destroyer = none ∧ r.sqHead - r.cqHead < 2 ^ r.log ∧ s.rd F.idMsealed = 1 ∧ s.psealed p = true ∧
      s.rd F.hpAttached (s.portOf p) = 1 ∧ (s.port (s.portOf p)).busyN = true ∧ s.pstate p = 2 := by
  simp [State.mayConsume, State.sealedFor, State.flag, State.portReady, and_assoc]

@[simp] theorem ring?_wake (s : State) (c k : Nat) : (s.wake c).ring? k = s.ring? k := by
  unfold State.wake
  dsimp only
  split
  · rfl
  · split <;> rfl

/-- The reference a consumed descriptor gets. -/
def takenRef (op : Nat) (d : Desc) (r : Ring) : DRef :=
  ⟨d.part.val, d.ring.val, r.life, r.sqHead, op, d.ver.toNat, d.tag.toNat, d.cookie.toNat, false⟩

/-- The ring a descriptor has been consumed from. -/
def takenRing (r : Ring) (x : DRef) : Ring :=
  { r with sqHead := r.sqHead + 1, sqTail := Nat.max r.sqTail (r.sqHead + 1), outstanding := r.outstanding ++ [x] }

/-- A consumption names the ring it is from, and leaves that ring with the descriptor taken. -/
theorem consume_eq_some {op : Nat} {d : Desc} {s t : State} {x : DRef} (h : s.consume op d = some (x, t)) :
    ∃ r, s.ring? (pairKey d.part.val d.ring.val) = some r ∧ s.mayConsume d.part.val r = true ∧ x = takenRef op d r ∧
      t.ring? (pairKey d.part.val d.ring.val) = some (takenRing r x) := by
  unfold State.consume at h
  dsimp only at h
  split at h
  · cases h
  · next r hr =>
    split at h
    · next hm =>
      obtain ⟨rfl, rfl⟩ := Prod.mk.inj (Option.some.inj h)
      refine ⟨r, hr, hm, rfl, ?_⟩
      rw [show ∀ (u : State) (q a k : Nat) (bs : List Byte), (u.hostWrite q a bs).ring? k = u.ring? k from fun _ _ _ _ _ => rfl,
        ring?_wake, show ∀ (u : State) (f : Fld) (n b k : Nat), (u.add f n b).ring? k = u.ring? k from fun _ _ _ _ _ => rfl]
      exact ring?_putRing_same _ _ _
    · cases h

theorem consume_isSome (op : Nat) (d : Desc) (s : State) : (s.consume op d).isSome = true ↔
    ∃ r, s.ring? (pairKey d.part.val d.ring.val) = some r ∧ s.mayConsume d.part.val r = true := by
  unfold State.consume
  dsimp only
  cases hr : s.ring? (pairKey d.part.val d.ring.val) with
  | none => simp
  | some r => by_cases hm : s.mayConsume d.part.val r = true <;> simp [hm]

/-- Settles O8: R511's conditions (`mayConsume_iff`, `consume_isSome`) and the ring consumption leaves (`consume_eq_some`). -/
theorem consumptionMovesTheRing : Obligations.ConsumptionMovesTheRing := by
  intro op d s
  refine ⟨?_, fun x t h => ?_⟩
  · rw [consume_isSome]
    simp only [mayConsume_iff]
  · obtain ⟨r, hr, -, hx, ht⟩ := consume_eq_some h
    exact ⟨r, hr, hx, ht⟩

/-! ## Completion (R512) -/

/-- A completion of an owed descriptor: its ring life no longer holds it, and one record goes on its way. -/
theorem complete_of_owed {s : State} {d y : DRef} (h : s.owed? d = some y) (status result : Nat) (noop : Bool) :
    s.complete d status noop result = (s.settle d).moved.emit (.cpl d.part d.ring d.life)
      (.cpl d.opcode status (b2n (d.clamped || y.clamped) + 2 * b2n noop) d.tag d.cookie s.tick result) := by
  simp [State.complete, h]

theorem complete_of_not_owed {s : State} {d : DRef} (h : s.owed? d = none) (status result : Nat) (noop : Bool) :
    s.complete d status noop result = s := by
  simp [State.complete, h]

@[simp] theorem settle_out (s : State) (d : DRef) : (s.settle d).out = s.out := by
  unfold State.settle State.modLife
  dsimp only
  repeat' split
  all_goals rfl

/-- A ring that has settled a descriptor's number holds none of that number. -/
theorem find?_settled (l : List DRef) (n : Nat) : (l.filter (fun x => x.num != n)).find? (fun x => x.num == n) = none := by
  simp [List.find?_eq_none]

/-- The descriptor as the ended ring life it names holds it. -/
def owedGone (s : State) (d : DRef) : Option DRef :=
  (tget? s.host.gone d.life).bind (fun e => e.2.outstanding.find? (fun x => x.num == d.num))

/-- A descriptor whose ring key holds no ring of its life is owed by the ended ring life alone. -/
theorem owed?_of_ended {s : State} {d : DRef} (h : ∀ r, s.ring? (pairKey d.part d.ring) = some r → r.life ≠ d.life) :
    s.owed? d = owedGone s d := by
  unfold State.owed?
  dsimp only
  split
  · rfl
  · next r hr => exact if_neg (h r hr)

theorem owed?_of_bound {s : State} {d : DRef} {r : Ring} (h : s.ring? (pairKey d.part d.ring) = some r) (hl : r.life = d.life) :
    s.owed? d = r.outstanding.find? (fun x => x.num == d.num) := by
  simp [State.owed?, h, hl]

/-- The ring without a descriptor's number. -/
def settledRing (r : Ring) (d : DRef) : Ring :=
  { r with outstanding := r.outstanding.filter (fun x => x.num != d.num), waiting := r.waiting.filter (fun w => w.2.1 != d.num) }

theorem settle_of_bound {s : State} {d : DRef} {r : Ring} (h : s.ring? (pairKey d.part d.ring) = some r) (hl : r.life = d.life) :
    s.settle d = s.putRing (pairKey d.part d.ring) (settledRing r d) := by
  simp [State.settle, State.modLife, h, hl, settledRing]

theorem settle_of_ended {s : State} {d : DRef} (h : ∀ r, s.ring? (pairKey d.part d.ring) = some r → r.life ≠ d.life) :
    s.settle d = { s with host := { s.host with gone := tmod s.host.gone d.life (fun e => (e.1, settledRing e.2 d)) } } := by
  unfold State.settle State.modLife
  dsimp only
  split
  · rfl
  · next r hr => exact if_neg (h r hr)

/-- A settled descriptor is owed no longer, by its ring or by the ended ring life that held it. -/
theorem owed?_settle (s : State) (d : DRef) : (s.settle d).owed? d = none := by
  by_cases h : ∃ r, s.ring? (pairKey d.part d.ring) = some r ∧ r.life = d.life
  · obtain ⟨r, hr, hl⟩ := h
    rw [settle_of_bound hr hl, owed?_of_bound (r := settledRing r d) (ring?_putRing_same _ _ _) hl]
    exact find?_settled _ _
  · have h' : ∀ r, s.ring? (pairKey d.part d.ring) = some r → r.life ≠ d.life := fun r hr hl => h ⟨r, hr, hl⟩
    rw [settle_of_ended h']
    refine (owed?_of_ended ?_).trans ?_
    · exact h'
    unfold owedGone tmod
    cases hg : tget? s.host.gone d.life with
    | none => simp [hg]
    | some e => simp [settledRing]

/-- Settles O9: an owed descriptor's completion is one record (`complete_of_owed`), and then it is owed no longer (`owed?_settle`). -/
theorem completionIsWrittenOnce : Obligations.CompletionIsWrittenOnce := by
  refine ⟨fun s d y status result noop h => ?_, fun s d y status status' result result' noop noop' h => ?_,
    fun s d status result noop h => complete_of_not_owed h _ _ _⟩
  · rw [complete_of_owed h, emit_out]
    exact congrArg (· ++ _) (settle_out s d)
  · rw [complete_of_owed h]
    exact complete_of_not_owed (s := (s.settle d).moved.emit _ _) (owed?_settle s d) _ _ _

/-! ## A descriptor that starts, waits or ends (R512, R513, R519, R322) -/

section
variable {op : Nat} {d : Desc} {s t : State} {r : DRef} {run : DRef → Desc → State → State}

theorem withDesc_of_not_consumed (h : s.consume op d = none) : withDesc op d s run = s := by
  simp [withDesc, h]

theorem withDesc_of_verBad (h : s.consume op d = some (r, t)) (hv : t.verBad d = true) :
    withDesc op d s run = t.complete r 0xE1 true 0 := by
  simp [withDesc, h, hv]

/-- A descriptor that waits stands at the end of its ring's waiting list. -/
def waitingRing (x : Ring) (op num : Nat) (d : Desc) : Ring := { x with waiting := x.waiting ++ [(op, num, d)] }

theorem withDesc_of_held (h : s.consume op d = some (r, t)) (hv : t.verBad d = false)
    (hw : t.fenceWaits r d = true ∨ t.memStart r.part op = false) {x : Ring} (hx : t.ring? (pairKey r.part r.ring) = some x) :
    withDesc op d s run = t.putRing (pairKey r.part r.ring) (waitingRing x op r.num d) := by
  rw [withDesc, h]
  dsimp only
  rw [if_neg (by simp [hv]), if_pos (by simpa using hw), hx]
  rfl

/-- A descriptor that starts and meets every granule it reads has run. -/
theorem withDesc_of_ran (h : s.starts op d r t) (hh : (run r d t).atHand (.desc r)) :
    withDesc op d s run = (run r d t).ran (.desc r) := by
  obtain ⟨u, hc, hv, hf, hm, ha, rfl⟩ := h
  rw [withDesc, hc]
  dsimp only
  rw [if_neg (by simp [hv]), if_neg (by simp [hf, hm])]
  have hh' : (run r d (u.setTiers fun x => { x with asking := some (.desc r) })).demandWaits (.desc r) = false := hh
  simp [State.demandTry, State.demandGet, ha, hh', State.ran, State.asks]

/-- A descriptor that starts and lacks a granule waits for it, and nothing else of its run happens. -/
theorem withDesc_of_lacking (h : s.starts op d r (t.asks (.desc r))) (hc : s.consume op d = some (r, t))
    (hh : (run r d (t.asks (.desc r))).demandWaits (.desc r) = true) {x : Ring} (hx : t.ring? (pairKey r.part r.ring) = some x) :
    withDesc op d s run = (t.setTiers (fun z => { z with demand := (run r d (t.asks (.desc r))).tiers.demand })).putRing
      (pairKey r.part r.ring) (waitingRing x op r.num d) := by
  obtain ⟨u, hc', hv, hf, hm, ha, -⟩ := h
  obtain ⟨-, rfl⟩ := Prod.mk.inj (Option.some.inj (hc'.symm.trans hc))
  rw [withDesc, hc]
  dsimp only
  rw [if_neg (by simp [hv]), if_neg (by simp [hf, hm])]
  have hh' : (run r d (u.setTiers fun x => { x with asking := some (.desc r) })).demandWaits (.desc r) = true := hh
  have hx' : ∀ f, (u.setTiers f).ring? (pairKey r.part r.ring) = some x := fun f => hx
  simp [State.demandTry, State.demandGet, ha, hh', hx', State.asks, waitingRing]

end

/-- Settles O10: each end of `withDesc` under the condition that leads to it. -/
theorem undefinedVersionEndsAsNoop : Obligations.UndefinedVersionEndsAsNoop := by
  intro op d s run
  refine ⟨withDesc_of_not_consumed, fun r t hc => ⟨fun hv => ?_, fun hv hw x hx => ?_, fun hs => ⟨fun hh => ?_, fun hh x hx => ?_⟩⟩⟩
  · exact withDesc_of_verBad hc (by simpa [State.verBad] using hv)
  · exact withDesc_of_held hc hv hw hx
  · exact withDesc_of_ran hs hh
  · exact withDesc_of_lacking hs hc hh hx

end Sys2Proof.Machine.RingLaws
end

section
/-! PROOF. The PTP time unit (02_cadence.md, R51 to R61, R366, R367): its state and port changes, its messages, whole seconds and tick
beacons (O11, O12). -/
namespace Sys2Proof.Machine.ClockLaws
open Sys2Proof Sys2Proof.Machine.Laws

/-- Two commands whose effects agree answer the same next state. -/
theorem next_flush {a b : State} (h : a = b) : (.next a.flush : Host.Outcome State Fault Refusal) = .next b.flush := h ▸ rfl

/-! ## State and port changes (R21, R54, R59, R60) -/

theorem setTime_of_state {s : State} {old v : Nat} (h : s.rd F.cadState = old) (hne : old ≠ v) :
    s.setTime v = (s.wr F.cadState v).timeEvent 1 old 0 0 := by
  subst h
  exact if_neg hne

theorem holdover_of_locked {s : State} (h : s.rd F.cadState = 1) (hm : s.time.hasMaster = true) :
    s.holdover = ({ s with time := { s.time with hasMaster := false } } : State).setTime tsHoldover :=
  if_pos (by simp [h, hm, tsLocked])

theorem ppsEdge_of_enabled {s : State} (h : s.rd F.cadPpsEn = 1) (hm : s.time.hasMaster = false) : s.ppsEdge =
    (({ s with freeCtr := s.freeCtr + 1, time := { s.time with ppsMaster := true },
               net := { s.net with now := (Config.timeOfDay s.freeCtr).toNat * 10 ^ 9 } } : State).wr F.cadOffset
      (Config.edgeOffset s.freeCtr).toNat).setTime tsLocked :=
  if_pos (by simp [State.flag, h, hm])

theorem ptpMove_of_ne {s : State} {n : Nat} (h : s.rd F.cadPortNow ≠ n) :
    s.ptpMove n = (s.wr F.cadPortNow n).timeEvent 2 (s.rd F.cadState) 0 0 := if_neg h

theorem ptpFail_of_port {s : State} (h : s.rd F.cadPortNow = s.rd F.cadPtpPort) : s.ptpFail = s.ptpMove (s.rd F.cadPtpAlt) := if_pos h

theorem unitTakeover_of_src {s : State} (h : s.rd F.cadSrc = 0) (hf : 1 ∉ s.time.failed) : s.unitTakeover =
    (({ s with time := { s.time with failed := 0 :: s.time.failed } } : State).wr F.cadSrc 1).timeEvent 3 (s.rd F.cadState) 0 0 :=
  if_pos (by simpa [h] using hf)

/-! ## PTP messages (R51 to R53, R366, R367) -/

section
variable {s : State} {n domain : Nat}

theorem ptpRx_of_foreign (h : domain ≠ s.rd F.cadDomain ∨ s.rd F.npLink n ≠ 1) (m : PtpMsg) : s.ptpRx n domain m = s :=
  if_pos (by simpa [State.flag] using h)

variable (hd : domain = s.rd F.cadDomain) (hl : s.rd F.npLink n = 1)
include hd hl

theorem ptpRx_pdelayResp (hm : s.rd F.cadProfile = 1 ∨ s.rd F.npPartner n = 1) (trip : Int) :
    s.ptpRx n domain (.pdelayResp trip) = s.modNport n (fun p => { p with peerDelay := trip / 2 }) := by
  have hm' : s.measuresPeer n = true := by simpa [State.measuresPeer, State.flag, hl] using hm
  simp [State.ptpRx, State.flag, hd, hl, hm']

variable (hn : s.rd F.cadPortNow = n)
include hn

theorem ptpRx_announce {better : Bool} (h : s.rd F.cadGmAllow ≠ 1 ∨ better = true) :
    s.ptpRx n domain (.announce better) = { s with time := { s.time with hasMaster := true, ppsMaster := false } } := by
  subst hn
  rcases h with h | h <;> simp [State.ptpRx, State.flag, hd, hl, h]

theorem ptpRx_announce_worse (h : s.rd F.cadGmAllow = 1) : s.ptpRx n domain (.announce false) = s := by
  subst hn
  simp [State.ptpRx, State.flag, hd, hl, h]

variable (hm : s.time.hasMaster = true) (late : Int)
include hm

theorem ptpRx_sync : s.ptpRx n domain (.sync false late) = s.takeOffset n late := by
  subst hn
  simp [State.ptpRx, State.flag, hd, hl, hm]

theorem ptpRx_sync_twoStep :
    s.ptpRx n domain (.sync true late) = { s with time := { s.time with awaitsFollow := true } } := by
  subst hn
  simp [State.ptpRx, State.flag, hd, hl, hm]

theorem ptpRx_followUp (ha : s.time.awaitsFollow = true) : s.ptpRx n domain (.followUp late) = s.takeOffset n late := by
  subst hn
  simp [State.ptpRx, State.flag, hd, hl, hm, ha]

theorem ptpRx_delayResp (hp : s.rd F.cadProfile ≠ 1) : s.ptpRx n domain (.delayResp late) =
    { s with time := { s.time with pathDelay := (s.time.late + late) / 2 } } := by
  subst hn
  simp [State.ptpRx, State.flag, hd, hl, hm, hp, State.takeDelay]

end

/-- A state change of the unit leaves its profile. -/
theorem rd_profile_setTime (s : State) (v : Nat) : (s.setTime v).rd F.cadProfile = s.rd F.cadProfile := by
  unfold State.setTime
  dsimp only
  split
  · rfl
  · exact rd_wr_other s _ _ _ _ _ _ _ (by decide)

/-- An offset taken: the lateness less the delay of the path to the master, the unit locked, and under the end-to-end profile a
Delay_Req. -/
theorem takeOffset_eq (s : State) (n : Nat) (late : Int) : s.takeOffset n late =
    let delay := if s.rd F.cadProfile = 1 then (s.nport n).peerDelay else s.time.pathDelay
    let t := ({ s with time := { s.time with late := late, awaitsFollow := false } } : State).wr F.cadOffset
      (toField 32 (satSigned 32 (late - delay)))
    if s.rd F.cadProfile = 1 then t.setTime 1 else (t.setTime 1).sendPtpNew n 1 (List.replicate 10 0) := by
  have hp : ∀ (v : Nat) (t : State), ((t.wr F.cadOffset v).setTime tsLocked).rd F.cadProfile = t.rd F.cadProfile := fun v t => by
    rw [rd_profile_setTime, rd_wr_other _ _ _ _ _ _ _ _ (by decide)]
  unfold State.takeOffset
  dsimp only
  rw [hp]
  rfl

/-- Settles O11: each change of the unit and each message of its port, by the equation of its case. -/
theorem timeUnitCommands : Obligations.TimeUnitCommands := by
  intro s
  refine ⟨fun h => ?_, fun h hm => ?_, fun h hm => ?_, fun n d m h => ?_, fun n d hd hl hn => ⟨fun b h => ?_, fun h => ?_, fun hm late => ?_⟩,
    fun n d trip hd hl hp => ?_, fun h hne => ?_, fun h => ?_, fun h hf => ?_⟩
  · exact next_flush ((if_pos h).trans (setTime_of_state h (by decide)))
  · exact next_flush ((holdover_of_locked h hm).trans (setTime_of_state (by exact h) (by decide)))
  · exact next_flush (ppsEdge_of_enabled h hm)
  · exact next_flush (ptpRx_of_foreign h m)
  · exact next_flush (ptpRx_announce hd hl hn h)
  · exact next_flush (ptpRx_announce_worse hd hl hn h)
  · have ho := takeOffset_eq s n.val late
    exact ⟨next_flush ((ptpRx_sync hd hl hn hm late).trans ho), next_flush (ptpRx_sync_twoStep hd hl hn hm late),
      fun ha => next_flush ((ptpRx_followUp hd hl hn hm late ha).trans ho), fun hp => next_flush (ptpRx_delayResp hd hl hn hm late hp)⟩
  · exact next_flush (ptpRx_pdelayResp hd hl hp trip)
  · exact next_flush ((ptpFail_of_port h).trans (ptpMove_of_ne hne))
  · exact next_flush (ptpMove_of_ne h)
  · exact next_flush (unitTakeover_of_src h hf)

/-! ## Whole seconds and beacons (R61, R366, R367) -/

theorem nport_modNport_other (s : State) (n m : Nat) (f : NPort → NPort) (h : n ≠ m) : (s.modNport n f).nport m = s.nport m := by
  simp [State.nport, State.modNport, tgetD_tput_other _ _ _ _ _ h]

/-- The echo answers of port n start anew. -/
def echoesAnew (n : Nat) (s : State) : State := if (s.nport n).echoes = 0 then s else s.modNport n (fun p => { p with echoes := 0 })

/-- The echo answers of a port started anew: that port has none, every other as many as before, and only the ports change. -/
theorem echoesAnew_spec (n : Nat) (s : State) :
    ((echoesAnew n s).nport n).echoes = 0 ∧ (∀ m, (s.nport m).echoes = 0 → ((echoesAnew n s).nport m).echoes = 0) ∧
      (echoesAnew n s).time = s.time ∧ (echoesAnew n s).net.now = s.net.now ∧ (echoesAnew n s).regs = s.regs ∧
      (echoesAnew n s).out = s.out := by
  unfold echoesAnew
  split
  · next h => exact ⟨h, fun _ hm => hm, rfl, rfl, rfl, rfl⟩
  · refine ⟨by simp, fun m hm => ?_, rfl, rfl, rfl, rfl⟩
    by_cases hnm : n = m
    · subst hnm
      simp
    · rwa [nport_modNport_other _ _ _ _ hnm]

/-- The echo answers of a list of ports started anew. -/
theorem echoesAnew_list (l : List Nat) (s : State) :
    let u := l.foldl (fun s n => echoesAnew n s) s
    (∀ m, m ∈ l ∨ (s.nport m).echoes = 0 → (u.nport m).echoes = 0) ∧ u.time = s.time ∧ u.net.now = s.net.now ∧ u.regs = s.regs ∧
      u.out = s.out := by
  induction l generalizing s with
  | nil => exact ⟨fun m hm => hm.resolve_left (by simp), rfl, rfl, rfl, rfl⟩
  | cons n l ih =>
    obtain ⟨hn, hkeep, htime, hnow, hregs, hout⟩ := echoesAnew_spec n s
    obtain ⟨ihe, ihtime, ihnow, ihregs, ihout⟩ := ih (echoesAnew n s)
    refine ⟨fun m hm => ihe m ?_, ihtime.trans htime, ihnow.trans hnow, ihregs.trans hregs, ihout.trans hout⟩
    rcases hm with hm | hm
    · rcases List.mem_cons.1 hm with rfl | hm
      · exact .inr hn
      · exact .inl hm
    · exact .inr (hkeep m hm)

theorem tickOutHigh_of_mode {s : State} {mode : Nat} (h : s.rd F.cadTickout = mode) (hs : s.net.sealPassed = true) :
    s.tickOutHigh mode = { s with time := { s.time with tickOut := true } } :=
  if_pos (by simp [h, hs])

/-- The state before the messages of a whole second: the time on, TICK_OUT as its mode says, the echo answers anew. -/
def secondBegun (s : State) : State :=
  (List.range 8).foldl (fun s n => echoesAnew n s) (({ s with net := { s.net with now := s.nextSecond } } : State).tickOutHigh 2)

theorem wholeSecond_eq (s : State) : s.wholeSecond = (secondBegun s).ptpSecond := rfl

/-- What a whole second has done before its messages, in TICK_OUT's second mode after the seal. -/
theorem secondBegun_spec {s : State} (h : s.rd F.cadTickout = 2) (hs : s.net.sealPassed = true) :
    (secondBegun s).time.tickOut = true ∧ (secondBegun s).net.now = s.nextSecond ∧ (secondBegun s).regs = s.regs ∧
      (secondBegun s).out = s.out ∧ ∀ n, n < 8 → ((secondBegun s).nport n).echoes = 0 := by
  have hhigh := tickOutHigh_of_mode (s := { s with net := { s.net with now := s.nextSecond } }) h hs
  obtain ⟨hecho, htime, hnow, hregs, hout⟩ :=
    echoesAnew_list (List.range 8) (({ s with net := { s.net with now := s.nextSecond } } : State).tickOutHigh 2)
  replace hecho := fun n hn => hecho n (.inl (List.mem_range.2 hn))
  rw [hhigh] at htime hnow hregs hout
  unfold secondBegun
  rw [hhigh] at hecho ⊢
  generalize List.foldl _ _ _ = u at *
  exact ⟨congrArg TimeState.tickOut htime, hnow, hregs, hout, hecho⟩

section
variable {s : State} {n : Nat}

theorem beaconRx_of_idle (h : s.rd F.npLink n ≠ 1 ∨ s.rd F.npPartner n ≠ 1) (seq bound : Nat) (rx : Int) : s.beaconRx n seq bound rx = s :=
  if_pos (by simpa [State.flag] using h)

/-- The skew a beacon of boundary `bound` shows (R367). -/
def beaconSkew (s : State) (n seq bound : Nat) (rx : Int) : Int :=
  rx + ((s.tick : Int) - bound) * (s.rd F.cadTickLen * 1000) - (s.nport n).peerDelay - seq

/-- The state that keeps a beacon's skew. -/
def beaconKept (s : State) (skew : Int) : State :=
  ({ s with time := { s.time with beacons := s.time.beacons ++ [(s.tick, skew)] } } : State).beaconLook

/-- BCN_SKEW is no field that the tick, the unit's state or a port's record read. -/
theorem beaconKept_reads (s : State) (skew : Int) : (beaconKept s skew).tick = s.tick ∧
    (beaconKept s skew).rd F.cadState = s.rd F.cadState ∧ ∀ n, (beaconKept s skew).nport n = s.nport n :=
  ⟨rd_wr_other _ _ _ _ _ _ _ _ (by decide), rd_wr_other _ _ _ _ _ _ _ _ (by decide), fun _ => rfl⟩

/-- Whether a port told a skew in the last 256 ticks. -/
def skewTold (t : State) (n : Nat) : Bool :=
  match (t.nport n).skewTick with
  | some a => decide (t.tick < a + 256)
  | none => false

theorem beaconRx_of_partner (hl : s.rd F.npLink n = 1) (hp : s.rd F.npPartner n = 1) (seq bound : Nat) (rx : Int) :
    s.beaconRx n seq bound rx =
      let skew := beaconSkew s n seq bound rx
      let t := beaconKept s skew
      if skew.natAbs ≤ 1000 || skewTold t n then t
      else (t.modNport n (fun p => { p with skewTick := some t.tick })).timeEvent 4 (t.rd F.cadState) n skew :=
  if_neg (by simp [State.flag, hl, hp])

theorem beaconRx_of_small (hl : s.rd F.npLink n = 1) (hp : s.rd F.npPartner n = 1) {seq bound : Nat} {rx : Int}
    (h : (beaconSkew s n seq bound rx).natAbs ≤ 1000) : s.beaconRx n seq bound rx = beaconKept s (beaconSkew s n seq bound rx) := by
  rw [beaconRx_of_partner hl hp]
  exact if_pos (by simp [h])

theorem beaconRx_of_large (hl : s.rd F.npLink n = 1) (hp : s.rd F.npPartner n = 1) (hr : (s.nport n).skewTick = none) {seq bound : Nat}
    {rx : Int} (h : 1000 < (beaconSkew s n seq bound rx).natAbs) : s.beaconRx n seq bound rx =
      ((beaconKept s (beaconSkew s n seq bound rx)).modNport n (fun p => { p with skewTick := some s.tick })).timeEvent 4
        (s.rd F.cadState) n (beaconSkew s n seq bound rx) := by
  obtain ⟨htick, hstate, hport⟩ := beaconKept_reads s (beaconSkew s n seq bound rx)
  have htold : skewTold (beaconKept s (beaconSkew s n seq bound rx)) n = false := by simp [skewTold, hport, hr]
  rw [beaconRx_of_partner hl hp, ← htick, ← hstate]
  exact if_neg (by simpa [htold] using h)

end

/-- Settles O12: a whole second starts the echo answers anew (`echoesAnew_list`) and touches no register; a beacon is kept with its skew,
and a large one told. -/
theorem tickOutAndBeacons : Obligations.TickOutAndBeacons := by
  intro s
  refine ⟨fun h hs => ?_, rfl, fun n seq bound rx => ?_, fun n seq bound rx h => next_flush (beaconRx_of_idle h _ _ _)⟩
  · exact ⟨secondBegun s, next_flush (wholeSecond_eq s), secondBegun_spec h hs⟩
  · intro skew l t hl hp
    exact ⟨fun h => next_flush (beaconRx_of_small hl hp h), fun h hr => next_flush (beaconRx_of_large hl hp hr h)⟩

end Sys2Proof.Machine.ClockLaws
end

section
/-! PROOF. What a tick boundary takes and the order of what it does (02_cadence.md, R55, R83, R304; R617), and the credits of an
internal queue (R32, R88) (O13, O14). -/
namespace Sys2Proof.Machine.BoundaryLaws
open Sys2Proof Sys2Proof.Machine.Laws Sys2Proof.Machine.ClockLaws

/-! ## Credits (R32, R88) -/

/-- The queue once its consumer has announced what it newly took. -/
def announced (q : Queue) (taken : Nat) : Queue := { q with consumed := q.consumed + taken, granted := q.granted + taken }

theorem breached_iff (q : Queue) : q.breached = true ↔ q.issued + q.excess < q.consumed + q.returned ∨ q.granted + q.beyond < q.issued := by
  simp [Queue.breached]

section
variable {s : State} {row i : Nat}

theorem queueIssue_of_still (h : (s.queue row i).stopped = true ∨ s.queueHeld row i = true) (taken : Nat) : s.queueIssue row i taken = s :=
  if_pos (by simpa using h)

variable (hs : (s.queue row i).stopped = false) (hh : s.queueHeld row i = false)
include hs hh

theorem queueIssue_of_breach {taken : Nat} (h : (announced (s.queue row i) taken).breached = true) : s.queueIssue row i taken =
    (s.putQueue row i { announced (s.queue row i) taken with stopped := true }).breachEvent row i (announced (s.queue row i) taken) :=
  (if_neg (by simp [hs, hh])).trans (if_pos h)

theorem queueIssue_of_sound {taken : Nat} (h : ¬(announced (s.queue row i) taken).breached = true) : s.queueIssue row i taken =
    s.putQueue row i (if (announced (s.queue row i) taken).issued < (announced (s.queue row i) taken).granted
      then { announced (s.queue row i) taken with issued := (announced (s.queue row i) taken).issued + 1 }
      else announced (s.queue row i) taken) :=
  (if_neg (by simp [hs, hh])).trans (if_neg h)

end

/-- Settles O13: a queue that moves is judged once its consumer's counts are in (`breached_iff`); a sound one issues by its grant. -/
theorem queueItemNeedsCredit : Obligations.QueueItemNeedsCredit := by
  intro q taken s x y
  have hsound : y.consumed + y.returned ≤ y.issued + x.excess → y.issued ≤ y.granted + x.beyond → ¬y.breached = true := by
    intro h1 h2 hb
    rcases (breached_iff y).1 hb with hb | hb
    · exact absurd hb (Nat.not_lt.2 h1)
    · exact absurd hb (Nat.not_lt.2 h2)
  refine ⟨fun h => next_flush (queueIssue_of_still h _), fun hs hh hb => ?_, fun hs hh hc hi => ?_, fun hs hh hc hi hg => ?_⟩
  · exact next_flush (queueIssue_of_breach hs hh ((breached_iff _).2 hb))
  · exact next_flush ((queueIssue_of_sound hs hh (hsound hc (by omega))).trans (congrArg _ (if_pos hi)))
  · exact next_flush ((queueIssue_of_sound hs hh (hsound hc hg)).trans (congrArg _ (if_neg (Nat.not_lt.2 hi))))

/-! ## Boundaries (R55, R83) -/

theorem next_closed {a b : State} (h : a = b) : (.next a.closed : Host.Outcome State Fault Refusal) = .next b.closed := h ▸ rfl

section
variable {s : State} {k : Nat} {m : Meter}

theorem tickBoundary_of_refused (h : s.rst.powered = false ∨ s.time.placed = true ∧ k ≠ s.tick + 1) : s.tickBoundary k m = s :=
  if_pos (by simpa using h)

variable (hp : s.rst.powered = true) (hk : s.time.placed = true → k = s.tick + 1)
include hp hk

theorem tickBoundary_of_down (h : s.rst.stage ≠ 5 ∨ s.rst.off = true) : s.tickBoundary k m = (s.wr F.cadTickNow k).ledgerClose m :=
  (if_neg (by simpa [hp] using hk)).trans (if_pos (by simpa using h))

theorem tickBoundary_of_up (h : s.rst.stage = 5) (ho : s.rst.off = false) : s.tickBoundary k m =
    (({ s with time := { s.time with placed := true } } : State).wr F.cadTickNow k).atBoundary (!s.time.placed) m :=
  (if_neg (by simpa [hp] using hk)).trans (if_neg (by simp [h, ho]))

end

/-- TICK_NOW holds a whole tick number. -/
theorem tick_wr_tickNow (s : State) (k : DWord) : (s.wr F.cadTickNow k.toNat).tick = k.toNat := by
  rw [State.tick, rd_wr_same]
  exact Nat.mod_eq_of_lt k.isLt

/-! ## The refill (R83, R84, R304) -/

/-- A table every listed key of which is set holds what was set at each. -/
theorem tget?_foldl_tput {α : Type} (f : Nat → α) (l : List Nat) (t : Tab α) (p : Nat) (h : p ∈ l ∨ tget? t p = some (f p)) :
    tget? (l.foldl (fun t p => tput t p (f p)) t) p = some (f p) := by
  induction l generalizing t with
  | nil => exact h.resolve_left (by simp)
  | cons q l ih =>
    refine ih _ ?_
    by_cases hq : q = p
    · subst hq
      exact .inr (tget?_tput_same _ _ _)
    · refine h.imp (fun h => ?_) (fun h => ?_)
      · exact (List.mem_cons.1 h).resolve_left (Ne.symm hq)
      · rwa [tget?_tput_other _ _ _ _ hq]

/-- Where no partition owes lines, a refill draws none. -/
theorem refillTokens_of_none_owed {s : State} {ps : List Nat} (h : ∀ q ∈ ps, s.owesLines q = false) : s.refillTokens ps =
    s.setMem (fun m => { m with tokens := ps.foldl (fun t p => tput t p (s.fullTokens p)) [], drawn := [] }) := by
  have hdraw : ∀ (l : List Nat) (t : State), (∀ q ∈ l, s.owesLines q = false) →
      (l.map (fun p => (p, (s.tokensOf p).owed))).foldl
        (fun s e => e.2.foldl (fun s w => s.charge e.1 (w.1 / 2) w.2 (w.1 % 2 == 1)) s) t = t := by
    intro l
    induction l with
    | nil => exact fun _ _ => rfl
    | cons q l ih =>
      intro t hl
      obtain ⟨hq, hl⟩ := List.forall_mem_cons.1 hl
      have hq' : (s.tokensOf q).owed = [] := by simpa [State.owesLines] using hq
      rw [List.map_cons, List.foldl_cons, hq']
      exact ih t hl
  exact hdraw ps _ h

/-! ## A partition's range table and the lock-up count at a boundary (R38, R617) -/

theorem rtBoundary_of_no_wait {s : State} {p : Nat} (h : (s.part p).rtWait = []) :
    s.rtBoundary p = s.modPart p (fun x => { x with rt := x.rtNext, rtWait := [] }) := by
  simp [State.rtBoundary, h]

theorem lockBoundary_stuck (s : State) : s.lockBoundary.rst.stuck =
    if s.rd F.rstLockEn = 1 ∧ s.rst.progress = false ∧ ∃ p ∈ s.liveParts, (s.runStep? p).isSome = true then s.rst.stuck + 1 else 0 := by
  simp [State.lockBoundary, State.flag, and_assoc]

/-- Settles O14: the three ends of a boundary, the refill without debts, and what a partition and the lock-up count take from it. -/
theorem tickBoundaryOrder : Obligations.TickBoundaryOrder := by
  refine ⟨fun k m s => ⟨fun h => ?_, fun hp hk h => ?_, fun hp hk h ho => ⟨tick_wr_tickNow _ k, ?_⟩⟩, fun s p hp h => ⟨rfl, ?_⟩,
    fun s p h => ?_, lockBoundary_stuck⟩
  · exact next_closed (tickBoundary_of_refused h)
  · exact next_closed (tickBoundary_of_down hp hk h)
  · refine next_closed ((tickBoundary_of_up hp hk h ho).trans ?_)
    cases hpl : s.time.placed <;> rfl
  · rw [refillTokens_of_none_owed h]
    exact tget?_foldl_tput s.fullTokens _ _ p (.inl hp)
  · rw [rtBoundary_of_no_wait h, part_modPart_same, ← h]

end Sys2Proof.Machine.BoundaryLaws
end

section
/-! PROOF. Steps, plans and shards (02_cadence.md, R66 to R74, 06_vector_and_isafen.md, R216, R225): their descriptors, the check of a
tick plan and the begin of a step (O15, O16, O17). -/
namespace Sys2Proof.Machine.StepLaws
open Sys2Proof Sys2Proof.Machine.Laws Sys2Proof.Machine.ClockLaws Sys2Proof.Machine.RingLaws

/-! ## Descriptors that start -/

section
variable {op : Nat} {d : Desc} {s t y : State} {r : DRef} {run : DRef → Desc → State → State}

/-- What a descriptor's run makes, its demand reads over, where it lacks no granule. -/
theorem withDesc_of_run (h : s.starts op d r t) (hy : run r d t = y) (hh : y.atHand (.desc r)) :
    withDesc op d s run = y.ran (.desc r) := by
  subst hy
  exact withDesc_of_ran h hh

/-- A command that is a descriptor and then sends the demand reads that lack a request (R322). -/
theorem next_descriptor (h : s.starts op d r t) (hy : run r d t = y) (hh : y.atHand (.desc r)) :
    (.next (withDesc op d s run).demandIssue.flush : Host.Outcome State Fault Refusal) = .next (y.ran (.desc r)).demandIssue.flush := by
  rw [withDesc_of_run h hy hh]

end

/-! ## The runs of the plan and step descriptors (R72, R73) -/

/-- The step a kick of plan x queues. -/
def kickedStep (t : State) (r : DRef) (d : Desc) (x : Plan) : StepRun :=
  ⟨(t.part r.part).cad.nextRun, d.fld 0 8, d.at 24 64, some r, t.tick + 1, 0, x.nticks, x.statStride, x.tptPva, x.statPva, .queued, 0, none,
    none, false, [], false, false⟩

/-- The plan a header enters. -/
def headerPlan (b : List Byte) : Plan := ⟨leAt b 2 2, leAt b 4 4, leAt b 8 8, leAt b 16 8, none⟩

section
variable {r : DRef} {d : Desc} {t u : State} {x : Plan}

theorem runKick_of_livePlan (h : t.livePlan r.part (d.fld 0 8) = some x) : t.runKick r d =
    ((t.modCad r.part (fun c => { c with steps := c.steps ++ [kickedStep t r d x], nextRun := c.nextRun + 1 })).placeSteps
      r.part).countSteps r.part := by
  simp [State.runKick, h, kickedStep]

theorem planHdrOk_of {b : List Byte} (h1 : leAt b 0 1 = 0x10) (h2 : leAt b 2 2 ≠ 0) (h3 : leAt b 4 4 % 64 = 0)
    (h4 : leAt b 32 4 = crc32c (bytesAt b 0 32 ++ bytesAt b 36 28)) : planHdrOk b = true := by
  simp [planHdrOk, h1, h2, h3, h4]

theorem runPlanRegister_of_taken (h : tget? (t.part r.part).cad.plans (d.fld 0 8) = some x) :
    t.runPlanRegister r d = t.nullDesc r planNull (d.fld 0 8) := by
  simp [State.runPlanRegister, thas, h]

theorem runPlanRegister_of_sound {b : List Byte} (hfree : tget? (t.part r.part).cad.plans (d.fld 0 8) = none)
    (hread : t.descRead r.part (d.at 24 64) 64 = (some b, u)) (hok : planHdrOk b = true)
    (hmap : u.mapped r.part (u.part r.part).rt (leAt b 8 8) (8 * leAt b 2 2) false = true) : t.runPlanRegister r d =
      (u.modCad r.part (fun c => { c with plans := tput c.plans (d.fld 0 8) (headerPlan b) })).done r := by
  simp [State.runPlanRegister, thas, hfree, hread, hok, hmap, headerPlan]

/-- A change of the plans leaves the steps, so the plans they use. -/
theorem planInUse_modCad_plans (p n : Nat) (f : Tab Plan → Tab Plan) :
    (t.modCad p (fun c => { c with plans := f c.plans })).planInUse p n = t.planInUse p n := by
  simp [State.planInUse, State.modCad]

theorem runPlanRelease_of_livePlan (h : t.livePlan r.part (d.fld 0 8) = some x) :
    let u := t.modCad r.part (fun c => { c with plans := tput c.plans (d.fld 0 8) { x with releasing := some r } })
    t.runPlanRelease r d = if t.planInUse r.part (d.fld 0 8) then u
      else (u.modCad r.part (fun c => { c with plans := tdel c.plans (d.fld 0 8) })).done r := by
  intro u
  have hx : tget? (u.part r.part).cad.plans (d.fld 0 8) = some { x with releasing := some r } := by simp [u, State.modCad]
  have huse : u.planInUse r.part (d.fld 0 8) = t.planInUse r.part (d.fld 0 8) :=
    planInUse_modCad_plans _ _ (fun l => tput l _ _)
  rw [← huse]
  calc t.runPlanRelease r d = u.planTryRelease r.part (d.fld 0 8) := by simp [State.runPlanRelease, h, u]
    _ = _ := by simp [State.planTryRelease, hx]

theorem runStepHold_of_no_steps (h : (t.part r.part).cad.steps = []) : t.runStepHold r d = t.done r := by
  simp [State.runStepHold, State.actives, h]

end

theorem exec_stepKick_of_room {d : Desc} {s : State} (h : s.kickRoom d.part.val = true) :
    exec (.stepKick d) s = .next (withDesc 0x10 d s State.runKick).demandIssue.flush :=
  next_flush (if_pos h)

/-- Settles O15: each descriptor's run under the conditions of its case. -/
theorem stepAndPlanDescriptors : Obligations.StepAndPlanDescriptors := by
  refine ⟨fun d s t r x hroom hs hx hh => ?_, fun d s hroom => ?_, fun d s t u r b hs hfree hread h1 h2 h3 h4 hmap hh => ?_,
    fun d s t r x hs hx hh => ?_, fun d s t r x hs hx hh => ?_, fun d s t r hs hx hh => ?_⟩
  · rw [exec_stepKick_of_room hroom]
    exact next_descriptor hs (runKick_of_livePlan hx) hh
  · exact next_flush (if_neg (by simp [hroom]))
  · exact next_descriptor hs (runPlanRegister_of_sound hfree hread (planHdrOk_of h1 h2 h3 h4) hmap) hh
  · exact next_descriptor hs (runPlanRegister_of_taken hx) hh
  · exact next_descriptor hs (runPlanRelease_of_livePlan hx) hh
  · exact next_descriptor hs (runStepHold_of_no_steps hx) hh

/-! ## The runs of the shard descriptors, and digest roots (R216, R225) -/

section
variable {r : DRef} {d : Desc} {t u : State} {x : Shard}

theorem runShardRegister_of_sound {b : List Byte} (hread : t.descRead r.part (d.at 24 64) 128 = (some b, u))
    (hfree : u.shard? r.part (d.fld 0 12) = none) (hok : u.shardOk r.part b = true) :
    t.runShardRegister r d = ((u.putShard r.part (d.fld 0 12) (shardOf b)).countShards r.part).done r := by
  simp [State.runShardRegister, hread, hfree, hok]

theorem runShardRelease_of_live (hx : t.shard? r.part (d.fld 0 12) = some x) (hr : x.releasing = none) :
    let u := t.putShard r.part (d.fld 0 12) { x with releasing := some r }
    t.runShardRelease r d = if x.pend = true ∨ (u.part r.part).cad.steps.any (u.stepNames r.part (d.fld 0 12)) = true then u
      else ((u.modPart r.part (fun q => { q with shards := tdel q.shards (d.fld 0 12) })).countShards r.part).done r := by
  intro u
  have hu : u.shard? r.part (d.fld 0 12) = some { x with releasing := some r } := by simp [u, State.shard?, State.putShard]
  calc t.runShardRelease r d = u.shardTryRelease r.part (d.fld 0 12) := by simp [State.runShardRelease, hx, hr, u]
    _ = _ := by simp [State.shardTryRelease, hu]

theorem runShardQuery_of_mapped (hx : t.shard? r.part (d.fld 0 12) = some x) (hr : x.releasing = none)
    (hw : t.writePva (t.engCtx r.part engDesc) (d.at 24 64) x.image false = (false, u)) : t.runShardQuery r d = u.done r := by
  simp [State.runShardQuery, hx, hr, hw]

theorem rootFormed_of_pending {s : State} {p i : Nat} (hx : s.shard? p i = some x) (hp : x.pend = true) (hl : x.lastDone = true)
    (hb : x.broken = false) (hr : x.rootNew = none) (hrep : s.replaying p x.run = false) (he : fldN (s.rd F.rstEngInr) 18 2 ≠ 3) :
    s.rootFormed p i = (((s.formRoot p i x).sendRoots p i).rootsLook p i).stepLook p := by
  simp [State.rootFormed, hx, hp, hl, hb, hr, hrep, he]

end

/-- Settles O16: the runs of the shard descriptors, a root that is due, and the releases looked at. -/
theorem shardDescriptorsAndReleases : Obligations.ShardDescriptorsAndReleases := by
  refine ⟨fun d s t u r b hs hread hfree hok hh => ?_, fun d s t r x hs hx hr hh => ?_, fun d s t u r x hs hx hr hw hh => ?_,
    fun p i s x hx hp hl hb hr hrep he => ?_, fun p s => rfl⟩
  · exact next_descriptor hs (runShardRegister_of_sound hread hfree hok) hh
  · exact next_descriptor hs (runShardRelease_of_live hx hr) hh
  · exact next_descriptor hs (runShardQuery_of_mapped hx hr hw) hh
  · exact next_flush (rootFormed_of_pending hx hp hl hb hr hrep he)

/-! ## Tick plans and the begin of a step (R65 to R67, R74) -/

/-- A tick plan that has been read passes R66. -/
def planPasses (t : State) (p : Nat) (r : StepRun) (b : List Byte) : Bool :=
  tickPlanOk b r.checked && t.mapped p (t.part p).rt (r.statPva + r.checked * r.statStride) (b.length / 2) true

section
variable {s t : State} {p : Nat} {r : StepRun}

/-- Nothing holds back the check of a tick plan that is due. -/
theorem planCheck_guard (hdue : r.first + r.checked ≤ s.tick + s.rd F.pRunahead p + 1)
    (hq : r.phase = .queued → s.stepBlocked p r = false) (hp : s.pstate p = 2) :
    ¬(decide (s.tick + s.rd F.pRunahead p + 1 < r.first + r.checked) || (r.phase == .queued && s.stepBlocked p r) ||
      s.pstate p != 2) = true := by
  simpa [hp, hdue] using hq

variable (hr : (s.part p).cad.steps.find? (fun r => !r.stopped && !r.replay && decide (r.checked < r.nticks)) = some r)
  (hdue : r.first + r.checked ≤ s.tick + s.rd F.pRunahead p + 1) (hq : r.phase = .queued → s.stepBlocked p r = false)
  (hp : s.pstate p = 2)
include hr hdue hq hp

theorem planCheck_of_unread (h : s.readPlan p r r.checked = (none, t)) : s.planCheck p = t.planFailed p r r.checked 2 := by
  simp only [State.planCheck, hr]
  rw [if_neg (planCheck_guard hdue hq hp), h]

theorem planCheck_of_read {b : List Byte} (h : s.readPlan p r r.checked = (some b, t)) : s.planCheck p =
    if planPasses t p r b then
      ((t.modStep p r.id (fun y => { y with checked := r.checked + 1 })).releaseGrains p r r.checked (planCores b)
        (planGrains r b r.checked)).stepLook p
    else t.planFailed p r r.checked 1 := by
  simp only [State.planCheck, hr]
  rw [if_neg (planCheck_guard hdue hq hp), h]
  dsimp only
  by_cases hok : planPasses t p r b = true
  · rw [if_pos hok, if_neg (by simpa [planPasses] using hok)]
  · rw [if_neg hok, if_pos (by simpa [planPasses, Classical.or_iff_not_imp_left] using hok)]

end

section
variable {s : State} {p : Nat} {r : StepRun} (hr : (s.part p).cad.steps.find? (fun r => r.phase == .queued) = some r)
include hr

theorem stepBegin_of_early (h : s.tick < r.first) : s.stepBegin p = s := by
  simp [State.stepBegin, hr, h]

/-- The ticks of the running steps are over. -/
def runningOver (s : State) (p : Nat) : State :=
  ((s.actives p).filter (fun y => y.phase == .running)).foldl (fun s y => s.ticksOver p y) s

/-- What stood for a replay of a failed step that none replays is given up. -/
def failedGivenUp (s : State) (p : Nat) : State :=
  match (s.part p).cont.failed, (s.actives p).any (fun y => y.replay) with
  | some f, false => (s.sheafStepOver p f.stepNo).modCont p (fun c => { c with failed := none })
  | _, _ => s

/-- Step r marked running, with the partition's signals zero, its cores free to fill and its number kept. -/
def stepRunning (s : State) (p : Nat) (r : StepRun) : State :=
  let s := (s.modStep p r.id (fun y => { y with phase := .running })).modCad p (fun c => { c with signals := [] })
  let s : State := { s with cores := tmap s.cores (fun c k => if s.ownsCore p c then { k with noFill := false } else k) }
  s.modCad p (fun c => { c with lastStep := some r.stepNo })

theorem stepBegin_of_due (h : r.first ≤ s.tick) (hb : s.stepBlocked p r = false) (hp : s.time.placed = true) : s.stepBegin p =
    ((((((stepRunning (failedGivenUp (runningOver s p) p) p r).countSteps p).ledgerStart p r.plan).promoBoundary p true).swapsBegin p
      r).stepLook p) := by
  simp only [State.stepBegin, hr]
  rw [if_neg (by simp [hb, hp, h])]
  rfl

end

/-- Settles O17: the plan that is due is read and judged, and the first queued step begins in its tick. -/
theorem tickPlansAndStepBegin : Obligations.TickPlansAndStepBegin := by
  refine ⟨fun p s r hr hdue hq hp => ⟨fun t h => ?_, fun b t h => ?_⟩, fun p s r hr => ⟨fun h => ?_, fun h hb hpl => ?_⟩⟩
  · exact next_flush (planCheck_of_unread hr hdue hq hp h)
  · exact next_flush (planCheck_of_read hr hdue hq hp h)
  · exact next_flush (stepBegin_of_early hr h)
  · exact next_flush (stepBegin_of_due hr h hb hpl)

end Sys2Proof.Machine.StepLaws
end

section
/-! PROOF. Grains on cores (02_cadence.md, R71 to R81; 13_continuity.md, R472 to R478): their start and their end, overruns, hangs and
fences, and a core rebuilt (O18, O19). -/
namespace Sys2Proof.Machine.GrainLaws
open Sys2Proof Sys2Proof.Machine.Laws Sys2Proof.Machine.ClockLaws

/-! ## An asker's demand reads (R322) -/

section
variable {s y : State} {a : Asker} {f : State → State}

/-- What an asker makes where it lacks no granule, its demand reads over. -/
theorem demandRun_of_atHand (ha : s.tiers.asking = none) (hy : f (s.asks a) = y) (hh : y.atHand a) : (s.demandRun a f).2 = y.ran a := by
  subst hy
  have hh' : (f (s.setTiers fun x => { x with asking := some a })).demandWaits a = false := hh
  simp [State.demandRun, State.demandTry, State.demandGet, ha, hh', State.ran, State.asks]

/-- An asker that does nothing and asks for nothing leaves the state. -/
theorem demandRun_of_idle (ha : s.tiers.asking = none) (hd : ∀ d ∈ s.tiers.demand, d.asker ≠ a) (hf : f (s.asks a) = s.asks a) :
    (s.demandRun a f).2 = s := by
  have hh : (s.asks a).atHand a := by
    simp only [State.atHand, State.demandWaits, List.any_eq_false]
    exact fun d hm => by simp [hd d hm]
  rw [demandRun_of_atHand ha hf hh]
  have hkeep : s.tiers.demand.filter (fun d => d.asker != a) = s.tiers.demand :=
    List.filter_eq_self.2 fun d hm => by simpa using hd d hm
  have htiers : { s.tiers with asking := none, demand := s.tiers.demand.filter (fun d => d.asker != a) } = s.tiers := by
    rw [hkeep, ← ha]
  exact congrArg (fun t : TierState => ({ s with tiers := t } : State)) htiers

end

/-! ## What the registers alone say -/

section
variable {s t : State} (h : t.regs = s.regs)
include h

/-- Every register reads the same in two states with one register file. -/
theorem rd_eq_of_regs : @State.rd t = @State.rd s := by
  funext f b i
  exact rd_congr h f b i

theorem space?_congr (a : Nat) : t.space? a = s.space? a := by
  unfold State.space?
  rw [rd_eq_of_regs h]

/-- Which stacks a partition holds capacity on, and which serve, the registers alone say. -/
theorem memHeld_congr (p : Nat) : t.memHeld p = s.memHeld p := by
  unfold State.memHeld State.stackServes State.holdsStack
  simp only [space?_congr h, rd_eq_of_regs h]

end

/-! ## The start of a grain (R75, R663) -/

/-- A partition that holds a core is one of the 36. -/
theorem partOfCore_lt {s : State} {c p : Nat} (h : s.partOfCore c = some p) : p < 36 :=
  List.mem_range.1 (List.mem_of_find?_eq_some h)

theorem tick_spillPoint (s : State) (c : Nat) {p : Nat} (hp : p < 36) : (s.spillPoint c p).tick = s.tick := by
  refine (rd_wr_other _ _ _ _ _ _ _ _ ?_).trans (rd_modCore _ _ _ _ _ _)
  simp only [Fld.key, Fld.addr, Blk.base, F.pSpills, F.cadTickNow]
  omega

theorem tick_spillLook (s : State) (c : Nat) {p : Nat} (hp : p < 36) : (s.spillLook c p).tick = s.tick := by
  unfold State.spillLook
  extract_lets w leaving n due
  by_cases hdue : due = true
  · rw [if_pos hdue]
    exact tick_spillPoint s c hp
  · rw [if_neg hdue]

theorem tick_switchClear (s : State) (c p : Nat) : (s.switchClear c p).tick = s.tick := by
  unfold State.switchClear
  dsimp only
  split <;> rfl

/-- The stores emptied and the spill point taken before a grain starts leave the tick. -/
theorem tick_beforeStart (s : State) (c : Nat) {p : Nat} (hp : p < 36) : (((s.switchClear c p).spillLook c p).moved).tick = s.tick := by
  rw [tick_moved, tick_spillLook _ c hp, tick_switchClear]

theorem run_putRun {s : State} {c : Nat} {r : Running} (h : r.grain.filler = false) : ((s.putRun c r).core c).run = some r := by
  simp [State.putRun, h]

/-- A grain that is no filler runs on its core from its start on. -/
theorem run_startGrain (s : State) (c ofs : Nat) {p : Nat} {x : Grain} (again : Bool) (hf : x.filler = false) (hp : p < 36) :
    ∃ R : Running, ((s.startGrain c p ofs x again).core c).run = some R ∧ R.grain = { x with clamped := R.grain.clamped } ∧ R.part = p ∧
      R.startTick = s.tick ∧ R.startOfs = ofs := by
  unfold State.startGrain
  extract_lets s0 b cl s1 r u g
  have htick : r.startTick = s.tick := by
    refine Eq.trans (b := s0.tick) ?_ (tick_beforeStart s c hp)
    show s1.tick = s0.tick
    simp only [s1]
    split <;> simp
  by_cases hdelay : u = 6
  · rw [if_pos hdelay]
    exact ⟨r, run_putRun hf, rfl, rfl, htick, rfl⟩
  · rw [if_neg hdelay]
    obtain ⟨o, s2⟩ := s1.readPva g.ctx (gDesc x.word) (descLen u)
    dsimp only
    split
    · exact ⟨_, run_putRun (r := { r with code := descCode u o.poison }) hf, rfl, rfl, htick, rfl⟩
    · split
      · exact ⟨_, run_putRun (r := { r with desc := leNat o.bytes, waiting := true, since := s2.tick + 1 }) hf, rfl, rfl, htick, rfl⟩
      · exact ⟨_, run_putRun (r := (s2.beginUnit c { r with desc := leNat o.bytes }).1) hf, rfl, rfl, htick, rfl⟩

/-- The first waiting grain of a core that may start, of a step that has begun, starts. -/
theorem startOn_of_ready {s : State} {c ofs p : Nat} {x : Grain} {r : StepRun} (hp : s.partOfCore c = some p)
    (hf : (s.core c).fenced = false) (hb : (s.core c).rebuild = false) (hh : s.coreHeld c = false) (hm : s.memHeld p = false)
    (ht : ∀ e ∈ s.mem.took, e.1 ≠ c) (hr : (s.core c).run = none)
    (hx : (s.part p).cad.work.find? (fun x => x.lcore == c) = some x) (hs : s.stepRun? p x.run = some r) (hgo : s.mayStart p r x = true) :
    s.startOn c ofs = (s.modCad p (fun y => { y with work := y.work.erase x })).startGrain c p ofs x x.again := by
  have htook : s.mem.took.any (fun e => e.1 == c) = false := by simpa using ht
  simp [State.startOn, hp, hf, hb, hh, hm, htook, hr, hx, hs, hgo]

/-- R75 for a grain of a step that has begun, in its tick or later, without a signal wait. -/
theorem mayStart_of_begun {s : State} {p : Nat} {x : Grain} {r : StepRun} (hps : s.pstate p = 2) (hph : r.phase ≠ .queued)
    (ht : x.tick ≤ s.tick) (hw : bitN x.word 38 = false) (ha : x.again = false) (hsw : s.swapHolds p x.tick = false) :
    s.mayStart p r x = true := by
  have hlead : x.tick ≤ s.tick + (if gNoEarly x.word then 0 else s.rd F.pRunahead p) := by omega
  simp [State.mayStart, State.waitMet, hps, hph, hw, ha, hsw, hlead]

/-! ## The end of a grain (R71, R84, R194) -/

section
variable {s : State} {c ofs : Nat}

/-- A fenced core, and one that runs nothing, ends no grain. -/
theorem completeOn_of_idle (h : (s.core c).fenced = true ∨ ((s.core c).run = none ∧ (s.core c).filler = none)) : s.completeOn c ofs = s := by
  rcases h with h | ⟨hr, hf⟩
  · simp [State.completeOn, h]
  · simp [State.completeOn, hr, hf]

variable {r : Running} (hf : (s.core c).fenced = false) (hb : (s.core c).rebuild = false) (hr : (s.core c).run = some r)
include hf hb hr

theorem delayElapsed_of_bare (hfill : (s.core c).filler = none) (hu : gUnit r.grain.word = 6) :
    s.delayElapsed c = s.finishGrain c r (s.budget r.grain.word) 0 0 := by
  simp [State.delayElapsed, hf, hb, hr, hfill, hu]

/-- A grain that has started by now and waits for nothing runs to its end. -/
theorem completeOn_of_started (hs : s.stopHeld c = false) (hfill : (s.core c).filler = none) (hu : gUnit r.grain.word ≠ 6)
    (ht : s.timeAt r.startTick r.startOfs ≤ s.timeAt s.tick ofs) (hw : r.waiting = false) :
    s.completeOn c ofs = let e := s.grainRun c r
      if e.2.memWaits e.1.part || e.2.routerWaits c e.1.part then e.2.putRun c e.1 else e.2.grainEnd c e.1 (s.cyclesOf r ofs) := by
  simp [State.completeOn, State.endRunning, hf, hb, hs, hr, hfill, hu, hw, Nat.not_lt.2 ht]

end

section
variable {s : State} {c : Nat} {r : Running} (hran : r.ran = none) (hw : r.waiting = false)
include hran hw

theorem grainRun_of_code (hc : r.code ≠ 0) :
    s.grainRun c r = ({ r with ran := some (r.code, 0) }, s.lastNoWork r) := by
  simp [State.grainRun, hran, hw, hc]

theorem grainRun_of_sound (hc : r.code = 0) (hres : r.resume = none) : s.grainRun c r =
    let o := s.unitRun (s.gctx c r.part r.grain r.rt) (gUnit r.grain.word) r.desc r.pre r.replayed
    ({ r with clamped := r.clamped || o.clamped, ran := some (o.code, o.flags) }, o.st) := by
  simp [State.grainRun, hran, hw, hc, hres]

end

/-- Settles O18: a core's first grain that may start, and one that has started, as its core's demand reads let it. -/
theorem grainsStartAndComplete : Obligations.GrainsStartAndComplete := by
  refine ⟨fun c ofs s p x r ha hp hf hb hh hm ht hr hxf hxa hx hs hps hph htk hw hsw hy => ⟨next_flush ?_, ?_⟩,
    fun c ofs s r ha hf hb hst hfill hr hu htime hwait hran hres => ⟨fun hc hmw hrw hy => next_flush ?_, fun hc hmw hrw hy => next_flush ?_⟩,
    fun c s r hr hfill hf hb hu => next_flush (delayElapsed_of_bare hf hb hr hfill hu),
    fun c ofs s ha hd h => next_flush (demandRun_of_idle ha hd (completeOn_of_idle h))⟩
  · have hm' : (s.asks (.core c.val)).memHeld p = false := (memHeld_congr (s := s) (t := s.asks (.core c.val)) rfl p).trans hm
    have hstart := startOn_of_ready (s := s.asks (.core c.val)) (ofs := ofs.toNat) hp hf hb hh hm' ht hr hx hs
      (mayStart_of_begun (s := s.asks (.core c.val)) hps hph htk hw hxa hsw)
    rw [hxa] at hstart
    exact demandRun_of_atHand ha hstart hy
  · exact run_startGrain _ _ _ _ hxf (partOfCore_lt hp)
  · refine demandRun_of_atHand ha ?_ hy
    rw [completeOn_of_started (s := s.asks (.core c.val)) hf hb hr hst hfill hu htime hwait, grainRun_of_code hran hwait hc]
    exact if_neg (by simp [hmw, hrw])
  · refine demandRun_of_atHand ha ?_ hy
    rw [completeOn_of_started (s := s.asks (.core c.val)) hf hb hr hst hfill hu htime hwait, grainRun_of_sound hran hwait hc hres]
    exact if_neg (by simp [hmw, hrw])

/-! ## Overruns, hangs and fences (R77, R81, R27, R472) -/

section
variable {s : State} {c p : Nat} {r : Running}

/-- The running grain whose tick has passed, not yet reported, that started before its deadline. -/
theorem grainOverrun_of_late (hp : s.partOfCore c = some p) (hr : (s.core c).run = some r) (ht : r.grain.tick < s.tick)
    (ho : r.grain.overrun = false) (hf : r.grain.filler = false) (ha : r.grain.again = false)
    (hd : s.timeAt r.startTick r.startOfs ≤ s.timeAt (r.grain.tick + 1) 1800) : s.grainOverrun c =
      ((s.modCore c (fun k => { k with run := some { r with grain := { r.grain with overrun := true } } })).event 0x04 p
        [p, c, r.grain.tick, gId r.grain.word, 1, s.timeAt (r.grain.tick + 1) 1800 - s.timeAt r.startTick r.startOfs]).inc F.pOvrCount 1 p := by
  simp [State.grainOverrun, hp, hr, ht, ho, hf, ha, hd]

theorem hangFence_of_hung (hr : (s.core c).run = some r) (ht : r.since + s.rd F.cadHangTicks ≤ s.tick) (hw : s.inWait c r = false) :
    s.hangFence c = s.fenceCore c := by
  simp [State.hangFence, hr, ht, hw]

theorem fenceCore_of_fenced (h : (s.core c).fenced = true) : s.fenceCore c = s := if_pos h

/-- A core that is fenced under the manual policy: emptied, and its site out of service. -/
def fencedOut (s : State) (c : Nat) : State :=
  let site := s.rd F.idSite 0 c
  let t := s.modCore c (fun k => { k with fenced := true, asked := false, tarn := [], opStore := [], vregs := [], sregs := [], rebuild := false })
  let v := ((t.wr F.idState 2 0 site).wr F.idLcore 0x1FF 0 site).wr F.idActive (t.rd F.idActive - 1)
  v.wr F.idFenced (capN 32 (v.rd F.idFenced + 1))

theorem fenceCore_of_manual (hf : (s.core c).fenced = false) (hm : s.rd F.idRsvMode ≠ 0) (hp : (fencedOut s c).partOfCore c = some p) :
    s.fenceCore c = ((fencedOut s c).modCont p (fun y => { y with evidence := insertUp y.evidence c })).mapEvent c (s.rd F.idSite 0 c) 0x1FF := by
  have hauto : (s.rd F.idRsvMode == 0) = false := by simpa using hm
  simp only [fencedOut] at hp
  unfold State.fenceCore
  rw [if_neg (by simp [hf])]
  simp only [hauto, hp]
  rfl

/-- A rebuilding core with nothing in its window and nothing cut takes back the rows of its replay area and tells its replay. -/
theorem rebuildOn_of_bare (times : List (Nat × Nat)) (hp : s.partOfCore c = some p) (hb : (s.core c).rebuild = true)
    (hw : (s.core c).window = []) (hr : (s.core c).run = none) (hf : (s.core c).filler = none) :
    let t := s.modCore c (fun k => { k with tarn := k.spill, rebuild := false, run := none, filler := none })
    s.rebuildOn c times = ((t.replayEvent p c (s.core c).oldSite (t.rd F.idSite 0 c) 0 (((s.core c).spillTick).getD 0) 0).modCont p
      (fun y => { y with evidence := insertUp y.evidence c })).stepLook p := by
  simp [State.rebuildOn, hp, hb, hw, hr, hf]

end

/-- Settles O19: the overrun reported, the fence of a hung or failing core, and the core rebuilt. -/
theorem overrunsHangsAndFences : Obligations.OverrunsHangsAndFences := by
  refine ⟨fun c s p r hp hr ht ho hf ha hd => next_flush (grainOverrun_of_late hp hr ht ho hf ha hd),
    fun c s r hr ht hw => next_flush (hangFence_of_hung hr ht hw), fun c s => rfl, fun c s => fenceCore_of_fenced,
    fun c p s hf hm _ hw => fenceCore_of_manual hf hm hw, fun c times s p ha hp hb hw hr hf hy => next_flush ?_⟩
  exact demandRun_of_atHand ha (rebuildOn_of_bare (s := s.asks (.core c.val)) _ hp hb hw hr hf) hy

end Sys2Proof.Machine.GrainLaws
end

section
/-! PROOF. Expert dispatch (07_index_and_dispatch.md, R250 to R262): contexts registered and released, router records and the deadlines
of a round, and received messages (O20, O21, O22). -/
namespace Sys2Proof.Machine.DispatchLaws
open Sys2Proof Sys2Proof.Machine.Laws Sys2Proof.Machine.ClockLaws Sys2Proof.Machine.RingLaws Sys2Proof.Machine.StepLaws

/-- A descriptor whose command ends in the close of the network side. -/
theorem closed_descriptor {op : Nat} {d : Desc} {s t y : State} {r : DRef} {run : DRef → Desc → State → State} (h : s.starts op d r t)
    (hy : run r d t = y) (hh : y.atHand (.desc r)) :
    (.next (withDesc op d s run).closed : Host.Outcome State Fault Refusal) = .next (y.ran (.desc r)).closed := by
  rw [withDesc_of_run h hy hh]

/-! ## Contexts (R250, R251) -/

section
variable {r : DRef} {d : Desc} {t u v : State}

/-- The context an image describes, its channels not yet read. -/
def imageCtx (bs : List Byte) : DispCtx := ⟨leNat bs, [], 0, [], [], 0, [], [], 0, 0, 0, [], [], 0, [], none⟩

/-- The channel handles of a table of n. -/
def tableChans (cb : List Byte) (n : Nat) : List Nat := (List.range n).map (fun i => leAt cb (8 * i) 8 % 2 ^ 32)

/-- Every other destination of a context has an open channel. -/
def chansOpen (s : State) (p : Nat) (x : DispCtx) : Prop :=
  ∀ i, i < x.nDst → i = x.self ∨ ∃ cid c, s.chan? p (nthD x.chans i 0) = some (cid, c) ∧ c.state = 2

/-- The receive buffers of a context posted on the channel of each destination but its own. -/
def buffersPosted (s : State) (p n : Nat) (x : DispCtx) : State :=
  (List.range x.nDst).foldl (fun w i =>
    if i = x.self then w
    else match w.chan? p (nthD x.chans i 0) with
      | none => w
      | some (cid, _) => (List.range x.rxbCount).foldl (fun w j =>
        w.postBuf cid j (x.rxbPva + (i * x.rxbCount + j) * mib16) mib16 (.engine 0 (16 * p + n))) w) s

theorem runDctxRegister_of_sound {bs cb : List Byte} (hbs : t.descRead r.part (d.at 24 64) 256 = (some bs, u))
    (hcb : u.descRead r.part (imageCtx bs).chanPva (8 * (imageCtx bs).nDst) = (some cb, v)) (hr : (imageCtx bs).inRange (d.fld 0 4) = true)
    (hfree : tget? (v.part r.part).dctx (d.fld 0 4) = none) :
    let x := { imageCtx bs with chans := tableChans cb (imageCtx bs).nDst }
    (∀ a ∈ x.areas, a.2 = 0 ∨ v.rwArea r.part a.1 a.2 = true) → areasApart x.areas = true → chansOpen v r.part x →
      (v.part r.part).dctx.length < v.rd F.pCtxMax r.part →
      t.runDctxRegister r d = (buffersPosted (v.putDctx r.part (d.fld 0 4) x) r.part (d.fld 0 4) x).done r := by
  intro x harea hapart hopen hmax
  have harea' : x.areas.all (fun a => a.2 = 0 || v.rwArea r.part a.1 a.2) = true := by simpa using harea
  have hopen' : (List.range x.nDst).all (fun i => i == x.self || (match v.chan? r.part (nthD x.chans i 0) with
      | some (_, c) => c.state == 2
      | none => false)) = true := by
    refine List.all_eq_true.2 fun i hi => ?_
    rcases hopen i (List.mem_range.1 hi) with h | ⟨cid, c, hc, h2⟩
    · simp [h]
    · simp [hc, h2]
  have hguard : (thas (v.part r.part).dctx (d.fld 0 4) || !x.areas.all (fun a => a.2 = 0 || v.rwArea r.part a.1 a.2) ||
      !areasApart x.areas || !(List.range x.nDst).all (fun i => i == x.self || (match v.chan? r.part (nthD x.chans i 0) with
        | some (_, c) => c.state == 2
        | none => false)) || v.rd F.pCtxMax r.part ≤ (v.part r.part).dctx.length) = false := by
    simp only [thas, hfree, harea', hapart, hopen']
    simpa using hmax
  simp only [imageCtx] at hr hcb
  simp only [State.runDctxRegister, hbs, hr, hcb, if_true]
  exact if_neg (by rw [Bool.not_eq_true]; exact hguard)

/-- A released context's report of its closed rounds goes out and its receive buffers return. -/
def buffersReturned (s : State) (p n : Nat) (x : DispCtx) : State :=
  x.chans.foldl (fun w h => match w.chan? p h with
    | none => w
    | some (cid, c) => (c.bufs.filter (fun b => b.owner == .engine 0 (16 * p + n))).foldl (fun w b => w.revoke cid b) w)
    (s.dispReport p n (s.stepNo p))

/-- A release of a registered context marks it; an idle one leaves at once. -/
theorem runDctxRelease_of_live {x : DispCtx} (hx : t.dctx? r.part (d.fld 0 4) = some x) (hr : x.releasing = none) :
    let u := t.putDctx r.part (d.fld 0 4) { x with releasing := some r }
    t.runDctxRelease r d = if x.busy then u
      else ((buffersReturned u r.part (d.fld 0 4) x).modPart r.part (fun q => { q with dctx := tdel q.dctx (d.fld 0 4) })).done r := by
  intro u
  have hu : u.dctx? r.part (d.fld 0 4) = some { x with releasing := some r } := by simp [u, State.dctx?, State.putDctx]
  have hrel : t.runDctxRelease r d = u.dctxTryRelease r.part (d.fld 0 4) := by simp [State.runDctxRelease, hx, hr, u]
  rw [hrel, State.dctxTryRelease, hu]
  rfl

theorem runDctxRelease_of_dead (h : ∀ x, t.dctx? r.part (d.fld 0 4) = some x → x.releasing ≠ none) :
    t.runDctxRelease r d = t.nullDesc r dispNull (d.fld 0 4) := by
  unfold State.runDctxRelease
  dsimp only
  split
  · rfl
  · next x hx => exact if_pos (Option.isSome_iff_ne_none.2 (h x hx))

end

/-- Settles O20: the run of each descriptor of a context, under the conditions of its case. -/
theorem dispatchContextDescriptors : Obligations.DispatchContextDescriptors := by
  refine ⟨fun d s t u v r bs cb hs hbs hcb hr hfree harea hapart hopen hmax hh => ?_,
    fun d s t r x hs hx hr => ⟨fun hb hh => ?_, fun hb hh => ?_⟩, fun d s t r hs h hh => ?_⟩
  · exact closed_descriptor hs (runDctxRegister_of_sound hbs hcb hr hfree harea hapart hopen hmax) hh
  · exact closed_descriptor hs ((runDctxRelease_of_live hx hr).trans (if_pos hb)) hh
  · exact closed_descriptor hs ((runDctxRelease_of_live hx hr).trans (if_neg (by simp [hb]))) hh
  · exact closed_descriptor hs (runDctxRelease_of_dead h) hh

/-! ## Router records (R188, R252, R253) -/

/-- The record taken next is the first of its core, and the engine may take it. -/
theorem nextRouter?_spec {s : State} {p : Nat} {r : RouterRec} (h : s.nextRouter? p = some r) :
    r ∈ s.routers ∧ r.part = p ∧ s.routers.find? (fun y => y.core == r.core) = some r ∧ s.mayTake r = true := by
  have hc := List.find?_some h
  simp only [Bool.and_eq_true, beq_iff_eq] at hc
  exact ⟨List.mem_of_find?_eq_some h, hc.1.1, hc.1.2, hc.2⟩

theorem mayTake_iff (s : State) (r : RouterRec) : s.mayTake r = true ↔
    (s.queue 6 (s.tokenHub r.core)).stopped = false ∧ s.queueHeld 6 (s.tokenHub r.core) = false ∧
      (s.queue 6 (s.tokenHub r.core)).issued < (s.queue 6 (s.tokenHub r.core)).granted ∧
      ∀ x, s.dctx? r.part r.dctx = some x →
        r.token < x.tokBase ∨ x.tokBase + x.nTok ≤ r.token ∨ x.collecting ≠ none ∨ tget? x.send (x.rounds % 2) = none := by
  unfold State.mayTake
  cases hx : s.dctx? r.part r.dctx with
  | none => simp [and_assoc]
  | some x => simp [and_assoc, thas, Option.isSome_iff_ne_none, or_assoc]

section
variable {s : State} {p : Nat} {r : RouterRec}

/-- The state once the engine has taken a record and its credit has come back. -/
def recordTaken (s : State) (r : RouterRec) : State := ({ s with routers := s.routers.erase r } : State).tokenPass r.core

/-- A record that joins bank b of a round, its token counted; a round that is then full closes its collection. -/
def recordJoins (s : State) (r : RouterRec) (x : DispCtx) (b : Nat) (k : SendBank) : State :=
  let t := ((s.putDctx r.part r.dctx { x with
    send := tput x.send b { k with recs := tput k.recs (r.token - x.tokBase) r } }).add F.pDtok 1 r.part).add F.pRouted 1 r.part
  let u := if r.bad then t.add F.pDdrop 1 r.part else t
  if k.recs.length + 1 = x.nTok then u.closeCollection r.part r.dctx b else u

theorem acceptRecord_of_no_context (h : s.dctx? r.part r.dctx = none) :
    s.acceptRecord r = ((recordTaken s r).add F.pDdrop 1 r.part).dispFault r.part r.dctx 0 2 r.token [] := by
  simp [State.acceptRecord, h, recordTaken]

variable {x : DispCtx} (hx : s.dctx? r.part r.dctx = some x)
include hx

theorem acceptRecord_of_outside (h : r.token < x.tokBase ∨ x.tokBase + x.nTok ≤ r.token) : s.acceptRecord r =
    (((recordTaken s r).putDctx r.part r.dctx { x with oor := x.oor + 1 }).add F.pDdrop 1 r.part).dispFault r.part r.dctx
      (((x.collecting).map (fun e => e.2.round)).getD x.rounds) 2 r.token [] := by
  have h' : (decide (r.token < x.tokBase) || decide (x.tokBase + x.nTok ≤ r.token)) = true := by simpa using h
  simp [State.acceptRecord, hx, h', recordTaken]

variable (hlo : x.tokBase ≤ r.token) (hhi : r.token < x.tokBase + x.nTok)
include hlo hhi

theorem acceptRecord_of_collecting {b : Nat} {k : SendBank} (hc : x.collecting = some (b, k))
    (hk : tget? k.recs (r.token - x.tokBase) = none) : s.acceptRecord r = recordJoins (recordTaken s r) r x b k := by
  simp [State.acceptRecord, hx, Nat.not_lt.2 hlo, Nat.not_le.2 hhi, hc, thas, hk, recordTaken, recordJoins]

theorem acceptRecord_of_duplicate {b : Nat} {k : SendBank} (hc : x.collecting = some (b, k))
    (hk : tget? k.recs (r.token - x.tokBase) ≠ none) : s.acceptRecord r =
      (((recordTaken s r).putDctx r.part r.dctx { x with dup := x.dup + 1 }).add F.pDdrop 1 r.part).dispFault r.part r.dctx k.round 2
        r.token [] := by
  simp [State.acceptRecord, hx, Nat.not_lt.2 hlo, Nat.not_le.2 hhi, hc, thas, Option.isSome_iff_ne_none.2 hk, recordTaken]

theorem acceptRecord_of_first (hc : x.collecting = none) : s.acceptRecord r =
    recordJoins (recordTaken s r) r { x with rounds := x.rounds + 1 } (x.rounds % 2)
      ⟨x.rounds, s.tick, [], 0, 0, [], 0, List.replicate 13 0⟩ := by
  simp [State.acceptRecord, hx, Nat.not_lt.2 hlo, Nat.not_le.2 hhi, hc, recordTaken, recordJoins]
  rfl

end

/-! ## The deadlines of a round (R252, R258, R261) -/

section
variable {s : State} {p : PartId} {n : Fin 16} {x : DispCtx} (hx : s.dctx? p.val n.val = some x)
include hx

theorem exec_roundCollectionDeadline {b : Nat} {k : SendBank} (hc : x.collecting = some (b, k)) : exec (.roundCollectionDeadline p n) s =
    .next (if k.opened + x.deadline ≤ s.tick then s.closeCollection p.val n.val b else s).flush := by
  simp [exec, execRoundCollectionDeadline, hx, hc, finish]

theorem exec_receiveRoundDeadline {b : Fin 2} {y : RecvBank} (hy : tget? x.recv b.val = some y) : exec (.receiveRoundDeadline p n b) s =
    .next (if y.closed = false ∧ y.first + x.deadline ≤ s.tick then s.closeRecv p.val n.val b.val else s).flush := by
  simp [exec, execReceiveRoundDeadline, hx, hy, finish]

theorem exec_returnRoundDeadline {b : Fin 2} {k : SendBank} (hk : tget? x.send b.val = some k) : exec (.returnRoundDeadline p n b) s =
    .next (if k.phase = 1 ∧ k.sentTick + x.deadline ≤ s.tick then s.closeReturn p.val n.val b.val 4 else s).flush := by
  simp [exec, execReturnRoundDeadline, hx, hk, finish]

end

theorem exec_routerRecordAccept {s : State} {p : PartId} {r : RouterRec} (h : s.nextRouter? p.val = some r) :
    exec (.routerRecordAccept p) s = .next (s.acceptRecord r).flush := by
  simp [exec, execRouterRecordAccept, h, finish]

theorem exec_routerRecordAccept_of_none {s : State} {p : PartId} (h : s.nextRouter? p.val = none) :
    exec (.routerRecordAccept p) s = .next s.flush := by
  simp [exec, execRouterRecordAccept, h, finish]

/-- Settles O21: the record taken next (`nextRouter?_spec`, `mayTake_iff`), what the engine makes of it, and the three deadlines. -/
theorem routerRecordsAndRounds : Obligations.RouterRecordsAndRounds := by
  refine ⟨fun p s r => nextRouter?_spec, mayTake_iff, fun p s => exec_routerRecordAccept_of_none, fun p s r hr => ?_,
    fun p n s x b k hx hc => exec_roundCollectionDeadline hx hc, fun p n b s x y hx hy => exec_receiveRoundDeadline hx hy,
    fun p n b s x k hx hk => exec_returnRoundDeadline hx hk⟩
  intro taken joins
  rw [exec_routerRecordAccept hr]
  refine ⟨fun hx => next_flush (acceptRecord_of_no_context hx), fun x hx ho => next_flush (acceptRecord_of_outside hx ho),
    fun x hx hlo hhi => ⟨fun b k hc => ⟨fun hk => ?_, fun hk => ?_⟩, fun hc => ?_⟩⟩
  · exact next_flush (acceptRecord_of_collecting hx hlo hhi hc hk)
  · exact next_flush (acceptRecord_of_duplicate hx hlo hhi hc hk)
  · exact next_flush (acceptRecord_of_first hx hlo hhi hc)

/-! ## Received messages (R254, R257, R259, R261) -/

section
variable {s t : State} {cid kind k : Nat} {c : Chan} {b b' : GnxBuf} {rest : List GnxBuf} {bs : List Byte}

/-- The oldest message of a channel that lies in a buffer of the dispatch engine goes to its kind's taker. -/
theorem engMessage_of_taken (run : Nat → Option (Nat × GnxBuf) → List Byte → State → State) (hc : tget? s.net.chans cid = some c)
    (hb : c.taken = b :: rest) (ho : b.owner = .engine 0 k) (ht : s.takeMsg cid = (some (b', bs), t)) :
    s.engMessage cid kind run = if leAt bs 1 1 = kind then run c.part (some (cid, b')) bs t else s := by
  simp [State.engMessage, hc, hb, ho, ht]

end

section
variable {s : State} {p : Nat} {o : Option (Nat × GnxBuf)} {bs : List Byte}

theorem takeDispatch_of_no_context (h : s.dctx? p (dispMsgOf bs).n = none) : s.takeDispatch p o bs = s.repost o := by
  simp [State.takeDispatch, h]

theorem fate_of_closed {x : DispCtx} {r : Nat} (h : r < x.rxNext ∨ r ∈ x.closedRounds) : x.fate r = 0 :=
  if_pos (by simpa using h)

theorem fate_of_far {x : DispCtx} {r : Nat} (h : x.rxNext + 2 ≤ r) (hc : r ∉ x.closedRounds) : x.fate r = 2 :=
  (if_neg (by simpa using ⟨(by omega : x.rxNext ≤ r), hc⟩)).trans (if_pos h)

/-- A name for a function that hides its body: the kernel evaluates the 32-bit arithmetic of `unwrapN` when it compares two matches on it. -/
theorem exists_eq_self {α : Type} (a : α) : ∃ b, b = a := ⟨a, rfl⟩

theorem takeDispatch_of_late {x : DispCtx} {r : Nat} (hx : s.dctx? p (dispMsgOf bs).n = some x)
    (hr : unwrapN 32 x.rxNext (dispMsgOf bs).round = some r) (hf : x.fate r = 0) : s.takeDispatch p o bs =
      ((s.putDctx p (dispMsgOf bs).n { (x.count (dispMsgOf bs).src 0 (dispMsgOf bs).rows 0) with late := x.late + 1 }).inc
        F.pLateIn 1 p).repost o := by
  unfold State.takeDispatch
  obtain ⟨unwrap, hu⟩ := exists_eq_self unwrapN
  rw [← hu] at hr ⊢
  simp only [hx, hr, hf]

theorem takeDispatch_of_held {x : DispCtx} {r : Nat} (hx : s.dctx? p (dispMsgOf bs).n = some x)
    (hr : unwrapN 32 x.rxNext (dispMsgOf bs).round = some r) (hf : x.fate r = 2) : s.takeDispatch p o bs =
      s.putDctx p (dispMsgOf bs).n { x with held := x.held ++ [(o, bs)] } := by
  unfold State.takeDispatch
  obtain ⟨unwrap, hu⟩ := exists_eq_self unwrapN
  rw [← hu] at hr ⊢
  simp only [hx, hr, hf]

theorem takeReturn_of_late {x : DispCtx} (hx : (s.repost o).dctx? p (dispMsgOf bs).n = some x)
    (h : ∀ e ∈ x.send, ¬ (e.2.round % 2 ^ 32 = (dispMsgOf bs).round ∧ e.2.phase = 1)) :
    s.takeReturn p o bs = ((s.repost o).putDctx p (dispMsgOf bs).n { x with late := x.late + 1 }).inc F.pLateIn 1 p := by
  have hnone : x.send.find? (fun e => e.2.round % 2 ^ 32 == (dispMsgOf bs).round && e.2.phase == 1) = none := by
    rw [List.find?_eq_none]
    exact fun e he => by simpa using h e he
  simp only [State.takeReturn, hx, hnone]

theorem placeHeld_of_ready {n : Nat} {x : DispCtx} (hx : s.dctx? p n = some x) {h : Option (Nat × GnxBuf) × List Byte}
    (hh : x.held.find? x.ready = some h) :
    s.placeHeld p n = (s.putDctx p n { x with held := x.held.erase h }).takeDispatch p h.1 h.2 := by
  simp [State.placeHeld, hx, hh]

theorem placeHeld_of_none {n : Nat} {x : DispCtx} (hx : s.dctx? p n = some x) (hh : x.held.find? x.ready = none) : s.placeHeld p n = s := by
  simp [State.placeHeld, hx, hh]

end

/-- Settles O22: where a message goes, what becomes of a dispatch message by its round's fate, the messages held, and late returns. -/
theorem dispatchMessages : Obligations.DispatchMessages := by
  refine ⟨fun cid s t c b b' rest k bs hc hb ho ht => ⟨?_, ?_⟩, fun s p o bs => takeDispatch_of_no_context,
    fun s p r o bs x hx hr => ⟨fun h => takeDispatch_of_late hx hr (fate_of_closed h), fun h hc => takeDispatch_of_held hx hr (fate_of_far h hc)⟩,
    fun p n s x hx => ⟨fun h hh => next_flush (placeHeld_of_ready hx hh), fun hh => next_flush (placeHeld_of_none hx hh)⟩,
    fun s p o bs x hx h => takeReturn_of_late hx h⟩
  · exact next_flush (engMessage_of_taken _ hc hb ho ht)
  · exact next_flush (engMessage_of_taken _ hc hb ho ht)

end Sys2Proof.Machine.DispatchLaws
end

section
/-! PROOF. Device memory (08_memory.md; 01_organization.md): line requests, the bytes and the poison of lines, and near-memory
additions (O23, O24, O25). -/
namespace Sys2Proof.Machine.MemoryLaws
open Sys2Proof Sys2Proof.Machine.Laws Sys2Proof.Machine.ClockLaws Sys2Proof.Machine.RingLaws

/-! ## Line requests -/

section
variable {s : State} {c : Ctx} {pva waited : Nat} {w : List Byte} {errs : List BurstErr}

/-- The bytes a line request carries of its data, and whether it is a write. -/
theorem take_line_eq_nil : w.take (128 - pva % 128) = [] ↔ w = [] := by
  rw [List.take_eq_nil_iff]
  exact or_iff_right (by omega)

theorem take_line_bne_nil : (w.take (128 - pva % 128) != []) = (w != []) := by
  rw [Bool.eq_iff_iff]
  simp [take_line_eq_nil, -List.take_eq_nil_iff]

theorem mereRequest_of_fault {k : Nat} (h : (s.sampleReq c.part pva).xlate c.part c.rt pva (w != []) = .error k) :
    s.mereRequest c pva w waited errs = (s.sampleReq c.part pva).xfault c.part c.who pva (if w = [] then 1 else 2) k := by
  simp only [State.mereRequest, take_line_bne_nil, take_line_eq_nil, h]

theorem mereRequest_of_nowhere {a h : Nat} (hx : (s.sampleReq c.part pva).xlate c.part c.rt pva (w != []) = .ok (.dpa a h))
    (hl : (s.sampleReq c.part pva).locate? a = none) :
    s.mereRequest c pva w waited errs = (s.sampleReq c.part pva).xfault c.part c.who pva (if w = [] then 1 else 2) 3 := by
  simp only [State.mereRequest, take_line_bne_nil, take_line_eq_nil, hx, hl]

theorem mereRequest_of_object {h ofs : Nat} (hx : (s.sampleReq c.part pva).xlate c.part c.rt pva (w != []) = .ok (.obj h ofs)) :
    let u := (s.sampleReq c.part pva).readPlace c (.obj h ofs) (128 - pva % 128)
    s.mereRequest c pva w waited errs = { u.2.2 with mem := { u.2.2.mem with answer := some (u.1, u.2.1) } } := by
  simp only [State.mereRequest, take_line_bne_nil, hx]

theorem mereRequest_of_line {a h pa : Nat} (hx : (s.sampleReq c.part pva).xlate c.part c.rt pva (w != []) = .ok (.dpa a h))
    (hl : (s.sampleReq c.part pva).locate? a = some pa) :
    s.mereRequest c pva w waited errs = (((s.sampleReq c.part pva).putErrs (pa / 128) errs).waitedOn c.part waited).takeReq
      ⟨c.part, c.who, useHint c.hint h, c.early, pa, w.take (128 - pva % 128)⟩ := by
  simp only [State.mereRequest, take_line_bne_nil, hx, hl]

end

section
variable {s : State} {q : HeldReq}

theorem takeReq_of_waits (h : s.reqWaits q = true ∨ ∃ x ∈ s.mem.held, x.pa / 128 = q.pa / 128) :
    s.takeReq q = s.setMem (fun m => { m with held := m.held ++ [q] }) :=
  if_pos (by simpa using h)

theorem takeReq_of_served (h : s.reqWaits q = false) (hh : ∀ x ∈ s.mem.held, x.pa / 128 ≠ q.pa / 128) : s.takeReq q = s.serveReq q :=
  if_neg (by simpa [h] using hh)

theorem serveReq_of_read (h : q.data = []) :
    let u := s.lineRead q.part q.hint (q.pa / 128) q.early
    let w := if u.2.1 then u.2.2.tookPoison q.who (u.2.2.dpaOf (q.pa / 128 * 128)) else u.2.2
    s.serveReq q = { w with mem := { w.mem with answer := some (u.1, u.2.1) } } :=
  if_pos h

theorem serveReq_of_write (h : q.data ≠ []) :
    let w := s.lineWrite q.part q.hint (q.pa / 128) (q.pa % 128) q.data false q.early
    s.serveReq q = { w with mem := { w.mem with answer := none } } :=
  if_neg h

theorem reqWaits_iff : s.reqWaits q = true ↔ tget? s.mem.mere (q.pa / 128) = none ∧
    (s.stackServes (paStack q.pa) = false ∨ s.inCopy q.pa = true ∨ (q.part < 36 ∧ s.hasTokens q.part (paStack q.pa) q.early = false)) := by
  simp [State.reqWaits, thas, or_assoc]

theorem lineRead_of_hit {p hint line : Nat} {early : Bool} {m : MereLine} (h : tget? s.mem.mere line = some m) :
    s.lineRead p hint line early = (m.data, m.poison, (s.readHit p hint line m).countMere p true) := by
  simp only [State.lineRead, h]

end

/-- Settles O23: a request by its translation, then one of device memory by what makes it wait (`mereRequest_of_line`, `takeReq_of_…`). -/
theorem lineRequests : Obligations.LineRequests := by
  refine ⟨fun p core engine pva hint data early waited errs s => ⟨fun k h => next_flush (mereRequest_of_fault h),
    fun a h hx hl => next_flush (mereRequest_of_nowhere hx hl), fun h ofs hx => next_flush (mereRequest_of_object hx),
    fun a h pa hx hl => ⟨fun hw => ?_, fun hw hh => ⟨fun hd => ?_, fun hd => ?_⟩⟩⟩, fun s q => reqWaits_iff,
    fun s p hint line early m h => lineRead_of_hit h⟩
  · refine next_flush ((mereRequest_of_line (c := ⟨p.val, whoOf core engine.val, (s.part p.val).rt, hint.val, early⟩) hx hl).trans ?_)
    exact takeReq_of_waits (q := ⟨p.val, _, _, early, pa, _⟩) hw
  · refine next_flush ((mereRequest_of_line (c := ⟨p.val, whoOf core engine.val, (s.part p.val).rt, hint.val, early⟩) hx hl).trans ?_)
    rw [takeReq_of_served hw hh]
    exact serveReq_of_read (q := ⟨p.val, _, _, early, pa, _⟩) (take_line_eq_nil.mpr hd)
  · refine next_flush ((mereRequest_of_line (c := ⟨p.val, whoOf core engine.val, (s.part p.val).rt, hint.val, early⟩) hx hl).trans ?_)
    rw [takeReq_of_served hw hh]
    exact serveReq_of_write (q := ⟨p.val, _, _, early, pa, _⟩) (mt take_line_eq_nil.mp hd)

/-! ## What the bytes of a line rest on -/

/-- An access keeps what the bytes, the poison and the key of a line rest on: the memory side beside the stacks' repair, and the fields that
map device memory. -/
structure SameLines (s t : State) : Prop where
  mere : t.mem.mere = s.mem.mere
  dram : t.mem.dram = s.mem.dram
  written : t.mem.written = s.mem.written
  poison : t.mem.poison = s.mem.poison
  errs : t.mem.errs = s.mem.errs
  shared : t.mem.shared = s.mem.shared
  keyDraw : t.mem.keyDraw = s.mem.keyDraw
  parts : t.parts = s.parts
  split : t.rd F.memConfSplit = s.rd F.memConfSplit
  mask : ∀ k < 32, t.rd F.memSetMask 0 k = s.rd F.memSetMask 0 k
  pstate : ∀ p < 36, t.rd F.pPstate p = s.rd F.pPstate p
  base : ∀ p < 36, ∀ i < 16, t.rd F.pExtBase p i = s.rd F.pExtBase p i
  len : ∀ p < 36, ∀ i < 16, t.rd F.pExtLen p i = s.rd F.pExtLen p i

theorem SameLines.refl (s : State) : SameLines s s where
  mere := rfl
  dram := rfl
  written := rfl
  poison := rfl
  errs := rfl
  shared := rfl
  keyDraw := rfl
  parts := rfl
  split := rfl
  mask _ _ := rfl
  pstate _ _ := rfl
  base _ _ _ _ := rfl
  len _ _ _ _ := rfl

theorem SameLines.trans {s t u : State} (h : SameLines s t) (k : SameLines t u) : SameLines s u where
  mere := k.mere.trans h.mere
  dram := k.dram.trans h.dram
  written := k.written.trans h.written
  poison := k.poison.trans h.poison
  errs := k.errs.trans h.errs
  shared := k.shared.trans h.shared
  keyDraw := k.keyDraw.trans h.keyDraw
  parts := k.parts.trans h.parts
  split := k.split.trans h.split
  mask n hn := (k.mask n hn).trans (h.mask n hn)
  pstate p hp := (k.pstate p hp).trans (h.pstate p hp)
  base p hp i hi := (k.base p hp i hi).trans (h.base p hp i hi)
  len p hp i hi := (k.len p hp i hi).trans (h.len p hp i hi)

theorem key_ne_of_addr_ne {f g : Fld} {b i b' i' : Nat} (hf : f.lo < 64) (hg : g.lo < 64) (h : f.addr b i ≠ g.addr b' i') :
    f.key b i ≠ g.key b' i' := by
  unfold Fld.key
  omega

/-- A field place that is none of those that map device memory. -/
structure OffMap (f : Fld) (b i : Nat) : Prop where
  lo : f.lo < 64
  split : f.addr b i ≠ 0x500000
  mask : ∀ k < 32, f.addr b i ≠ 0x500100 + 4 * k
  pstate : ∀ p < 36, f.addr b i ≠ 0x100F00 + p * 0x10000
  base : ∀ p < 36, ∀ j < 16, f.addr b i ≠ 0x100200 + p * 0x10000 + 8 * j
  len : ∀ p < 36, ∀ j < 16, f.addr b i ≠ 0x100204 + p * 0x10000 + 8 * j

theorem sameLines_wr (s : State) {f : Fld} {b i : Nat} (h : OffMap f b i) (v : Nat) : SameLines s (s.wr f v b i) where
  mere := rfl
  dram := rfl
  written := rfl
  poison := rfl
  errs := rfl
  shared := rfl
  keyDraw := rfl
  parts := rfl
  split := rd_wr_other _ _ _ _ _ _ _ _ (key_ne_of_addr_ne h.lo (by decide) h.split)
  mask k hk := rd_wr_other _ _ _ _ _ _ _ _ (key_ne_of_addr_ne h.lo (by decide) (h.mask k hk))
  pstate p hp := rd_wr_other _ _ _ _ _ _ _ _ (key_ne_of_addr_ne h.lo (by decide) (by
    have := h.pstate p hp
    simp only [Fld.addr, Blk.base, F.pPstate] at this ⊢
    omega))
  base p hp j hj := rd_wr_other _ _ _ _ _ _ _ _ (key_ne_of_addr_ne h.lo (by decide) (by
    have := h.base p hp j hj
    simp only [Fld.addr, Blk.base, F.pExtBase] at this ⊢
    omega))
  len p hp j hj := rd_wr_other _ _ _ _ _ _ _ _ (key_ne_of_addr_ne h.lo (by decide) (by
    have := h.len p hp j hj
    simp only [Fld.addr, Blk.base, F.pExtLen] at this ⊢
    omega))

/-- A counter of a partition's register block from offset 0x900 up to 0xF00. -/
theorem offMap_part {f : Fld} {p : Nat} (hb : f.blk = .part) (ho : 0x900 ≤ f.off ∧ f.off < 0xF00) (hl : f.lo = 0) :
    OffMap f p 0 := by
  have ha : f.addr p 0 = 0x100000 + p * 0x10000 + f.off := by simp [Fld.addr, hb, Blk.base]
  refine ⟨by omega, by omega, fun k hk => by omega, fun q hq => by omega, fun q hq j hj => by omega, fun q hq j hj => by omega⟩

/-- A field of a stack's own. -/
theorem offMap_stack {f : Fld} {n : Nat} (hb : f.blk = .mem) (ho : 0x1000 ≤ f.off) (hl : f.lo = 0) : OffMap f 0 n := by
  have ha : f.addr 0 n = 0x500000 + f.off + f.stride * n := by simp [Fld.addr, hb, Blk.base]
  refine ⟨by omega, by omega, fun k hk => by omega, fun q hq => by omega, fun q hq j hj => by omega, fun q hq j hj => by omega⟩

/-- A change of the memory side that leaves the lines and their keys. -/
theorem sameLines_of_mem {s : State} {m : MemState} (h : m.mere = s.mem.mere ∧ m.dram = s.mem.dram ∧ m.written = s.mem.written ∧
    m.poison = s.mem.poison ∧ m.errs = s.mem.errs ∧ m.shared = s.mem.shared ∧ m.keyDraw = s.mem.keyDraw) :
    SameLines s { s with mem := m } := by
  obtain ⟨hm, hd, hw, hp, he, hs, hk⟩ := h
  exact ⟨hm, hd, hw, hp, he, hs, hk, rfl, rfl, fun _ _ => rfl, fun _ _ => rfl, fun _ _ _ _ => rfl, fun _ _ _ _ => rfl⟩

theorem sameLines_setMem {s : State} {f : MemState → MemState} (h : (f s.mem).mere = s.mem.mere ∧ (f s.mem).dram = s.mem.dram ∧
    (f s.mem).written = s.mem.written ∧ (f s.mem).poison = s.mem.poison ∧ (f s.mem).errs = s.mem.errs ∧ (f s.mem).shared = s.mem.shared ∧
    (f s.mem).keyDraw = s.mem.keyDraw) : SameLines s (s.setMem f) :=
  sameLines_of_mem h

theorem sameLines_emit (s : State) (r : Route) (x : Rec) : SameLines s (s.emit r x) :=
  ⟨rfl, rfl, rfl, rfl, rfl, rfl, rfl, rfl, rfl, fun _ _ => rfl, fun _ _ => rfl, fun _ _ _ _ => rfl, fun _ _ _ _ => rfl⟩

theorem sameLines_repairEvent (s : State) (stk : Nat) (r : DieRow) (a : Nat) : SameLines s (s.repairEvent stk r a) :=
  (sameLines_emit s _ _).trans (sameLines_emit _ _ _)

theorem sameLines_countMere (s : State) (p : Nat) (hit : Bool) : SameLines s (s.countMere p hit) := by
  unfold State.countMere
  dsimp only
  split
  · exact .refl s
  · split
    · refine .trans ?_ (sameLines_wr _ (offMap_part (f := F.pMereHits) rfl (by decide) rfl) _)
      exact sameLines_of_mem ⟨rfl, rfl, rfl, rfl, rfl, rfl, rfl⟩
    · refine .trans ?_ (sameLines_wr _ (offMap_part (f := F.pMereMiss) rfl (by decide) rfl) _)
      exact sameLines_of_mem ⟨rfl, rfl, rfl, rfl, rfl, rfl, rfl⟩

theorem sameLines_drawLines (s : State) (p stk cls n : Nat) : SameLines s (s.drawLines p stk cls n) := by
  unfold State.drawLines
  split
  · exact .refl s
  · dsimp only
    split
    · refine .trans ?_ (sameLines_wr _ (offMap_part (f := F.pGlines) rfl (by decide) rfl) _)
      exact sameLines_setMem ⟨rfl, rfl, rfl, rfl, rfl, rfl, rfl⟩
    · refine .trans ?_ (sameLines_wr _ (offMap_part (f := F.pBlines) rfl (by decide) rfl) _)
      exact sameLines_setMem ⟨rfl, rfl, rfl, rfl, rfl, rfl, rfl⟩

theorem sameLines_charge (s : State) (p stk n : Nat) (early : Bool) : SameLines s (s.charge p stk n early) := by
  unfold State.charge
  split
  · exact .refl s
  · have hdraw := fun g m => (sameLines_drawLines s p stk 0 g).trans (sameLines_drawLines _ p stk 1 m)
    dsimp only
    generalize (if early = true then 0 else s.mayDraw p stk 0 n) = g
    split
    · exact hdraw _ _
    · refine (hdraw g ((s.drawLines p stk 0 g).mayDraw p stk 1 (n - g))).trans ?_
      exact sameLines_setMem ⟨rfl, rfl, rfl, rfl, rfl, rfl, rfl⟩

theorem sameLines_copyDone (s : State) (n : Nat) (c : DieRow × Nat) : SameLines s (s.copyDone n c) := by
  have hcam : SameLines s (s.modStack n (fun k => { k with copying := k.copying.erase c, cam := k.cam ++ [c] })) :=
    sameLines_of_mem ⟨rfl, rfl, rfl, rfl, rfl, rfl, rfl⟩
  exact (hcam.trans (sameLines_wr _ (offMap_stack (f := F.memCamUsed) rfl (by decide) rfl) _)).trans
    (.trans (sameLines_wr _ (offMap_stack (f := F.memRemaps) rfl (by decide) rfl) _) (sameLines_repairEvent _ _ _ _))

theorem sameLines_foldl {α : Type} {f : State → α → State} (h : ∀ s x, SameLines s (f s x)) (l : List α) (s : State) :
    SameLines s (l.foldl f s) := by
  induction l generalizing s with
  | nil => exact .refl s
  | cons x l ih => exact (h s x).trans (ih _)

theorem sameLines_rowReady (s : State) (pa : Nat) : SameLines s (s.rowReady pa) :=
  sameLines_foldl (fun t c => sameLines_copyDone t (paStack pa) c) _ s

theorem burstRead_of_clean {s : State} {b : Nat} (h : tget? s.mem.errs b = none) (p source : Nat) (po : Bool) :
    s.burstRead b p source po = (false, s) := by
  simp only [State.burstRead, h]

/-- A line none of whose bursts is in error is read as it stands, its row made ready. -/
theorem stackFetch_of_clean {s : State} {line : Nat} (h0 : tget? s.mem.errs (2 * line) = none) (h1 : tget? s.mem.errs (2 * line + 1) = none)
    (p source : Nat) {l : List Nat} (hl : ∀ i ∈ l, i < 2) : s.stackFetch line p source l = s.rowReady (line * 128) := by
  have hread : ∀ (l : List Nat), (∀ i ∈ l, i < 2) → l.foldl (fun (a : Bool × State) i =>
      let y := a.2.burstRead (2 * line + i) p source ((s.rowReady (line * 128)).stackPoison line)
      (a.1 || y.1, y.2)) (false, s.rowReady (line * 128)) = (false, s.rowReady (line * 128)) := by
    intro l
    induction l with
    | nil => exact fun _ => rfl
    | cons i l ih =>
      intro hl
      have hi : tget? (s.rowReady (line * 128)).mem.errs (2 * line + i) = none := by
        rw [(sameLines_rowReady s (line * 128)).errs]
        obtain rfl | rfl : i = 0 ∨ i = 1 := by have := hl i (by simp); omega
        · exact h0
        · exact h1
      rw [List.foldl_cons]
      simp only [burstRead_of_clean hi, Bool.or_false]
      exact ih (fun j hj => hl j (by simp [hj]))
  unfold State.stackFetch
  exact (congrArg (fun x : Bool × State => if x.1 then x.2.clearErrs [2 * line, 2 * line + 1] else x.2) (hread l hl)).trans (if_neg Bool.false_ne_true)

/-! ## The bytes of a line -/

section
variable {s t : State}

theorem part_of_sameLines (h : SameLines s t) (p : Nat) : t.part p = s.part p := by
  simp only [State.part, h.parts]

theorem any_congr_of_mem {α : Type} {f g : α → Bool} {l : List α} (h : ∀ x ∈ l, f x = g x) : l.any f = l.any g := by
  rw [Bool.eq_iff_iff, List.any_eq_true, List.any_eq_true]
  exact exists_congr fun x => and_congr_right fun hx => by rw [h x hx]

theorem dpaOf_of_sameLines (h : SameLines s t) (pa : Nat) : t.dpaOf pa = s.dpaOf pa := by
  have hmask : (List.range 32).find? (fun k => bitN (t.rd F.memSetMask 0 k) (pa / 2 ^ 37)) =
      (List.range 32).find? (fun k => bitN (s.rd F.memSetMask 0 k) (pa / 2 ^ 37)) :=
    List.find?_congr fun k hk => by rw [h.mask k (List.mem_range.mp hk)]
  unfold State.dpaOf
  simp only [h.split, hmask]
  cases hk : (List.range 32).find? (fun k => bitN (s.rd F.memSetMask 0 k) (pa / 2 ^ 37)) with
  | none => rfl
  | some k => simp only [h.mask k (List.mem_range.mp (List.mem_of_find?_eq_some hk))]

theorem extentOwner_of_sameLines (h : SameLines s t) (dpa : Nat) : t.extentOwner dpa = s.extentOwner dpa := by
  refine congrArg (fun x : Option Nat => x.getD noPart) (List.find?_congr fun p hp => ?_)
  have hp := List.mem_range.mp hp
  rw [State.pstate, State.pstate, h.pstate p hp]
  refine congrArg (fun b => s.rd F.pPstate p != 0 && b) (any_congr_of_mem fun i hi => ?_)
  rw [h.base p hp i (List.mem_range.mp hi), h.len p hp i (List.mem_range.mp hi)]

theorem lineKey_of_sameLines (h : SameLines s t) (dpa : Nat) : t.lineKey? dpa = s.lineKey? dpa := by
  have hshared : t.sharedAt? dpa = s.sharedAt? dpa := by rw [State.sharedAt?, State.sharedAt?, h.shared]
  have hres : t.inReserve dpa = s.inReserve dpa := by rw [State.inReserve, State.inReserve, h.split]
  simp only [State.lineKey?, hshared, hres, h.keyDraw, extentOwner_of_sameLines h, part_of_sameLines h]

theorem stackLine_of_sameLines (h : SameLines s t) (line : Nat) : t.stackLine line = s.stackLine line := by
  simp only [State.stackLine, State.freshLine, h.written, h.dram, dpaOf_of_sameLines h, lineKey_of_sameLines h]

theorem stackPoison_of_sameLines (h : SameLines s t) (line : Nat) : t.stackPoison line = s.stackPoison line := by
  simp only [State.stackPoison, h.poison]

end

/-! ## The length of what XTS gives -/

/-- n words of four bytes. -/
def AesWords (n : Nat) (ws : List (List Nat)) : Prop := ws.length = n ∧ ∀ w ∈ ws, w.length = 4

theorem length_nthD_of_aesWords {n i : Nat} {ws : List (List Nat)} (h : AesWords n ws) (hi : i < n) : (nthD ws i []).length = 4 := by
  obtain ⟨hn, hw⟩ := h
  simp only [nthD, List.getElem?_eq_getElem (hn ▸ hi : i < ws.length), Option.getD_some]
  exact hw _ (List.getElem_mem _)

theorem length_aesKeyWord {i : Nat} {ws : List (List Nat)} (h : AesWords (i + 8) ws) : (aesKeyWord ws (i + 8)).length = 4 := by
  have hlast : (nthD ws (i + 8 - 1) []).length = 4 := length_nthD_of_aesWords h (by omega)
  have hfirst : (nthD ws (i + 8 - 8) []).length = 4 := length_nthD_of_aesWords h (by omega)
  have hlen : ∀ t : List Nat, t.length = 4 → ((nthD ws (i + 8 - 8) []).zipWith Nat.xor t).length = 4 := by
    intro t ht
    rw [List.length_zipWith, hfirst, ht, Nat.min_self]
  unfold aesKeyWord
  apply hlen
  split
  · split
    next b r heq =>
      have := congrArg List.length heq
      simp only [List.length_map, List.length_append, List.length_drop, List.length_take, hlast, List.length_cons] at this
      simp only [List.length_cons]
      omega
    next heq =>
      have := congrArg List.length heq
      simp only [List.length_map, List.length_append, List.length_drop, List.length_take, hlast, List.length_nil] at this
      omega
  · split
    · rw [List.length_map, hlast]
    · exact hlast

theorem aesWords_schedule {key : List Nat} (h : key.length = 32) : AesWords 60 (aesSchedule key) := by
  have hstep : ∀ n, AesWords (n + 8) ((List.range n).foldl (fun ws i => ws ++ [aesKeyWord ws (i + 8)])
      ((List.range 8).map (fun i => (key.drop (4 * i)).take 4))) := by
    intro n
    induction n with
    | zero =>
      refine ⟨by simp, fun w hw => ?_⟩
      obtain ⟨i, hi, rfl⟩ := List.mem_map.mp hw
      have := List.mem_range.mp hi
      rw [List.length_take, List.length_drop]
      omega
    | succ n ih =>
      rw [List.range_succ (n := n), List.foldl_append]
      generalize (List.range n).foldl _ _ = ws at ih
      obtain ⟨hl, hw⟩ := id ih
      refine ⟨by simp [hl], fun w hm => ?_⟩
      obtain hm | hm := List.mem_append.mp hm
      · exact hw w hm
      · rw [List.mem_singleton.mp hm]
        exact length_aesKeyWord ih
  exact hstep 52

theorem length_aesRoundKey {r : Nat} {ws : List (List Nat)} (h : AesWords 60 ws) (hr : r < 15) : (aesRoundKey ws r).length = 16 := by
  obtain ⟨hl, hw⟩ := h
  have hmap : ((ws.drop (4 * r)).take 4).map List.length = List.replicate 4 4 := by
    refine List.eq_replicate_iff.mpr ⟨by rw [List.length_map, List.length_take, List.length_drop]; omega, fun n hn => ?_⟩
    obtain ⟨w, hm, rfl⟩ := List.mem_map.mp hn
    exact hw w (List.mem_of_mem_drop (List.mem_of_mem_take hm))
  rw [aesRoundKey, List.length_flatten, hmap]
  rfl

theorem length_xorL {a b : List Nat} {n : Nat} (ha : a.length = n) (hb : b.length = n) : (xorL a b).length = n := by
  rw [xorL, List.length_zipWith, ha, hb, Nat.min_self]

@[simp] theorem length_shiftRows (k : Nat) (s : List Nat) : (shiftRows k s).length = 16 := by simp [shiftRows]

theorem length_aesEnc {ws : List (List Nat)} (h : AesWords 60 ws) (s : List Nat) : (aesEnc ws s).length = 16 :=
  length_xorL (length_shiftRows _ _) (length_aesRoundKey h (by decide))

theorem length_aesDec {ws : List (List Nat)} (h : AesWords 60 ws) (s : List Nat) : (aesDec ws s).length = 16 :=
  length_xorL (by rw [List.length_map, length_shiftRows]) (length_aesRoundKey h (by decide))

theorem length_xtsBlocks {f : List Nat → List Nat} (hf : ∀ x, (f x).length = 16) (n : Nat) {t : List Nat} (ht : t.length = 16)
    (d : List Nat) : (xtsBlocks f n t d).length = 16 * n := by
  induction n generalizing t d with
  | zero => rfl
  | succ n ih =>
    rw [xtsBlocks, List.length_append, length_xorL (hf _) ht, ih (by simp [xtsMul])]
    omega

theorem length_xts (dec : Bool) {key : List Byte} (hk : key.length = 64) (tweak data : List Byte) :
    (xts dec key tweak data).length = 16 * (data.length / 16) := by
  have hdata : AesWords 60 (aesSchedule ((key.map BitVec.toNat).take 32)) := aesWords_schedule (by simp [hk])
  have htweak : AesWords 60 (aesSchedule ((key.map BitVec.toNat).drop 32)) := aesWords_schedule (by simp [hk])
  simp only [xts, List.length_map]
  refine length_xtsBlocks (fun x => ?_) _ (length_aesEnc htweak _) _
  split
  · exact length_aesDec hdata x
  · exact length_aesEnc hdata x

theorem length_stackLine (s : State) (line : Nat) : (s.stackLine line).length = 128 := by
  unfold State.stackLine
  split
  · simp [cellsRead]
  · unfold State.freshLine
    dsimp only
    split
    · simp
    · rw [length_xts _ (by simp), List.length_replicate]

/-! ## Writes and reads of a line -/

section
variable {s : State}

@[simp] theorem keepNow_mere (s : State) (p : Nat) : (s.keepNow p).mem.mere = s.mem.mere := by
  unfold State.keepNow
  split <;> rfl

@[simp] theorem countMere_mere (s : State) (p : Nat) (hit : Bool) : (s.countMere p hit).mem.mere = s.mem.mere :=
  (sameLines_countMere s p hit).mere

@[simp] theorem unmark_data (m : MereLine) (p : Nat) : (m.unmark p).data = m.data := by
  unfold MereLine.unmark
  split <;> rfl

@[simp] theorem unmark_dirty (m : MereLine) (p : Nat) : (m.unmark p).dirty = m.dirty := by
  unfold MereLine.unmark
  split <;> rfl

@[simp] theorem unmark_poison (m : MereLine) (p : Nat) : (m.unmark p).poison = m.poison := by
  unfold MereLine.unmark
  split <;> rfl

/-- The Mere holds a line with the bytes, the poison and the dirt of m, whatever its pin and its LAST mark. -/
def HoldsLine (s : State) (line : Nat) (m : MereLine) : Prop :=
  ∃ m', tget? s.mem.mere line = some m' ∧ m'.data = m.data ∧ m'.dirty = m.dirty ∧ m'.poison = m.poison

theorem holdsLine_setMere (s : State) (line : Nat) {m m' : MereLine} (hd : m'.data = m.data) (hw : m'.dirty = m.dirty)
    (hp : m'.poison = m.poison) : HoldsLine (s.setMere (tput s.mem.mere line m')) line m :=
  ⟨m', tget?_tput_same _ _ _, hd, hw, hp⟩

theorem holdsLine_pinHit {p line : Nat} {m : MereLine} (h : tget? s.mem.mere line = some m) : HoldsLine (s.pinHit p line m) line m := by
  unfold State.pinHit
  split
  · exact ⟨m, h, rfl, rfl, rfl⟩
  · split
    · obtain ⟨m', hm, hrest⟩ := holdsLine_setMere s line (m := m) (m' := { m.unmark p with pin := some p }) (by simp) (by simp) (by simp)
      exact ⟨m', by rw [keepNow_mere]; exact hm, hrest⟩
    · exact holdsLine_setMere s line (by simp) (by simp) (by simp)

/-- The line a write of bytes leaves of one that the Mere holds. -/
def writtenLine (m : MereLine) (ofs : Nat) (bs : List Byte) (po : Bool) : MereLine :=
  { m with data := overlay m.data ofs bs, dirty := true, poison := po || (m.poison && !(bs.length == 128)) }

theorem holdsLine_lineWrite {p hint line ofs : Nat} {bs : List Byte} {po early : Bool} {m : MereLine}
    (h : tget? s.mem.mere line = some m) : HoldsLine (s.lineWrite p hint line ofs bs po early) line (writtenLine m ofs bs po) := by
  have hput : tget? ((s.setMere (tput s.mem.mere line (writtenLine m ofs bs po))).countMere p true).mem.mere line =
      some (writtenLine m ofs bs po) := by
    rw [countMere_mere]
    exact tget?_tput_same _ _ _
  simp only [State.lineWrite, h]
  change HoldsLine (if (writtenLine m ofs bs po).pinned = true then _ else _) line _
  split
  · exact ⟨_, hput, rfl, rfl, rfl⟩
  · split
    · exact holdsLine_pinHit hput
    · refine holdsLine_setMere _ line ?_ ?_ ?_
      all_goals
        split
        · rfl
        · simp only [unmark_data, unmark_dirty, unmark_poison]
          rfl

end

theorem cellsRead_cellsWrite {m : List Host.Cell} (h : cellsWf m = true) (a : Nat) (bs : List Byte) :
    cellsRead (cellsWrite m a bs) a bs.length = bs := by
  refine List.ext_getElem (by simp [cellsRead]) fun i hi hj => ?_
  simp only [cellsRead, List.getElem_map, List.getElem_range]
  exact cellGet_cellsWrite_same bs m a i h hj

theorem mem_insertUp (l : List Nat) (x : Nat) : (insertUp l x).contains x = true := by
  unfold insertUp
  split
  next h => exact h
  next => simp

theorem stackLine_stackPut {s : State} (h : cellsWf s.mem.dram = true) (line : Nat) {d : List Byte} (hd : d.length = 128) :
    (s.stackPut line d).stackLine line = d := by
  have hw : (s.stackPut line d).mem.written.contains line = true := mem_insertUp s.mem.written line
  have hread := cellsRead_cellsWrite h (line * 128) d
  rw [hd] at hread
  rw [State.stackLine, if_pos hw]
  exact hread

theorem length_overlay {d bs : List Byte} {ofs : Nat} (h : ofs + bs.length ≤ d.length) : (overlay d ofs bs).length = d.length := by
  simp only [overlay, List.length_append, List.length_take, List.length_drop]
  omega

@[simp] theorem stackPoison_setPoison (s : State) (line : Nat) (v : Bool) : (s.setPoison line v).stackPoison line = v := by
  cases v
  · simp [State.setPoison, State.stackPoison]
  · simp [State.setPoison, State.stackPoison]

@[simp] theorem stackLine_setPoison (s : State) (line : Nat) (v : Bool) (l : Nat) : (s.setPoison line v).stackLine l = s.stackLine l := rfl

@[simp] theorem stackLine_clearErrs (s : State) (b : List Nat) (l : Nat) : (s.clearErrs b).stackLine l = s.stackLine l := by
  unfold State.clearErrs
  split <;> rfl

@[simp] theorem clearErrs_mere (s : State) (b : List Nat) : (s.clearErrs b).mem.mere = s.mem.mere := by
  unfold State.clearErrs
  split <;> rfl

/-- A write past the Mere into a line none of whose bursts is in error. -/
theorem stackWrite_of_clean {s : State} {p line ofs : Nat} {bs : List Byte} {po early : Bool} (hwf : cellsWf s.mem.dram = true)
    (h0 : tget? s.mem.errs (2 * line) = none) (h1 : tget? s.mem.errs (2 * line + 1) = none) (hb : ofs + bs.length ≤ 128) :
    let t := s.stackWrite p line ofs bs po early
    t.mem.mere = s.mem.mere ∧ t.stackLine line = overlay (s.stackLine line) ofs bs ∧
      t.stackPoison line = (po || (s.stackPoison line && bs.length != 128)) := by
  have hrow := sameLines_rowReady s (line * 128)
  have hlen : (overlay (s.stackLine line) ofs bs).length = 128 := by rw [length_overlay (by rw [length_stackLine]; exact hb), length_stackLine]
  have hfilter : ∀ i ∈ [0, 1].filter (burstPartial ofs bs.length), i < 2 := fun i hi => by
    have := List.mem_of_mem_filter hi
    simp only [List.mem_cons, List.not_mem_nil, or_false] at this
    omega
  simp only [State.stackWrite, stackFetch_of_clean h0 h1 p 1 hfilter, stackLine_of_sameLines hrow, stackPoison_of_sameLines hrow]
  refine ⟨?_, ?_, ?_⟩
  · refine (sameLines_charge _ _ _ _ _).mere.trans ?_
    exact (clearErrs_mere _ _).trans hrow.mere
  · refine (stackLine_of_sameLines (sameLines_charge _ _ _ _ _) line).trans ?_
    rw [stackLine_setPoison, stackLine_clearErrs]
    exact stackLine_stackPut (by rw [hrow.dram]; exact hwf) line hlen
  · refine (stackPoison_of_sameLines (sameLines_charge _ _ _ _ _) line).trans ?_
    rw [stackPoison_setPoison]

/-- A read of a line that the Mere does not hold and none of whose bursts is in error. -/
theorem lineRead_of_clean {s : State} {line : Nat} (p hint : Nat) (early : Bool) (hm : tget? s.mem.mere line = none)
    (h0 : tget? s.mem.errs (2 * line) = none) (h1 : tget? s.mem.errs (2 * line + 1) = none) :
    (s.lineRead p hint line early).1 = s.stackLine line ∧ (s.lineRead p hint line early).2.1 = s.stackPoison line := by
  have hcharged := (sameLines_countMere s p false).trans (sameLines_charge _ p (paStack (line * 128)) 2 early)
  have hread := hcharged.trans (sameLines_rowReady _ (line * 128))
  have hfetch := stackFetch_of_clean (by rw [hcharged.errs]; exact h0) (by rw [hcharged.errs]; exact h1) p 1 (l := [0, 1]) (by simp)
  simp only [State.lineRead, hm, hfetch, stackLine_of_sameLines hread, stackPoison_of_sameLines hread]
  split
  · exact ⟨rfl, rfl⟩
  · exact ⟨rfl, rfl⟩

theorem lineWrite_of_stream {s : State} {line : Nat} (hm : tget? s.mem.mere line = none) (p ofs : Nat) (bs : List Byte) (po early : Bool) :
    s.lineWrite p hintStream line ofs bs po early = (s.countMere p false).stackWrite p line ofs bs po early := by
  simp only [State.lineWrite, hm, if_true]

/-- Settles O24: a line in the Mere keeps what was written (`holdsLine_lineWrite`); past the Mere its stack does (`stackWrite_of_clean`). -/
theorem linesKeepAndLosePoison : Obligations.LinesKeepAndLosePoison := by
  refine ⟨fun s p hint line ofs bs po early m h => ?_, fun s p line ofs bs po early hwf hm h0 h1 _ hb => ?_,
    fun s p hint line early hm h0 h1 => lineRead_of_clean p hint early hm h0 h1, fun s line => ⟨fun hw => if_pos hw, fun hw hk => ?_⟩⟩
  · obtain ⟨m', hm, hd, hw, hp⟩ := holdsLine_lineWrite (p := p) (hint := hint) (ofs := ofs) (bs := bs) (po := po) (early := early) h
    exact ⟨m', hm, hd, hw, hp, fun q h e => by rw [lineRead_of_hit hm]; exact ⟨rfl, rfl⟩⟩
  · have hcount := sameLines_countMere s p false
    have hwrite := stackWrite_of_clean (p := p) (po := po) (early := early) (by rw [hcount.dram]; exact ((wf_iff s).mp hwf).1)
      (by rw [hcount.errs]; exact h0) (by rw [hcount.errs]; exact h1) hb
    rw [hcount.mere, stackLine_of_sameLines hcount, stackPoison_of_sameLines hcount] at hwrite
    rw [lineWrite_of_stream hm]
    exact hwrite
  · simp only [State.stackLine, hw, State.freshLine, hk, Bool.false_eq_true, if_false]

/-! ## Near-memory additions -/

/-- Bytes from a on that end with a's line are one chunk. -/
theorem lineChunks_of_one_line {a n : Nat} (hn : n ≠ 0) (h : a % 128 + n ≤ 128) : lineChunks a n = [(a, n)] := by
  have hcount : (a + n - 1) / 128 - a / 128 + 1 = 1 := by omega
  have hlen : Nat.min (a + n) ((a / 128 + 0 + 1) * 128) - a = n := by
    have : Nat.min (a + n) ((a / 128 + 0 + 1) * 128) = a + n := Nat.min_eq_left (by omega)
    omega
  rw [lineChunks, if_neg hn, hcount]
  simp only [List.range_one, List.map_cons, List.map_nil, if_true, hlen]

section
variable {s : State} {c : Ctx} {pva : Nat} {a : Int} {srcs : List NmSrc}

/-- The additions of sources that fit a line, by slot. -/
def slotAdds (pva : Nat) (srcs : List NmSrc) : List (Nat × NmSrc) :=
  (List.range srcs.length).map (fun i => (pva / 16 * 16 % 128 / 16 + i, nthD srcs i ⟨12, 0⟩))

/-- The bytes of a line with the additions made slot by slot. -/
def addedBytes (a : Int) (adds : List (Nat × NmSrc)) (d : List Byte) : List Byte :=
  adds.foldl (fun l ad => overlay l (16 * ad.1) (leBytes 16 (ad.2.into a (slotOf (leAt l (16 * ad.1) 16))).1.word)) d

theorem nmChunk (hs : srcs ≠ []) (hfit : pva / 16 % 8 + srcs.length ≤ 8) :
    lineChunks (pva / 16 * 16) (16 * srcs.length) = [(pva / 16 * 16, 16 * srcs.length)] := by
  have hlen : srcs.length ≠ 0 := by simpa using hs
  exact lineChunks_of_one_line (by omega) (by omega)

theorem nmAdd_of_fault {k : Nat} (hs : srcs ≠ []) (hfit : pva / 16 % 8 + srcs.length ≤ 8)
    (hx : s.xlate c.part c.rt (pva / 16 * 16) true = .error k) :
    s.nmAdd c pva a srcs = (0x67, pva / 16 * 16, 0, s.xfault c.part c.who (pva / 16 * 16) 3 k) := by
  simp only [State.nmAdd, nmChunk hs hfit, List.foldl_cons, List.foldl_nil, hx]
  rfl

theorem nmAdd_of_line {d h pa : Nat} (hs : srcs ≠ []) (hfit : pva / 16 % 8 + srcs.length ≤ 8)
    (hx : s.xlate c.part c.rt (pva / 16 * 16) true = .ok (.dpa d h)) (hl : s.locate? d = some pa) :
    let u := s.nmLine c.part pa a (slotAdds pva srcs) c.early
    s.nmAdd c pva a srcs = (if u.1 then 0x68 else 0, pva / 16 * 16, flOr 0 u.2.1, u.2.2) := by
  have hcount : 16 * srcs.length / 16 = srcs.length := by omega
  simp only [State.nmAdd, nmChunk hs hfit, List.foldl_cons, List.foldl_nil, hx, hl, hcount, Nat.sub_self, Nat.zero_div, Nat.zero_add]
  rfl

theorem foldl_addedBytes (adds : List (Nat × NmSrc)) (x : List Byte × Nat) :
    (adds.foldl (fun (x : List Byte × Nat) ad =>
      let y := ad.2.into a (slotOf (leAt x.1 (16 * ad.1) 16))
      (overlay x.1 (16 * ad.1) (leBytes 16 y.1.word), flOr x.2 y.2)) x).1 = addedBytes a adds x.1 := by
  induction adds generalizing x with
  | nil => rfl
  | cons ad adds ih => exact ih _

/-- The state a near-memory addition reads its line in. -/
def nmFetched (s : State) (p pa : Nat) (early : Bool) : State :=
  ((s.dropLine (pa / 128) early).charge p (paStack pa) 2 early).stackFetch (pa / 128) p 1 [0, 1]

theorem nmLine_of_poison {p pa : Nat} {early : Bool} (adds : List (Nat × NmSrc)) (h : (nmFetched s p pa early).stackPoison (pa / 128) = true) :
    s.nmLine p pa a adds early = (true, 0, nmFetched s p pa early) :=
  if_pos h

theorem nmLine_of_sound {p pa : Nat} {early : Bool} (adds : List (Nat × NmSrc)) (h : (nmFetched s p pa early).stackPoison (pa / 128) = false) :
    ∃ flags, s.nmLine p pa a adds early = (false, flags,
      ((nmFetched s p pa early).stackStore (pa / 128) (addedBytes a adds ((nmFetched s p pa early).stackLine (pa / 128)))).add F.pScat
        adds.length p) := by
  rw [← foldl_addedBytes (a := a) adds ((nmFetched s p pa early).stackLine (pa / 128), 0)]
  exact ⟨_, if_neg fun hp => Bool.false_ne_true (h.symm.trans hp)⟩

theorem nmCommand_of_run {core : Nat} {r : Running} (h : ((s.nmAdd c pva a srcs).2.2.2.core core).run = some r) :
    s.nmCommand c core pva a srcs =
      (s.nmAdd c pva a srcs).2.2.2.raiseFlags core c.part r.grain.stepNo 3 (gId r.grain.word) (s.nmAdd c pva a srcs).2.2.1 := by
  simp only [State.nmCommand, h]

theorem nmCommand_of_idle {core : Nat} (h : ((s.nmAdd c pva a srcs).2.2.2.core core).run = none) :
    s.nmCommand c core pva a srcs = (s.nmAdd c pva a srcs).2.2.2.raiseFlags core c.part 0 3 0 (s.nmAdd c pva a srcs).2.2.1 := by
  simp only [State.nmCommand, h]

theorem nmCommand_of_nil {core : Nat} : s.nmCommand c core pva a [] = s := by
  have hadd : s.nmAdd c pva a [] = (0, 0, 0, s) := rfl
  simp only [State.nmCommand, hadd]
  exact if_pos rfl
end
/-- Settles O25: the addition of a line's sources, by the chunk they form (`nmAdd_of_line`) and the poison of the line. -/
theorem nearMemoryAdditions : Obligations.NearMemoryAdditions := by
  refine ⟨fun p core pva a s => next_flush nmCommand_of_nil, fun p core pva a srcs s => ⟨fun r h => next_flush (nmCommand_of_run h),
    fun h => next_flush (nmCommand_of_idle h)⟩, fun c pva a srcs s hs hfit => ⟨fun k hx => nmAdd_of_fault hs hfit hx,
    fun d h pa hx hl => ⟨fun hp => ?_, fun hp => ?_⟩⟩⟩
  · rw [nmAdd_of_line hs hfit hx hl, nmLine_of_poison _ hp]
    exact ⟨rfl, rfl⟩
  · obtain ⟨flags, hline⟩ := nmLine_of_sound (a := a) (slotAdds pva srcs) hp
    rw [nmAdd_of_line hs hfit hx hl, hline]
    refine ⟨rfl, ?_⟩
    simp only [slotAdds, addedBytes, List.foldl_map, List.length_map, List.length_range]
    rfl
end Sys2Proof.Machine.MemoryLaws
end

section
/-! PROOF. Repair of device memory and its code (08_memory.md): location and remaps, the patrol, the wrapper instructions, bursts read and
the memory code (O26, O27, O28). -/
namespace Sys2Proof.Machine.RepairLaws
open Sys2Proof Sys2Proof.Machine.Laws Sys2Proof.Machine.ClockLaws Sys2Proof.Machine.MemoryLaws

/-! ## Location, copies and the patrol -/

section
variable {s : State} {n : Nat}

theorem locateDies_of_none (dies : List Nat) (h : (s.stack n).locating = []) : s.locateDies n dies = s := by
  simp only [State.locateDies, h]

theorem locateDies_of_cons {x : Nat × List Nat} {l : List (Nat × List Nat)} (dies : List Nat) (h : (s.stack n).locating = x :: l) :
    s.locateDies n dies = dies.eraseDups.foldl (fun s d => s.remap n (dieRowOf (x.1 * 128) d))
      (s.modStack n (fun k => { k with locating := l })) := by
  simp only [State.locateDies, h]

theorem remapDone_of_none (h : (s.stack n).copying = []) : s.remapDone n = s := by
  simp only [State.remapDone, h]

theorem remapDone_of_cons {c : DieRow × Nat} {l : List (DieRow × Nat)} (h : (s.stack n).copying = c :: l) :
    s.remapDone n = (s.copyDone n c).serveHeld := by
  simp only [State.remapDone, h]

theorem remap_of_settled {r : DieRow} (h : (∃ e ∈ (s.stack n).copying, e.1 = r) ∨ (∃ e ∈ (s.stack n).cam, e.1 = r) ∨
    r ∈ (s.stack n).denied ∨ r.die ∈ s.marks n) : s.remap n r = s :=
  if_pos (by simpa [or_assoc] using h)

section
variable {r : DieRow} (hc : ∀ e ∈ (s.stack n).copying, e.1 ≠ r) (hm : ∀ e ∈ (s.stack n).cam, e.1 ≠ r) (hd : r ∉ (s.stack n).denied)
  (hk : r.die ∉ s.marks n)
include hc hm hd hk

/-- The row is neither steered, in copy nor refused, and its die is not marked. -/
theorem remap_of_open : s.remap n r = if 4096 ≤ s.rd F.memCamUsed 0 n + (s.stack n).copying.length then s.denyRemap n r 2
    else match s.takeSpare n r with
      | (none, s) => s.denyRemap n r 3
      | (some x, s) => s.modStack n (fun k => { k with copying := k.copying ++ [(r, x)] }) :=
  if_neg (by
    simp only [Bool.or_eq_true, List.any_eq_true, beq_iff_eq, List.contains_iff_mem, not_or]
    exact ⟨⟨⟨fun ⟨e, he, h⟩ => hc e he h, fun ⟨e, he, h⟩ => hm e he h⟩, hd⟩, hk⟩)

theorem remap_of_full (h : 4096 ≤ s.rd F.memCamUsed 0 n + (s.stack n).copying.length) : s.remap n r = s.denyRemap n r 2 := by
  rw [remap_of_open hc hm hd hk, if_pos h]

theorem remap_of_room (h : s.rd F.memCamUsed 0 n + (s.stack n).copying.length < 4096) : s.remap n r = match s.takeSpare n r with
      | (none, s) => s.denyRemap n r 3
      | (some x, s) => s.modStack n (fun k => { k with copying := k.copying ++ [(r, x)] }) := by
  rw [remap_of_open hc hm hd hk, if_neg (by omega)]

end

theorem freeSpares_eq_nil {r : DieRow} : (s.stack n).freeSpares r.bankKey = [] ↔ (s.stack n).sparesLeft r = 0 :=
  List.length_eq_zero_iff.symm

theorem takeSpare_of_none {r : DieRow} (h : (s.stack n).sparesLeft r = 0) : s.takeSpare n r = (none, s) :=
  if_pos (freeSpares_eq_nil.mpr h)

theorem takeSpare_of_free {r : DieRow} (h : (s.stack n).sparesLeft r ≠ 0) :
    ∃ x ∈ (s.stack n).freeSpares r.bankKey, (s.takeSpare n r).1 = some x := by
  have hpos : 0 < ((s.stack n).freeSpares r.bankKey).length := Nat.pos_of_ne_zero h
  have hlt := Nat.mod_lt (Config.spareRow s.freeCtr) hpos
  refine ⟨_, List.getElem_mem hlt, ?_⟩
  simp only [State.takeSpare, if_neg (mt freeSpares_eq_nil.mp h), State.fresh, nthD, List.getElem?_eq_getElem hlt, Option.getD_some]

theorem patrolRead_of_away {e : BurstErr} (h : s.stackServes n = false) : s.patrolRead n e = s :=
  if_pos (by rw [h]; rfl)

theorem patrolRead_of_serving {e : BurstErr} (h : s.stackServes n = true) :
    let b := n * 2 ^ 31 + (s.stack n).patrol
    let next := ((s.stack n).patrol + 1) % 2 ^ 31
    let t := (s.putErr b e).stackFetch (b / 2) (s.extentOwner (s.dpaOf (b * 64))) 2 [b % 2]
    s.patrolRead n e = if next = 0 then t.modStack n (fun k => { k with patrol := 0, tallies := [], denied := [], refused := [] })
      else t.modStack n (fun k => { k with patrol := next }) :=
  if_neg (by rw [h]; exact Bool.false_ne_true)

end

/-- Settles O26: each command by what stands in its stack's lists, and a remap by what refuses it (`remap_of_settled`, `remap_of_room`). -/
theorem repairCommands : Obligations.RepairCommands := by
  refine ⟨fun n dies s h => next_flush (locateDies_of_none _ h), fun n dies s x l h => next_flush (locateDies_of_cons _ h),
    fun n s h => next_flush (remapDone_of_none h), fun n s c l h => next_flush (remapDone_of_cons h), fun s n r h => remap_of_settled h,
    fun s n r hc hm hd hk => ⟨fun h => remap_of_full hc hm hd hk h, fun h h0 => ?_, fun h h0 => ?_⟩,
    fun n e s => ⟨fun h => next_flush (patrolRead_of_away h), fun h => next_flush (patrolRead_of_serving h)⟩⟩
  · rw [remap_of_room hc hm hd hk h, takeSpare_of_none h0]
    rfl
  · obtain ⟨x, hx, htake⟩ := takeSpare_of_free h0
    refine ⟨x, hx, htake, ?_⟩
    rw [remap_of_room hc hm hd hk h, ← Prod.mk.eta (p := s.takeSpare n r), htake]

/-! ## The wrapper instructions -/

section
variable {s : State} {n : Nat}

theorem wrapper_of_closed {f : State → State} (h : (s.stack n).access = false) : s.wrapper n f = s :=
  if_neg (by rw [h]; exact Bool.false_ne_true)

theorem wrapper_of_access {f : State → State} (h : (s.stack n).access = true) :
    s.wrapper n f = f (s.modStack n (fun k => { k with bypass := false })) :=
  if_pos h

theorem softRepair_eq (r : DieRow) : s.softRepair n r = if r ∈ (s.stack n).repairList ∨ r ∈ (s.stack n).hardRepairs then s
    else if (s.stack n).sparesLeft r = 0 then s.repairEvent n r 3
    else ((s.takeSpare n r).2.modStack n (fun k => { k with repairList := k.repairList ++ [r] })).repairEvent n r 6 := by
  simp only [State.softRepair, Bool.or_eq_true, List.contains_iff_mem]
  split
  · rfl
  · by_cases h0 : (s.stack n).sparesLeft r = 0
    · rw [takeSpare_of_none h0, if_pos h0]
    · obtain ⟨x, _, htake⟩ := takeSpare_of_free h0
      rw [if_neg h0, ← Prod.mk.eta (p := s.takeSpare n r), htake]

theorem hardRepair_of_unverified (r : DieRow) : s.hardRepair n r false = s :=
  if_pos (Bool.or_true _)

theorem hardRepair_of_done {r : DieRow} (v : Bool) (h : r ∈ (s.stack n).hardRepairs) : s.hardRepair n r v = s :=
  if_pos (by simp [h])

/-- A row moved from the repair list to the hard-repaired ones. -/
def hardRow (s : State) (n : Nat) (r : DieRow) : State :=
  (s.modStack n (fun k => { k with repairList := k.repairList.erase r, hardRepairs := k.hardRepairs ++ [r] })).repairEvent n r 7

theorem hardRepair_of_verified {r : DieRow} (h : r ∉ (s.stack n).hardRepairs) : s.hardRepair n r true =
    match (if (s.stack n).repairList.contains r then (some 0, s) else s.takeSpare n r) with
    | (none, s) => s.repairEvent n r 3
    | (some _, s) => hardRow s n r :=
  if_neg (by simpa using h)

theorem hardRepair_of_listed {r : DieRow} (hl : r ∈ (s.stack n).repairList) (h : r ∉ (s.stack n).hardRepairs) :
    s.hardRepair n r true = hardRow s n r := by
  rw [hardRepair_of_verified h, if_pos (List.contains_iff_mem.mpr hl)]

theorem hardRepair_of_no_spare {r : DieRow} (hl : r ∉ (s.stack n).repairList) (h : r ∉ (s.stack n).hardRepairs)
    (h0 : (s.stack n).sparesLeft r = 0) : s.hardRepair n r true = s.repairEvent n r 3 := by
  rw [hardRepair_of_verified h, if_neg (mt List.contains_iff_mem.mp hl), takeSpare_of_none h0]

theorem hardRepair_of_spare {r : DieRow} (hl : r ∉ (s.stack n).repairList) (h : r ∉ (s.stack n).hardRepairs)
    (h0 : (s.stack n).sparesLeft r ≠ 0) : s.hardRepair n r true = hardRow (s.takeSpare n r).2 n r := by
  obtain ⟨x, _, htake⟩ := takeSpare_of_free h0
  rw [hardRepair_of_verified h, if_neg (mt List.contains_iff_mem.mp hl), ← Prod.mk.eta (p := s.takeSpare n r), htake]

theorem mbist_eq (lo hi : Nat) (failing : List DieRow) : s.mbist n lo hi failing =
    (((bankLines n lo hi).foldl (fun u x => u.setPoison x true) (s.stackScrub (fun x => x / 2 ^ 30 == n && decide (lo ≤ saBank (x * 128)) &&
      decide (saBank (x * 128) ≤ hi)))).inc F.memPoisoned (bankLines n lo hi).length 0 n).wrapperOut n 5 (failing.map DieRow.word) := by
  unfold State.mbist
  rfl

end

theorem exec_invRead (n : StackId) (s : State) : exec (.invRead n) s = .next (s.wrapper n.val (fun s => s.wrapperOut n.val 1
    ((List.range (19 * 8 * 16)).map (fun i => ((s.stack n.val).freeSpares i).length)))).flush := rfl

theorem exec_mbist (n : StackId) (lo hi : Fin 16) (l : List (Fin 19 × Fin 8 × Fin 16 × BitVec 16)) (s : State) :
    exec (.mbist n lo hi l) s = .next (s.wrapper n.val (fun s => s.mbist n.val lo.val hi.val
      (l.map (fun r => dieRow r.1.val r.2.1.val r.2.2.1.val r.2.2.2.toNat)))).flush := rfl

theorem exec_bypass_listed {n : StackId} {code : Byte} (s : State) (h : 1 ≤ code.toNat ∧ code.toNat ≤ 6) :
    exec (.bypass n code) s = .next s.flush :=
  next_flush (if_pos (by simpa using h))

theorem exec_bypass_other {n : StackId} {code : Byte} (s : State) (h : ¬ (1 ≤ code.toNat ∧ code.toNat ≤ 6)) : exec (.bypass n code) s =
    .next (s.wrapper n.val (fun s => s.modStack n.val (fun k => { k with bypass := true }))).flush :=
  next_flush (if_neg (by simpa using h))

/-- Settles O28: each instruction is a `State.wrapper`, of what it does in repair access. -/
theorem wrapperInstructions : Obligations.WrapperInstructions := by
  intro n s
  refine ⟨fun h => ?_, fun h => ?_⟩
  · refine ⟨next_flush (wrapper_of_closed h), next_flush (wrapper_of_closed h), fun _ => next_flush (wrapper_of_closed h),
      fun _ _ _ _ => next_flush (wrapper_of_closed h), fun _ _ _ _ _ => next_flush (wrapper_of_closed h),
      fun _ _ _ => next_flush (wrapper_of_closed h), fun code => ?_⟩
    by_cases hc : 1 ≤ code.toNat ∧ code.toNat ≤ 6
    · exact exec_bypass_listed s hc
    · rw [exec_bypass_other s hc, wrapper_of_closed h]
  · refine ⟨?_, next_flush (wrapper_of_access h), fun die => next_flush (wrapper_of_access h), fun die c b row => ⟨?_, ?_, ?_, ?_, ?_, ?_⟩,
      fun lo hi l => ?_, fun code => ⟨exec_bypass_listed s, fun hc => ?_⟩⟩
    · rw [exec_invRead, wrapper_of_access h]
    · exact next_flush ((wrapper_of_access h).trans (softRepair_eq _))
    · exact next_flush ((wrapper_of_access h).trans (hardRepair_of_unverified _))
    · exact fun hl hr => next_flush ((wrapper_of_access h).trans (hardRepair_of_listed hl hr))
    · exact fun hr => next_flush ((wrapper_of_access h).trans (hardRepair_of_done true hr))
    · exact fun hl hr h0 => next_flush ((wrapper_of_access h).trans (hardRepair_of_no_spare hl hr h0))
    · exact fun hl hr h0 => next_flush ((wrapper_of_access h).trans (hardRepair_of_spare hl hr h0))
    · rw [exec_mbist, wrapper_of_access h, mbist_eq, List.map_map]
      rfl
    · rw [exec_bypass_other s hc, wrapper_of_access h]

/-! ## The field of the memory code -/

/-- A field element times α^n. -/
def timesXs (n a : Nat) : Nat := iterN n (fun _ x => gfTimesX x) a

theorem iterN_succ {α : Type} (n : Nat) (f : Nat → α → α) (a : α) : iterN (n + 1) f a = f n (iterN n f a) := by
  rw [iterN, iterN, List.range_succ, List.foldl_append]
  rfl

@[simp] theorem timesXs_zero (a : Nat) : timesXs 0 a = a := rfl

theorem timesXs_succ (n a : Nat) : timesXs (n + 1) a = gfTimesX (timesXs n a) := iterN_succ n _ a

theorem timesXs_add (m n a : Nat) : timesXs (m + n) a = timesXs m (timesXs n a) := by
  induction m with
  | zero => rw [Nat.zero_add, timesXs_zero]
  | succ m ih => rw [Nat.add_right_comm, timesXs_succ, timesXs_succ, ih]

theorem gfExp_eq (n : Nat) : gfExp n = timesXs n 1 := rfl

theorem nat_xor_eq (a b : Nat) : Nat.xor a b = a ^^^ b := rfl

/-- The bit that takes a field element times α beyond 8 bits. -/
theorem lt_128_iff {a : Nat} (h : a < 256) : a < 128 ↔ a.testBit 7 = false := by
  refine ⟨fun hl => Nat.testBit_lt_two_pow hl, fun hb => ?_⟩
  refine Nat.lt_pow_two_of_testBit (n := 7) a fun i hi => ?_
  obtain rfl | hi := Nat.eq_or_lt_of_le hi
  · exact hb
  · exact Nat.testBit_lt_two_pow (Nat.lt_of_lt_of_le h (Nat.pow_le_pow_right (n := 2) (by omega) hi))

theorem two_mul_xor (a b : Nat) : 2 * (a ^^^ b) = 2 * a ^^^ 2 * b := by
  have h := Nat.shiftLeft_xor_distrib (a := a) (b := b) (i := 1)
  simpa [Nat.shiftLeft_eq, Nat.mul_comm] using h

theorem gfTimesX_lt {a : Nat} (h : a < 256) : gfTimesX a < 256 :=
  (by decide +kernel : ∀ a : Fin 256, gfTimesX a.val < 256) ⟨a, h⟩

theorem gfTimesX_xor {a b : Nat} (ha : a < 256) (hb : b < 256) : gfTimesX (a ^^^ b) = gfTimesX a ^^^ gfTimesX b := by
  have hab : a ^^^ b < 256 := Nat.xor_lt_two_pow (n := 8) ha hb
  simp only [gfTimesX, lt_128_iff hab, lt_128_iff ha, lt_128_iff hb, Nat.testBit_xor, nat_xor_eq, two_mul_xor]
  cases a.testBit 7 <;> cases b.testBit 7
  · simp
  · simp [Nat.xor_assoc]
  · simp only [Bool.bne_false, Bool.true_eq_false, if_false, if_true]
    ac_rfl
  · simp [Nat.xor_comm, Nat.xor_left_comm]

theorem timesXs_lt {a : Nat} (h : a < 256) (n : Nat) : timesXs n a < 256 := by
  induction n with
  | zero => exact h
  | succ n ih => rw [timesXs_succ]; exact gfTimesX_lt ih

theorem gfExp_lt (n : Nat) : gfExp n < 256 := timesXs_lt (by decide) n

theorem timesXs_xor {a b : Nat} (ha : a < 256) (hb : b < 256) (n : Nat) : timesXs n (a ^^^ b) = timesXs n a ^^^ timesXs n b := by
  induction n with
  | zero => rfl
  | succ n ih => rw [timesXs_succ, ih, gfTimesX_xor (timesXs_lt ha n) (timesXs_lt hb n), ← timesXs_succ, ← timesXs_succ]

theorem timesXs_of_zero (n : Nat) : timesXs n 0 = 0 := by
  induction n with
  | zero => rfl
  | succ n ih => rw [timesXs_succ, ih]; rfl

/-- The product of a with the low n bits of b. -/
def partMul (n a b : Nat) : Nat :=
  ((List.range n).foldl (fun (x : Nat × Nat) i => (if bitN b i then Nat.xor x.1 x.2 else x.1, gfTimesX x.2)) (0, a)).1

theorem partMul_fold (n a b : Nat) : (List.range n).foldl (fun (x : Nat × Nat) i =>
    (if bitN b i then Nat.xor x.1 x.2 else x.1, gfTimesX x.2)) (0, a) = (partMul n a b, timesXs n a) := by
  refine Prod.ext rfl ?_
  dsimp only
  induction n with
  | zero => rfl
  | succ n ih => rw [List.range_succ, List.foldl_append, timesXs_succ, ← ih]; rfl

theorem partMul_succ (n a b : Nat) : partMul (n + 1) a b = if bitN b n then partMul n a b ^^^ timesXs n a else partMul n a b := by
  rw [partMul, List.range_succ, List.foldl_append, partMul_fold]
  rfl

theorem partMul_lt {a : Nat} (h : a < 256) (n b : Nat) : partMul n a b < 256 := by
  induction n with
  | zero => exact (by decide : 0 < 256)
  | succ n ih =>
    rw [partMul_succ]
    split
    · exact Nat.xor_lt_two_pow (n := 8) ih (timesXs_lt h n)
    · exact ih

theorem partMul_xor {a a' : Nat} (ha : a < 256) (ha' : a' < 256) (n b : Nat) :
    partMul n (a ^^^ a') b = partMul n a b ^^^ partMul n a' b := by
  induction n with
  | zero => exact (Nat.xor_self 0).symm
  | succ n ih =>
    rw [partMul_succ, partMul_succ, partMul_succ, ih, timesXs_xor ha ha']
    split
    · ac_rfl
    · rfl

theorem partMul_gfTimesX {a : Nat} (ha : a < 256) (n b : Nat) : partMul n (gfTimesX a) b = gfTimesX (partMul n a b) := by
  induction n with
  | zero => rfl
  | succ n ih =>
    have hcomm : timesXs n (gfTimesX a) = gfTimesX (timesXs n a) := (timesXs_add n 1 a).symm.trans (timesXs_succ n a)
    rw [partMul_succ, partMul_succ, ih, hcomm]
    split
    · exact (gfTimesX_xor (partMul_lt ha n b) (timesXs_lt ha n)).symm
    · rfl

theorem gfMul_lt {a : Nat} (h : a < 256) (b : Nat) : gfMul a b < 256 := partMul_lt h 8 b

theorem gfMul_xor {a a' : Nat} (ha : a < 256) (ha' : a' < 256) (b : Nat) : gfMul (a ^^^ a') b = gfMul a b ^^^ gfMul a' b :=
  partMul_xor ha ha' 8 b

theorem gfMul_timesXs {a : Nat} (ha : a < 256) (n b : Nat) : gfMul (timesXs n a) b = timesXs n (gfMul a b) := by
  induction n with
  | zero => rfl
  | succ n ih => rw [timesXs_succ, timesXs_succ, ← ih]; exact partMul_gfTimesX (timesXs_lt ha n) 8 b

theorem gfMul_zero_left (b : Nat) : gfMul 0 b = 0 := by
  have h := gfMul_xor (a := 0) (a' := 0) (by decide) (by decide) b
  rwa [Nat.xor_self, Nat.xor_self] at h

theorem gfMul_zero_right (a : Nat) : gfMul a 0 = 0 := by
  have h : ∀ n, partMul n a 0 = 0 := by
    intro n
    induction n with
    | zero => rfl
    | succ n ih => rw [partMul_succ, ih]; simp [bitN]
  exact h 8

theorem gfMul_one_left {b : Nat} (h : b < 256) : gfMul 1 b = b :=
  (by decide +kernel : ∀ b : Fin 256, gfMul 1 b.val = b.val) ⟨b, h⟩

theorem gfMul_gfExp_left (n : Nat) {b : Nat} (h : b < 256) : gfMul (gfExp n) b = timesXs n b := by
  rw [gfExp_eq, gfMul_timesXs (by decide), gfMul_one_left h]

/-- A field element is its upper seven bits times α, and its lowest bit. -/
theorem gfTimesX_half {a : Nat} (h : a < 256) : gfTimesX (a / 2) ^^^ a % 2 = a := by
  have hhalf : gfTimesX (a / 2) = 2 * (a / 2) := if_pos (by omega)
  rw [hhalf]
  obtain h0 | h1 : a % 2 = 0 ∨ a % 2 = 1 := by omega
  · rw [h0, Nat.xor_zero]
    omega
  · rw [h1, Nat.xor_one_of_even (even_two_mul _)]
    omega

theorem gfMul_gfExp_right {a : Nat} (h : a < 256) (n : Nat) : gfMul a (gfExp n) = timesXs n a := by
  induction a using Nat.strongRecOn with
  | ind a ih =>
    obtain rfl | hpos := Nat.eq_zero_or_pos a
    · rw [gfMul_zero_left, timesXs_of_zero]
    have hbit : gfMul (a % 2) (gfExp n) = timesXs n (a % 2) := by
      obtain h0 | h1 : a % 2 = 0 ∨ a % 2 = 1 := by omega
      · rw [h0, gfMul_zero_left, timesXs_of_zero]
      · rw [h1, gfMul_one_left (gfExp_lt n)]
        rfl
    have hhalf : gfMul (gfTimesX (a / 2)) (gfExp n) = timesXs n (gfTimesX (a / 2)) := by
      have hx := gfMul_timesXs (a := a / 2) (by omega) 1 (gfExp n)
      rw [ih (a / 2) (by omega) (by omega), ← timesXs_add, Nat.add_comm, timesXs_add] at hx
      exact hx
    have hlt : gfTimesX (a / 2) < 256 := gfTimesX_lt (by omega)
    calc gfMul a (gfExp n) = gfMul (gfTimesX (a / 2) ^^^ a % 2) (gfExp n) := by rw [gfTimesX_half h]
      _ = timesXs n (gfTimesX (a / 2)) ^^^ timesXs n (a % 2) := by rw [gfMul_xor hlt (by omega), hhalf, hbit]
      _ = timesXs n a := by rw [← timesXs_xor hlt (by omega), gfTimesX_half h]

theorem eq_zero_of_gfTimesX {a : Nat} (h : a < 256) (h0 : gfTimesX a = 0) : a = 0 :=
  (by decide +kernel : ∀ a : Fin 256, gfTimesX a.val = 0 → a.val = 0) ⟨a, h⟩ h0

theorem eq_zero_of_timesXs {a n : Nat} (h : a < 256) (h0 : timesXs n a = 0) : a = 0 := by
  induction n with
  | zero => exact h0
  | succ n ih => exact ih (eq_zero_of_gfTimesX (timesXs_lt h n) ((timesXs_succ n a).symm.trans h0))

/-- No two of the 19 locators take an element other than 0 to the same element. -/
theorem timesXs_ne {a m n : Nat} (h : a < 256) (h0 : a ≠ 0) (hn : n < 19) (hm : m < n) : timesXs n a ≠ timesXs m a := by
  intro heq
  have hcycle : timesXs (n - m) a = a := by
    have hdiff : timesXs m (timesXs (n - m) a ^^^ a) = 0 := by
      rw [timesXs_xor (timesXs_lt h _) h, ← timesXs_add, show m + (n - m) = n by omega, heq, Nat.xor_self]
    exact Nat.xor_eq_zero_iff.mp (eq_zero_of_timesXs (Nat.xor_lt_two_pow (n := 8) (timesXs_lt h _) h) hdiff)
  have hno := (by decide +kernel : ∀ r : Fin 18, ∀ a : Fin 256, a.val ≠ 0 → timesXs (r.val + 1) a.val ≠ a.val)
    ⟨n - m - 1, by omega⟩ ⟨a, h⟩ h0
  exact hno ((congrArg (fun k => timesXs k a) (by dsimp only; omega)).trans hcycle)

theorem timesXs_injective {a m n : Nat} (h : a < 256) (h0 : a ≠ 0) (hm : m < 19) (hn : n < 19) (heq : timesXs n a = timesXs m a) : n = m := by
  rcases Nat.lt_trichotomy n m with hlt | rfl | hlt
  · exact absurd heq.symm (timesXs_ne h h0 hm hlt)
  · rfl
  · exact absurd heq (timesXs_ne h h0 hn hlt)

/-! ## The syndromes of a word of zeros with symbols in error -/

/-- The symbol of die i where die d alone is in error by x. -/
def symbolAt (d x i : Nat) : Nat := if d = i then x else 0

theorem symbolAt_lt {x : Nat} (h : x < 256) (d i : Nat) : symbolAt d x i < 256 := by
  unfold symbolAt
  split
  · exact h
  · decide

theorem rsStored_zeros (errs : List (Nat × Nat)) : rsStored (List.replicate 16 0) false errs =
    (List.range 19).map (fun i => errs.foldl (fun a x => if x.1 = i then a ^^^ x.2 else a) 0) := by
  have hword : codeword (List.replicate 16 0) = List.replicate 19 0 := by decide +kernel
  have hzip : (List.range 19).zip (List.replicate 19 0) = (List.range 19).map (fun i => (i, 0)) := rfl
  rw [rsStored, hword]
  simp only [Bool.false_eq_true, if_false, hzip, List.map_map]
  rfl

theorem rsSyndrome_symbolAt {x : Nat} (h : x < 256) {d : Nat} (hd : d < 19) (j : Nat) :
    rsSyndrome ((List.range 19).map (symbolAt d x)) j = timesXs (j * (18 - d)) x := by
  have hn : ∀ n, ((List.range n).map (symbolAt d x)).foldl (fun a c => Nat.xor (gfMul a (gfExp j)) c) 0 =
      if d < n then timesXs (j * (n - 1 - d)) x else 0 := by
    intro n
    induction n with
    | zero => rfl
    | succ n ih =>
      rw [List.range_succ, List.map_append, List.foldl_append, ih]
      simp only [List.map_cons, List.map_nil, List.foldl_cons, List.foldl_nil, nat_xor_eq]
      rcases Nat.lt_trichotomy d n with hlt | rfl | hgt
      · have hexp : j * (n + 1 - 1 - d) = j + j * (n - 1 - d) := by
          rw [show n + 1 - 1 - d = n - 1 - d + 1 by omega, Nat.mul_succ, Nat.add_comm]
        rw [if_pos hlt, if_pos (by omega), gfMul_gfExp_right (timesXs_lt h _), ← timesXs_add, hexp, symbolAt, if_neg (by omega), Nat.xor_zero]
      · rw [if_neg (by omega), if_pos (by omega), gfMul_zero_left, symbolAt, if_pos rfl, Nat.zero_xor, show d + 1 - 1 - d = 0 by omega]
        rfl
      · rw [if_neg (by omega), if_neg (by omega), gfMul_zero_left, symbolAt, if_neg (by omega), Nat.zero_xor]
  exact (hn 19).trans (if_pos hd)

theorem rsSyndrome_xor {f g : Nat → Nat} (hf : ∀ i, f i < 256) (hg : ∀ i, g i < 256) (l : List Nat) (j : Nat) :
    rsSyndrome (l.map (fun i => f i ^^^ g i)) j = rsSyndrome (l.map f) j ^^^ rsSyndrome (l.map g) j := by
  have hfold : ∀ (l : List Nat) (a b : Nat), a < 256 → b < 256 →
      (l.map (fun i => f i ^^^ g i)).foldl (fun a c => gfMul a (gfExp j) ^^^ c) (a ^^^ b) =
        (l.map f).foldl (fun a c => gfMul a (gfExp j) ^^^ c) a ^^^ (l.map g).foldl (fun a c => gfMul a (gfExp j) ^^^ c) b := by
    intro l
    induction l with
    | nil => exact fun _ _ _ _ => rfl
    | cons i l ih =>
      intro a b ha hb
      simp only [List.map_cons, List.foldl_cons]
      rw [← ih _ _ (Nat.xor_lt_two_pow (n := 8) (gfMul_lt ha _) (hf i)) (Nat.xor_lt_two_pow (n := 8) (gfMul_lt hb _) (hg i)), gfMul_xor ha hb]
      exact congrArg (fun x => List.foldl _ x _) (by ac_rfl)
  exact hfold l 0 0 (by decide) (by decide)

/-! ## Decoding a word of zeros -/

theorem rsStored_one (d x : Nat) : rsStored (List.replicate 16 0) false [(d, x)] = (List.range 19).map (symbolAt d x) := by
  rw [rsStored_zeros]
  simp only [List.foldl_cons, List.foldl_nil, Nat.zero_xor]
  rfl

theorem rsStored_two (d e x y : Nat) : rsStored (List.replicate 16 0) false [(d, x), (e, y)] =
    (List.range 19).map (fun i => symbolAt d x i ^^^ symbolAt e y i) := by
  rw [rsStored_zeros]
  refine List.map_congr_left fun i _ => ?_
  simp only [List.foldl_cons, List.foldl_nil, Nat.zero_xor, symbolAt]
  by_cases he : e = i
  · simp [he]
  · simp [he]

/-- The syndromes of the poison pattern are those of no single symbol in error. -/
theorem poison_syndromes (n : Fin 19) (x : Nat) :
    [x, timesXs n.val x, timesXs (2 * n.val) x] ≠ (List.range 3).map (rsSyndrome poisonPattern) := by
  intro h
  have hp : (List.range 3).map (rsSyndrome poisonPattern) = [195, rsSyndrome poisonPattern 1, rsSyndrome poisonPattern 2] := by decide +kernel
  obtain rfl : x = 195 := (List.cons.inj (h.trans hp)).1
  exact (by decide +kernel : ∀ n : Fin 19, [195, timesXs n.val 195, timesXs (2 * n.val) 195] ≠ (List.range 3).map (rsSyndrome poisonPattern)) n h

theorem rsDecode_one {x d : Nat} (hx : x < 256) (h0 : x ≠ 0) (hd : d < 19) :
    rsDecode [] x (timesXs (18 - d) x) (timesXs (2 * (18 - d)) x) = .corrected [d] := by
  have hlocator : ∀ p, gfMul x (rsLocator p) = timesXs (18 - p) x := fun p => gfMul_gfExp_right hx _
  have hfind : (List.range 19).find? (fun p => x != 0 && gfMul x (rsLocator p) == timesXs (18 - d) x &&
      gfMul (timesXs (18 - d) x) (rsLocator p) == timesXs (2 * (18 - d)) x) = some d := by
    rw [List.find?_range_eq_some]
    refine ⟨?_, List.mem_range.mpr hd, fun p hp => ?_⟩
    · rw [hlocator, show gfMul (timesXs (18 - d) x) (rsLocator d) = timesXs (18 - d) (timesXs (18 - d) x) from
        gfMul_gfExp_right (timesXs_lt hx _) _, ← timesXs_add, Nat.two_mul]
      simp [h0]
    · have hne : timesXs (18 - p) x ≠ timesXs (18 - d) x := fun heq => by
        have := timesXs_injective hx h0 (by omega) (by omega) heq
        omega
      simp [hlocator, hne]
  rw [rsDecode, if_neg (by simp [h0]), if_neg (poison_syndromes ⟨18 - d, by omega⟩ x), hfind]
  simp [h0]

/-- The dies of a word's symbols in error. -/
theorem badDies_one {x : Nat} (h0 : x ≠ 0) (d : Nat) : (([(d, x)].filter (fun e => e.2 != 0)).map (fun e => e.1)).eraseDups = [d] := by
  have hfilter : [(d, x)].filter (fun e => e.2 != 0) = [(d, x)] := by simp [h0]
  rw [hfilter]
  rfl

theorem badDies_two {d e : Nat} (h : d ≠ e) :
    (([(d, 1), (e, 1)].filter (fun e => e.2 != 0)).map (fun e => e.1)).eraseDups = [d, e] := by
  change [d, e].eraseDups = [d, e]
  rw [List.eraseDups_cons, List.filter_cons_of_pos (by simpa using h.symm)]
  rfl

theorem decodeWord_one {x d : Nat} (hx : x < 256) (h0 : x ≠ 0) (hd : d < 19) :
    decodeWord [] (List.replicate 16 0) false [(d, x)] = .corrected [d] := by
  have hbeyond : rsBeyond [] [d] = false := by simp [rsBeyond]
  simp only [decodeWord, badDies_one h0, hbeyond, rsStored_one, rsSyndrome_symbolAt hx hd, Nat.zero_mul, Nat.one_mul, timesXs_zero,
    Bool.false_eq_true, if_false]
  exact rsDecode_one hx h0 hd

theorem rsSyndrome_two {d e : Nat} (hd : d < 19) (he : e < 19) (j : Nat) :
    rsSyndrome ((List.range 19).map (fun i => symbolAt d 1 i ^^^ symbolAt e 1 i)) j = gfExp (j * (18 - d)) ^^^ gfExp (j * (18 - e)) := by
  rw [rsSyndrome_xor (symbolAt_lt (by decide) d) (symbolAt_lt (by decide) e), rsSyndrome_symbolAt (by decide) hd,
    rsSyndrome_symbolAt (by decide) he, gfExp_eq, gfExp_eq]

/-- The discrete logarithms of 1 + α^r, r from 1 to 18. -/
def logs : List Nat := [25, 50, 223, 100, 138, 191, 112, 200, 120, 21, 245, 127, 99, 224, 33, 145, 68, 240]

/-- The sum of two locators is a power of α. -/
theorem exists_log {m n : Nat} (hm : m < 19) (hn : n < 19) (h : m ≠ n) : ∃ k, gfExp k = gfExp m ^^^ gfExp n := by
  have hlog : ∀ r : Fin 18, gfExp (nthD logs r.val 0) = 1 ^^^ gfExp (r.val + 1) := by decide +kernel
  have hsum : ∀ {m n : Nat}, m < n → n < 19 → ∃ k, gfExp k = gfExp m ^^^ gfExp n := by
    intro m n hlt hn
    refine ⟨m + nthD logs (n - m - 1) 0, ?_⟩
    have hr := hlog ⟨n - m - 1, by omega⟩
    dsimp only at hr
    have hn' : timesXs n 1 = timesXs m (gfExp (n - m)) := (congrArg (fun k => timesXs k 1) (by omega)).trans (timesXs_add m (n - m) 1)
    rw [show n - m - 1 + 1 = n - m by omega] at hr
    rw [gfExp_eq, timesXs_add, ← gfExp_eq, hr, timesXs_xor (by decide) (gfExp_lt _), gfExp_eq n, hn']
    rfl
  rcases Nat.lt_or_gt_of_ne h with hlt | hgt
  · exact hsum hlt hn
  · obtain ⟨k, hk⟩ := hsum hgt hm
    exact ⟨k, hk.trans (Nat.xor_comm _ _)⟩

theorem gfExp_mul_255 (k : Nat) : gfExp (255 * k) = 1 := by
  have h255 : timesXs 255 1 = 1 := by decide +kernel
  induction k with
  | zero => rfl
  | succ k ih => rw [Nat.mul_succ, gfExp_eq, timesXs_add, h255, ← gfExp_eq, ih]

theorem gfMul_gfInv (k : Nat) : gfMul (gfExp k) (gfInv (gfExp k)) = 1 := by
  have hpow : ∀ n, iterN n (fun _ x => gfMul x (gfExp k)) (gfExp k) = gfExp ((n + 1) * k) := by
    intro n
    induction n with
    | zero => rw [Nat.zero_add, Nat.one_mul]; rfl
    | succ n ih => rw [iterN_succ, ih, gfMul_gfExp_left _ (gfExp_lt k), gfExp_eq, ← timesXs_add, ← gfExp_eq, ← Nat.succ_mul]
  have hinv : gfInv (gfExp k) = gfExp (254 * k) := hpow 253
  rw [hinv, gfMul_gfExp_left _ (gfExp_lt _), gfExp_eq, ← timesXs_add, ← gfExp_eq, show k + 254 * k = 255 * k by omega, gfExp_mul_255]

theorem rsDecode_two {m n : Nat} (hm : m < 19) (hn : n < 19) (h : m ≠ n) :
    rsDecode [] 0 (gfExp m ^^^ gfExp n) (gfExp (2 * m) ^^^ gfExp (2 * n)) = .uncorrectable := by
  have hs1 : gfExp m ^^^ gfExp n ≠ 0 := fun h0 =>
    h (timesXs_injective (a := 1) (by decide) (by decide) hn hm (Nat.xor_eq_zero_iff.mp h0))
  have hpoison : [0, gfExp m ^^^ gfExp n, gfExp (2 * m) ^^^ gfExp (2 * n)] ≠ (List.range 3).map (rsSyndrome poisonPattern) := fun heq =>
    absurd (List.cons.inj heq).1 (by decide +kernel)
  have hfind : (List.range 19).find? (fun p => (0 : Nat) != 0 && gfMul 0 (rsLocator p) == gfExp m ^^^ gfExp n &&
      gfMul (gfExp m ^^^ gfExp n) (rsLocator p) == gfExp (2 * m) ^^^ gfExp (2 * n)) = none := by
    rw [List.find?_eq_none]
    exact fun _ _ => by simp
  rw [rsDecode, if_neg (by simp [hs1]), if_neg hpoison, hfind]

theorem rsDecode_erased {d e : Nat} (hd : d < 19) (he : e < 19) (h : d ≠ e) :
    rsDecode [d, e] 0 (gfExp (18 - d) ^^^ gfExp (18 - e)) (gfExp (2 * (18 - d)) ^^^ gfExp (2 * (18 - e))) = .corrected [d, e] := by
  have hs1 : gfExp (18 - d) ^^^ gfExp (18 - e) ≠ 0 := fun h0 => h (by
    have := timesXs_injective (a := 1) (by decide) (by decide) (by omega) (by omega) (Nat.xor_eq_zero_iff.mp h0)
    omega)
  have hpoison : [0, gfExp (18 - d) ^^^ gfExp (18 - e), gfExp (2 * (18 - d)) ^^^ gfExp (2 * (18 - e))] ≠
      (List.range 3).map (rsSyndrome poisonPattern) := fun heq =>
    absurd (List.cons.inj heq).1 (by decide +kernel)
  obtain ⟨k, hk⟩ := exists_log (m := 18 - d) (n := 18 - e) (by omega) (by omega) (by omega)
  have hsquare : ∀ p, gfMul (gfMul 1 (gfExp p)) (gfExp p) = gfExp (2 * p) := fun p => by
    rw [gfMul_one_left (gfExp_lt p), gfMul_gfExp_left p (gfExp_lt p), Nat.two_mul, gfExp_eq, gfExp_eq, timesXs_add]
  rw [rsDecode, if_neg (by simp [hs1]), if_neg hpoison]
  simp only [nat_xor_eq, gfMul_zero_right, Nat.xor_zero, Nat.zero_xor, rsLocator, ← hk, gfMul_gfInv, hsquare, if_true]
  rfl

theorem decodeWord_two {d e : Nat} (hd : d < 19) (he : e < 19) (h : d ≠ e) :
    decodeWord [] (List.replicate 16 0) false [(d, 1), (e, 1)] = .uncorrectable := by
  have hbeyond : rsBeyond [] [d, e] = false := by simp [rsBeyond]
  simp only [decodeWord, badDies_two h, hbeyond, rsStored_two, rsSyndrome_two hd he, Nat.zero_mul, Nat.one_mul, Bool.false_eq_true, if_false]
  exact rsDecode_two (by omega) (by omega) (by omega)

theorem decodeWord_erased {d e : Nat} (hd : d < 19) (he : e < 19) (h : d ≠ e) :
    decodeWord [d, e] (List.replicate 16 0) false [(d, 1), (e, 1)] = .corrected [d, e] := by
  have hbeyond : rsBeyond [d, e] [d, e] = false := by simp [rsBeyond]
  simp only [decodeWord, badDies_two h, hbeyond, rsStored_two, rsSyndrome_two hd he, Nat.zero_mul, Nat.one_mul, Bool.false_eq_true, if_false]
  exact rsDecode_erased hd he h

theorem decodeWord_poisoned (marks : List Nat) (beat : List Byte) : decodeWord marks beat true [] = .poisoned := rfl

theorem decodeWord_poisoned_one (marks : List Nat) (beat : List Byte) (d : Nat) {x : Nat} (h0 : x ≠ 0) :
    decodeWord marks beat true [(d, x)] = .uncorrectable := by
  simp only [decodeWord, badDies_one h0]
  rfl

/-! ## Bursts read -/

@[simp] theorem length_decodeBurst (marks : List Nat) (burst : List Byte) (po : Bool) (w : List SymErrs) :
    (decodeBurst marks burst po w).length = 4 := by simp [decodeBurst]

theorem nthD_mem {l : List Decode} {i : Nat} (h : i < l.length) : nthD l i .clean ∈ l := by
  rw [nthD, List.getElem?_eq_getElem h, Option.getD_some]
  exact List.getElem_mem h

theorem any_bad_iff {l : List Decode} (h : l.length = 4) :
    ((List.range 4).any (fun i => nthD l i .clean == .uncorrectable || nthD l i .clean == .beyond)) = true ↔
      ∃ x ∈ l, x = .uncorrectable ∨ x = .beyond := by
  simp only [List.any_eq_true, List.mem_range, Bool.or_eq_true, beq_iff_eq]
  refine ⟨fun ⟨i, hi, hx⟩ => ⟨_, nthD_mem (h ▸ hi), hx⟩, fun ⟨x, hm, hx⟩ => ?_⟩
  obtain ⟨i, hi, rfl⟩ := List.mem_iff_getElem.mp hm
  refine ⟨i, h ▸ hi, ?_⟩
  rwa [nthD, List.getElem?_eq_getElem hi, Option.getD_some]

section
variable {s : State} {b p source : Nat} {po : Bool} {f : BurstFault}

/-- What a burst leaves of its standing errors once the corrected words are written back. -/
def writtenBack (marks : List Nat) (ds : List Decode) (stay : List SymErrs) : List SymErrs :=
  (List.range 4).map (fun i => if (nthD ds i .clean).dies.any (fun d => !marks.contains d) then [] else nthD stay i [])

/-- The state a burst's corrections leave. -/
def corrected (s : State) (b : Nat) (ds : List Decode) (stay : List SymErrs) : State :=
  let dies := (ds.flatMap Decode.dies).eraseDups
  let t := s.fresh.2.setStay b stay
  if dies = [] then t else t.correctedBurst (b * 64) dies

/-- Whether some of four decodes is uncorrectable or beyond what the code covers. -/
def badWords (l : List Decode) : Bool := (List.range 4).any (fun i => nthD l i .clean == .uncorrectable || nthD l i .clean == .beyond)

theorem badWords_iff {l : List Decode} (h : l.length = 4) : badWords l = true ↔ ∃ x ∈ l, x = .uncorrectable ∨ x = .beyond :=
  any_bad_iff h

section
variable {ds : List Decode} (hf : tget? s.mem.errs b = some f)
  (hds : decodeBurst (s.marks (paStack (b * 64))) (bytesAt (s.stackLine (b / 2)) (b % 2 * 64) 64) po (burstAdd f.stay f.once) = ds)
  (hcov : ∀ x ∈ ds, x ≠ .beyond)
include hf hds hcov

/-- A burst none of whose words holds more errors than the code covers. -/
theorem burstRead_of_covered : ∃ reread : State, s.burstRead b p source po =
    let marks := s.marks (paStack (b * 64))
    let stay := writtenBack marks ds f.stay
    if !badWords ds then (false, corrected s b ds stay)
    else if !badWords (decodeBurst marks (bytesAt (s.stackLine (b / 2)) (b % 2 * 64) 64) po stay) then (false, reread)
    else (true, (corrected s b ds stay).poisonLine (b * 64) p source) := by
  have hlen : ds.length = 4 := by rw [← hds, length_decodeBurst]
  have hunseen : (List.range 4).filter (fun i => nthD ds i .clean == .beyond && !Config.beyondDetected s.freeCtr) = [] := by
    rw [List.filter_eq_nil_iff]
    intro i hi
    have hne := hcov _ (nthD_mem (hlen ▸ List.mem_range.mp hi))
    simp [hne]
  have hstay : (List.range 4).map (fun i => if ((List.range 4).filter (fun i => (nthD ds i .clean).dies.any (fun d =>
      !(s.marks (paStack (b * 64))).contains d))).contains i || false then [] else nthD f.stay i []) =
        writtenBack (s.marks (paStack (b * 64))) ds f.stay := by
    refine List.map_congr_left fun i hi => ?_
    have hmem : ((List.range 4).filter (fun i => (nthD ds i .clean).dies.any (fun d =>
        !(s.marks (paStack (b * 64))).contains d))).contains i = (nthD ds i .clean).dies.any (fun d => !(s.marks (paStack (b * 64))).contains d) := by
      rw [Bool.eq_iff_iff, List.contains_iff_mem, List.mem_filter, and_iff_right hi]
    rw [hmem, Bool.or_false]
  simp only [State.burstRead, hf, State.fresh, hds, hunseen, hstay, if_true, List.contains_nil, Bool.not_false, Bool.true_and]
  exact ⟨_, rfl⟩

theorem burstRead_of_corrected (h : ∀ x ∈ ds, x ≠ .uncorrectable) :
    s.burstRead b p source po = (false, corrected s b ds (writtenBack (s.marks (paStack (b * 64))) ds f.stay)) := by
  have hgood : badWords ds = false := by
    rw [Bool.eq_false_iff, ne_eq, badWords_iff (by rw [← hds, length_decodeBurst])]
    exact fun ⟨x, hm, hx⟩ => hx.elim (h x hm) (hcov x hm)
  obtain ⟨reread, hread⟩ := burstRead_of_covered (p := p) (source := source) hf hds hcov
  rw [hread, hgood]
  rfl

theorem burstRead_of_uncorrectable (h : ∃ x ∈ ds, x = .uncorrectable) (hagain : ∃ x ∈ decodeBurst (s.marks (paStack (b * 64)))
      (bytesAt (s.stackLine (b / 2)) (b % 2 * 64) 64) po (writtenBack (s.marks (paStack (b * 64))) ds f.stay), x = .uncorrectable ∨ x = .beyond) :
    s.burstRead b p source po =
      (true, (corrected s b ds (writtenBack (s.marks (paStack (b * 64))) ds f.stay)).poisonLine (b * 64) p source) := by
  have hbad : badWords ds = true := (badWords_iff (by rw [← hds, length_decodeBurst])).mpr (h.imp fun x hx => ⟨hx.1, Or.inl hx.2⟩)
  have hbad' := (badWords_iff (length_decodeBurst _ _ _ _)).mpr hagain
  obtain ⟨reread, hread⟩ := burstRead_of_covered (p := p) (source := source) hf hds hcov
  dsimp only at hread
  rw [hread, hbad, hbad']
  rfl

end

end

/-- Settles O27: a burst read by what its four decodes are (`burstRead_of_covered`), and words of zeros by their syndromes. -/
theorem burstsAndTheMemoryCode : Obligations.BurstsAndTheMemoryCode := by
  refine ⟨fun s b p source po h => burstRead_of_clean h p source po, fun s b p source po f hf => ?_, fun s pa dies => rfl,
    fun marks beat d x h0 => ⟨decodeWord_poisoned marks beat, decodeWord_poisoned_one marks beat d h0⟩,
    fun d x h0 => decodeWord_one x.isLt (fun h => h0 (Fin.ext h)) d.isLt,
    fun d e h => ⟨decodeWord_two d.isLt e.isLt (Fin.val_ne_of_ne h), decodeWord_erased d.isLt e.isLt (Fin.val_ne_of_ne h)⟩⟩
  intro marks burst ds dies stay t u hcov
  exact ⟨burstRead_of_corrected hf rfl hcov, burstRead_of_uncorrectable hf rfl hcov⟩
end Sys2Proof.Machine.RepairLaws
end

section
/-! PROOF. Descriptors 0x2A and 0x2B, range-table edits and the refetch of shared weights (O29, O30). -/
namespace Sys2Proof.Machine.RangeLaws
open Sys2Proof Sys2Proof.Machine.Laws Sys2Proof.Machine.ClockLaws Sys2Proof.Machine.StepLaws

/-! ## KEEP_RELEASE and TRANSPOSE_COPY (R298, R303) -/

section
variable {r : DRef} {d : Desc} {t : State}

theorem runKeep_eq : State.runKeep r d t = ((t.setMere (tmap t.mem.mere (fun l m =>
    if m.pin = some r.part ∧ (d.fld 64 64 == 0 || t.lineIn r.part l (d.fld 0 64) (d.fld 64 64)) = true then { m with pin := none } else m))).keepNow
      r.part).done r := by
  simp only [State.runKeep, State.unpin, Bool.and_eq_true, beq_iff_eq]

/-- The destination and the source of a transpose copy lie apart. -/
def transposeApart (d : Desc) : Prop :=
  d.fld 64 64 + (d.fld 160 32 - 1) * d.fld 224 32 + d.fld 128 32 * 2 ^ d.fld 256 2 ≤ d.fld 0 64 ∨
    d.fld 0 64 + (d.fld 128 32 - 1) * d.fld 192 32 + d.fld 160 32 * 2 ^ d.fld 256 2 ≤ d.fld 64 64

section
variable (hr : d.fld 128 32 ≠ 0) (hc : d.fld 160 32 ≠ 0)
include hr hc

theorem runTranspose_of_size3 (h : d.fld 256 2 = 3) : State.runTranspose r d t = t.nullDesc r mereNull 3 := by
  simp only [State.runTranspose, if_neg hr, if_neg hc, if_pos h]

theorem runTranspose_of_overlap (h : d.fld 256 2 ≠ 3) (ha : ¬ transposeApart d) : State.runTranspose r d t = t.noop r := by
  have hrows : Nat.max 1 (d.fld 128 32) = d.fld 128 32 := Nat.max_eq_right (by omega)
  have hcols : Nat.max 1 (d.fld 160 32) = d.fld 160 32 := Nat.max_eq_right (by omega)
  simp only [transposeApart, not_or, Nat.not_le] at ha
  simp only [State.runTranspose, if_neg hr, if_neg hc, if_neg h, hrows, hcols, ha, decide_true, Bool.and_self, if_true]

section
variable (h : d.fld 256 2 ≠ 3) (ha : transposeApart d)
include h ha

theorem runTranspose_of_apart : State.runTranspose r d t =
    match t.badSpan? r.part (d.fld 0 64) (d.fld 192 32) (d.fld 128 32) (d.fld 160 32 * 2 ^ d.fld 256 2) false,
      t.badSpan? r.part (d.fld 64 64) (d.fld 224 32) (d.fld 160 32) (d.fld 128 32 * 2 ^ d.fld 256 2) true with
    | some (x, why), _ => (t.xfault r.part (t.engCtx r.part engDesc).who x 1 why).noop r
    | none, some (x, why) => (t.xfault r.part (t.engCtx r.part engDesc).who x 2 why).noop r
    | none, none =>
      let e := 2 ^ d.fld 256 2
      let b := blockSide e
      (iterN ((d.fld 128 32 + b - 1) / b) (fun i u => iterN ((d.fld 160 32 + b - 1) / b) (fun j u =>
        u.transposeBlock (t.engCtx r.part engDesc) (d.fld 258 2) e (d.fld 0 64) (d.fld 192 32) (d.fld 64 64) (d.fld 224 32) (i * b) (j * b)
          (Nat.min b (d.fld 128 32 - i * b)) (Nat.min b (d.fld 160 32 - j * b))) u) t).done r := by
  have hrows : Nat.max 1 (d.fld 128 32) = d.fld 128 32 := Nat.max_eq_right (by omega)
  have hcols : Nat.max 1 (d.fld 160 32) = d.fld 160 32 := Nat.max_eq_right (by omega)
  have hcond : (decide (d.fld 0 64 < d.fld 64 64 + (d.fld 160 32 - 1) * d.fld 224 32 + d.fld 128 32 * 2 ^ d.fld 256 2) &&
      decide (d.fld 64 64 < d.fld 0 64 + (d.fld 128 32 - 1) * d.fld 192 32 + d.fld 160 32 * 2 ^ d.fld 256 2)) = false := by
    rw [Bool.and_eq_false_iff, decide_eq_false_iff_not, decide_eq_false_iff_not, Nat.not_lt, Nat.not_lt]
    exact ha
  simp only [State.runTranspose, if_neg hr, if_neg hc, if_neg h, hrows, hcols, hcond, Bool.false_eq_true, if_false] <;> rfl

end

end

end

/-! ## Range-table edits (R38 to R40) -/

theorem toNat_rangeEditBody (i : Fin 1024) (w : BitVec 128) : (rangeEditBody i.val w.toNat).toNat = i.val + w.toNat * 2 ^ 64 := by
  have hi := i.isLt
  have hw := w.isLt
  rw [rangeEditBody, BitVec.toNat_ofNat, Nat.mod_eq_of_lt (by omega)]

theorem fld_rangeEditBody (d : Desc) (i : Fin 1024) (w : BitVec 128) :
    ({ d with body := rangeEditBody i.val w.toNat } : Desc).fld 0 10 = i.val := by
  have hi := i.isLt
  simp only [Desc.fld, toNat_rangeEditBody, fldN, Nat.shiftRight_zero]
  omega

theorem at_rangeEditBody (d : Desc) (i : Fin 1024) (w : BitVec 128) :
    ({ d with body := rangeEditBody i.val w.toNat } : Desc).at 24 128 = w.toNat := by
  have hi := i.isLt
  have hw := w.isLt
  simp only [Desc.at, toNat_rangeEditBody, fldN, Nat.shiftRight_eq_div_pow]
  omega

theorem runRangeEdit_eq (r : DRef) (d : Desc) (i : Fin 1024) (w : BitVec 128) (t : State) :
    State.runRangeEdit r { d with body := rangeEditBody i.val w.toNat } t = t.rtEdit r i.val w.toNat := by
  rw [State.runRangeEdit, fld_rangeEditBody, at_rangeEditBody]

section
variable {r : DRef} {t : State} {i w : Nat}

theorem rtEdit_of_removal (hv : rtValid w = false) (h : i < t.rd F.pRtSize r.part ∧ ∀ x ∈ (t.part r.part).tier.swaps, x.2.index ≠ i) :
    t.rtEdit r i w = (t.rtSet r.part i none).done r := by
  have hfree : (decide (i < t.rd F.pRtSize r.part) && !(t.part r.part).tier.swaps.any (fun x => x.2.index == i)) = true := by simpa using h
  simp only [State.rtEdit, hv, hfree, Bool.not_false, if_true]

theorem rtEdit_of_held (hv : rtValid w = false) (h : ¬ (i < t.rd F.pRtSize r.part ∧ ∀ x ∈ (t.part r.part).tier.swaps, x.2.index ≠ i)) :
    t.rtEdit r i w = t.nullDesc r partNull i := by
  have hfree : (decide (i < t.rd F.pRtSize r.part) && !(t.part r.part).tier.swaps.any (fun x => x.2.index == i)) = false := by
    rw [Bool.eq_false_iff]
    simpa using h
  simp only [State.rtEdit, hv, hfree, Bool.not_false, Bool.false_eq_true, if_true, if_false]

theorem rtEdit_of_refused (hv : rtValid w = true) (h : t.rtEditOk r.part i (rtEntryOf w) = false) : t.rtEdit r i w = t.noop r := by
  simp only [State.rtEdit, hv, h, Bool.not_true, Bool.not_false, Bool.false_eq_true, if_true, if_false]

/-- An accepted edit, by whether the entry of a lower tier asked for reads and writes. -/
theorem rtEdit_of_accepted (hv : rtValid w = true) (h : t.rtEditOk r.part i (rtEntryOf w) = true) {cl : Bool}
    (hc : (((rtEntryOf w).target == 1 || (rtEntryOf w).target == 2) && (rtEntryOf w).perm == 3) = cl) : t.rtEdit r i w =
      ((if cl then t.clampDesc r 9 0x1004 3 1 else t).rtSet r.part i
        (some (if (rtEntryOf w).target = 0 then rtEntryOf w else { rtEntryOf w with perm := 1 }))).done { r with clamped := r.clamped || cl } := by
  simp only [State.rtEdit, hv, h, hc, Bool.not_true, Bool.false_eq_true, if_false]

theorem clamped_self : ({ r with clamped := r.clamped || false } : DRef) = r := by
  rw [Bool.or_false]

theorem target_of_rtEditOk {p : Nat} {e : RtEntry} (h : t.rtEditOk p i e = true) (h0 : e.target ≠ 0) : (e.target == 1 || e.target == 2) = true := by
  simp only [State.rtEditOk, Bool.and_eq_true] at h
  have ht := h.2
  split at ht
  next h => exact absurd h h0
  next h => rw [h]; rfl
  next h => rw [h]; rfl
  next => cases ht

theorem rtEdit_of_memory (hv : rtValid w = true) (h : t.rtEditOk r.part i (rtEntryOf w) = true)
    (h0 : (rtEntryOf w).target = 0) : t.rtEdit r i w = (t.rtSet r.part i (some (rtEntryOf w))).done r := by
  rw [rtEdit_of_accepted hv h (cl := false) (by rw [h0]; rfl), clamped_self, if_pos h0]
  rfl

theorem rtEdit_of_tier (hv : rtValid w = true) (h : t.rtEditOk r.part i (rtEntryOf w) = true)
    (h0 : (rtEntryOf w).target ≠ 0) (hp : (rtEntryOf w).perm ≠ 3) :
    t.rtEdit r i w = (t.rtSet r.part i (some { rtEntryOf w with perm := 1 })).done r := by
  rw [rtEdit_of_accepted hv h (cl := false) (by simp [hp]), clamped_self, if_neg h0]
  rfl

theorem rtEdit_of_clamped (hv : rtValid w = true) (h : t.rtEditOk r.part i (rtEntryOf w) = true)
    (h0 : (rtEntryOf w).target ≠ 0) (hp : (rtEntryOf w).perm = 3) : t.rtEdit r i w =
      ((t.clampDesc r 9 0x1004 3 1).rtSet r.part i (some { rtEntryOf w with perm := 1 })).done { r with clamped := true } := by
  rw [rtEdit_of_accepted hv h (cl := true) (by rw [target_of_rtEditOk h h0, hp]; rfl), if_neg h0, Bool.or_true]
  rfl

end

theorem rtSet_rt (s : State) (p i : Nat) (e : Option RtEntry) : ((s.rtSet p i e).part p).rt = (s.part p).rt := by
  rw [State.rtSet, part_modPart_same]

/-- A descriptor whose command ends without an issue of demand reads. -/
theorem next_edit {s t y : State} {op : Nat} {d : Desc} {r : DRef} {run : DRef → Desc → State → State} (h : s.starts op d r t)
    (hy : run r d t = y) (hh : y.atHand (.desc r)) :
    (.next (withDesc op d s run).flush : Host.Outcome State Fault Refusal) = .next (y.ran (.desc r)).flush := by
  rw [withDesc_of_run h hy hh]

/-- Settles O29: what each descriptor's run makes of its fields, and the range-table edit by VALID, the rules and its tier. -/
theorem keepTransposeAndRangeEdits : Obligations.KeepTransposeAndRangeEdits := by
  refine ⟨fun s d r t hs => ?_, fun s d r t hs hr hc => ⟨fun h => ?_, fun h ha => ?_, fun h ha => ⟨fun x why hb => ?_, fun hb => ⟨fun x why hw => ?_, fun hw => ?_⟩⟩⟩,
    fun s d i w r t hs => ⟨fun hv hf => ?_, fun hv hf => ?_, fun hv hk => ?_, fun hv hk _ => ⟨fun h0 => ?_, fun h0 hp => ?_, fun h0 hp => ?_⟩⟩,
    fun s p i e => rtSet_rt s p i e⟩
  · exact next_descriptor hs runKeep_eq
  · exact next_descriptor hs (runTranspose_of_size3 hr hc h)
  · exact next_descriptor hs (runTranspose_of_overlap hr hc h ha)
  · exact next_descriptor hs (by rw [runTranspose_of_apart hr hc h ha, hb])
  · exact next_descriptor hs (by rw [runTranspose_of_apart hr hc h ha, hb, hw])
  · exact next_descriptor hs (by rw [runTranspose_of_apart hr hc h ha, hb, hw])
  · exact next_edit hs ((runRangeEdit_eq r d i w t).trans (rtEdit_of_removal hv hf))
  · exact next_edit hs ((runRangeEdit_eq r d i w t).trans (rtEdit_of_held hv hf))
  · exact next_edit hs ((runRangeEdit_eq r d i w t).trans (rtEdit_of_refused hv hk))
  · exact next_edit hs ((runRangeEdit_eq r d i w t).trans (rtEdit_of_memory hv hk h0))
  · exact next_edit hs ((runRangeEdit_eq r d i w t).trans (rtEdit_of_tier hv hk h0 hp))
  · exact next_edit hs ((runRangeEdit_eq r d i w t).trans (rtEdit_of_clamped hv hk h0 hp))

/-! ## The refetch of shared weights (R481, R482) -/

section
variable {s : State} {r g : Nat}

theorem refetch_of_no_region (failed : Bool) (h : tget? s.mem.shared r = none) : s.refetch r g failed = s := by
  simp only [State.refetch, h]

section
variable {x : SharedRegion} (hx : tget? s.mem.shared r = some x)
include hx

theorem refetch_of_sound (failed : Bool)
    (h : x.len * gib ≤ g * 4096 ∨ ∀ l ∈ s.granLines (x.base * gib + g * 4096), s.linePoison l = false) : s.refetch r g failed = s := by
  have hcond : (decide (x.len * gib ≤ g * 4096) || !(s.granLines (x.base * gib + g * 4096)).any s.linePoison) = true := by
    rw [Bool.or_eq_true, decide_eq_true_eq, Bool.not_eq_true', List.any_eq_false]
    exact h.imp_right fun hl l hm => by rw [hl l hm]; exact Bool.false_ne_true
  simp only [State.refetch, hx, hcond, if_true]

/-- The state in which the cores that took the granule's poison are forgotten. -/
def untook (s : State) (dpa : Nat) : State :=
  { s with mem := { s.mem with took := s.mem.took.filter (fun e => e.2 != dpa / 4096) } }

section
variable (hlen : g * 4096 < x.len * gib) (hp : ∃ l ∈ s.granLines (x.base * gib + g * 4096), s.linePoison l = true)
include hlen hp

theorem refetch_of_poisoned (failed : Bool) : s.refetch r g failed =
    let dpa := x.base * gib + g * 4096
    match (if failed then (none, untook s dpa) else (untook s dpa).granule x.owner x.handle g) with
    | (none, s) => s.sharedEvent r x dpa 2
    | (some d, u) => (((s.mem.took.filter (fun e => e.2 == dpa / 4096)).map (fun e => e.1)).foldl
        (fun u c => u.modCore c (fun k => { k with rebuild := true, oldSite := u.rd F.idSite 0 c }))
        ((List.range 32).foldl (fun u i => u.lineWrite noPart hintStream (nthD (s.granLines dpa) i 0) 0
          (bytesAt d (128 * i) 128) false false) u)).sharedEvent r x dpa 1 := by
  have hcond : (decide (x.len * gib ≤ g * 4096) || !(s.granLines (x.base * gib + g * 4096)).any s.linePoison) = false := by
    rw [Bool.or_eq_false_iff, decide_eq_false_iff_not, Bool.not_eq_false', List.any_eq_true]
    exact ⟨by omega, hp⟩
  simp only [State.refetch, hx, hcond, Bool.false_eq_true, if_false]
  rfl

theorem refetch_of_failed : s.refetch r g true = (untook s (x.base * gib + g * 4096)).sharedEvent r x (x.base * gib + g * 4096) 2 :=
  refetch_of_poisoned hx hlen hp true

theorem refetch_of_no_copy (h : ((untook s (x.base * gib + g * 4096)).granule x.owner x.handle g).1 = none) : s.refetch r g false =
    ((untook s (x.base * gib + g * 4096)).granule x.owner x.handle g).2.sharedEvent r x (x.base * gib + g * 4096) 2 := by
  have hpoisoned := refetch_of_poisoned hx hlen hp false
  dsimp only at hpoisoned
  rw [hpoisoned, if_neg Bool.false_ne_true, ← Prod.mk.eta (p := (untook s _).granule x.owner x.handle g), h]

theorem refetch_of_copy {d : List Byte} (h : ((untook s (x.base * gib + g * 4096)).granule x.owner x.handle g).1 = some d) :
    let dpa := x.base * gib + g * 4096
    s.refetch r g false = (((s.mem.took.filter (fun e => e.2 == dpa / 4096)).map (fun e => e.1)).foldl
      (fun u c => u.modCore c (fun k => { k with rebuild := true, oldSite := u.rd F.idSite 0 c }))
      ((List.range 32).foldl (fun u i => u.lineWrite noPart hintStream (nthD (s.granLines dpa) i 0) 0
        (bytesAt d (128 * i) 128) false false) ((untook s dpa).granule x.owner x.handle g).2)).sharedEvent r x dpa 1 := by
  have hpoisoned := refetch_of_poisoned hx hlen hp false
  dsimp only at hpoisoned ⊢
  rw [hpoisoned, if_neg Bool.false_ne_true, ← Prod.mk.eta (p := (untook s _).granule x.owner x.handle g), h]

end

end

end

/-- Settles O30: a refetch by the region, the poison of its granule and the copy to be read (`refetch_of_poisoned`). -/
theorem sharedWeightRefetch : Obligations.SharedWeightRefetch := by
  refine fun r g failed s => ⟨fun h => next_flush (refetch_of_no_region failed h), fun x hx => ⟨fun h => next_flush (refetch_of_sound hx failed h),
    fun hlen hp => ⟨next_flush (refetch_of_failed hx hlen hp), fun h => next_flush (refetch_of_no_copy hx hlen hp h),
      fun d h => next_flush (refetch_of_copy hx hlen hp h)⟩⟩⟩

end Sys2Proof.Machine.RangeLaws
end

section
/-! PROOF. Supply, grants and temperatures (16_power_thermal.md): the supply warning and the brown-out, what CAP_COMPUTE grants, and the
sensors (O31, O34, O35). -/
namespace Sys2Proof.Machine.SupplyLaws
open Sys2Proof Sys2Proof.Machine.Laws Sys2Proof.Machine.ClockLaws Sys2Proof.Machine.PowerLaws Sys2Proof.Machine.MemoryLaws
  Sys2Proof.Machine.BoundaryLaws

/-! ## Delivery leaves every field that is no record counter of a host port -/

/-- A field place that is none of the record counters of a host port. -/
structure OffHost (g : Fld) (b i : Nat) : Prop where
  cpl : ∀ q, F.hpCpl.key q 0 ≠ g.key b i
  lost : ∀ q, F.hpRecLost.key q 0 ≠ g.key b i
  backlog : ∀ q, F.hpBacklog.key q 0 ≠ g.key b i
  sent : ∀ q, F.hpMsixSent.key q 0 ≠ g.key b i

/-- The counters lie from 0x108 to 0x120 of a port's 32 KiB, so a field below 0x108 of such a span is none of them. -/
theorem offHost_of_addr {g : Fld} {b i : Nat} (hlo : g.lo < 64) (h : g.addr b i % 0x8000 < 0x108) : OffHost g b i := by
  refine ⟨fun q => key_ne_of_addr_ne (by decide) hlo ?_, fun q => key_ne_of_addr_ne (by decide) hlo ?_,
    fun q => key_ne_of_addr_ne (by decide) hlo ?_, fun q => key_ne_of_addr_ne (by decide) hlo ?_⟩
  all_goals
    simp only [Fld.addr, Blk.base, F.hpCpl, F.hpRecLost, F.hpBacklog, F.hpMsixSent] at h ⊢
    omega

section
variable {g : Fld} {b i : Nat} (hg : OffHost g b i)
include hg

theorem rd_msixSend_of_offHost (s : State) (q v : Nat) : (s.msixSend q v).rd g b i = s.rd g b i := by
  unfold State.msixSend
  dsimp only
  split
  · rw [rd_modPort]
  · exact rd_wr_other _ _ _ _ _ _ _ _ (hg.sent q)

theorem rd_writeRec_of_offHost (s : State) (k : Nat) (r : Ring) (x : Rec) : (s.writeRec k r x).rd g b i = s.rd g b i := by
  have hcpl : ∀ (t : State) (n q : Nat), (t.add F.hpCpl n q).rd g b i = t.rd g b i :=
    fun t n q => rd_wr_other _ _ _ _ _ _ _ _ (hg.cpl q)
  unfold State.writeRec
  dsimp only
  repeat' split
  all_goals simp [rd_msixSend_of_offHost hg, hcpl]

theorem rd_toBacklog_of_offHost (s : State) (q : Nat) (o : OutRec) : (s.toBacklog q o).rd g b i = s.rd g b i := by
  unfold State.toBacklog
  dsimp only
  split
  · rw [rd_wr_other _ _ _ _ _ _ _ _ (hg.backlog q), rd_modPort]
  · rw [State.inc, rd_wr_other _ _ _ _ _ _ _ _ (hg.lost q), rd_modPort]

theorem rd_deliver_of_offHost (s : State) (o : OutRec) : (s.deliver o).rd g b i = s.rd g b i := by
  unfold State.deliver
  dsimp only
  repeat' split
  all_goals simp [rd_writeRec_of_offHost hg, rd_toBacklog_of_offHost hg]

theorem rd_flush_of_offHost (s : State) : s.flush.rd g b i = s.rd g b i := by
  unfold State.flush
  split
  · rfl
  · refine List.foldlRecOn (motive := fun t : State => t.rd g b i = s.rd g b i) _ State.deliver rfl fun t ht o _ => ?_
    rw [rd_deliver_of_offHost hg, ht]

end

/-! ## The supply warning, its clear and the brown-out (R581 to R586) -/

section
variable {s : State} {v : Nat}

theorem supplyWarning_of_above (h : 100 * s.rd F.pwrVwarnTh ≤ v) : s.supplyWarning v = s := if_pos h

theorem supplyWarning_of_first (h : v < 100 * s.rd F.pwrVwarnTh) (hw : s.rd F.pwrVwarn = 0) : s.supplyWarning v =
    (let t := (s.wr F.pwrVwarn 1).modPower (fun w => { w with vlow := v })
     ({ t with rst := { t.rst with vwarnN := false } } : State).dip.supplyEvent 1).unstableLook := by
  have hflag : s.flag F.pwrVwarn = false := by rw [State.flag, hw]; rfl
  simp only [State.supplyWarning, if_neg (Nat.not_le.mpr h), hflag, Bool.false_eq_true, if_false]

theorem supplyWarning_of_latched (h : v < 100 * s.rd F.pwrVwarnTh) (hw : s.rd F.pwrVwarn = 1) : s.supplyWarning v =
    ((s.modPower (fun w => { w with vlow := Nat.min w.vlow v })).dip).unstableLook := by
  have hflag : s.flag F.pwrVwarn = true := by rw [State.flag, hw]; rfl
  simp only [State.supplyWarning, if_neg (Nat.not_le.mpr h), hflag, if_true]

theorem supplyClear_of_refused (h : s.rd F.pwrVwarn = 0 ∨ s.rst.brown = true ∨ v < 100 * (s.rd F.pwrVwarnTh + 10)) : s.supplyClear v = s := by
  refine if_pos ?_
  rcases h with h | h | h
  · simp [State.flag, h]
  · simp [h]
  · simp [h]

theorem brownOut_of_refused (h : 100 * s.rd F.pwrVrstTh ≤ v ∨ s.rst.brown = true ∨ s.rst.powered = false) : s.brownOut v = s := by
  refine if_pos ?_
  rcases h with h | h | h
  · simp [h]
  · simp [h]
  · simp [h]

theorem brownOut_of_taken (h : v < 100 * s.rd F.pwrVrstTh) (hb : s.rst.brown = false) (hp : s.rst.powered = true) : s.brownOut v =
    (((s.modRst (fun r => { r with brown := true })).latchAll8).supplyEvent 5).raise 2 false :=
  (if_neg (by simp [h, hb, hp])).trans (if_pos hp)

theorem brownRelease_of_refused (h : s.rst.brown = false ∨ v < 100 * (s.rd F.pwrVwarnTh + 10)) : s.brownRelease v = s := by
  refine if_pos ?_
  rcases h with h | h
  · simp [h]
  · simp [h]

theorem brownRelease_of_taken (hb : s.rst.brown = true) (h : 100 * (s.rd F.pwrVwarnTh + 10) ≤ v) :
    s.brownRelease v = (s.modRst (fun r => { r with brown := false })).clearWarning :=
  if_neg (by simp [hb, Nat.not_lt.mpr h])

theorem rd_vwarn_clearWarning (s : State) : s.clearWarning.rd F.pwrVwarn = 0 := by
  have hrestore : ∀ t : State, t.showRestore.rd F.pwrVwarn = t.rd F.pwrVwarn :=
    fun t => rd_wr_other _ _ _ _ _ _ _ _ (key_ne_of_lo_ne (by decide) (by decide) (by decide) _ _ _ _)
  exact (hrestore _).trans (rd_wr_same s F.pwrVwarn 0 0 0)

end

/-- Settles O31: each command by its threshold and its latch. -/
theorem supplyAndBrownOut : Obligations.SupplyAndBrownOut := by
  intro v s vN clear
  have hwarning : ∀ {t : State}, s.rst.powered = true → s.supplyWarning v.toNat = t → exec (.supplyWarning v) s = .next t.flush :=
    fun hp h => next_flush ((if_pos hp).trans h)
  refine ⟨fun h => ?_, fun hp h hw => hwarning hp (supplyWarning_of_first h hw), fun hp h hw => hwarning hp (supplyWarning_of_latched h hw),
    fun h => next_flush (supplyClear_of_refused h), fun hw hb h => next_flush (supplyClear_of_taken hw hb h), fun h => ?_, fun h hb hp => ?_,
    fun hb h => ⟨_, next_flush (brownRelease_of_taken hb h), rfl, rfl, rfl, rd_vwarn_clearWarning _, rfl⟩,
    fun h => next_flush (brownRelease_of_refused h)⟩
  · cases hp : s.rst.powered
    · exact next_flush (if_neg (by rw [State.fed, hp]; exact Bool.false_ne_true))
    · exact hwarning hp (supplyWarning_of_above (h.resolve_left (by simp [hp])))
  · exact next_closed (brownOut_of_refused h)
  · exact next_closed (brownOut_of_taken h hb hp)

/-! ## The grants of CAP_COMPUTE (R593 to R595) -/

/-- Every core's side of a computation has a property. -/
def AllCores (P : CapCore → Prop) (cs : List CapCore) : Prop := ∀ c ∈ cs, P c

theorem AllCores.append {P : CapCore → Prop} {a b : List CapCore} (ha : AllCores P a) (hb : AllCores P b) : AllCores P (a ++ b) :=
  List.forall_mem_append.mpr ⟨ha, hb⟩

theorem AllCores.filter {P : CapCore → Prop} {cs : List CapCore} (h : AllCores P cs) (q : CapCore → Bool) : AllCores P (cs.filter q) :=
  fun c hc => h c (List.mem_of_mem_filter hc)

section
variable {P : CapCore → Prop} (hraise : ∀ c, P c → c.lim < c.d → P { c with lim := c.lim + 1 })
include hraise

theorem allCores_capRound (pr : Nat) {a : List CapCore × Int × Nat} (h : AllCores P a.1) : AllCores P (capRound pr a).1 := by
  refine List.foldlRecOn (motive := fun x : List CapCore × Int × Nat => AllCores P x.1) a.1 _ (by simp [AllCores]) fun x hx c hc => ?_
  split
  next hlt =>
    simp only [Bool.and_eq_true, decide_eq_true_eq] at hlt
    exact hx.append (List.forall_mem_singleton.mpr (hraise c (h c hc) hlt.1.2))
  next => exact hx.append (List.forall_mem_singleton.mpr (h c hc))

theorem allCores_priorities (prs : List Nat) {a : List CapCore × Int × Nat} (h : AllCores P a.1) :
    AllCores P (prs.foldl (fun a pr => capRounds pr a) a).1 :=
  List.foldlRecOn (motive := fun x : List CapCore × Int × Nat => AllCores P x.1) _ _ h fun _ hx pr _ =>
    List.foldlRecOn (motive := fun x : List CapCore × Int × Nat => AllCores P x.1) _ _ hx fun _ hy _ _ => allCores_capRound hraise pr hy

end

/-- What bounds the limit of a core from above, its floor of 8 aside. -/
def limitTop (s : State) (c : Nat) : Nat := Nat.min 64 (Nat.min (s.zoneLimit (s.dieOf c)) s.restoreCeiling)

/-- A core's grant lies between 8 and the larger of 8 and its bound. -/
def Bounded (s : State) (c : CapCore) : Prop :=
  c.core ∈ s.activeCores ∧ 8 ≤ c.lim ∧ c.lim ≤ Nat.max 8 (limitTop s c.core) ∧ c.d ≤ limitTop s c.core

theorem Bounded.raise {s : State} {c : CapCore} (h : Bounded s c) (hlt : c.lim < c.d) : Bounded s { c with lim := c.lim + 1 } := by
  obtain ⟨hact, h8, -, hd⟩ := h
  exact ⟨hact, Nat.le_succ_of_le h8, (Nat.le_trans hlt hd).trans (Nat.le_max_right _ _), hd⟩

/-- What bounds a core's limit rests on the zones' limits, the restores and the sites. -/
theorem limitTop_congr {s t : State} (hl : t.power.ld = s.power.ld) (hm : t.mem = s.mem) (hs : t.power.rSupply = s.power.rSupply)
    (hc : t.power.rCrit = s.power.rCrit) (hsite : ∀ c, t.rd F.idSite 0 c = s.rd F.idSite 0 c) (c : Nat) : limitTop t c = limitTop s c := by
  simp only [limitTop, State.zoneLimit, State.dieLimit, State.memLimit, State.dieOf, State.restoreCeiling, hl, hm, hs, hc, hsite]

theorem capCompute_bounded (s : State) : ∀ e ∈ s.capCompute.power.next, e.1 ∈ s.activeCores ∧ 8 ≤ e.2 ∧ e.2 ≤ Nat.max 8 (limitTop s e.1) := by
  unfold State.capCompute
  extract_lets s1 t pt excess act codes s2 mk cs b low s3 order r short capped s4
  have hcores : act = s.activeCores := rfl
  have htop : ∀ c, limitTop s2 c = limitTop s c := limitTop_congr rfl rfl rfl rfl fun c =>
    rd_wr_other _ _ _ _ _ _ _ _ (key_ne_of_lo_ne (by decide) (by decide) (by decide) _ _ _ _)
  have hcs : AllCores (Bounded s) cs := by
    refine List.forall_mem_map.mpr fun e he => ?_
    obtain ⟨c, hc, rfl⟩ := List.mem_map.mp he
    refine ⟨hc, Nat.le_refl 8, Nat.le_max_left _ _, ?_⟩
    rw [← htop]
    refine Nat.le_min.mpr ⟨(Nat.min_le_right _ _).trans (restoreCeiling_le s2), Nat.le_min.mpr ⟨?_, Nat.min_le_right _ _⟩⟩
    exact (Nat.min_le_left _ _).trans (Nat.min_le_right _ _)
  have hr : AllCores (Bounded s) r.1 := by
    simp only [r]
    split
    · exact hcs
    · exact allCores_priorities (fun c h hlt => h.raise hlt) [3, 2, 1, 0] ((hcs.filter _).append (hcs.filter _))
  have hs4 : ∀ e ∈ s4.power.next, e.1 ∈ s.activeCores ∧ 8 ≤ e.2 ∧ e.2 ≤ Nat.max 8 (limitTop s e.1) := by
    intro e he
    obtain ⟨c, -, hc⟩ := List.mem_filterMap.mp he
    obtain ⟨x, hx, rfl⟩ := Option.map_eq_some_iff.mp hc
    obtain rfl : x.core = c := by simpa using List.find?_some hx
    obtain ⟨hact, h8, hle, -⟩ := hr x (List.mem_of_find?_eq_some hx)
    exact ⟨hact, h8, hle⟩
  refine List.foldlRecOn (motive := fun u : State => ∀ e ∈ u.power.next, e.1 ∈ s.activeCores ∧ 8 ≤ e.2 ∧ e.2 ≤ Nat.max 8 (limitTop s e.1))
    capped _ hs4 fun u hu p _ => ?_
  simpa only [apply_ite State.power, apply_ite PowerState.next, capEvent_power, modPower_power, ite_self] using hu

theorem issueLimit_le_latched (s : State) (c : Nat) : s.issueLimit c ≤ s.latchedLimit c := by
  unfold State.issueLimit
  dsimp only
  split
  · exact (Nat.min_le_left _ _).trans (Nat.min_le_left _ _)
  · exact Nat.min_le_left _ _

theorem issueLimit_le_zone (s : State) (c : Nat) : s.issueLimit c ≤ s.zoneLimit (s.dieOf c) := by
  unfold State.issueLimit
  dsimp only
  split
  · exact (Nat.min_le_left _ _).trans (Nat.min_le_right _ _)
  · exact Nat.min_le_right _ _

theorem issueLimit_le_warning {s : State} (h : s.rd F.pwrVwarn = 1) (c : Nat) : s.issueLimit c ≤ 8 := by
  have hflag : s.flag F.pwrVwarn = true := by rw [State.flag, h]; rfl
  unfold State.issueLimit
  rw [if_pos hflag]
  exact Nat.min_le_right _ _

theorem latchedLimit_of_held {s : State} {c : Nat} (hc : c < 288) (h : s.rd F.pwrTcrit = 1 ∨ s.rst.brown = true) :
    s.latchLimits.latchedLimit c = 8 := by
  have hheld : (s.flag F.pwrTcrit || s.rst.brown) = true := by
    rcases h with h | h
    · rw [State.flag, h]; rfl
    · rw [h, Bool.or_true]
  simp only [State.latchedLimit, latchLimits_power, boundaryPower, boundaryLimits, hheld, if_true]
  rw [tgetD_filter_tabulate _ (fun _ => 8), if_pos (List.mem_range.mpr hc)]

/-- Settles O34: the grants stay bounded through every round (`capCompute_bounded`), the issue limit is the least of its parts. -/
theorem grantsStayWithinTheLimits : Obligations.GrantsStayWithinTheLimits := by
  refine ⟨fun s h => next_flush (if_neg h), fun s h => ⟨_, exec_capCompute h, ?_⟩,
    fun s c => ⟨issueLimit_le_latched s c, issueLimit_le_zone s c, fun h => issueLimit_le_warning h c⟩,
    fun s c hc h => latchedLimit_of_held hc h⟩
  rw [flush_power]
  exact capCompute_bounded s

/-! ## A round of the sensors (R308, R598, R601) -/

section
variable {α : Type} {φ : State → α} {f : State → Nat → State}

/-- A fold over a range leaves what no step of it changes. -/
theorem foldl_range_keeps {n : Nat} (h : ∀ u e, e < n → φ (f u e) = φ u) (s : State) : φ ((List.range n).foldl f s) = φ s :=
  List.foldlRecOn (motive := fun u : State => φ u = φ s) _ f rfl fun u hu e he => (h u e (List.mem_range.mp he)).trans hu

/-- What only step d of a fold over a range changes is as that step leaves it. -/
theorem foldl_range_at {n d : Nat} (hd : d < n) (h : ∀ u e, e < n → e ≠ d → φ (f u e) = φ u) (s : State) :
    φ ((List.range n).foldl f s) = φ (f ((List.range d).foldl f s) d) := by
  induction n with
  | zero => omega
  | succ n ih =>
    rw [List.range_succ, List.foldl_append, List.foldl_cons, List.foldl_nil]
    by_cases hdn : d = n
    · rw [hdn]
    · rw [h _ n (by omega) (Ne.symm hdn)]
      exact ih (by omega) fun u e he hne => h u e (by omega) hne

end

/-- What a round reads of a zone: its hottest sensor, and the maximum so far. -/
def zoneRead (r : List Int) (s : State) (z : Nat) (is : List Nat) : State :=
  (s.wr F.pwrZtemp (s.hottest r is) 0 z).wr F.pwrZtempMax (Nat.max (s.hottest r is) (s.rd F.pwrZtempMax 0 z)) 0 z

/-- What a round reads of a stack. -/
def stackRead (r : List Int) (s : State) (n : Nat) : State :=
  let t := s.hottest r (stackSensors n)
  (s.wr F.memTemp t 0 n).wr F.memRefresh (if 95 ≤ t then 2 else if 85 ≤ t then 1 else 0) 0 n

/-- The state a round begins from: the input's averages, and the dips of the last 60 s. -/
def inputRead (s : State) (vin iin : Nat) : State :=
  (((s.modPower (fun w => { w with rounds := w.rounds + 1 })).wr F.pwrVin vin).wr F.pwrIin iin).showDips

def diesRead (r : List Int) (s : State) : State := (List.range 8).foldl (fun s d => zoneRead r s d (dieSensors d)) s
def hubsRead (r : List Int) (s : State) : State := (List.range 2).foldl (fun s h => zoneRead r s (8 + h) (hubSensors h)) s
def stacksRead (r : List Int) (s : State) : State := (List.range 24).foldl (fun s n => stackRead r s n) s

theorem sensorRead_eq (s : State) (r : List Int) (vin iin : Nat) :
    s.sensorRead r vin iin = (stacksRead r (hubsRead r (diesRead r (inputRead s vin iin)))).criticalLook := rfl

theorem hottest_congr {s t : State} (h : t.mgmt = s.mgmt) (r : List Int) (is : List Nat) : t.hottest r is = s.hottest r is := by
  simp only [State.hottest, State.sensorOffset, h]

theorem hottest_lt (s : State) (r : List Int) (is : List Nat) : s.hottest r is < 256 := by
  unfold State.hottest capN
  dsimp only
  split <;> omega

section
variable (r : List Int) (s : State)

theorem diesRead_mgmt : (diesRead r s).mgmt = s.mgmt :=
  foldl_range_keeps (φ := State.mgmt) (f := fun s d => zoneRead r s d (dieSensors d)) (n := 8) (fun _ _ _ => rfl) s

theorem hubsRead_mgmt : (hubsRead r s).mgmt = s.mgmt :=
  foldl_range_keeps (φ := State.mgmt) (f := fun s h => zoneRead r s (8 + h) (hubSensors h)) (n := 2) (fun _ _ _ => rfl) s

/-! ### Where the fields of a round lie -/

section
variable {g : Fld} {b i : Nat}

theorem rd_zoneRead (z : Nat) (is : List Nat) (ht : F.pwrZtemp.key 0 z ≠ g.key b i) (hm : F.pwrZtempMax.key 0 z ≠ g.key b i) :
    (zoneRead r s z is).rd g b i = s.rd g b i := by
  rw [zoneRead, rd_wr_other _ _ _ _ _ _ _ _ hm, rd_wr_other _ _ _ _ _ _ _ _ ht]

theorem rd_stackRead (n : Nat) (ht : F.memTemp.key 0 n ≠ g.key b i) (hm : F.memRefresh.key 0 n ≠ g.key b i) :
    (stackRead r s n).rd g b i = s.rd g b i := by
  simp only [stackRead]
  rw [rd_wr_other _ _ _ _ _ _ _ _ hm, rd_wr_other _ _ _ _ _ _ _ _ ht]

/-- A field that the reading of zones z of a range leaves. -/
structure OffZone (g : Fld) (b i : Nat) (z : Nat) : Prop where
  temp : F.pwrZtemp.key 0 z ≠ g.key b i
  max : F.pwrZtempMax.key 0 z ≠ g.key b i

theorem rd_diesRead (h : ∀ d < 8, OffZone g b i d) : (diesRead r s).rd g b i = s.rd g b i :=
  foldl_range_keeps (φ := fun t => t.rd g b i) (fun u d hd => rd_zoneRead r u d _ (h d hd).temp (h d hd).max) s

theorem rd_hubsRead (h : ∀ k < 2, OffZone g b i (8 + k)) : (hubsRead r s).rd g b i = s.rd g b i :=
  foldl_range_keeps (φ := fun t => t.rd g b i) (fun u k hk => rd_zoneRead r u (8 + k) _ (h k hk).temp (h k hk).max) s

theorem rd_stacksRead (h : ∀ n < 24, F.memTemp.key 0 n ≠ g.key b i ∧ F.memRefresh.key 0 n ≠ g.key b i) :
    (stacksRead r s).rd g b i = s.rd g b i :=
  foldl_range_keeps (φ := fun t => t.rd g b i) (fun u n hn => rd_stackRead r u n (h n hn).1 (h n hn).2) s

/-- A field of the power block is none of a stack's temperatures. -/
theorem offStacks (hb : g.blk = .pwr) (hlo : g.lo < 64) (n : Nat) (hn : n < 24) : F.memTemp.key 0 n ≠ g.key b i ∧ F.memRefresh.key 0 n ≠ g.key b i := by
  have ha : g.addr b i = 0x600000 + g.off + g.stride * i := by simp [Fld.addr, hb, Blk.base]
  refine ⟨key_ne_of_addr_ne (by decide) hlo ?_, key_ne_of_addr_ne (by decide) hlo ?_⟩
  all_goals
    rw [ha]
    simp only [Fld.addr, Blk.base, F.memTemp, F.memRefresh]
    omega

end

theorem offZone_other {y z : Nat} (h : y ≠ z) : OffZone F.pwrZtemp 0 y z ∧ OffZone F.pwrZtempMax 0 y z := by
  have hlo : ∀ {f g : Fld} {b i b' i' : Nat}, f.lo < 64 → g.lo < 64 → f.lo ≠ g.lo → f.key b i ≠ g.key b' i' :=
    fun hf hg h => key_ne_of_lo_ne hf hg h _ _ _ _
  refine ⟨⟨key_ne_of_addr_ne (by decide) (by decide) ?_, hlo (by decide) (by decide) (by decide)⟩,
    ⟨hlo (by decide) (by decide) (by decide), key_ne_of_addr_ne (by decide) (by decide) ?_⟩⟩
  all_goals
    simp only [Fld.addr, F.pwrZtemp, F.pwrZtempMax]
    omega

/-- A field of the power block below its zones' registers. -/
theorem offZone_of_below {g : Fld} (hb : g.blk = .pwr) (hlo : g.lo < 64) (ho : g.off < 0x40) (hs : g.stride = 0) (b i z : Nat) : OffZone g b i z := by
  have ha : g.addr b i = 0x600000 + g.off := by simp [Fld.addr, hb, hs, Blk.base]
  refine ⟨key_ne_of_addr_ne (by decide) hlo ?_, key_ne_of_addr_ne (by decide) hlo ?_⟩
  all_goals
    rw [ha]
    simp only [Fld.addr, Blk.base, F.pwrZtemp, F.pwrZtempMax]
    omega

end

/-! ### What a round leaves -/

section
variable {r : List Int} {s : State}

theorem rd_zoneRead_temp (u : State) (hm : u.mgmt = s.mgmt) (z : Nat) (is : List Nat) :
    (zoneRead r u z is).rd F.pwrZtemp 0 z = s.hottest r is := by
  rw [zoneRead, rd_wr_other _ _ _ _ _ _ _ _ (key_ne_of_lo_ne (by decide) (by decide) (by decide) _ _ _ _), rd_wr_same, hottest_congr hm]
  exact Nat.mod_eq_of_lt (hottest_lt s r is)

theorem rd_zoneRead_max (u : State) (hm : u.mgmt = s.mgmt) (z : Nat) (is : List Nat) (hx : u.rd F.pwrZtempMax 0 z < 256) :
    (zoneRead r u z is).rd F.pwrZtempMax 0 z = Nat.max (s.hottest r is) (u.rd F.pwrZtempMax 0 z) := by
  rw [zoneRead, rd_wr_same, hottest_congr hm]
  exact Nat.mod_eq_of_lt (Nat.max_lt.mpr ⟨hottest_lt s r is, hx⟩)

theorem partDies_mgmt (u : State) (d : Nat) : ((List.range d).foldl (fun s d => zoneRead r s d (dieSensors d)) u).mgmt = u.mgmt :=
  foldl_range_keeps (φ := State.mgmt) (f := fun s d => zoneRead r s d (dieSensors d)) (fun _ _ _ => rfl) u

theorem diesRead_temp (u : State) (hm : u.mgmt = s.mgmt) {d : Nat} (hd : d < 8) : (diesRead r u).rd F.pwrZtemp 0 d = s.hottest r (dieSensors d) := by
  refine (foldl_range_at (φ := fun t => t.rd F.pwrZtemp 0 d) (f := fun s d => zoneRead r s d (dieSensors d)) hd (fun t e _ hne => ?_) u).trans ?_
  · exact rd_zoneRead r t e _ (offZone_other (Ne.symm hne)).1.temp (offZone_other (Ne.symm hne)).1.max
  · exact rd_zoneRead_temp _ ((partDies_mgmt u d).trans hm) d _

theorem diesRead_max (u : State) (hm : u.mgmt = s.mgmt) {d : Nat} (hd : d < 8) (hx : u.rd F.pwrZtempMax 0 d < 256) :
    (diesRead r u).rd F.pwrZtempMax 0 d = Nat.max (s.hottest r (dieSensors d)) (u.rd F.pwrZtempMax 0 d) := by
  have hbefore : ((List.range d).foldl (fun s d => zoneRead r s d (dieSensors d)) u).rd F.pwrZtempMax 0 d = u.rd F.pwrZtempMax 0 d :=
    foldl_range_keeps (φ := fun t => t.rd F.pwrZtempMax 0 d) (f := fun s d => zoneRead r s d (dieSensors d)) (fun t e he =>
      rd_zoneRead r t e _ (offZone_other (y := d) (z := e) (by omega)).2.temp (offZone_other (y := d) (z := e) (by omega)).2.max) u
  refine (foldl_range_at (φ := fun t => t.rd F.pwrZtempMax 0 d) (f := fun s d => zoneRead r s d (dieSensors d)) hd (fun t e _ hne => ?_) u).trans ?_
  · exact rd_zoneRead r t e _ (offZone_other (Ne.symm hne)).2.temp (offZone_other (Ne.symm hne)).2.max
  · exact (rd_zoneRead_max _ ((partDies_mgmt u d).trans hm) d _ (hbefore ▸ hx)).trans (by rw [hbefore])

theorem hubsRead_temp (u : State) (hm : u.mgmt = s.mgmt) {h : Nat} (hh : h < 2) :
    (hubsRead r u).rd F.pwrZtemp 0 (8 + h) = s.hottest r (hubSensors h) := by
  have hbefore : ((List.range h).foldl (fun s h => zoneRead r s (8 + h) (hubSensors h)) u).mgmt = u.mgmt :=
    foldl_range_keeps (φ := State.mgmt) (f := fun s h => zoneRead r s (8 + h) (hubSensors h)) (fun _ _ _ => rfl) u
  refine (foldl_range_at (φ := fun t => t.rd F.pwrZtemp 0 (8 + h)) (f := fun s h => zoneRead r s (8 + h) (hubSensors h)) hh (fun t e _ hne => ?_) u).trans ?_
  · have hz := (offZone_other (y := 8 + h) (z := 8 + e) (by omega)).1
    exact rd_zoneRead r t (8 + e) _ hz.temp hz.max
  · exact rd_zoneRead_temp _ (hbefore.trans hm) (8 + h) _

/-- The temperature and the refresh rate of two stacks stand in two registers. -/
theorem offStack_other {m n : Nat} (h : m ≠ n) :
    (F.memTemp.key 0 m ≠ F.memTemp.key 0 n ∧ F.memRefresh.key 0 m ≠ F.memTemp.key 0 n) ∧
      (F.memTemp.key 0 m ≠ F.memRefresh.key 0 n ∧ F.memRefresh.key 0 m ≠ F.memRefresh.key 0 n) := by
  refine ⟨⟨key_ne_of_addr_ne (by decide) (by decide) ?_, key_ne_of_addr_ne (by decide) (by decide) ?_⟩,
    key_ne_of_addr_ne (by decide) (by decide) ?_, key_ne_of_addr_ne (by decide) (by decide) ?_⟩
  all_goals
    simp only [Fld.addr, Blk.base, F.memTemp, F.memRefresh]
    omega

theorem rd_stackRead_own (u : State) (hm : u.mgmt = s.mgmt) (n : Nat) :
    (stackRead r u n).rd F.memTemp 0 n = s.hottest r (stackSensors n) ∧ (stackRead r u n).rd F.memRefresh 0 n =
      (if 95 ≤ s.hottest r (stackSensors n) then 2 else if 85 ≤ s.hottest r (stackSensors n) then 1 else 0) := by
  simp only [stackRead]
  rw [rd_wr_other _ _ _ _ _ _ _ _ (key_ne_of_lo_ne (by decide) (by decide) (by decide) _ _ _ _), rd_wr_same, rd_wr_same, hottest_congr hm]
  refine ⟨Nat.mod_eq_of_lt (hottest_lt s r _), ?_⟩
  split
  · rfl
  · split
    · rfl
    · rfl

theorem stacksRead_at (u : State) (hm : u.mgmt = s.mgmt) {n : Nat} (hn : n < 24) :
    (stacksRead r u).rd F.memTemp 0 n = s.hottest r (stackSensors n) ∧ (stacksRead r u).rd F.memRefresh 0 n =
      (if 95 ≤ s.hottest r (stackSensors n) then 2 else if 85 ≤ s.hottest r (stackSensors n) then 1 else 0) := by
  have hbefore : ((List.range n).foldl (fun s n => stackRead r s n) u).mgmt = s.mgmt :=
    (foldl_range_keeps (φ := State.mgmt) (f := fun s n => stackRead r s n) (fun _ _ _ => rfl) u).trans hm
  have hown := rd_stackRead_own (r := r) _ hbefore n
  refine ⟨(foldl_range_at (φ := fun t => t.rd F.memTemp 0 n) (f := fun s n => stackRead r s n) hn (fun t e _ hne => ?_) u).trans hown.1,
    (foldl_range_at (φ := fun t => t.rd F.memRefresh 0 n) (f := fun s n => stackRead r s n) hn (fun t e _ hne => ?_) u).trans hown.2⟩
  · exact rd_stackRead r t e (offStack_other hne).1.1 (offStack_other hne).1.2
  · exact rd_stackRead r t e (offStack_other hne).2.1 (offStack_other hne).2.2

/-! ### Critical temperatures (R601, R602) -/

theorem criticalLook_of_none (h : s.rd F.pwrTcrit = 1 ∨ s.zoneAt 110 105 = none) : s.criticalLook = s := by
  rcases h with h | h
  · exact if_pos (by rw [State.flag, h]; rfl)
  · unfold State.criticalLook
    rw [h]
    split
    · rfl
    · rfl

theorem criticalLook_of_hot {z x k : Nat} (h : s.rd F.pwrTcrit = 0) (hz : s.zoneAt 110 105 = some (z, x, k)) : s.criticalLook =
    (let t := (s.wr F.pwrTcrit 1).latchAll8
     let u : State := { t with rst := { t.rst with thermN := false } }
     u.thermalEvent z 3 (u.shownLimit z) 8) := by
  have hflag : s.flag F.pwrTcrit = false := by rw [State.flag, h]; rfl
  unfold State.criticalLook
  rw [if_neg (by simp [hflag]), hz]
  rfl

/-- The look at the critical temperature leaves every field but TCRIT. -/
theorem rd_criticalLook {g : Fld} {b i : Nat} (hk : F.pwrTcrit.key 0 0 ≠ g.key b i) : s.criticalLook.rd g b i = s.rd g b i := by
  unfold State.criticalLook
  split
  · rfl
  · split
    · rfl
    · exact rd_wr_other s F.pwrTcrit g 1 0 0 b i hk

theorem rd_tcrit_criticalLook (h : ∃ d, d < 8 ∧ 110 ≤ s.rd F.pwrZtemp 0 d) : s.criticalLook.rd F.pwrTcrit = 1 := by
  unfold State.criticalLook
  split
  next hflag => simpa [State.flag] using hflag
  next =>
    obtain ⟨d, hd, hhot⟩ := h
    have hsome : s.zoneAt 110 105 ≠ none := by
      unfold State.zoneAt
      split
      · simp
      next hnone =>
        rw [List.find?_eq_none] at hnone
        exact absurd hhot (by simpa using hnone d (List.mem_range.mpr (by omega)))
    split
    next hnone => exact absurd hnone hsome
    next => exact rd_wr_same s F.pwrTcrit 1 0 0

theorem criticalEnd_of_refused (h : s.rd F.pwrTcrit = 0 ∨ s.critical 4 = true) : s.criticalEnd = s := by
  refine if_pos ?_
  rcases h with h | h
  · simp [State.flag, h]
  · simp [h]

/-- The later of two numbers by a key, the earlier where they are equal. -/
theorem foldl_max_le {f : Nat → Nat} (l : List Nat) (m : Nat) :
    (∀ y, (y = m ∨ y ∈ l) → f y ≤ f (l.foldl (fun m z => if f m < f z then z else m) m)) ∧
      (l.foldl (fun m z => if f m < f z then z else m) m = m ∨ l.foldl (fun m z => if f m < f z then z else m) m ∈ l) := by
  induction l generalizing m with
  | nil => exact ⟨fun y hy => by obtain rfl := hy.resolve_right (by simp); exact Nat.le_refl _, Or.inl rfl⟩
  | cons z l ih =>
    obtain ⟨hle, hmem⟩ := ih (if f m < f z then z else m)
    have hhead : ∀ y, y = m ∨ y = z → f y ≤ f (if f m < f z then z else m) := by
      intro y hy
      split
      · rcases hy with rfl | rfl <;> omega
      · rcases hy with rfl | rfl <;> omega
    refine ⟨fun y hy => ?_, ?_⟩
    · rcases hy with rfl | hy
      · exact (hhead y (Or.inl rfl)).trans (hle _ (Or.inl rfl))
      · rcases List.mem_cons.mp hy with rfl | hy
        · exact (hhead y (Or.inr rfl)).trans (hle _ (Or.inl rfl))
        · exact hle y (Or.inr hy)
    · rw [List.foldl_cons]
      rcases hmem with hmem | hmem
      · rw [hmem]
        split
        · exact Or.inr (List.mem_cons_self ..)
        · exact Or.inl rfl
      · exact Or.inr (List.mem_cons_of_mem _ hmem)

/-- The hottest zone. -/
def hotZone (s : State) : Nat := (List.range 10).foldl (fun m z => if s.rd F.pwrZtemp 0 m < s.rd F.pwrZtemp 0 z then z else m) 0

theorem hotZone_lt (s : State) : hotZone s < 10 := by
  rcases (foldl_max_le (f := fun z => s.rd F.pwrZtemp 0 z) (List.range 10) 0).2 with h | h
  · exact Nat.lt_of_le_of_lt (Nat.le_of_eq h) (by decide)
  · exact List.mem_range.mp h

theorem le_hotZone (s : State) {y : Nat} (h : y < 10) : s.rd F.pwrZtemp 0 y ≤ s.rd F.pwrZtemp 0 (hotZone s) :=
  (foldl_max_le (f := fun z => s.rd F.pwrZtemp 0 z) (List.range 10) 0).1 y (Or.inr (List.mem_range.mpr h))

theorem criticalEnd_of_taken (h : s.rd F.pwrTcrit = 1) (hc : s.critical 4 = false) : s.criticalEnd =
    (let u := ((s.wr F.pwrTcrit 0).modPower (fun w => { w with rCrit := 4 })).showRestore
     let u : State := { u with rst := { u.rst with thermN := true } }
     u.thermalEvent (hotZone s) 4 8 (u.shownLimit (hotZone s))) :=
  if_neg (by simp [State.flag, h, hc])

theorem thermalTrip_of_refused (h : s.zoneAt 120 110 = none ∨ s.rst.powered = false ∨ s.rst.off = true) : s.thermalTrip = s := by
  unfold State.thermalTrip
  split
  · rfl
  next hz =>
    refine if_pos ?_
    rcases h with h | h | h
    · rw [h] at hz
      cases hz
    · simp [h]
    · simp [h]

theorem thermalTrip_of_taken {x : Nat × Nat × Nat} (hz : s.zoneAt 120 110 = some x) (hp : s.rst.powered = true) (ho : s.rst.off = false) :
    s.thermalTrip.rst.off = true ∧ s.thermalTrip.rst.pwrgd = false ∧ s.thermalTrip.rst.thermN = false ∧ s.thermalTrip.rst.trip = some x := by
  have hcond : ¬ (!s.rst.powered || s.rst.off) = true := by simp [hp, ho]
  obtain ⟨z, t, k⟩ := x
  unfold State.thermalTrip
  rw [hz]
  dsimp only
  rw [if_neg hcond]
  exact ⟨rfl, rfl, rfl, rfl⟩

/-! ### A whole round -/

section
variable (r : List Int) (s : State) (vin iin : Nat)

/-- The readings of the zones, before those of the stacks. -/
def zonesRead : State := hubsRead r (diesRead r (inputRead s vin iin))

/-- A field of the power block other than TCRIT reads after the round as the readings of the zones left it. -/
theorem rd_sensorRead {g : Fld} {b i : Nat} (hb : g.blk = .pwr) (hlo : g.lo < 64) (hx : g.addr b i % 0x8000 < 0x108) (ht : F.pwrTcrit.key 0 0 ≠ g.key b i) :
    (s.sensorRead r vin iin).flush.rd g b i = (zonesRead r s vin iin).rd g b i := by
  rw [rd_flush_of_offHost (offHost_of_addr hlo hx), sensorRead_eq, rd_criticalLook ht, rd_stacksRead r _ (offStacks hb hlo), zonesRead]

theorem rd_zonesRead {g : Fld} {b i : Nat} (hz : ∀ z < 10, OffZone g b i z) : (zonesRead r s vin iin).rd g b i = (inputRead s vin iin).rd g b i := by
  rw [zonesRead, rd_hubsRead r _ (fun k hk => hz (8 + k) (by omega)), rd_diesRead r _ (fun d hd => hz d (by omega))]

theorem rd_modPower (u : State) (w : PowerState → PowerState) (g : Fld) (b i : Nat) : (u.modPower w).rd g b i = u.rd g b i := rfl

theorem rd_vin_inputRead (v : BitVec 16) : (inputRead s v.toNat iin).rd F.pwrVin = v.toNat := by
  unfold inputRead State.showDips
  rw [rd_wr_other _ _ _ _ _ _ _ _ (key_ne_of_lo_ne (by decide) (by decide) (by decide) _ _ _ _), rd_modPower,
    rd_wr_other _ _ _ _ _ _ _ _ (key_ne_of_lo_ne (by decide) (by decide) (by decide) _ _ _ _), rd_wr_same]
  exact Nat.mod_eq_of_lt v.isLt

theorem rd_iin_inputRead (v : BitVec 16) : (inputRead s vin v.toNat).rd F.pwrIin = v.toNat := by
  unfold inputRead State.showDips
  rw [rd_wr_other _ _ _ _ _ _ _ _ (key_ne_of_lo_ne (by decide) (by decide) (by decide) _ _ _ _), rd_modPower, rd_wr_same]
  exact Nat.mod_eq_of_lt v.isLt

theorem rd_max_inputRead (d : Nat) : (inputRead s vin iin).rd F.pwrZtempMax 0 d = s.rd F.pwrZtempMax 0 d := by
  have hother : ∀ (f : Fld) (u : State) (v : Nat), f.lo < 64 → f.addr 0 0 < 0x600040 → (u.wr f v).rd F.pwrZtempMax 0 d = u.rd F.pwrZtempMax 0 d := by
    intro f u v hlo ha
    refine rd_wr_other _ _ _ _ _ _ _ _ (key_ne_of_addr_ne hlo (by decide) ?_)
    simp only [Fld.addr, Blk.base, F.pwrZtempMax] at ha ⊢
    omega
  unfold inputRead State.showDips
  rw [hother _ _ _ (by decide) (by decide), rd_modPower, hother _ _ _ (by decide) (by decide), hother _ _ _ (by decide) (by decide), rd_modPower]

theorem inputRead_mgmt : (inputRead s vin iin).mgmt = s.mgmt := rfl

theorem zonesRead_mgmt : (zonesRead r s vin iin).mgmt = s.mgmt :=
  (hubsRead_mgmt r _).trans ((diesRead_mgmt r _).trans (inputRead_mgmt s vin iin))

/-- The readings of the two hub stacks leave a die's zone. -/
theorem rd_zonesRead_die {d : Nat} (hd : d < 8) : (zonesRead r s vin iin).rd F.pwrZtemp 0 d = (diesRead r (inputRead s vin iin)).rd F.pwrZtemp 0 d ∧
    (zonesRead r s vin iin).rd F.pwrZtempMax 0 d = (diesRead r (inputRead s vin iin)).rd F.pwrZtempMax 0 d :=
  ⟨rd_hubsRead r _ (fun k _ => (offZone_other (by omega)).1), rd_hubsRead r _ (fun k _ => (offZone_other (by omega)).2)⟩

theorem rd_sensorRead_die {d : Nat} (hd : d < 8) :
    (s.sensorRead r vin iin).flush.rd F.pwrZtemp 0 d = s.hottest r (dieSensors d) ∧
      (s.rd F.pwrZtempMax 0 d < 256 → (s.sensorRead r vin iin).flush.rd F.pwrZtempMax 0 d =
        Nat.max (s.hottest r (dieSensors d)) (s.rd F.pwrZtempMax 0 d)) := by
  have haddr : F.pwrZtemp.addr 0 d % 0x8000 < 0x108 ∧ F.pwrZtempMax.addr 0 d % 0x8000 < 0x108 := by
    simp only [Fld.addr, Blk.base, F.pwrZtemp, F.pwrZtempMax]
    omega
  have hlo : ∀ {g : Fld}, g.lo < 64 → F.pwrTcrit.lo ≠ g.lo → F.pwrTcrit.key 0 0 ≠ g.key 0 d := fun hg h => key_ne_of_lo_ne (by decide) hg h _ _ _ _
  obtain ⟨ht, hm⟩ := rd_zonesRead_die r s vin iin hd
  refine ⟨?_, fun hx => ?_⟩
  · rw [rd_sensorRead r s vin iin rfl (by decide) haddr.1 (hlo (by decide) (by decide)), ht, diesRead_temp (s := s) _ (inputRead_mgmt s vin iin) hd]
  · rw [rd_sensorRead r s vin iin rfl (by decide) haddr.2 (hlo (by decide) (by decide)), hm,
      diesRead_max (s := s) _ (inputRead_mgmt s vin iin) hd (by rw [rd_max_inputRead]; exact hx), rd_max_inputRead]

theorem rd_sensorRead_hub {h : Nat} (hh : h < 2) : (s.sensorRead r vin iin).flush.rd F.pwrZtemp 0 (8 + h) = s.hottest r (hubSensors h) := by
  have haddr : F.pwrZtemp.addr 0 (8 + h) % 0x8000 < 0x108 := by
    simp only [Fld.addr, Blk.base, F.pwrZtemp]
    omega
  rw [rd_sensorRead r s vin iin rfl (by decide) haddr (key_ne_of_lo_ne (by decide) (by decide) (by decide) _ _ _ _), zonesRead,
    hubsRead_temp (s := s) _ ((diesRead_mgmt r _).trans (inputRead_mgmt s vin iin)) hh]

/-- A register of a stack lies in a span of the counters' length above the counters. -/
theorem rd_flush_of_stack (u : State) (n : Nat) :
    u.flush.rd F.memTemp 0 n = u.rd F.memTemp 0 n ∧ u.flush.rd F.memRefresh 0 n = u.rd F.memRefresh 0 n := by
  have hoff : ∀ {g : Fld}, g.lo < 64 → g.addr 0 n = 0x501000 + 64 * n → OffHost g 0 n := by
    intro g hg ha
    refine ⟨fun q => key_ne_of_addr_ne (by decide) hg ?_, fun q => key_ne_of_addr_ne (by decide) hg ?_,
      fun q => key_ne_of_addr_ne (by decide) hg ?_, fun q => key_ne_of_addr_ne (by decide) hg ?_⟩
    all_goals
      rw [ha]
      simp only [Fld.addr, Blk.base, F.hpCpl, F.hpRecLost, F.hpBacklog, F.hpMsixSent]
      omega
  exact ⟨rd_flush_of_offHost (hoff (by decide) rfl) u, rd_flush_of_offHost (hoff (by decide) rfl) u⟩

theorem rd_sensorRead_stack {n : Nat} (hn : n < 24) :
    (s.sensorRead r vin iin).flush.rd F.memTemp 0 n = s.hottest r (stackSensors n) ∧ (s.sensorRead r vin iin).flush.rd F.memRefresh 0 n =
      (if 95 ≤ s.hottest r (stackSensors n) then 2 else if 85 ≤ s.hottest r (stackSensors n) then 1 else 0) := by
  have hlo : ∀ {g : Fld}, g.lo < 64 → F.pwrTcrit.lo ≠ g.lo → F.pwrTcrit.key 0 0 ≠ g.key 0 n := fun hg h => key_ne_of_lo_ne (by decide) hg h _ _ _ _
  rw [(rd_flush_of_stack _ n).1, (rd_flush_of_stack _ n).2, sensorRead_eq, rd_criticalLook (hlo (by decide) (by decide)),
    rd_criticalLook (hlo (by decide) (by decide))]
  exact stacksRead_at (s := s) _ (zonesRead_mgmt r s vin iin) hn

theorem rd_tcrit_sensorRead {d : Nat} (hd : d < 8) (h : 110 ≤ s.hottest r (dieSensors d)) : (s.sensorRead r vin iin).flush.rd F.pwrTcrit = 1 := by
  rw [rd_flush_of_offHost (offHost_of_addr (by decide) (by decide)), sensorRead_eq]
  refine rd_tcrit_criticalLook ⟨d, hd, ?_⟩
  rw [rd_stacksRead r _ (offStacks rfl (by decide))]
  exact h.trans (Nat.le_of_eq ((rd_zonesRead_die r s vin iin hd).1.trans (diesRead_temp (s := s) _ (inputRead_mgmt s vin iin) hd)).symm)

end

/-- Settles O35: a round is the input, the zones and the stacks read in turn, each register written once; the limits of the
critical temperature and of the trip are case splits. -/
theorem sensorsAndCriticalTemperature : Obligations.SensorsAndCriticalTemperature := by
  refine ⟨fun r v i s hp => next_flush (if_neg (by simp [State.fed, hp])), fun r v i s hp => ?_, fun s h => criticalLook_of_none h,
    fun s z x k h hz => criticalLook_of_hot h hz, fun s h => next_flush (criticalEnd_of_refused h),
    fun s h hc => ⟨_, hotZone s, next_flush (criticalEnd_of_taken h hc), hotZone_lt s, fun y hy => le_hotZone s hy, rfl⟩,
    fun s h => next_flush (thermalTrip_of_refused h), fun s x hz hp ho => ?_⟩
  · have hexec : exec (.sensorRead r v i) s = .next (s.sensorRead r v.toNat i.toNat).flush := next_flush (if_pos hp)
    have hbelow : ∀ {g : Fld}, g.blk = .pwr → g.lo < 64 → g.off < 0x40 → g.stride = 0 → F.pwrTcrit.key 0 0 ≠ g.key 0 0 →
        (s.sensorRead r v.toNat i.toNat).flush.rd g = (inputRead s v.toNat i.toNat).rd g := by
      intro g hb hlo ho hs hk
      refine (rd_sensorRead r s _ _ hb hlo ?_ hk).trans (rd_zonesRead r s _ _ (fun z _ => offZone_of_below hb hlo ho hs 0 0 z))
      simp only [Fld.addr, Blk.base, hb, hs]
      omega
    refine ⟨_, hexec, (hbelow rfl (by decide) (by decide) rfl (by decide)).trans (rd_vin_inputRead s _ v),
      (hbelow rfl (by decide) (by decide) rfl (by decide)).trans (rd_iin_inputRead s _ i), fun d hd => rd_sensorRead_die r s _ _ hd,
      fun h hh => rd_sensorRead_hub r s _ _ hh, fun n hn => rd_sensorRead_stack r s _ _ hn, fun ⟨d, hd, h⟩ => rd_tcrit_sensorRead r s _ _ hd h⟩
  · obtain ⟨hoff, hgood, htherm, htrip⟩ := thermalTrip_of_taken hz hp ho
    exact ⟨_, rfl, by rw [flush_rst]; exact hoff, by rw [flush_rst]; exact hgood, by rw [flush_rst]; exact htherm, by rw [flush_rst]; exact htrip⟩

end

end Sys2Proof.Machine.SupplyLaws
end

section
/-! PROOF. Reset (17_reset_and_startup.md): its sources, the input, the steps of a reset, and what an assertion keeps
(O37 to O40). -/
namespace Sys2Proof.Machine.ResetLaws
open Sys2Proof Sys2Proof.Machine.Laws Sys2Proof.Machine.ClockLaws Sys2Proof.Machine.PowerLaws Sys2Proof.Machine.MemoryLaws
  Sys2Proof.Machine.BoundaryLaws Sys2Proof.Machine.SupplyLaws Sys2Proof.Machine.CommandLaws

/-! ## What flash, fuses and pins keep: the state of a cold assertion without its registers -/

/-- Two states alike but for their registers. -/
def SameButRegs (t u : State) : Prop := ∃ rs, t = { u with regs := rs }

theorem sameButRegs_refl (s : State) : SameButRegs s s := ⟨s.regs, rfl⟩

theorem SameButRegs.wr {t u : State} (h : SameButRegs t u) (f : Fld) (v b i : Nat) : SameButRegs (t.wr f v b i) u := by
  obtain ⟨rs, rfl⟩ := h
  exact ⟨_, rfl⟩

theorem SameButRegs.foldl {α : Type} {t u : State} {f : State → α → State} (l : List α) (h : SameButRegs t u)
    (hf : ∀ x a, a ∈ l → SameButRegs x u → SameButRegs (f x a) u) : SameButRegs (l.foldl f t) u :=
  List.foldlRecOn (motive := fun x => SameButRegs x u) l f h fun x hx a ha => hf x a ha hx

/-- A function of the state that no register has part in. -/
theorem SameButRegs.const {α : Type} {t u : State} (h : SameButRegs t u) (φ : State → α) (hφ : ∀ x rs, φ { x with regs := rs } = φ x) : φ t = φ u := by
  obtain ⟨rs, rfl⟩ := h
  exact hφ u rs

/-- A cold assertion's state before its registers are written. -/
def wipeBase (s : State) : State :=
  { State.reset with
    pending := s.pending, freeCtr := s.freeCtr
    host := { State.reset.host with mem := s.host.mem, nextLife := s.host.nextLife, ports := [(0, coldPort (s.port 0)), (1, coldPort (s.port 1))] }
    net := { State.reset.net with sent := s.net.sent, now := s.net.now }
    mem := { State.reset.mem with stackTab := tmap s.mem.stackTab (fun _ k => k.cold) }
    mgmt := { State.reset.mgmt with
      creds := s.mgmt.creds, images := s.mgmt.images, setup := s.mgmt.setup, scrubs := s.mgmt.scrubs, cut := s.mgmt.cut ++ s.cutTears,
      cal := s.mgmt.cal, sent := s.mgmt.sent, switchImage := s.mgmt.switchImage }
    rst := { s.rst with ready := false, blocks := [], running := [], queue := [], ended := [], stuck := 0, progress := false, recovery := false } }

/-- The fields of module flash written over a state. -/
def writeFlash (s t : State) : State := flashFields.foldl (fun t e => t.wr e.1 (s.rd e.1 e.2) e.2) t

theorem wipe_eq (s : State) : s.wipe = (s.keepMarks (writeFlash s (wipeBase s))).showCams := rfl

theorem sameButRegs_showCams (s : State) : SameButRegs s.showCams s :=
  (sameButRegs_refl s).foldl _ fun _ _ _ h => (h.wr _ _ _ _).wr _ _ _ _

theorem sameButRegs_keepMarks (s t : State) : SameButRegs (s.keepMarks t) t :=
  (sameButRegs_refl t).foldl _ fun _ _ _ h => (h.wr _ _ _ _).wr _ _ _ _

theorem sameButRegs_writeFlash (s t : State) : SameButRegs (writeFlash s t) t :=
  (sameButRegs_refl t).foldl _ fun _ _ _ h => h.wr _ _ _ _

theorem wipe_const {α : Type} (φ : State → α) (hφ : ∀ x rs, φ { x with regs := rs } = φ x) (s : State) : φ s.wipe = φ (wipeBase s) := by
  rw [wipe_eq, (sameButRegs_showCams _).const φ hφ, (sameButRegs_keepMarks s _).const φ hφ, (sameButRegs_writeFlash s _).const φ hφ]

theorem wipe_rst (s : State) : s.wipe.rst =
    { s.rst with ready := false, blocks := [], running := [], queue := [], ended := [], stuck := 0, progress := false, recovery := false } :=
  wipe_const State.rst (fun _ _ => rfl) s

theorem wipe_dram (s : State) : s.wipe.mem.dram = [] := wipe_const (fun t => t.mem.dram) (fun _ _ => rfl) s

/-- The CAMs lost with the power change no other part. -/
theorem darkStacks_rst (s : State) : s.darkStacks.rst = s.rst := (sameButRegs_showCams _).const State.rst (fun _ _ => rfl)

theorem darkStacks_dram (s : State) : s.darkStacks.mem.dram = s.mem.dram := (sameButRegs_showCams _).const (fun t => t.mem.dram) (fun _ _ => rfl)

/-! ## The sources of a reset (R614 to R617) -/

section
variable {s : State} {src : Nat} {cold : Bool}

theorem source_of_powered (h : s.rst.powered = true) : s.source src cold = s.raise src cold := if_pos h

theorem source_of_unpowered (h : s.rst.powered = false) : s.source src cold = s := if_neg (by simp [h])

theorem assert_of_cold (h : s.rst.cold = true) : s.assert =
    ((((s.modRst (fun r => { r with stage := 0, memIn := r.cold, recovery := false, off := false })).inc F.rstColdCnt 1).wr F.pwrLedgerEp
      (s.rd F.pwrLedgerEp + 1)).wipe).modRst (fun r => { r with pwrgd := false, thermN := true, vwarnN := true }) :=
  if_pos h

theorem assert_of_warm (h : s.rst.cold = false) : s.assert =
    (s.modRst (fun r => { r with stage := 0, memIn := r.cold, recovery := false, off := false })).warmAssert :=
  if_neg (by simp [State.modRst, h])

theorem assert_rst_of_cold (h : s.rst.cold = true) : s.assert.rst.cold = true ∧ s.assert.rst.escal = s.rst.escal ∧ s.assert.rst.stage = 0 := by
  rw [assert_of_cold h]
  simp only [State.modRst, wipe_rst]
  exact ⟨h, rfl, rfl⟩

theorem raise_of_run (ho : s.rst.off = false) (h : s.rst.stage = 5) : s.raise src cold =
    (s.flush.modRst (fun r => { r with cold := cold, src := src, seen := 2 ^ (src - 1), escal := false })).assert := by
  unfold State.raise
  dsimp only
  rw [flush_rst, if_neg (by simp [ho]), if_pos h]

theorem raise_of_off (ho : s.rst.off = true) : s.raise src cold = (if cold then
    (s.flush.modRst (fun r => { r with cold := true, src := src, seen := 2 ^ (src - 1), escal := false })).assert else s.flush) := by
  unfold State.raise
  dsimp only
  rw [flush_rst, if_pos ho]

/-- A source joins a warm reset in its assertion. -/
def joined (s : State) (src : Nat) : State :=
  s.flush.modRst (fun r => { r with seen := r.seen ||| 2 ^ (src - 1), src := if r.src = 0 then src else r.src })

theorem raise_of_asserted (ho : s.rst.off = false) (h : s.rst.stage = 0) (hc : s.rst.cold = false) : s.raise src cold =
    (if cold then ((joined s src).modRst (fun r => { r with cold := true, escal := true })).assert else joined s src) := by
  have hstage : (joined s src).rst.stage = 0 := (congrArg ResetState.stage (flush_rst s)).trans h
  have hcold : (joined s src).rst.cold = false := (congrArg ResetState.cold (flush_rst s)).trans hc
  have hraise : s.raise src cold = (if cold && !(joined s src).rst.cold then ((joined s src).modRst (fun r => { r with cold := true, escal := true })).assert
      else if 1 ≤ (joined s src).rst.stage then (joined s src).assert else joined s src) := by
    unfold State.raise
    dsimp only
    rw [flush_rst, if_neg (by simp [ho]), if_neg (by omega)]
    rfl
  rw [hraise, hcold, hstage]
  simp only [Bool.not_false, Bool.and_true, if_neg (show ¬ 1 ≤ 0 by decide)]

theorem flag_of_one {f : Fld} (h : s.rd f = 1) : s.flag f = true := by rw [State.flag, h]; rfl

theorem flag_of_zero {f : Fld} (h : s.rd f = 0) : s.flag f = false := by rw [State.flag, h]; rfl

end

/-- Settles O37: each command is its source under its condition; a source by the branch of `State.raise` it takes. -/
theorem resetSources : Obligations.ResetSources := by
  refine ⟨fun s hp => ⟨?_, ?_, fun h => ?_, fun h => ?_, ?_, fun h => ?_, fun h => ?_, ?_, fun h hl => ?_, fun h => ?_⟩, fun s hp => ⟨?_, ?_⟩,
    fun s src cold ho h => raise_of_run ho h, fun s src ho => ⟨(raise_of_off ho).trans (if_neg (by simp)), (raise_of_off ho).trans (if_pos rfl)⟩, fun s src ho h hc => ?_⟩
  · exact next_closed (source_of_powered hp)
  · rfl
  · exact next_closed ((if_pos h).trans (source_of_powered hp))
  · exact next_closed (if_neg (by simp [h]))
  · exact next_closed (source_of_powered hp)
  · exact next_closed ((if_pos (flag_of_one h)).trans (source_of_powered hp))
  · exact next_closed (if_neg (by simp [flag_of_zero h]))
  · exact next_closed (source_of_powered hp)
  · exact next_closed ((if_pos (by simp [flag_of_one h, hl])).trans (source_of_powered hp))
  · refine next_closed (if_neg ?_)
    rcases h with h | h
    · simp [flag_of_zero h]
    · simp [h]
  · exact next_closed (source_of_unpowered hp)
  · exact next_closed (source_of_unpowered hp)
  · have hseen : (joined s src).rst.seen = s.rst.seen ||| 2 ^ (src - 1) := congrArg (fun r => r.seen ||| 2 ^ (src - 1)) (flush_rst s)
    have hcold : (joined s src).rst.cold = false := (congrArg ResetState.cold (flush_rst s)).trans hc
    obtain ⟨hturned, hescal, -⟩ := assert_rst_of_cold (s := (joined s src).modRst (fun r => { r with cold := true, escal := true })) rfl
    rw [raise_of_asserted ho h hc, raise_of_asserted ho h hc]
    exact ⟨hseen, hcold, hescal, hturned⟩

/-! ## The input, its switch and the rails (R611, R642 to R644) -/

section
variable {s : State}

theorem inputLoss_of_powered (h : s.rst.powered = true) : s.inputLoss = s.wipe.darkStacks.modRst (fun r => { r with
      powered := false, charged := false, pwrgd := false, off := false, stage := 0, memIn := true, brown := false, switchOpen := false,
      thermN := true, vwarnN := true, escal := (s.rst.stage != 5 && !s.rst.off) && (r.escal || !r.cold), cold := true,
      src := if (s.rst.stage != 5 && !s.rst.off) then r.src else 0, seen := if (s.rst.stage != 5 && !s.rst.off) then r.seen else 0 }) :=
  if_neg (by simp [h])

theorem inputLoss_rst (h : s.rst.powered = true) : s.inputLoss.rst.powered = false ∧ s.inputLoss.rst.charged = false ∧ s.inputLoss.rst.pwrgd = false ∧
    s.inputLoss.rst.stage = 0 ∧ s.inputLoss.rst.cold = true ∧ s.inputLoss.mem.dram = [] ∧
    s.inputLoss.rst.escal = ((s.rst.stage != 5 && !s.rst.off) && (s.rst.escal || !s.rst.cold)) := by
  rw [inputLoss_of_powered h]
  simp only [State.modRst, darkStacks_rst, darkStacks_dram, wipe_rst, wipe_dram, and_self]

end

/-- Settles O39: each command by the input, the switch and the rails. -/
theorem powerAndInput : Obligations.PowerAndInput := by
  intro s
  refine ⟨fun h => next_flush (if_pos ?_), fun hp ho => next_flush (if_neg (by simp [hp, ho])), fun h => next_flush (if_pos h),
    fun h => next_flush (if_neg (by simp [h])), fun h => ?_, fun h => next_flush (if_pos (by simp [h])), fun cause peak => ⟨fun h => ?_, fun h => ?_⟩, rfl, ?_⟩
  · rcases h with h | h
    · simp [h]
    · simp [h]
  · obtain ⟨hpow, hcharged, hgood, hstage, hcold, hdram, hescal⟩ := inputLoss_rst h
    refine ⟨_, rfl, ?_⟩
    rw [flush_rst, flush_mem]
    exact ⟨hpow, hcharged, hgood, hstage, hcold, hdram, fun h5 ho hc => hescal.trans (by simp [h5, ho, hc])⟩
  · obtain ⟨hpow, -⟩ := inputLoss_rst h
    have hopen : s.switchOpens cause.val peak.toNat = (s.inputLoss).modRst (fun r => { r with switched := some (cause.val + 1, peak.toNat), switchOpen := true }) :=
      if_neg (by simp [h])
    refine ⟨_, next_flush hopen, ?_⟩
    rw [flush_rst]
    exact ⟨hpow, rfl, rfl⟩
  · exact next_flush (if_pos (by simp [h]))
  · refine next_flush ((if_neg (by simp)).trans ?_)
    simp only [Bool.and_eq_true, Bool.not_eq_true', decide_eq_true_eq, and_assoc]

/-! ## The steps of a reset (R618 to R623, R642) -/

section
variable {s : State}

/-- A warm assertion whose memory domain is not yet in reset. -/
def WarmAsserted (s : State) : Prop := s.rst.stage = 0 ∧ s.rst.cold = false ∧ s.rst.memIn = false ∧ s.rst.powered = true

/-- The guard of the memory domain's assertion and of its timeout. -/
theorem memGuard_iff : (s.rst.stage != 0 || s.rst.cold || s.rst.memIn || !s.rst.powered) = true ↔ ¬ WarmAsserted s := by
  simp only [WarmAsserted, Bool.or_eq_true, bne_iff_ne, Bool.not_eq_true', not_and_or, Bool.not_eq_false, Bool.not_eq_true, or_assoc]

theorem keepNow_mere_all (s : State) : ((List.range 36).foldl (fun s p => if s.rd F.pKeepNow p = 0 then s else s.keepNow p) s).mem.mere = s.mem.mere := by
  refine foldl_range_keeps (φ := fun t => t.mem.mere) (fun u p _ => ?_) s
  split
  · rfl
  · exact keepNow_mere u p

theorem flushMere_mere (s : State) : (s.flushMere (fun _ => true)).mem.mere = [] := by
  unfold State.flushMere
  dsimp only
  rw [keepNow_mere_all]
  exact List.filter_eq_nil_iff.mpr (by simp)

theorem selfRefresh_all {n : Nat} (hn : n < 24) (s : State) :
    (((List.range 24).foldl (fun s n => s.modStack n (fun x => { x with selfRefresh := true })) s).stack n).selfRefresh = true := by
  refine (foldl_range_at (φ := fun t => (t.stack n).selfRefresh) (f := fun s n => s.modStack n (fun x => { x with selfRefresh := true })) hn
    (fun u e _ hne => ?_) s).trans ?_
  · simp only [State.stack, State.modStack, tgetD_tput_other _ _ _ _ _ hne]
  · simp only [stack_modStack_same]

theorem selfRefresh_mere (s : State) :
    ((List.range 24).foldl (fun s n => s.modStack n (fun x => { x with selfRefresh := true })) s).mem.mere = s.mem.mere :=
  foldl_range_keeps (φ := fun t => t.mem.mere) (f := fun s n => s.modStack n (fun x => { x with selfRefresh := true })) (fun _ _ _ => rfl) s

theorem mem_modRst (s : State) (f : ResetState → ResetState) : (s.modRst f).mem = s.mem := rfl

theorem stack_modRst (s : State) (f : ResetState → ResetState) (n : Nat) : (s.modRst f).stack n = s.stack n := rfl

theorem stack_flush (s : State) (n : Nat) : s.flush.stack n = s.stack n := by simp only [State.stack, flush_mem]

theorem modRst_memIn (s : State) : (s.modRst (fun r => { r with memIn := true })).rst.memIn = true := rfl

theorem memAssert_of_asserted (h : WarmAsserted s) : s.memAssert.mem.mere = [] ∧ s.memAssert.rst.memIn = true ∧
    ∀ n, n < 24 → (s.memAssert.stack n).selfRefresh = true := by
  have hrun : s.memAssert = ((List.range 24).foldl (fun s n => s.modStack n (fun x => { x with selfRefresh := true }))
      (s.flushMere (fun _ => true))).modRst (fun r => { r with memIn := true }) := if_neg (fun hg => memGuard_iff.mp hg h)
  rw [hrun]
  refine ⟨?_, modRst_memIn _, fun n hn => ?_⟩
  · rw [mem_modRst, selfRefresh_mere, flushMere_mere]
  · rw [stack_modRst]
    exact selfRefresh_all hn _

/-- The state in which an assertion may be released. -/
def Releasable (s : State) : Prop :=
  s.rst.stage = 0 ∧ s.rst.powered = true ∧ s.rst.charged = true ∧ s.rst.brown = false ∧ s.rst.pinLow = false ∧ s.rst.memIn = true

theorem releaseGuard_iff :
    (s.rst.stage != 0 || !s.rst.powered || !s.rst.charged || s.rst.brown || s.rst.pinLow || !s.rst.memIn) = true ↔ ¬ Releasable s := by
  simp only [Releasable, Bool.or_eq_true, bne_iff_ne, Bool.not_eq_true', not_and_or, Bool.not_eq_false, Bool.not_eq_true, or_assoc]

/-- The settings applied at a cold release change registers and the settings that waited. -/
theorem applySetup_rst (s : State) : s.applySetup.rst = s.rst := by
  have hstep : SameButRegs (s.mgmt.setup.foldl (fun s e =>
      if e.1 = 0 then (s.wr F.hpSetupPt e.2 0).wr F.hpSetupPt e.2 1
      else if e.1 < 3 then s.wr F.hpCxlOffer e.2 (e.1 - 1)
      else if e.1 < 11 then (s.wr F.npMacL e.2 (e.1 - 3)).wr F.npMacH (e.2 / 2 ^ 32) (e.1 - 3)
      else (List.range 8).foldl (fun s n => s.wr F.npMaintVid e.2 n) s) s) s := by
    refine (sameButRegs_refl s).foldl _ fun x a _ hx => ?_
    split
    · exact (hx.wr _ _ _ _).wr _ _ _ _
    split
    · exact hx.wr _ _ _ _
    split
    · exact (hx.wr _ _ _ _).wr _ _ _ _
    · exact hx.foldl _ fun y n _ hy => hy.wr _ _ _ _
  exact hstep.const State.rst (fun _ _ => rfl)

theorem measure_rst (s : State) (x : FwImage) : (s.measure x).rst = s.rst := by
  have hstages : SameButRegs ((List.range 4).foldl (fun s i => (s.wr F.idMr 0 0 i).extend i (nthD x.stages i 0)) s) s :=
    (sameButRegs_refl s).foldl _ fun y i _ hy => (hy.wr _ _ _ _).wr _ _ _ _
  unfold State.measure
  dsimp only
  split
  · exact hstages.const State.rst (fun _ _ => rfl)
  · exact ((((hstages.wr _ _ _ _).wr _ _ _ _).wr _ _ _ _).wr _ _ _ _).const State.rst (fun _ _ => rfl)

theorem releaseBegin_of_releasable (h : Releasable s) : s.releaseBegin.rst.stage = 1 ∧ s.releaseBegin.rst.pwrgd = true := by
  unfold State.releaseBegin
  rw [if_neg (fun hg => releaseGuard_iff.mp hg h)]
  extract_lets t u v
  have hv : v.rst.stage = 1 ∧ v.rst.pwrgd = true := by
    unfold v
    split
    · rw [applySetup_rst]
      exact ⟨rfl, rfl⟩
    · exact ⟨rfl, rfl⟩
  split
  · exact hv
  · rw [measure_rst]
    exact hv

/-- The records owed for teardowns cut short leave the memories, the readiness and the records still owed. -/
theorem issueLate_keeps (s : State) (c : CutScrub) (cause : Nat) (partly : Bool) (m i : Nat) :
    (s.issueLate c cause partly m i).mem = s.mem ∧ (s.issueLate c cause partly m i).mgmt.cut = s.mgmt.cut := ⟨rfl, rfl⟩

theorem foldl_issueLate_keeps (l : List CutScrub) (s : State) :
    (l.foldl (fun s c => s.issueLate c 3 false (s.extentBytes c.extents []) 0x3F) s).mem = s.mem ∧
      (l.foldl (fun s c => s.issueLate c 3 false (s.extentBytes c.extents []) 0x3F) s).mgmt.cut = s.mgmt.cut :=
  List.foldlRecOn (motive := fun t : State => t.mem = s.mem ∧ t.mgmt.cut = s.mgmt.cut) l _ ⟨rfl, rfl⟩ fun t ht c _ =>
    ⟨(issueLate_keeps t c _ _ _ _).1.trans ht.1, (issueLate_keeps t c _ _ _ _).2.trans ht.2⟩

theorem busyLook_keeps (s : State) (q : Nat) : (s.busyLook q).mem = s.mem ∧ (s.busyLook q).mgmt = s.mgmt ∧ (s.busyLook q).rst = s.rst := by
  unfold State.busyLook
  split
  · exact ⟨rfl, rfl, rfl⟩
  · exact ⟨rfl, rfl, rfl⟩

theorem telemetry_keeps (s : State) (occ : List (BitVec 16)) :
    (s.telemetry occ).mem = s.mem ∧ (s.telemetry occ).mgmt.cut = s.mgmt.cut ∧ (s.telemetry occ).rst.ready = s.rst.ready := by
  unfold State.telemetry
  extract_lets bs n subs t u
  have hu : u.mem = s.mem ∧ u.mgmt.cut = s.mgmt.cut ∧ u.rst.ready = s.rst.ready := by
    unfold u
    split
    · exact ⟨rfl, rfl, rfl⟩
    · exact ⟨rfl, rfl, rfl⟩
  split
  · exact hu
  · exact hu

theorem zeroed_of_run (hr : s.rst.ready = false) (h5 : s.rst.stage = 5) : s.zeroed.rst.ready = true ∧ s.zeroed.mem.dram = [] ∧
    s.zeroed.mem.written = [] ∧ s.zeroed.mem.mere = [] ∧ s.zeroed.mgmt.cut = [] := by
  unfold State.zeroed
  rw [if_neg (by simp [hr, h5])]
  extract_lets m t cut u v
  obtain ⟨hmem, hcut⟩ := foldl_issueLate_keeps cut u
  obtain ⟨hm, hc, hready⟩ := telemetry_keeps (((v.modRst (fun r => { r with ready := true })).busyLook 0).busyLook 1) []
  obtain ⟨hm1, hg1, hr1⟩ := busyLook_keeps ((v.modRst (fun r => { r with ready := true })).busyLook 0) 1
  obtain ⟨hm0, hg0, hr0⟩ := busyLook_keeps (v.modRst (fun r => { r with ready := true })) 0
  rw [hm, hc, hready, hm1, hg1, hr1, hm0, hg0, hr0]
  simp only [State.modRst, v, hmem, hcut]
  exact ⟨trivial, rfl, rfl, rfl, rfl⟩

/-- The reset event stands before every record that waited. -/
theorem resetEvent_out (s : State) (us : Nat) : ∃ x, (s.resetEvent us).out = ⟨.port 0, x⟩ :: ⟨.port 1, x⟩ :: s.out := by
  unfold State.resetEvent
  extract_lets r t u trip sw x
  have hu : u.out = s.out := by
    unfold u
    split
    · rfl
    · rfl
  exact ⟨x, congrArg (fun l => _ :: _ :: l) hu⟩

theorem warmScrubDone_of_begun {p b : Nat} (h : tget? s.mgmt.warmScrubs p = some b) (hheld : s.heldStacks = []) : s.warmScrubDone p =
    (let c := s.cutOf p b
     let t := s.modMgmt (fun m => { m with warmScrubs := tdel m.warmScrubs p })
     ((t.scrubItems p []).issueScrub c 2 false (t.extentBytes c.extents []) 0x3F).partEvent p 5 0 (2 * b2n c.conf)) := by
  have hpart : ((s.cutOf p b).extents.any (fun e => (s.extentStacks e.1).any (fun n => ([] : List Nat).contains n))) = false := by simp
  unfold State.warmScrubDone
  rw [h, hheld]
  dsimp only
  rw [hpart]
  simp only [Bool.false_eq_true, if_false, b2n, Nat.zero_add]

section
variable {us : Nat} (hoff : s.rst.off = false) (hrec : s.rst.recovery = false) (hpow : s.rst.powered = true)
include hoff hrec hpow

theorem domainRelease_of_up : s.domainRelease us =
    if s.rst.stage = 1 then s.modRst (fun r => { r with stage := 2 })
    else if s.rst.stage = 2 then
      (List.range 24).foldl (fun s n => s.camRepair n) ((if s.rst.cold then s.coldKeys else s).modRst (fun r => { r with stage := 3, memIn := false }))
    else if s.rst.stage = 3 then s.hostRelease us
    else if s.rst.stage = 4 then s.netRelease
    else s := if_neg (by simp [hoff, hrec, hpow])

end

theorem domainRelease_of_down {us : Nat} (h : s.rst.off = true ∨ s.rst.recovery = true ∨ s.rst.powered = false) : s.domainRelease us = s := by
  refine if_pos ?_
  rcases h with h | h | h
  · simp [h]
  · simp [h]
  · simp [h]

end

/-- Settles O40: each step by its guard, and the release of a domain by the stage it takes. -/
theorem resetSequence : Obligations.ResetSequence := by
  refine ⟨?_, ?_, ?_, fun us s h => next_closed (domainRelease_of_down h), ?_, ?_, ?_⟩
  · intro s may
    refine ⟨fun h => ⟨next_flush (if_pos (memGuard_iff.mpr h)), next_closed (if_pos (memGuard_iff.mpr h))⟩,
      fun h => ⟨next_closed (if_neg (fun hg => memGuard_iff.mp hg h)), ?_⟩⟩
    obtain ⟨hmere, hin, hself⟩ := memAssert_of_asserted h
    refine ⟨_, rfl, ?_, ?_, fun n hn => ?_⟩
    · rw [flush_mem]
      exact hmere
    · rw [flush_rst]
      exact hin
    · rw [stack_flush]
      exact hself n hn
  · intro s may
    refine ⟨fun h => next_flush (if_pos (releaseGuard_iff.mpr h)), fun h => ?_⟩
    obtain ⟨hstage, hgood⟩ := releaseBegin_of_releasable h
    exact ⟨_, rfl, by rw [flush_rst]; exact hstage, by rw [flush_rst]; exact hgood⟩
  · intro us s hoff hrec hpow
    have hrun := domainRelease_of_up (us := us.toNat) hoff hrec hpow
    refine ⟨fun h => next_closed (hrun.trans (if_pos h)), fun h => next_closed (hrun.trans ((if_neg (by omega)).trans (if_pos h))), ⟨rfl, rfl⟩,
      fun h => ⟨next_closed (hrun.trans ((if_neg (by omega)).trans ((if_neg (by omega)).trans (if_pos h)))), ?_⟩,
      fun h => next_closed (hrun.trans ((if_neg (by omega)).trans ((if_neg (by omega)).trans ((if_neg (by omega)).trans (if_pos h))))),
      fun h => next_closed (hrun.trans ?_)⟩
    · obtain ⟨x, hx⟩ := resetEvent_out s us.toNat
      exact ⟨x, s.out, hx, rfl⟩
    · rw [if_neg (by omega), if_neg (by omega), if_neg (by omega), if_neg (by omega)]
  · intro s
    refine ⟨fun h => next_flush (if_pos ?_), fun hr h5 => ?_⟩
    · rcases h with h | h
      · simp [h]
      · simp [h]
    · obtain ⟨hready, hdram, hwritten, hmere, hcut⟩ := zeroed_of_run hr h5
      refine ⟨_, rfl, ?_⟩
      rw [flush_rst, flush_mem, flush_mgmt]
      exact ⟨hready, hdram, hwritten, hmere, hcut⟩
  · intro p s h
    refine next_flush ?_
    unfold State.warmScrubDone
    rw [h]
  · intro p s b h hheld
    exact next_flush (warmScrubDone_of_begun h hheld)

/-! ## What a cold assertion keeps (Table 17-8) -/

/-- A list of writes leaves the value of each entry that no other entry's place meets. -/
theorem rd_foldl_wr {l : List (Fld × Nat)} {x : Fld × Nat} (v : Fld × Nat → Nat) (hx : x ∈ l)
    (hl : ∀ e ∈ l, e.1.key e.2 0 = x.1.key x.2 0 → e = x) (t : State) :
    (l.foldl (fun t e => t.wr e.1 (v e) e.2) t).rd x.1 x.2 = v x % 2 ^ x.1.w := by
  induction l using List.reverseRecOn with
  | nil => cases hx
  | append_singleton l y ih =>
    rw [List.foldl_append, List.foldl_cons, List.foldl_nil]
    by_cases hk : y.1.key y.2 0 = x.1.key x.2 0
    · obtain rfl := hl y (by simp) hk
      exact rd_wr_same _ _ _ _ _
    · rw [rd_wr_other _ _ _ _ _ _ _ _ hk]
      have hmem : x ∈ l := by
        rcases List.mem_append.mp hx with h | h
        · exact h
        · exact absurd (by rw [List.mem_singleton.mp h]) hk
      exact ih hmem fun e he => hl e (List.mem_append_left _ he)

theorem flashFields_apart : ∀ x ∈ flashFields, ∀ e ∈ flashFields, e.1.key e.2 0 = x.1.key x.2 0 → e = x := by decide +kernel

theorem flashFields_offStacks : ∀ x ∈ flashFields, ∀ n < 24, F.memMark0.key 0 n ≠ x.1.key x.2 0 ∧ F.memMark1.key 0 n ≠ x.1.key x.2 0 ∧
    F.memCamUsed.key 0 n ≠ x.1.key x.2 0 ∧ F.memSpares.key 0 n ≠ x.1.key x.2 0 := by decide +kernel

section
variable (s : State)

theorem rd_showCams {g : Fld} {b i : Nat} (h : ∀ n < 24, F.memCamUsed.key 0 n ≠ g.key b i ∧ F.memSpares.key 0 n ≠ g.key b i) :
    s.showCams.rd g b i = s.rd g b i :=
  foldl_range_keeps (φ := fun t => t.rd g b i) (fun u n hn => by
    rw [rd_wr_other _ _ _ _ _ _ _ _ (h n hn).2, rd_wr_other _ _ _ _ _ _ _ _ (h n hn).1]) s

theorem rd_keepMarks {g : Fld} {b i : Nat} (h : ∀ n < 24, F.memMark0.key 0 n ≠ g.key b i ∧ F.memMark1.key 0 n ≠ g.key b i) (t : State) :
    (s.keepMarks t).rd g b i = t.rd g b i :=
  foldl_range_keeps (φ := fun t => t.rd g b i) (fun u n hn => by
    rw [rd_wr_other _ _ _ _ _ _ _ _ (h n hn).2, rd_wr_other _ _ _ _ _ _ _ _ (h n hn).1]) t

theorem rd_wipe_of_flash {x : Fld × Nat} (hx : x ∈ flashFields) : s.wipe.rd x.1 x.2 = s.rd x.1 x.2 % 2 ^ x.1.w := by
  have hoff := flashFields_offStacks x hx
  rw [wipe_eq, rd_showCams _ (fun n hn => (hoff n hn).2.2), rd_keepMarks s (fun n hn => ⟨(hoff n hn).1, (hoff n hn).2.1⟩), writeFlash]
  exact rd_foldl_wr (fun e => s.rd e.1 e.2) hx (flashFields_apart x hx) _

/-- The registers of two stacks' marks stand apart. -/
theorem marks_apart {m n : Nat} (hm : m < 24) (hn : n < 24) (h : m ≠ n) :
    F.memMark0.key 0 m ≠ F.memMark0.key 0 n ∧ F.memMark1.key 0 m ≠ F.memMark0.key 0 n ∧
      F.memMark0.key 0 m ≠ F.memMark1.key 0 n ∧ F.memMark1.key 0 m ≠ F.memMark1.key 0 n := by
  have hall : ∀ m < 24, ∀ n < 24, m ≠ n → F.memMark0.key 0 m ≠ F.memMark0.key 0 n ∧ F.memMark1.key 0 m ≠ F.memMark0.key 0 n ∧
      F.memMark0.key 0 m ≠ F.memMark1.key 0 n ∧ F.memMark1.key 0 m ≠ F.memMark1.key 0 n := by decide +kernel
  exact hall m hm n hn h

/-- A stack's marks, written over a state. -/
def keepMark (s t : State) (n : Nat) : State := (t.wr F.memMark0 (s.rd F.memMark0 0 n) 0 n).wr F.memMark1 (s.rd F.memMark1 0 n) 0 n

theorem rd_keepMarks_at (t : State) {n : Nat} (hn : n < 24) :
    (s.keepMarks t).rd F.memMark0 0 n = s.rd F.memMark0 0 n % 2 ^ F.memMark0.w ∧
      (s.keepMarks t).rd F.memMark1 0 n = s.rd F.memMark1 0 n % 2 ^ F.memMark1.w := by
  have hlo : F.memMark1.key 0 n ≠ F.memMark0.key 0 n := key_ne_of_lo_ne (by decide) (by decide) (by decide) _ _ _ _
  refine ⟨(foldl_range_at (φ := fun t => t.rd F.memMark0 0 n) (f := keepMark s) hn (fun u e he hne => ?_) t).trans ?_,
    (foldl_range_at (φ := fun t => t.rd F.memMark1 0 n) (f := keepMark s) hn (fun u e he hne => ?_) t).trans ?_⟩
  · obtain ⟨h00, h10, -, -⟩ := marks_apart he hn hne
    rw [keepMark, rd_wr_other _ _ _ _ _ _ _ _ h10, rd_wr_other _ _ _ _ _ _ _ _ h00]
  · rw [keepMark, rd_wr_other _ _ _ _ _ _ _ _ hlo, rd_wr_same]
  · obtain ⟨-, -, h01, h11⟩ := marks_apart he hn hne
    rw [keepMark, rd_wr_other _ _ _ _ _ _ _ _ h11, rd_wr_other _ _ _ _ _ _ _ _ h01]
  · rw [keepMark, rd_wr_same]

theorem rd_wipe_marks {n : Nat} (hn : n < 24) : s.wipe.rd F.memMark0 0 n = s.rd F.memMark0 0 n % 2 ^ F.memMark0.w ∧
    s.wipe.rd F.memMark1 0 n = s.rd F.memMark1 0 n % 2 ^ F.memMark1.w := by
  have hoff : ∀ n < 24, ∀ m < 24, F.memCamUsed.key 0 m ≠ F.memMark0.key 0 n ∧ F.memSpares.key 0 m ≠ F.memMark0.key 0 n ∧
      F.memCamUsed.key 0 m ≠ F.memMark1.key 0 n ∧ F.memSpares.key 0 m ≠ F.memMark1.key 0 n := by decide +kernel
  rw [wipe_eq, rd_showCams _ (fun m hm => ⟨(hoff n hn m hm).1, (hoff n hn m hm).2.1⟩),
    rd_showCams _ (fun m hm => ⟨(hoff n hn m hm).2.2.1, (hoff n hn m hm).2.2.2⟩)]
  exact rd_keepMarks_at s _ hn

theorem tgetD_tmap {α : Type} (t : Tab α) (f : Nat → α → α) (k : Nat) (d : α) : tgetD (tmap t f) k d = ((tget? t k).map (f k)).getD d := by
  unfold tgetD tmap
  induction t with
  | nil => rfl
  | cons e t ih =>
    simp only [List.map_cons, tget?] at ih ⊢
    split
    next h =>
      obtain rfl := h
      simp
    · exact ih

theorem wipe_stack (n : Nat) : (s.wipe.stack n).repairList = (s.stack n).repairList ∧ (s.wipe.stack n).hardRepairs = (s.stack n).hardRepairs := by
  have htab : s.wipe.stack n = tgetD (tmap s.mem.stackTab (fun _ k => k.cold)) n Stack.init := wipe_const (fun t => t.stack n) (fun _ _ => rfl) s
  rw [htab, tgetD_tmap, State.stack, tgetD]
  cases tget? s.mem.stackTab n with
  | none => exact ⟨rfl, rfl⟩
  | some k => exact ⟨rfl, rfl⟩

end

section
variable {s : State}

/-- The state a cold assertion clears: its two counts raised. -/
def coldCounted (s : State) : State :=
  ((s.modRst (fun r => { r with stage := 0, memIn := r.cold, recovery := false, off := false })).inc F.rstColdCnt 1).wr F.pwrLedgerEp (s.rd F.pwrLedgerEp + 1)

theorem rd_coldCounted {g : Fld} {b i : Nat} (hc : F.rstColdCnt.key 0 0 ≠ g.key b i) (hl : F.pwrLedgerEp.key 0 0 ≠ g.key b i) :
    (coldCounted s).rd g b i = s.rd g b i := by
  rw [coldCounted, rd_wr_other _ _ _ _ _ _ _ _ hl]
  exact rd_wr_other _ _ _ _ _ _ _ _ hc

theorem assert_of_cold_const {α : Type} (h : s.rst.cold = true) (φ : State → α) (hφ : ∀ x y, φ { x with rst := y } = φ x) :
    φ s.assert = φ (coldCounted s).wipe := by
  rw [assert_of_cold h]
  exact hφ _ _

theorem rd_assert_of_cold (h : s.rst.cold = true) (g : Fld) (b i : Nat) : s.assert.rd g b i = (coldCounted s).wipe.rd g b i :=
  assert_of_cold_const h (fun t => t.rd g b i) (fun _ _ => rfl)

/-- What flash and fuses hold reads after a cold assertion as before, the two counts aside. -/
theorem rd_assert_of_flash (h : s.rst.cold = true) {x : Fld × Nat} (hx : x ∈ flashFields) (hc : F.rstColdCnt.key 0 0 ≠ x.1.key x.2 0)
    (hl : F.pwrLedgerEp.key 0 0 ≠ x.1.key x.2 0) : s.assert.rd x.1 x.2 = s.rd x.1 x.2 % 2 ^ x.1.w := by
  rw [rd_assert_of_cold h, rd_wipe_of_flash _ hx, rd_coldCounted hc hl]

theorem coldCnt_assert (h : s.rst.cold = true) : s.assert.rd F.rstColdCnt = Nat.min (s.rd F.rstColdCnt + 1) (2 ^ 32 - 1) := by
  have hcount : (coldCounted s).rd F.rstColdCnt = Nat.min (s.rd F.rstColdCnt + 1) (2 ^ 32 - 1) := by
    rw [coldCounted, rd_wr_other _ _ _ _ _ _ _ _ (by decide)]
    exact rd_inc_same _ _ _ _ _
  have hmem : (F.rstColdCnt, 0) ∈ flashFields := by decide +kernel
  rw [rd_assert_of_cold h, rd_wipe_of_flash _ hmem]
  dsimp only
  rw [hcount]
  exact Nat.mod_eq_of_lt (Nat.lt_of_le_of_lt (Nat.min_le_right _ _) (by decide))

theorem macs_flash : ∀ n < 8, ((F.npMacL, n) ∈ flashFields ∧ F.rstColdCnt.key 0 0 ≠ F.npMacL.key n 0 ∧ F.pwrLedgerEp.key 0 0 ≠ F.npMacL.key n 0) ∧
      ((F.npMacH, n) ∈ flashFields ∧ F.rstColdCnt.key 0 0 ≠ F.npMacH.key n 0 ∧ F.pwrLedgerEp.key 0 0 ≠ F.npMacH.key n 0) := by decide +kernel

theorem macs_assert (h : s.rst.cold = true) {n : Nat} (hn : n < 8) :
    s.assert.rd F.npMacL n = s.rd F.npMacL n % 2 ^ F.npMacL.w ∧ s.assert.rd F.npMacH n = s.rd F.npMacH n % 2 ^ F.npMacH.w := by
  obtain ⟨⟨hl, hlc, hll⟩, hh, hhc, hhl⟩ := macs_flash n hn
  refine ⟨?_, ?_⟩
  · exact rd_assert_of_flash (x := (F.npMacL, n)) h hl hlc hll
  · exact rd_assert_of_flash (x := (F.npMacH, n)) h hh hhc hhl

theorem marks_assert (h : s.rst.cold = true) {n : Nat} (hn : n < 24) :
    s.assert.rd F.memMark0 0 n = s.rd F.memMark0 0 n % 2 ^ F.memMark0.w ∧ s.assert.rd F.memMark1 0 n = s.rd F.memMark1 0 n % 2 ^ F.memMark1.w := by
  have hlo : ∀ {f g : Fld}, f.lo < 64 → g.lo < 64 → f.lo ≠ g.lo → f.key 0 0 ≠ g.key 0 n := fun hf hg h => key_ne_of_lo_ne hf hg h _ _ _ _
  rw [rd_assert_of_cold h, rd_assert_of_cold h, (rd_wipe_marks _ hn).1, (rd_wipe_marks _ hn).2,
    rd_coldCounted (hlo (by decide) (by decide) (by decide)) (hlo (by decide) (by decide) (by decide)),
    rd_coldCounted (hlo (by decide) (by decide) (by decide)) (hlo (by decide) (by decide) (by decide))]
  exact ⟨rfl, rfl⟩

/-! ## How a warm assertion leaves block resets and power limits -/

theorem warmAssert_eq (s : State) : ∃ x : State, s.warmAssert = x.endBlocks.warmPower.queuesWarm := ⟨_, rfl⟩

/-- The power controller cleared, before its limits are shown. -/
def powerCleared (x : State) : State :=
  let x := x.modPower (fun w => { w with
    ld := [], lhub := [], fast := false, unreach := false, eRow := [], eBase := none, lastServed := 287, next := [], latched := [],
    capped := [], phases := [], cappedAt := [], recal := false, worked := false, quiet := 0, idleFor := 0 })
  ({ x with mem := { x.mem with lm := [] } }).wr F.pwrMstate 0

theorem warmPower_eq (x : State) : x.warmPower = (powerCleared x).showLimits := rfl

theorem sameButRegs_showLimits (s : State) : SameButRegs s.showLimits s :=
  ((sameButRegs_refl s).foldl _ fun _ _ _ h => h.wr _ _ _ _).foldl _ fun _ _ _ h => h.wr _ _ _ _

theorem rd_queuesWarm (x : State) (g : Fld) (b i : Nat) : x.queuesWarm.rd g b i = x.rd g b i := rfl

theorem queuesWarm_const {α : Type} (x : State) (φ : State → α) (hφ : ∀ x qs, φ { x with queues := qs } = φ x) : φ x.queuesWarm = φ x := hφ _ _

/-- What registers and queues have no part in stands after the warm power controller as it was cleared. -/
theorem warmPower_const {α : Type} (x : State) (φ : State → α) (hq : ∀ x qs, φ { x with queues := qs } = φ x) (hr : ∀ x rs, φ { x with regs := rs } = φ x) :
    φ x.warmPower.queuesWarm = φ (powerCleared x) := by
  rw [queuesWarm_const _ φ hq, warmPower_eq, (sameButRegs_showLimits _).const φ hr]

theorem warmPower_rst (x : State) : x.warmPower.queuesWarm.rst = x.rst := warmPower_const x State.rst (fun _ _ => rfl) (fun _ _ => rfl)

theorem warmPower_limits (x : State) : (∀ c, x.warmPower.queuesWarm.latchedLimit c = 64) ∧
    ∀ d, x.warmPower.queuesWarm.dieLimit d = 64 ∧ x.warmPower.queuesWarm.memLimit d = 64 :=
  ⟨fun c => warmPower_const x (fun t => t.latchedLimit c) (fun _ _ => rfl) (fun _ _ => rfl),
    fun d => ⟨warmPower_const x (fun t => t.dieLimit d) (fun _ _ => rfl) (fun _ _ => rfl),
      warmPower_const x (fun t => t.memLimit d) (fun _ _ => rfl) (fun _ _ => rfl)⟩⟩

/-- The shown limits change the zones' registers alone. -/
theorem rd_showLimits (x : State) {g : Fld} {b i : Nat} (h : ∀ z < 10, F.pwrZlim.key 0 z ≠ g.key b i) : x.showLimits.rd g b i = x.rd g b i := by
  unfold State.showLimits
  rw [foldl_range_keeps (φ := fun t => t.rd g b i) (f := fun s h => s.wr F.pwrZlim (s.hubLimit h) 0 (8 + h)) (n := 2)
      (fun t k hk => rd_wr_other _ _ _ _ _ _ _ _ (h (8 + k) (by omega))),
    foldl_range_keeps (φ := fun t => t.rd g b i) (f := fun s d => s.wr F.pwrZlim (s.zoneLimit d) 0 d) (n := 8)
      (fun t k hk => rd_wr_other _ _ _ _ _ _ _ _ (h k (by omega)))]

/-- A field of the reset block is none of the power controller's. -/
theorem rd_warmPower_of_reset (x : State) {g : Fld} {i : Nat} (hg : g.lo < 64) (ha : 0x700000 ≤ g.addr 0 i) :
    x.warmPower.queuesWarm.rd g 0 i = x.rd g 0 i := by
  have hzone : ∀ z < 10, F.pwrZlim.key 0 z ≠ g.key 0 i := by
    intro z hz
    refine key_ne_of_addr_ne (by decide) hg ?_
    have hlt : F.pwrZlim.addr 0 z < 0x700000 := by
      simp only [Fld.addr, Blk.base, F.pwrZlim]
      omega
    omega
  have hstate : F.pwrMstate.key 0 0 ≠ g.key 0 i := by
    refine key_ne_of_addr_ne (by decide) hg ?_
    have hlt : F.pwrMstate.addr 0 0 < 0x700000 := by decide
    omega
  rw [rd_queuesWarm, warmPower_eq, rd_showLimits _ hzone, powerCleared, rd_wr_other _ _ _ _ _ _ _ _ hstate]
  rfl

theorem rd_mstate_warmPower (x : State) : x.warmPower.queuesWarm.rd F.pwrMstate = 0 := by
  have hzone : ∀ z < 10, F.pwrZlim.key 0 z ≠ F.pwrMstate.key 0 0 := fun z _ => key_ne_of_lo_ne (by decide) (by decide) (by decide) _ _ _ _
  rw [rd_queuesWarm, warmPower_eq, rd_showLimits _ hzone, powerCleared, rd_wr_same]
  rfl

/-- The bits of the cores' resets cleared. -/
def coresReleased (x : State) : State := (List.range 9).foldl (fun s i => s.wr F.rstCoreInr 0 0 i) x

theorem rd_coresReleased (x : State) {i : Nat} (hi : i < 9) : (coresReleased x).rd F.rstCoreInr 0 i = 0 := by
  refine (foldl_range_at (φ := fun t => t.rd F.rstCoreInr 0 i) (f := fun s i => s.wr F.rstCoreInr 0 0 i) hi (fun u e _ hne => ?_) x).trans
    (rd_wr_same _ _ _ _ _)
  refine rd_wr_other _ _ _ _ _ _ _ _ (key_ne_of_addr_ne (by decide) (by decide) ?_)
  simp only [Fld.addr, Blk.base, F.rstCoreInr]
  omega

theorem endBlocks_eq (x : State) :
    x.endBlocks = ((((coresReleased x).wr F.rstFabInr 0).wr F.rstMemcInr 0).wr F.rstEngInr 0).modRst (fun r => { r with blocks := [] }) := rfl

theorem rd_modRst (x : State) (f : ResetState → ResetState) (g : Fld) (b i : Nat) : (x.modRst f).rd g b i = x.rd g b i := rfl

theorem rd_endBlocks (x : State) (g : Fld) (i : Nat) :
    x.endBlocks.rd g 0 i = ((((coresReleased x).wr F.rstFabInr 0).wr F.rstMemcInr 0).wr F.rstEngInr 0).rd g 0 i := by
  rw [endBlocks_eq, rd_modRst]

theorem blocks_endBlocks (x : State) : x.endBlocks.rst.blocks = [] := rfl

theorem rd_core_endBlocks (x : State) {i : Nat} (hi : i < 9) : x.endBlocks.rd F.rstCoreInr 0 i = 0 := by
  have hoff : ∀ f : Fld, f.lo < 64 → 0x7001C0 ≤ f.addr 0 0 → f.key 0 0 ≠ F.rstCoreInr.key 0 i := by
    intro f hlo hlt
    refine key_ne_of_addr_ne hlo (by decide) ?_
    have hi : F.rstCoreInr.addr 0 i < 0x7001C0 := by
      simp only [Fld.addr, Blk.base, F.rstCoreInr]
      omega
    omega
  rw [rd_endBlocks, rd_wr_other _ _ _ _ _ _ _ _ (hoff _ (by decide) (by decide)), rd_wr_other _ _ _ _ _ _ _ _ (hoff _ (by decide) (by decide)),
    rd_wr_other _ _ _ _ _ _ _ _ (hoff _ (by decide) (by decide)), rd_coresReleased x hi]

theorem rd_flags_endBlocks (x : State) : x.endBlocks.rd F.rstFabInr = 0 ∧ x.endBlocks.rd F.rstMemcInr = 0 ∧ x.endBlocks.rd F.rstEngInr = 0 := by
  refine ⟨?_, ?_, ?_⟩
  · rw [rd_endBlocks, rd_wr_other _ _ _ _ _ _ _ _ (by decide), rd_wr_other _ _ _ _ _ _ _ _ (by decide), rd_wr_same]
    rfl
  · rw [rd_endBlocks, rd_wr_other _ _ _ _ _ _ _ _ (by decide), rd_wr_same]
    rfl
  · rw [rd_endBlocks, rd_wr_same]
    rfl

end

/-- Settles O38: a cold assertion by the list of what flash and fuses hold, a warm one by its last steps. -/
theorem whatResetsKeep : Obligations.WhatResetsKeep := by
  refine ⟨?_, ?_⟩
  · intro s h t
    have hflash : ∀ x ∈ flashFields, F.rstColdCnt.key 0 0 ≠ x.1.key x.2 0 → F.pwrLedgerEp.key 0 0 ≠ x.1.key x.2 0 →
        t.rd x.1 x.2 = s.rd x.1 x.2 % 2 ^ x.1.w := fun x hx hc hl => rd_assert_of_flash h hx hc hl
    have hkeep : ∀ {α : Type} (φ : State → α), (∀ x y, φ { x with rst := y } = φ x) → (∀ x rs, φ { x with regs := rs } = φ x) →
        φ t = φ (wipeBase (coldCounted s)) := fun φ hr hg => (assert_of_cold_const h φ hr).trans (wipe_const φ hg _)
    have hstack : ∀ n, t.stack n = (coldCounted s).wipe.stack n := fun n => assert_of_cold_const h (fun t => t.stack n) (fun _ _ => rfl)
    refine ⟨coldCnt_assert h, (assert_rst_of_cold h).2.2, hflash (F.idFuseSvn, 0) (by decide +kernel) (by decide) (by decide),
      hflash (F.idImage, 0) (by decide +kernel) (by decide) (by decide), hflash (F.idClaimed, 0) (by decide +kernel) (by decide) (by decide),
      hflash (F.hpSetupPt, 0) (by decide +kernel) (by decide) (by decide), fun n hn => macs_assert h hn, fun n hn => marks_assert h hn, fun n => ?_,
      hkeep (fun t => t.mgmt.creds) (fun _ _ => rfl) (fun _ _ => rfl), hkeep (fun t => t.mgmt.images) (fun _ _ => rfl) (fun _ _ => rfl),
      hkeep (fun t => t.mgmt.cal) (fun _ _ => rfl) (fun _ _ => rfl), hkeep (fun t => t.mem.dram) (fun _ _ => rfl) (fun _ _ => rfl),
      hkeep (fun t => t.mem.mere) (fun _ _ => rfl) (fun _ _ => rfl), hkeep (fun t => t.mem.poison) (fun _ _ => rfl) (fun _ _ => rfl),
      hkeep (fun t => t.host.rings) (fun _ _ => rfl) (fun _ _ => rfl)⟩
    rw [hstack]
    exact wipe_stack (coldCounted s) n
  · intro s h t
    obtain ⟨x, hx⟩ := warmAssert_eq (s.modRst (fun r => { r with stage := 0, memIn := r.cold, recovery := false, off := false }))
    have ht : t = x.endBlocks.warmPower.queuesWarm := (assert_of_warm h).trans hx
    obtain ⟨hfab, hmemc, heng⟩ := rd_flags_endBlocks x
    obtain ⟨hlat, hlim⟩ := warmPower_limits x.endBlocks
    rw [ht]
    refine ⟨(congrArg ResetState.blocks (warmPower_rst _)).trans (blocks_endBlocks x), fun i hi => ?_, (rd_warmPower_of_reset _ (by decide) (by decide)).trans hfab,
      (rd_warmPower_of_reset _ (by decide) (by decide)).trans hmemc, (rd_warmPower_of_reset _ (by decide) (by decide)).trans heng,
      rd_mstate_warmPower _, hlat, hlim⟩
    refine (rd_warmPower_of_reset _ (by decide) ?_).trans (rd_core_endBlocks x hi)
    simp only [Fld.addr, Blk.base, F.rstCoreInr]
    omega

end Sys2Proof.Machine.ResetLaws
end

section
/-! PROOF. Block resets (17_reset_and_startup.md, R625 to R627): who may ask, what begins, the end of a drain and the release (O41). -/
namespace Sys2Proof.Machine.BlockLaws
open Sys2Proof Sys2Proof.Machine.Laws Sys2Proof.Machine.ClockLaws Sys2Proof.Machine.BoundaryLaws Sys2Proof.Machine.ResetLaws

section
variable {s : State} {q b i : Nat}

theorem blockWrite_of_down (h : s.hostUp q = false) : s.blockWrite q b i = s := if_pos (by simp [h])

theorem blockWrite_of_other (h : s.hostUp q = true) (hq : q ≠ s.setupPort) : s.blockWrite q b i =
    s.clampReg q none 6 0x0E09 ((rstOf b i).1.addr 0 (rstOf b i).2.1) (2 ^ (rstOf b i).2.2) 0 :=
  (if_neg (by simp [h])).trans (if_pos (by simp [hq]))

theorem blockWrite_of_setup (h : s.hostUp q = true) (hq : q = s.setupPort) : s.blockWrite q b i = s.blockBegin b i :=
  (if_neg (by simp [h])).trans (if_neg (by simp [hq]))

/-- The ten commands of a block reset that end with no more than the delivery of their records. -/
noncomputable def blockAsks (q k : HostPort) (c : CoreId) (i : Fin 12) (n : StackId) (h : Fin 2) : List (Instr × Nat × Nat) :=
  [(.coreReset q c, bkCore, c.val), (.fabricStopReset q i, bkFab, i.val), (.memoryControllerReset q n, bkMemc, n.val),
    (.hostPortReset q k, bkHost, k.val), (.intakeEngineReset q h, bkIntake, h.val), (.dispatchEngineReset q h, bkDisp, h.val + 2),
    (.tierEngineReset q h, bkTier, h.val), (.checkpointEngineReset q h, bkCkpt, h.val), (.sha3EngineReset q h, bkSha3, h.val),
    (.timeUnitReset q h, bkTime, h.val + 2)]

/-- Each of them is a write of its block's reset bit. -/
theorem exec_blockAsk (q k : HostPort) (c : CoreId) (i : Fin 12) (n : StackId) (h : Fin 2) (s : State) :
    ∀ e ∈ blockAsks q k c i n h, exec e.1 s = .next (s.blockWrite q.val e.2.1 e.2.2).flush := by
  simp only [blockAsks, List.forall_mem_cons]
  exact ⟨rfl, rfl, rfl, rfl, rfl, rfl, rfl, rfl, rfl, rfl, fun _ h => absurd h List.not_mem_nil⟩

theorem blockBegin_of_in (h : s.blockIn b i = true) : s.blockBegin b i = s := if_pos h

theorem blockBegin_of_second (h : s.blockIn bkFab i = false) (hf : s.rd F.rstFabInr ≠ 0) : s.blockBegin bkFab i = s.blockEvent bkFab i 2 0 0 :=
  (if_neg (by simp [h])).trans (if_pos (by simp [hf]))

theorem blockBegin_of_free (h : s.blockIn b i = false) (hf : b ≠ bkFab ∨ s.rd F.rstFabInr = 0) :
    s.blockBegin b i = (s.modRst (fun r => { r with blocks := tput r.blocks (blockKey b i) ⟨false, 0⟩ })).blockStart b i := by
  refine (if_neg (by simp [h])).trans (if_neg ?_)
  rcases hf with hf | hf
  · simp [hf]
  · simp [hf]

/-- Engines, and they alone, only show their bit as their reset begins. -/
theorem blockStart_of_engine (hlo : bkIntake ≤ b) (hhi : b ≤ bkSha3) : s.blockStart b i = s.setInr b i true := by
  have hne : b ≠ bkMemc ∧ b ≠ bkCore ∧ b ≠ bkFab ∧ b ≠ bkNet ∧ b ≠ bkHost ∧ b ≠ bkTime := by
    simp only [bkIntake, bkSha3, bkMemc, bkCore, bkFab, bkNet, bkHost, bkTime] at hlo hhi ⊢
    omega
  obtain ⟨hmemc, hcore, hfab, hnet, hhost, htime⟩ := hne
  simp [State.blockStart, hmemc, hcore, hfab, hnet, hhost, htime]

theorem drainEnd_of_out {k : Nat} (h : s.blockIn (engOf k).1 (engOf k).2 = false) : s.drainEnd k = s := by
  have hnone : tget? s.rst.blocks (blockKey (engOf k).1 (engOf k).2) = none := by
    simpa [State.blockIn, thas] using h
  unfold State.drainEnd
  dsimp only
  rw [hnone]

theorem drainEnd_of_intake {x : BlockReset} (h : tget? s.rst.blocks (blockKey bkIntake 0) = some x) (hx : x.drained = false) : s.drainEnd 10 =
    ((s.drainIntake 0).queuesReset bkIntake 0).modRst (fun r => { r with
        blocks := tput r.blocks (blockKey bkIntake 0) ⟨true, s.owedCount - (s.drainIntake 0).owedCount⟩ }) := by
  have hrun : s.drainEnd 10 = (match tget? s.rst.blocks (blockKey bkIntake 0) with
      | none => s
      | some x => if x.drained || bkIntake < bkIntake then s
        else ((s.drainIntake 0).queuesReset bkIntake 0).modRst (fun r => { r with
          blocks := tput r.blocks (blockKey bkIntake 0) ⟨true, s.owedCount - (s.drainIntake 0).owedCount⟩ })) := rfl
  rw [hrun, h]
  exact if_neg (by simp [hx])

theorem blockRelease_of_out {us : Nat} (h : s.blockIn b i = false) : s.blockRelease b i us = s := by
  have hnone : tget? s.rst.blocks (blockKey b i) = none := by simpa [State.blockIn, thas] using h
  unfold State.blockRelease
  rw [hnone]

theorem blockRelease_of_held {us : Nat} {x : BlockReset} (h : tget? s.rst.blocks (blockKey b i) = some x) (hm : s.blockMay b i x = false) :
    s.blockRelease b i us = s := by
  unfold State.blockRelease
  rw [h]
  exact if_pos (by simp [hm])

/-- An engine's release resumes its queues; a tier engine issues what waits besides. -/
theorem blockRelease_of_engine {us : Nat} {x : BlockReset} (h : tget? s.rst.blocks (blockKey b i) = some x) (hm : s.blockMay b i x = true)
    (hlo : bkIntake ≤ b) (hhi : b ≤ bkSha3) : s.blockRelease b i us =
      (let t := ((s.setInr b i false).modRst (fun r => { r with blocks := tdel r.blocks (blockKey b i) })).queuesResume b i
       let u := if b = bkTier then t.tierIssueAll else t
       (u.blockEvent b i 1 x.ended us).waitingLook) := by
  have hne : b ≠ bkMemc ∧ b ≠ bkCore ∧ b ≠ bkFab ∧ b ≠ bkHost ∧ b ≠ bkTime := by
    simp only [bkIntake, bkSha3, bkMemc, bkCore, bkFab, bkHost, bkTime] at hlo hhi ⊢
    omega
  obtain ⟨hmemc, hcore, hfab, hhost, htime⟩ := hne
  unfold State.blockRelease
  rw [h]
  dsimp only
  rw [if_neg (by simp [hm]), if_neg hcore, if_neg hmemc, if_neg hfab, if_neg hhost, if_neg htime]

end

/-- Settles O41: the write of a reset bit by its port, the begin of a block by its kind, and the release of an engine. -/
theorem blockResets : Obligations.BlockResets := by
  refine ⟨?_, fun s b i h => blockBegin_of_in h, fun s i h hf => blockBegin_of_second h hf, fun s b i h hf => blockBegin_of_free h hf,
    fun s i => ⟨rfl, rfl, rfl, rfl, rfl, rfl, fun b hlo hhi => blockStart_of_engine hlo hhi⟩,
    fun k s => ⟨fun h => next_closed (drainEnd_of_out h), fun x h hx => next_closed (drainEnd_of_intake h hx)⟩,
    fun c s => ⟨rfl, rfl⟩, fun b i us s => ⟨fun h => next_closed (blockRelease_of_out h), fun x h hm => next_closed (blockRelease_of_held h hm),
      fun x h hm hlo hhi => next_closed (blockRelease_of_engine h hm hlo hhi)⟩⟩
  intro q k c i n m h s asks clamp
  refine ⟨fun hd => ⟨fun e he => (exec_blockAsk q k c i n h s e he).trans (next_flush (blockWrite_of_down hd)), next_closed (blockWrite_of_down hd)⟩,
    fun hu hq => ⟨fun e he => (exec_blockAsk q k c i n h s e he).trans (next_flush (blockWrite_of_other hu hq)), next_closed (blockWrite_of_other hu hq)⟩,
    fun hu hq => ⟨fun e he => (exec_blockAsk q k c i n h s e he).trans (next_flush (blockWrite_of_setup hu hq)), next_closed (blockWrite_of_setup hu hq)⟩⟩

end Sys2Proof.Machine.BlockLaws
end

section
/-! PROOF. Memory tiers (09_tiers_and_weights.md): tier objects, reads of lower tiers, lends and promotions (O42 to O45). -/
namespace Sys2Proof.Machine.TierLaws
open Sys2Proof Sys2Proof.Machine.Laws Sys2Proof.Machine.ClockLaws Sys2Proof.Machine.BoundaryLaws Sys2Proof.Machine.StepLaws
  Sys2Proof.Machine.DispatchLaws

/-! ## The life of an object (R317 to R321) -/

section
variable {r : DRef} {d : Desc} {t u : State} {o : Obj}

/-- What OBJECT_CREATE asks of its slot and image. -/
def Creatable (u : State) (p slot : Nat) (old : Option Obj) (b : Nat) (o : Obj) : Prop :=
  slot < u.rd F.pObjMax p ∧ (∀ x, old = some x → x.state = 0) ∧ u.imageOk p b o = true

theorem createGuard_iff {p slot b : Nat} {old : Option Obj} :
    (decide (u.rd F.pObjMax p ≤ slot) || !(old.map (fun o => o.state == 0)).getD true || !u.imageOk p b o) = true ↔ ¬ Creatable u p slot old b o := by
  have hfree : (old.map (fun o => o.state == 0)).getD true = true ↔ ∀ x, old = some x → x.state = 0 := by
    cases old with
    | none => simp
    | some x => simp
  simp only [Creatable, Bool.or_eq_true, decide_eq_true_eq, Bool.not_eq_true', not_and_or, Nat.not_lt, ← Bool.not_eq_true, hfree, or_assoc]

theorem runObjCreate_of_unread (h : t.descRead r.part (d.at 24 64) 128 = (none, u)) : t.runObjCreate r d = u.noop r := by
  simp only [State.runObjCreate, h]

theorem runObjCreate_of_read {bs : List Byte} (h : t.descRead r.part (d.at 24 64) 128 = (some bs, u)) : t.runObjCreate r d =
    (let slot := d.fld 0 12
     let old := tget? (u.part r.part).tier.objs slot
     let gen := (old.map (fun o => o.gen)).getD 0
     let o := objOf (leNat bs) gen
     if decide (u.rd F.pObjMax r.part ≤ slot) || !(old.map (fun o => o.state == 0)).getD true || !u.imageOk r.part (leNat bs) o then u.nullDesc r tierNull slot
     else
       let v := u.modTier r.part (fun y => { y with objs := tput y.objs slot o })
       ((v.writePva (v.engCtx r.part engDesc) (d.at 24 64 + 124) (leBytes 4 (objHandle slot gen)) false).2.countObjs r.part).done r) := by
  simp only [State.runObjCreate, h]
  rfl

theorem runObjWrite_of_dead (h : t.obj? r.part (d.at 16 32) = none) : t.runObjWrite r d = t.nullDesc r tierNull (d.at 16 32) := by
  simp only [State.runObjWrite, h]
  rfl

theorem buildGuard_of_wrong (h : o.state ≠ 1 ∨ o.sealer.isSome = true) : (o.state != 1 || o.sealer.isSome) = true := by
  rcases h with h | h
  · simp [h]
  · simp [h]

theorem buildGuard_of_building (h : o.state = 1) (hs : o.sealer = none) : ¬ (o.state != 1 || o.sealer.isSome) = true := by simp [h, hs]

theorem runObjWrite_of_wrong (h : t.obj? r.part (d.at 16 32) = some o) (hw : o.state ≠ 1 ∨ o.sealer.isSome = true) :
    t.runObjWrite r d = t.wrongState r (d.at 16 32) := by
  simp only [State.runObjWrite, h, if_pos (buildGuard_of_wrong hw)]

/-- A write of a building object, its source not yet looked at. -/
theorem runObjWrite_of_building (h : t.obj? r.part (d.at 16 32) = some o) (h1 : o.state = 1) (hs : o.sealer = none) : t.runObjWrite r d =
    (let fit := Nat.min (d.at 32 64) (o.length - d.at 24 64)
     let t' := if fit < d.at 32 64 then t.clampDesc r 2 0x0506 (d.at 32 64) fit else t
     let r' : DRef := { r with clamped := r.clamped || decide (fit < d.at 32 64) }
     let x := t'.readPva (t'.engCtx r.part engTier) (d.at 40 64) fit
     if x.1.fault then x.2.complete r' 5 false 0
     else if x.1.poison then x.2.complete r' 3 false 0
     else
       let w := (x.2.modObj r.part (hSlot (d.at 16 32)) (fun o => { o with pendingWrites := o.pendingWrites ++ [r'] })).writeBacking
         r.part (d.at 16 32) o (d.at 24 64) x.1.bytes (some r')
       if !w.1 then w.2.endWrite r.part r' 3
       else if w.2.tiers.msgs.any (fun e => e.2.write == some r') then w.2 else w.2.endWrite r.part r' 0) := by
  simp only [State.runObjWrite, h, if_neg (buildGuard_of_building h1 hs)]

theorem runObjSeal_of_dead (h : t.obj? r.part (d.at 16 32) = none) : t.runObjSeal r d = t.nullDesc r tierNull (d.at 16 32) := by
  simp only [State.runObjSeal, h]
  rfl

theorem runObjSeal_of_wrong (h : t.obj? r.part (d.at 16 32) = some o) (hw : o.state ≠ 1 ∨ o.sealer.isSome = true) :
    t.runObjSeal r d = t.wrongState r (d.at 16 32) := by
  simp only [State.runObjSeal, h, if_pos (buildGuard_of_wrong hw)]

theorem runObjSeal_of_building (h : t.obj? r.part (d.at 16 32) = some o) (h1 : o.state = 1) (hs : o.sealer = none) : t.runObjSeal r d =
    (t.modObj r.part (hSlot (d.at 16 32)) (fun o => { o with sealer := some r })).trySeal r.part (hSlot (d.at 16 32)) := by
  simp only [State.runObjSeal, h, if_neg (buildGuard_of_building h1 hs)]

section
variable {s : State} {p slot : Nat}

theorem trySeal_of_pending (h : tget? (s.part p).tier.objs slot = some o) (hs : o.sealer = some r) (hp : o.pendingWrites ≠ []) :
    s.trySeal p slot = s := by
  simp only [State.trySeal, h, hs, bne_iff_ne, ne_eq, hp, not_false_eq_true, if_true]

theorem trySeal_of_idle (h : tget? (s.part p).tier.objs slot = some o) (hs : o.sealer = some r) (hp : o.pendingWrites = []) : s.trySeal p slot =
    (let v := (s.modObj p slot (fun o => { o with state := 2, sealer := none })).dropBuilds p (objHandle slot o.gen)
     (if o.tier = 2 then v.sealReplicas p o 4 else v).done r) := by
  simp only [State.trySeal, h, hs, hp, bne_self_eq_false, Bool.false_eq_true, if_false]

theorem objFree_of_none (h : tget? (s.part p).tier.objs slot = none) : s.objFree p slot = s := by simp only [State.objFree, h]

theorem objFree_of_held (h : tget? (s.part p).tier.objs slot = some o) (hh : o.state ≠ 3 ∨ s.objHeld p (objHandle slot o.gen) o = true) :
    s.objFree p slot = s := by
  have hguard : (o.state != 3 || s.objHeld p (objHandle slot o.gen) o) = true := by
    rcases hh with hh | hh
    · simp [hh]
    · simp [hh]
  simp only [State.objFree, h, if_pos hguard]

/-- The state in which a freed object's granules and sealed copies are gone and its retirement is completed. -/
def objGone (s : State) (p slot : Nat) (o : Obj) : State :=
  let h := objHandle slot o.gen
  let t := (s.setTiers (fun y => { y with gbuf := y.gbuf.filter (fun x => !(x.part == p && x.handle == h)) })).dropBuilds p h
  let t := if o.tier = 2 then t.sealReplicas p o 5 else t
  (o.retirer.map (fun r => t.done r)).getD t

section
variable (h : tget? (s.part p).tier.objs slot = some o) (h3 : o.state = 3) (hh : s.objHeld p (objHandle slot o.gen) o = false)
include h h3 hh

theorem objFree_of_retired (hr : o.recreate = none) :
    s.objFree p slot = ((objGone s p slot o).modObj p slot (fun _ => { objOf 0 ((o.gen + 1) % 2 ^ 20) with state := 0 })).countObjs p := by
  simp only [State.objFree, h, h3, hh, bne_self_eq_false, Bool.or_self, Bool.false_eq_true, if_false, hr, objGone]
  cases o.retirer with
  | none => rfl
  | some x => rfl

theorem objFree_of_demoted {n i : Nat} (hr : o.recreate = some (n, i)) : s.objFree p slot =
    (((objGone s p slot o).modObj p slot (fun x =>
      { x with gen := (o.gen + 1) % 2 ^ 20, state := 1, recreate := none, retirer := none, lastRead := none })).modEntry p n i
        (fun e => { e with objAlt := objHandle slot ((o.gen + 1) % 2 ^ 20) })).writeEntry p n i := by
  simp only [State.objFree, h, h3, hh, bne_self_eq_false, Bool.or_self, Bool.false_eq_true, if_false, hr, objGone]
  cases o.retirer with
  | none => rfl
  | some x => rfl

end

end

theorem runObjRetire_of_dead (h : t.obj? r.part (d.at 16 32) = none) : t.runObjRetire r d = t.nullDesc r tierNull (d.at 16 32) := by
  simp only [State.runObjRetire, h]
  rfl

theorem runObjRetire_of_wrong (h : t.obj? r.part (d.at 16 32) = some o) (hw : o.state ≠ 2) : t.runObjRetire r d = t.wrongState r (d.at 16 32) := by
  simp only [State.runObjRetire, h, if_pos (show (o.state != 2) = true by simp [hw])]

theorem runObjRetire_of_sealed (h : t.obj? r.part (d.at 16 32) = some o) (h2 : o.state = 2) : t.runObjRetire r d =
    t.modObj r.part (hSlot (d.at 16 32)) (fun o => { o with state := 3, retirer := some r }) := by
  simp only [State.runObjRetire, h, if_neg (show ¬ (o.state != 2) = true by simp [h2])]

theorem runObjQuery_of_dead (h : t.obj? r.part (d.at 16 32) = none) : t.runObjQuery r d = t.nullDesc r tierNull (d.at 16 32) := by
  simp only [State.runObjQuery, h]
  rfl

theorem runObjQuery_of_live (h : t.obj? r.part (d.at 16 32) = some o) : t.runObjQuery r d =
    (let x := t.writePva (t.engCtx r.part engDesc) (d.at 24 64) (leBytes 128 (o.image (hSlot (d.at 16 32)))) false
     if x.1 then x.2.complete r 5 false 0 else x.2.done r) := by
  simp only [State.runObjQuery, h]

end

/-- Settles O42: the run of each descriptor of an object under the conditions of its case, the waiting seal and the free. -/
theorem tierObjects : Obligations.TierObjects := by
  refine ⟨fun s d r t u hs hread hh => closed_descriptor hs (runObjCreate_of_unread hread) hh, ?_,
    fun s d r t hs h hh => closed_descriptor hs (runObjWrite_of_dead h) hh, ?_, ?_,
    fun s p slot o r h hs => ⟨fun hp => trySeal_of_pending h hs hp, fun hp => trySeal_of_idle h hs hp⟩, ?_, ?_, ?_⟩
  · intro s d r t u bs hs hread slot old gen o ok
    refine ⟨fun hno hh => closed_descriptor hs ((runObjCreate_of_read hread).trans (if_pos (createGuard_iff.mpr hno))) hh, fun hok hh =>
      closed_descriptor hs ((runObjCreate_of_read hread).trans (if_neg fun hg => createGuard_iff.mp hg hok)) hh⟩
  · intro s d r t o hs h
    refine ⟨fun hw hh => closed_descriptor hs (runObjWrite_of_wrong h hw) hh, ?_⟩
    intro h1 hseal fit t' r' x
    have hrun := runObjWrite_of_building h h1 hseal
    refine ⟨fun hf hh => closed_descriptor hs (hrun.trans (if_pos hf)) hh,
      fun hf hp hh => closed_descriptor hs (hrun.trans ((if_neg (Bool.eq_false_iff.mp hf)).trans (if_pos hp))) hh, ?_⟩
    intro hf hp w y hh
    refine closed_descriptor hs (hrun.trans ((if_neg (Bool.eq_false_iff.mp hf)).trans ((if_neg (Bool.eq_false_iff.mp hp)).trans ?_))) hh
    simp only [Bool.not_eq_true']
    rfl
  · intro s d r t hs h
    exact ⟨fun hn hh => closed_descriptor hs (runObjSeal_of_dead hn) hh, fun o ho =>
      ⟨fun hw hh => closed_descriptor hs (runObjSeal_of_wrong ho hw) hh, fun h1 hseal hh =>
        closed_descriptor hs (runObjSeal_of_building ho h1 hseal) hh⟩⟩
  · intro s d r t hs h
    exact ⟨fun hn hh => closed_descriptor hs (runObjRetire_of_dead hn) hh,
      fun o ho hw hh => closed_descriptor hs (runObjRetire_of_wrong ho hw) hh,
      fun o ho h2 hh => closed_descriptor hs (runObjRetire_of_sealed ho h2) hh⟩
  · intro s d r t hs h
    exact ⟨fun hn hh => closed_descriptor hs (runObjQuery_of_dead hn) hh, fun o ho hh => closed_descriptor hs (runObjQuery_of_live ho) hh⟩
  · intro p slot s
    exact ⟨fun hn => next_flush (objFree_of_none hn), fun o ho => ⟨fun hh => next_flush (objFree_of_held ho hh), fun h3 hh =>
      ⟨fun hr => next_flush (objFree_of_retired ho h3 hh hr), fun n i hr => next_flush (objFree_of_demoted ho h3 hh hr)⟩⟩⟩

/-! ## Reads of lower tiers and the answers of lenders (R322 to R326) -/

section
variable {r : DRef} {d : Desc} {t : State} {o : Obj}

theorem runTierCopy_of_dead (h : t.obj? r.part (d.at 16 32) = none) : t.runTierCopy r d = t.nullDesc r tierNull (d.at 16 32) := by
  simp only [State.runTierCopy, h]
  rfl

theorem runTierCopy_of_live (h : t.obj? r.part (d.at 16 32) = some o) : t.runTierCopy r d =
    (if o.state ≠ 2 then t.wrongState r (d.at 16 32)
     else if o.length < d.at 24 64 + d.at 32 64 then t.nullDesc r tierNull (d.at 16 32)
     else if d.at 32 64 = 0 then t.done r
     else (t.tierStart r.part (d.at 16 32) (d.at 24 64) (d.at 32 64) (.copy r (d.at 40 64))).2) := by
  simp only [State.runTierCopy, h, bne_iff_ne]
  rfl

end

section
variable {s : State} {p h g : Nat} {data : List Byte} {o : Obj}

theorem granuleRead_of_none (ho : s.obj? p h = none) : s.granuleRead p h g data = s := by simp only [State.granuleRead, ho]

theorem granuleRead_of_outside (ho : s.obj? p h = some o) (hout : o.tier ≠ 1 ∨ o.length ≤ g * 4096) : s.granuleRead p h g data = s := by
  have hguard : (o.tier != 1 || decide (o.length ≤ g * 4096)) = true := by
    rcases hout with hout | hout
    · simp [hout]
    · simp [hout]
  simp only [State.granuleRead, ho, hguard, Bool.true_or, if_true]

/-- The read in flight that a granule answers, and the port it came through. -/
def granuleHit (s : State) (p h g : Nat) : Option TierRead := s.tiers.reads.find? (fun r => r.part == p && r.handle == h && r.gran == g)

def granuleFrom (s : State) (p h g : Nat) (o : Obj) : Nat := ((granuleHit s p h g).map (fun r => r.copy)).getD (s.granPort o g)

/-- What a granule of a host object leaves: the host's bytes, the count, and the reads in flight without it. -/
def granuleTaken (s : State) (p h g : Nat) (data : List Byte) (o : Obj) (q : Nat) : State :=
  ((s.hostWrite q (o.hostAddr q g) (bytesAt data 0 4096)).tierMib (if q = 0 then F.tierHrd0 else F.tierHrd1) 0 q 4096).setTiers
    (fun y => { y with reads := y.reads.filter (fun x => !(x.part == p && x.handle == h && x.gran == g)) })

theorem granuleRead_of_host (ho : s.obj? p h = some o) (h1 : o.tier = 1) (hin : g * 4096 < o.length) : s.granuleRead p h g data =
    (if ((granuleHit s p h g).isNone && s.tierHolds (granuleFrom s p h g o)) = true then s
     else ((granuleTaken s p h g data o (granuleFrom s p h g o)).granuleIn p h g (granuleFrom s p h g o)
        ((granuleTaken s p h g data o (granuleFrom s p h g o)).granCrypt p o g true (bytesAt data 0 4096))).tierIssueAll.demandIssue) := by
  have hguard : (o.tier != 1 || decide (o.length ≤ g * 4096)) = false := by simp [h1, hin]
  simp only [State.granuleRead, ho, hguard, Bool.false_or]
  rfl

theorem granuleRead_of_held (ho : s.obj? p h = some o) (h1 : o.tier = 1) (hin : g * 4096 < o.length) (hhit : granuleHit s p h g = none)
    (hheld : s.tierHolds (granuleFrom s p h g o) = true) : s.granuleRead p h g data = s :=
  (granuleRead_of_host ho h1 hin).trans (if_pos (by simp [hhit, hheld]))

theorem granuleRead_of_free (ho : s.obj? p h = some o) (h1 : o.tier = 1) (hin : g * 4096 < o.length)
    (hfree : (granuleHit s p h g).isSome = true ∨ s.tierHolds (granuleFrom s p h g o) = false) : s.granuleRead p h g data =
    ((granuleTaken s p h g data o (granuleFrom s p h g o)).granuleIn p h g (granuleFrom s p h g o)
        ((granuleTaken s p h g data o (granuleFrom s p h g o)).granCrypt p o g true (bytesAt data 0 4096))).tierIssueAll.demandIssue := by
  refine (granuleRead_of_host ho h1 hin).trans (if_neg ?_)
  rcases hfree with hhit | hfree
  · obtain ⟨r, hr⟩ := Option.isSome_iff_exists.mp hhit
    simp [hr]
  · simp [hfree]

/-- The granules a demand read waits for are told that they are lost. -/
theorem granulesLost_of_demand (s : State) (p h g n copy : Nat) : s.granulesLost p h g n copy none =
    ((s.inc F.tierRdFail n).tierEvent p h g copy 2 0 0).setTiers (fun y => { y with demand := y.demand.map (fun d =>
      if d.part = p ∧ d.handle = h ∧ g ≤ d.gran ∧ d.gran < g + n ∧ d.answer = none then { d with answer := some none } else d) }) := by
  simp only [State.granulesLost, Bool.and_eq_true, beq_iff_eq, decide_eq_true_eq, Option.isNone_iff_eq_none, and_assoc]

end

section
variable {s : State} {r : TierRead} {o : Obj}

theorem tierReadFail_of_second (ho : s.obj? r.part r.handle = some o) (h1 : o.tier = 1) (h2 : o.hmode = 2) (h0 : r.rounds = 0) : s.tierReadFail r =
    ((s.setTiers (fun y => { y with reads := y.reads.erase r })).tierEvent r.part r.handle r.gran (1 - r.copy) 1 0 0).setTiers
      (fun y => { y with reads := y.reads ++ [{ r with copy := 1 - r.copy, rounds := 1 }] }) := by
  have ho' : (s.setTiers (fun y => { y with reads := y.reads.erase r })).obj? r.part r.handle = some o := ho
  simp only [State.tierReadFail, ho', h1, h2, h0, if_true, decide_true, Bool.and_self]

theorem tierReadFail_of_last (ho : s.obj? r.part r.handle = some o) (h1 : o.tier = 1) (h2 : o.hmode ≠ 2 ∨ r.rounds ≠ 0) : s.tierReadFail r =
    (s.setTiers (fun y => { y with reads := y.reads.erase r })).granulesLost r.part r.handle r.gran r.n r.copy r.op := by
  have ho' : (s.setTiers (fun y => { y with reads := y.reads.erase r })).obj? r.part r.handle = some o := ho
  have hcond : ¬ (decide (o.hmode = 2) && decide (r.rounds = 0)) = true := by
    rcases h2 with h2 | h2
    · simp [h2]
    · simp [h2]
  simp only [State.tierReadFail, ho', h1, if_true, if_neg hcond]

variable {p tag cid : Nat} {data : List Byte} {t : State} {h : TierHdr}

theorem granuleFail_of_hit {g hd : Nat}
    (hr : s.tiers.reads.find? (fun r => r.part == p && r.handle == hd && decide (r.gran ≤ g) && decide (g < r.gran + r.n)) = some r) :
    s.granuleFail p hd g = (s.tierReadFail r).tierIssueAll.demandIssue := by
  simp only [State.granuleFail, hr]

theorem granuleFail_of_none {g hd : Nat}
    (hr : s.tiers.reads.find? (fun r => r.part == p && r.handle == hd && decide (r.gran ≤ g) && decide (g < r.gran + r.n)) = none) :
    s.granuleFail p hd g = s := by
  simp only [State.granuleFail, hr]

theorem readDataRx_of_closed (hc : s.chanPart cid = none) : s.readDataRx cid tag data = s := by simp only [State.readDataRx, hc]

theorem statusRx_of_closed (hc : s.chanPart cid = none) : s.statusRx cid h = s := by simp only [State.statusRx, hc]

theorem readDataRx_of_chunk (hc : s.chanPart cid = some p) (hr : s.restoreData p tag (some data) = (false, t)) :
    s.readDataRx cid tag data = (t.tierReadData cid tag data).ckptStep p := by
  simp only [State.readDataRx, hc, hr]

theorem tierReadData_of_none (hc : ∀ c, tget? s.net.chans cid = some c → s.nbrRead? c.part tag = none) : s.tierReadData cid tag data = s := by
  unfold State.tierReadData
  split
  · rfl
  next c hchan => rw [hc c hchan]

theorem tierReadData_of_chunk {c : Chan} (hchan : tget? s.net.chans cid = some c) (hr : s.nbrRead? c.part tag = some r)
    (ho : s.obj? r.part r.handle = some o) : s.tierReadData cid tag data =
    ((List.range r.n).foldl (fun u i => u.granuleIn r.part r.handle (r.gran + i) ((r.gran + i) % 2)
      (u.granCrypt r.part o (r.gran + i) true (bytesAt data (4096 * i) 4096)))
      ((s.setTiers (fun y => { y with reads := y.reads.erase r })).tierMib F.tierNrd 0 2 (4096 * r.n))).tierIssueAll.demandIssue := by
  simp only [State.tierReadData, hchan, hr, ho]

/-- A status that is no restore's: of a message of this module, or one that asks this module's lend. -/
theorem statusRx_of_status (hc : s.chanPart cid = some p) (hr : s.restoreData p h.tag.toNat none = (false, t)) : s.statusRx cid h =
    (if (!((t.nbrRead? p h.tag.toNat).isSome || ((tget? t.tiers.msgs h.tag.toNat).map (fun m => m.part == p)).getD false) &&
        (t.lend? cid h.lend.toNat).isSome) = true then t.lendReply cid 6 h.lend.toNat 0 h.tag.toNat 0 0 []
     else (t.tierStatus p h.tag.toNat h.status.toNat).ckptStep p) := by
  have hmine : (match tget? t.tiers.msgs h.tag.toNat with
      | some m => m.part == p
      | none => false) = ((tget? t.tiers.msgs h.tag.toNat).map (fun m => m.part == p)).getD false := by
    cases tget? t.tiers.msgs h.tag.toNat with
    | none => rfl
    | some m => rfl
  rw [← hmine]
  simp only [State.statusRx, hc, hr] <;> rfl

theorem tierStatus_of_chunk {status : Nat} (hr : s.nbrRead? p tag = some r) : s.tierStatus p tag status =
    (if status = 0 then s else (s.tierReadFail r).tierIssueAll.demandIssue) := by
  simp only [State.tierStatus, hr]

theorem tierStatus_of_none {status : Nat} (hr : s.nbrRead? p tag = none) (hm : tget? s.tiers.msgs tag = none) : s.tierStatus p tag status = s := by
  simp only [State.tierStatus, hr, hm]

end

/-- Settles O43: each answer of a lower tier by what it meets in flight. -/
theorem lowerTierReads : Obligations.LowerTierReads := by
  refine ⟨?_, ?_, fun p h g s => ⟨fun r hr => next_closed (congrArg (State.ckptStep · p.val) (granuleFail_of_hit hr)),
      fun hr => next_closed (congrArg (State.ckptStep · p.val) (granuleFail_of_none hr))⟩,
    fun s r o ho => ⟨fun h1 h2 h0 => tierReadFail_of_second ho h1 h2 h0, fun h1 h2 => tierReadFail_of_last ho h1 h2⟩,
    granulesLost_of_demand, fun cid h data s hc => ⟨next_closed (readDataRx_of_closed hc), next_closed (statusRx_of_closed hc)⟩,
    fun cid h data s t p hc hr => next_closed (readDataRx_of_chunk hc hr), fun s cid tag data hc => tierReadData_of_none hc,
    fun s cid tag data c r o hc hr ho => tierReadData_of_chunk hc hr ho, ?_⟩
  · intro s d r t hs h
    refine ⟨fun hn hh => closed_descriptor hs (runTierCopy_of_dead hn) hh, fun o ho => ⟨fun h2 hh =>
        closed_descriptor hs ((runTierCopy_of_live ho).trans (if_pos h2)) hh, fun h2 hl hh => closed_descriptor hs ((runTierCopy_of_live ho).trans
        ((if_neg (by simp [h2])).trans (if_pos hl))) hh, fun h2 hl h0 hh => closed_descriptor hs ((runTierCopy_of_live ho).trans
        ((if_neg (by simp [h2])).trans ((if_neg (by omega)).trans (if_pos h0)))) hh, fun h2 hl h0 hh => closed_descriptor hs
        ((runTierCopy_of_live ho).trans ((if_neg (by simp [h2])).trans ((if_neg (by omega)).trans (if_neg h0)))) hh⟩⟩
  · intro p h g data s
    refine ⟨fun hn => next_closed (congrArg (State.ckptStep · p.val) (granuleRead_of_none hn)),
      fun o ho hout => next_closed (congrArg (State.ckptStep · p.val) (granuleRead_of_outside ho hout)), ?_⟩
    intro o ho h1 hin hit q
    exact ⟨fun hhit hheld => next_closed (congrArg (State.ckptStep · p.val) (granuleRead_of_held ho h1 hin hhit hheld)),
      fun hfree => next_closed (congrArg (State.ckptStep · p.val) (granuleRead_of_free ho h1 hin hfree))⟩
  · intro cid h s t p hc hr
    have hrun := statusRx_of_status hc hr
    refine ⟨fun r hn => next_closed (hrun.trans ((if_neg (by simp [hn])).trans (congrArg (State.ckptStep · p) (tierStatus_of_chunk hn)))),
      fun m hn hm hp => next_closed (hrun.trans (if_neg (by simp [hm, hp]))), fun hn hm => next_closed (hrun.trans ?_)⟩
    rw [tierStatus_of_none hn hm]
    simp only [hn, hm, Option.isSome_none, Option.map_none, Option.getD_none, Bool.or_self, Bool.not_false, Bool.true_and]

/-! ## Lends and what the lender answers (R326, R327) -/

section
variable {r : DRef} {d : Desc} {t : State}

/-- Whether a channel answered by its handle is open. -/
def openChan (c : Option (Nat × Chan)) : Bool := (c.map (fun x => x.2.state == 2)).getD false

theorem openChan_iff (c : Option (Nat × Chan)) : openChan c = true ↔ ∃ x, c = some x ∧ x.2.state = 2 := by
  cases c with
  | none => simp [openChan]
  | some x => simp [openChan]

/-- What LEND_REGISTER asks of its number, channel and range. -/
def Lendable (t : State) (r : DRef) (d : Desc) : Prop :=
  thas (t.part r.part).tier.lends (d.fld 0 8) = false ∧ (∃ x, t.chan? r.part (d.at 20 32) = some x ∧ x.2.state = 2) ∧
    t.rwArea r.part (d.at 24 64) (d.at 32 64) = true

theorem runLendRegister_eq : t.runLendRegister r d =
    (if thas (t.part r.part).tier.lends (d.fld 0 8) || !openChan (t.chan? r.part (d.at 20 32)) || !t.rwArea r.part (d.at 24 64) (d.at 32 64) then
      t.nullDesc r tierNull (d.fld 0 8)
     else (t.putLend r.part (d.fld 0 8) ⟨r.part, d.at 20 32, d.at 24 64, d.at 32 64, [], none⟩).done r) := by
  unfold State.runLendRegister openChan
  dsimp only
  cases t.chan? r.part (d.at 20 32) with
  | none => rfl
  | some x => rfl

theorem lendGuard_iff : (thas (t.part r.part).tier.lends (d.fld 0 8) || !openChan (t.chan? r.part (d.at 20 32)) ||
    !t.rwArea r.part (d.at 24 64) (d.at 32 64)) = true ↔ ¬ Lendable t r d := by
  simp only [Lendable, ← openChan_iff, Bool.or_eq_true, Bool.not_eq_true', not_and_or, Bool.not_eq_false, Bool.not_eq_true, or_assoc]

theorem runLendRegister_of_refused (h : ¬ Lendable t r d) : t.runLendRegister r d = t.nullDesc r tierNull (d.fld 0 8) :=
  runLendRegister_eq.trans (if_pos (lendGuard_iff.mpr h))

theorem runLendRegister_of_lendable (h : Lendable t r d) : t.runLendRegister r d =
    (t.putLend r.part (d.fld 0 8) ⟨r.part, d.at 20 32, d.at 24 64, d.at 32 64, [], none⟩).done r :=
  runLendRegister_eq.trans (if_neg fun hg => lendGuard_iff.mp hg h)

theorem runLendRelease_of_dead (h : ∀ l, tget? (t.part r.part).tier.lends (d.fld 0 8) = some l → l.releasing.isSome = true) :
    t.runLendRelease r d = t.nullDesc r tierNull (d.fld 0 8) := by
  unfold State.runLendRelease
  dsimp only
  split
  · rfl
  next l hl => exact if_pos (h l hl)

theorem runLendRelease_of_live {l : Lend} (h : tget? (t.part r.part).tier.lends (d.fld 0 8) = some l) (hr : l.releasing = none) :
    t.runLendRelease r d = (t.putLend r.part (d.fld 0 8) { l with releasing := some r }).lendTryRelease r.part (d.fld 0 8) := by
  simp only [State.runLendRelease, h, hr, Option.isSome_none, Bool.false_eq_true, if_false]

end

section
variable {s : State} {cid lend tag ofs len msn : Nat} {data : List Byte}

theorem lendWrite_of_none (h : s.lend? cid lend = none) : s.lendWrite cid lend tag ofs len msn data = s.lendReply cid 6 lend 3 tag ofs len [] := by
  simp only [State.lendWrite, h]

theorem lendRead_of_none (h : s.lend? cid lend = none) : s.lendRead cid lend tag ofs len = s.lendReply cid 6 lend 3 tag ofs len [] := by
  simp only [State.lendRead, h]

theorem lendSeal_of_none {undo : Bool} (h : s.lend? cid lend = none) : s.lendSeal cid lend tag ofs len undo = s.lendReply cid 6 lend 3 tag ofs len [] := by
  simp only [State.lendSeal, h]

/-- A lend is found through a channel of this module. -/
theorem chan_of_lend {x : Nat × Lend} (h : s.lend? cid lend = some x) : ∃ c, tget? s.net.chans cid = some c := by
  unfold State.lend? at h
  split at h
  · cases h
  next c hc => exact ⟨c, hc⟩

variable {p : Nat} {l : Lend} (h : s.lend? cid lend = some (p, l))
include h

theorem lendRead_of_lend : s.lendRead cid lend tag ofs len =
    (if (!l.inside ofs len || decide (65536 < len)) = true then s.lendReply cid 6 lend 1 tag ofs len []
     else if (!l.sealedAll ofs len) = true then s.lendReply cid 6 lend 2 tag ofs len []
     else
      let x := s.readPva (s.lendCtx p) (l.pva + ofs) len
      if x.1.fault ∨ x.1.poison then x.2.lendReply cid 6 lend 1 tag ofs len [] else x.2.lendReply cid 2 lend 0 tag ofs len x.1.bytes) := by
  simp only [State.lendRead, h, Bool.or_eq_true]

theorem lendWrite_of_lend {c : Chan} (hc : tget? s.net.chans cid = some c) : s.lendWrite cid lend tag ofs len msn data =
    (if (!l.inside ofs len) = true then s.lendReply cid 6 lend 1 tag ofs len []
     else if l.sealedAny ofs len = true then s.violationOf cid 4 msn ofs c.pkey c.peerCid ((c.remotes.head?).getD c.peerIp) 0 0
     else
      let x := s.writePva (s.lendCtx p) (l.pva + ofs) (bytesAt data 0 len) false
      x.2.lendReply cid 6 lend (if x.1 then 1 else 0) tag ofs len []) := by
  simp only [State.lendWrite, h, hc]

theorem lendSeal_of_lend : s.lendSeal cid lend tag ofs len false =
    (if (!l.inside ofs len) = true then s.lendReply cid 6 lend 1 tag ofs len []
     else if 256 ≤ l.extents.length then s.lendReply cid 6 lend 4 tag ofs len []
     else (s.putLend p lend { l with extents := l.extents ++ [(ofs, len)] }).lendReply cid 6 lend 0 tag ofs len []) := by
  simp only [State.lendSeal, h, Bool.false_eq_true, if_false]

theorem lendUnseal_of_lend : s.lendSeal cid lend tag ofs len true =
    (if (!l.inside ofs len) = true then s.lendReply cid 6 lend 1 tag ofs len []
     else if (ofs, len) ∈ l.extents then (s.putLend p lend { l with extents := l.extents.erase (ofs, len) }).lendReply cid 6 lend 0 tag ofs len []
     else s.lendReply cid 6 lend 2 tag ofs len []) := by
  simp only [State.lendSeal, h, if_true, List.contains_eq_mem, decide_eq_true_eq]

end

/-- Settles O44: the two descriptors of a lend, and each message by the lend it names. -/
theorem lendsAndTheirAnswers : Obligations.LendsAndTheirAnswers := by
  refine ⟨?_, ?_, ?_, ?_⟩
  · intro s d r t hs n ok
    exact ⟨fun hno hh => closed_descriptor hs (runLendRegister_of_refused hno) hh, fun hok hh => closed_descriptor hs (runLendRegister_of_lendable hok) hh⟩
  · intro s d r t hs n
    exact ⟨fun hn hh => closed_descriptor hs (runLendRelease_of_dead hn) hh, fun l hl hr hh => closed_descriptor hs (runLendRelease_of_live hl hr) hh⟩
  · intro cid h data s hn no
    exact ⟨next_flush (lendRead_of_none hn), next_flush (lendWrite_of_none hn), next_flush (lendSeal_of_none hn), next_flush (lendSeal_of_none hn)⟩
  · intro cid h data s p l hl say inside
    obtain ⟨c, hc⟩ := chan_of_lend hl
    refine ⟨fun hout => ?_, fun hin => ?_⟩
    · have hguard : (!l.inside h.offset.toNat h.length.toNat) = true := by rw [show l.inside _ _ = false from hout]; rfl
      exact ⟨next_flush ((lendRead_of_lend hl).trans (if_pos (by rw [hguard]; rfl))), next_flush ((lendWrite_of_lend hl hc).trans (if_pos hguard)),
        next_flush ((lendSeal_of_lend hl).trans (if_pos hguard)), next_flush ((lendUnseal_of_lend hl).trans (if_pos hguard))⟩
    · have hguard : ¬ (!l.inside h.offset.toNat h.length.toNat) = true := by rw [show l.inside _ _ = true from hin]; simp
      have hshort : h.length.toNat ≤ 65536 → ¬ (!l.inside h.offset.toNat h.length.toNat || decide (65536 < h.length.toNat)) = true := by
        intro hle
        rw [show l.inside _ _ = true from hin]
        simp [hle]
      refine ⟨fun hlong => next_flush ((lendRead_of_lend hl).trans (if_pos (by simp [hlong]))),
        fun hle hsealed => next_flush ((lendRead_of_lend hl).trans ((if_neg (hshort hle)).trans (if_pos (by simp [hsealed])))),
        fun hle hsealed => next_flush ((lendRead_of_lend hl).trans ((if_neg (hshort hle)).trans (if_neg (by simp [hsealed])))),
        fun hsealed c hc => next_flush ((lendWrite_of_lend hl hc).trans ((if_neg hguard).trans (if_pos hsealed))),
        fun hsealed => next_flush ((lendWrite_of_lend hl hc).trans ((if_neg hguard).trans (if_neg (by simp [hsealed])))),
        next_flush ((lendSeal_of_lend hl).trans (if_neg hguard)), next_flush ((lendUnseal_of_lend hl).trans (if_neg hguard))⟩

/-! ## Promotions and demotions (R329 to R335) -/

section
variable {r : DRef} {d : Desc} {t : State}

/-- Whether a plan found in the table is not being released. -/
def knownPlan (x : Option Plan) : Bool := (x.map (fun x => x.releasing.isNone)).getD false

theorem knownPlan_iff (x : Option Plan) : knownPlan x = true ↔ ∃ y, x = some y ∧ y.releasing = none := by
  cases x with
  | none => simp [knownPlan]
  | some y => simp [knownPlan]

/-- A promotion list whose plan is known, read and checked. -/
def promoListRead (t : State) (r : DRef) (d : Desc) : State :=
  match t.descRead r.part (d.at 24 64) (128 * d.fld 16 13) with
  | (none, s) => s.noop r
  | (some bs, s) =>
    let es := (List.range (d.fld 16 13)).map (fun i => promoOf (leAt bs (128 * i) 128))
    let x := es.foldl (fun (a : Bool × State) e => if a.1 then a.2.promoEntryOk r.part e else a) (true, s)
    if x.1 then (x.2.modTier r.part (fun y => { y with promos := tput y.promos (d.fld 0 8) ⟨d.at 24 64, es, none⟩ })).done r
    else x.2.nullDesc r tierNull (d.fld 0 8)

/-- With 1 to 4,096 entries nothing is clamped. -/
theorem runPromoRegister_eq (h1 : 1 ≤ d.fld 16 13) (h2 : d.fld 16 13 ≤ 4096) : t.runPromoRegister r d =
    (if (!knownPlan (tget? (t.part r.part).cad.plans (d.fld 0 8)) || thas (t.part r.part).tier.promos (d.fld 0 8)) = true then
      t.nullDesc r tierNull (d.fld 0 8)
     else promoListRead t r d) := by
  have hclamp : clampN (d.fld 16 13) 1 4096 = d.fld 16 13 := by
    unfold clampN
    rw [if_neg (by omega), if_neg (by omega)]
  simp only [State.runPromoRegister, hclamp, bne_self_eq_false, Bool.false_eq_true, if_false, Bool.or_false, knownPlan, promoListRead]
  cases tget? (t.part r.part).cad.plans (d.fld 0 8) with
  | none => rfl
  | some x => rfl

theorem promoListRead_of_unread {u : State} (h : t.descRead r.part (d.at 24 64) (128 * d.fld 16 13) = (none, u)) : promoListRead t r d = u.noop r := by
  simp only [promoListRead, h]

theorem promoListRead_of_read {bs : List Byte} {u : State} (h : t.descRead r.part (d.at 24 64) (128 * d.fld 16 13) = (some bs, u)) :
    promoListRead t r d =
      (let es := (List.range (d.fld 16 13)).map (fun i => promoOf (leAt bs (128 * i) 128))
       let x := es.foldl (fun (a : Bool × State) e => if a.1 then a.2.promoEntryOk r.part e else a) (true, u)
       if x.1 then (x.2.modTier r.part (fun y => { y with promos := tput y.promos (d.fld 0 8) ⟨d.at 24 64, es, none⟩ })).done r
       else x.2.nullDesc r tierNull (d.fld 0 8)) := by
  simp only [promoListRead, h]

theorem runPromoRelease_of_dead (h : ∀ l, tget? (t.part r.part).tier.promos (d.fld 0 8) = some l → l.releasing.isSome = true) :
    t.runPromoRelease r d = t.nullDesc r tierNull (d.fld 0 8) := by
  unfold State.runPromoRelease
  dsimp only
  split
  · rfl
  next l hl => exact if_pos (h l hl)

theorem runPromoRelease_of_live {l : PromoList} (h : tget? (t.part r.part).tier.promos (d.fld 0 8) = some l) (hr : l.releasing = none) :
    t.runPromoRelease r d = (t.modTier r.part (fun y => { y with promos := tput y.promos (d.fld 0 8) { l with releasing := some r } })).promoTryRelease
      r.part (d.fld 0 8) := by
  simp only [State.runPromoRelease, h, hr, Option.isSome_none, Bool.false_eq_true, if_false]

end

section
variable {s : State} {p plan i : Nat}

theorem promoDone_of_idle (h : ∀ e, s.promoEntry? p plan i = some e → e.copying = none) : s.promoDone p plan i = s := by
  unfold State.promoDone
  split
  · rfl
  next e he => rw [h e he]

section
variable {e : PromoEntry} {k : Nat} {x : TierOp} (he : s.promoEntry? p plan i = some e)
include he

section
variable (hk : e.copying = some k) (hx : tget? s.tiers.ops k = some x)
include hk hx

theorem promoDone_of_unready (hr : x.ready = false) : s.promoDone p plan i = s := by
  simp only [State.promoDone, he, hk, hx, hr, Bool.not_false, if_true]

theorem promoDone_of_unread {u : State} (hr : x.ready = true) (hread : s.descRead p e.shePva 128 = (none, u)) :
    s.promoDone p plan i = ((u.tierDrop k).promoFail p plan i).promoTryRelease p plan := by
  simp only [State.promoDone, he, hk, hx, hr, Bool.not_true, Bool.false_eq_true, if_false, hread]

/-- A ready copy whose shard image is read: written, and a shard or a failed promotion. -/
theorem promoDone_of_read {b : List Byte} {u : State} (hr : x.ready = true) (hread : s.descRead p e.shePva 128 = (some b, u)) :
    s.promoDone p plan i =
      (let sh : Shard := { shardOf b with commits := e.commits, root := e.root }
       let w := u.writePva (u.engCtx p engTier) sh.curSet x.bytes false
       let t := w.2.tierDrop k
       if (w.1 || thas (t.part p).shards e.shard || !t.shardOk p b) = true then (t.promoFail p plan i).promoTryRelease p plan
       else (((((t.putShard p e.shard sh).countShards p).modEntry p plan i (fun e => { e with state := 1, copying := none, failed := false })).inc
         F.pPromos 1 p).postSig p e.sig).promoTryRelease p plan) := by
  simp only [State.promoDone, he, hk, hx, hr, Bool.not_true, Bool.false_eq_true, if_false, hread]

end

theorem promoFail_of_entry : s.promoFail p plan i =
    (let t := s.modEntry p plan i (fun e => { e with copying := none, failed := true })
     e.touched.foldl (fun u x => u.failRun p x.1 5) (((t.postSig p e.sig).tierEvent p e.objCur 0 0 3 plan e.shard).inc F.pTierFail 1 p)) := by
  simp only [State.promoFail, he]

theorem demoDone_of_failed {alt cur : Obj} {sh : Shard} (h2 : e.state = 2) (hr : e.reading = true) (ha : s.obj? p e.objAlt = some alt)
    (hc : s.obj? p e.objCur = some cur) (hs : s.shard? p e.shard = some sh) (h1 : alt.state = 1) : s.demoDone p plan i true =
    (((s.modEntry p plan i (fun e => { e with state := 1, reading := false, owed := true })).tierEvent p e.objAlt 0 0 4 plan e.shard).inc
      F.pTierFail 1 p).promoTryRelease p plan := by
  unfold State.demoDone
  split
  next hnone => rw [hnone] at he; cases he
  next e' he' =>
    obtain rfl : e' = e := Option.some.inj (he'.symm.trans he)
    split
    next alt' cur' sh' ha' hc' hs' =>
      obtain rfl : alt' = alt := Option.some.inj (ha'.symm.trans ha)
      exact (if_neg (by simp [h2, hr, h1])).trans (if_pos rfl)
    next hno => exact absurd hs (hno alt cur sh ha hc)

end

theorem demoDone_of_idle {failed : Bool} (h : ∀ e, s.promoEntry? p plan i = some e → e.state ≠ 2 ∨ e.reading = false) :
    s.demoDone p plan i failed = s := by
  unfold State.demoDone
  split
  · rfl
  next e he =>
    split
    next alt cur sh _ _ _ =>
      refine if_pos ?_
      rcases h e he with h | h
      · simp [h]
      · simp [h]
    · rfl

end

/-- Settles O45: the descriptors of a promotion list, and each end of a copy by the entry it finds. -/
theorem promotionsAndDemotions : Obligations.PromotionsAndDemotions := by
  refine ⟨?_, ?_, ?_, fun s p plan i e he => promoFail_of_entry he, fun p plan i failed s => ⟨fun h => next_flush (demoDone_of_idle h),
    fun e alt cur sh he h2 hr ha hc hs h1 => next_flush (demoDone_of_failed he h2 hr ha hc hs h1)⟩⟩
  · intro s d r t hs h1 h2 plan known
    have hrun := runPromoRegister_eq (t := t) (r := r) h1 h2
    have hlive : known → thas (t.part r.part).tier.promos plan = false →
        ¬ (!knownPlan (tget? (t.part r.part).cad.plans (d.fld 0 8)) || thas (t.part r.part).tier.promos (d.fld 0 8)) = true := by
      intro hk hp
      rw [(knownPlan_iff _).mpr hk, show thas (t.part r.part).tier.promos (d.fld 0 8) = false from hp]
      simp
    refine ⟨fun hno hh => closed_descriptor hs (hrun.trans (if_pos ?_)) hh, fun u hk hp hread hh => closed_descriptor hs (hrun.trans
      ((if_neg (hlive hk hp)).trans ?_)) hh, fun bs u hk hp hread hh => closed_descriptor hs (hrun.trans ((if_neg (hlive hk hp)).trans ?_)) hh⟩
    · rcases hno with hno | hp
      · rw [Bool.eq_false_iff.mpr fun hk => hno ((knownPlan_iff _).mp hk)]
        rfl
      · rw [show thas (t.part r.part).tier.promos (d.fld 0 8) = true from hp, Bool.or_true]
    · exact promoListRead_of_unread hread
    · exact promoListRead_of_read hread
  · intro s d r t hs plan
    exact ⟨fun hn hh => closed_descriptor hs (runPromoRelease_of_dead hn) hh, fun l hl hr hh => closed_descriptor hs (runPromoRelease_of_live hl hr) hh⟩
  · intro p plan i s
    refine ⟨fun h => next_flush (promoDone_of_idle h), fun e k x he hk hx => ⟨fun hr => next_flush (promoDone_of_unready he hk hx hr), ?_,
      fun hr u hread => next_flush (promoDone_of_unread he hk hx hr hread)⟩⟩
    intro hr b u hread sh w t
    refine ⟨fun hbad => next_flush ((promoDone_of_read he hk hx hr hread).trans (if_pos ?_)), fun hw hmeet hok =>
      next_flush ((promoDone_of_read he hk hx hr hread).trans (if_neg ?_))⟩
    · change (w.1 || thas (t.part p.val).shards e.shard || !t.shardOk p.val b) = true
      rcases hbad with h | h | h
      · rw [h]
        rfl
      · rw [h, Bool.or_true]
        rfl
      · rw [h, Bool.not_false, Bool.or_true]
    · change ¬ (w.1 || thas (t.part p.val).shards e.shard || !t.shardOk p.val b) = true
      rw [hw, hmeet, hok]
      simp

end Sys2Proof.Machine.TierLaws
end

section
/-! PROOF. Weight swaps and intakes (09_tiers_and_weights.md, R337 to R345): their descriptors, the boundary a swap turns at, and the end
of an intake (O46). -/
namespace Sys2Proof.Machine.SwapLaws
open Sys2Proof Sys2Proof.Machine.Laws Sys2Proof.Machine.ClockLaws Sys2Proof.Machine.BoundaryLaws Sys2Proof.Machine.StepLaws
  Sys2Proof.Machine.DispatchLaws Sys2Proof.Machine.GrainLaws Sys2Proof.Machine.MemoryLaws

/-! ## The descriptors of a swap set (R342, R344) -/

section
variable {r : DRef} {d : Desc} {t : State}

/-- The swap set a registration describes, its range-table entry not chosen yet. -/
def swapSetOf (d : Desc) : SwapSet := ⟨d.fld 6 3, d.fld 9 3, d.at 32 32, d.at 36 32, d.fld 12 2, d.fld 32 32, d.at 24 64 / mib2, 0, 0, [], none, none⟩

/-- The lowest range-table entry free now and after the edits under way. -/
def freeEntry (t : State) (p : Nat) : Option Nat :=
  (List.range (t.rd F.pRtSize p)).find? (fun i => !thas (t.part p).rtNext i && !thas (t.part p).rt i)

/-- What the registration of a swap set asks, its entry found. -/
def SwapSound (t : State) (p : Nat) (d : Desc) (i : Nat) : Prop :=
  t.swap? p (d.fld 0 6) = none ∧ d.at 24 64 % mib2 = 0 ∧ t.rtEditOk p i ((swapSetOf d).entry 0) = true ∧ t.rtEditOk p i ((swapSetOf d).entry 1) = true

theorem swapGuard_iff {p i : Nat} : ((t.swap? p (d.fld 0 6)).isSome || d.at 24 64 % mib2 != 0 || !t.rtEditOk p i ((swapSetOf d).entry 0) ||
    !t.rtEditOk p i ((swapSetOf d).entry 1)) = true ↔ ¬ SwapSound t p d i := by
  simp only [SwapSound, Bool.or_eq_true, Bool.not_eq_true', bne_iff_ne, not_and_or, Bool.not_eq_true, or_assoc, ← Option.not_isSome_iff_eq_none,
    Bool.not_eq_false]

theorem runSwapRegister_of_full (h : freeEntry t r.part = none) : t.runSwapRegister r d = t.nullDesc r tierNull (d.fld 0 6) := by
  unfold freeEntry at h
  simp only [State.runSwapRegister, h]

theorem runSwapRegister_of_free {i : Nat} (h : freeEntry t r.part = some i) : t.runSwapRegister r d =
    (if ((t.swap? r.part (d.fld 0 6)).isSome || d.at 24 64 % mib2 != 0 || !t.rtEditOk r.part i ((swapSetOf d).entry 0) ||
      !t.rtEditOk r.part i ((swapSetOf d).entry 1)) = true then t.nullDesc r tierNull (d.fld 0 6)
     else ((t.putSwap r.part (d.fld 0 6) { swapSetOf d with index := i }).rtSet r.part i (some ((swapSetOf d).entry 0))).modPart
        r.part (fun x => { x with rtWait := x.rtWait ++ [r] })) := by
  unfold freeEntry at h
  simp only [State.runSwapRegister, h]
  rfl

/-- The swap a descriptor asks for on a set. -/
def swapOpOf (t : State) (r : DRef) (d : Desc) (w : SwapSet) : SwapOp :=
  ⟨r, if d.at 24 64 = 2 ^ 64 - 1 then none else some (d.at 24 64),
    (((t.part r.part).cad.steps.find? (fun x => x.phase == .queued)).map (fun x => x.id)).getD (t.part r.part).cad.nextRun, d.fld 16 16, none,
    t.writesInto r.part (d.fld 0 6) (1 - w.active), false⟩

/-- Whether the step a swap names has ended (R344). -/
def stepGone (cad : PCad) (o : SwapOp) : Bool :=
  match o.stepNo, cad.lastStep with
  | some k, some l => decide (k ≤ l) && !cad.steps.any o.names
  | _, _ => false

theorem stepGone_iff (cad : PCad) (o : SwapOp) : stepGone cad o = true ↔
    ∃ k l, o.stepNo = some k ∧ cad.lastStep = some l ∧ k ≤ l ∧ cad.steps.any o.names = false := by
  unfold stepGone
  cases hk : o.stepNo with
  | none => simp
  | some k =>
    cases hl : cad.lastStep with
    | none => simp
    | some l => simp

/-- A swap that comes too late: its step has ended, or its boundary has passed. -/
def SwapLate (t : State) (p : Nat) (o : SwapOp) : Prop :=
  (∃ k l, o.stepNo = some k ∧ (t.part p).cad.lastStep = some l ∧ k ≤ l ∧ (t.part p).cad.steps.any o.names = false) ∨
    ∃ b, t.swapTick? p o = some b ∧ b ≤ t.tick

theorem lateGuard_iff {p : Nat} {o : SwapOp} :
    (stepGone (t.part p).cad o || ((t.swapTick? p o).map (fun b => decide (b ≤ t.tick))).getD false) = true ↔ SwapLate t p o := by
  rw [SwapLate, Bool.or_eq_true, stepGone_iff]
  refine or_congr Iff.rfl ?_
  cases t.swapTick? p o with
  | none => simp
  | some b => simp

theorem runSwap_of_none (h : t.swap? r.part (d.fld 0 6) = none) : t.runSwap r d = t.nullDesc r tierNull (d.fld 0 6) := by
  simp only [State.runSwap, h]

theorem runSwap_of_set {w : SwapSet} (h : t.swap? r.part (d.fld 0 6) = some w) : t.runSwap r d =
    (let o := swapOpOf t r d w
     let refuse := fun (k : Nat) => (t.swapEvent r.part (d.fld 0 6) (d.at 24 64) o.tidx t.tick w.active 3).complete r k true 0
     if w.releasing.isSome = true then t.nullDesc r tierNull (d.fld 0 6)
     else if (stepGone (t.part r.part).cad o || ((t.swapTick? r.part o).map (fun b => decide (b ≤ t.tick))).getD false) = true then refuse 7
     else if w.op.isSome = true then refuse 8
     else if w.faulted.contains (1 - w.active) = true then refuse 6
     else t.putSwap r.part (d.fld 0 6) { w with op := some { o with
       tick := ((t.part r.part).cad.steps.find? (fun x => x.phase != .queued && o.names x)).map (fun x => x.first + o.tidx) } }) := by
  simp only [State.runSwap, h, stepGone, swapOpOf]
  rfl

theorem runSwapRelease_of_dead (h : ∀ w, t.swap? r.part (d.fld 0 6) = some w → w.releasing.isSome = true) :
    t.runSwapRelease r d = t.nullDesc r tierNull (d.fld 0 6) := by
  unfold State.runSwapRelease
  dsimp only
  split
  · rfl
  next w hw => exact if_pos (h w hw)

theorem runSwapRelease_of_live {w : SwapSet} (h : t.swap? r.part (d.fld 0 6) = some w) (hr : w.releasing = none) :
    t.runSwapRelease r d = (t.putSwap r.part (d.fld 0 6) { w with releasing := some r }).swapTryRelease r.part (d.fld 0 6) := by
  simp only [State.runSwapRelease, h, hr, Option.isSome_none, Bool.false_eq_true, if_false]

end

/-! ## The turn of a set (R345) -/

section
variable {s : State} {p n : Nat}

theorem tick_inc_swaps (t : State) (p : Nat) : (t.inc F.pSwaps 1 p).tick = t.tick := by
  refine rd_wr_other _ _ _ _ _ _ _ _ (key_ne_of_addr_ne (by decide) (by decide) ?_)
  simp only [Fld.addr, Blk.base, F.pSwaps, F.cadTickNow]
  omega

theorem swapSwitch_of_none (h : s.swap? p n = none) : s.swapSwitch p n = s := by simp only [State.swapSwitch, h]

theorem swapSwitch_of_idle {w : SwapSet} (h : s.swap? p n = some w) (ho : w.op = none) : s.swapSwitch p n = s := by
  simp only [State.swapSwitch, h, ho]

theorem swapSwitch_of_unplaced {w : SwapSet} {o : SwapOp} (h : s.swap? p n = some w) (ho : w.op = some o) (hb : s.swapTick? p o = none) :
    s.swapSwitch p n = s := by
  simp only [State.swapSwitch, h, ho, hb]

/-- Whether a write consumed before the swap still goes into the side it turns to. -/
def SideWritten (s : State) (p n : Nat) (w : SwapSet) (o : SwapOp) : Prop := ∃ x ∈ s.writesInto p n (1 - w.active), x ∈ o.before

section
variable {w : SwapSet} {o : SwapOp} {b : Nat} (h : s.swap? p n = some w) (ho : w.op = some o) (hb : s.swapTick? p o = some b)

theorem turnGuard_iff : (o.switched || decide (s.tick < b) || !s.earlierStarted p b ||
    (s.writesInto p n (1 - w.active)).any (fun d => o.before.contains d)) = true ↔
    (o.switched = true ∨ s.tick < b ∨ s.earlierStarted p b = false ∨ SideWritten s p n w o) := by
  simp only [SideWritten, Bool.or_eq_true, decide_eq_true_eq, Bool.not_eq_true', List.any_eq_true, List.contains_iff_mem, or_assoc]

include h ho hb

theorem swapSwitch_of_held (hh : o.switched = true ∨ s.tick < b ∨ s.earlierStarted p b = false ∨ SideWritten s p n w o) : s.swapSwitch p n = s := by
  simp only [State.swapSwitch, h, ho, hb, if_pos (turnGuard_iff.mpr hh)]

/-- The set turned to its other side, its entry in force at once. -/
theorem swapSwitch_of_free (hs : o.switched = false) (ht : b ≤ s.tick) (he : s.earlierStarted p b = true) (hw : ¬ SideWritten s p n w o) :
    s.swapSwitch p n =
      (let i := 1 - w.active
       let w' : SwapSet := { w with active := i, faulted := w.faulted.filter (fun x => x != i), op := some { o with switched := true } }
       let t := (s.putSwap p n w').modPart p (fun x => { x with rt := tput x.rt w.index (w.entry i), rtNext := tput x.rtNext w.index (w.entry i) })
       let u := t.inc F.pSwaps 1 p
       (u.swapEvent p n (o.stepNo.getD (u.stepNo p)) o.tidx u.tick i (if b < u.tick then 2 else 1)).swapTryDone p) := by
  have hguard : ¬ (o.switched || decide (s.tick < b) || !s.earlierStarted p b ||
      (s.writesInto p n (1 - w.active)).any (fun d => o.before.contains d)) = true := by
    rw [turnGuard_iff]
    rintro (h | h | h | h)
    · rw [hs] at h; cases h
    · omega
    · rw [he] at h; cases h
    · exact hw h
  simp only [State.swapSwitch, h, ho, hb, if_neg hguard, tick_inc_swaps]
  rfl

end

end

/-! ## Intakes (R337 to R343) -/

section
variable {r : DRef} {d : Desc} {t u : State}

theorem runIntake_of_unread (h : t.descRead r.part (d.at 16 64) 128 = (none, u)) : t.runIntake r d =
    (u.intakeEvent r.part (d.at 16 64) { intOf 0 with swapDst := false } 1 0 0).noop r := by
  simp only [State.runIntake, h]

section
variable {bs : List Byte} (h : t.descRead r.part (d.at 16 64) 128 = (some bs, u)) (hr : fldN (leNat bs) 96 32 ≠ 0) (hc : fldN (leNat bs) 128 32 ≠ 0)
  (hm : convRmBad (fldN (leNat bs) 20 8) = false)
include h hr hc hm

theorem runIntake_of_bad (hbad : fldN (leNat bs) 0 8 ≠ 0x10 ∨ 1 < (intOf (leNat bs)).kind) : t.runIntake r d =
    (u.intakeEvent r.part (d.at 16 64) (intOf (leNat bs)) 1 0 0).nullDesc { r with clamped := false } (freeCode 9 0) (intOf (leNat bs)).kind := by
  have hguard : (fldN (leNat bs) 0 8 != 0x10 || decide (1 < (intOf (leNat bs)).kind)) = true := by
    rcases hbad with hbad | hbad
    · simp [hbad]
    · simp [hbad]
  simp only [State.runIntake, h, hr, hc, hm, hguard, decide_false, Bool.or_self, Bool.false_eq_true, if_false, Bool.true_or, if_true]

theorem runIntake_of_device (hv : fldN (leNat bs) 0 8 = 0x10) (hk : (intOf (leNat bs)).kind = 0) (hside : (intOf (leNat bs)).swapDst = false)
    (hs : (intOf (leNat bs)).sfmt ≤ 4 ∨ (intOf (leNat bs)).sfmt = 13) (hd : (intOf (leNat bs)).dfmt ≤ 9)
    (hconv : fldN (intOf (leNat bs)).conv 0 5 = (intOf (leNat bs)).dfmt) : t.runIntake r d =
    u.setTiers (fun y => { y with intakes := y.intakes ++ [⟨{ r with clamped := false }, leNat bs, d.at 16 64, u.portOf r.part, none⟩] }) := by
  have hfmt : ((decide ((intOf (leNat bs)).sfmt ≤ 4) || decide ((intOf (leNat bs)).sfmt = 13)) && decide ((intOf (leNat bs)).dfmt ≤ 9) &&
      fldN (intOf (leNat bs)).conv 0 5 == (intOf (leNat bs)).dfmt) = true := by
    rcases hs with hs | hs
    · simp [hs, hd, hconv]
    · simp [hs, hd, hconv]
  simp only [State.runIntake, h, hr, hc, hm, hv, hk, hside, hfmt, decide_false, Bool.or_self, Bool.false_eq_true, if_false, Bool.false_and,
    bne_self_eq_false, Nat.not_lt_zero, Bool.not_true, if_true]

end

end

section
variable {s : State} {hub : Nat}

/-- Whether an intake's source is at hand: read in device memory, or its granules come. -/
def sourceHere (s : State) (o : IntakeOp) : Prop := ∀ k x, o.op = some k → tget? s.tiers.ops k = some x → x.failed = true ∨ x.ready = true

/-- The look at an intake's source. -/
def sourceLook (s : State) (o : IntakeOp) : Bool := (o.op.map (fun k => ((tget? s.tiers.ops k).map (fun y => y.failed || y.ready)).getD true)).getD true

theorem sourceLook_iff (s : State) (o : IntakeOp) : sourceLook s o = true ↔ sourceHere s o := by
  unfold sourceLook sourceHere
  cases o.op with
  | none => simp
  | some k =>
    have hcases : (∀ k' x, some k = some k' → tget? s.tiers.ops k' = some x → x.failed = true ∨ x.ready = true) ↔
        ∀ x, tget? s.tiers.ops k = some x → x.failed = true ∨ x.ready = true :=
      ⟨fun h x hx => h k x rfl hx, fun h k' x hk hx => h x (Option.some.inj hk ▸ hx)⟩
    rw [hcases, Option.map_some, Option.getD_some]
    cases tget? s.tiers.ops k with
    | none => simp
    | some x => simp

theorem intakeStep_of_none (h : s.tiers.intakes.find? (fun o => o.hub == hub) = none) : s.intakeStep hub = s := by
  simp only [State.intakeStep, h]

theorem intakeStep_of_some {o : IntakeOp} (h : s.tiers.intakes.find? (fun o => o.hub == hub) = some o) : s.intakeStep hub =
    (if (s.hostStopped hub || s.intakeWaits o.desc.part (intOf o.block) || !sourceLook s o) = true then s
     else (s.demandRun (.intake hub) (fun s => s.intakeRun o (intOf o.block))).2) := by
  have hlook : sourceLook s o = (match o.op with
      | some k => (match tget? s.tiers.ops k with
        | some y => y.failed || y.ready
        | none => true)
      | none => true) := by
    unfold sourceLook
    cases o.op with
    | none => rfl
    | some k =>
      cases hx : tget? s.tiers.ops k with
      | none => simp [hx]
      | some x => simp [hx]
  rw [hlook]
  simp only [State.intakeStep, h] <;> rfl

theorem intakeStep_of_stopped (hs : s.hostStopped hub = true) : s.intakeStep hub = s := by
  cases h : s.tiers.intakes.find? (fun o => o.hub == hub) with
  | none => exact intakeStep_of_none h
  | some o => exact (intakeStep_of_some h).trans (if_pos (by simp [hs]))

end

/-- Settles O46: the descriptors of a swap set and an intake by their guards, the turn of a set and the hub's first intake. -/
theorem swapsAndIntakes : Obligations.SwapsAndIntakes := by
  refine ⟨?_, ?_, ?_, ?_, ?_, ?_⟩
  · intro s d r t hs n w free
    refine ⟨fun hf hh => closed_descriptor hs (runSwapRegister_of_full hf) hh, fun i hf => ⟨fun hno hh => closed_descriptor hs
      ((runSwapRegister_of_free hf).trans (if_pos (swapGuard_iff.mpr hno))) hh, fun hok hh => closed_descriptor hs
      ((runSwapRegister_of_free hf).trans (if_neg fun hg => swapGuard_iff.mp hg hok)) hh⟩⟩
  · intro s d r t hs n
    refine ⟨fun hn hh => closed_descriptor hs (runSwap_of_none hn) hh, ?_⟩
    intro w hw cad o gone late refuse
    have hrun := runSwap_of_set (r := r) (d := d) hw
    have hlive : w.releasing = none → ¬ w.releasing.isSome = true := fun h => by simp [h]
    have htime : ¬ late → ¬ (stepGone (t.part r.part).cad (swapOpOf t r d w) ||
        ((t.swapTick? r.part (swapOpOf t r d w)).map (fun b => decide (b ≤ t.tick))).getD false) = true := fun h hg => h (lateGuard_iff.mp hg)
    refine ⟨fun hr hh => closed_descriptor hs (hrun.trans (if_pos hr)) hh, fun hr hl hh => closed_descriptor hs
        (hrun.trans ((if_neg (hlive hr)).trans (if_pos (lateGuard_iff.mpr hl)))) hh,
      fun hr hl ho hh => closed_descriptor hs (hrun.trans ((if_neg (hlive hr)).trans ((if_neg (htime hl)).trans (if_pos ho)))) hh,
      fun hr hl ho hf hh => closed_descriptor hs (hrun.trans ((if_neg (hlive hr)).trans ((if_neg (htime hl)).trans ((if_neg (by simp [ho])).trans
        (if_pos (List.contains_iff_mem.mpr hf)))))) hh,
      fun hr hl ho hf hh => closed_descriptor hs (hrun.trans ((if_neg (hlive hr)).trans ((if_neg (htime hl)).trans ((if_neg (by simp [ho])).trans
        (if_neg fun hc => hf (List.contains_iff_mem.mp hc)))))) hh⟩
  · intro s d r t hs n
    exact ⟨fun hn hh => closed_descriptor hs (runSwapRelease_of_dead hn) hh, fun w hw hr hh => closed_descriptor hs (runSwapRelease_of_live hw hr) hh⟩
  · intro p n s
    refine ⟨?_, fun h => next_flush (swapSwitch_of_none h), fun w h ho => next_flush (swapSwitch_of_idle h ho),
      fun w o h ho hb => next_flush (swapSwitch_of_unplaced h ho hb)⟩
    intro w o b h ho hb busy
    exact ⟨fun hh => next_flush (swapSwitch_of_held h ho hb hh), fun hs ht he hw => next_flush (swapSwitch_of_free h ho hb hs ht he hw)⟩
  · intro s d r t hs
    refine ⟨fun u hread hh => closed_descriptor hs (runIntake_of_unread hread) hh, ?_⟩
    intro bs u hread hr hc hm x q
    exact ⟨fun hbad hh => closed_descriptor hs (runIntake_of_bad hread hr hc hm hbad) hh, fun hv hk hside hfmt hd hconv hh =>
      closed_descriptor hs (runIntake_of_device hread hr hc hm hv hk hside hfmt hd hconv) hh⟩
  · intro hub s
    refine ⟨fun h => next_flush (intakeStep_of_none h), fun hs => next_flush (intakeStep_of_stopped hs), fun o h => ⟨fun hw =>
      next_flush ((intakeStep_of_some h).trans (if_pos (by simp [hw]))), fun k x hk hx hf hr => next_flush ((intakeStep_of_some h).trans (if_pos ?_)),
      fun hs hw hsrc ha hh => next_flush ((intakeStep_of_some h).trans ((if_neg ?_).trans (demandRun_of_atHand ha rfl hh)))⟩⟩
    · have hno : sourceLook s o = false := by
        refine Bool.eq_false_iff.mpr fun hl => ?_
        rcases (sourceLook_iff s o).mp hl k x hk hx with h | h
        · rw [hf] at h; cases h
        · rw [hr] at h; cases h
      simp [hno]
    · simp [hs, hw, (sourceLook_iff s o).mpr hsrc]

end Sys2Proof.Machine.SwapLaws
end

section
/-! PROOF. Network ports (10_network_ports.md): links, partners, frames, parking (O47), and the agreement on a lane width (O48). -/
namespace Sys2Proof.Machine.PortLaws
open Sys2Proof Sys2Proof.Machine.Laws Sys2Proof.Machine.ClockLaws Sys2Proof.Machine.BoundaryLaws

/-! ## Commands that end in one of two states -/

section
variable {c : Prop} [Decidable c] {a b : State}

theorem finish_ite : (if c then finish a else finish b) = .next (if c then a.flush else b.flush) := by
  split
  · rfl
  · rfl

theorem flush_ite : (if c then a else b).flush = if c then a.flush else b.flush := apply_ite State.flush c a b

theorem flag_iff (s : State) (f : Fld) (n : Nat) : s.flag f n = true ↔ s.rd f n = 1 := beq_iff_eq

theorem flag_eq_false_iff (s : State) (f : Fld) (n : Nat) : s.flag f n = false ↔ s.rd f n ≠ 1 := beq_eq_false_iff_ne

end

/-! ## Agreement on a lane width (R369, R370) -/

section
variable {n : NetPort} {s : State} {w : Fin 9} {b : DWord} {q : Word}

/-- A change of width accepted for a boundary, and its answer. -/
def widthTake (s : State) (n : NetPort) (w : Fin 9) (q : Word) (b : Nat) : State :=
  (s.modNport n (fun p => { p with change := some (w.val, b), asked := none })).sendPortCtl n 3 w b q.toNat

/-- A change of width refused. -/
def widthRefuse (s : State) (n : NetPort) (w : Fin 9) (b : DWord) (q : Word) : State := s.sendPortCtl n 4 w b.toNat q.toNat

theorem widthRequest_of_alone (h : s.rd F.npPartner n ≠ 1) : execWidthRequestRx n w b q s = .next s.flush :=
  if_pos (by simp [(flag_eq_false_iff s _ _).mpr h])

theorem widthRequest_of_unasked (h : s.rd F.npPartner n = 1) (ha : (s.nport n).asked = none) : execWidthRequestRx n w b q s =
    .next (if s.rd F.npWidth n < w.val ∨ s.judgesNarrow n = true then (widthTake s n w q b.toNat).flush else (widthRefuse s n w b q).flush) := by
  unfold execWidthRequestRx
  dsimp only
  rw [if_neg (by simp [(flag_iff s _ _).mpr h]), ha]
  dsimp only
  rw [finish_ite]
  simp only [Bool.or_eq_true, decide_eq_true_eq]
  rfl

theorem widthRequest_of_asked {mine mb t : Nat} (h : s.rd F.npPartner n = 1) (ha : (s.nport n).asked = some (mine, mb, t)) :
    execWidthRequestRx n w b q s = .next (if mine = w.val then (widthTake s n w q (Nat.max b.toNat mb)).flush
      else if s.rd F.npWidth n < mine ∧ w.val < s.rd F.npWidth n then (widthRefuse s n w b q).flush else (widthTake s n w q b.toNat).flush) := by
  unfold execWidthRequestRx
  dsimp only
  rw [if_neg (by simp [(flag_iff s _ _).mpr h]), ha]
  dsimp only
  rw [finish_ite]
  simp only [Bool.and_eq_true, decide_eq_true_eq]
  split
  · rfl
  · rfl

theorem widthReply_of_unasked (h : (s.nport n).asked = none) : execWidthAcceptRx n s = .next s.flush ∧ execWidthRefuseRx n s = .next s.flush ∧
    execWidthReplyTimeout n s = .next s.flush := by
  unfold execWidthAcceptRx execWidthRefuseRx execWidthReplyTimeout
  rw [h]
  exact ⟨rfl, rfl, rfl⟩

theorem widthReply_of_asked {w b t : Nat} (h : (s.nport n).asked = some (w, b, t)) :
    execWidthAcceptRx n s = .next (s.modNport n (fun p => { p with asked := none, change := some (w, b) })).flush ∧
    execWidthRefuseRx n s = .next ((s.modNport n (fun p => { p with asked := none })).widthEvent n 3 (s.rd F.npWidth n) w).flush ∧
    execWidthReplyTimeout n s = .next (if t + 1 ≤ s.tick then s.modNport n (fun p => { p with asked := none }) else s).flush := by
  unfold execWidthAcceptRx execWidthRefuseRx execWidthReplyTimeout
  rw [h]
  refine ⟨rfl, rfl, ?_⟩
  rw [flush_ite]
  exact finish_ite

theorem widthChange_of_none (h : (s.nport n).change = none) : execWidthChange n s = .next s.flush ∧ execPcsRelockComplete n s = .next s.flush ∧
    execRelockTimeout n s = .next s.flush := by
  unfold execWidthChange execPcsRelockComplete execRelockTimeout
  rw [h]
  exact ⟨rfl, rfl, rfl⟩

section
variable {w b : Nat} (h : (s.nport n).change = some (w, b))
include h

theorem widthChange_of_change : execWidthChange n s = .next (if b ≤ s.tick then s.modNport n (fun p => { p with held := true }) else s).flush := by
  unfold execWidthChange
  rw [h, flush_ite]
  exact finish_ite

theorem relock_of_free (hh : (s.nport n).held = false) : execPcsRelockComplete n s = .next s.flush ∧ execRelockTimeout n s = .next s.flush := by
  unfold execPcsRelockComplete execRelockTimeout
  rw [h]
  exact ⟨if_neg (by simp [hh]), if_neg (by simp [hh])⟩

theorem relock_of_held (hh : (s.nport n).held = true) :
    execPcsRelockComplete n s = .next (((((s.wr F.npWidth w n).inc F.npWchg 1 n).modNport n (fun p => { p with change := none })).resumeQueues n).widthEvent n
      (if s.rd F.npWidth n < w then 2 else 1) (s.rd F.npWidth n) w).flush ∧
    execRelockTimeout n s = .next ((s.modNport n (fun p => { p with change := none })).widthEvent n 4 (s.rd F.npWidth n)
      (lanesOf (s.rd F.npSpeed n))).flush := by
  unfold execPcsRelockComplete execRelockTimeout
  rw [h]
  exact ⟨if_pos hh, if_pos hh⟩

end

end

/-- Settles O48: each message by the request or the change it meets. -/
theorem laneWidthChanges : Obligations.LaneWidthChanges := fun _ _ =>
  ⟨fun _ _ _ => ⟨widthRequest_of_alone, widthRequest_of_unasked, fun _ _ _ h ha => widthRequest_of_asked h ha⟩, widthReply_of_unasked,
    fun _ _ _ h => widthReply_of_asked h, widthChange_of_none,
    fun _ _ h => ⟨widthChange_of_change h, relock_of_free h, relock_of_held h⟩⟩

/-! ## Links (R349, R354, R370 to R374) -/

section
variable {n : Nat} {s : State}

theorem linkUp_of_up (h : s.rd F.npLink n = 1) : s.linkUp n =
    (if (s.nport n).held = true ∧ (s.nport n).change = none then (s.wr F.npWidth (lanesOf (s.rd F.npSpeed n)) n).resumeQueues n else s) := by
  unfold State.linkUp
  dsimp only
  rw [if_pos ((flag_iff s _ _).mpr h)]
  simp only [State.retrained, Bool.and_eq_true, Option.isNone_iff_eq_none]

theorem linkUp_of_refused (h : s.rd F.npLink n ≠ 1) (hw : lanesOf (s.rd F.npSpeed n) = 0 ∨ s.rst.stage ≠ 5 ∨ bitN (s.rd F.rstEngInr) n = true) :
    s.linkUp n = s := by
  unfold State.linkUp
  dsimp only
  rw [if_neg (by simp [(flag_eq_false_iff s _ _).mpr h])]
  refine if_pos ?_
  rcases hw with hw | hw | hw
  · simp [hw]
  · simp [hw]
  · simp [hw]

/-- The port as its link has trained: full width, no longer parked, and its link event. -/
def linkTrained (s : State) (n : Nat) : State :=
  let w := lanesOf (s.rd F.npSpeed n)
  let t := ((((s.wr F.npLink 1 n).wr F.npWidth w n).wr F.npParked 0 n).modNport n (fun p => { p with unparking := false })).linkEvent n 1 0
  if s.rd F.npParked n = 1 then t.widthEvent n 6 0 w else t

theorem linkUp_of_down (h : s.rd F.npLink n ≠ 1) (hw : lanesOf (s.rd F.npSpeed n) ≠ 0) (h5 : s.rst.stage = 5) (hb : bitN (s.rd F.rstEngInr) n = false) :
    s.linkUp n = (((linkTrained s n).pmodeLook n).sendPortCtl n 1 0 0 0).resumeQueues n := by
  unfold State.linkUp
  dsimp only
  rw [if_neg (by simp [(flag_eq_false_iff s _ _).mpr h]), if_neg (by simp [hw, h5, hb])]
  simp only [linkTrained, flag_iff]

theorem linkDown_of_down (h : s.rd F.npLink n ≠ 1) : s.linkDown n = s := if_pos (by simp [(flag_eq_false_iff s _ _).mpr h])

theorem linkDown_of_up (h : s.rd F.npLink n = 1) : s.linkDown n =
    (let t := s.modNport n (fun p => { p with queued := [], held := false, asked := none, change := none, parking := none })
     let t := (t.inc F.npLinkDisc (s.nport n).queued.length n).inc F.npLinkDown 1 n
     let t := (((t.wr F.npLink 0 n).wr F.npWidth 0 n).wr F.npPartner 0 n).wr F.npPmode pmDown n
     let t := t.linkEvent n 2 (s.nport n).queued.length
     let t := if t.rd F.npParkEn n = 1 then t.unparkGroup (t.rd F.npPgroup n) else t
     let t := if t.rd F.cadPortNow = n then t.ptpFail else t
     let t := if s.rd F.npPmode n = pmService ∧ (s.nport n).parking = none then t.sendAddrs n 1 else t
     t.pumpAll) := by
  unfold State.linkDown
  rw [if_neg (by simp [(flag_iff s _ _).mpr h])]
  simp only [flag_iff, Bool.and_eq_true, decide_eq_true_eq, Bool.not_eq_true', Option.isSome_eq_false_iff, Option.isNone_iff_eq_none]

end

/-! ## Partners, responders and parking (R354, R358, R361, R373) -/

section
variable {n : NetPort} {s : State}

theorem helloSend_eq : execHelloSend n s = .next (if s.rd F.npLink n = 1 then s.sendPortCtl n 1 0 0 0 else s).flush := by
  simp only [execHelloSend, flag_iff]
  rfl

theorem helloRx_eq (v : BitVec 16) : execHelloRx n v s = .next (if s.rd F.npLink n = 1 ∧ v = 0xEB9C then
    (if s.rd F.npPartner n = 1 then (s.wr F.npPartner 1 n).modNport n (fun p => { p with lastHello := s.tick })
     else ((s.wr F.npPartner 1 n).modNport n (fun p => { p with lastHello := s.tick })).linkEvent n 3 0) else s).flush := by
  by_cases hp : s.rd F.npPartner n = 1
  · simp only [execHelloRx, (flag_iff s F.npPartner n).mpr hp, Bool.not_true, Bool.false_eq_true, if_false, Bool.and_eq_true, flag_iff, beq_iff_eq,
      if_pos hp]
    exact finish_ite.trans (congrArg _ flush_ite.symm)
  · simp only [execHelloRx, (flag_eq_false_iff s F.npPartner n).mpr hp, Bool.not_false, if_true, Bool.and_eq_true, flag_iff, beq_iff_eq, if_neg hp]
    exact finish_ite.trans (congrArg _ flush_ite.symm)

theorem partnerTimeout_eq : execPartnerTimeout n s = .next (if s.rd F.npPartner n = 1 then (s.wr F.npPartner 0 n).linkEvent n 4 0 else s).flush := by
  simp only [execPartnerTimeout, flag_iff]
  rfl

theorem arpRequestRx_eq (a : Word) : execArpRequestRx n a s = .next (if s.hasFamily n false = true ∧ s.rd F.npIpv4 n = a.toNat then
    s.xmit false ⟨n, 0, 64, noPart, .responder 1 [a.toNat, s.rd F.npMacL n, s.rd F.npMacH n]⟩ else s).flush := by
  simp only [execArpRequestRx, Bool.and_eq_true, decide_eq_true_eq]
  rfl

theorem solicitationRx_eq (src a : BitVec 128) : execNeighborSolicitationRx n ⟨src, a⟩ s = .next (if s.hasFamily n true = true ∧
    s.portAddr n true = a.toNat then s.xmit false ⟨n, 0, 90, noPart, .responder 2 [a.toNat, s.rd F.npMacL n, s.rd F.npMacH n, src.toNat]⟩ else s).flush := by
  simp only [execNeighborSolicitationRx, Bool.and_eq_true, decide_eq_true_eq]
  rfl

/-- Whether an echo is answered (R361). -/
def EchoTaken (s : State) (n : Nat) (len : Nat) : Prop := s.rd F.npEchoEn n = 1 ∧ len ≤ 1500 ∧ (s.nport n).echoes < 100

theorem echoGuard_iff {len : Nat} : (s.flag F.npEchoEn n && decide (len ≤ 1500) && decide ((s.nport n).echoes < 100)) = true ↔ EchoTaken s n len := by
  simp only [EchoTaken, Bool.and_eq_true, flag_iff, decide_eq_true_eq, and_assoc]

theorem portPark_of_none (h : (s.nport n).parking = none) : execPortPark n s = .next s.flush := by
  simp only [execPortPark, h]
  rfl

/-- Whether a port told to park at tick k may idle: drained, and quiet for two ticks. -/
def ParkQuiet (s : State) (n : Nat) (k : Nat) : Prop := (s.nport n).queued = [] ∧ k + 2 ≤ s.tick ∧ (s.nport n).lastRx + 2 ≤ s.tick

theorem parkGuard_iff {k : Nat} : (decide ((s.nport n).queued = []) && decide (k + 2 ≤ s.tick) && decide ((s.nport n).lastRx + 2 ≤ s.tick)) = true ↔
    ParkQuiet s n k := by
  simp only [ParkQuiet, Bool.and_eq_true, decide_eq_true_eq, and_assoc]

end

/-! ## Received frames (R350, R361, Table 10-3) -/

section
variable {n : Nat} {s : State} {f : FrameIn}

/-- A frame on a link counted. -/
def frameCounted (s : State) (n : Nat) (f : FrameIn) : State :=
  let b := (s.nport n).rxBytes + f.len
  let t := (s.add F.npRxf 1 n).modNport n (fun p => { p with
    rxNow := p.rxNow + f.len, rxBytes := b, lastRx := s.tick, fecUnc := p.fecUnc + f.fecUnc })
  ((t.wr F.npRxMib (capN (2 ^ 32 - 1) (b / 2 ^ 20)) n).inc F.npFecCorr f.fecCorr n).inc F.npFecUnc f.fecUnc n

/-- The neighbour a delivered frame tells of, learned. -/
def neighbourLearned (t : State) (n : Nat) : FrameKind → State
  | .arp ip m => t.modNport n (fun p => p.learn ip.toNat m.toNat t.tick)
  | .neighbour ip m => t.modNport n (fun p => p.learn ip.toNat m.toNat t.tick)
  | _ => t

/-- What each fate does with a counted frame. -/
def fateDone (t : State) (n : Nat) (f : FrameIn) : FrameFate → State
  | .fcs => t.inc F.npFcsErr 1 n
  | .length => t.inc F.npFiltDrop 1 n
  | .mac => t.inc F.npMaccIgn 1 n
  | .filtered => t.inc F.npFiltDrop 1 n
  | .checksum => t.inc F.npCsumDrop 1 n
  | .delivered => neighbourLearned t n f.kind

theorem frameRx_of_down (h : s.rd F.npLink n ≠ 1) : s.frameRx n f = s := if_pos (by simp [(flag_eq_false_iff s _ _).mpr h])

theorem frameRx_of_up (h : s.rd F.npLink n = 1) : s.frameRx n f = fateDone (frameCounted s n f) n f ((frameCounted s n f).frameFate n f) := by
  unfold State.frameRx
  rw [if_neg (by simp [(flag_iff s _ _).mpr h])]
  rfl

theorem frameRx_of_fate {x : FrameFate} (h : s.rd F.npLink n = 1) (hx : (frameCounted s n f).frameFate n f = x) :
    s.frameRx n f = fateDone (frameCounted s n f) n f x := hx ▸ frameRx_of_up h

theorem fateDone_of_learned {t : State} {ip : BitVec 128} {m : BitVec 48} (h : f.kind = .arp ip m ∨ f.kind = .neighbour ip m) :
    fateDone t n f .delivered = t.modNport n (fun p => p.learn ip.toNat m.toNat t.tick) := by
  rcases h with h | h
  · simp only [fateDone, h, neighbourLearned]
  · simp only [fateDone, h, neighbourLearned]

theorem fateDone_of_other {t : State} (h : ∀ ip m, f.kind ≠ .arp ip m ∧ f.kind ≠ .neighbour ip m) : fateDone t n f .delivered = t := by
  unfold fateDone neighbourLearned
  dsimp only
  split
  next ip m hk => exact absurd hk (h ip m).1
  next ip m hk => exact absurd hk (h ip m).2
  · rfl

theorem frameFate_of_fcs (h : f.fcsOk = false) : s.frameFate n f = .fcs := if_pos (by simp [h])

theorem frameFate_of_length (h : f.fcsOk = true) (hl : f.len < 64 ∨ 9022 < f.len) : s.frameFate n f = .length :=
  (if_neg (by simp [h])).trans (if_pos (by simpa using hl))

section
variable (h : f.fcsOk = true) (h1 : 64 ≤ f.len) (h2 : f.len ≤ 9022)
include h h1 h2

theorem frameFate_of_mac (hk : f.kind = .macControl) : s.frameFate n f = .mac :=
  (if_neg (by simp [h])).trans ((if_neg (by simp; omega)).trans (if_pos (by simp [hk])))

theorem frameFate_of_untagged (hv : f.vid = none) (hk : f.kind ≠ .macControl) : s.frameFate n f = s.kindFate n f.kind := by
  unfold State.frameFate
  rw [if_neg (by simp [h]), if_neg (by simp; omega), if_neg (by simp [hk]), hv]

end

end

/-! ## The port test (R629) -/

/-- A port test with one more echo. -/
def testEcho (t : PortTest) (bad : Bool) (rtt : Word) : PortTest :=
  { t with
    echoes := t.echoes + 1, errs := t.errs + b2n bad, least := if t.echoes = 0 then rtt.toNat else Nat.min t.least rtt.toNat
    sum := t.sum + rtt.toNat, most := Nat.max t.most rtt.toNat }

section
variable {n : NetPort} {s : State} {q r : Word} {bad : Bool}

theorem portTestEcho_of_none (h : (s.nport n).test = none) : execPortTestEchoRx n q bad r s = .next s.flush := by
  simp only [execPortTestEchoRx, h]
  rfl

theorem portTestEcho_of_unsent {t : PortTest} (h : (s.nport n).test = some t) (hq : t.sent ≤ q.toNat) : execPortTestEchoRx n q bad r s = .next s.flush := by
  simp only [execPortTestEchoRx, h]
  exact if_pos hq

theorem portTestEcho_of_sent {t : PortTest} (h : (s.nport n).test = some t) (hq : q.toNat < t.sent) : execPortTestEchoRx n q bad r s =
    .next (s.modNport n (fun p => { p with test := some (testEcho t bad r) })).flush := by
  simp only [execPortTestEchoRx, h]
  exact if_neg (Nat.not_le.mpr hq)

end

/-- Settles O47: each command by the state of the port it meets, a frame by its fate. -/
theorem portLinksPartnersAndFrames : Obligations.PortLinksPartnersAndFrames := by
  intro n s w
  refine ⟨fun h => ?_, fun h hw => next_closed (linkUp_of_refused h hw), fun h hw h5 hb => next_closed (linkUp_of_down h hw h5 hb),
    fun h => next_closed (linkDown_of_down h), fun h => next_closed (linkDown_of_up h), helloSend_eq, helloRx_eq, partnerTimeout_eq, fun f => ?_,
    fun ip => rfl, arpRequestRx_eq, solicitationRx_eq, fun src len => ⟨fun h => if_pos (echoGuard_iff.mpr h), fun h => if_neg fun hg => h (echoGuard_iff.mp hg)⟩,
    fun len q => rfl, fun q r bad => ⟨portTestEcho_of_none, fun t h hq => portTestEcho_of_unsent h hq,
      fun t h hq => ⟨testEcho t bad r, portTestEcho_of_sent h hq, rfl, rfl, rfl⟩⟩, portPark_of_none, fun k hk => ?_⟩
  · exact (next_closed (linkUp_of_up h)).trans (congrArg _ (apply_ite State.closed _ _ _))
  · refine ⟨fun h => next_flush (frameRx_of_down h), fun h => ?_, frameFate_of_fcs, frameFate_of_length, fun h h1 h2 => ⟨frameFate_of_mac h h1 h2,
      fun hv hk => ?_, fun hv hk => ?_, fun ip m hv hk => ?_⟩⟩
    · intro b t₁ t
      have hfate : ∀ x, t.frameFate n f = x → exec (.frameRx n f) s = .next (fateDone t n f x).flush := fun x hx => next_flush (frameRx_of_fate h hx)
      exact ⟨hfate .fcs, hfate .length, hfate .mac, hfate .filtered, hfate .checksum,
        fun ip m hx hk => (hfate .delivered hx).trans (next_flush (fateDone_of_learned hk)),
        fun hx hk => (hfate .delivered hx).trans (next_flush (fateDone_of_other hk))⟩
    · rw [frameFate_of_untagged h h1 h2 hv (by simp [hk]), hk]
      rfl
    · rw [frameFate_of_untagged h h1 h2 hv (by simp [hk]), hk]
      rfl
    · rw [frameFate_of_untagged h h1 h2 hv (by simp [hk]), hk]
      rfl
  · have hrun : exec (.portPark n) s = (if (decide ((s.nport n).queued = []) && decide (k + 2 ≤ s.tick) && decide ((s.nport n).lastRx + 2 ≤ s.tick)) = true
        then finish ((((((((s.wr F.npParked 1 n).wr F.npLink 0 n).wr F.npWidth 0 n).wr F.npPmode pmDown n).inc F.npParks 1 n).modNport n
          (fun p => { p with parking := none })).widthEvent n 5 (s.rd F.npWidth n) 0)) else finish s) := by
      change execPortPark n s = _
      simp only [execPortPark, hk]
    exact ⟨fun h => hrun.trans (if_neg fun hg => h (parkGuard_iff.mp hg)), fun h => hrun.trans (if_pos (parkGuard_iff.mpr h))⟩

end Sys2Proof.Machine.PortLaws
end

section
/-! PROOF. The descriptors of Gnoxel (11_gnoxel_transport.md, Table 11-4): open, close, post, revoke, send and query (O49). -/
namespace Sys2Proof.Machine.GnoxelLaws
open Sys2Proof Sys2Proof.Machine.Laws Sys2Proof.Machine.ClockLaws Sys2Proof.Machine.BoundaryLaws Sys2Proof.Machine.StepLaws
  Sys2Proof.Machine.DispatchLaws

section
variable {r : DRef} {d : Desc} {t : State}

/-! ## CHANNEL_OPEN (R382) -/

/-- The open a descriptor asks for with its operands in range. -/
def openAsk (r : DRef) (d : Desc) : ChanAsk :=
  { part := r.part, cid := d.fld 0 16, peerPart := d.fld 16 6, queue := d.fld 22 3, mode := d.fld 25 2
    enc := d.fld 27 1 == 1, kslot := d.fld 28 4, npath := if d.fld 32 6 = 0 then 64 else d.fld 32 6, grantTick := d.fld 48 16
    pkey := d.at 24 32, peerIp := d.addr 32 }

section
variable (hq : d.fld 25 2 = 2 ∨ d.fld 22 3 ≤ 5) (hg : d.fld 48 16 ≠ 0) (hs : t.confidential r.part = false ∨ d.fld 27 1 = 1)

/-- An open whose operands need no clamp asks for what its fields say. -/
def openEnd (r : DRef) (d : Desc) (x : Option Nat × State) : State := if x.1.isSome then x.2 else x.2.nullDesc r gnxNull (d.fld 0 16)

include hq hg hs

theorem runOpen_eq : t.runOpen r d =
    if (!t.mayOpen (openAsk r d)) = true then t.nullDesc r gnxNull (d.fld 0 16) else openEnd r d (t.openChan (openAsk r d) (.desc r)) := by
  have hcut : (d.fld 25 2 != 2 && decide (5 < d.fld 22 3)) = false := by
    rcases hq with hq | hq
    · simp [hq]
    · simp [hq]
  have hsecret : (t.confidential r.part && d.fld 27 1 == 0) = false := by
    rcases hs with hs | hs
    · simp [hs]
    · simp [hs]
  have hmax : Nat.max 1 (d.fld 48 16) = d.fld 48 16 := Nat.max_eq_right (by omega)
  have hzero : (d.fld 48 16 == 0) = false := by simp [hg]
  simp only [State.runOpen, hcut, hsecret, hmax, hzero, hg, Bool.or_false, Bool.false_eq_true, if_false]
  change (if _ then _ else match t.openChan (openAsk r d) (.desc r) with
    | (some _, s) => s
    | (none, s) => s.nullDesc r gnxNull (d.fld 0 16)) = _
  generalize t.openChan (openAsk r d) (.desc r) = x
  obtain ⟨k, u⟩ := x
  cases k with
  | none => rfl
  | some k => rfl

theorem runOpen_of_refused (h : t.mayOpen (openAsk r d) = false) : t.runOpen r d = t.nullDesc r gnxNull (d.fld 0 16) :=
  (runOpen_eq hq hg hs).trans (if_pos (by simp [h]))

theorem runOpen_of_open (h : t.mayOpen (openAsk r d) = true) (hc : (openAsk r d).cid ≠ 0xFFFF ∨ ∃ k, tfree t.net.chans 16384 = some k) :
    t.runOpen r d = (t.openChan (openAsk r d) (.desc r)).2 := by
  have hsome : (t.openChan (openAsk r d) (.desc r)).1.isSome = true := by
    have hcid : ∃ k, (if (openAsk r d).cid = 0xFFFF then tfree t.net.chans 16384 else some (openAsk r d).cid) = some k := by
      by_cases he : (openAsk r d).cid = 0xFFFF
      · rw [if_pos he]
        exact hc.resolve_left fun h => h he
      · exact ⟨_, if_neg he⟩
    obtain ⟨k, hk⟩ := hcid
    simp only [State.openChan, hk, Option.isSome_some]
  exact (runOpen_eq hq hg hs).trans ((if_neg (by simp [h])).trans (if_pos hsome))

theorem runOpen_of_full (h : t.mayOpen (openAsk r d) = true) (hc : (openAsk r d).cid = 0xFFFF) (hf : tfree t.net.chans 16384 = none) :
    t.runOpen r d = t.nullDesc r gnxNull (d.fld 0 16) := by
  have hnone : t.openChan (openAsk r d) (.desc r) = (none, t) := by simp only [State.openChan, if_pos hc, hf]
  rw [runOpen_eq hq hg hs, hnone]
  exact if_neg (by simp [h])

end

/-! ## The descriptors that name a channel (R388 to R397) -/

theorem runClose_of_none (h : t.openChan? r.part (d.at 16 32) = none) : t.runClose r d = t.nullDesc r gnxNull (d.at 16 32) := by
  simp only [State.runClose, h]

theorem runPost_of_none (h : t.openChan? r.part (d.at 16 32) = none) : t.runPost r d = t.nullDesc r gnxNull (d.at 16 32) := by
  simp only [State.runPost, h]

theorem runRevoke_of_none (h : t.openChan? r.part (d.at 16 32) = none) : t.runRevoke r d = t.nullDesc r gnxNull (d.at 16 32) := by
  simp only [State.runRevoke, h]

theorem runSend_of_none (h : t.openChan? r.part (d.at 16 32) = none) : t.runSend r d = t.nullDesc r gnxNull (d.at 16 32) := by
  simp only [State.runSend, h]

theorem runQuery_of_none (h : t.chan? r.part (d.at 16 32) = none) : t.runQuery r d = t.nullDesc r gnxNull (d.at 16 32) := by
  simp only [State.runQuery, h]

/-- Whether a posted buffer is a descriptor's own, of a tag. -/
def ownBuf (tag : Nat) (b : GnxBuf) : Bool := b.tag == tag && (match b.owner with | .desc _ => true | .engine _ _ => false)

theorem ownBuf_iff (tag : Nat) (b : GnxBuf) : ownBuf tag b = true ↔ b.tag = tag ∧ ∃ x, b.owner = .desc x := by
  unfold ownBuf
  cases hb : b.owner with
  | desc x => simp
  | engine x y => simp

section
variable {cid : Nat} {c : Chan}

theorem runQuery_of_chan (h : t.chan? r.part (d.at 16 32) = some (cid, c)) : t.runQuery r d =
    (let w := t.writePva (t.engCtx r.part engDesc) (d.at 24 64) (c.record cid) false
     if w.1 then w.2.noop r else w.2.done r) := by
  simp only [State.runQuery, h]

variable (h : t.openChan? r.part (d.at 16 32) = some (cid, c))
include h

theorem runClose_of_chan : t.runClose r d = (t.closeChan cid 5).done r := by simp only [State.runClose, h]

theorem runSend_of_chan (hn : d.at 32 32 ≤ 2 ^ 24) : t.runSend r d =
    t.sendMsg cid (d.at 24 64) (d.at 32 32) none (.desc { r with clamped := r.clamped || false }) := by
  have hmin : Nat.min (d.at 32 32) (2 ^ 24) = d.at 32 32 := Nat.min_eq_left hn
  simp only [State.runSend, h, hmin, if_true, bne_self_eq_false]

theorem runPost_of_chan (h1 : 64 ≤ d.at 32 32) (h2 : d.at 32 32 ≤ 2 ^ 24) : t.runPost r d =
    (let q : DRef := { r with clamped := r.clamped || false }
     if (!t.mapped r.part (t.part r.part).rt (d.at 24 64) (d.at 32 32) false) = true then t.complete q 0x0B false 0
     else
       let u := t.postBuf cid (d.at 20 32) (d.at 24 64) (d.at 32 32) (.desc q)
       if c.credits then u.grant cid false else u) := by
  have hclamp : clampN (d.at 32 32) 64 (2 ^ 24) = d.at 32 32 := by
    unfold clampN
    rw [if_neg (by omega), if_neg (by omega)]
  simp only [State.runPost, h, hclamp, if_true, bne_self_eq_false]

theorem runRevoke_of_chan : t.runRevoke r d = ((c.bufs.find? (ownBuf (d.at 20 32))).map (fun b => (t.revoke cid b).done r)).getD (t.noop r) := by
  have hrun : t.runRevoke r d = (match c.bufs.find? (ownBuf (d.at 20 32)) with
      | none => t.noop r
      | some b => (t.revoke cid b).done r) := by
    simp only [State.runRevoke, h] <;> rfl
  rw [hrun]
  cases c.bufs.find? (ownBuf (d.at 20 32)) with
  | none => rfl
  | some b => rfl

theorem runRevoke_of_none_posted (hb : ∀ b ∈ c.bufs, ¬ (b.tag = d.at 20 32 ∧ ∃ x, b.owner = .desc x)) : t.runRevoke r d = t.noop r := by
  have hfind : c.bufs.find? (ownBuf (d.at 20 32)) = none := List.find?_eq_none.mpr fun b hm hown => hb b hm ((ownBuf_iff _ _).mp hown)
  rw [runRevoke_of_chan h, hfind]
  rfl

theorem runRevoke_of_posted {b : GnxBuf} {l l' : List GnxBuf} (hb : c.bufs = l ++ b :: l')
    (hl : ∀ x ∈ l, ¬ (x.tag = d.at 20 32 ∧ ∃ y, x.owner = .desc y)) (hown : b.tag = d.at 20 32 ∧ ∃ y, b.owner = .desc y) :
    t.runRevoke r d = (t.revoke cid b).done r := by
  have hfind : c.bufs.find? (ownBuf (d.at 20 32)) = some b :=
    List.find?_eq_some_iff_append.mpr ⟨(ownBuf_iff _ _).mpr hown, l, l', hb, fun x hx => by
      simpa using fun hx' => hl x hx ((ownBuf_iff _ _).mp hx')⟩
  rw [runRevoke_of_chan h, hfind]
  rfl

end

end

/-- Settles O49: the run of each descriptor by the channel its HANDLE names. -/
theorem channelDescriptors : Obligations.ChannelDescriptors := by
  refine ⟨?_, fun s d r t => ⟨fun hs h hh => closed_descriptor hs (runClose_of_none h) hh, fun hs h hh => closed_descriptor hs (runPost_of_none h) hh,
      fun hs h hh => closed_descriptor hs (runRevoke_of_none h) hh, fun hs h hh => closed_descriptor hs (runSend_of_none h) hh,
      fun hs h hh => closed_descriptor hs (runQuery_of_none h) hh⟩, ?_, fun s d r t cid c hs h hh => closed_descriptor hs (runQuery_of_chan h) hh⟩
  · intro s d r t hs hq hg hsec a
    exact ⟨fun h hh => closed_descriptor hs (runOpen_of_refused hq hg hsec h) hh, fun h hc hh => closed_descriptor hs (runOpen_of_open hq hg hsec h hc) hh,
      fun h hc hf hh => closed_descriptor hs (runOpen_of_full hq hg hsec h hc hf) hh⟩
  · intro s d r t cid c h
    refine ⟨fun hs hh => closed_descriptor hs (runClose_of_chan h) hh, fun hs h1 h2 => ⟨fun hm hh =>
        closed_descriptor hs ((runPost_of_chan h h1 h2).trans (if_pos (by rw [hm]; rfl))) hh, fun hm hh =>
        closed_descriptor hs ((runPost_of_chan h h1 h2).trans (if_neg (by rw [hm]; simp))) hh⟩, ?_,
      fun hs hn hh => closed_descriptor hs (runSend_of_chan h hn) hh⟩
    intro hs mine
    exact ⟨fun hb hh => closed_descriptor hs (runRevoke_of_none_posted h hb) hh, fun b l l' hb hl hown hh =>
      closed_descriptor hs (runRevoke_of_posted h hb hl hown) hh⟩

end Sys2Proof.Machine.GnoxelLaws
end

section
/-! PROOF. Gnoxel's channels as they open and end, and the packets they take (11_gnoxel_transport.md): O50 and O51. -/
namespace Sys2Proof.Machine.ChannelLaws
open Sys2Proof Sys2Proof.Machine.Laws Sys2Proof.Machine.ClockLaws Sys2Proof.Machine.BoundaryLaws Sys2Proof.Machine.StepLaws
  Sys2Proof.Machine.DispatchLaws Sys2Proof.Machine.PortLaws

/-! ## A packet heard, and where it goes (R379, R609, R610) -/

/-- A packet that ends Idle or Still leaves the module Active. -/
theorem rd_mstate_heard {s : State} {mine : Bool} (h : mine = true ∨ s.rd F.pwrMstate = 2) : (s.heard mine).rd F.pwrMstate = 0 := by
  have hheard : s.heard mine = s.wake 2 := if_pos (by simpa using h)
  rw [hheard]
  unfold State.wake
  dsimp only
  split
  case isTrue h0 => exact h0
  case isFalse h0 =>
    rw [rd_eventAll, rd_wr_same]
    rfl

/-- A packet for a hub whose fabric stop is in reset waits behind those before it. -/
theorem gnxHeard_of_stopped {s : State} {x : GnxIn} (h : (s.heard (thas s.net.chans (gnxDcid x))).hubStopped (gnxDcid x % 2) = true) :
    s.gnxHeard x = (let t := s.heard (thas s.net.chans (gnxDcid x)); { t with net := { t.net with heldRx := t.net.heldRx ++ [x] } }) :=
  if_pos h

/-- Any other packet goes to its channel's engine. -/
theorem gnxHeard_of_free {s : State} {x : GnxIn} (h : (s.heard (thas s.net.chans (gnxDcid x))).hubStopped (gnxDcid x % 2) = false) :
    s.gnxHeard x = (s.heard (thas s.net.chans (gnxDcid x))).gnxIn x :=
  if_neg (Bool.eq_false_iff.mp h)

theorem next_closed_of {s t : State} (h : s = t) : closing s = .next t.closed := by
  rw [h]
  rfl

/-- A packet to a working hub: the state its engine leaves is the one the command answers. -/
theorem packet_closed {s t : State} {x : GnxIn} (h : (s.heard (thas s.net.chans (gnxDcid x))).hubStopped (gnxDcid x % 2) = false)
    (ht : (s.heard (thas s.net.chans (gnxDcid x))).gnxIn x = t) : closing (s.gnxHeard x) = .next t.closed :=
  next_closed_of ((gnxHeard_of_free h).trans ht)

/-! ## The timeouts of a channel -/

section
variable {s : State} {cid : Fin 16384}

theorem exec_openResend_of_none (h : tget? s.net.chans cid.val = none) : exec (.openResend cid) s = .next s.flush := by
  simp only [exec, execOpenResend, h, finish]

theorem exec_openTimeout_of_none (h : tget? s.net.chans cid.val = none) : exec (.openTimeout cid) s = .next s.flush := by
  simp only [exec, execOpenTimeout, h, finish]

theorem exec_closeTimeout_of_none (h : tget? s.net.chans cid.val = none) : exec (.closeTimeout cid) s = .next s.flush := by
  simp only [exec, execCloseTimeout, h, finish]

theorem exec_noPathTimeout_of_none (h : tget? s.net.chans cid.val = none) : exec (.noPathTimeout cid) s = .next s.flush := by
  simp only [exec, execNoPathTimeout, h, finish]

theorem rtoOver_of_none {k psn : Nat} (h : tget? s.net.chans k = none) : s.rtoOver k psn = s := by simp only [State.rtoOver, h]

theorem nakResend_of_none {k : Nat} (h : tget? s.net.chans k = none) : s.nakResend k = s := by simp only [State.nakResend, h]

theorem slotExpiry_of_none {k : Nat} (h : tget? s.net.chans k = none) : s.slotExpiry k = s := by simp only [State.slotExpiry, h]

variable {c : Chan} (h : tget? s.net.chans cid.val = some c)
include h

theorem exec_openResend_of_chan : exec (.openResend cid) s = .next (if c.state = 1 then s.sendOpen cid.val else s).flush := by
  simp only [exec, execOpenResend, h, finish]

theorem exec_openTimeout_of_chan : exec (.openTimeout cid) s =
    .next (if c.state = 1 then (s.refuseOpen cid.val 2 chTimedOut).closed else s.flush) := by
  simp only [exec, execOpenTimeout, h]
  split <;> rfl

theorem exec_closeTimeout_of_chan : exec (.closeTimeout cid) s =
    .next (if c.state = 3 ∧ c.closeTick + 16 ≤ s.tick then (s.delChan cid.val).closed else s.flush) := by
  simp only [exec, execCloseTimeout, h, Bool.and_eq_true, decide_eq_true_eq]
  split <;> rfl

theorem exec_noPathTimeout_of_chan : exec (.noPathTimeout cid) s =
    .next (if c.state = 2 ∧ s.hasPath c = false then (s.failChan cid.val 6 chNoPath).closed else s.flush) := by
  simp only [exec, execNoPathTimeout, h, Bool.and_eq_true, decide_eq_true_eq, Bool.not_eq_true']
  split <;> rfl

theorem slotExpiry_of_chan : s.slotExpiry cid.val =
    if c.state = 2 ∧ c.mode = 2 ∧ c.version ≠ 0x10 then (s.setChan cid.val (c.slotTurn s.tick true)).pump cid.val else s := by
  simp only [State.slotExpiry, h, Bool.and_eq_true, decide_eq_true_eq, bne_iff_ne, and_assoc]

theorem nakResend_of_chan : s.nakResend cid.val = (s.setChan cid.val { c with sends := c.sends.map (fun m => { m with
      again := m.again ++ (m.refused.filter (fun x => decide (x.2.1 + 1 ≤ s.tick))).map (fun x => (x.1, x.2.2, 64)),
      refused := m.refused.filter (fun x => !decide (x.2.1 + 1 ≤ s.tick)) }) }).pump cid.val := by
  simp only [State.nakResend, h]

/-- A packet no longer in flight, or a channel that is not open or has no path, takes no loss (R400, R387). -/
theorem rtoOver_of_idle {psn : Nat}
    (hidle : c.flights.find? (fun f => f.psn % 2 ^ 32 == psn) = none ∨ c.state ≠ 2 ∨ s.hasPath c = false) : s.rtoOver cid.val psn = s := by
  simp only [State.rtoOver, h]
  split
  · rfl
  next f hf =>
    rw [hf] at hidle
    exact if_pos (by simpa using hidle)

/-- Where a loss leaves a channel: failed, or sending on (R401). -/
def afterLoss (s : State) (cid : Nat) (x : Bool × Chan) : State :=
  if x.1 = true then (s.setChan cid x.2).failChan cid 6 chFailed else (s.setChan cid x.2).pump cid

theorem rtoOver_of_flight {psn : Nat} {f : Flight} (hf : c.flights.find? (fun f => f.psn % 2 ^ 32 == psn) = some f) (hc : c.state = 2)
    (hp : s.hasPath c = true) : s.rtoOver cid.val psn =
      afterLoss s cid.val (({ c with timedOut := true } : Chan).lose f s.tick (s.rd F.gnxRetryMax)) := by
  unfold State.rtoOver
  split
  next hn => exact absurd (h.symm.trans hn) (by simp)
  next c' hc' =>
    obtain rfl := Option.some.inj (h.symm.trans hc')
    split
    next hn => exact absurd (hf.symm.trans hn) (by simp)
    next f' hf' =>
      obtain rfl := Option.some.inj (hf.symm.trans hf')
      refine (if_neg (by simp [hc, hp])).trans ?_
      unfold afterLoss
      split
      next c' hl => simp only [hl, if_true]
      next c' hl => simp only [hl, Bool.false_eq_true, if_false]

end

/-! ## Opening (R45, R46, R383, R384) -/

/-- An OPEN answered before, among the channels. -/
def answered (o : GnxOpen) (e : Nat × Chan) : Bool :=
  e.2.ackSent && e.2.peerNonce == o.nonce.toNat && e.2.peerCid == o.scid.toNat && e.2.part == o.peerPart.toNat

/-- The pending opens an OPEN matches, the first consumed first. -/
def matchingOpens (s : State) (o : GnxOpen) : List (Nat × Chan) :=
  (s.net.chans.filter (fun e => s.openMatches o e.2)).mergeSort (fun a b => decide (a.2.order ≤ b.2.order))

section
variable {s : State} {o : GnxOpen} (hnew : s.net.chans.find? (answered o) = none)
include hnew

theorem openRx_of_unmatched (hm : matchingOpens s o = []) : s.openRx o = s := by
  unfold answered at hnew
  unfold matchingOpens at hm
  simp only [State.openRx, hnew, hm]

variable {cid port : Nat} {c : Chan} {l : List (Nat × Chan)} {l' : List Nat} (hm : matchingOpens s o = (cid, c) :: l)
  (hp : s.localPorts c = port :: l')
include hm hp

theorem openRx_of_no_version (hv : agreedVersion (s.rd F.idGnxMin) (s.rd F.idGnxMax) o.lo.toNat o.hi.toNat = none) : s.openRx o =
    (s.event 0x03 c.part [2, c.handle cid, s.rd F.idGnxMin + 256 * s.rd F.idGnxMax, o.lo.toNat + 256 * o.hi.toNat, 0]).refuseOpen
      cid 3 chRefused := by
  unfold answered at hnew
  unfold matchingOpens at hm
  simp only [State.openRx, hnew, hm, hp, hv]

variable {v : Nat} (hv : agreedVersion (s.rd F.idGnxMin) (s.rd F.idGnxMax) o.lo.toNat o.hi.toNat = some v)
include hv

theorem openRx_of_other_settings (h : c.mode ≠ o.mode.val ∨ c.enc ≠ o.enc) : s.openRx o = s.refuseOpen cid 4 chRefused := by
  have hguard : (c.mode != o.mode.val || c.enc != o.enc) = true := by simpa using h
  unfold answered at hnew
  unfold matchingOpens at hm
  simp only [State.openRx, hnew, hm, hp, hv, hguard, if_true]

theorem openRx_of_agreed (h : c.mode = o.mode.val) (he : c.enc = o.enc) : s.openRx o =
    (let c' : Chan := { c with version := v, peerNonce := o.nonce.toNat, peerCid := o.scid.toNat, peerLo := o.lo.toNat,
                               peerHi := o.hi.toNat, addrs := o.addrs.map BitVec.toNat, ackSent := true,
                               maxPay := maxPayOf (Nat.min (s.rd F.npMtu port) o.mtu.toNat) (isV6 c.peerIp) c.enc }
     ((s.setChan cid c').sendOpenAck cid).establish cid) := by
  have hguard : (c.mode != o.mode.val || c.enc != o.enc) = false := by simp [h, he]
  unfold answered at hnew
  unfold matchingOpens at hm
  simp only [State.openRx, hnew, hm, hp, hv, hguard, Bool.false_eq_true, if_false]

end

/-! ## OPEN_ACK, CLOSE and ADDR (R380, R383, R386 to R388) -/

section
variable {s : State} {h : GnxHdr} {a b : Nat}

theorem openAckRx_of_none (hc : tget? s.net.chans h.dcid.toNat = none) : s.openAckRx h a b = s.inc F.gnxUnkCid 1 := by
  simp only [State.openAckRx, hc]

variable {c : Chan} (hc : tget? s.net.chans h.dcid.toNat = some c)

/-- The version an OPEN_ACK may not carry (R380). -/
def ackOld (s : State) (h : GnxHdr) (c : Chan) : Bool :=
  if c.ackSent then h.ver.toNat != c.version else decide (s.rd F.idGnxMax < h.ver.toNat)

theorem ackOld_iff (s : State) (h : GnxHdr) (c : Chan) : ackOld s h c = true ↔
    (c.ackSent = true ∧ h.ver.toNat ≠ c.version) ∨ (c.ackSent = false ∧ s.rd F.idGnxMax < h.ver.toNat) := by
  unfold ackOld
  cases c.ackSent <;> simp

include hc

theorem openAckRx_eq : s.openAckRx h a b =
    if ackOld s h c = true then s.inc F.gnxVerDrop 1
    else if (h.pkey.toNat != c.pkey) = true then s.violation h.dcid.toNat h 3 0
    else if (c.state != 1 || c.nonce != a || (c.ackSent && c.peerNonce != b)) = true then s
    else (s.setChan h.dcid.toNat { c with ackSeen := true }).establish h.dcid.toNat := by
  unfold State.openAckRx
  dsimp only
  rw [hc]
  rfl

theorem openAckRx_of_old (ho : ackOld s h c = true) : s.openAckRx h a b = s.inc F.gnxVerDrop 1 := (openAckRx_eq hc).trans (if_pos ho)

variable (ho : ¬ ackOld s h c = true)
include ho

theorem openAckRx_of_foreign (hk : h.pkey.toNat ≠ c.pkey) : s.openAckRx h a b = s.violation h.dcid.toNat h 3 0 :=
  (openAckRx_eq hc).trans ((if_neg ho).trans (if_pos (by simpa using hk)))

variable (hk : h.pkey.toNat = c.pkey)
include hk

theorem openAckRx_of_other_open (hm : ¬ (c.state = 1 ∧ c.nonce = a ∧ (c.ackSent = true → c.peerNonce = b))) : s.openAckRx h a b = s := by
  refine (openAckRx_eq hc).trans ((if_neg ho).trans ((if_neg (by simp [hk])).trans (if_pos ?_)))
  by_contra hno
  exact hm (by simpa [and_assoc] using hno)

theorem openAckRx_of_own_open (hm : c.state = 1 ∧ c.nonce = a ∧ (c.ackSent = true → c.peerNonce = b)) : s.openAckRx h a b =
    (s.setChan h.dcid.toNat { c with ackSeen := true }).establish h.dcid.toNat := by
  obtain ⟨h1, h2, h3⟩ := hm
  refine (openAckRx_eq hc).trans ((if_neg ho).trans ((if_neg (by simp [hk])).trans (if_neg ?_)))
  simpa [h1, h2] using h3

end

/-- What a check answers, split into the channel it passes and the state it leaves. -/
theorem eq_pair {α β : Type} {g : α × β} {x : α} (h : g.1 = x) : g = (x, g.2) := Prod.ext h rfl

section
variable {s t : State} {h : GnxHdr} {cid : Nat} {c : Chan}

theorem closeRx_of_bad {k : Nat} (hg : s.gnxCheckIn [2, 3] h (ctlBytes 6 [k]) = (none, t)) : s.closeRx h k = t := by
  simp only [State.closeRx, hg]

theorem closeRx_of_good {k : Nat} (hg : s.gnxCheckIn [2, 3] h (ctlBytes 6 [k]) = (some (cid, c), t)) : s.closeRx h k =
    if c.state = 3 then t.delChan cid else ((t.closeChan cid 5).chanEvent cid chPeerClosed).delChan cid := by
  simp only [State.closeRx, hg]

theorem addrRx_of_bad {x : Nat} {w : Bool} (hg : s.gnxCheck h (ctlBytes 7 [x, if w then 1 else 2]) = (none, t)) : s.addrRx h x w = t := by
  simp only [State.addrRx, hg]

theorem addrRx_of_good {x : Nat} {w : Bool} (hg : s.gnxCheck h (ctlBytes 7 [x, if w then 1 else 2]) = (some (cid, c), t)) :
    s.addrRx h x w = (let l := c.withdrawn.filter (fun y => y != x)
      (t.setChan cid { c with withdrawn := if w = true then l ++ [x] else l }).pump cid) := by
  simp only [State.addrRx, hg]

end

/-- Settles O50: each command's lemma above, by the channel it finds, where the packet's hub works. -/
theorem openingAndEndingOfChannels : Obligations.OpeningAndEndingOfChannels := by
  refine ⟨fun cid psn s h => ⟨exec_openResend_of_none h, exec_openTimeout_of_none h, exec_closeTimeout_of_none h, exec_noPathTimeout_of_none h,
      next_closed_of (rtoOver_of_none h), next_closed_of (nakResend_of_none h), next_closed_of (slotExpiry_of_none h)⟩,
    fun cid s c h => ⟨exec_openResend_of_chan h, exec_openTimeout_of_chan h, exec_closeTimeout_of_chan h, exec_noPathTimeout_of_chan h,
      next_closed_of (slotExpiry_of_chan h), next_closed_of (nakResend_of_chan h), fun psn hidle => next_closed_of (rtoOver_of_idle h hidle),
      fun psn f hf hc hp => next_closed_of (rtoOver_of_flight h hf hc hp)⟩,
    fun mine s h => rd_mstate_heard h, ?_, ?_, ?_, ?_, ?_⟩
  case refine_1 =>
    intro o s₀ s hnew ms
    refine ⟨fun hm => next_closed_of (openRx_of_unmatched hnew hm), fun cid c l port l' hm hp => ⟨fun v hv => ⟨fun h => ?_, fun h he => ?_⟩, fun hv => ?_⟩⟩
    · exact next_closed_of (openRx_of_other_settings hnew hm hp hv h)
    · exact next_closed_of (openRx_of_agreed hnew hm hp hv h he)
    · exact next_closed_of (openRx_of_no_version hnew hm hp hv)
  case refine_2 =>
    intro h a b addr w k s₀ s hstop wait
    exact ⟨next_closed_of (gnxHeard_of_stopped (x := .openAck h a b) hstop), next_closed_of (gnxHeard_of_stopped (x := .close h k) hstop),
      next_closed_of (gnxHeard_of_stopped (x := .addr h addr w) hstop)⟩
  case refine_3 =>
    intro h a b s₀ s hfree
    refine ⟨fun hc => packet_closed (x := .openAck h a b) hfree (openAckRx_of_none hc), fun c hc => ?_⟩
    have hold := ackOld_iff s h c
    refine ⟨fun ho => packet_closed (x := .openAck h a b) hfree (openAckRx_of_old hc (hold.mpr ho)), fun ho hk => ?_, fun ho hk hm => ?_, fun ho hk hm => ?_⟩
    · exact packet_closed (x := .openAck h a b) hfree (openAckRx_of_foreign hc (mt hold.mp ho) hk)
    · exact packet_closed (x := .openAck h a b) hfree (openAckRx_of_other_open hc (mt hold.mp ho) hk hm)
    · exact packet_closed (x := .openAck h a b) hfree (openAckRx_of_own_open hc (mt hold.mp ho) hk hm)
  case refine_4 =>
    intro h k s₀ s hfree g cid
    exact ⟨fun hg => packet_closed (x := .close h k) hfree (closeRx_of_bad (eq_pair hg)),
      fun c hg => packet_closed (x := .close h k) hfree (closeRx_of_good (eq_pair hg))⟩
  case refine_5 =>
    intro h addr w s₀ s hfree g
    exact ⟨fun hg => packet_closed (x := .addr h addr w) hfree (addrRx_of_bad (eq_pair hg)),
      fun cid c hg => packet_closed (x := .addr h addr w) hfree (addrRx_of_good (eq_pair hg))⟩

/-! ## The checks of a received packet, in their order (R380) -/

section
variable {s : State} {h : GnxHdr} {plain : List Byte}

theorem gnxCheck_of_no_channel (hc : ∀ c, tget? s.net.chans h.dcid.toNat = some c → c.state ≠ 2) :
    s.gnxCheck h plain = (none, s.inc F.gnxUnkCid 1) := by
  unfold State.gnxCheck State.gnxCheckIn
  dsimp only
  split
  · rfl
  next c hf => exact if_pos (by simpa using hc c hf)

/-- Whether a packet's type, and a DATA packet's payload, fit its channel. -/
def fitsChan (h : GnxHdr) (c : Chan) : Prop :=
  1 ≤ h.type.toNat ∧ h.type.toNat ≤ 10 ∧ (h.type = 1 → h.plen.toNat ≤ c.maxPay ∧
    (h.last = true ∨ h.plen.toNat = c.maxPay) ∧ h.offset.toNat % Nat.max 1 c.maxPay = 0)

/-- The check for a malformed packet, as the model makes it. -/
def malformed (h : GnxHdr) (c : Chan) : Bool :=
  h.type.toNat < 1 || 10 < h.type.toNat ||
    (h.type == 1 && (c.maxPay < h.plen.toNat || (!h.last && h.plen.toNat != c.maxPay) || h.offset.toNat % Nat.max 1 c.maxPay != 0))

theorem malformed_iff (h : GnxHdr) (c : Chan) : malformed h c = true ↔ ¬ fitsChan h c := by
  unfold malformed fitsChan
  simp only [Bool.or_eq_true, Bool.and_eq_true, decide_eq_true_eq, beq_iff_eq, bne_iff_ne, Bool.not_eq_true']
  by_cases ht : h.type = 1
  · cases h.last
    · simp only [ht, true_and, forall_const, Bool.false_eq_true, false_or]
      omega
    · simp only [ht, true_and, forall_const, Bool.true_eq_false, false_and, or_false, true_or, true_and]
      omega
  · simp only [ht, false_and, or_false, false_imp_iff, and_true]
    omega

/-- Whether a packet of an encrypted channel is sealed and carries the tag its key gives (R381). -/
theorem tagOk_iff (c : Chan) (cid : Nat) (h : GnxHdr) (plain : List Byte) : c.tagOk cid h plain = true ↔ (c.enc = true → h.enc = true ∧
    leNat (c.cipher cid false (epochOf (c.rcvCounts h).1 (c.rcvCounts h).2) (rcvHead h) plain).2 = h.tag.toNat) := by
  unfold Chan.tagOk
  cases c.enc <;> simp

variable {c : Chan} (hc : tget? s.net.chans h.dcid.toNat = some c) (hs : c.state = 2)
include hc hs

theorem gnxCheck_eq : s.gnxCheck h plain =
    if (h.ver.toNat != c.version) = true then (none, s.inc F.gnxVerDrop 1)
    else if malformed h c = true then (none, s.inc F.gnxMalformed 1)
    else if (h.pkey.toNat != c.pkey) = true then (none, s.violation h.dcid.toNat h 3 0)
    else if (!c.tagOk h.dcid.toNat h plain) = true then (none, s.violation h.dcid.toNat h 5 0)
    else (let c' : Chan := { c with peerCtl := (c.rcvCounts h).2 }
      (some (h.dcid.toNat, c'), s.setChan h.dcid.toNat c')) := by
  unfold State.gnxCheck State.gnxCheckIn
  dsimp only
  rw [hc]
  exact if_neg (by simp [hs])

theorem gnxCheck_of_other_version (hv : h.ver.toNat ≠ c.version) : s.gnxCheck h plain = (none, s.inc F.gnxVerDrop 1) :=
  (gnxCheck_eq hc hs).trans (if_pos (by simpa using hv))

variable (hv : h.ver.toNat = c.version)
include hv

theorem gnxCheck_of_malformed (hf : ¬ fitsChan h c) : s.gnxCheck h plain = (none, s.inc F.gnxMalformed 1) :=
  (gnxCheck_eq hc hs).trans ((if_neg (by simp [hv])).trans (if_pos ((malformed_iff h c).mpr hf)))

variable (hf : fitsChan h c)
include hf

theorem gnxCheck_of_foreign (hk : h.pkey.toNat ≠ c.pkey) : s.gnxCheck h plain = (none, s.violation h.dcid.toNat h 3 0) :=
  (gnxCheck_eq hc hs).trans ((if_neg (by simp [hv])).trans ((if_neg fun hm => (malformed_iff h c).mp hm hf).trans
    (if_pos (by simpa using hk))))

variable (hk : h.pkey.toNat = c.pkey)
include hk

theorem gnxCheck_of_unsafe (ht : ¬ c.tagOk h.dcid.toNat h plain = true) : s.gnxCheck h plain = (none, s.violation h.dcid.toNat h 5 0) :=
  (gnxCheck_eq hc hs).trans ((if_neg (by simp [hv])).trans ((if_neg fun hm => (malformed_iff h c).mp hm hf).trans
    ((if_neg (by simp [hk])).trans (if_pos (by simpa using ht)))))

theorem gnxCheck_of_good (ht : c.tagOk h.dcid.toNat h plain = true) : s.gnxCheck h plain =
    (let c' : Chan := { c with peerCtl := (c.rcvCounts h).2 }
     (some (h.dcid.toNat, c'), s.setChan h.dcid.toNat c')) :=
  (gnxCheck_eq hc hs).trans ((if_neg (by simp [hv])).trans ((if_neg fun hm => (malformed_iff h c).mp hm hf).trans
    ((if_neg (by simp [hk])).trans (if_neg (by simp [ht])))))

end

/-! ## DATA (R392 to R399) -/

section
variable {s t : State} {h : GnxHdr} {pay : List Byte}

theorem dataRx_of_bad (hg : s.gnxCheck h (bytesAt pay 0 h.plen.toNat) = (none, t)) : s.dataRx h pay = t := by
  simp only [State.dataRx, hg]

variable {cid psn : Nat} {c : Chan} (hg : s.gnxCheck h (bytesAt pay 0 h.plen.toNat) = (some (cid, c), t))
  (hpsn : unwrapN 32 c.cumPsn h.psn.toNat = some psn)
include hg hpsn

theorem dataRx_of_seen (hd : psn < c.cumPsn ∨ c.seen.contains psn = true) : s.dataRx h pay = t.dupPacket cid c h := by
  have hguard : (decide (psn < c.cumPsn) || c.seen.contains psn) = true := by simpa using hd
  unfold State.dataRx
  obtain ⟨unwrap, hu⟩ := exists_eq_self unwrapN
  rw [← hu] at hpsn ⊢
  simp only [hg, hpsn, hguard, if_true]

theorem dataRx_of_far (hn : c.seen.contains psn = false) (hfar : c.cumPsn + 4096 ≤ psn) : s.dataRx h pay = t.inc F.gnxMalformed 1 := by
  have hguard : (decide (psn < c.cumPsn) || c.seen.contains psn) = false := by
    rw [hn, decide_eq_false (by omega)]
    rfl
  unfold State.dataRx
  obtain ⟨unwrap, hu⟩ := exists_eq_self unwrapN
  rw [← hu] at hpsn ⊢
  simp only [hg, hpsn, hguard, Bool.false_eq_true, if_false, if_pos hfar]

variable {msn : Nat} (h1 : c.cumPsn ≤ psn) (h2 : psn < c.cumPsn + 4096) (hn : c.seen.contains psn = false)
  (hmsn : unwrapN 24 c.rcvLow h.msn.toNat = some msn) (h3 : c.rcvLow ≤ msn) (h4 : msn < c.rcvLow + 4096)
  (hd : c.doneMsns.contains msn = false) (hm : c.msgs.find? (fun m => m.msn == msn) = none)
include h1 h2 hn hmsn h3 h4 hd hm

theorem dataRx_of_no_buffer (hb : c.bufs.find? (fun b => b.bound.isNone) = none) :
    s.dataRx h pay = t.sendCtl cid 10 h.path [h.msn.toNat, h.offset.toNat, 1] := by
  have hp : (decide (psn < c.cumPsn) || c.seen.contains psn) = false := by
    rw [hn, decide_eq_false (by omega)]
    rfl
  have hq : (decide (msn < c.rcvLow) || c.doneMsns.contains msn) = false := by
    rw [hd, decide_eq_false (by omega)]
    rfl
  unfold State.dataRx
  obtain ⟨unwrap, hu⟩ := exists_eq_self unwrapN
  rw [← hu] at hpsn hmsn ⊢
  simp only [hg, hpsn, hp, Bool.false_eq_true, if_false, if_neg (show ¬ c.cumPsn + 4096 ≤ psn by omega), hmsn, hq,
    if_neg (show ¬ c.rcvLow + 4096 ≤ msn by omega), hm, hb]

theorem dataRx_of_buffer {b : GnxBuf} (hb : c.bufs.find? (fun b => b.bound.isNone) = some b) {u : State} {e : Chan}
    (hu : u = (let c' := c.take psn (gnxFrame (isV6 c.peerIp) c.enc h.plen.toNat) h.ce
      (t.setChan cid { c' with bufs := c'.bufs.map (fun x => if x == b then { b with bound := some msn } else x),
                               msgs := c'.msgs ++ [⟨msn, b.tag, [], none, none⟩] }).placePacket cid h msn pay))
    (he : tget? u.net.chans cid = some e) :
    s.dataRx h pay = if h.solicit = true ∨ 8 ≤ e.sinceAck then u.sendAck cid h.path h.tstamp.toNat else u := by
  have hp : (decide (psn < c.cumPsn) || c.seen.contains psn) = false := by
    rw [hn, decide_eq_false (by omega)]
    rfl
  have hq : (decide (msn < c.rcvLow) || c.doneMsns.contains msn) = false := by
    rw [hd, decide_eq_false (by omega)]
    rfl
  unfold State.dataRx
  obtain ⟨unwrap, hw⟩ := exists_eq_self unwrapN
  rw [← hw] at hpsn hmsn ⊢
  simp only [hg, hpsn, hp, Bool.false_eq_true, if_false, if_neg (show ¬ c.cumPsn + 4096 ≤ psn by omega), hmsn, hq,
    if_neg (show ¬ c.rcvLow + 4096 ≤ msn by omega), hm, hb]
  rw [← hu]
  simp only [he, Bool.or_eq_true, decide_eq_true_eq]

end

/-! ## ACK, CREDIT, VIOL_ACK and NAK (R391, R393, R400, R403, R405, R407) -/

section
variable {s t : State} {h : GnxHdr} {cid : Nat} {c : Chan}

theorem ackRx_of_bad {b : GnxAck} {now : Nat} (hg : s.gnxCheck h (ctlBytes 2 (ackFields b)) = (none, t)) : s.ackRx h b now = t := by
  simp only [State.ackRx, hg]

/-- A channel with nothing to send or in flight has no message an ACK could end. -/
theorem endAcked_setChan_of_nothing_sent {low : Nat} (hs : c.sends = []) : (t.setChan cid c).endAcked cid low = t.setChan cid c := by
  have hc : tget? (t.setChan cid c).net.chans cid = some c := tget?_tput_same _ _ _
  simp only [State.endAcked, hc, hs, List.filter_nil, List.foldl_nil]

theorem ackRx_of_idle {b : GnxAck} {now cum : Nat} (hg : s.gnxCheck h (ctlBytes 2 (ackFields b)) = (some (cid, c), t))
    (hf : c.flights = []) (hs : c.sends = []) (he : b.echo = 0) (hr : b.rcvBytes.toNat ≤ c.peerRcv)
    (hcum : unwrapN 32 c.cumAcked b.cumPsn.toNat = some cum) : s.ackRx h b now = (t.setChan cid { c with
      cumAcked := Nat.max c.cumAcked (Nat.min cum c.nextPsn), peerPosted := Nat.max c.peerPosted b.posted.toNat,
      peerRet := Nat.max c.peerRet b.ret.toNat, peerRcv := Nat.max c.peerRcv b.rcvBytes.toNat,
      peerCe := Nat.max c.peerCe b.ceBytes.toNat }).pump cid := by
  have hdr : b.rcvBytes.toNat - c.peerRcv = 0 := Nat.sub_eq_zero_of_le hr
  unfold State.ackRx
  obtain ⟨unwrap, hw⟩ := exists_eq_self unwrapN
  rw [← hw] at hcum ⊢
  simp only [hg, hcum, hf, hdr, if_true, he, List.filter_nil, List.foldl_nil, Bool.false_eq_true, if_false]
  exact congrArg (fun u : State => u.pump cid) (endAcked_setChan_of_nothing_sent hs)

theorem creditRx_of_bad {k : GnxCredit} (hg : s.gnxCheck h (ctlBytes 3 (creditFields k)) = (none, t)) : s.creditRx h k = t := by
  simp only [State.creditRx, hg]

theorem creditRx_of_good {k : GnxCredit} (hg : s.gnxCheck h (ctlBytes 3 (creditFields k)) = (some (cid, c), t)) (hm : c.mode ≠ 2) :
    s.creditRx h k = (let c' : Chan := { c with grantSeen := Nat.max c.grantSeen k.grant.toNat, peerPosted := Nat.max c.peerPosted k.posted.toNat }
      (t.setChan cid (c'.slotTurn t.tick false)).pump cid) := by
  have hmode : (c.mode != 2) = true := by simpa using hm
  simp only [State.creditRx, hg, hmode, Bool.true_or, if_true]

theorem violAckRx_of_bad {psn : Nat} (hg : s.gnxCheck h (ctlBytes 9 [psn]) = (none, t)) : s.violAckRx h psn = t := by
  simp only [State.violAckRx, hg]

theorem violAckRx_of_good {psn : Nat} (hg : s.gnxCheck h (ctlBytes 9 [psn]) = (some (cid, c), t)) : s.violAckRx h psn =
    t.modChan cid (fun c => { c with viols := c.viols.filter (fun v => v.psn != psn) }) := by
  simp only [State.violAckRx, hg]

theorem nakRx_of_bad {msn ofs : Nat} (hg : s.gnxCheck h (ctlBytes 10 [msn, ofs, 1]) = (none, t)) : s.nakRx h msn ofs = t := by
  simp only [State.nakRx, hg]

theorem nakRx_of_flight {msn ofs : Nat} {m : TxMsg} {f : Flight} (hg : s.gnxCheck h (ctlBytes 10 [msn, ofs, 1]) = (some (cid, c), t))
    (hm : c.sends.find? (fun m => m.started && m.msn % 2 ^ 24 == msn) = some m)
    (hf : c.flights.find? (fun f => f.msn == m.msn && f.offset == ofs) = some f) : s.nakRx h msn ofs =
      (t.setChan cid { c with
        flights := c.flights.erase f,
        sends := c.sends.map (fun x => if x.msn = m.msn then { x with refused := x.refused ++ [(ofs, t.tick, f.tries)] } else x) }).inc
          F.pRnr 1 c.part := by
  unfold State.nakRx
  split
  next u hn => exact absurd (hg.symm.trans hn) (by simp)
  next cid' c' u hn =>
    obtain ⟨hx, rfl⟩ := Prod.mk.inj (hg.symm.trans hn)
    obtain ⟨rfl, rfl⟩ := Prod.mk.inj (Option.some.inj hx)
    split
    next hn' => exact absurd (hm.symm.trans hn') (by simp)
    next m' hm' =>
      obtain rfl := Option.some.inj (hm.symm.trans hm')
      split
      next hn' => exact absurd (hf.symm.trans hn') (by simp)
      next f' hf' =>
        obtain rfl := Option.some.inj (hf.symm.trans hf')
        rfl

end

/-! ## VIOL (R408, Table 11-8) -/

/-- Whether a VIOL carries another version than the open channel it names. -/
def violOld (s : State) (h : GnxHdr) : Bool :=
  match tget? s.net.chans h.dcid.toNat with
  | some c => c.state == 2 && h.ver.toNat != c.version
  | none => false

theorem violOld_iff (s : State) (h : GnxHdr) : violOld s h = true ↔
    ∃ c, tget? s.net.chans h.dcid.toNat = some c ∧ c.state = 2 ∧ h.ver.toNat ≠ c.version := by
  unfold violOld
  cases tget? s.net.chans h.dcid.toNat with
  | none => simp
  | some c => simp

/-- The message a VIOL names ends with a status, and sending goes on. -/
def stopSend (u : State) (cid : Nat) (m : Option TxMsg) (st : Nat) : State := (m.map (fun m => (u.endSend cid m st).pump cid)).getD u

theorem getD_map_some {α β : Type} (f : α → β) (a : α) (b : β) : ((some a).map f).getD b = f a := rfl

theorem stopSend_some (u : State) (cid : Nat) (m : TxMsg) (st : Nat) : stopSend u cid (some m) st = (u.endSend cid m st).pump cid :=
  getD_map_some _ _ _

theorem stopSend_none (u : State) (cid st : Nat) : stopSend u cid none st = u := rfl

/-- What a VIOL's code does to an open channel. -/
def violEffect (u : State) (cid : Nat) (m : Option TxMsg) (code : Nat) : State :=
  match code with
  | 1 => stopSend u cid m 8
  | 2 => stopSend u cid m 9
  | 3 => u.failChan cid 6 chFailed
  | 4 => stopSend u cid m 0x0A
  | _ => u

section
variable {s : State} {h : GnxHdr} {code msn ofs : Nat}

theorem violRx_of_old (ho : violOld s h = true) : s.violRx h code msn ofs = s.inc F.gnxVerDrop 1 := if_pos ho

variable (ho : ¬ violOld s h = true)
include ho

theorem violRx_of_bad_code (hk : code < 1 ∨ 5 < code) : s.violRx h code msn ofs = s.inc F.gnxMalformed 1 :=
  (if_neg ho).trans (if_pos (by simpa using hk))

variable (h1 : 1 ≤ code) (h5 : code ≤ 5)
include h1 h5

theorem violRx_of_no_channel (hc : ∀ c, tget? (s.sendViolAck h).net.chans h.dcid.toNat = some c → c.state ≠ 2) :
    s.violRx h code msn ofs = (s.sendViolAck h).violEvent none 0xFFFFFFFF 2 code h.src.toNat h.dcid.toNat h.scid.toNat msn ofs 0 := by
  refine (if_neg ho).trans ((if_neg (by simp; omega)).trans ?_)
  dsimp only
  split
  · rfl
  next c hf => exact if_pos (by simpa using hc c hf)

theorem violRx_of_channel {c : Chan} (hc : tget? (s.sendViolAck h).net.chans h.dcid.toNat = some c) (hs : c.state = 2) :
    s.violRx h code msn ofs = violEffect
      ((s.sendViolAck h).violEvent (some c.part) (c.handle h.dcid.toNat) 2 code h.src.toNat h.dcid.toNat h.scid.toNat msn ofs 0) h.dcid.toNat
      (c.sends.find? (fun m => m.started && m.msn % 2 ^ 24 == msn)) code := by
  refine (if_neg ho).trans ((if_neg (by simp; omega)).trans ?_)
  dsimp only
  split
  next hn => exact absurd (hc.symm.trans hn) (by simp)
  next c' hc' =>
    obtain rfl := Option.some.inj (hc.symm.trans hc')
    refine (if_neg (by simp [hs])).trans ?_
    have hcode : code = 1 ∨ code = 2 ∨ code = 3 ∨ code = 4 ∨ code = 5 := by omega
    cases hm : c.sends.find? (fun m => m.started && m.msn % 2 ^ 24 == msn) with
    | none => rcases hcode with rfl | rfl | rfl | rfl | rfl <;> simp only [violEffect, stopSend_none]
    | some m => rcases hcode with rfl | rfl | rfl | rfl | rfl <;> simp only [violEffect, stopSend_some]

end

/-- Settles O51: the checks in their order, then each packet's lemma by what its check answers. -/
theorem channelPackets : Obligations.ChannelPackets := by
  refine ⟨?_, ?_, ?_, ?_, ?_, ?_, ?_, ?_⟩
  case refine_1 =>
    intro s h plain cid
    refine ⟨gnxCheck_of_no_channel, fun c hc hs => ?_⟩
    intro fits n safe
    have hsafe := tagOk_iff c cid h plain
    exact ⟨gnxCheck_of_other_version hc hs, gnxCheck_of_malformed hc hs, fun hv hf => gnxCheck_of_foreign hc hs hv hf,
      fun hv hf hk ht => gnxCheck_of_unsafe hc hs hv hf hk (mt hsafe.mp ht), fun hv hf hk ht => gnxCheck_of_good hc hs hv hf hk (hsafe.mpr ht)⟩
  case refine_2 =>
    intro h b k now psn msn ofs code pay s₀ s hstop wait
    exact ⟨next_closed_of (gnxHeard_of_stopped (x := .data h pay) hstop), next_closed_of (gnxHeard_of_stopped (x := .ack h b now) hstop),
      next_closed_of (gnxHeard_of_stopped (x := .credit h k) hstop), next_closed_of (gnxHeard_of_stopped (x := .viol h code msn ofs) hstop),
      next_closed_of (gnxHeard_of_stopped (x := .violAck h psn) hstop), next_closed_of (gnxHeard_of_stopped (x := .nak h msn ofs) hstop)⟩
  case refine_3 =>
    intro h pay s₀ s hfree g t
    refine ⟨fun hg => packet_closed (x := .data h pay) hfree (dataRx_of_bad (eq_pair hg)), fun cid c hg => ?_⟩
    intro frame
    refine ⟨fun psn hp hd => ?_, fun psn hp hn hfar => ?_, fun psn msn hp h1 h2 hn hm h3 h4 hd hno => ⟨fun hb => ?_, fun b hb => ?_⟩⟩
    · exact packet_closed (x := .data h pay) hfree (dataRx_of_seen (eq_pair hg) hp hd)
    · exact packet_closed (x := .data h pay) hfree (dataRx_of_far (eq_pair hg) hp hn hfar)
    · exact packet_closed (x := .data h pay) hfree (dataRx_of_no_buffer (eq_pair hg) hp h1 h2 hn hm h3 h4 hd hno hb)
    · intro c' c2 u e he
      exact packet_closed (x := .data h pay) hfree (dataRx_of_buffer (eq_pair hg) hp h1 h2 hn hm h3 h4 hd hno hb rfl he)
  case refine_4 =>
    intro h b now s₀ s hfree g
    exact ⟨fun hg => packet_closed (x := .ack h b now) hfree (ackRx_of_bad (eq_pair hg)),
      fun cid c cum hg hf hs he hr hcum => packet_closed (x := .ack h b now) hfree (ackRx_of_idle (eq_pair hg) hf hs he hr hcum)⟩
  case refine_5 =>
    intro h k s₀ s hfree g
    exact ⟨fun hg => packet_closed (x := .credit h k) hfree (creditRx_of_bad (eq_pair hg)),
      fun cid c hg hm => packet_closed (x := .credit h k) hfree (creditRx_of_good (eq_pair hg) hm)⟩
  case refine_6 =>
    intro h psn s₀ s hfree g
    exact ⟨fun hg => packet_closed (x := .violAck h psn) hfree (violAckRx_of_bad (eq_pair hg)),
      fun cid c hg => packet_closed (x := .violAck h psn) hfree (violAckRx_of_good (eq_pair hg))⟩
  case refine_7 =>
    intro h msn ofs s₀ s hfree g
    exact ⟨fun hg => packet_closed (x := .nak h msn ofs) hfree (nakRx_of_bad (eq_pair hg)),
      fun cid c m f hg hm hf => packet_closed (x := .nak h msn ofs) hfree (nakRx_of_flight (eq_pair hg) hm hf)⟩
  case refine_8 =>
    intro h code msn ofs s₀ s hfree old t tell
    have hold : violOld s h = true ↔ old := violOld_iff s h
    refine ⟨fun ho => packet_closed (x := .viol h code msn ofs) hfree (violRx_of_old (hold.mpr ho)),
      fun ho hk => packet_closed (x := .viol h code msn ofs) hfree (violRx_of_bad_code (mt hold.mp ho) hk), fun ho h1 h5 => ⟨fun hc => ?_, fun c hc hs => ?_⟩⟩
    · exact packet_closed (x := .viol h code msn ofs) hfree (violRx_of_no_channel (mt hold.mp ho) h1 h5 hc)
    · exact packet_closed (x := .viol h code msn ofs) hfree (violRx_of_channel (mt hold.mp ho) h1 h5 hc hs)

end Sys2Proof.Machine.ChannelLaws
end

section
/-! PROOF. The registrations of collectives (12_collectives_and_steps.md): groups, sheaves, lists, ledgers, fillers and permutes (O52). -/
namespace Sys2Proof.Machine.RegistrationLaws
open Sys2Proof Sys2Proof.Machine.Laws Sys2Proof.Machine.ClockLaws Sys2Proof.Machine.BoundaryLaws Sys2Proof.Machine.StepLaws
  Sys2Proof.Machine.DispatchLaws Sys2Proof.Machine.TierLaws

section
variable {r : DRef} {d : Desc} {t u : State} {bs : List Byte}

/-! ## Groups (R412, R413) -/

theorem runGroupRegister_of_used (h : (t.group? r.part (d.fld 0 4)).isSome = true) :
    t.runGroupRegister r d = t.nullDesc r collNull (d.fld 0 4) := if_pos h

theorem runGroupRegister_of_unread (h : t.group? r.part (d.fld 0 4) = none) (hb : t.descRead r.part (d.at 24 64) 1088 = (none, u)) :
    t.runGroupRegister r d = u.noop r := by
  simp only [State.runGroupRegister, h, Option.isSome_none, Bool.false_eq_true, if_false, hb]

theorem runGroupRegister_of_bad (h : t.group? r.part (d.fld 0 4) = none) (hb : t.descRead r.part (d.at 24 64) 1088 = (some bs, u))
    (hok : u.groupOk r.part (d.fld 0 4) (leNat bs) = false) : t.runGroupRegister r d = u.nullDesc r collNull (d.fld 0 4) := by
  simp only [State.runGroupRegister, h, Option.isSome_none, Bool.false_eq_true, if_false, hb, hok, Bool.not_false, if_true]

theorem runGroupRegister_of_good (h : t.group? r.part (d.fld 0 4) = none) (hb : t.descRead r.part (d.at 24 64) 1088 = (some bs, u))
    (hok : u.groupOk r.part (d.fld 0 4) (leNat bs) = true) (hc : u.confidential r.part = false) : t.runGroupRegister r d =
      ((u.putGroup r.part (d.fld 0 4) (groupOf (leNat bs))).postPool r.part (d.fld 0 4) (groupOf (leNat bs))).done r := by
  simp only [State.runGroupRegister, h, Option.isSome_none, Bool.false_eq_true, if_false, hb, hok, Bool.not_true, hc, Bool.false_and,
    Bool.or_false]

theorem runGroupRelease_of_dead (h : ∀ x, t.group? r.part (d.fld 0 4) = some x → x.releasing.isSome = true) :
    t.runGroupRelease r d = t.nullDesc r collNull (d.fld 0 4) := by
  unfold State.runGroupRelease
  dsimp only
  split
  · rfl
  next x hx => exact if_pos (h x hx)

theorem runGroupRelease_of_live {x : CollGroup} (h : t.group? r.part (d.fld 0 4) = some x) (hr : x.releasing = none) :
    t.runGroupRelease r d = (t.putGroup r.part (d.fld 0 4) { x with releasing := some r }).groupTryRelease r.part (d.fld 0 4) := by
  simp only [State.runGroupRelease, h, hr, Option.isSome_none, Bool.false_eq_true, if_false]

theorem groupTryRelease_of_releasing {s : State} {p g : Nat} {x : CollGroup} (h : s.group? p g = some x) (hr : x.releasing = some r) :
    s.groupTryRelease p g =
      if s.groupNamed p g = true then s else ((s.returnPool p g x).modColl p (fun c => { c with groups := tdel c.groups g })).done r := by
  simp only [State.groupTryRelease, h, hr]

/-! ## Sheaves (R425, R438) -/

theorem runSheafRegister_of_used (h : (t.sheaf? r.part (d.fld 0 10)).isSome = true) :
    t.runSheafRegister r d = t.nullDesc r collNull (d.fld 0 10) := if_pos h

theorem runSheafRegister_of_unread (h : t.sheaf? r.part (d.fld 0 10) = none) (hb : t.descRead r.part (d.at 24 64) 128 = (none, u)) :
    t.runSheafRegister r d = u.noop r := by
  simp only [State.runSheafRegister, h, Option.isSome_none, Bool.false_eq_true, if_false, hb]

theorem runSheafRegister_of_bad (h : t.sheaf? r.part (d.fld 0 10) = none) (hb : t.descRead r.part (d.at 24 64) 128 = (some bs, u))
    (hok : u.sheafOk r.part (d.fld 0 10) (leNat bs) = false) : t.runSheafRegister r d = u.nullDesc r collNull (d.fld 0 10) := by
  simp only [State.runSheafRegister, h, Option.isSome_none, Bool.false_eq_true, if_false, hb, hok, Bool.not_false, if_true]

theorem runSheafRegister_of_good (h : t.sheaf? r.part (d.fld 0 10) = none) (hb : t.descRead r.part (d.at 24 64) 128 = (some bs, u))
    (hok : u.sheafOk r.part (d.fld 0 10) (leNat bs) = true) (ha : bitN (leNat bs) 202 = false)
    (hd : decayClamp (fldN (leNat bs) 224 32) = (fldN (leNat bs) 224 32, none)) : t.runSheafRegister r d =
      (u.putSheaf r.part (d.fld 0 10) { sheafOf (leNat bs) with decay := fldN (leNat bs) 224 32 }).done
        { r with clamped := r.clamped || false || false } := by
  simp only [State.runSheafRegister, h, Option.isSome_none, Bool.false_eq_true, if_false, hb, hok, Bool.not_true, ha, hd]

theorem runSheafRelease_of_dead (h : ∀ x, t.sheaf? r.part (d.fld 0 10) = some x → x.releasing.isSome = true) :
    t.runSheafRelease r d = t.nullDesc r collNull (d.fld 0 10) := by
  unfold State.runSheafRelease
  dsimp only
  split
  · rfl
  next x hx => exact if_pos (h x hx)

theorem runSheafRelease_of_live {x : Sheaf} (h : t.sheaf? r.part (d.fld 0 10) = some x) (hr : x.releasing = none) :
    t.runSheafRelease r d = (t.putSheaf r.part (d.fld 0 10) { x with releasing := some r }).sheafTryRelease r.part (d.fld 0 10) := by
  simp only [State.runSheafRelease, h, hr, Option.isSome_none, Bool.false_eq_true, if_false]

/-- What still uses a sheaf: a list names it, or a bank or a close of it stands. -/
theorem sheafUsed_iff (s : State) (p n : Nat) (x : Sheaf) :
    ((s.part p).coll.lists.any (fun l => l.2.entries.any (fun e => eOp e == 0 && eSheaf e == n)) || x.banks != [] || x.close.isSome) = true ↔
      (∃ l ∈ (s.part p).coll.lists, ∃ e ∈ l.2.entries, eOp e = 0 ∧ eSheaf e = n) ∨ x.banks ≠ [] ∨ x.close.isSome = true := by
  simp only [Bool.or_eq_true, List.any_eq_true, Bool.and_eq_true, beq_iff_eq, bne_iff_ne, or_assoc]

theorem sheafTryRelease_of_releasing {s : State} {p n : Nat} {x : Sheaf} (h : s.sheaf? p n = some x) (hr : x.releasing = some r) :
    s.sheafTryRelease p n =
      if ((s.part p).coll.lists.any (fun l => l.2.entries.any (fun e => eOp e == 0 && eSheaf e == n)) || x.banks != [] || x.close.isSome) = true
      then s else (s.sheafGone p n).done r := by
  simp only [State.sheafTryRelease, h, hr]

/-! ## Collective lists and activation ledgers (R416, R443) -/

theorem listTryRelease_of_releasing {s : State} {p plan : Nat} {l : CollList} (h : tget? (s.part p).coll.lists plan = some l)
    (hr : l.releasing = some r) : s.listTryRelease p plan =
      if s.planInUse p plan = true then s else (s.modColl p (fun c => { c with lists := tdel c.lists plan })).done r := by
  simp only [State.listTryRelease, h, hr]

theorem ledgerTryRelease_of_releasing {s : State} {p plan : Nat} {l : ActLedger} (h : tget? (s.part p).coll.ledgers plan = some l)
    (hr : l.releasing = some r) : s.ledgerTryRelease p plan =
      if s.planInUse p plan = true then s else (s.modColl p (fun c => { c with ledgers := tdel c.ledgers plan })).done r := by
  simp only [State.ledgerTryRelease, h, hr]

/-- The number of entries a register may give: from 1 to a limit, of a plan without one. -/
theorem countGuard_iff (has : Bool) (n m : Nat) : (has || decide (n = 0) || decide (m < n)) = true ↔ has = true ∨ n = 0 ∨ m < n := by
  simp only [Bool.or_eq_true, decide_eq_true_eq, or_assoc]

theorem runCollListRegister_of_refused (h : t.livePlan r.part (d.fld 0 8) = none ∨ thas (t.part r.part).coll.lists (d.fld 0 8) = true ∨
    d.fld 16 11 = 0 ∨ 1024 < d.fld 16 11) : t.runCollListRegister r d = t.noop r := by
  unfold State.runCollListRegister
  dsimp only
  split
  · rfl
  next x hx =>
    rw [hx] at h
    exact if_pos ((countGuard_iff _ _ _).mpr (h.resolve_left (by simp)))

section
variable {x : Plan} (hx : t.livePlan r.part (d.fld 0 8) = some x) (hl : thas (t.part r.part).coll.lists (d.fld 0 8) = false)
  (h0 : d.fld 16 11 ≠ 0) (h1 : d.fld 16 11 ≤ 1024)
include hx hl h0 h1

theorem runCollListRegister_of_unread (hb : t.descRead r.part (d.at 24 64) (64 * d.fld 16 11) = (none, u)) :
    t.runCollListRegister r d = u.noop r := by
  have hguard : ¬ (thas (t.part r.part).coll.lists (d.fld 0 8) || decide (d.fld 16 11 = 0) || decide (1024 < d.fld 16 11)) = true := by
    rw [countGuard_iff, hl]
    simpa using ⟨h0, h1⟩
  simp only [State.runCollListRegister, hx, if_neg hguard, hb]

theorem runCollListRegister_of_read (hb : t.descRead r.part (d.at 24 64) (64 * d.fld 16 11) = (some bs, u)) :
    t.runCollListRegister r d = (let es := (List.range (d.fld 16 11)).map (fun i => leAt bs (64 * i) 64)
      if es.all (fun e => u.entryOk r.part x.nticks e) then
        (u.modColl r.part (fun c => { c with lists := tput c.lists (d.fld 0 8) ⟨es, none⟩ })).done r else u.noop r) := by
  have hguard : ¬ (thas (t.part r.part).coll.lists (d.fld 0 8) || decide (d.fld 16 11 = 0) || decide (1024 < d.fld 16 11)) = true := by
    rw [countGuard_iff, hl]
    simpa using ⟨h0, h1⟩
  simp only [State.runCollListRegister, hx, if_neg hguard, hb]

end

theorem runCollListRelease_of_dead (h : ∀ l, tget? (t.part r.part).coll.lists (d.fld 0 8) = some l → l.releasing.isSome = true) :
    t.runCollListRelease r d = t.nullDesc r collNull (d.fld 0 8) := by
  unfold State.runCollListRelease
  dsimp only
  split
  · rfl
  next x hx => exact if_pos (h x hx)

theorem runCollListRelease_of_live {l : CollList} (h : tget? (t.part r.part).coll.lists (d.fld 0 8) = some l) (hr : l.releasing = none) :
    t.runCollListRelease r d =
      (t.modColl r.part (fun c => { c with lists := tput c.lists (d.fld 0 8) { l with releasing := some r } })).listTryRelease r.part (d.fld 0 8) := by
  simp only [State.runCollListRelease, h, hr, Option.isSome_none, Bool.false_eq_true, if_false]

theorem runLedgerRegister_of_refused (h : t.livePlan r.part (d.fld 0 8) = none ∨ thas (t.part r.part).coll.ledgers (d.fld 0 8) = true ∨
    d.at 20 32 = 0 ∨ 65536 < d.at 20 32) : t.runLedgerRegister r d = t.noop r := by
  refine if_pos ?_
  simpa only [Bool.or_eq_true, decide_eq_true_eq, Option.isNone_iff_eq_none, or_assoc] using h

section
variable {x : Plan} (hx : t.livePlan r.part (d.fld 0 8) = some x) (hl : thas (t.part r.part).coll.ledgers (d.fld 0 8) = false)
  (h0 : d.at 20 32 ≠ 0) (h1 : d.at 20 32 ≤ 65536)
include hx hl h0 h1

/-- A ledger of a live plan without one and of a size in range is read. -/
theorem ledgerGuard_of_good : ¬ ((t.livePlan r.part (d.fld 0 8)).isNone || thas (t.part r.part).coll.ledgers (d.fld 0 8) ||
    decide (d.at 20 32 = 0) || decide (65536 < d.at 20 32)) = true := by
  simp only [hx, hl, h0, Option.isNone_some, Bool.or_false, decide_false, Bool.false_or, decide_eq_true_eq]
  omega

theorem runLedgerRegister_of_unread (hb : t.descRead r.part (d.at 24 64) (32 * d.at 20 32) = (none, u)) : t.runLedgerRegister r d = u.noop r := by
  simp only [State.runLedgerRegister, if_neg (ledgerGuard_of_good hx hl h0 h1), hb]

theorem runLedgerRegister_of_read (hb : t.descRead r.part (d.at 24 64) (32 * d.at 20 32) = (some bs, u)) : t.runLedgerRegister r d =
    (let es := (List.range (d.at 20 32)).map (fun i => leAt bs (32 * i) 32)
     if es.all (fun w => u.ledgerEntryOk r.part w) then
       (u.modColl r.part (fun c => { c with ledgers := tput c.ledgers (d.fld 0 8) ⟨d.at 24 64, es, [], 0, none⟩ })).done r else u.noop r) := by
  simp only [State.runLedgerRegister, if_neg (ledgerGuard_of_good hx hl h0 h1), hb]

end

theorem runLedgerRelease_of_dead (h : ∀ l, tget? (t.part r.part).coll.ledgers (d.fld 0 8) = some l → l.releasing.isSome = true) :
    t.runLedgerRelease r d = t.nullDesc r collNull (d.fld 0 8) := by
  unfold State.runLedgerRelease
  dsimp only
  split
  · rfl
  next x hx => exact if_pos (h x hx)

theorem runLedgerRelease_of_live {l : ActLedger} (h : tget? (t.part r.part).coll.ledgers (d.fld 0 8) = some l) (hr : l.releasing = none) :
    t.runLedgerRelease r d = (t.modColl r.part (fun c => { c with ledgers := tput c.ledgers (d.fld 0 8) { l with releasing := some r } })).ledgerTryRelease
      r.part (d.fld 0 8) := by
  simp only [State.runLedgerRelease, h, hr, Option.isSome_none, Bool.false_eq_true, if_false]

/-! ## Permutes (R439) -/

theorem exec_permute_of_room {s : State} (h : s.permRoom d.part.val = true) :
    exec (.permute d) s = .next (withDesc 0x48 d s State.runPermute).closed :=
  next_closed (if_pos h)

theorem exec_permute_of_no_room {s : State} (h : s.permRoom d.part.val = false) : exec (.permute d) s = .next s.closed :=
  next_closed (if_neg (by simp [h]))

theorem runPermute_of_unread (hb : t.descRead r.part (d.at 16 64) 128 = (none, u)) : t.runPermute r d = u.noop r := by
  simp only [State.runPermute, hb]

theorem runPermute_of_no_group (hb : t.descRead r.part (d.at 16 64) 128 = (some bs, u)) (hg : u.group? r.part (fldN (leNat bs) 8 4) = none) :
    t.runPermute r d = u.noop r := by
  simp only [State.runPermute, hb, hg]

/-- Two changes of a partition's collectives that agree on it are one. -/
theorem modColl_congr {s : State} {p : Nat} {f g : PColl → PColl} (h : f (s.part p).coll = g (s.part p).coll) : s.modColl p f = s.modColl p g := by
  unfold State.modColl State.modPart
  dsimp only
  rw [h]

/-- A permute begins with its digest sent to every member where no member's digest is here yet. -/
theorem permBegin_of_no_early {w : State} {p : Nat} {g : CollGroup} {x : Permute} (he : (w.part p).coll.permEarly = []) : w.permBegin p g x =
    (g.peers.foldl (fun q k => q.permCtl p x k pcDigest 0 (leBytes 64 x.mapDig)) (w.modColl p (fun c => { c with permute := some x }))).permAgreed p := by
  have hmod : w.modColl p (fun c => { c with permute := some x, permEarly := c.permEarly.filter (fun e => e.1 / 64 != x.group) }) =
      w.modColl p (fun c => { c with permute := some x }) := modColl_congr (by
    rw [he, List.filter_nil])
  unfold State.permBegin
  dsimp only
  rw [hmod, he, List.filter_nil, List.foldl_nil]

section
variable {g : CollGroup} {ob nb : List Byte} {v w : State} (hb : t.descRead r.part (d.at 16 64) 128 = (some bs, u))
  (hg : u.group? r.part (fldN (leNat bs) 8 4) = some g)
  (ho : u.descRead r.part (fldN (leNat bs) 320 64) (16 * permCount (fldN (leNat bs) 272 6)) = (some ob, v))
  (hn : v.descRead r.part (fldN (leNat bs) 384 64) (16 * permCount (fldN (leNat bs) 278 6)) = (some nb, w))
include hb hg ho hn

theorem runPermute_eq : t.runPermute r d = (let x := permuteOf r (d.at 16 64) (leNat bs) g.self ob nb
    if w.permuteOk r.part (fldN (leNat bs) 0 8) (fldN (leNat bs) 128 64) g x = true then w.permBegin r.part g x else w.noop r) := by
  simp only [State.runPermute, hb, hg, ho, hn]

end

/-! ## The chaff ledger and filler lists (R438, R445, R450) -/

theorem runChaffSet_of_in_range (h : d.at 16 32 = 0 ∨ 64 ≤ d.at 16 32 ∧ d.at 16 32 ≤ 65536) : t.runChaffSet r d =
    (t.modColl r.part (fun c => { c with chaffN := d.at 16 32, chaffPva := d.at 24 64 })).done { r with clamped := r.clamped || false } := by
  have hn : (if d.at 16 32 = 0 then 0 else clampN (d.at 16 32) 64 65536) = d.at 16 32 := by
    unfold clampN
    split
    · omega
    · rw [if_neg (by omega), if_neg (by omega)]
  simp only [State.runChaffSet, hn, if_true, bne_self_eq_false]

theorem runFillerPost_of_refused (h : t.mayFill r.part (d.fld 0 6) = false) : t.runFillerPost r d = t.noop r := if_pos (by simp [h])

theorem runFillerPost_of_read (h : t.mayFill r.part (d.fld 0 6) = true) (hb : t.descRead r.part (d.at 24 64) (32 * d.fld 16 16) = (some bs, u)) :
    t.runFillerPost r d = if d.fld 16 16 = 0 then u.done r else u.modColl r.part (fun c => { c with fillers := c.fillers ++
      [⟨r, d.fld 0 6, d.at 24 64, d.at 32 64, d.at 40 64, (List.range (d.fld 16 16)).map (fun i => (i, leAt bs (32 * i) 32)), [], none⟩] }) := by
  simp only [State.runFillerPost, h, Bool.not_true, Bool.false_eq_true, if_false, hb]

/-- The filler list a withdrawal names. -/
def namedList (host pva : Nat) (l : FillerList) : Bool := l.host == host && l.pva == pva && l.withdrawn.isNone

theorem runFillerWithdraw_of_none (h : (t.part r.part).coll.fillers.find? (namedList (d.fld 0 6) (d.at 24 64)) = none) :
    t.runFillerWithdraw r d = t.nullDesc r collNull (d.at 24 64) := by
  unfold namedList at h
  simp only [State.runFillerWithdraw, h]

theorem runFillerWithdraw_of_list {l : FillerList} (h : (t.part r.part).coll.fillers.find? (namedList (d.fld 0 6) (d.at 24 64)) = some l) :
    t.runFillerWithdraw r d = (let u := l.grains.foldl (fun q e => q.skipStatus r.part (l.stat + 16 * e.1) (fldN e.2 48 16)) t
      (u.modColl r.part (fun c => { c with fillers := c.fillers.map (fun y =>
        if y.desc = l.desc then { y with grains := [], withdrawn := some r } else y) })).fillersLook r.part) := by
  unfold namedList at h
  simp only [State.runFillerWithdraw, h]

end

/-- Settles O52: each descriptor's lemma above, by what its image and its number meet. -/
theorem collectiveRegistrations : Obligations.CollectiveRegistrations := by
  refine ⟨?_, ?_, fun s p g x r h hr => groupTryRelease_of_releasing h hr, ?_, ?_, ?_, ?_, ?_, ?_, ?_, ?_, ?_, ?_, ?_, ?_, ?_⟩
  case refine_1 =>
    intro s d r t hs g
    exact ⟨fun h hh => closed_descriptor hs (runGroupRegister_of_used h) hh, fun u h hb hh => closed_descriptor hs (runGroupRegister_of_unread h hb) hh,
      fun bs u h hb => ⟨fun hok hh => closed_descriptor hs (runGroupRegister_of_bad h hb hok) hh,
        fun hok hc hh => closed_descriptor hs (runGroupRegister_of_good h hb hok hc) hh⟩⟩
  case refine_2 =>
    intro s d r t hs g
    exact ⟨fun h hh => closed_descriptor hs (runGroupRelease_of_dead h) hh, fun x h hr hh => closed_descriptor hs (runGroupRelease_of_live h hr) hh⟩
  case refine_3 =>
    intro s d r t hs n
    exact ⟨fun h hh => closed_descriptor hs (runSheafRegister_of_used h) hh, fun u h hb hh => closed_descriptor hs (runSheafRegister_of_unread h hb) hh,
      fun bs u h hb => ⟨fun hok hh => closed_descriptor hs (runSheafRegister_of_bad h hb hok) hh,
        fun hok ha hd hh => closed_descriptor hs (runSheafRegister_of_good h hb hok ha hd) hh⟩⟩
  case refine_4 =>
    intro s d r t hs n
    exact ⟨fun h hh => closed_descriptor hs (runSheafRelease_of_dead h) hh, fun x h hr hh => closed_descriptor hs (runSheafRelease_of_live h hr) hh⟩
  case refine_5 =>
    intro s p n x r h hr used
    have hused := sheafUsed_iff s p n x
    exact ⟨fun hu => (sheafTryRelease_of_releasing h hr).trans (if_pos (hused.mpr hu)),
      fun hu => (sheafTryRelease_of_releasing h hr).trans (if_neg (mt hused.mp hu))⟩
  case refine_6 => exact fun s p plan r => ⟨fun l h hr => listTryRelease_of_releasing h hr, fun l h hr => ledgerTryRelease_of_releasing h hr⟩
  case refine_7 =>
    intro s d r t hs plan n
    exact ⟨fun h hh => closed_descriptor hs (runCollListRegister_of_refused h) hh,
      fun x u hx hl h0 h1 hb hh => closed_descriptor hs (runCollListRegister_of_unread hx hl h0 h1 hb) hh,
      fun x bs u hx hl h0 h1 hb hh => closed_descriptor hs (runCollListRegister_of_read hx hl h0 h1 hb) hh⟩
  case refine_8 =>
    intro s d r t hs plan
    exact ⟨fun h hh => closed_descriptor hs (runCollListRelease_of_dead h) hh, fun l h hr hh => closed_descriptor hs (runCollListRelease_of_live h hr) hh⟩
  case refine_9 =>
    intro s d r t hs plan n
    exact ⟨fun h hh => closed_descriptor hs (runLedgerRegister_of_refused h) hh,
      fun x u hx hl h0 h1 hb hh => closed_descriptor hs (runLedgerRegister_of_unread hx hl h0 h1 hb) hh,
      fun x bs u hx hl h0 h1 hb hh => closed_descriptor hs (runLedgerRegister_of_read hx hl h0 h1 hb) hh⟩
  case refine_10 =>
    intro s d r t hs plan
    exact ⟨fun h hh => closed_descriptor hs (runLedgerRelease_of_dead h) hh, fun l h hr hh => closed_descriptor hs (runLedgerRelease_of_live h hr) hh⟩
  case refine_11 =>
    intro s d r t hroom hs
    have hex := exec_permute_of_room hroom
    refine ⟨fun u hb hh => hex.trans (closed_descriptor hs (runPermute_of_unread hb) hh), fun bs u hb => ?_⟩
    refine ⟨fun hg hh => hex.trans (closed_descriptor hs (runPermute_of_no_group hb hg) hh), fun g ob nb v w hg ho hn => ⟨fun hok hh => ?_, fun hok he hh => ?_⟩⟩
    · exact hex.trans (closed_descriptor hs ((runPermute_eq hb hg ho hn).trans (if_neg (Bool.eq_false_iff.mp hok))) hh)
    · exact hex.trans (closed_descriptor hs ((runPermute_eq hb hg ho hn).trans ((if_pos hok).trans (permBegin_of_no_early he))) hh)
  case refine_12 => exact fun s d h => exec_permute_of_no_room h
  case refine_13 => exact fun s d r t hs h hh => closed_descriptor hs (runChaffSet_of_in_range h) hh
  case refine_14 =>
    intro s d r t hs n
    exact ⟨fun h hh => closed_descriptor hs (runFillerPost_of_refused h) hh, fun bs u h hb hh => closed_descriptor hs (runFillerPost_of_read h hb) hh⟩
  case refine_15 =>
    intro s d r t hs hit
    exact ⟨fun h hh => closed_descriptor hs (runFillerWithdraw_of_none h) hh, fun l h hh => closed_descriptor hs (runFillerWithdraw_of_list h) hh⟩

end Sys2Proof.Machine.RegistrationLaws
end

section
/-! PROOF. List entries, sheaves, rings and the messages of collectives (12_collectives_and_steps.md): O53. -/
namespace Sys2Proof.Machine.TrafficLaws
open Sys2Proof Sys2Proof.Machine.Laws Sys2Proof.Machine.ClockLaws Sys2Proof.Machine.BoundaryLaws Sys2Proof.Machine.StepLaws
  Sys2Proof.Machine.DispatchLaws Sys2Proof.Machine.PortLaws Sys2Proof.Machine.ChannelLaws

/-! ## List entries (R417, R418) -/

section
variable {s : State} {p : PartId} {idx : Fin 1024}

theorem exec_collectiveEntryBegin_of_none (h : s.entryToBegin p.val idx.val = none) : exec (.collectiveEntryBegin p idx) s = .next s.flush := by
  simp only [exec, execCollectiveEntryBegin, h, finish]

theorem exec_collectiveEntryBegin_of_step {r : StepRun} (h : s.entryToBegin p.val idx.val = some r) :
    exec (.collectiveEntryBegin p idx) s = .next (s.beginEntry p.val r.id idx.val).closed := by
  simp only [exec, execCollectiveEntryBegin, h]
  rfl

theorem exec_collectiveEntryDeadline_of_none (h : s.entryOverdue p.val idx.val = none) :
    exec (.collectiveEntryDeadline p idx) s = .next s.flush := by
  simp only [exec, execCollectiveEntryDeadline, h, finish]

theorem exec_collectiveEntryDeadline_of_step {r : StepRun} (h : s.entryOverdue p.val idx.val = some r) :
    exec (.collectiveEntryDeadline p idx) s = .next (s.failEntry p.val r.id idx.val 1 0).closed := by
  simp only [exec, execCollectiveEntryDeadline, h]
  rfl

end

section
variable {s : State} {p run idx e : Nat} {r : StepRun} (h : s.entry? p run idx = some (r, e))
include h

/-- An entry begun or failed, before its tick or with its wait unmet does not begin. -/
theorem beginEntry_of_waiting (hw : ((s.entryRun p run idx).begun || (s.entryRun p run idx).failed || decide (s.tick < r.first + eStart e) ||
    !(!bitN e 102 || decide (fldN e 128 32 ≤ s.signal p (fldN e 96 6)))) = true) : s.beginEntry p run idx = s := by
  unfold State.beginEntry
  rw [h]
  exact if_pos hw

theorem beginEntry_of_early (he : s.tick < r.first + eStart e) : s.beginEntry p run idx = s :=
  beginEntry_of_waiting h (by rw [decide_eq_true he]; simp)

theorem beginEntry_of_unmet (hb : bitN e 102 = true) (hs : s.signal p (fldN e 96 6) < fldN e 128 32) : s.beginEntry p run idx = s :=
  beginEntry_of_waiting h (by rw [hb, decide_eq_false (Nat.not_le.mpr hs)]; simp)

theorem beginEntry_of_due {x : CollGroup} (hb : (s.entryRun p run idx).begun = false) (hf : (s.entryRun p run idx).failed = false)
    (ht : r.first + eStart e ≤ s.tick) (hw : bitN e 102 = false) (hx : s.group? p (eGroup e) = some x) : s.beginEntry p run idx =
      (let stands := eOp e = 0 ∧ s.recordStands p (eSheaf e) r.stepNo = true
       let t := s.putEntryRun p { s.entryRun p run idx with begun := true, need := if stands then [] else (s.entryRun p run idx).need }
       (if eOp e = 0 then t.sheafStart p idx r e else t.entryStart p idx r e x).entryLook p run idx) := by
  have hguard : ¬ ((s.entryRun p run idx).begun || (s.entryRun p run idx).failed || decide (s.tick < r.first + eStart e) ||
      !(!bitN e 102 || decide (fldN e 128 32 ≤ s.signal p (fldN e 96 6)))) = true := by
    rw [hb, hf, hw, decide_eq_false (by omega)]
    simp
  simp only [State.beginEntry, h, if_neg hguard, hx, Bool.and_eq_true, decide_eq_true_eq]

theorem failEntry_of_done (hd : eOp e = 0 ∨ (s.entryRun p run idx).failed = true ∨ (s.entryRun p run idx).complete = true) (cause rank : Nat) :
    s.failEntry p run idx cause rank = s := by
  unfold State.failEntry
  rw [h]
  exact if_pos (by simpa only [Bool.or_eq_true, decide_eq_true_eq, or_assoc] using hd)

theorem failEntry_of_open (ho : eOp e ≠ 0) (hf : (s.entryRun p run idx).failed = false) (hc : (s.entryRun p run idx).complete = false)
    (cause rank : Nat) : s.failEntry p run idx cause rank =
      (let x := s.entryRun p run idx
       let t := s.putEntryRun p { x with failed := true, posted := true, sentDone := true }
       let t := if x.posted = false ∧ bitN e 109 = true then t.postSig p (fldN e 103 6) else t
       let t := if x.sentDone = false ∧ bitN e 116 = true then t.postSig p (fldN e 110 6) else t
       (t.collFault p r.plan idx (eOp e) (eGroup e) cause rank 0).failRun p run 6) := by
  have hguard : ¬ (decide (eOp e = 0) || (s.entryRun p run idx).failed || (s.entryRun p run idx).complete) = true := by
    rw [hf, hc, decide_eq_false ho]
    simp
  simp only [State.failEntry, h, if_neg hguard, Bool.and_eq_true, Bool.not_eq_true']

end

/-! ## Sheaves (R427 to R434) -/

section
variable {s : State} {p : PartId} {n : Fin 1024}

theorem exec_sheafClose_of_none (h : s.sheafOpen? p.val n.val = none) : exec (.sheafClose p n) s = .next s.flush := by
  simp only [exec, execSheafClose, h, finish]

theorem exec_sheafClose_of_open {r : StepRun} {e : Nat} (h : s.sheafOpen? p.val n.val = some (r, e)) : exec (.sheafClose p n) s =
    .next (if eDl e ≠ 0xFFFF ∧ r.first + eDl e ≤ s.tick then (s.closeSheaf p.val n.val r.stepNo (closeFlags e)).closed else s.flush) := by
  simp only [exec, execSheafClose, h, Bool.and_eq_true, bne_iff_ne, decide_eq_true_eq]
  split <;> rfl

/-- Without a close under way a sheaf awaits no map, and has no record to decide or to merge. -/
theorem sheafFinal_of_no_close {k m : Nat} (h : ∀ y, s.sheaf? k m = some y → y.close = none) : s.sheafFinal k m = s := by
  unfold State.sheafFinal
  cases hs : s.sheaf? k m with
  | none => rfl
  | some y => simp only [h y hs]

theorem sheafMerge_of_no_close {k m : Nat} (h : ∀ y, s.sheaf? k m = some y → y.close = none) : s.sheafMerge k m = s := by
  unfold State.sheafMerge
  cases hs : s.sheaf? k m with
  | none => rfl
  | some y => simp only [h y hs]

theorem exec_mapsAwaitedTimeout_of_no_close (h : ∀ y, s.sheaf? p.val n.val = some y → y.close = none) :
    exec (.mapsAwaitedTimeout p n) s = .next s.flush := by
  simp only [exec, execMapsAwaitedTimeout]
  cases hs : s.sheaf? p.val n.val with
  | none => rfl
  | some y => simp only [h y hs, finish]

section
variable {y : Sheaf} {c : SheafClose} {x : CollGroup} (hs : s.sheaf? p.val n.val = some y) (hc : y.close = some c)
  (hx : s.group? p.val y.group = some x)
include hs hc hx

theorem exec_mapsAwaitedTimeout_of_told (h : c.final.isSome = true ∨ c.toldMaps = true ∨ s.mapsMissing p.val y x c = []) :
    exec (.mapsAwaitedTimeout p n) s = .next s.flush := by
  have hguard : (c.final.isSome || c.toldMaps || decide (s.mapsMissing p.val y x c = [])) = true := by
    simpa only [Bool.or_eq_true, decide_eq_true_eq, or_assoc] using h
  simp only [exec, execMapsAwaitedTimeout, hs, hc, hx, if_pos hguard, finish]

theorem exec_mapsAwaitedTimeout_of_missing (hf : c.final = none) (ht : c.toldMaps = false) (hm : s.mapsMissing p.val y x c ≠ []) :
    exec (.mapsAwaitedTimeout p n) s =
      .next ((s.putSheaf p.val n.val { y with close := some { c with toldMaps := true } }).sheafEvent p.val n.val x.ownShard c.step 3
        (nthD c.own 0 0) y.expMask 0).flush := by
  have hguard : ¬ (c.final.isSome || c.toldMaps || decide (s.mapsMissing p.val y x c = [])) = true := by simp [hf, ht, hm]
  simp only [exec, execMapsAwaitedTimeout, hs, hc, hx, if_neg hguard, finish]

theorem sheafFinal_of_waiting (h : c.final.isSome = true ∨ s.mapsMissing p.val y x c ≠ []) : s.sheafFinal p.val n.val = s := by
  have hguard : (c.final.isSome || s.mapsMissing p.val y x c != []) = true := by simpa only [Bool.or_eq_true, bne_iff_ne] using h
  simp only [State.sheafFinal, hs, hc, hx, if_pos hguard]

variable (hf : c.final = none)
include hf

theorem sheafMerge_of_not_final : s.sheafMerge p.val n.val = s := by simp only [State.sheafMerge, hs, hc, hx, hf]

variable (hm : s.mapsMissing p.val y x c = [])
include hm

theorem sheafFinal_of_bank_held (hb : thas y.banks (c.step % 2) = true) : s.sheafFinal p.val n.val =
    if c.toldBank then s else (s.putSheaf p.val n.val { y with close := some { c with toldBank := true } }).sheafEvent p.val n.val
      x.ownShard c.step 4 (nthD c.own 0 0) y.expMask 0 := by
  have hguard : ¬ (c.final.isSome || s.mapsMissing p.val y x c != []) = true := by simp [hf, hm]
  simp only [State.sheafFinal, hs, hc, hx, if_neg hguard, hb, if_true]

theorem sheafFinal_of_bank_free (hb : thas y.banks (c.step % 2) = false) (hl : (s.activeStep p.val c.step).isSome = true) :
    s.sheafFinal p.val n.val = s.decideClose p.val n.val { y with banks := tput y.banks (c.step % 2) c.step } x c (s.agreedMaps p.val y x c) := by
  have hguard : ¬ (c.final.isSome || s.mapsMissing p.val y x c != []) = true := by simp [hf, hm]
  simp only [State.sheafFinal, hs, hc, hx, if_neg hguard, hb, Bool.false_eq_true, if_false, hl, if_true]
  rfl

end

end

/-! ## What a close decides of a contribution (R432) -/

section
variable {final : List Nat} {n win step src : Nat}

theorem decideOf_of_on_time (h : step = n) (hb : bitN (nthD final 0 0) src = true) : decideOf final n win step src = 1 :=
  if_pos (by simp [h, hb])

theorem decideOf_of_gleaned (h : step < n) (h8 : n - step ≤ 8) (hb : bitN (nthD final (n - step) 0) src = true) :
    decideOf final n win step src = 2 :=
  (if_neg (by simp [Nat.ne_of_lt h])).trans (if_pos (by simp [h, h8, hb]))

theorem decideOf_of_neither (h1 : ¬ (step = n ∧ bitN (nthD final 0 0) src = true))
    (h2 : ¬ (step < n ∧ n - step ≤ 8 ∧ bitN (nthD final (n - step) 0) src = true)) :
    decideOf final n win step src = if step + win ≤ n then 3 else 0 := by
  refine (if_neg (by simpa using h1)).trans (if_neg fun h => h2 ?_)
  simp only [Bool.and_eq_true, decide_eq_true_eq] at h
  exact ⟨h.1.1, h.2, h.1.2⟩

end

/-! ## Received messages (R414) -/

/-- A message placed: its buffer kept, posted again, or dropped with it. -/
def afterPlace (p g cid : Nat) (b : GnxBuf) (a : Bool × Bool × State) : State :=
  if a.1 = false then a.2.2.collDrop p g cid b else if a.2.1 then a.2.2 else a.2.2.collRepost p g cid b

section
variable {s t : State} {cid : Nat} {kinds : List Nat} {run : Nat → Nat → Nat → GnxBuf → CollHdr → List Byte → State → Bool × Bool × State}

theorem collTake_of_no_message (h : ∀ c, tget? s.net.chans cid = some c → c.taken = []) : s.collTake cid kinds run = s := by
  unfold State.collTake
  cases hc : tget? s.net.chans cid with
  | none => rfl
  | some c => simp only [h c hc]

/-- What R414 asks of a message: its version, its group, its sender and its length. -/
def goodMsg (x : CollGroup) (handle g : Nat) (bs : List Byte) : Prop :=
  (collHdr bs).mver = 0x10 ∧ (collHdr bs).group = g ∧ x.rankOf handle = some (collHdr bs).src ∧
    (if (collHdr bs).kind = 0x16 then 128 else 64) + (collHdr bs).len ≤ bs.length

variable {c : Chan} {b b' : GnxBuf} {l : List GnxBuf} {k : Nat} {bs : List Byte} {x : CollGroup}
  (hc : tget? s.net.chans cid = some c) (hb : c.taken = b :: l) (ho : b.owner = .engine 2 k) (hm : s.takeMsg cid = (some (b', bs), t))
  (hx : t.group? (k / 16) (k % 16) = some x)

include hx in
theorem collDrop_of_group : t.collDrop (k / 16) (k % 16) cid b' =
    (t.inc F.pCollBad 1 (k / 16)).postBuf cid b'.tag b'.pva x.bufLen b'.owner := by
  have hx' : (t.inc F.pCollBad 1 (k / 16)).group? (k / 16) (k % 16) = some x := hx
  simp only [State.collDrop, State.collRepost, hx']

include hc hb ho hm

theorem collTake_of_other_kind (hk : kinds.contains (collHdr bs).kind = false) (h1 : 0x11 ≤ (collHdr bs).kind) (h2 : (collHdr bs).kind ≤ 0x17) :
    s.collTake cid kinds run = s := by
  have hguard : (!kinds.contains (collHdr bs).kind && decide (0x11 ≤ (collHdr bs).kind) && decide ((collHdr bs).kind ≤ 0x17)) = true := by
    rw [hk, decide_eq_true h1, decide_eq_true h2]
    rfl
  simp only [State.collTake, hc, hb, ho, hm, if_pos hguard]

include hx

theorem collTake_of_own_kind (hk : kinds.contains (collHdr bs).kind = true ∨ (collHdr bs).kind < 0x11 ∨ 0x17 < (collHdr bs).kind) :
    s.collTake cid kinds run =
      if ((collHdr bs).mver != 0x10 || !kinds.contains (collHdr bs).kind || (collHdr bs).group != k % 16 ||
        x.rankOf (c.handle cid) != some (collHdr bs).src || decide (bs.length < (if (collHdr bs).kind = 0x16 then 128 else 64) + (collHdr bs).len)) = true
      then t.collDrop (k / 16) (k % 16) cid b'
      else afterPlace (k / 16) (k % 16) cid b' (run (k / 16) (k % 16) (collHdr bs).src b' (collHdr bs) bs t) := by
  have hguard : ¬ (!kinds.contains (collHdr bs).kind && decide (0x11 ≤ (collHdr bs).kind) && decide ((collHdr bs).kind ≤ 0x17)) = true := by
    simp only [Bool.and_eq_true, Bool.not_eq_true', decide_eq_true_eq]
    rcases hk with hk | hk | hk
    · rw [hk]
      simp
    · omega
    · omega
  simp only [State.collTake, hc, hb, ho, hm, if_neg hguard, hx]
  generalize run (k / 16) (k % 16) (collHdr bs).src b' (collHdr bs) bs t = a
  obtain ⟨ok, keep, u⟩ := a
  cases ok <;> cases keep <;> rfl

theorem collTake_of_undefined_kind (hk : kinds.contains (collHdr bs).kind = false) (h : (collHdr bs).kind < 0x11 ∨ 0x17 < (collHdr bs).kind) :
    s.collTake cid kinds run = t.collDrop (k / 16) (k % 16) cid b' :=
  (collTake_of_own_kind hc hb ho hm hx (.inr h)).trans (if_pos (by rw [hk]; simp))

theorem collTake_of_bad (hk : kinds.contains (collHdr bs).kind = true) (hg : ¬ goodMsg x (c.handle cid) (k % 16) bs) :
    s.collTake cid kinds run = t.collDrop (k / 16) (k % 16) cid b' := by
  refine (collTake_of_own_kind hc hb ho hm hx (.inl hk)).trans (if_pos ?_)
  by_contra hno
  refine hg ?_
  simpa only [goodMsg, hk, Bool.not_true, Bool.or_eq_true, Bool.or_false, not_or, bne_iff_ne, ne_eq, not_not, decide_eq_true_eq, Nat.not_lt, and_assoc]
    using hno

theorem collTake_of_good (hk : kinds.contains (collHdr bs).kind = true) (hg : goodMsg x (c.handle cid) (k % 16) bs) :
    s.collTake cid kinds run = afterPlace (k / 16) (k % 16) cid b' (run (k / 16) (k % 16) (collHdr bs).src b' (collHdr bs) bs t) := by
  obtain ⟨h1, h2, h3, h4⟩ := hg
  refine (collTake_of_own_kind hc hb ho hm hx (.inl hk)).trans (if_neg ?_)
  rw [h1, h2, h3, hk, decide_eq_false (Nat.not_lt.mpr h4)]
  simp

end

/-- A message whose placing never keeps its buffer. -/
theorem afterPlace_of_pair (p g cid : Nat) (b : GnxBuf) (a : Bool × State) :
    afterPlace p g cid b (a.1, false, a.2) = if a.1 then a.2.collRepost p g cid b else a.2.collDrop p g cid b := by
  obtain ⟨ok, u⟩ := a
  cases ok <;> rfl

theorem afterPlace_closed (p g cid : Nat) (b : GnxBuf) (a : Bool × Bool × State) :
    (.next (afterPlace p g cid b a).closed : Host.Outcome State Fault Refusal) =
      .next (if a.1 = false then (a.2.2.collDrop p g cid b).closed else if a.2.1 then a.2.2.closed else (a.2.2.collRepost p g cid b).closed) := by
  unfold afterPlace
  split
  · rfl
  · split <;> rfl

/-- Whether a message was placed, for one that never keeps its buffer. -/
def placeOf (f : State → Nat → Nat → Nat → CollHdr → List Byte → Bool × State) (p g src : Nat) (_ : GnxBuf) (h : CollHdr) (bs : List Byte)
    (s : State) : Bool × Bool × State :=
  let (ok, s) := f s p g src h bs
  (ok, false, s)

/-- A good message that never keeps its buffer: placed and its buffer posted again, or discarded. -/
theorem collTake_placeOf {s t : State} {cid k : Nat} {kinds : List Nat} {c : Chan} {b b' : GnxBuf} {l : List GnxBuf} {bs : List Byte} {x : CollGroup}
    (f : State → Nat → Nat → Nat → CollHdr → List Byte → Bool × State) (hc : tget? s.net.chans cid = some c) (hb : c.taken = b :: l)
    (ho : b.owner = .engine 2 k) (hm : s.takeMsg cid = (some (b', bs), t)) (hx : t.group? (k / 16) (k % 16) = some x)
    (hk : kinds.contains (collHdr bs).kind = true) (hg : goodMsg x (c.handle cid) (k % 16) bs) : s.collTake cid kinds (placeOf f) =
      (let a := f t (k / 16) (k % 16) (collHdr bs).src (collHdr bs) bs
       if a.1 then a.2.collRepost (k / 16) (k % 16) cid b' else a.2.collDrop (k / 16) (k % 16) cid b') :=
  (collTake_of_good hc hb ho hm hx hk hg).trans (afterPlace_of_pair _ _ _ _ (f t (k / 16) (k % 16) (collHdr bs).src (collHdr bs) bs))

/-! ## Peer-to-peer rings (R421, R508) -/

section
variable {s : State} {p g k : Nat}

theorem takeSlot_of_no_group (h : s.group? p g = none) : s.takeSlot p g k = s := by simp only [State.takeSlot, h]

theorem p2pStall_of_no_group (h : s.group? p g = none) : s.p2pStall p g k = s := by simp only [State.p2pStall, h]

theorem ringLook_of_no_group (h : s.group? p g = none) : s.ringLook p g k = s := by simp only [State.ringLook, h]

variable {x : CollGroup} {m : CollMember} (hx : s.group? p g = some x) (hm : x.members[k]? = some m)
include hx hm

theorem takeSlot_of_no_next {o : ReadOut × State} (hr : x.ringSlots ≠ 0) (hread : s.readPva (s.engCtx p engColl)
      (x.ring + 512 + k * x.ringSlots * x.slotLen + m.taken % x.ringSlots * x.slotLen) x.slotLen = o)
    (ho : o.1.fault = true ∨ (collHdr o.1.bytes).seq ≠ (m.taken + 1) % 2 ^ 32) : s.takeSlot p g k = o.2 := by
  have hguard : (o.1.fault || (collHdr o.1.bytes).seq != (m.taken + 1) % 2 ^ 32) = true := by simpa only [Bool.or_eq_true, bne_iff_ne] using ho
  simp only [State.takeSlot, hx, hm, if_neg hr, hread, if_pos hguard]

theorem p2pStall_of_none (h : m.flight = [] ∨ m.fallback = true ∨ s.tick < m.moved + s.rd F.hpP2pTmo m.port) : s.p2pStall p g k = s := by
  have hguard : (decide (m.flight = []) || m.fallback || decide (s.tick < m.moved + s.rd F.hpP2pTmo m.port)) = true := by
    simpa only [Bool.or_eq_true, decide_eq_true_eq, or_assoc] using h
  simp only [State.p2pStall, hx, hm, if_pos hguard]

end

/-- The commands that take a collective message, each with the KIND it takes. -/
def takers (cid : Fin 16384) : List (Nat × Instr) :=
  [(0x11, .contributionRx cid), (0x12, .gatherPieceRx cid), (0x13, .broadcastPieceRx cid), (0x14, .allToAllBlockRx cid),
    (0x15, .presenceMapRx cid), (0x16, .permuteLeafRx cid), (0x17, .permuteControlRx cid)]

theorem takers_kind {cid : Fin 16384} {e : Nat × Instr} (he : e ∈ takers cid) : 0x11 ≤ e.1 ∧ e.1 ≤ 0x17 := by
  simp only [takers, List.mem_cons, List.not_mem_nil, or_false] at he
  rcases he with rfl | rfl | rfl | rfl | rfl | rfl | rfl <;> simp

/-- Each of them takes a message of its KIND alone. -/
theorem exec_taker (s : State) {cid : Fin 16384} {e : Nat × Instr} (he : e ∈ takers cid) :
    ∃ run, exec e.2 s = .next (s.collTake cid.val [e.1] run).closed := by
  simp only [takers, List.mem_cons, List.not_mem_nil, or_false] at he
  rcases he with rfl | rfl | rfl | rfl | rfl | rfl | rfl <;> exact ⟨_, rfl⟩

/-- Settles O53: entries, sheaves, contributions, messages and rings, each by its lemma above. -/
theorem collectiveTraffic : Obligations.CollectiveTraffic := by
  refine ⟨fun p idx s => ⟨exec_collectiveEntryBegin_of_none, fun r h => exec_collectiveEntryBegin_of_step h,
      exec_collectiveEntryDeadline_of_none, fun r h => exec_collectiveEntryDeadline_of_step h⟩,
    fun s p run idx e r h => ⟨beginEntry_of_early h, beginEntry_of_unmet h, fun x hb hf ht hw hx => beginEntry_of_due h hb hf ht hw hx⟩,
    fun s p run idx cause rank e r h => ⟨fun hd => failEntry_of_done h hd cause rank, fun ho hf hc => failEntry_of_open h ho hf hc cause rank⟩,
    ?_, fun p n s => rfl, fun final n win step src => ⟨decideOf_of_on_time, decideOf_of_gleaned, decideOf_of_neither⟩, ?_, ?_, ?_⟩
  case refine_1 =>
    intro p n s
    refine ⟨exec_sheafClose_of_none, fun r e h => exec_sheafClose_of_open h, fun h => ⟨exec_mapsAwaitedTimeout_of_no_close h,
      next_closed (sheafFinal_of_no_close h), next_closed (sheafMerge_of_no_close h)⟩, fun y c x hs hc hx => ?_⟩
    exact ⟨exec_mapsAwaitedTimeout_of_told hs hc hx, exec_mapsAwaitedTimeout_of_missing hs hc hx, fun h => next_closed (sheafFinal_of_waiting hs hc hx h),
      fun hf hm hb => next_closed (sheafFinal_of_bank_held hs hc hx hf hm hb),
      fun hf hm hb hl => next_closed (sheafFinal_of_bank_free hs hc hx hf hm hb hl), fun hf => next_closed (sheafMerge_of_not_final hs hc hx hf)⟩
  case refine_2 =>
    intro cid s h
    have hnone : ∀ kinds run, s.collTake cid.val kinds run = s := fun _ _ => collTake_of_no_message h
    exact ⟨next_closed (hnone _ _), next_closed (hnone _ _), next_closed (hnone _ _), next_closed (hnone _ _), next_closed (hnone _ _),
      next_closed (hnone _ _), next_closed (hnone _ _)⟩
  case refine_3 =>
    intro cid s t c b b' l k bs x hc hb ho hm hx h p g good place
    have hown : ∀ {kind : Nat}, h.kind = kind → List.contains [kind] (collHdr bs).kind = true := fun hk => by simpa using hk
    have hother : ∀ {kind : Nat}, h.kind ≠ kind → List.contains [kind] (collHdr bs).kind = false := fun hk => by simpa using hk
    refine ⟨collDrop_of_group hx, fun e he => ?_, fun hg hk => ?_, fun hg hk => ?_, fun hg hk => ?_, fun hg hk => ?_, fun hg hk => ?_, fun hg hk => ?_,
      fun hg hk => ?_⟩
    · obtain ⟨run, hrun⟩ := exec_taker s he
      refine ⟨fun hk h1 h2 => ?_, fun hk => ?_, fun hg hk => ?_⟩
      · exact hrun.trans (next_closed (collTake_of_other_kind hc hb ho hm (hother hk) h1 h2))
      · by_cases hke : h.kind = e.1
        · have hrange := takers_kind he
          omega
        · exact hrun.trans (next_closed (collTake_of_undefined_kind hc hb ho hm hx (hother hke) hk))
      · exact hrun.trans (next_closed (collTake_of_bad hc hb ho hm hx (hown hk) hg))
    · exact next_closed (collTake_placeOf (kinds := [0x12]) (fun s p g src h bs => s.entryPart p g src h (bytesAt bs 64 h.len)) hc hb ho hm hx (hown hk) hg)
    · exact next_closed (collTake_placeOf (kinds := [0x13]) (fun s p g src h bs => s.entryPart p g src h (bytesAt bs 64 h.len)) hc hb ho hm hx (hown hk) hg)
    · exact next_closed (collTake_placeOf (kinds := [0x14]) (fun s p g src h bs => s.entryPart p g src h (bytesAt bs 64 h.len)) hc hb ho hm hx (hown hk) hg)
    · exact next_closed (collTake_placeOf (kinds := [0x15]) State.presenceMap hc hb ho hm hx (hown hk) hg)
    · exact next_closed (collTake_placeOf (kinds := [0x16]) State.permLeaf hc hb ho hm hx (hown hk) hg)
    · exact next_closed (collTake_placeOf (kinds := [0x17]) State.permControl hc hb ho hm hx (hown hk) hg)
    · exact (next_closed (collTake_of_good (kinds := [0x11]) (run := fun p g src b h bs s => s.contribution p g src cid.val b h bs)
        hc hb ho hm hx (hown hk) hg)).trans (afterPlace_closed _ _ _ _ (t.contribution p g h.src cid.val b' h bs))
  case refine_4 =>
    intro p g k s
    refine ⟨fun h => next_closed (takeSlot_of_no_group h), fun x m hx hm hr ho => next_closed (takeSlot_of_no_next hx hm hr rfl ho), fun h => ?_, rfl, rfl,
      fun x m hx hm h => p2pStall_of_none hx hm h⟩
    refine next_closed ?_
    rw [ringLook_of_no_group h, p2pStall_of_no_group h]

end Sys2Proof.Machine.TrafficLaws
end

section
/-! PROOF. Leases, membership and digest commit (13_continuity.md, R456 to R468, R488, R493, R494): O55. -/
namespace Sys2Proof.Machine.ClusterLaws
open Sys2Proof Sys2Proof.Machine.Laws Sys2Proof.Machine.ClockLaws Sys2Proof.Machine.BoundaryLaws Sys2Proof.Machine.StepLaws
  Sys2Proof.Machine.DispatchLaws Sys2Proof.Machine.PortLaws

/-! ## Quorums (R456) -/

/-- Two predicates that together hold more often than a list is long share an element of it. -/
theorem exists_mem_of_length_lt {l : List Nat} {p q : Nat → Bool} (h : l.length < (l.filter p).length + (l.filter q).length) :
    ∃ r ∈ l, p r = true ∧ q r = true := by
  by_contra hno
  have hle : l.countP q ≤ l.countP (fun r => !p r) := List.countP_mono_left fun r hr hq => by
    by_contra hp
    exact hno ⟨r, hr, by simpa using hp, hq⟩
  have hsum := List.length_eq_countP_add_countP p (l := l)
  simp only [← List.countP_eq_length_filter] at h
  simp only [Bool.not_eq_true, Bool.decide_eq_false] at hsum
  omega

theorem quorum_iff (j : Job) (set : List Nat) : j.quorum set = true ↔
    j.active.length < 2 * (j.active.filter (fun r => set.contains r)).length ∨
      2 * (j.active.filter (fun r => set.contains r)).length = j.active.length ∧ j.anchor ∈ set ∧ j.anchor ∈ j.active := by
  simp [Job.quorum]

theorem quorums_meet {j : Job} {a b : List Nat} (ha : j.quorum a = true) (hb : j.quorum b = true) : ∃ r ∈ j.active, r ∈ a ∧ r ∈ b := by
  rw [quorum_iff] at ha hb
  by_cases hanchor : j.anchor ∈ a ∧ j.anchor ∈ b ∧ j.anchor ∈ j.active
  · exact ⟨j.anchor, hanchor.2.2, hanchor.1, hanchor.2.1⟩
  · have hlt : j.active.length < (j.active.filter (fun r => a.contains r)).length + (j.active.filter (fun r => b.contains r)).length := by
      rcases ha with ha | ⟨ha, haa, hact⟩
      · rcases hb with hb | ⟨hb, -, -⟩ <;> omega
      · rcases hb with hb | ⟨hb, hbb, -⟩
        · omega
        · exact absurd ⟨haa, hbb, hact⟩ hanchor
    obtain ⟨r, hr, hra, hrb⟩ := exists_mem_of_length_lt hlt
    exact ⟨r, hr, by simpa using hra, by simpa using hrb⟩

/-! ## A message heard (R47, R455) -/

section
variable {s₀ : State} {p : Nat} {h : ClHdr} {f : State → State}

theorem clusterMsg_of_stranger (hm : (s₀.heard false).fromMember p h = none) : s₀.clusterMsg p h f = f (s₀.heard false) := by
  simp only [State.clusterMsg, hm]

theorem clusterMsg_of_newer {j : Job} (hm : (s₀.heard false).fromMember p h = some j) (hv : j.version < h.ver.toNat) :
    s₀.clusterMsg p h f = (s₀.heard false).versionEvent p h.src.val h.ver.toNat h.ver.toNat 0 := by
  simp only [State.clusterMsg, hm, if_pos hv]

theorem clusterMsg_of_old (hv : ∀ j, (s₀.heard false).fromMember p h = some j → h.ver.toNat ≤ j.version) :
    s₀.clusterMsg p h f = f (s₀.heard false) := by
  unfold State.clusterMsg
  dsimp only
  split
  · rfl
  next j hj => exact if_neg (Nat.not_lt.mpr (hv j hj))

end

section
variable {s : State} {p : Nat} {h : ClHdr} (hm : s.fromMember p h = none)
include hm

theorem renewRx_of_stranger (c k : Nat) : s.renewRx p h c k = s := by simp only [State.renewRx, hm]

theorem proposeRx_of_stranger (e m w : Nat) : s.proposeRx p h e m w = s := by simp only [State.proposeRx, hm]

theorem acceptRx_of_stranger (e m w : Nat) (x : ClStated) : s.acceptRx p h e m w x = s := by simp only [State.acceptRx, hm]

theorem joinRx_of_stranger (act : Bool) (x : ClStated) : s.joinRx p h act x = s := by simp only [State.joinRx, hm]

theorem pauseRx_of_stranger (ans : Bool) : s.pauseRx p h ans = s := by simp only [State.pauseRx, hm]

end

section
variable {s : State} {p : Nat} {h : ClHdr} (hm : s.stepMsg p h = none)
include hm

theorem rootsRx_of_left (i root : Nat) : s.rootsRx p h i root = s := by simp only [State.rootsRx, hm]

theorem readyRx_of_left : s.readyRx p h = s := by simp only [State.readyRx, hm]

theorem notReadyRx_of_left (c : Nat) : s.notReadyRx p h c = s := by simp only [State.notReadyRx, hm]

theorem treeMsg_of_left (i lv fst : Nat) (dg : List Nat) (ev : Nat) : s.treeMsg p h i lv fst dg ev = s := by simp only [State.treeMsg, hm]

theorem ckdoneRx_of_left : s.ckdoneRx p h = s := by simp only [State.ckdoneRx, hm]

end

/-! ## Leases (R457 to R459, R494) -/

section
variable {s : State} {p : Nat}

section
variable (h : s.job? p = none)
include h

theorem renewSend_of_no_job : s.renewSend p = s := by simp only [State.renewSend, h]

theorem leaseExpiry_of_no_job : s.leaseExpiry p = s := by simp only [State.leaseExpiry, h]

theorem candidate_of_no_job : s.candidate p = s := by simp only [State.candidate, h]

theorem allowanceOver_of_no_job (r : Nat) : s.allowanceOver p r = s := by simp only [State.allowanceOver, h]

end

variable {j : Job} (h : s.job? p = some j)
include h

theorem renewSend_of_not_due (hd : ¬ (s.rd F.pJstate p = jsActive ∧ j.lastRenew + s.rd F.pLeaseTicks p / 16 ≤ s.tick)) : s.renewSend p = s := by
  have hguard : (s.rd F.pJstate p != jsActive || decide (s.tick < j.lastRenew + s.rd F.pLeaseTicks p / 16)) = true := by
    simp only [Bool.or_eq_true, bne_iff_ne, decide_eq_true_eq]
    omega
  simp only [State.renewSend, h, if_pos hguard]

theorem renewSend_of_due (hd : s.rd F.pJstate p = jsActive ∧ j.lastRenew + s.rd F.pLeaseTicks p / 16 ≤ s.tick) : s.renewSend p =
    (s.modJob p (fun j => { j with lastRenew := s.tick })).clusterAll p ((List.range j.n).filter (fun r => r != j.self)) ccRenew (s.stepNo p)
      [s.rd F.cadState, s.rd F.pCommit p, s.rd F.pCkjob p, maskOf (s.heardIn p (s.rd F.pLeaseTicks p) j)] := by
  have hguard : ¬ (s.rd F.pJstate p != jsActive || decide (s.tick < j.lastRenew + s.rd F.pLeaseTicks p / 16)) = true := by
    simp only [Bool.or_eq_true, bne_iff_ne, decide_eq_true_eq]
    omega
  simp only [State.renewSend, h, if_neg hguard]

theorem leaseExpiry_of_job : s.leaseExpiry p = if s.rd F.pJstate p = jsActive ∧ s.holdsLease p j = false then s.enterHold p 2 else s := by
  simp only [State.leaseExpiry, h]
  by_cases hd : s.rd F.pJstate p = jsActive ∧ s.holdsLease p j = false
  · rw [if_pos hd, if_neg (by simp [hd.1, hd.2])]
  · rw [if_neg hd, if_pos (by simpa [or_iff_not_imp_left] using hd)]

theorem candidate_of_job : s.candidate p = if s.silent p j ≠ [] ∧ s.leads p j j.n = true ∧ j.leaving = none then
    (s.propose p j (j.active.filter (fun r => !(s.silent p j).contains r))).epochLook p else s := by
  simp only [State.candidate, h]
  by_cases hd : s.silent p j ≠ [] ∧ s.leads p j j.n = true ∧ j.leaving = none
  · rw [if_pos hd, if_neg (by simp [hd.1, hd.2.1, hd.2.2])]
  · rw [if_neg hd, if_pos ?_]
    by_contra hno
    refine hd ?_
    simpa only [Bool.or_eq_true, decide_eq_true_eq, Bool.not_eq_true', not_or, Bool.not_eq_false, ne_eq, Bool.not_eq_true, Option.isSome_eq_false_iff,
      Option.isNone_iff_eq_none, and_assoc] using hno

theorem allowanceOver_of_excused {r : Nat} (he : ∀ t, tget? j.excused r = some t → s.tick ≤ t) : s.allowanceOver p r = s := by
  simp only [State.allowanceOver, h]
  split
  · rfl
  next t ht => exact if_pos (he t ht)

theorem allowanceOver_of_missing {r t : Nat} {i : Job} (ht : tget? j.excused r = some t) (hlt : t < s.tick)
    (hi : (s.modJob p (fun j => { j with excused := tdel j.excused r })).job? p = some i) : s.allowanceOver p r =
      (let u := s.modJob p (fun j => { j with excused := tdel j.excused r })
       if u.leads p i r = true ∧ r ∈ i.active then (u.propose p i (i.active.filter (fun k => k != r))).epochLook p else u) := by
  simp only [State.allowanceOver, h, ht, if_neg (Nat.not_le.mpr hlt), hi, Bool.and_eq_true, List.contains_iff_mem]

end

/-! ## Membership messages (R45, R457, R459, R461, R493) -/

section
variable {s : State} {p : Nat} {h : ClHdr} {j : Job} (hm : s.fromMember p h = some j)
include hm

theorem renewRx_of_own (he : h.epoch.toNat = s.rd F.pEpoch p) (c k : Nat) : s.renewRx p h c k = s.modJob p (fun j => { j with
    heard := tput j.heard h.src.val s.tick, reports := tput j.reports h.src.val (c, k) }) := by
  simp only [State.renewRx, hm, if_pos he]

theorem renewRx_of_lower (he : h.epoch.toNat < s.rd F.pEpoch p) (c k : Nat) : s.renewRx p h c k = s := by
  simp only [State.renewRx, hm, if_neg (Nat.ne_of_lt he), if_pos he]

theorem renewRx_of_leaving (he : s.rd F.pEpoch p < h.epoch.toNat) (hl : j.leaving.isSome = true) (c k : Nat) :
    s.renewRx p h c k = s.leftJob p h.epoch.toNat := by
  simp only [State.renewRx, hm, if_neg (Nat.ne_of_gt he), if_neg (Nat.lt_asymm he), hl, if_true]

theorem renewRx_of_higher (he : s.rd F.pEpoch p < h.epoch.toNat) (hl : j.leaving = none) (c k : Nat) :
    s.renewRx p h c k = if s.rd F.pJstate p = jsHold then s.sendJoin p else s := by
  simp only [State.renewRx, hm, if_neg (Nat.ne_of_gt he), if_neg (Nat.lt_asymm he), hl, Option.isSome_none, Bool.false_eq_true, if_false]

theorem proposeRx_of_member (e m w : Nat) : s.proposeRx p h e m w = (s.takePropose p e m w).epochLook p := by simp only [State.proposeRx, hm]

theorem acceptRx_of_misfit {x : ClStated} {t : State} (hx : s.takeStated p h.src.val x = (false, t)) (e m w : Nat) :
    s.acceptRx p h e m w x = t := by simp only [State.acceptRx, hm, hx]

theorem joinRx_of_misfit {x : ClStated} {t : State} (hx : s.takeStated p h.src.val x = (false, t)) (act : Bool) : s.joinRx p h act x = t := by
  simp only [State.joinRx, hm, hx]

theorem acceptRx_of_fit {x : ClStated} {t : State} {i : Job} {e m w : Nat} (hx : s.takeStated p h.src.val x = (true, t))
    (hi : (t.takePropose p e m w).job? p = some i) : s.acceptRx p h e m w x =
      (let u := t.takePropose p e m w
       if i.accepted = some (e, w, m) then (u.modJob p (fun j => { j with
         accepts := if j.accepts.contains h.src.val then j.accepts else j.accepts ++ [h.src.val] })).epochLook p else u) := by
  simp only [State.acceptRx, hm, hx, hi]
  by_cases ha : i.accepted = some (e, w, m)
  · rw [if_pos ha, if_neg (by simp [ha])]
  · rw [if_neg ha, if_pos (by simpa using ha)]

theorem joinRx_of_fit {x : ClStated} {t : State} {i : Job} {act : Bool} {u : State} (hx : s.takeStated p h.src.val x = (true, t))
    (hu : u = t.modJob p (fun j => { j with heard := tput j.heard h.src.val t.tick,
                                            joined := if j.joined.contains h.src.val then j.joined else j.joined ++ [h.src.val] }))
    (hi : u.job? p = some i) : s.joinRx p h act x =
      (let v := if act = true ∧ i.active.contains h.src.val = true then u
         else u.memberEvent p i.jobId (u.rd F.pEpoch p) (u.rd F.pEpoch p) (maskOf i.active) 3 0
       let set := if act then i.active else i.active.filter (fun r => r != h.src.val)
       if v.leads p i h.src.val then (v.propose p i set).epochLook p else v) := by
  simp only [State.joinRx, hm, hx, ← hu, hi, Bool.and_eq_true]

/-- What a PAUSE request leaves of the job: no step after the one it names, its sender excused for UPD_TICKS. -/
def pauseFor (s : State) (p : Nat) (h : ClHdr) (j : Job) : Job :=
  { j with pauseAt := some (match j.pauseAt with | some k => Nat.min k h.step.toNat | none => h.step.toNat)
           excused := tput j.excused h.src.val (s.tick + s.rd F.pUpdTicks p) }

theorem pauseRx_of_lower (he : h.epoch.toNat < s.rd F.pEpoch p) (ans : Bool) : s.pauseRx p h ans = s := by
  simp only [State.pauseRx, hm, if_pos he]

theorem pauseRx_of_answer (he : s.rd F.pEpoch p ≤ h.epoch.toNat) : s.pauseRx p h true = s.modJob p (fun j => { j with
    pauseAcks := if j.pauseAcks.contains h.src.val then j.pauseAcks else j.pauseAcks ++ [h.src.val] }) := by
  simp only [State.pauseRx, hm, if_neg (Nat.not_lt.mpr he), if_true]

theorem pauseRx_of_request (he : s.rd F.pEpoch p ≤ h.epoch.toNat) :
    s.pauseRx p h false = (s.modJob p (pauseFor s p h)).clusterSend p h.src.val ccPause h.step.toNat [1] := by
  unfold State.pauseRx
  rw [hm]
  dsimp only
  rw [if_neg (Nat.not_lt.mpr he)]
  rfl

end

theorem pauseFor_pauseAt (s : State) (p : Nat) (h : ClHdr) (j : Job) :
    (pauseFor s p h j).pauseAt = some ((j.pauseAt.map (fun k => Nat.min k h.step.toNat)).getD h.step.toNat) := by
  unfold pauseFor
  cases j.pauseAt with
  | none => rfl
  | some k => rfl

/-! ## Step messages (R464 to R468, R488) -/

section
variable {s : State} {p : Nat} {h : ClHdr} {j : Job} (hm : s.stepMsg p h = some j)

/-- A step message comes from a member. -/
theorem fromMember_of_stepMsg (hm : s.stepMsg p h = some j) : s.fromMember p h = some j := by
  unfold State.stepMsg at hm
  split at hm
  next => exact absurd hm (by simp)
  next i hi =>
    split at hm
    next => exact hi.trans hm
    next => exact absurd hm (by simp)

include hm

theorem rootsRx_of_member (i root : Nat) : s.rootsRx p h i root =
    (let key := fun (e : Nat × Nat × Nat × Nat) => e.1 == h.step.toNat && e.2.1 == h.src.val && e.2.2.1 == i
     ((s.modJob p (fun j => { j with
       roots := j.roots.filter (fun e => !key e) ++ [(h.step.toNat, h.src.val, i, root)] })).rootsLook p i).stepLook p) := by
  simp only [State.rootsRx, hm]

theorem readyRx_of_member : s.readyRx p h =
    (let x := (h.src.val, h.step.toNat, h.epoch.toNat)
     (s.modJob p (fun j => { j with readies := if j.readies.contains x then j.readies else j.readies ++ [x] })).stepLook p) := by
  simp only [State.readyRx, hm]

/-- The step in progress a NOTREADY names, one that has not failed. -/
def failing (h : ClHdr) (r : StepRun) : Bool := r.stepNo == h.step.toNat && r.fail.isNone

theorem notReadyRx_of_no_step (hr : (s.part p).cad.steps.find? (failing h) = none) (c : Nat) : s.notReadyRx p h c = s := by
  unfold failing at hr
  simp only [State.notReadyRx, hm, hr]

theorem notReadyRx_of_step {r : StepRun} (hr : (s.part p).cad.steps.find? (failing h) = some r) (c : Nat) : s.notReadyRx p h c =
    (s.modStep p r.id (fun y => { y with fail := some c, failFrom := some h.src.val })).stepLook p := by
  unfold failing at hr
  simp only [State.notReadyRx, hm, hr]

theorem treeMsg_of_no_shard {i : Nat} (hx : s.shard? p i = none) (lv fst : Nat) (dg : List Nat) (ev : Nat) :
    s.treeMsg p h i lv fst dg ev = s := by
  simp only [State.treeMsg, hm, hx]

theorem treeMsg_of_shard {i : Nat} {x : Shard} (hx : s.shard? p i = some x) (lv fst : Nat) (dg : List Nat) (ev : Nat) :
    s.treeMsg p h i lv fst dg ev = if x.stepNo = h.step.toNat then s.treeRx p h.src.val i lv fst dg ev else s := by
  simp only [State.treeMsg, hm, hx]

theorem ckdoneRx_of_member : s.ckdoneRx p h =
    (let x := (h.src.val, h.step.toNat)
     (s.modJob p (fun j => { j with ckdone := if j.ckdone.contains x then j.ckdone else j.ckdone ++ [x] })).ckjobLook p h.step.toNat) := by
  simp only [State.ckdoneRx, hm]

end

/-- Settles O55: quorums meet, and each message and timeout by its lemma above, once heard. -/
theorem membershipAndCommitMessages : Obligations.MembershipAndCommitMessages := by
  refine ⟨fun j a b => quorums_meet, ?_, ?_, ?_, ?_, ?_, ?_, ?_⟩
  case refine_1 =>
    intro p h st c k d w x act ans s₀ s hm
    have hheard : ∀ f, s₀.clusterMsg p.val h f = f s := fun f => clusterMsg_of_stranger hm
    exact ⟨next_closed ((hheard _).trans (renewRx_of_stranger hm _ _)), next_closed ((hheard _).trans (proposeRx_of_stranger hm _ _ _)),
      next_closed ((hheard _).trans (acceptRx_of_stranger hm _ _ _ _)), next_closed ((hheard _).trans (joinRx_of_stranger hm _ _)),
      next_closed ((hheard _).trans (pauseRx_of_stranger hm _))⟩
  case refine_2 =>
    intro p h st c k d w x act ans i tn root cause lv fst ev dg s₀ j s hm hv told
    have htold : ∀ f, closing (s₀.clusterMsg p.val h f) = told := fun f => next_closed (clusterMsg_of_newer hm hv)
    exact ⟨htold _, htold _, htold _, htold _, htold _, htold _, htold _, htold _, htold _, htold _⟩
  case refine_3 =>
    intro p h i tn root cause lv fst ev dg s₀ s hm hv
    have hheard : ∀ f, s₀.clusterMsg p.val h f = f s := fun f => clusterMsg_of_old hv
    exact ⟨next_closed ((hheard _).trans (rootsRx_of_left hm _ _)), next_closed ((hheard _).trans (readyRx_of_left hm)),
      next_closed ((hheard _).trans (notReadyRx_of_left hm _)), next_closed ((hheard _).trans (treeMsg_of_left hm _ _ _ _ _)),
      next_closed ((hheard _).trans (ckdoneRx_of_left hm))⟩
  case refine_4 =>
    intro p s h
    exact ⟨next_flush (renewSend_of_no_job h), next_closed (leaseExpiry_of_no_job h), next_closed (candidate_of_no_job h),
      fun r => next_closed (allowanceOver_of_no_job h r.val)⟩
  case refine_5 =>
    intro p s j h n due
    exact ⟨fun hd => next_flush (renewSend_of_not_due h hd), fun hd => next_flush (renewSend_of_due h hd), next_closed (leaseExpiry_of_job h),
      next_closed (candidate_of_job h), fun r he => next_closed (allowanceOver_of_excused h he),
      fun r t ht hlt => fun i hi => next_closed (allowanceOver_of_missing h ht hlt hi)⟩
  case refine_6 =>
    intro p h s₀ j s hm hv e
    have hheard : ∀ f, s₀.clusterMsg p.val h f = f s := fun f => clusterMsg_of_old fun i hi => by
      rw [← Option.some.inj (hm.symm.trans hi)]
      exact hv
    refine ⟨fun st c k d => ⟨fun he => ?_, fun he => ?_, fun he hl => ?_, fun he hl => ?_⟩, fun c k w => ?_, fun c k w x act t hx => ⟨?_, ?_⟩,
      fun c k w x t i hx hi => ?_, fun x act t i hx hi => ?_, fun he ans => ?_, fun he => ⟨?_, pauseFor s p.val h, ?_, fun i => ⟨rfl, pauseFor_pauseAt s p.val h i⟩⟩⟩
    · exact next_closed ((hheard _).trans (renewRx_of_own hm he _ _))
    · exact next_closed ((hheard _).trans (renewRx_of_lower hm he _ _))
    · exact next_closed ((hheard _).trans (renewRx_of_leaving hm he hl _ _))
    · exact next_closed ((hheard _).trans (renewRx_of_higher hm he hl _ _))
    · exact next_closed ((hheard _).trans (proposeRx_of_member hm _ _ _))
    · exact next_closed ((hheard _).trans (acceptRx_of_misfit hm hx _ _ _))
    · exact next_closed ((hheard _).trans (joinRx_of_misfit hm hx _))
    · exact next_closed ((hheard _).trans (acceptRx_of_fit hm hx hi))
    · exact next_closed ((hheard _).trans (joinRx_of_fit hm hx rfl hi))
    · exact next_closed ((hheard _).trans (pauseRx_of_lower hm he _))
    · exact next_closed ((hheard _).trans (pauseRx_of_answer hm he))
    · exact next_closed ((hheard _).trans (pauseRx_of_request hm he))
  case refine_7 =>
    intro p h s₀ j s hm hv
    have hheard : ∀ f, s₀.clusterMsg p.val h f = f s := fun f => clusterMsg_of_old fun i hi => by
      rw [← Option.some.inj ((fromMember_of_stepMsg hm).symm.trans hi)]
      exact hv
    refine ⟨fun i tn root => ?_, ?_, fun c => ⟨fun hr => ?_, fun r hr => ?_⟩, fun i lv fst ev dg => ⟨fun hx => ?_, fun x hx => ?_⟩, ?_⟩
    · exact next_closed ((hheard _).trans (rootsRx_of_member hm _ _))
    · exact next_closed ((hheard _).trans (readyRx_of_member hm))
    · exact next_closed ((hheard _).trans (notReadyRx_of_no_step hm hr _))
    · exact next_closed ((hheard _).trans (notReadyRx_of_step hm hr _))
    · exact next_closed ((hheard _).trans (treeMsg_of_no_shard hm hx _ _ _ _))
    · exact next_closed ((hheard _).trans (treeMsg_of_shard hm hx _ _ _ _))
    · exact next_closed ((hheard _).trans (ckdoneRx_of_member hm))

end Sys2Proof.Machine.ClusterLaws
end

section
/-! PROOF. The links, pins and bindings of a host port (14_host_interface.md, R497, R498, R528 to R530, R624): O56. -/
namespace Sys2Proof.Machine.HostLaws
open Sys2Proof Sys2Proof.Machine.Laws Sys2Proof.Machine.ClockLaws Sys2Proof.Machine.BoundaryLaws Sys2Proof.Machine.MemoryLaws
  Sys2Proof.Machine.PortLaws Sys2Proof.Machine.RingLaws

/-! ## Completions and rings -/

@[simp] theorem modLife_regs (s : State) (d : DRef) (f : Ring → Ring) : (s.modLife d f).regs = s.regs := by
  unfold State.modLife
  dsimp only
  repeat' split
  all_goals rfl

/-- A change of a ring life binds no ring. -/
theorem modLife_ring?_none {s : State} {k : Nat} (h : s.ring? k = none) (d : DRef) (f : Ring → Ring) : (s.modLife d f).ring? k = none := by
  unfold State.modLife
  dsimp only
  split
  · exact h
  next r hr =>
    split
    · by_cases hk : pairKey d.part d.ring = k
      · rw [hk, h] at hr
        exact absurd hr (by simp)
      · exact (ring?_putRing_other _ _ _ _ hk).trans h
    · exact h

@[simp] theorem complete_regs (s : State) (d : DRef) (status result : Nat) (noop : Bool) : (s.complete d status noop result).regs = s.regs := by
  unfold State.complete
  split
  · rfl
  · exact modLife_regs _ _ _

theorem complete_ring?_none {s : State} {k : Nat} (h : s.ring? k = none) (d : DRef) (status result : Nat) (noop : Bool) :
    (s.complete d status noop result).ring? k = none := by
  unfold State.complete
  split
  · exact h
  · exact modLife_ring?_none h _ _

/-- A ring that ends leaves every register. -/
@[simp] theorem dropRing_regs (s : State) (k : Nat) : (s.dropRing k).regs = s.regs := by
  unfold State.dropRing State.destroyed
  split
  · rfl
  · dsimp only
    split
    · split
      · rfl
      · exact complete_regs _ _ _ _ _
    · rfl

theorem delRing_ring?_none {s : State} {k : Nat} (h : s.ring? k = none) (j : Nat) : (s.delRing j).ring? k = none := by
  by_cases hjk : j = k
  · rw [hjk]
    exact ring?_delRing_same _ _
  · exact (tget?_tdel_other _ _ _ hjk).trans h

/-- The end of a ring binds none. -/
theorem dropRing_ring?_none {s : State} {k : Nat} (h : s.ring? k = none) (j : Nat) : (s.dropRing j).ring? k = none := by
  unfold State.dropRing State.destroyed
  split
  · exact h
  · dsimp only
    split
    · split
      · exact delRing_ring?_none h j
      · exact complete_ring?_none (delRing_ring?_none h j) _ _ _ _
    · exact delRing_ring?_none h j

theorem dropRing_ring?_same (s : State) (k : Nat) : (s.dropRing k).ring? k = none := by
  unfold State.dropRing State.destroyed
  split
  next h => exact h
  · dsimp only
    split
    · split
      · exact ring?_delRing_same _ _
      · exact complete_ring?_none (ring?_delRing_same _ _) _ _ _ _
    · exact ring?_delRing_same _ _

@[simp] theorem dropRing_rd (s : State) (k : Nat) (g : Fld) (b i : Nat) : (s.dropRing k).rd g b i = s.rd g b i := rd_congr (dropRing_regs s k) g b i

/-! ## Folds -/

/-- What every step of a fold keeps, the fold keeps. -/
theorem foldl_keeps {α : Type} {f : State → α → State} {P : State → Prop} (l : List α) (h : ∀ u x, x ∈ l → P u → P (f u x)) {s : State} (hs : P s) :
    P (l.foldl f s) := by
  induction l generalizing s with
  | nil => exact hs
  | cons x l ih => exact ih (fun u y hy => h u y (List.mem_cons_of_mem _ hy)) (h s x (List.mem_cons_self ..) hs)

/-- What one step of a fold brings and every step keeps, the fold brings. -/
theorem foldl_brings {α : Type} {f : State → α → State} {P : State → Prop} {l : List α} {a : α} (ha : a ∈ l) (h : ∀ u x, P u → P (f u x))
    (hset : ∀ u, P (f u a)) (s : State) : P (l.foldl f s) := by
  obtain ⟨l₁, l₂, rfl⟩ := List.append_of_mem ha
  rw [List.foldl_append, List.foldl_cons]
  exact foldl_keeps l₂ (fun u x _ => h u x) (hset _)

/-! ## Detach (R530) -/

/-- A partition's rings unbound, as a detach of its port does. -/
def unbindPart (s : State) (p : Nat) : State :=
  let s := (s.wr F.pAqEn 0 p).wr F.pEqEn 0 p
  let s := (List.range 65).foldl (fun s n => s.dropRing (pairKey p n)) s
  if s.rd F.pRings p = 0 then s else s.countRings p

/-- The port's own registers and ring cleared. -/
def unbindPort (s : State) (q : Nat) : State :=
  (((s.wr F.hpAttached 0 q).wr F.hpHifAgreed 0 q).wr F.mqEn 0 q).dropRing (moduleKey q)

theorem detachRings_eq (s : State) (q : Nat) : s.detachRings q = (partsOf (unbindPort s q) q).foldl unbindPart (unbindPort s q) := rfl

/-- A partition's unbinding writes registers of the partition's window alone. -/
theorem rd_unbindPart {g : Fld} {b i : Nat} (u : State) (p : Nat) (h1 : F.pAqEn.key p 0 ≠ g.key b i) (h2 : F.pEqEn.key p 0 ≠ g.key b i)
    (h3 : F.pRings.key p 0 ≠ g.key b i) : (unbindPart u p).rd g b i = u.rd g b i := by
  have hdrops : ∀ v : State, ((List.range 65).foldl (fun s n => s.dropRing (pairKey p n)) v).rd g b i = v.rd g b i := fun v =>
    foldl_keeps (P := fun w : State => w.rd g b i = v.rd g b i) _ (fun w n _ hw => (dropRing_rd _ _ _ _ _).trans hw) rfl
  have hwr : ((u.wr F.pAqEn 0 p).wr F.pEqEn 0 p).rd g b i = u.rd g b i :=
    (rd_wr_other _ _ _ _ _ _ _ _ h2).trans (rd_wr_other _ _ _ _ _ _ _ _ h1)
  unfold unbindPart
  dsimp only
  split
  · exact (hdrops _).trans hwr
  · exact (rd_wr_other _ _ _ _ _ _ _ _ h3).trans ((hdrops _).trans hwr)

theorem countRings_ring? (s : State) (p k : Nat) : (s.countRings p).ring? k = s.ring? k := rfl

theorem unbindPart_ring?_none {u : State} {k : Nat} (h : u.ring? k = none) (p : Nat) : (unbindPart u p).ring? k = none := by
  have hdrops : ((List.range 65).foldl (fun s n => s.dropRing (pairKey p n)) ((u.wr F.pAqEn 0 p).wr F.pEqEn 0 p)).ring? k = none :=
    foldl_keeps (P := fun w : State => w.ring? k = none) _ (fun w n _ hw => dropRing_ring?_none hw _) h
  unfold unbindPart
  dsimp only
  split
  · exact hdrops
  · exact (countRings_ring? _ _ _).trans hdrops

theorem unbindPart_ring?_own (u : State) (p : Nat) {n : Nat} (hn : n ≤ 64) : (unbindPart u p).ring? (pairKey p n) = none := by
  have hdrops : ((List.range 65).foldl (fun s n => s.dropRing (pairKey p n)) ((u.wr F.pAqEn 0 p).wr F.pEqEn 0 p)).ring? (pairKey p n) = none :=
    foldl_brings (P := fun w : State => w.ring? (pairKey p n) = none) (a := n) (by simpa using Nat.lt_succ_of_le hn)
      (fun w m hw => dropRing_ring?_none hw _) (fun w => dropRing_ring?_same w _) _
  unfold unbindPart
  dsimp only
  split
  · exact hdrops
  · exact (countRings_ring? _ _ _).trans hdrops

theorem mem_partsOf {s : State} {q p : Nat} : p ∈ partsOf s q ↔ p < 36 ∧ s.portOf p = q := by simp [partsOf]

/-- A field of a port's window is none of a partition's: the windows do not meet. -/
theorem part_key_ne_host {f g : Fld} {p q : Nat} (hf : f.blk = .part) (hg : g.blk = .host) (hfl : f.lo < 64) (hgl : g.lo < 64) (hfs : f.stride = 0)
    (hgs : g.stride = 0) (hgo : g.off < 0x8000) (hq : q < 2) : f.key p 0 ≠ g.key q 0 := by
  refine key_ne_of_addr_ne hfl hgl ?_
  simp only [Fld.addr, Blk.base, hf, hg, hfs, hgs]
  omega

theorem rd_detachRings_host {g : Fld} {q : Nat} (hg : g.blk = .host) (hgl : g.lo < 64) (hgs : g.stride = 0) (hgo : g.off < 0x8000) (hq : q < 2)
    (s : State) : (s.detachRings q).rd g q = (unbindPort s q).rd g q := by
  rw [detachRings_eq]
  refine foldl_keeps (P := fun w : State => w.rd g q = (unbindPort s q).rd g q) _ (fun w p _ hw => (rd_unbindPart w p ?_ ?_ ?_).trans hw) rfl
  · exact part_key_ne_host rfl hg (by decide) hgl rfl hgs hgo hq
  · exact part_key_ne_host rfl hg (by decide) hgl rfl hgs hgo hq
  · exact part_key_ne_host rfl hg (by decide) hgl rfl hgs hgo hq

section
variable {q : Nat} (hq : q < 2)
include hq

/-- MQ_EN is no field of the port's window. -/
theorem mqEn_key_ne_host {g : Fld} (hg : g.blk = .host) (hgl : g.lo < 64) (hgs : g.stride = 0) (hgo : g.off < 0x8000) :
    F.mqEn.key q 0 ≠ g.key q 0 := by
  refine key_ne_of_addr_ne (by decide) hgl ?_
  simp only [Fld.addr, Blk.base, hg, hgs, F.mqEn]
  omega

theorem detachRings_attached (s : State) : (s.detachRings q).rd F.hpAttached q = 0 := by
  rw [rd_detachRings_host rfl (by decide) rfl (by decide) hq, unbindPort, dropRing_rd, rd_wr_other _ _ _ _ _ _ _ _ (mqEn_key_ne_host hq rfl (by decide) rfl (by decide)),
    rd_wr_other _ _ _ _ _ _ _ _ (PowerLaws.key_ne_of_lo_ne (by decide) (by decide) (by decide) _ _ _ _), rd_wr_same]
  rfl

theorem detachRings_agreed (s : State) : (s.detachRings q).rd F.hpHifAgreed q = 0 := by
  rw [rd_detachRings_host rfl (by decide) rfl (by decide) hq, unbindPort, dropRing_rd, rd_wr_other _ _ _ _ _ _ _ _ (mqEn_key_ne_host hq rfl (by decide) rfl (by decide)),
    rd_wr_same]
  rfl

/-- The port's own unbinding leaves every partition's port. -/
theorem portOf_unbindPort (s : State) {p : Nat} (_hp : p < 36) : (unbindPort s q).portOf p = s.portOf p := by
  have hhost : ∀ {f : Fld}, f.blk = .host → f.lo < 64 → f.stride = 0 → f.off < 0x8000 → f.key q 0 ≠ F.pHostPort.key p 0 :=
    fun hb hl hs ho => (part_key_ne_host rfl hb (by decide) hl rfl hs ho hq).symm
  have hmq : F.mqEn.key q 0 ≠ F.pHostPort.key p 0 := by
    refine key_ne_of_addr_ne (by decide) (by decide) ?_
    simp only [Fld.addr, Blk.base, F.mqEn, F.pHostPort]
    omega
  unfold State.portOf unbindPort
  rw [dropRing_rd, rd_wr_other _ _ _ _ _ _ _ _ hmq, rd_wr_other _ _ _ _ _ _ _ _ (hhost rfl (by decide) rfl (by decide)),
    rd_wr_other _ _ _ _ _ _ _ _ (hhost rfl (by decide) rfl (by decide))]

theorem detachRings_part (s : State) {p n : Nat} (hp : p < 36) (hn : n ≤ 64) (h : s.portOf p = q) :
    (s.detachRings q).ring? (pairKey p n) = none := by
  rw [detachRings_eq]
  exact foldl_brings (P := fun w : State => w.ring? (pairKey p n) = none) (a := p) (mem_partsOf.mpr ⟨hp, (portOf_unbindPort hq s hp).trans h⟩)
    (fun w x hw => unbindPart_ring?_none hw x) (fun w => unbindPart_ring?_own w p hn) _

end

theorem detachRings_module (s : State) (q : Nat) : (s.detachRings q).ring? (moduleKey q) = none := by
  rw [detachRings_eq]
  exact foldl_keeps (P := fun w : State => w.ring? (moduleKey q) = none) _ (fun w x _ hw => unbindPart_ring?_none hw x) (dropRing_ring?_same _ _)

/-! ## A link that comes up (R497, R498, R538) -/

/-- The registers of a link that is up. -/
def linkShown (s : State) (q gen width : Nat) (c cache : Bool) : State :=
  (((s.wr F.hpLinkGen gen q).wr F.hpLinkWidth width q).wr F.hpCxlMode (b2n c) q).wr F.hpCxlCache (b2n (c && cache)) q

/-- The state of a port whose link is up and trained. -/
def linkUp (s : State) (q gen width : Nat) (c cache : Bool) : State :=
  ((linkShown s q gen width c cache).modPort q (fun h => { h with training := false, afterReset := false })).busyLook q

@[simp] theorem rd_busyLook (s : State) (q : Nat) (g : Fld) (b i : Nat) : (s.busyLook q).rd g b i = s.rd g b i := by
  unfold State.busyLook
  split <;> rfl

theorem busyLook_out (s : State) (q : Nat) : (s.busyLook q).out = s.out := by
  unfold State.busyLook
  split <;> rfl

/-- BUSY_N aside, a look at a port leaves it. -/
theorem busyLook_port (s : State) (q : Nat) : ((s.busyLook q).port q).training = (s.port q).training ∧
    ((s.busyLook q).port q).afterReset = (s.port q).afterReset := by
  unfold State.busyLook
  split
  · exact ⟨rfl, rfl⟩
  · dsimp only
    rw [port_modPort_same]
    exact ⟨rfl, rfl⟩

section
variable (s : State) (q gen width : Nat) (c cache : Bool)

theorem linkUp_port : ((linkUp s q gen width c cache).port q).training = false ∧ ((linkUp s q gen width c cache).port q).afterReset = false := by
  have h := busyLook_port ((linkShown s q gen width c cache).modPort q (fun h => { h with training := false, afterReset := false })) q
  rw [port_modPort_same] at h
  exact h

theorem linkUp_out : (linkUp s q gen width c cache).out = s.out := busyLook_out _ _

theorem rd_linkUp (g : Fld) (b i : Nat) : (linkUp s q gen width c cache).rd g b i = (linkShown s q gen width c cache).rd g b i := by
  unfold linkUp
  rw [rd_busyLook, rd_modPort]

end

/-- The four fields a link shows stand at different bits of one register. -/
theorem rd_wr_of_lo_ne {f g : Fld} (hf : f.lo < 64) (hg : g.lo < 64) (h : f.lo ≠ g.lo) (s : State) (v b i b' i' : Nat) :
    (s.wr f v b i).rd g b' i' = s.rd g b' i' :=
  rd_wr_other s f g v b i b' i' (PowerLaws.key_ne_of_lo_ne hf hg h b i b' i')

section
variable (s : State) (q gen width : Nat) (c cache : Bool)

theorem rd_linkGen_linkShown (h : gen < 8) : (linkShown s q gen width c cache).rd F.hpLinkGen q = gen := by
  unfold linkShown
  rw [rd_wr_of_lo_ne (by decide) (by decide) (by decide), rd_wr_of_lo_ne (by decide) (by decide) (by decide),
    rd_wr_of_lo_ne (by decide) (by decide) (by decide), rd_wr_same]
  exact Nat.mod_eq_of_lt h

theorem rd_linkWidth_linkShown (h : width < 32) : (linkShown s q gen width c cache).rd F.hpLinkWidth q = width := by
  unfold linkShown
  rw [rd_wr_of_lo_ne (by decide) (by decide) (by decide), rd_wr_of_lo_ne (by decide) (by decide) (by decide), rd_wr_same]
  exact Nat.mod_eq_of_lt h

theorem b2n_lt (x : Bool) : b2n x < 2 ^ 1 := by cases x <;> decide

theorem rd_cxlMode_linkShown : (linkShown s q gen width c cache).rd F.hpCxlMode q = b2n c := by
  unfold linkShown
  rw [rd_wr_of_lo_ne (by decide) (by decide) (by decide), rd_wr_same]
  exact Nat.mod_eq_of_lt (b2n_lt c)

theorem rd_cxlCache_linkShown : (linkShown s q gen width c cache).rd F.hpCxlCache q = b2n (c && cache) := by
  unfold linkShown
  rw [rd_wr_same]
  exact Nat.mod_eq_of_lt (b2n_lt _)

end

/-- CXL runs where it was offered and enabled, at 32 GT/s and x16 or x8. -/
def cxlRuns (s : State) (q : Nat) (gen : Fin 5) (width : Fin 3) (cxl : Bool) : Bool :=
  cxl && s.flag F.hpCxlOffer q && gen.val == 4 && width.val != 0

theorem pcieWidth_eq (w : Fin 3) : pcieWidth w = 4 * 2 ^ w.val ∧ (pcieWidth w == 16 || pcieWidth w == 8) = (w.val != 0) := by
  revert w
  decide

theorem gen_eq (g : Fin 5) : (g.val + 1 == 5) = (g.val == 4) := by
  revert g
  decide

theorem pcieUp_of_held {s : State} {q gen width : Nat} {cxl cache : Bool} (h : (s.port q).perstN = false ∨ s.hostUp q = false) :
    s.pcieUp q gen width cxl cache = s := by
  refine if_pos ?_
  rcases h with h | h
  · rw [h]
    rfl
  · rw [h]
    simp

theorem pcieUp_of_ready {s : State} {q : Nat} {gen : Fin 5} {width : Fin 3} {cxl cache : Bool} (hp : (s.port q).perstN = true) (hu : s.hostUp q = true) :
    s.pcieUp q (gen.val + 1) (pcieWidth width) cxl cache =
      (let u := linkUp s q (gen.val + 1) (pcieWidth width) (cxlRuns s q gen width cxl) cache
       if (s.port q).afterReset = true then u else u.hostEvent q 1) := by
  have hc : (cxl && s.flag F.hpCxlOffer q && (gen.val + 1 == 5) && (pcieWidth width == 16 || pcieWidth width == 8)) = cxlRuns s q gen width cxl := by
    rw [(pcieWidth_eq width).2, gen_eq gen]
    rfl
  refine (if_neg (by simp [hp, hu])).trans ?_
  dsimp only
  rw [hc]
  rfl

/-! ## Attach (R529) -/

theorem attach_of_attached {s : State} {q : Nat} (h : s.rd F.hpAttached q = 1) :
    s.attach q = s.clampReg q none 9 0x0E0A (F.hpAttach.addr q 0) 1 0 :=
  if_pos ((flag_iff s F.hpAttached q).mpr h)

theorem attach_of_detached {s : State} {q : Nat} (h : s.rd F.hpAttached q = 0) : s.attach q =
    (let v := hostAgreed (s.rd F.idHifMin) (s.rd F.idHifMax) (s.rd F.hpDrvMin q) (s.rd F.hpDrvMax q)
     let t := ((s.wr F.hpHifAgreed v q).wr F.hpAttached (b2n (v != 0)) q).hostVersionEvent q v
     if v = 0 then t else t.hostEvent q 7) :=
  if_neg (by rw [flag_iff, h]; decide)


/-! ## The writes of ATTACH and DETACH (Table 14-17) -/

/-- The register at offset 0x0004 of a port's window holds ATTACH at bit 0 and DETACH at bit 1. -/
theorem regHits_attach : byCode (regHits .host 4) = [(F.hpAttach, 0, 0), (F.hpDetach, 0, 0)] := by decide +kernel

theorem locateReg_attach (q : HostPort) : locateReg (F.hpAttach.addr q.val 0) = some (.host, q.val, 4) := by
  revert q
  decide

/-- A write of that register attaches by bit 0 and detaches by bit 1. -/
theorem regWrite_attach (s : State) (q : HostPort) (v : Nat) : s.regWrite q.val (F.hpAttach.addr q.val 0) v =
    ((if fldN v 0 1 = 1 then s.attach q.val else s)).actField q.val F.hpDetach q.val 0 (fldN v 1 1) (F.hpAttach.addr q.val 0) := by
  have hown : (s.ownerPort .host q.val != some q.val) = false := by simp [State.ownerPort]
  unfold State.regWrite
  rw [locateReg_attach]
  dsimp only
  rw [if_neg (by decide), hown, regHits_attach]
  rfl

theorem actField_detach (s : State) (q b v a : Nat) : s.actField q F.hpDetach b 0 v a = if v = 1 then s.detach b 8 else s := rfl

theorem hostPut_of_down {s : State} {q : Nat} (h : s.hostUp q = false) (a v : Nat) : s.hostPut q a v = s := by
  simp only [State.hostPut, h, Bool.false_eq_true, if_false]

theorem hostPut_of_up {s : State} {q : Nat} (h : s.hostUp q = true) (a v : Nat) : s.hostPut q a v = s.regWrite q a v := by
  simp only [State.hostPut, h, if_true]

theorem hostPut_attach {s : State} {q : HostPort} (h : s.hostUp q.val = true) :
    s.hostPut q.val (F.hpAttach.addr q.val 0) 1 = s.attach q.val := by
  rw [hostPut_of_up h, regWrite_attach, actField_detach, if_neg (by decide), if_pos (by decide)]

theorem hostPut_detach {s : State} {q : HostPort} (h : s.hostUp q.val = true) :
    s.hostPut q.val (F.hpDetach.addr q.val 0) 2 = s.detach q.val 8 := by
  refine (hostPut_of_up h _ _).trans ((regWrite_attach s q 2).trans ?_)
  rw [actField_detach, if_pos (by decide), if_neg (by decide)]

/-! ## The obligation -/

/-- The commands that act on a link alone change nothing without one. -/
theorem linkCommands_of_down {q : HostPort} {s : State} (h : s.hostLink q.val = false) :
    ∀ c ∈ [Instr.pcieLinkDown q, .hotReset q, .linkDisable q, .functionLevelReset q, .d3hotEntry q, .aerUncorrectableError q],
      exec c s = .next s.flush := by
  intro c hc
  simp only [List.mem_cons, List.not_mem_nil, or_false] at hc
  rcases hc with rfl | rfl | rfl | rfl | rfl | rfl
  all_goals exact next_flush (if_neg (Bool.eq_false_iff.mp h))

/-- Settles O56: each link command by its guard; a detach clears the port's two fields and ends its rings, and no partition's
unbinding brings any of them back. -/
theorem hostLinksAndPins : Obligations.HostLinksAndPins := by
  refine ⟨fun q gen width cxl cache s => ?_, fun q s => ⟨linkCommands_of_down, ?_, ?_, ?_, rfl, ?_⟩, fun q s => ⟨?_, ?_, ?_, ?_, ?_, ?_, ?_, ?_⟩⟩
  case refine_1 =>
    intro c
    refine ⟨fun h => next_flush (pcieUp_of_held h), fun hp hu => ?_⟩
    refine ⟨linkUp s q.val (gen.val + 1) (pcieWidth width) (cxlRuns s q.val gen width cxl) cache, next_flush (pcieUp_of_ready hp hu), ?_⟩
    simp only [rd_linkUp]
    refine ⟨rd_linkGen_linkShown _ _ _ _ _ _ (by omega), ?_, rd_cxlMode_linkShown _ _ _ _ _ _, rd_cxlCache_linkShown _ _ _ _ _ _,
      (linkUp_port _ _ _ _ _ _).1, (linkUp_port _ _ _ _ _ _).2, linkUp_out _ _ _ _ _ _⟩
    rw [rd_linkWidth_linkShown _ _ _ _ _ _ (by revert width; decide)]
    exact (pcieWidth_eq width).1
  case refine_2 =>
    intro h
    exact ⟨next_flush (if_pos h), next_flush (if_pos h), next_flush (if_pos h), next_flush (if_pos h), next_flush (if_pos h), next_flush (if_pos h)⟩
  case refine_3 =>
    intro h
    exact next_flush (if_pos (by rw [h]; rfl))
  case refine_4 =>
    intro h
    exact next_flush (if_neg (by rw [h]; decide))
  case refine_5 =>
    exact next_flush (if_congr (by simp) rfl rfl)
  case refine_6 =>
    intro h
    exact ⟨next_flush (hostPut_of_down h _ _), next_flush (hostPut_of_down h _ _)⟩
  case refine_7 =>
    intro h
    exact next_flush (hostPut_detach h)
  case refine_8 =>
    intro h ha
    exact next_flush ((hostPut_attach h).trans (attach_of_attached ha))
  case refine_9 =>
    intro h ha
    exact next_flush ((hostPut_attach h).trans (attach_of_detached ha))
  case refine_10 => exact detachRings_attached q.isLt s
  case refine_11 => exact detachRings_agreed q.isLt s
  case refine_12 => exact detachRings_module s q.val
  case refine_13 =>
    intro p n hp hn h
    exact detachRings_part q.isLt s hp hn h

end Sys2Proof.Machine.HostLaws
end

section
/-! PROOF. Poll rounds, ring pairs, registered regions, BAR2 and MSI-X messages (14_host_interface.md, R502 to R518, R526): O57. -/
namespace Sys2Proof.Machine.RegionLaws
open Sys2Proof Sys2Proof.Machine.Laws Sys2Proof.Machine.ClockLaws Sys2Proof.Machine.BoundaryLaws Sys2Proof.Machine.PortLaws
  Sys2Proof.Machine.StepLaws Sys2Proof.Machine.GrainLaws Sys2Proof.Machine.HostLaws

/-! ## Descriptors that end with the flush alone -/

section
variable {op : Nat} {d : Desc} {s t y : State} {r : DRef} {run : DRef → Desc → State → State}

/-- A command that is a descriptor and nothing else. -/
theorem flushed_descriptor (h : s.starts op d r t) (hy : run r d t = y) (hh : y.atHand (.desc r)) :
    (.next (withDesc op d s run).flush : Host.Outcome State Fault Refusal) = .next (y.ran (.desc r)).flush := by
  rw [withDesc_of_run h hy hh]

end

/-! ## Poll rounds (R516) -/

/-- Whether a poll finds work on a port that accepts submissions, in Still. -/
def pollWork (s : State) (q : Nat) (reads : List RingRead) : Bool :=
  s.rd F.pwrMstate == 2 && (s.port q).busyN && reads.any (fun x => match s.ring? (readKey q x) with
    | some r => decide (r.sqHead < x.tail.toNat) && decide (x.ring.val < 64)
    | none => false)

theorem pollWork_iff (s : State) (q : Nat) (reads : List RingRead) : pollWork s q reads = true ↔
    s.rd F.pwrMstate = 2 ∧ (s.port q).busyN = true ∧
      ∃ x ∈ reads, ∃ r, s.ring? (readKey q x) = some r ∧ r.sqHead < x.tail.toNat ∧ x.ring.val < 64 := by
  unfold pollWork
  rw [Bool.and_eq_true, Bool.and_eq_true, List.any_eq_true, beq_iff_eq, and_assoc]
  refine and_congr_right fun _ => and_congr_right fun _ => exists_congr fun x => and_congr_right fun _ => ?_
  cases s.ring? (readKey q x) with
  | none => simp
  | some r => simp

/-- What a poll round does once a module in Still has woken to it. -/
def polled (t : State) (q : Nat) (reads : List RingRead) : State :=
  let u := (t.wr F.hpPollRnd (capN (2 ^ 32 - 1) (t.pollNs q)) q).modPort q (fun h => { h with snooped := false })
  (((reads.foldl (fun v x => v.readRing q x) u).drain q).waitingLook).readyLook q

theorem pollRound_of_down {s : State} {q : Nat} (h : s.hostUp q = false) (reads : List RingRead) : s.pollRound q reads = s := by
  simp only [State.pollRound, h, Bool.not_false, if_true]

theorem pollRound_of_up {s : State} {q : Nat} (h : s.hostUp q = true) (reads : List RingRead) :
    s.pollRound q reads = polled (if pollWork s q reads then s.wake 1 else s) q reads := by
  simp only [State.pollRound, h, Bool.not_true, Bool.false_eq_true, if_false]; rfl

/-! ## MSI-X (R526) -/

/-- A vector held pending, unmasked while the function mask is clear, sends its one message. -/
theorem msixMask_of_pending {s : State} {q v : Nat} {x} (h : tget? (s.port q).vectors v = some x) (hp : x.pending = true)
    (hm : (s.port q).msixFnMask = false) : (s.msixMask q (some v) false).rd F.hpMsixSent q = Nat.min (s.rd F.hpMsixSent q + 1) (2 ^ 32 - 1) ∧
      tget? ((s.msixMask q (some v) false).port q).vectors v = some { x with masked := false, pending := false } := by
  unfold State.msixMask
  simp only [port_modPort_same, tgetD, h, tget?_tput_same, Option.getD_some, hp, hm, Bool.not_false, Bool.and_self, if_true]
  refine ⟨?_, ?_⟩
  · rw [rd_inc_same, rd_modPort, rd_modPort]
    rfl
  · simp [State.inc]

theorem keyPort_pairKey (s : State) (p : PartId) (n : Fin 65) : s.keyPort (pairKey p.val n.val) = s.portOf p.val := by
  have hp := p.isLt
  have hn := n.isLt
  have hdiv : (p.val * 66 + n.val) / 66 = p.val := by omega
  simp only [State.keyPort, pairKey, hdiv]
  exact if_pos (by omega)

theorem coalesce_of_ring {s : State} {p : PartId} {n : Fin 65} {r : Ring} (h : s.ring? (pairKey p.val n.val) = some r) :
    s.coalesce (pairKey p.val n.val) = if r.sinceMsg ≠ 0 ∧ r.vecEn = true ∧ 0x12 ≤ s.rd F.hpHifAgreed (s.portOf p.val) then
        (s.putRing (pairKey p.val n.val) { r with sinceMsg := 0 }).msixSend (s.portOf p.val) r.vec else s := by
  unfold State.coalesce
  rw [h]
  dsimp only
  rw [keyPort_pairKey]
  by_cases hdue : r.sinceMsg ≠ 0 ∧ r.vecEn = true ∧ 0x12 ≤ s.rd F.hpHifAgreed (s.portOf p.val)
  · rw [if_pos hdue]
    obtain ⟨h1, h2, h3⟩ := hdue
    exact if_neg (by simp [h1, h2, h3])
  · rw [if_neg hdue]
    refine if_pos ?_
    simp only [Bool.or_eq_true, decide_eq_true_eq, Bool.not_eq_true', or_assoc]
    by_contra hno
    push Not at hno
    exact hdue ⟨hno.1, by simpa using hno.2.1, hno.2.2⟩

theorem coalesce_of_none {s : State} {k : Nat} (h : s.ring? k = none) : s.coalesce k = s := by simp only [State.coalesce, h]

/-! ## Ring pairs (R517, R518) -/

section
variable {t : State} {r : DRef} {d : Desc}

/-- The pairs a partition has, pair 0 counted always (R517). -/
def pairsUsed (t : State) (p : Nat) : Nat := ((List.range 64).filter (fun k => k != 0 && thas t.host.rings (pairKey p k))).length + 1

theorem runRingCreate_of_refused (h : d.fld 0 6 = 0 ∨ thas t.host.rings (pairKey r.part (d.fld 0 6)) = true ∨ t.rd F.pRingsMax r.part ≤ pairsUsed t r.part) :
    t.runRingCreate r d = t.nullDesc r hostNull (d.fld 0 6) := by
  unfold pairsUsed at h
  exact if_pos (by simpa [or_assoc] using h)

theorem runRingCreate_of_free
    (h : ¬ (d.fld 0 6 = 0 ∨ thas t.host.rings (pairKey r.part (d.fld 0 6)) = true ∨ t.rd F.pRingsMax r.part ≤ pairsUsed t r.part))
    (hlo : 6 ≤ d.fld 8 5) (hhi : d.fld 8 5 ≤ 16) (hcnt : 0x12 ≤ t.rd F.hpHifAgreed (t.portOf r.part) → 1 ≤ d.fld 32 8) : t.runRingCreate r d =
      ((t.newRing (pairKey r.part (d.fld 0 6)) (d.fld 8 5) (d.at 24 64) (d.at 32 64) (d.at 40 64) 0 (d.fld 16 11) (d.fld 27 1 == 1)
        (if 0x12 ≤ t.rd F.hpHifAgreed (t.portOf r.part) then d.fld 32 8 else 1)
        (if 0x12 ≤ t.rd F.hpHifAgreed (t.portOf r.part) then d.fld 40 8 else 0)).countRings r.part).done r := by
  have hlog : Nat.min 16 (Nat.max 6 (d.fld 8 5)) = d.fld 8 5 := by
    rw [show Nat.max 6 (d.fld 8 5) = d.fld 8 5 from Nat.max_eq_right hlo, show Nat.min 16 (d.fld 8 5) = d.fld 8 5 from Nat.min_eq_right hhi]
  have hfree : ¬ (d.fld 0 6 = 0 || thas t.host.rings (pairKey r.part (d.fld 0 6)) || decide (t.rd F.pRingsMax r.part ≤ pairsUsed t r.part)) = true := by
    simpa [or_assoc] using h
  unfold pairsUsed at hfree
  unfold State.runRingCreate
  dsimp only
  rw [if_neg hfree]
  simp only [if_neg (Nat.not_lt.mpr hlo), if_neg (Nat.not_lt.mpr hhi), hlog]
  by_cases hnew : 0x12 ≤ t.rd F.hpHifAgreed (t.portOf r.part)
  · have hc := hcnt hnew
    have hmax : Nat.max 1 (d.fld 32 8) = d.fld 32 8 := Nat.max_eq_right hc
    simp only [hnew, decide_true, Bool.true_and, decide_eq_true_eq, if_true, hmax, if_neg (Nat.pos_iff_ne_zero.mp hc)]
  · simp only [hnew, decide_false, Bool.false_and, Bool.false_eq_true, if_false]

theorem runRingDestroy_of_ring {x : Ring} (h : t.ring? (pairKey r.part (d.fld 0 6)) = some x) : t.runRingDestroy r d =
    if d.fld 0 6 = 0 ∨ d.fld 0 6 = r.ring ∨ x.destroyer.isSome = true then t.nullDesc r hostNull (d.fld 0 6)
    else (t.putRing (pairKey r.part (d.fld 0 6)) { x with destroyer := some r }).destroyLook (pairKey r.part (d.fld 0 6)) := by
  unfold State.runRingDestroy
  dsimp only
  rw [h]
  exact if_congr (by simp [or_assoc]) rfl rfl

theorem runRingDestroy_of_none (h : t.ring? (pairKey r.part (d.fld 0 6)) = none) : t.runRingDestroy r d = t.nullDesc r hostNull (d.fld 0 6) := by
  simp only [State.runRingDestroy, h]

/-! ## Regions (R502, R506) -/

/-- What makes a region's registration a null resource whatever room its port has. -/
def regionBad (t : State) (r : DRef) (d : Desc) : Prop :=
  d.at 28 2 = 0 ∨ d.fld 0 64 % mib2 ≠ 0 ∨ ∃ i, i < d.fld 64 32 ∧ rtFind (t.part r.part).rt (d.fld 0 64 + i * mib2) = none

theorem regionBad_iff (t : State) (r : DRef) (d : Desc) : regionBad t r d ↔ (d.at 28 2 = 0 || d.fld 0 64 % mib2 != 0 ||
    !(List.range (d.fld 64 32)).all (fun i => (rtFind (t.part r.part).rt (d.fld 0 64 + i * mib2)).isSome)) = true := by
  simp [regionBad, or_assoc]

section
variable (hlo : 0 < d.fld 64 32) (hhi : d.fld 64 32 ≤ 2 ^ 21)
include hlo hhi

/-- A registration of 1 to 2^21 units is held to nothing. -/
theorem runRegion_eq : t.runRegion r d = match t.regionFit (t.portOf r.part) (d.fld 64 32), tfree (t.port (t.portOf r.part)).regions 4096 with
    | some o, some g => if d.at 28 2 = 0 || d.fld 0 64 % mib2 != 0 || !(List.range (d.fld 64 32)).all (fun i => (rtFind (t.part r.part).rt (d.fld 0 64 + i * mib2)).isSome)
        then t.nullDesc r hostNull (d.fld 0 64)
        else (t.modPort (t.portOf r.part) (fun h => { h with regions := tput h.regions g ⟨r.part, d.fld 0 64, d.fld 64 32, d.at 28 2, o, none⟩ })).complete r 0
          false (g + o * 2 ^ 16)
    | _, _ => t.nullDesc r hostNull (d.fld 0 64) := by
  have hn : Nat.min (2 ^ 21) (Nat.max 1 (d.fld 64 32)) = d.fld 64 32 := by
    rw [show Nat.max 1 (d.fld 64 32) = d.fld 64 32 from Nat.max_eq_right hlo, show Nat.min (2 ^ 21) (d.fld 64 32) = d.fld 64 32 from Nat.min_eq_right hhi]
  unfold State.runRegion
  simp only [if_neg (Nat.pos_iff_ne_zero.mp hlo), if_neg (Nat.not_lt.mpr hhi), hn] <;> rfl

theorem runRegion_of_null (h : regionBad t r d ∨ t.regionFit (t.portOf r.part) (d.fld 64 32) = none ∨
    tfree (t.port (t.portOf r.part)).regions 4096 = none) : t.runRegion r d = t.nullDesc r hostNull (d.fld 0 64) := by
  rw [runRegion_eq hlo hhi]
  split
  next o g ho hg =>
    have hbad : regionBad t r d := by simpa [ho, hg] using h
    exact if_pos ((regionBad_iff t r d).mp hbad)
  · rfl

theorem runRegion_of_fit {o g : Nat} (h : ¬ regionBad t r d) (ho : t.regionFit (t.portOf r.part) (d.fld 64 32) = some o)
    (hg : tfree (t.port (t.portOf r.part)).regions 4096 = some g) : t.runRegion r d =
      (t.modPort (t.portOf r.part) (fun h => { h with regions := tput h.regions g ⟨r.part, d.fld 0 64, d.fld 64 32, d.at 28 2, o, none⟩ })).complete r 0
        false (g + o * 2 ^ 16) := by
  rw [runRegion_eq hlo hhi, ho, hg]
  exact if_neg fun hb => h ((regionBad_iff t r d).mpr hb)

end

theorem runRegionRelease_of_own {x : Region} (h : tget? (t.port (t.portOf r.part)).regions (d.fld 0 12) = some x) (hp : x.part = r.part)
    (hr : x.releasing = none) : t.runRegionRelease r d =
      (t.modPort (t.portOf r.part) (fun h => { h with regions := tput h.regions (d.fld 0 12) { x with releasing := some r } })).regionsLook
        (t.portOf r.part) := by
  unfold State.runRegionRelease
  dsimp only
  rw [h]
  exact if_neg (by simp [hp, hr])

theorem runRegionRelease_of_null
    (h : ∀ x, tget? (t.port (t.portOf r.part)).regions (d.fld 0 12) = some x → x.part ≠ r.part ∨ x.releasing.isSome = true) :
    t.runRegionRelease r d = t.nullDesc r hostNull (d.fld 0 12) := by
  unfold State.runRegionRelease
  dsimp only
  split
  · rfl
  next x hx => exact if_pos (by simpa using h x hx)

end

/-! ## BAR2 accesses (R503 to R506) -/

theorem wakeBar2_asking (s : State) : s.wakeBar2.tiers.asking = s.tiers.asking := by
  unfold State.wakeBar2 State.wake
  dsimp only
  repeat' split
  all_goals rfl

section
variable {s : State} {q : Nat} {x : Bar2Req}

/-- An access to a region that is being released is a miss. -/
theorem bar2Arrive_of_releasing {g : Region} (h : s.regionAt? q x.ofs = some g) (hg : g.releasing.isSome = true) :
    s.bar2Arrive q x = if x.data.isNone then (s.bar2Miss q x.ofs).answered .unsupported else s.bar2Miss q x.ofs := by
  unfold State.bar2Arrive
  rw [h]
  exact if_neg (by simpa using Option.ne_none_iff_isSome.mpr hg)

/-- Any other access is taken. -/
theorem bar2Arrive_of_standing (h : ¬ ∃ g, s.regionAt? q x.ofs = some g ∧ g.releasing.isSome = true) : s.bar2Arrive q x = s.bar2Take q x := by
  unfold State.bar2Arrive
  split
  next g hg =>
    have hno : g.releasing = none := by
      by_contra hne
      exact h ⟨g, hg, Option.ne_none_iff_isSome.mp hne⟩
    exact if_pos (by rw [hno]; rfl)
  · rfl

/-- What an access waits for. -/
def bar2Busy (s : State) (q ofs : Nat) : Prop :=
  (s.port q).waiting ≠ [] ∨ s.hostStopped q = true ∨ ∃ g, s.regionAt? q ofs = some g ∧ (s.memWaits g.part = true ∨ s.rd F.pwrMstate = 2)

theorem bar2Busy_iff (s : State) (q ofs : Nat) : bar2Busy s q ofs ↔ ((s.port q).waiting != [] || s.hostStopped q || (match s.regionAt? q ofs with
    | some g => s.memWaits g.part || s.rd F.pwrMstate == 2
    | none => false)) = true := by
  unfold bar2Busy
  rw [Bool.or_eq_true, Bool.or_eq_true, bne_iff_ne, or_assoc]
  cases s.regionAt? q ofs with
  | none => simp
  | some g => simp

theorem bar2Take_of_busy (h : bar2Busy s q x.ofs) : s.bar2Take q x = s.modPort q (fun h => { h with waiting := h.waiting ++ [x] }) :=
  if_pos ((bar2Busy_iff s q x.ofs).mp h)

/-- An access that nothing holds up and that lacks no granule is carried out at once. -/
theorem bar2Take_of_atHand {y : State} (h : ¬ bar2Busy s q x.ofs) (ha : s.tiers.asking = none) (hy : (s.asks (.bar2 q)).bar2Run q x = y)
    (hh : y.atHand (.bar2 q)) : s.bar2Take q x = y.ran (.bar2 q) := by
  have hrun := demandRun_of_atHand (f := fun s => s.bar2Run q x) ha hy hh
  have hfst : (s.demandRun (.bar2 q) (fun s => s.bar2Run q x)).1 = false := by
    subst hy
    have hh' : ((s.setTiers fun z => { z with asking := some (.bar2 q) }).bar2Run q x).demandWaits (.bar2 q) = false := hh
    simp [State.demandRun, State.demandTry, State.demandGet, ha, hh']
  unfold State.bar2Take
  refine (if_neg fun hb => h ((bar2Busy_iff s q x.ofs).mpr hb)).trans ?_
  rw [show s.demandRun (.bar2 q) (fun s => s.bar2Run q x) = (false, y.ran (.bar2 q)) from Prod.ext hfst hrun]

end

section
variable {v u : State} {q ofs n : Nat} {p pva : Nat} {bs : List Byte}

theorem bar2Run_read_miss (h : v.bar2Find q ofs n false = (none, u)) : v.bar2Run q ⟨ofs, n, none⟩ = (u.bar2Miss q ofs).answered .unsupported := by
  simp only [State.bar2Run, h]

theorem bar2Run_read_hit (h : v.bar2Find q ofs n false = (some (p, pva), u)) : v.bar2Run q ⟨ofs, n, none⟩ =
    (u.readPva (u.engCtx p engBar2) pva n).2.answered (.data (u.readPva (u.engCtx p engBar2) pva n).1.bytes (u.readPva (u.engCtx p engBar2) pva n).1.poison) := by
  simp only [State.bar2Run, h]

theorem bar2Run_write_miss (h : v.bar2Find q ofs bs.length true = (none, u)) : v.bar2Run q ⟨ofs, n, some bs⟩ = u.bar2Miss q ofs := by
  simp only [State.bar2Run, h]

theorem bar2Run_write_hit (h : v.bar2Find q ofs bs.length true = (some (p, pva), u)) : v.bar2Run q ⟨ofs, n, some bs⟩ =
    (u.writePva (u.engCtx p engBar2) pva bs false).2 := by
  simp only [State.bar2Run, h]

end

/-! ## The size of BAR2 (R504) -/

@[simp] theorem modLife_ports (s : State) (d : DRef) (f : Ring → Ring) : (s.modLife d f).host.ports = s.host.ports := by
  unfold State.modLife
  dsimp only
  repeat' split
  all_goals rfl

@[simp] theorem complete_port (s : State) (d : DRef) (status result : Nat) (noop : Bool) (q : Nat) : (s.complete d status noop result).port q = s.port q := by
  unfold State.complete
  split
  · rfl
  · exact congrArg (fun t => tgetD t q HPort.init) (modLife_ports _ _ _)

@[simp] theorem ringEvent_port (s : State) (q part ring cause : Nat) (r : Option Ring) (count extra k : Nat) :
    (s.ringEvent q part ring cause r count extra).port k = s.port k := by
  unfold State.ringEvent
  dsimp only
  split <;> rfl

@[simp] theorem ringEvent_regs (s : State) (q part ring cause : Nat) (r : Option Ring) (count extra : Nat) :
    (s.ringEvent q part ring cause r count extra).regs = s.regs := by
  unfold State.ringEvent
  dsimp only
  split <;> rfl

/-- A region that no longer fits, released. -/
def evict (q : Nat) (s : State) (e : Nat × Region) : State :=
  let s := (s.modPort q (fun h => { h with regions := tdel h.regions e.1 })).ringEvent q e.2.part 0xFF 7 none 1 (e.2.ofs * mib2)
  match e.2.releasing with
  | some r => s.done r
  | none => s

theorem evict_regs (q : Nat) (s : State) (e : Nat × Region) : (evict q s e).regs = s.regs := by
  unfold evict State.done
  dsimp only
  split
  · rw [complete_regs, ringEvent_regs]
    rfl
  · rw [ringEvent_regs]
    rfl

theorem evict_regions (q : Nat) (s : State) (e : Nat × Region) : ((evict q s e).port q).regions = tdel (s.port q).regions e.1 := by
  unfold evict State.done
  dsimp only
  split
  · rw [complete_port, ringEvent_port, port_modPort_same]
  · rw [ringEvent_port, port_modPort_same]

theorem foldl_evict_regions (q : Nat) (l : List (Nat × Region)) (s : State) :
    ((l.foldl (evict q) s).port q).regions = (s.port q).regions.filter (fun e => !(l.map Prod.fst).contains e.1) := by
  induction l generalizing s with
  | nil => simp
  | cons x l ih =>
    rw [List.foldl_cons, ih, evict_regions, tdel, List.filter_filter]
    refine congrFun (congrArg _ (funext fun e => ?_)) _
    simp only [List.map_cons, List.contains_cons, Bool.not_or, bne]
    exact Bool.and_comm _ _

/-- In a table in rising order of its keys, an entry is found by its key. -/
theorem eq_of_mem_of_key_eq {α : Type} {t : List (Nat × α)} (h : keysRising t = true) {a b : Nat × α} (ha : a ∈ t) (hb : b ∈ t) (hk : a.1 = b.1) : a = b := by
  have hnd : (t.map Prod.fst).Nodup := ((keysRising_iff t).mp h).imp Nat.ne_of_lt
  exact List.inj_on_of_nodup_map hnd ha hb hk

/-- To delete the entries of which f holds by their keys keeps the others. -/
theorem filter_keys_of_rising {α : Type} {t : List (Nat × α)} (h : keysRising t = true) (f : Nat × α → Bool) :
    t.filter (fun e => !((t.filter f).map Prod.fst).contains e.1) = t.filter (fun e => !f e) := by
  refine List.filter_congr fun e he => congrArg (!·) ?_
  rw [Bool.eq_iff_iff, List.contains_iff_mem, List.mem_map]
  constructor
  · rintro ⟨x, hx, hk⟩
    obtain ⟨hxt, hfx⟩ := List.mem_filter.mp hx
    rwa [← eq_of_mem_of_key_eq h hxt he hk]
  · exact fun hf => ⟨e, List.mem_filter.mpr ⟨he, hf⟩, rfl⟩

theorem bar2Resize_eq (s : State) (q log : Nat) : s.bar2Resize q log =
    (((s.port q).regions.filter (fun e => decide ((s.wr F.hpBar2Log log q).bar2Units q < e.2.ofs + e.2.len))).foldl (evict q) (s.wr F.hpBar2Log log q)) := rfl

theorem rd_bar2Resize (s : State) (q : Nat) (log : Fin 7) : (s.bar2Resize q log.val).rd F.hpBar2Log q = log.val := by
  rw [bar2Resize_eq]
  refine (foldl_keeps (P := fun w : State => w.rd F.hpBar2Log q = (s.wr F.hpBar2Log log.val q).rd F.hpBar2Log q) _
    (fun w e _ hw => (rd_congr (evict_regs q w e) _ _ _).trans hw) rfl).trans ?_
  rw [rd_wr_same]
  exact Nat.mod_eq_of_lt (Nat.lt_trans log.isLt (by decide))

theorem bar2Resize_regions {s : State} {q : Nat} (h : keysRising (s.port q).regions = true) (log : Fin 7) :
    ((s.bar2Resize q log.val).port q).regions = (s.port q).regions.filter (fun e => decide (e.2.ofs + e.2.len ≤ 2 ^ (15 + log.val))) := by
  have hunits : (s.wr F.hpBar2Log log.val q).bar2Units q = 2 ^ (15 + log.val) := by
    rw [State.bar2Units, rd_wr_same]
    exact congrArg (fun n => 2 ^ (15 + n)) (Nat.mod_eq_of_lt (Nat.lt_trans log.isLt (by decide)))
  rw [bar2Resize_eq, foldl_evict_regions, hunits, port_wr, filter_keys_of_rising h]
  refine List.filter_congr fun e _ => ?_
  rw [← decide_not]
  exact decide_eq_decide.mpr Nat.not_lt


/-! ## The obligation -/

/-- A BAR2 access of a port with its link up that nothing holds up and that lacks no granule. -/
theorem bar2_of_atHand {s y : State} {q : Nat} {x : Bar2Req} (ha : s.tiers.asking = none)
    (hg : ¬ ∃ g, s.wakeBar2.regionAt? q x.ofs = some g ∧ g.releasing.isSome = true) (hb : ¬ bar2Busy s.wakeBar2 q x.ofs)
    (hy : (s.wakeBar2.asks (.bar2 q)).bar2Run q x = y) (hh : y.atHand (.bar2 q)) : s.wakeBar2.bar2Arrive q x = y.ran (.bar2 q) :=
  (bar2Arrive_of_standing hg).trans (bar2Take_of_atHand hb ((wakeBar2_asking s).trans ha) hy hh)

theorem bar2_of_busy {s : State} {q : Nat} {x : Bar2Req} (hg : ¬ ∃ g, s.regionAt? q x.ofs = some g ∧ g.releasing.isSome = true)
    (hb : bar2Busy s q x.ofs) : s.bar2Arrive q x = s.modPort q (fun h => { h with waiting := h.waiting ++ [x] }) :=
  (bar2Arrive_of_standing hg).trans (bar2Take_of_busy hb)

/-- Settles O57: each command and descriptor by its guards; a resize deletes exactly the regions that no longer fit, for in a table
in rising order an entry is found by its key. -/
theorem ringsRegionsAndMessages : Obligations.RingsRegionsAndMessages := by
  refine ⟨fun q s => ⟨?_, ?_, ?_, fun _ _ => rfl, ?_, ?_, ?_, ?_, ?_⟩, fun p n s => ⟨?_, ?_⟩, fun op d s r t hop hs => ?_,
    fun d s r t hs => ?_, fun d s r t hs => ⟨?_, ?_⟩, fun d s r t hs hlo hhi => ?_, fun d s r t hs => ?_⟩
  case refine_1 => exact fun reads h => next_closed (pollRound_of_down h reads)
  case refine_2 =>
    intro reads h work t hwork hidle u
    refine next_closed ((pollRound_of_up h reads).trans ?_)
    refine congrArg (fun v => polled v q.val reads) ?_
    by_cases hw : pollWork s q.val reads = true
    · rw [if_pos hw]
      exact (hwork ((pollWork_iff s q.val reads).mp hw)).symm
    · rw [if_neg hw]
      exact (hidle fun h => hw ((pollWork_iff s q.val reads).mpr h)).symm
  case refine_3 => exact next_flush (if_congr (by simp [flag_iff]) rfl rfl)
  case refine_4 => exact fun v x hx hp hm => ⟨_, rfl, msixMask_of_pending hx hp hm⟩
  case refine_5 => exact fun ofs len h => next_flush (if_neg (Bool.eq_false_iff.mp h))
  case refine_6 => exact fun ofs data h => next_flush (if_neg (Bool.eq_false_iff.mp h))
  case refine_7 =>
    intro ofs len data hl ha w v gone busy queue
    have hread : ∀ {y : State}, s.bar2Read q.val ofs.toNat (len.toNat + 1) = y → exec (.bar2Read q ofs len) s = .next y.flush :=
      fun h => next_flush ((if_pos hl).trans h)
    have hwrite : ∀ {y : State}, s.bar2Write q.val ofs.toNat data = y → exec (.bar2Write q ofs data) s = .next y.flush :=
      fun h => next_flush ((if_pos hl).trans h)
    refine ⟨?_, fun hg hb => ⟨hread (bar2_of_busy hg hb), hwrite (bar2_of_busy hg hb)⟩, ?_, ?_, ?_, ?_⟩
    · rintro ⟨g, hg, hr⟩
      exact ⟨hread (bar2Arrive_of_releasing (x := ⟨ofs.toNat, len.toNat + 1, none⟩) hg hr),
        hwrite (bar2Arrive_of_releasing (x := ⟨ofs.toNat, data.length, some data⟩) hg hr)⟩
    · exact fun u hg hb hf hh => hread (bar2_of_atHand (x := ⟨ofs.toNat, len.toNat + 1, none⟩) ha hg hb (bar2Run_read_miss hf) hh)
    · exact fun p pva u hg hb hf hh => hread (bar2_of_atHand (x := ⟨ofs.toNat, len.toNat + 1, none⟩) ha hg hb (bar2Run_read_hit hf) hh)
    · exact fun u hg hb hf hh => hwrite (bar2_of_atHand (x := ⟨ofs.toNat, data.length, some data⟩) ha hg hb (bar2Run_write_miss hf) hh)
    · exact fun p pva u hg hb hf hh => hwrite (bar2_of_atHand (x := ⟨ofs.toNat, data.length, some data⟩) ha hg hb (bar2Run_write_hit hf) hh)
  case refine_8 => exact fun log => ⟨_, rfl, rd_bar2Resize s q.val log, fun h => bar2Resize_regions h log⟩
  case refine_9 => exact fun h => next_flush (coalesce_of_none h)
  case refine_10 => exact fun r h => next_flush (coalesce_of_ring h)
  case refine_11 =>
    intro y hh
    have hrun : runOp op.toNat r d t = y := by
      unfold runOp
      rw [hop]
    refine (next_flush ?_).trans (flushed_descriptor hs hrun hh)
    exact if_neg (by rw [hop]; simp)
  case refine_12 =>
    exact ⟨fun hb hh => flushed_descriptor hs (runRingCreate_of_refused hb) hh,
      fun hb h1 h2 h3 hh => flushed_descriptor hs (runRingCreate_of_free hb h1 h2 h3) hh⟩
  case refine_13 => exact fun x hx hh => flushed_descriptor hs (runRingDestroy_of_ring hx) hh
  case refine_14 => exact fun hx hh => flushed_descriptor hs (runRingDestroy_of_none hx) hh
  case refine_15 =>
    exact ⟨fun h hh => flushed_descriptor hs (runRegion_of_null hlo hhi h) hh,
      fun o g hb ho hg hh => flushed_descriptor hs (runRegion_of_fit hlo hhi hb ho hg) hh⟩
  case refine_16 =>
    exact ⟨fun x hx hp hr hh => flushed_descriptor hs (runRegionRelease_of_own hx hp hr) hh,
      fun h hh => flushed_descriptor hs (runRegionRelease_of_null h) hh⟩

end Sys2Proof.Machine.RegionLaws
end

section
/-! PROOF. Register accesses and the seals (14_host_interface.md, R15, R500, R501, R532 to R535, R553; 15_partitions_security.md, R548): O58. -/
namespace Sys2Proof.Machine.SealLaws
open Sys2Proof Sys2Proof.Machine.Laws Sys2Proof.Machine.ClockLaws Sys2Proof.Machine.BoundaryLaws Sys2Proof.Machine.MemoryLaws
  Sys2Proof.Machine.PortLaws Sys2Proof.Machine.HostLaws

/-! ## Single bits of a field -/

theorem bitN_eq_testBit (x i : Nat) : bitN x i = x.testBit i := by
  rw [Nat.testBit_eq_decide_div_mod_eq, bitN, Nat.shiftRight_eq_div_pow]
  rfl

theorem bitN_mod_two_pow {i w : Nat} (h : i < w) (x : Nat) : bitN (x % 2 ^ w) i = bitN x i := by
  rw [bitN_eq_testBit, bitN_eq_testBit, Nat.testBit_mod_two_pow]
  simp [h]

/-- A bit that is set to v then reads v. -/
theorem bitN_setFld_same (x i v : Nat) : bitN (setFld x i 1 v) i = (v % 2 == 1) := by
  have hpos : 0 < 2 ^ i := Nat.two_pow_pos i
  have hdiv : (x - x / 2 ^ i % 2 * 2 ^ i + v % 2 * 2 ^ i) / 2 ^ i = x / 2 ^ i - x / 2 ^ i % 2 + v % 2 := by
    rw [Nat.add_mul_div_right _ _ hpos, Nat.mul_comm (x / 2 ^ i % 2), Nat.sub_mul_div]
  simp only [bitN, setFld, fldN, Nat.shiftRight_eq_div_pow, pow_one, hdiv]
  congr 1
  omega

/-! ## Accesses to BAR0 (R500, R522, R553) -/

section
variable {s : State} {q a n v : Nat}

theorem barWrite_of_down (h : s.hostUp q = false) : s.barWrite q a n v = s := by
  simp only [State.barWrite, h, Bool.not_false, if_true]

theorem barWrite_of_whole (h : s.hostUp q = true) (ha : a % 4 = 0) : s.barWrite q a 4 v = s.regWrite q a v := by
  unfold State.barWrite
  rw [if_neg (by simp [h]), if_neg (by simp [ha])]

theorem barWrite_of_nowhere (h : s.hostUp q = true) (hn : n ≠ 4 ∨ a % 4 ≠ 0) (hl : locateReg (a - a % 4) = none) : s.barWrite q a n v = s := by
  unfold State.barWrite
  rw [if_neg (by simp [h]), if_pos (by simpa using hn), hl]

theorem barWrite_of_piece {blk : Blk} {b o : Nat} (h : s.hostUp q = true) (hn : n ≠ 4 ∨ a % 4 ≠ 0) (hl : locateReg (a - a % 4) = some (blk, b, o)) :
    ∃ x y, s.barWrite q a n v = s.clampReg q (if blk = .part then some b else none) 3 0x0E01 a x y := by
  unfold State.barWrite
  rw [if_neg (by simp [h]), if_pos (by simpa using hn), hl]
  exact ⟨_, _, rfl⟩

theorem barRead_of_down (h : s.hostUp q = false) : s.barRead q a n = s := by
  simp only [State.barRead, h, Bool.not_false, if_true]

theorem barRead_of_crossing (h : s.hostUp q = true) (hn : 4 < a % 4 + n) : s.barRead q a n = s.answered .unsupported := by
  unfold State.barRead
  rw [if_neg (by simp [h]), if_pos (by simp [hn])]

theorem barRead_of_inside {t : State} (h : s.hostUp q = true) (h0 : 0 < n) (hn : a % 4 + n ≤ 4) (hr : s.regRead q (a - a % 4) = (v, t)) :
    s.barRead q a n = t.answered (.data (bytesAt (leBytes 4 v) (a % 4) n) false) := by
  unfold State.barRead
  rw [if_neg (by simp [h]), if_neg (by simp [Nat.pos_iff_ne_zero.mp h0, hn]), hr]

/-- The bytes of a register that reads zero. -/
theorem bytesAt_zero (h : a % 4 + n ≤ 4) : bytesAt (leBytes 4 0) (a % 4) n = List.replicate n 0 := by
  have hall : ∀ x y : Fin 5, x.val + y.val ≤ 4 → bytesAt (leBytes 4 0) x.val y.val = List.replicate y.val 0 := by decide
  exact hall ⟨a % 4, by omega⟩ ⟨n, by omega⟩ h

theorem regRead_of_hidden {b o : Nat} (hl : locateReg a = some (.part, b, o)) (hc : s.rd F.pConf b = 1) (hp : s.portOf b ≠ q) :
    s.regRead q a = (0, s) := by
  unfold State.regRead
  rw [hl]
  exact if_pos (by simp [State.confidential, (flag_iff s F.pConf b).mpr hc, hp])

theorem regRead_of_plain {blk : Blk} {b o : Nat} (hl : locateReg a = some (blk, b, o))
    (hc : blk = .part → s.rd F.pConf b = 1 → s.portOf b = q) (hw : wideHit blk o = none) : s.regRead q a = (s.regNow blk b o, s) := by
  have hshown : ¬ (decide (blk = .part) && s.confidential b && s.portOf b != q) = true := by
    simp only [State.confidential, Bool.and_eq_true, decide_eq_true_eq, bne_iff_ne, flag_iff, not_and, ne_eq, not_not]
    exact fun ⟨hb, h1⟩ => hc hb h1
  unfold State.regRead
  rw [hl]
  dsimp only
  rw [if_neg hshown, hw]

/-- A register written through a port that is not its block's. -/
theorem regWrite_of_foreign {blk : Blk} {b o : Nat} (hb : blk ≠ .ident) (hl : locateReg a = some (blk, b, o)) (ho : s.ownerPort blk b ≠ some q) :
    s.regWrite q a v = s.clampReg q (if blk = .part then some b else none) 6 0x0E09 a v 0 := by
  unfold State.regWrite
  rw [hl]
  dsimp only
  rw [if_neg hb, if_pos (bne_iff_ne.mpr ho)]

section
variable {blk : Blk} {b o : Nat} {f : Fld} {i k : Nat}

theorem fieldWrite_of_ro (h : f.acc = .ro) : s.fieldWrite q blk b o a v (f, i, k) = s := by
  simp only [State.fieldWrite, h]

theorem fieldWrite_of_locked (h : f.acc = .rwl) (hl : s.blkLocked blk b = true) : s.fieldWrite q blk b o a v (f, i, k) =
    if fldN v f.lo f.w = s.rd f b i then s else
      s.clampReg q (if blk = .part then some b else none) 4 f.code a (fldN v f.lo f.w) (s.rd f b i) := by
  simp only [State.fieldWrite, h, hl, decide_true, Bool.true_and, if_true]

end
end

/-! ## Writes of the seals (R501, R533, R624) -/

section
variable {s : State} {q p : Nat}

theorem msealWrite_of_not_ready (h : s.rst.ready = false) : s.msealWrite q = s.clampReg q none 9 0x0C03 (F.idMseal.addr 0 0) 1 0 := by
  simp only [State.msealWrite, h, Bool.not_false, if_true]

theorem msealWrite_of_foreign (h : s.rst.ready = true) (hq : q ≠ s.rd F.hpSetupPt 0) :
    s.msealWrite q = s.clampReg q none 6 0x0E09 (F.idMseal.addr 0 0) 1 0 := by
  have hne : (q != s.setupPort) = true := bne_iff_ne.mpr hq
  simp only [State.msealWrite, h, hne, Bool.not_true, Bool.false_eq_true, if_false, if_true]

theorem msealWrite_of_setup (h : s.rst.ready = true) (hq : q = s.rd F.hpSetupPt 0) :
    s.msealWrite q = if s.rd F.idMsealed = 1 ∨ SealChange.module ∈ s.host.sealing then s else s.sealBegin .module := by
  have heq : (q != s.setupPort) = false := by rw [hq, State.setupPort]; simp
  simp only [State.msealWrite, h, heq, Bool.not_true, Bool.false_eq_true, if_false]
  exact if_congr (by simp [State.moduleLocked, flag_iff]) rfl rfl

/-- The register of a partition's seal bit, and the bit. -/
theorem sealBit_eq (p : PartId) : (if p.val < 32 then 2 ^ p.val else 2 ^ (p.val - 32)) = 2 ^ (p.val % 32) := by
  have hp := p.isLt
  split
  next h => rw [Nat.mod_eq_of_lt h]
  next h =>
    congr 1
    omega

theorem psealWrite_eq (s : State) (q : Nat) (p : PartId) : s.psealWrite q p.val =
    (if !s.rst.ready then s.clampReg q none 9 0x0C03 (if p.val < 32 then F.idPsealL.addr 0 0 else F.idPsealH.addr 0 0) (2 ^ (p.val % 32)) 0
    else if s.pstate p.val = 0 || s.pstate p.val = 3 then
      s.clampReg q none 9 0x0E0B (if p.val < 32 then F.idPsealL.addr 0 0 else F.idPsealH.addr 0 0) (2 ^ (p.val % 32)) 0
    else if q != s.portOf p.val then
      s.clampReg q none 6 0x0E09 (if p.val < 32 then F.idPsealL.addr 0 0 else F.idPsealH.addr 0 0) (2 ^ (p.val % 32)) 0
    else if s.partLocked p.val then s
    else s.sealBegin (.part p.val)) := by
  unfold State.psealWrite
  rw [sealBit_eq]

section
variable {p : PartId} (h : s.rst.ready = true)
include h

theorem psealWrite_of_dead (hd : s.rd F.pPstate p.val = 0 ∨ s.rd F.pPstate p.val = 3) : s.psealWrite q p.val =
    s.clampReg q none 9 0x0E0B (if p.val < 32 then F.idPsealL.addr 0 0 else F.idPsealH.addr 0 0) (2 ^ (p.val % 32)) 0 := by
  rw [psealWrite_eq, if_neg (by simp [h]), if_pos (by rw [Bool.or_eq_true, decide_eq_true_eq, decide_eq_true_eq]; exact hd)]

variable (hd : ¬ (s.rd F.pPstate p.val = 0 ∨ s.rd F.pPstate p.val = 3))
include hd

theorem psealWrite_of_foreign (hq : q ≠ s.portOf p.val) : s.psealWrite q p.val =
    s.clampReg q none 6 0x0E09 (if p.val < 32 then F.idPsealL.addr 0 0 else F.idPsealH.addr 0 0) (2 ^ (p.val % 32)) 0 := by
  rw [psealWrite_eq, if_neg (by simp [h]), if_neg (by rw [Bool.or_eq_true, decide_eq_true_eq, decide_eq_true_eq]; exact hd), if_pos (bne_iff_ne.mpr hq)]

theorem psealWrite_of_own (hq : q = s.portOf p.val) : s.psealWrite q p.val =
    if s.psealed p.val = true ∨ SealChange.part p.val ∈ s.host.sealing then s else s.sealBegin (.part p.val) := by
  rw [psealWrite_eq, if_neg (by simp [h]), if_neg (by rw [Bool.or_eq_true, decide_eq_true_eq, decide_eq_true_eq]; exact hd), if_neg (by simp [hq])]
  exact if_congr (by simp [State.partLocked]) rfl rfl

end

theorem psealWrite_of_not_ready {p : PartId} (h : s.rst.ready = false) : s.psealWrite q p.val =
    s.clampReg q none 9 0x0C03 (if p.val < 32 then F.idPsealL.addr 0 0 else F.idPsealH.addr 0 0) (2 ^ (p.val % 32)) 0 := by
  rw [psealWrite_eq, if_pos (by simp [h])]

end

/-! ## The guarantees checked (R307) -/

@[simp] theorem clampReg_regs (s : State) (q : Nat) (part : Option Nat) (r f a x y : Nat) : (s.clampReg q part r f a x y).regs = s.regs := by
  cases part <;> rfl

@[simp] theorem clampReg_host (s : State) (q : Nat) (part : Option Nat) (r f a x y : Nat) : (s.clampReg q part r f a x y).host = s.host := by
  cases part <;> rfl

/-- A minimum taken over a list is at most what it starts from. -/
theorem foldl_le {α : Type} {f : Nat → α → Nat} (h : ∀ g x, f g x ≤ g) (l : List α) (g : Nat) : l.foldl f g ≤ g := by
  induction l generalizing g with
  | nil => exact Nat.le_refl g
  | cons x l ih => exact (ih _).trans (h g x)

theorem guarMost_le (s : State) (ps : List Nat) (p : Nat) : s.guarMost ps p ≤ s.rd F.pGuarFr p := by
  refine foldl_le (fun g n => ?_) _ _
  dsimp only
  split
  · exact Nat.le_refl g
  · exact Nat.min_le_left _ _

/-- A guarantee check raises no GUAR_FR. -/
theorem guarCheck_le (s : State) (q : Nat) (ps : List Nat) (p x : Nat) : (s.guarCheck q ps p).2.rd F.pGuarFr x ≤ s.rd F.pGuarFr x := by
  unfold State.guarCheck
  dsimp only
  split
  · exact Nat.le_refl _
  · rw [rd_congr (clampReg_regs _ _ _ _ _ _ _ _)]
    by_cases hx : p = x
    · rw [hx, rd_wr_same]
      exact (Nat.mod_le _ _).trans (guarMost_le s ps x)
    · rw [rd_wr_other _ _ _ _ _ _ _ _ (key_ne_of_addr_ne (by decide) (by decide) ?_)]
      simp only [Fld.addr, Blk.base, F.pGuarFr]
      omega

@[simp] theorem guarCheck_host (s : State) (q : Nat) (ps : List Nat) (p : Nat) : (s.guarCheck q ps p).2.host = s.host := by
  unfold State.guarCheck
  dsimp only
  split
  · rfl
  · exact clampReg_host _ _ _ _ _ _ _ _

/-- The check of one partition more, behind those counted. -/
def guarStep (q : Nat) (a : Nat × List Nat × State) (p : Nat) : Nat × List Nat × State :=
  let (n, s) := a.2.2.guarCheck q a.2.1 p
  (a.1 + n, a.2.1 ++ [p], s)

theorem foldl_guarStep (q : Nat) (l : List Nat) (a : Nat × List Nat × State) : (l.foldl (guarStep q) a).2.2.host = a.2.2.host ∧
    ∀ x, (l.foldl (guarStep q) a).2.2.rd F.pGuarFr x ≤ a.2.2.rd F.pGuarFr x := by
  induction l generalizing a with
  | nil => exact ⟨rfl, fun x => Nat.le_refl _⟩
  | cons p l ih =>
    obtain ⟨hhost, hle⟩ := ih (guarStep q a p)
    exact ⟨hhost.trans (guarCheck_host _ _ _ _), fun x => (hle x).trans (guarCheck_le _ _ _ _ _)⟩

/-! ## Seal changes that end (R535) -/

@[simp] theorem busyLook_sealing (s : State) (q : Nat) : (s.busyLook q).host.sealing = s.host.sealing := by
  unfold State.busyLook
  split <;> rfl

@[simp] theorem sealingLook_sealing (s : State) : s.sealingLook.host.sealing = s.host.sealing := by
  unfold State.sealingLook
  rw [busyLook_sealing, busyLook_sealing]
  rfl

@[simp] theorem busyLook_parts (s : State) (q : Nat) : (s.busyLook q).parts = s.parts := by
  unfold State.busyLook
  split <;> rfl

@[simp] theorem sealingLook_part (s : State) (p : Nat) : s.sealingLook.part p = s.part p := by
  refine congrArg (fun t => tgetD t p PartState.init) ?_
  unfold State.sealingLook
  rw [busyLook_parts, busyLook_parts]
  rfl

/-- Of the registers, a look at the seal changes writes SEALING alone. -/
theorem rd_sealingLook {g : Fld} {b i : Nat} (h : F.idSealing.key 0 0 ≠ g.key b i) (s : State) : s.sealingLook.rd g b i = s.rd g b i := by
  unfold State.sealingLook
  rw [rd_busyLook, rd_busyLook, rd_wr_other _ _ _ _ _ _ _ _ h]

theorem sealEnd_of_none {s : State} {c : SealChange} (h : c ∉ s.host.sealing) : s.sealEnd c = s :=
  if_pos (by simp [h])

/-- The seal changes under way without one that ends. -/
def sealOff (s : State) (c : SealChange) : State := { s with host := { s.host with sealing := s.host.sealing.filter (fun x => x != c) } }

theorem not_mem_sealOff (s : State) (c : SealChange) : c ∉ (sealOff s c).host.sealing := by simp [sealOff]

/-- The module with every partition that is not free checked. -/
def moduleChecked (s : State) : Nat × List Nat × State :=
  ((List.range 36).filter (fun p => (sealOff s .module).pstate p != 0)).foldl (guarStep (sealOff s .module).setupPort) (0, [], sealOff s .module)

theorem sealEnd_module {s : State} (h : SealChange.module ∈ s.host.sealing) : s.sealEnd .module =
    (((moduleChecked s).2.2.wr F.idMsealed 1).sealingLook).sealEventAt (sealOff s .module).setupPort 1 noPart (moduleChecked s).1 :=
  if_neg (by simp [h])

theorem moduleSealed_of_end {s : State} (h : SealChange.module ∈ s.host.sealing) : (s.sealEnd .module).rd F.idMsealed = 1 ∧
    SealChange.module ∉ (s.sealEnd .module).host.sealing ∧ ∀ p < 36, (s.sealEnd .module).rd F.pGuarFr p ≤ s.rd F.pGuarFr p := by
  obtain ⟨hhost, hle⟩ := foldl_guarStep (sealOff s .module).setupPort ((List.range 36).filter (fun p => (sealOff s .module).pstate p != 0))
    (0, [], sealOff s .module)
  rw [sealEnd_module h]
  refine ⟨?_, ?_, fun p hp => ?_⟩
  · refine (rd_sealingLook ?_ _).trans ?_
    · exact PowerLaws.key_ne_of_lo_ne (by decide) (by decide) (by decide) _ _ _ _
    · exact rd_wr_same _ _ _ _ _
  · have hs : ((moduleChecked s).2.2.wr F.idMsealed 1).sealingLook.host.sealing = (sealOff s .module).host.sealing :=
      (sealingLook_sealing _).trans (congrArg (fun h : HostState => h.sealing) hhost)
    exact fun hm => not_mem_sealOff s .module (hs ▸ hm)
  · refine ((rd_sealingLook ?_ _).trans (rd_wr_other _ _ _ _ _ _ _ _ ?_)).le.trans (hle p)
    · exact PowerLaws.key_ne_of_lo_ne (by decide) (by decide) (by decide) _ _ _ _
    · refine key_ne_of_addr_ne (by decide) (by decide) ?_
      simp only [Fld.addr, Blk.base, F.idMsealed, F.pGuarFr]
      omega


/-- A partition with its memory key, drawn where it had none (R548). -/
def keyed (s : State) (p : Nat) : State := if thas (s.part p).keys 0 then s else (s.drawKey p).partEvent p 6 0 0

/-- A partition whose seal counts as set. -/
def sealedPart (s : State) (p : Nat) : State := ((s.setPsealed p true).wr F.pPstate 2 p).sealingLook

/-- The state in which a partition's guarantee has been checked beside the sealed ones. -/
def partChecked (s : State) (p : Nat) : Nat × State :=
  (sealOff s (.part p)).guarCheck ((sealOff s (.part p)).portOf p)
    ((List.range 36).filter (fun x => x != p && (sealOff s (.part p)).pstate x == 2)) p

/-- A partition's seal told to its rings: the seal event twice, the partition event of cause 2. -/
def sealTold (s : State) (q p n : Nat) : State := ((s.event 0x28 p [q, 2, p, n, s.tick]).sealEventAt q 2 p n).partEvent p 2 0 0

theorem sealTold_part (s : State) (q p n x : Nat) : (sealTold s q p n).part x = s.part x := rfl

theorem sealTold_host (s : State) (q p n : Nat) : (sealTold s q p n).host = s.host := rfl

theorem sealTold_regs (s : State) (q p n : Nat) : (sealTold s q p n).regs = s.regs := rfl

theorem sealEnd_part {s : State} {p : Nat} (h : SealChange.part p ∈ s.host.sealing) : s.sealEnd (.part p) =
    sealTold (sealedPart (keyed (partChecked s p).2 p) p) ((sealOff s (.part p)).portOf p) p (partChecked s p).1 :=
  if_neg (by simp [h])

theorem putKey_keys (s : State) (p slot key : Nat) : thas ((s.putKey p slot key).part p).keys slot = true := by
  simp [State.putKey, thas]

theorem keyed_keys (s : State) (p : Nat) : thas ((keyed s p).part p).keys 0 = true := by
  unfold keyed
  split
  next h => exact h
  · exact putKey_keys s.fresh.2 p 0 _

@[simp] theorem keyed_host (s : State) (p : Nat) : (keyed s p).host = s.host := by
  unfold keyed
  split <;> rfl

theorem rd_guarFr_keyed (s : State) (p : Nat) : (keyed s p).rd F.pGuarFr p = s.rd F.pGuarFr p := by
  have hkeys : F.pKeys.key p 0 ≠ F.pGuarFr.key p 0 := key_ne_of_addr_ne (by decide) (by decide) (by simp only [Fld.addr, Blk.base, F.pKeys, F.pGuarFr]; omega)
  have hgen : F.pMkeyGen.key p 0 ≠ F.pGuarFr.key p 0 := PowerLaws.key_ne_of_lo_ne (by decide) (by decide) (by decide) _ _ _ _
  have hdraw : (s.drawKey p).rd F.pGuarFr p = s.rd F.pGuarFr p := by
    unfold State.drawKey State.putKey
    dsimp only
    rw [rd_wr_other _ _ _ _ _ _ _ _ hgen, rd_wr_other _ _ _ _ _ _ _ _ hkeys, rd_modPart]
    rfl
  unfold keyed
  split
  · rfl
  · exact hdraw

section
variable (s : State) (p : PartId)

theorem psealed_setPsealed : (s.setPsealed p.val true).psealed p.val = true := by
  have hp := p.isLt
  by_cases h : p.val < 32
  · simp only [State.setPsealed, State.psealed, if_pos h, rd_wr_same]
    exact (bitN_mod_two_pow (w := 32) h _).trans (bitN_setFld_same _ _ _)
  · simp only [State.setPsealed, State.psealed, if_neg h, rd_wr_same]
    exact (bitN_mod_two_pow (w := 4) (by omega) _).trans (bitN_setFld_same _ _ _)

theorem psealed_sealedPart : (sealedPart s p.val).psealed p.val = true := by
  have hkey : ∀ f : Fld, f = F.idPsealedL ∨ f = F.idPsealedH → F.pPstate.key p.val 0 ≠ f.key 0 0 ∧ F.idSealing.key 0 0 ≠ f.key 0 0 := by
    intro f hf
    rcases hf with rfl | rfl
    all_goals
      refine ⟨key_ne_of_addr_ne (by decide) (by decide) ?_, by decide⟩
      simp only [Fld.addr, Blk.base, F.pPstate, F.idPsealedL, F.idPsealedH]
      omega
  have hrd : ∀ f : Fld, f = F.idPsealedL ∨ f = F.idPsealedH → (sealedPart s p.val).rd f = (s.setPsealed p.val true).rd f := by
    intro f hf
    obtain ⟨h1, h2⟩ := hkey f hf
    exact (rd_sealingLook h2 _).trans (rd_wr_other _ _ _ _ _ _ _ _ h1)
  rw [State.psealed, hrd _ (.inl rfl), hrd _ (.inr rfl)]
  exact psealed_setPsealed s p

theorem pstate_sealedPart : (sealedPart s p.val).rd F.pPstate p.val = 2 := by
  refine (rd_sealingLook ?_ _).trans (rd_wr_same _ _ _ _ _)
  exact PowerLaws.key_ne_of_lo_ne (by decide) (by decide) (by decide) _ _ _ _

@[simp] theorem setPsealed_part (v : Bool) (x : Nat) : (s.setPsealed p.val v).part x = s.part x := by
  unfold State.setPsealed
  split <;> rfl

@[simp] theorem setPsealed_host (v : Bool) : (s.setPsealed p.val v).host = s.host := by
  unfold State.setPsealed
  split <;> rfl

theorem sealedPart_part : (sealedPart s p.val).part p.val = s.part p.val := by
  unfold sealedPart
  rw [sealingLook_part, part_wr, setPsealed_part]

theorem sealedPart_sealing : (sealedPart s p.val).host.sealing = s.host.sealing := by
  unfold sealedPart
  rw [sealingLook_sealing, wr_host, setPsealed_host]

theorem rd_guarFr_sealedPart : (sealedPart s p.val).rd F.pGuarFr p.val = s.rd F.pGuarFr p.val := by
  have hne : ∀ f : Fld, f = F.idPsealedL ∨ f = F.idPsealedH → f.key 0 0 ≠ F.pGuarFr.key p.val 0 := by
    intro f hf
    rcases hf with rfl | rfl
    all_goals
      refine key_ne_of_addr_ne (by decide) (by decide) ?_
      simp only [Fld.addr, Blk.base, F.pGuarFr, F.idPsealedL, F.idPsealedH]
      omega
  have hset : (s.setPsealed p.val true).rd F.pGuarFr p.val = s.rd F.pGuarFr p.val := by
    unfold State.setPsealed
    split
    · exact rd_wr_other _ _ _ _ _ _ _ _ (hne _ (.inl rfl))
    · exact rd_wr_other _ _ _ _ _ _ _ _ (hne _ (.inr rfl))
  refine (rd_sealingLook ?_ _).trans ((rd_wr_other _ _ _ _ _ _ _ _ ?_).trans hset)
  · exact PowerLaws.key_ne_of_lo_ne (by decide) (by decide) (by decide) _ _ _ _
  · refine key_ne_of_addr_ne (by decide) (by decide) ?_
    simp only [Fld.addr, Blk.base, F.pPstate, F.pGuarFr]
    omega

end

theorem partSealed_of_end {s : State} {p : PartId} (h : SealChange.part p.val ∈ s.host.sealing) :
    (s.sealEnd (.part p.val)).psealed p.val = true ∧ (s.sealEnd (.part p.val)).rd F.pPstate p.val = 2 ∧
      thas ((s.sealEnd (.part p.val)).part p.val).keys 0 = true ∧ SealChange.part p.val ∉ (s.sealEnd (.part p.val)).host.sealing ∧
      (s.sealEnd (.part p.val)).rd F.pGuarFr p.val ≤ s.rd F.pGuarFr p.val := by
  rw [sealEnd_part h]
  have hrd : ∀ (f : Fld) b, (sealTold (sealedPart (keyed (partChecked s p.val).2 p.val) p.val) ((sealOff s (.part p.val)).portOf p.val) p.val
      (partChecked s p.val).1).rd f b = (sealedPart (keyed (partChecked s p.val).2 p.val) p.val).rd f b := fun f b => rd_congr (sealTold_regs _ _ _ _) f b 0
  refine ⟨?_, ?_, ?_, ?_, ?_⟩
  · rw [State.psealed, hrd, hrd]
    exact psealed_sealedPart _ p
  · rw [hrd]
    exact pstate_sealedPart _ p
  · rw [sealTold_part, sealedPart_part]
    exact keyed_keys _ _
  · have hs : (sealedPart (keyed (partChecked s p.val).2 p.val) p.val).host.sealing = (sealOff s (.part p.val)).host.sealing :=
      (sealedPart_sealing _ p).trans (congrArg (fun h : HostState => h.sealing) ((keyed_host _ _).trans (guarCheck_host _ _ _ _)))
    rw [sealTold_host, hs]
    exact not_mem_sealOff s (.part p.val)
  · rw [hrd]
    exact ((rd_guarFr_sealedPart _ p).trans (rd_guarFr_keyed _ _)).le.trans (guarCheck_le _ _ _ _ _)

/-! ## The obligation -/

/-- Settles O58: each access by the branch it takes; a seal's end keeps what it wrote through the look at the seal changes, and a
guarantee check takes a minimum. -/
theorem registerAccessAndSeals : Obligations.RegisterAccessAndSeals := by
  refine ⟨fun q addr s => ⟨?_, ?_, ?_, ?_, ?_, ?_, ?_, ?_, ?_, ?_⟩, fun q s => ?_, fun q s => ⟨?_, ?_, ?_, fun p => ?_⟩, fun s => ⟨?_, ?_, fun p => ⟨?_, ?_⟩⟩⟩
  case refine_1 => exact fun len v h => next_closed (barWrite_of_down h)
  case refine_2 =>
    intro len v h hn
    refine ⟨fun hl => next_closed (barWrite_of_nowhere h hn hl), fun blk b o hl => ?_⟩
    obtain ⟨x, y, hxy⟩ := barWrite_of_piece (v := v.toNat) h hn hl
    exact ⟨x, y, next_closed hxy⟩
  case refine_3 => exact fun v h ha => next_closed (barWrite_of_whole h ha)
  case refine_4 => exact fun blk b o v hb hl _ ho => regWrite_of_foreign hb hl ho
  case refine_5 => exact fun blk b o a v f i k => ⟨fieldWrite_of_ro, fieldWrite_of_locked⟩
  case refine_6 => exact fun len h => next_flush (barRead_of_down h)
  case refine_7 => exact fun len h hn => next_flush (barRead_of_crossing h hn)
  case refine_8 =>
    intro len b o h h0 hn hl hc hp
    refine next_flush ((barRead_of_inside h h0 hn (regRead_of_hidden hl hc hp)).trans ?_)
    rw [bytesAt_zero hn]
  case refine_9 => exact fun len blk b o h h0 hn hl hc hw => next_flush (barRead_of_inside h h0 hn (regRead_of_plain hl hc hw))
  case refine_10 => exact fun len => next_flush (if_congr (by simp) rfl rfl)
  case refine_11 =>
    intro on
    exact ⟨fun a v h => hostPut_of_up h a v, fun a v h => hostPut_of_down h a v, fun _ _ => rfl, fun _ _ _ => ⟨rfl, rfl⟩, fun _ => rfl,
      fun _ => ⟨rfl, rfl, rfl, rfl⟩, rfl, rfl⟩
  case refine_12 => exact fun h => next_flush (msealWrite_of_not_ready h)
  case refine_13 => exact fun h hq => next_flush (msealWrite_of_foreign h hq)
  case refine_14 => exact fun h hq => next_flush (msealWrite_of_setup h hq)
  case refine_15 =>
    intro a bit dead
    exact ⟨fun h => next_flush (psealWrite_of_not_ready h), fun h hd => next_flush (psealWrite_of_dead h hd),
      fun h hd hq => next_flush (psealWrite_of_foreign h hd hq), fun h hd hq => next_flush (psealWrite_of_own h hd hq)⟩
  case refine_16 => exact fun h => next_flush (sealEnd_of_none h)
  case refine_17 => exact fun h => ⟨_, rfl, moduleSealed_of_end h⟩
  case refine_18 => exact fun h => next_flush (sealEnd_of_none h)
  case refine_19 => exact fun h => ⟨_, rfl, partSealed_of_end h⟩

end Sys2Proof.Machine.SealLaws
end

section
/-! PROOF. The management functions (Table 15-7; R540 to R549, R555 to R575, R614): O59. -/
namespace Sys2Proof.Machine.FunctionLaws
open Sys2Proof Sys2Proof.Machine.Laws Sys2Proof.Machine.ClockLaws Sys2Proof.Machine.BoundaryLaws Sys2Proof.Machine.MemoryLaws
  Sys2Proof.Machine.PortLaws Sys2Proof.Machine.HostLaws Sys2Proof.Machine.SealLaws

/-! ## Who may call a function (R571, R572) -/

section
variable {s : State} {sess fn : Nat} {run : State → FnOut}

theorem func_of_idle (h : s.mgmtUp = false ∨ tget? s.mgmt.sessions sess = none) : s.func sess fn run = s := by
  unfold State.func
  split
  · rfl
  next hup =>
    rcases h with h | h
    · exact absurd h (by simpa using hup)
    · rw [h]

variable {y : Session} (hup : s.mgmtUp = true) (hy : tget? s.mgmt.sessions sess = some y)
include hup hy

theorem func_of_claim (hc : y.claim = true) (hfn : (fn != 0x0F) = true) : s.func sess fn run = (s.wake 4).reply sess fn 1 [] [] := by
  unfold State.func
  rw [if_neg (by simp [hup]), hy]
  exact if_pos (by rw [hc, hfn]; rfl)

theorem func_of_allowed (hc : (y.claim && fn != 0x0F) = false) : s.func sess fn run =
    (run (s.wake 4)).st.reply sess fn (run (s.wake 4)).status (run (s.wake 4)).words (run (s.wake 4)).clamps := by
  unfold State.func
  rw [if_neg (by simp [hup]), hy]
  exact if_neg (by rw [hc]; decide)

theorem func_of_credential (hc : y.claim = false) : s.func sess fn run =
    (run (s.wake 4)).st.reply sess fn (run (s.wake 4)).status (run (s.wake 4)).words (run (s.wake 4)).clamps :=
  func_of_allowed hup hy (by rw [hc]; rfl)

theorem func_enrolment : s.func sess 0x0F run =
    (run (s.wake 4)).st.reply sess 0x0F (run (s.wake 4)).status (run (s.wake 4)).words (run (s.wake 4)).clamps :=
  func_of_allowed hup hy (by simp)

/-- As a function, with what it answers already known. -/
theorem func_eq {o : FnOut} (hc : y.claim = false) (ho : run (s.wake 4) = o) : s.func sess fn run = o.st.reply sess fn o.status o.words o.clamps := by
  rw [func_of_credential hup hy hc, ho]

end

/-! ## Fields of a partition's window -/

/-- Whether two fields of a partition's window, neither of them an array, stand apart. -/
def apart (f g : Fld) : Bool :=
  f.blk == .part && g.blk == .part && f.stride == 0 && g.stride == 0 && decide (f.lo < 64) && decide (g.lo < 64) && (f.lo != g.lo || f.off != g.off)

theorem rd_wr_apart {f g : Fld} (h : apart f g = true) (s : State) (v p : Nat) : (s.wr f v p).rd g p = s.rd g p := by
  simp only [apart, Bool.and_eq_true, Bool.or_eq_true, beq_iff_eq, bne_iff_ne, decide_eq_true_eq] at h
  obtain ⟨⟨⟨⟨⟨⟨hf, hg⟩, hfs⟩, hgs⟩, hfl⟩, hgl⟩, hne⟩ := h
  refine rd_wr_other _ _ _ _ _ _ _ _ ?_
  by_cases hlo : f.lo = g.lo
  · refine key_ne_of_addr_ne hfl hgl ?_
    have hoff : f.off ≠ g.off := hne.resolve_left fun h => h hlo
    simp only [Fld.addr, hf, hg, hfs, hgs]
    omega
  · exact PowerLaws.key_ne_of_lo_ne hfl hgl hlo _ _ _ _

/-! ## Partitions (R540 to R543) -/

section
variable {w : State} {p cg q quota shared : Nat} {conf : Bool}

theorem createPart_of_taken (h : 36 ≤ p ∨ w.pstate p ≠ 0) : w.createPart p cg conf q quota shared = refused w [partClamp 1 5 p] :=
  if_pos (by simpa using h)

section
variable (hp : p < 36) (h0 : w.pstate p = 0)
include hp h0

theorem createPart_of_groups (h : cg = 0 ∨ cg &&& w.heldGroups ≠ 0) :
    w.createPart p cg conf q quota shared = refused w [fnClamp 1 5 0x0D02 cg (nullOf 0x0D02)] := by
  unfold State.createPart
  rw [if_neg (by simp [h0, hp]), if_pos (by simpa using h)]

/-- The set-up of a new partition. -/
def created (w : State) (p cg : Nat) (conf : Bool) (q quota : Nat) : State :=
  let s := ((((w.wr F.pPstate 1 p).wr F.pConf (b2n conf) p).wr F.pHostPort q p).wr F.pMemQuota quota p)
  let s := ((s.wr F.pCgrpL cg p).wr F.pCgrpH (cg / 2 ^ 32) p).wr F.pGen (s.rd F.pGen p + 1) p
  s.partEvent p 1 0 0

theorem createPart_of_free (hcg : cg ≠ 0) (hheld : cg &&& w.heldGroups = 0) (h1 : 1 ≤ quota) (h2 : quota ≤ 3048) (h3 : quota ≤ w.quotaFree) :
    w.createPart p cg conf q quota 0 = ⟨0, [(created w p cg conf q quota).rd F.pGen p, quota], [], created w p cg conf q quota⟩ := by
  have hr : fnRange 1 0x0D03 1 3048 quota = (quota, []) := by
    unfold fnRange
    rw [if_neg (Nat.not_lt.mpr h1), if_neg (Nat.not_lt.mpr h2)]
  unfold State.createPart
  rw [if_neg (by simp [h0, hp]), if_neg (by simp [hcg, hheld]), hr]
  dsimp only
  rw [if_neg (Nat.not_lt.mpr h3)]
  rfl

end

theorem rd_created_gen : (created w p cg conf q quota).rd F.pGen p = (w.rd F.pGen p + 1) % 2 ^ 32 := by
  unfold created State.partEvent State.event
  dsimp only
  rw [rd_emit, rd_wr_same, rd_wr_apart (by decide), rd_wr_apart (by decide), rd_wr_apart (by decide), rd_wr_apart (by decide)]
  rfl

/-- The fields of the set-up other than GEN. -/
theorem rd_created {g : Fld} (h : apart F.pGen g = true) : (created w p cg conf q quota).rd g p =
    ((((((w.wr F.pPstate 1 p).wr F.pConf (b2n conf) p).wr F.pHostPort q p).wr F.pMemQuota quota p).wr F.pCgrpL cg p).wr F.pCgrpH
      (cg / 2 ^ 32) p).rd g p := by
  unfold created State.partEvent State.event
  dsimp only
  rw [rd_emit, rd_wr_apart h]

theorem created_setup (hq : q < 2) (hcg : cg < 2 ^ 36) (hquota : quota ≤ 3048) :
    (created w p cg conf q quota).pstate p = 1 ∧ (created w p cg conf q quota).rd F.pConf p = b2n conf ∧
      (created w p cg conf q quota).portOf p = q ∧ (created w p cg conf q quota).rd F.pMemQuota p = quota ∧
      (created w p cg conf q quota).cgroups p = cg := by
  unfold State.pstate State.portOf State.cgroups
  rw [rd_created (by decide), rd_created (by decide), rd_created (by decide), rd_created (by decide), rd_created (by decide), rd_created (by decide)]
  refine ⟨?_, ?_, ?_, ?_, ?_⟩
  · rw [rd_wr_apart (by decide), rd_wr_apart (by decide), rd_wr_apart (by decide), rd_wr_apart (by decide), rd_wr_apart (by decide), rd_wr_same]
    rfl
  · rw [rd_wr_apart (by decide), rd_wr_apart (by decide), rd_wr_apart (by decide), rd_wr_apart (by decide), rd_wr_same]
    exact Nat.mod_eq_of_lt (b2n_lt conf)
  · rw [rd_wr_apart (by decide), rd_wr_apart (by decide), rd_wr_apart (by decide), rd_wr_same]
    exact Nat.mod_eq_of_lt hq
  · rw [rd_wr_apart (by decide), rd_wr_apart (by decide), rd_wr_same]
    exact Nat.mod_eq_of_lt (Nat.lt_of_le_of_lt hquota (by decide))
  · rw [rd_wr_apart (by decide), rd_wr_same, rd_wr_same]
    simp only [F.pCgrpL, F.pCgrpH]
    omega

end

theorem tearDownFn_eq (w : State) (p : Nat) : w.tearDownFn p = if w.liveP p = false then refused w [partClamp 2 5 p] else
    if w.pstate p = 3 then refused w [partClamp 2 9 p] else ran (w.tearDown p) [w.rd F.pGen p] :=
  if_congr (by simp) rfl rfl

/-! ## Keys (R547 to R549) -/

section
variable {w : State} {p slot form key : Nat} {good : Bool}

/-- What a key load is refused for. -/
def keyRefused (w : State) (p slot form : Nat) (good : Bool) : Prop :=
  w.liveP p = false ∨ 16 ≤ slot ∨ form = 2 ∧ slot ≠ 0 ∨ form = 1 ∧ good = false ∨ slot = 0 ∧ (w.pstate p ≠ 1 ∨ thas (w.part p).keys 0 = true)

theorem loadKey_of_refused (h : keyRefused w p slot form good) : (w.loadKey p slot form key good).status = 1 ∧ (w.loadKey p slot form key good).st = w := by
  unfold State.loadKey
  split
  · exact ⟨rfl, rfl⟩
  next h1 =>
    split
    · exact ⟨rfl, rfl⟩
    next h2 =>
      split
      · exact ⟨rfl, rfl⟩
      next h3 =>
        split
        · exact ⟨rfl, rfl⟩
        next h4 =>
          split
          · exact ⟨rfl, rfl⟩
          next h5 =>
            exfalso
            unfold keyRefused at h
            simp only [Bool.not_eq_true', Bool.and_eq_true, Bool.or_eq_true, decide_eq_true_eq, bne_iff_ne] at h1 h3 h4 h5
            rcases h with h | h | h | h | h
            · exact h1 h
            · exact h2 h
            · exact h3 h
            · exact h4 h
            · exact h5 h

/-- The partition with the key in its slot. -/
def keyPut (w : State) (p slot form key : Nat) : State := if form = 2 then w.drawKey p else w.putKey p slot (if slot = 0 then key else key % 2 ^ 256)

theorem loadKey_of_sound (h : ¬ keyRefused w p slot form good) : w.loadKey p slot form key good =
    ran ((keyPut w p slot form key).partEvent p 6 slot 0)
      [sha3Nat (leBytes (if slot = 0 then 64 else 32) (tgetD ((keyPut w p slot form key).part p).keys slot 0))] := by
  unfold keyRefused at h
  push Not at h
  obtain ⟨h1, h2, h3, h4, h5⟩ := h
  unfold State.loadKey
  rw [if_neg (by simpa using h1), if_neg (Nat.not_le.mpr h2), if_neg (by simpa using h3), if_neg (by simpa using h4), if_neg (by simpa using h5)]
  rfl

theorem putKey_part (s : State) (p slot key : Nat) : tget? ((s.putKey p slot key).part p).keys slot = some key := by
  simp [State.putKey]

theorem keyPut_of_given (hf : form ≠ 2) : tget? ((keyPut w p slot form key).part p).keys slot = some (if slot = 0 then key else key % 2 ^ 256) := by
  unfold keyPut
  rw [if_neg hf]
  exact putKey_part _ _ _ _

theorem keyPut_of_drawn : tget? ((keyPut w p 0 2 key).part p).keys 0 = some (Config.randomKey w.freeCtr).toNat := putKey_part w.fresh.2 p 0 _

/-- What a load answers of a key k now in the slot. -/
theorem loadKey_answer {k : Nat} (h : ¬ keyRefused w p slot form good) (hk : tget? ((keyPut w p slot form key).part p).keys slot = some k) :
    (w.loadKey p slot form key good).status = 0 ∧ tget? ((w.loadKey p slot form key good).st.part p).keys slot = some k ∧
      (w.loadKey p slot form key good).words = [sha3Nat (leBytes (if slot = 0 then 64 else 32) k)] := by
  rw [loadKey_of_sound h]
  refine ⟨rfl, hk, ?_⟩
  simp only [ran, tgetD, hk, Option.getD_some]

end

/-! ## Shared regions (R564, R565) -/

section
variable {w : State} {r p : Nat}

theorem lt_of_region {x : SharedRegion} (h : w.region? r = some x) : r < 4 := by
  unfold State.region? at h
  split at h
  · assumption
  · cases h

/-- A shared region's bit as it is written. -/
theorem bitN_shared (h : r < 4) (s : State) (v : Nat) : bitN (((s.wr F.pShared (setFld (s.rd F.pShared p) r 1 v) p).partEvent p 8 r 0).rd F.pShared p) r = (v % 2 == 1) ∧
    bitN (((s.wr F.pShared (setFld (s.rd F.pShared p) r 1 v) p).partEvent p 9 r 0).rd F.pShared p) r = (v % 2 == 1) := by
  unfold State.partEvent State.event
  rw [rd_emit, rd_emit, rd_wr_same]
  exact ⟨(bitN_mod_two_pow (w := 4) h _).trans (bitN_setFld_same _ _ _), (bitN_mod_two_pow (w := 4) h _).trans (bitN_setFld_same _ _ _)⟩

theorem bitN_grantRegion {x : SharedRegion} {t : State} (hr : r < 4) (h : w.grantRegion p r x = some t) : bitN (t.rd F.pShared p) r = true := by
  unfold State.grantRegion at h
  split at h
  · cases h
  · obtain rfl := Option.some.inj h
    exact (bitN_shared hr _ 1).1

theorem bitN_regionGrant (h : (w.regionGrant r p).status = 0) : bitN ((w.regionGrant r p).st.rd F.pShared p) r = true := by
  unfold State.regionGrant at h ⊢
  split at h
  · cases h
  next x hx =>
    split at h
    · cases h
    next h1 =>
      split at h
      · cases h
      next h2 =>
        split at h
        · cases h
        next h3 =>
          split at h
          next t ht =>
            simp only [h1, h2, h3, Bool.false_eq_true, if_false]
            exact bitN_grantRegion (lt_of_region hx) ht
          · cases h

theorem bitN_regionRevoke (h : (w.regionRevoke r p).status = 0) : bitN ((w.regionRevoke r p).st.rd F.pShared p) r = false := by
  unfold State.regionRevoke at h ⊢
  split at h
  · cases h
  next h1 =>
    obtain ⟨x, hx⟩ : ∃ x, w.region? r = some x := by simpa [Option.ne_none_iff_exists'] using h1
    split at h
    · cases h
    next h2 =>
      split at h
      · cases h
      next h3 =>
        split at h
        · cases h
        next h4 =>
          rw [if_neg h1, if_neg h2, if_neg h3, if_neg h4]
          exact (bitN_shared (lt_of_region hx) _ 0).2

theorem regionRemove_of_granted (h : ∃ y ∈ w.liveParts, bitN (w.rd F.pShared y) r = true) : (w.regionRemove r).status = 1 ∧ (w.regionRemove r).st = w := by
  unfold State.regionRemove
  split
  · exact ⟨rfl, rfl⟩
  · rw [if_pos (List.any_eq_true.mpr h)]
    exact ⟨rfl, rfl⟩

theorem shared_regionRemove (h : (w.regionRemove r).status = 0) : tget? (w.regionRemove r).st.mem.shared r = none := by
  unfold State.regionRemove at h ⊢
  split at h
  · cases h
  next h1 =>
    split at h
    · cases h
    next h2 =>
      rw [if_neg h1, if_neg h2]
      exact tget?_tdel_same _ _

end

/-! ## The other functions -/

theorem rd_commitSvn {w : State} (h1 : w.rd F.idFuseSvn < 128) (h2 : w.rd F.idFwSvn < 128) (sess : Nat) :
    (w.commitSvn sess).st.rd F.idFuseSvn = Nat.max (w.rd F.idFuseSvn) (w.rd F.idFwSvn) := by
  refine (rd_wr_same w F.idFuseSvn _ 0 0).trans (Nat.mod_eq_of_lt ?_)
  exact Nat.max_lt.mpr ⟨h1, h2⟩

theorem reservePolicy_eq (w : State) (mode : Fin 4) : (w.reservePolicy mode.val).st.rd F.idRsvMode = (if mode.val < 2 then mode.val else 0) ∧
    (w.reservePolicy mode.val).clamps.length = (if mode.val < 2 then 0 else 1) := by
  have hrd : ∀ m : Nat, (if w.rd F.idRsvMode = 1 && m = 0 then
      { w.wr F.idRsvMode m with cores := tmap (w.wr F.idRsvMode m).cores (fun _ k => if k.fenced && !k.lost then { k with asked := true } else k) }
      else w.wr F.idRsvMode m).rd F.idRsvMode = m % 4 := by
    intro m
    split
    · exact rd_wr_same w F.idRsvMode m 0 0
    · exact rd_wr_same w F.idRsvMode m 0 0
  unfold State.reservePolicy
  by_cases h : mode.val < 2
  · rw [if_pos h, if_pos h, if_neg (show ¬ 1 < mode.val by omega)]
    exact ⟨(hrd mode.val).trans (Nat.mod_eq_of_lt (by omega)), rfl⟩
  · rw [if_neg h, if_neg h, if_pos (show 1 < mode.val by omega)]
    exact ⟨hrd 0, rfl⟩

theorem assignSite_eq (w : State) (c site : Nat) : w.assignSite c site =
    if w.rd F.idRsvMode = 1 ∧ (w.core c).fenced = true ∧ w.rd F.idState 0 site = 1 then ran (w.moveCore c site) [site] else refused w [] := by
  unfold State.assignSite
  by_cases h : w.rd F.idRsvMode = 1 ∧ (w.core c).fenced = true ∧ w.rd F.idState 0 site = 1
  · rw [if_pos h]
    obtain ⟨h1, h2, h3⟩ := h
    exact if_neg (by simp [h1, h2, h3])
  · rw [if_neg h]
    refine if_pos ?_
    by_contra hno
    simp only [Bool.or_eq_true, bne_iff_ne, Bool.not_eq_true', not_or, not_not, Bool.not_eq_false] at hno
    exact h ⟨hno.1.1, hno.1.2, hno.2⟩

section
variable {w : State} {p : Nat} {f : State → State}

theorem observe_of_dead (h : w.liveP p = false) : w.observe p f = refused w [partClamp 0x0D 5 p] := by
  simp only [State.observe, h, Bool.not_false, if_true]

theorem observe_of_confidential (h : w.liveP p = true) (hc : w.rd F.pConf p = 1) : w.observe p f = refused w [partClamp 0x0D 9 p] := by
  have hc' : w.confidential p = true := (flag_iff w F.pConf p).mpr hc
  simp only [State.observe, h, hc', Bool.not_true, Bool.false_eq_true, if_false, if_true]

theorem observe_of_open (h : w.liveP p = true) (hc : w.rd F.pConf p = 0) : w.observe p f = ran (f w) [] := by
  have hc' : w.confidential p = false := (flag_eq_false_iff w F.pConf p).mpr (by rw [hc]; decide)
  simp only [State.observe, h, hc', Bool.not_true, Bool.false_eq_true, if_false]

end

section
variable {w : State} {sess digest idx k : Nat}

theorem enrol_of_full (h : tfree w.mgmt.creds 8 = none) : w.enrol sess digest = refused w [] := by simp only [State.enrol, h]

theorem enrol_of_free (h : tfree w.mgmt.creds 8 = some k) : (w.enrol sess digest).status = 0 ∧ (w.enrol sess digest).st.rd F.idClaimed = 1 ∧
    tget? (w.enrol sess digest).st.mgmt.creds k = some digest := by
  have hne : F.idMr.key 0 5 ≠ F.idClaimed.key 0 0 := by decide
  simp only [State.enrol, h]
  refine ⟨rfl, ?_, tget?_tput_same _ _ _⟩
  refine (rd_wr_other _ _ _ _ _ _ _ _ hne).trans ?_
  exact rd_wr_same _ _ _ _ _

theorem removeCred_of_kept (h : w.mgmt.creds.length < 2 ∨ thas w.mgmt.creds idx = false) : w.removeCred sess idx = refused w [] := by
  unfold State.removeCred
  refine if_pos ?_
  rcases h with h | h
  · simp [h]
  · simp [h]

end


/-! ## MODULE_RESET (R614) -/

section
variable {s : State} {sess : Fin 4} {cold : Bool}

theorem moduleReset_of_idle (h : s.mgmtUp = false ∨ tget? s.mgmt.sessions sess.val = none) : exec (.moduleReset sess cold) s = .next s.flush := by
  change execModuleReset sess cold s = _
  unfold execModuleReset
  dsimp only
  rw [func_of_idle h]
  split
  next hup hy =>
    rcases h with h | h
    · rw [h] at hup
      cases hup
    · rw [h] at hy
      cases hy
  · rfl

variable {y : Session} (hup : s.mgmtUp = true) (hy : tget? s.mgmt.sessions sess.val = some y)
include hup hy

theorem moduleReset_of_claim (hc : y.claim = true) : exec (.moduleReset sess cold) s = .next ((s.wake 4).reply sess.val 0x11 1 [] []).flush := by
  change execModuleReset sess cold s = _
  unfold execModuleReset
  dsimp only
  rw [func_of_claim hup hy hc (by decide), hup, hy]
  exact next_flush (if_pos hc)

theorem moduleReset_of_credential (hc : y.claim = false) : exec (.moduleReset sess cold) s =
    .next (((s.wake 4).reply sess.val 0x11 0 [] []).source 5 cold).flush := by
  change execModuleReset sess cold s = _
  unfold execModuleReset
  dsimp only
  rw [func_of_credential hup hy hc, hup, hy]
  exact next_flush (if_neg (by rw [hc]; decide))

end

/-! ## The obligation -/

/-- Settles O59: every function by one rule for its caller; what it then does by the branch its arguments take. -/
theorem managementFunctions : Obligations.ManagementFunctions := by
  intro sess part slot r cg conf on good cold q quota shared form key nonce digest base len owner handle n mode c site x po tel idx s fns creds w ans
  refine ⟨?_, ?_, ?_, ?_, ?_, ?_, ?_, ?_, ?_, ?_⟩
  case refine_1 =>
    intro h
    refine ⟨fun e he => ?_, fun i hi => ?_, next_closed (func_of_idle h)⟩
    · simp only [fns, List.mem_cons, List.not_mem_nil, or_false] at he
      rcases he with rfl | rfl | rfl | rfl | rfl | rfl | rfl | rfl | rfl | rfl | rfl | rfl | rfl | rfl | rfl | rfl | rfl | rfl | rfl
      case inr.inr.inr.inr.inr.inr.inr.inr.inr.inr.inr.inr.inr.inr.inr.inr.inr.inr => exact moduleReset_of_idle h
      all_goals exact next_flush (func_of_idle h)
    · simp only [creds, List.mem_cons, List.not_mem_nil, or_false] at hi
      rcases hi with rfl | rfl
      all_goals exact next_flush (func_of_idle h)
  case refine_2 =>
    intro y hup hy hc
    refine ⟨fun e he => ?_, next_closed (func_of_claim hup hy hc (by decide))⟩
    simp only [fns, List.mem_cons, List.not_mem_nil, or_false] at he
    rcases he with rfl | rfl | rfl | rfl | rfl | rfl | rfl | rfl | rfl | rfl | rfl | rfl | rfl | rfl | rfl | rfl | rfl | rfl | rfl
    case inr.inr.inr.inr.inr.inr.inr.inr.inr.inr.inr.inr.inr.inr.inr.inr.inr.inr => exact moduleReset_of_claim hup hy hc
    all_goals exact next_flush (func_of_claim hup hy hc (by decide))
  case refine_3 => exact fun y hup hy => ⟨next_flush (func_enrolment hup hy), next_flush (func_enrolment hup hy)⟩
  case refine_4 =>
    intro y hup hy hc
    have hrun : ∀ (fn : Nat) (run : State → FnOut), s.func sess.val fn run =
        (run w).st.reply sess.val fn (run w).status (run w).words (run w).clamps := fun fn run => func_of_credential hup hy hc
    have hans : ∀ (fn : Nat) (run : State → FnOut) (o : FnOut), run w = o → s.func sess.val fn run = ans fn o := fun fn run o ho => func_eq hup hy hc ho
    refine ⟨next_flush (hrun _ _), next_flush (hans _ _ _ (tearDownFn_eq _ _)), next_flush (hrun _ _), next_flush (hrun _ _), next_flush (hrun _ _),
      next_flush (hrun _ _), next_flush (hrun _ _), next_flush (hrun _ _), next_flush (hrun _ _), next_flush (hans _ _ _ (assignSite_eq _ _ _)),
      next_closed (hrun _ _), next_flush (hrun _ _), next_flush (hrun _ _), next_flush (hrun _ _), next_flush (hrun _ _), next_flush (hrun _ _),
      fun h => ⟨next_flush (hans _ _ _ (observe_of_dead h)), next_flush (hans _ _ _ (observe_of_dead h))⟩,
      fun h hp => ⟨next_flush (hans _ _ _ (observe_of_confidential h hp)), next_flush (hans _ _ _ (observe_of_confidential h hp))⟩, ?_, ?_,
      moduleReset_of_credential hup hy hc⟩
    · intro tr sm h hp
      exact ⟨next_flush (hans _ _ _ (observe_of_open h hp)), next_flush (hans _ _ _ (observe_of_open h hp))⟩
    · refine next_flush (hans _ _ _ (if_congr ?_ rfl rfl))
      exact Option.isNone_iff_eq_none
  case refine_5 =>
    intro p
    refine ⟨createPart_of_taken, fun hp h0 hg => createPart_of_groups hp h0 (hg.imp (fun h => by rw [h]; rfl) id), ?_, ?_, bitN_regionGrant, bitN_regionRevoke,
      regionRemove_of_granted, shared_regionRemove⟩
    · intro hp h0 hcg hheld h1 h2 h3
      have hne : cg.toNat ≠ 0 := fun h => hcg (BitVec.eq_of_toNat_eq h)
      obtain ⟨hs, hc, hport, hquota, hgroups⟩ := created_setup (w := w) (p := p) (conf := conf) q.isLt cg.isLt h2
      exact ⟨created w p cg.toNat conf q.val quota.toNat, createPart_of_free hp h0 hne hheld h1 h2 h3, hs, hc, hport, hquota, hgroups, rd_created_gen⟩
    · intro o
      have hslot : ∀ m : BitVec 8, m.toNat ≠ 0 ↔ m ≠ 0 := fun m => (BitVec.toNat_inj (x := m) (y := 0)).not
      refine ⟨fun h => loadKey_of_refused ?_, ?_, ?_⟩
      · unfold keyRefused
        rw [hslot, ← not_not (a := slot.toNat = 0), ← ne_eq, hslot, ne_eq, not_not]
        exact h
      · intro hl h16 h0 hf hg
        have h0' := (hslot slot).mpr h0
        have hok : ¬ keyRefused w p slot.toNat form.val good := by
          unfold keyRefused
          simp only [hl, hf, h0', Nat.not_le.mpr h16, Bool.true_eq_false, false_and, false_or, or_false, not_and, Bool.not_eq_false]
          exact hg
        have hk := keyPut_of_given (w := w) (p := p) (slot := slot.toNat) (key := key.toNat) hf
        rw [if_neg h0'] at hk
        have hans := loadKey_answer hok hk
        rw [if_neg h0'] at hans
        exact hans
      · intro h0 hs hp hk0 hg
        have hz : slot.toNat = 0 := by rw [h0]; rfl
        have hlive : w.liveP p = true := by simp [State.liveP, hp, hs]
        have hok : ¬ keyRefused w p slot.toNat form.val good := by
          unfold keyRefused
          simp only [hz, hlive, hs, hk0, Bool.true_eq_false, Bool.false_eq_true, ne_eq, not_true_eq_false, and_false, false_or, or_false, not_or, not_and,
            Bool.not_eq_false]
          exact ⟨by decide, hg⟩
        have hk : tget? ((keyPut w p slot.toNat form.val key.toNat).part p).keys slot.toNat =
            some (if form.val = 2 then (Config.randomKey w.freeCtr).toNat else key.toNat) := by
          by_cases hf : form.val = 2
          · rw [hz, hf, if_pos rfl]
            exact keyPut_of_drawn
          · rw [keyPut_of_given hf, hz, if_pos rfl, if_neg hf]
        have hans := loadKey_answer hok hk
        rw [if_pos hz] at hans
        obtain ⟨hst, hkey, hw⟩ := hans
        exact ⟨hst, (congrArg (fun i => tget? (o.st.part p).keys i) hz.symm).trans hkey, hw⟩
  case refine_6 => exact fun h1 h2 => rd_commitSvn h1 h2 _
  case refine_7 => exact reservePolicy_eq w mode
  case refine_8 => exact fun k hk => enrol_of_free hk
  case refine_9 => exact enrol_of_full
  case refine_10 => exact removeCred_of_kept

end Sys2Proof.Machine.FunctionLaws
end

section
/-! PROOF. Sessions, the teardown's stages and the maintenance arbiter (R557, R571, R572, R576, R629 to R634, Table 17-9): O60. -/
namespace Sys2Proof.Machine.ArbiterLaws
open Sys2Proof Sys2Proof.Machine.Laws Sys2Proof.Machine.ClockLaws Sys2Proof.Machine.BoundaryLaws Sys2Proof.Machine.MemoryLaws
  Sys2Proof.Machine.PortLaws Sys2Proof.Machine.HostLaws Sys2Proof.Machine.SealLaws Sys2Proof.Machine.FunctionLaws

/-! ## Sessions (R571, R572) -/

section
variable {s : State} {cred : Option (BitVec 512)} {ok : Bool}

/-- The enrolled credential a caller shows. -/
def credOf (s : State) (cred : Option (BitVec 512)) : Option Nat :=
  cred.bind (fun d => (s.mgmt.creds.find? (fun e => e.2 == d.toNat)).map (fun e => e.1))

/-- Whether a caller may open a session. -/
def mayOpen (s : State) (cred : Option (BitVec 512)) (ok : Bool) : Prop :=
  ok = true ∧ (if cred = none then s.mgmt.creds = [] ∧ s.flag F.idClaimed = false ∧ s.mgmt.sessions = [] else (credOf s cred).isSome = true)

theorem credOf_eq (s : State) (cred : Option (BitVec 512)) :
    (cred.map (fun d => d.toNat)).bind (fun d => (s.mgmt.creds.find? (fun e => e.2 == d)).map (fun e => e.1)) = credOf s cred := by
  cases cred <;> rfl

theorem mayOpen_iff (s : State) (cred : Option (BitVec 512)) (ok : Bool) : mayOpen s cred ok ↔
    (ok && (if (cred.map (fun d => d.toNat)).isNone then s.mgmt.creds == [] && !s.flag F.idClaimed && s.mgmt.sessions == []
      else (credOf s cred).isSome)) = true := by
  unfold mayOpen
  cases cred with
  | none => simp [and_assoc]
  | some d => simp

theorem sessionOpen_of_down (h : s.mgmtUp = false) (c : Option Nat) : s.sessionOpen c ok = s := by
  simp only [State.sessionOpen, h, Bool.not_false, if_true]

section
variable (hup : s.mgmtUp = true)
include hup

theorem sessionOpen_of_refused (h : ¬ mayOpen s cred ok ∨ tfree s.mgmt.sessions 4 = none) :
    s.sessionOpen (cred.map (fun d => d.toNat)) ok = s.mgmtEvent 2 0 0xFF ((credOf s cred).getD 0xFF) 1 := by
  unfold State.sessionOpen
  rw [if_neg (by simp [hup])]
  dsimp only
  rw [credOf_eq]
  split
  next k hk =>
    have hno : ¬ mayOpen s cred ok := h.resolve_right (by rw [hk]; exact fun h => nomatch h)
    exact if_neg fun hm => hno ((mayOpen_iff s cred ok).mpr hm)
  · rfl

theorem sessionOpen_of_free {k : Nat} (h : mayOpen s cred ok) (hk : tfree s.mgmt.sessions 4 = some k) : s.sessionOpen (cred.map (fun d => d.toNat)) ok =
    (s.modMgmt (fun m => { m with sessions := tput m.sessions k ⟨cred.isNone, (credOf s cred).getD 0xFF, false⟩ })).mgmtEvent 1 0 k
      ((credOf s cred).getD 0xFF) 0 := by
  have hnone : (cred.map (fun d => d.toNat)).isNone = cred.isNone := by cases cred <;> rfl
  unfold State.sessionOpen
  rw [if_neg (by simp [hup])]
  dsimp only
  rw [credOf_eq, hk]
  dsimp only
  rw [if_pos ((mayOpen_iff s cred ok).mp h), hnone]

end
end

/-- What a filtered option holds passes the filter and stood there before. -/
theorem of_filter_eq_some {α : Type} {o : Option (Nat × α)} {k : Nat} (e : Nat × α) (h : o.filter (fun t => t.1 != k) = some e) : e.1 ≠ k ∧ o = some e := by
  obtain ⟨ho, hk⟩ := Option.filter_eq_some_iff.mp h
  exact ⟨bne_iff_ne.mp hk, ho⟩

/-! ## Teardown (R557) -/

section
variable {s : State} {p : Nat}

theorem tearLook_of_none (h : tget? s.mgmt.tears p = none) : s.tearLook p = s := by
  unfold State.tearLook
  rw [h]

theorem tearDone_of_none (h : tget? s.mgmt.tears p = none) : s.tearDone p = s := by
  unfold State.tearDone
  rw [h]

theorem tearLook_of_running {t : Teardown} (h : tget? s.mgmt.tears p = some t) (h2 : t.stage = 2) (hg : s.grainsRun p = true) : s.tearLook p = s := by
  unfold State.tearLook
  rw [h]
  dsimp only
  rw [if_neg (by simp [hg]), h]
  exact if_neg (by simp [h2])

theorem tearDone_of_no_scrub (h : s.runningAct? colScrub p = none) : s.tearDone p = s := by
  unfold State.tearDone
  rw [h]
  split
  next t a ht ha => cases ha
  · rfl

end

/-! ## Activities asked for (R572, R573, R631) -/

section
variable {s : State} {sess fn : Nat} {a : Activity}

theorem funcAct_of_idle (h : s.mgmtUp = false ∨ tget? s.mgmt.sessions sess = none) : s.funcAct sess fn a = s := by
  unfold State.funcAct
  split
  · rfl
  next hup =>
    rcases h with h | h
    · exact absurd h (by simpa using hup)
    · rw [h]

theorem firmwareLoad_of_idle (h : s.mgmtUp = false ∨ tget? s.mgmt.sessions sess = none) (x : FwBlob) : s.firmwareLoad sess x a = s := by
  unfold State.firmwareLoad
  split
  · rfl
  next y hy =>
    have hdown : s.mgmtUp = false := h.resolve_right (by rw [hy]; exact fun h => nomatch h)
    rw [if_pos (by simp [hdown])]
    exact funcAct_of_idle h

variable {y : Session} (hup : s.mgmtUp = true) (hy : tget? s.mgmt.sessions sess = some y)
include hup hy

theorem funcAct_of_claim (hc : y.claim = true) : s.funcAct sess fn a = (s.wake 4).reply sess fn 1 [] [] := by
  unfold State.funcAct
  rw [if_neg (by simp [hup]), hy]
  exact if_pos hc

theorem funcAct_of_credential (hc : y.claim = false) : s.funcAct sess fn a = (s.wake 4).arbRequest a State.actStart := by
  unfold State.funcAct
  rw [if_neg (by simp [hup]), hy]
  exact if_neg (by rw [hc]; decide)

theorem firmwareLoad_of_claim (hc : y.claim = true) (x : FwBlob) : s.firmwareLoad sess x a = (s.wake 4).reply sess 5 1 [] [] := by
  unfold State.firmwareLoad
  rw [hy]
  dsimp only
  rw [if_pos (by simp [hc])]
  exact funcAct_of_claim hup hy hc

theorem firmwareLoad_of_credential (hc : y.claim = false) (x : FwBlob) : s.firmwareLoad sess x a =
    if x.sigOk = false then ((s.wake 4).mgmtEvent 4 5 sess (s.sessCred sess) 1).reply sess 5 1 [] []
    else if x.svn.val < s.rd F.idFuseSvn then ((s.wake 4).mgmtEvent 5 5 sess (s.sessCred sess) 1).reply sess 5 1 [] []
    else (s.wake 4).arbRequest a State.actStart := by
  unfold State.firmwareLoad
  rw [hy]
  dsimp only
  rw [if_neg (by simp [hup, hc]), funcAct_of_credential hup hy hc]
  exact if_congr (by simp) rfl rfl

end

/-- A setting held to its range, and the record of it. -/
def held (fn code lo hi v : Nat) : Nat × List Rec :=
  (Nat.max lo (Nat.min hi v), if v < lo then [fnClamp fn 1 code v lo] else if hi < v then [fnClamp fn 2 code v hi] else [])

theorem fnRange_eq {lo hi : Nat} (h : lo ≤ hi) (fn code v : Nat) : fnRange fn code lo hi v = held fn code lo hi v := by
  unfold fnRange held
  by_cases h1 : v < lo
  · rw [if_pos h1, if_pos h1, show Nat.min hi v = v from Nat.min_eq_right (by omega), show Nat.max lo v = lo from Nat.max_eq_left (by omega)]
  · by_cases h2 : hi < v
    · rw [if_neg h1, if_neg h1, if_pos h2, if_pos h2, show Nat.min hi v = hi from Nat.min_eq_left (by omega), show Nat.max lo hi = hi from Nat.max_eq_right h]
    · rw [if_neg h1, if_neg h1, if_neg h2, if_neg h2, show Nat.min hi v = v from Nat.min_eq_right (by omega), show Nat.max lo v = v from Nat.max_eq_right (by omega)]

/-! ## The arbiter (R631, R632) -/

section
variable {s : State} {a : Activity} {start : Activity → State → State}

/-- Whether an activity fits beside everything that runs or is queued. -/
def fitsNow (s : State) (a : Activity) : Prop :=
  (∀ b ∈ s.rst.running ++ s.rst.queue, a.fits b = true) ∧ (a.col = colRepair → s.stackFree a.res = true)

theorem arbMay_iff (s : State) (a : Activity) : s.arbMay a s.rst.queue = true ↔ fitsNow s a := by
  unfold State.arbMay State.arbConflict fitsNow
  rw [Bool.and_eq_true, Option.isNone_iff_eq_none, Option.map_eq_none_iff, List.find?_eq_none]
  refine and_congr ?_ ?_
  · simp
  · rw [Bool.or_eq_true, bne_iff_ne, ← imp_iff_not_or]

/-- A bit of a list is set in its mask. -/
theorem testBit_maskOf {l : List Nat} {k : Nat} (h : k ∈ l) : (maskOf l).testBit k = true := by
  have hkeep : ∀ (l : List Nat) (m : Nat), m.testBit k = true → (l.foldl (fun m i => m ||| 2 ^ i) m).testBit k = true := by
    intro l
    induction l with
    | nil => exact fun m hm => hm
    | cons x l ih => exact fun m hm => ih _ (by rw [Nat.testBit_or, hm]; rfl)
  obtain ⟨l₁, l₂, rfl⟩ := List.append_of_mem h
  unfold maskOf
  rw [List.foldl_append, List.foldl_cons]
  exact hkeep l₂ _ (by rw [Nat.testBit_or, Nat.testBit_two_pow_self, Bool.or_true])

/-- The state of an activity whose start is shown. -/
def startShown (s : State) (a : Activity) : State := (s.modRst (fun r => { r with running := r.running ++ [a] })).arbShow

theorem arbRequest_of_fits (h : fitsNow s a) : s.arbRequest a start = start a ((startShown s a).arbEvent a 2 0) := by
  unfold State.arbRequest
  rw [if_pos ((arbMay_iff s a).mpr h)]
  rfl

/-- MNT_RUN shows every activity that runs. -/
theorem bitN_startShown (s : State) (h1 : 1 ≤ a.col) (h8 : a.col ≤ 8) : bitN ((startShown s a).rd F.rstMntRun) (a.col - 1) = true := by
  unfold startShown State.arbShow
  rw [rd_wr_of_lo_ne (by decide) (by decide) (by decide), rd_wr_same]
  refine (bitN_mod_two_pow (w := 8) (by omega) _).trans ((bitN_eq_testBit _ _).trans (testBit_maskOf ?_))
  simp [State.modRst]

theorem arbRequest_of_conflict (h : ¬ fitsNow s a) : ∃ (u : State) (k : Nat), s.arbRequest a start = u.arbEvent a 1 k ∧
    u.rst.running = s.rst.running ∧ u.rst.queue = s.rst.queue ++ [a] := by
  unfold State.arbRequest
  rw [if_neg fun hm => h ((arbMay_iff s a).mp hm)]
  exact ⟨_, _, rfl, rfl, rfl⟩

end

/-! ## Starts and ends (R629 to R634) -/

section
variable {s : State} {a : Activity} {k : Nat}

theorem actStart_calibration {items : List CalItem} (h : a.work = .calibration k items) : State.actStart a s = s.calWrite k items := by
  simp only [State.actStart, h]

theorem actStart_debug {m : Nat} {cl : List Rec} (h : a.work = .debug k m cl) : State.actStart a s =
    ((s.wr F.idDbgOpen 1).mgmtEvent 8 0x0E k (s.sessCred k) 0).actReply k 0x0E 0 [m] cl := by
  simp only [State.actStart, h]

theorem actStart_portTest {l r d e : Nat} {cl : List Rec} (h : a.work = .portTest k l r d e cl) : State.actStart a s =
    (s.modNport a.res (fun p => { p with test := some ⟨l, r, d, e, 0, 0, 0, 0, 0, 0⟩ })).pmodeLook a.res := by
  simp only [State.actStart, h]

theorem actStart_margining {d : Nat} {cl : List Rec} (h : a.work = .margining k d cl) :
    State.actStart a s = s.modPort a.res (fun h => { h with marginingReady := true }) := by
  simp only [State.actStart, h]

theorem actStart_activate (h : a.work = .activate k) : State.actStart a s = (s.actReply k 6 0 [] []).activate := by
  simp only [State.actStart, h]

variable {n : Nat}

theorem testEnd_of_none (h : s.runningAct? colPort n = none) : s.testEnd n = s := by
  unfold State.testEnd
  rw [h]

theorem testEnd_of_running {t : PortTest} {l r d e : Nat} {cl : List Rec} (h : s.runningAct? colPort n = some a) (ht : (s.nport n).test = some t)
    (hw : a.work = .portTest k l r d e cl) : s.testEnd n =
      ((((s.modNport n (fun p => { p with test := none })).arbEnd a).pmodeLook n).actReply k 0x12 0
        [t.sent, t.echoes, t.errs, t.sent - t.echoes, t.least, t.sum / Nat.max 1 t.echoes, t.most] cl) := by
  unfold State.testEnd
  rw [h, ht]
  dsimp only
  rw [hw]

theorem marginEnd_of_none {q : Nat} (h : s.runningAct? colMargin q = none) (lanes : List (Byte × Byte)) : s.marginEnd q lanes = s := by
  unfold State.marginEnd
  rw [h]

theorem marginEnd_of_running {q d : Nat} {cl : List Rec} (h : s.runningAct? colMargin q = some a) (hw : a.work = .margining k d cl)
    (lanes : List (Byte × Byte)) : s.marginEnd q lanes = ((s.modPort q (fun h => { h with marginingReady := false })).arbEnd a).actReply k 0x13 0
      (lanes.flatMap (fun e => [e.1.toNat, e.2.toNat])) cl := by
  unfold State.marginEnd
  rw [h]
  dsimp only
  rw [hw]

theorem debugClose_of_none (h : s.runningAct? colDebug 0 = none) (sess : Nat) : s.debugClose sess = s := by
  unfold State.debugClose
  rw [h]

theorem debugClose_of_running (h : s.runningAct? colDebug 0 = some a) (sess : Nat) :
    s.debugClose sess = ((s.wr F.idDbgOpen 0).mgmtEvent 9 0x0E sess (s.sessCred sess) 0).arbEnd a := by
  unfold State.debugClose
  rw [h]

theorem loadEnd_of_load {x : FwImage} (hw : a.work = .load k x) : s.loadEnd a =
    (((((s.putImage (1 - s.rd F.idImage) x).arbEnd a).busyLook 0).busyLook 1).actReply k 5 0 [1 - s.rd F.idImage] []) := by
  unfold State.loadEnd
  rw [hw]

/-- The end of repair access, of a calibration and of a load, by whether the activity runs. -/
theorem maintEnd_repair (n : StackId) : (s.runningAct? colRepair n.val = none → s.maintEnd (.repair n) = s) ∧
    ∀ a, s.runningAct? colRepair n.val = some a → s.maintEnd (.repair n) = s.repairEnd n.val a := by
  refine ⟨fun h => ?_, fun a h => ?_⟩
  all_goals
    unfold State.maintEnd
    dsimp only
    rw [h]

theorem maintEnd_calibration : (s.runningAct? colCal 0 = none → s.maintEnd .calibration = s) ∧
    ∀ a, s.runningAct? colCal 0 = some a → s.maintEnd .calibration = s.arbEnd a := by
  refine ⟨fun h => ?_, fun a h => ?_⟩
  all_goals
    unfold State.maintEnd
    dsimp only
    rw [h]

theorem maintEnd_load : (s.runningAct? colLoad 0 = none → s.maintEnd .load = s) ∧
    ∀ a, s.runningAct? colLoad 0 = some a → s.maintEnd .load = s.loadEnd a := by
  refine ⟨fun h => ?_, fun a h => ?_⟩
  all_goals
    unfold State.maintEnd
    dsimp only
    rw [h]

end

/-! ## The obligation -/

/-- Settles O60: sessions and asked activities by their caller, the arbiter by whether the activity fits, each end by whether its
activity runs. -/
theorem sessionsAndMaintenance : Obligations.SessionsAndMaintenance := by
  refine ⟨fun cred ok s => ?_, fun sess s => ?_, fun p s => ⟨?_, rfl, rfl, ?_, tearDone_of_no_scrub⟩, ?_, fun a start s => ?_, fun s => ?_⟩
  case refine_1 =>
    intro idx may
    exact ⟨fun h => next_flush (sessionOpen_of_down h _), fun h hno => next_flush (sessionOpen_of_refused h hno),
      fun k h hm hk => next_flush (sessionOpen_of_free h hm hk)⟩
  case refine_2 => exact ⟨_, rfl, rfl, fun e he => of_filter_eq_some e he, fun e he => of_filter_eq_some e he⟩
  case refine_3 => exact fun h => ⟨next_closed (tearLook_of_none h), next_flush (tearDone_of_none h)⟩
  case refine_4 => exact fun t h h2 hg => tearLook_of_running h h2 hg
  case refine_5 =>
    intro sess x items m n l t rate dest q s hold val dm tl tr ts ms acts load w
    have hdm : fnRange 0x0E 0x0D05 1 240 m.toNat = dm := fnRange_eq (by decide) _ _ _
    have htl : fnRange 0x12 (mgmtAny 0x12 0) 64 9022 ((l.map (fun v => v.toNat)).getD 9022) = tl := fnRange_eq (by decide) _ _ _
    have htr : fnRange 0x12 (mgmtAny 0x12 1) 1 100 ((rate.map (fun v => v.toNat)).getD 100) = tr := fnRange_eq (by decide) _ _ _
    have hts : fnRange 0x12 (mgmtAny 0x12 2) 1 600 ((t.map (fun v => v.toNat)).getD 10) = ts := fnRange_eq (by decide) _ _ _
    have hms : fnRange 0x13 (mgmtAny 0x13 0) 1 600 ((t.map (fun v => v.toNat)).getD 60) = ms := fnRange_eq (by decide) _ _ _
    have hexec : ∀ e ∈ acts, exec e.1 s = .next (s.funcAct sess.val e.2.1 e.2.2).flush := by
      intro e he
      simp only [acts, List.mem_cons, List.not_mem_nil, or_false] at he
      rcases he with rfl | rfl | rfl | rfl | rfl
      · rfl
      · rfl
      · rw [← hdm]
        rfl
      · rw [← htl, ← htr, ← hts]
        rfl
      · rw [← hms]
        rfl
    refine ⟨fun h => ⟨next_flush (firmwareLoad_of_idle h x), fun e he => (hexec e he).trans (next_flush (funcAct_of_idle h))⟩,
      fun y hup hy hc => ⟨next_flush (firmwareLoad_of_claim hup hy hc x), fun e he => (hexec e he).trans (next_flush (funcAct_of_claim hup hy hc))⟩,
      fun y hup hy hc => ⟨fun e he => (hexec e he).trans (next_flush (funcAct_of_credential hup hy hc)),
        next_flush (firmwareLoad_of_credential hup hy hc x)⟩⟩
  case refine_6 =>
    intro fits
    exact ⟨fun h => ⟨startShown s a, arbRequest_of_fits h, rfl, rfl, bitN_startShown s⟩, fun k items h => actStart_calibration h, fun k m cl h => actStart_debug h,
      fun k l r d e cl h => actStart_portTest h, fun k d cl h => actStart_margining h, fun k h => actStart_activate h, arbRequest_of_conflict⟩
  case refine_7 =>
    refine ⟨fun access h => next_flush (if_pos (by simp [h])), fun h => ⟨next_flush (if_neg (by simp [h])), fun n => next_flush (if_neg (by simp [h]))⟩,
      fun n => ⟨fun h => next_flush ((maintEnd_repair n).1 h), fun a h => next_flush ((maintEnd_repair n).2 a h)⟩,
      ⟨fun h => next_flush (maintEnd_calibration.1 h), fun a h => next_flush (maintEnd_calibration.2 a h)⟩,
      ⟨fun h => next_flush (maintEnd_load.1 h), fun a k x h hw => next_flush ((maintEnd_load.2 a h).trans (loadEnd_of_load hw))⟩,
      fun n => ⟨fun h => next_flush (testEnd_of_none h), fun a t k l r d e cl h ht hw => next_flush (testEnd_of_running h ht hw)⟩,
      fun q lanes => ⟨fun h => next_flush (marginEnd_of_none h lanes), fun a k d cl h hw => next_flush (marginEnd_of_running h hw lanes)⟩,
      ⟨fun h => next_flush (debugClose_of_none h _), fun a h => next_flush (debugClose_of_running h _)⟩,
      fun occ => next_flush (if_congr (by simp) rfl rfl)⟩

end Sys2Proof.Machine.ArbiterLaws
end

section
/-! PROOF. What ends the steps of a partition leaves its EPOCH: one lemma per function, along the calls of State.abandonAll
(02_cadence.md, 13_continuity.md). The lemmas serve O54. -/
namespace Sys2Proof.Machine.EpochLaws
open Sys2Proof Sys2Proof.Machine.Laws Sys2Proof.Machine.MemoryLaws Sys2Proof.Machine.HostLaws

/-- Every partition's EPOCH reads as before. -/
def SameEpoch (s t : State) : Prop := ∀ p < 36, t.rd F.pEpoch p = s.rd F.pEpoch p

namespace SameEpoch

theorem refl (s : State) : SameEpoch s s := fun _ _ => rfl

theorem trans {s t u : State} (h : SameEpoch s t) (h' : SameEpoch t u) : SameEpoch s u := fun p hp => (h' p hp).trans (h p hp)

theorem of_regs {s t : State} (h : t.regs = s.regs) : SameEpoch s t := fun _ _ => rd_congr h _ _ _

/-- What every step of a fold keeps, seen through g, the fold keeps. -/
theorem foldl {α β : Type} {f : β → α → β} (g : β → State) (h : ∀ b x, SameEpoch (g b) (g (f b x))) (l : List α) (b : β) :
    SameEpoch (g b) (g (l.foldl f b)) := by
  induction l generalizing b with
  | nil => exact refl _
  | cons x l ih => exact (h b x).trans (ih _)

theorem folds {α : Type} {f : State → α → State} (h : ∀ s x, SameEpoch s (f s x)) (l : List α) (s : State) : SameEpoch s (l.foldl f s) :=
  foldl id h l s

/-- A branch on a condition, where each way keeps EPOCH. -/
theorem ite {s t u : State} {c : Prop} [Decidable c] (h : SameEpoch s t) (h' : SameEpoch s u) : SameEpoch s (if c then t else u) := by
  split
  · exact h
  · exact h'

end SameEpoch

/-- Whether a field stands clear of EPOCH: a plain field of a partition's window at another offset, or one of the memory block. -/
def offEpoch (f : Fld) : Bool :=
  decide (f.lo < 64) && (f.blk == .part && f.stride == 0 && decide (f.off < 0x10000) && f.off != 0x0D10 || f.blk == .mem)

theorem key_ne_epoch {f : Fld} (h : offEpoch f = true) (b i : Nat) {p : Nat} (hp : p < 36) : f.key b i ≠ F.pEpoch.key p 0 := by
  simp only [offEpoch, Bool.and_eq_true, Bool.or_eq_true, decide_eq_true_eq, beq_iff_eq, bne_iff_ne] at h
  obtain ⟨hlo, hplace⟩ := h
  refine key_ne_of_addr_ne hlo (by decide) ?_
  rcases hplace with ⟨⟨⟨hb, hs⟩, hlt⟩, hne⟩ | hb
  · simp only [Fld.addr, hb, hs, Blk.base, F.pEpoch]
    omega
  · simp only [Fld.addr, hb, Blk.base, F.pEpoch]
    omega

theorem sameEpoch_wr {f : Fld} (h : offEpoch f = true) (s : State) (v b i : Nat) : SameEpoch s (s.wr f v b i) :=
  fun _ hp => rd_wr_other _ _ _ _ _ _ _ _ (key_ne_epoch h b i hp)

theorem sameEpoch_inc {f : Fld} (h : offEpoch f = true) (s : State) (n b i : Nat) : SameEpoch s (s.inc f n b i) := sameEpoch_wr h _ _ _ _

theorem sameEpoch_add {f : Fld} (h : offEpoch f = true) (s : State) (n b i : Nat) : SameEpoch s (s.add f n b i) := sameEpoch_wr h _ _ _ _

theorem sameEpoch_complete (s : State) (d : DRef) (status result : Nat) (noop : Bool) : SameEpoch s (s.complete d status noop result) :=
  .of_regs (complete_regs _ _ _ _ _)

/-! ## Rows, dies and marks (R285 to R292) -/

theorem sameEpoch_repairEvent (s : State) (stk : Nat) (r : DieRow) (action : Nat) : SameEpoch s (s.repairEvent stk r action) := .of_regs rfl

theorem sameEpoch_denyRemap (s : State) (stk : Nat) (r : DieRow) (action : Nat) : SameEpoch s (s.denyRemap stk r action) := .of_regs rfl

theorem sameEpoch_takeSpare (s : State) (n : Nat) (r : DieRow) : SameEpoch s (s.takeSpare n r).2 := by
  unfold State.takeSpare
  dsimp only
  split
  · exact .refl s
  · exact sameEpoch_wr (by decide) _ _ _ _

theorem sameEpoch_remap (s : State) (stk : Nat) (r : DieRow) : SameEpoch s (s.remap stk r) := by
  have hspare := sameEpoch_takeSpare s stk r
  unfold State.remap
  dsimp only
  split
  · exact .refl s
  · split
    · exact sameEpoch_denyRemap _ _ _ _
    · split
      next t ht =>
        rw [ht] at hspare
        exact hspare.trans (sameEpoch_denyRemap _ _ _ _)
      next x t ht =>
        rw [ht] at hspare
        exact hspare.trans (.of_regs rfl)

theorem sameEpoch_markDie (s : State) (stk : Nat) (r : DieRow) : SameEpoch s (s.markDie stk r) := by
  unfold State.markDie
  refine .ite (.refl s) (.ite ?_ (.ite ?_ (.of_regs rfl)))
  · exact (sameEpoch_wr (by decide) _ _ _ _).trans (sameEpoch_repairEvent _ _ _ _)
  · exact (sameEpoch_wr (by decide) _ _ _ _).trans (sameEpoch_repairEvent _ _ _ _)

theorem sameEpoch_tallyRow (s : State) (stk : Nat) (r : DieRow) : SameEpoch s (s.tallyRow stk r) := by
  unfold State.tallyRow State.judgeRow
  refine SameEpoch.trans (t := s.modStack stk (fun k => { k with tallies := (r, (s.stack stk).tally r + 1) :: k.tallies.filter (fun e => e.1 != r) }))
    (.of_regs rfl) ?_
  exact (SameEpoch.ite (sameEpoch_remap _ _ _) (.refl _)).trans (sameEpoch_markDie _ _ _)

theorem sameEpoch_correctedBurst (s : State) (pa : Nat) (dies : List Nat) : SameEpoch s (s.correctedBurst pa dies) := by
  unfold State.correctedBurst
  refine SameEpoch.trans ?_ (.folds (fun u d => sameEpoch_tallyRow _ _ _) _ _)
  exact SameEpoch.trans (t := s.noteEvidence (pa / 128)) (.of_regs rfl) (sameEpoch_inc (by decide) _ _ _ _)

theorem sameEpoch_poisonLine (s : State) (pa p source : Nat) : SameEpoch s (s.poisonLine pa p source) := by
  unfold State.poisonLine
  dsimp only
  refine SameEpoch.trans (t := ((s.setPoison (pa / 128) true).noteEvidence (pa / 128)).inc F.memUeCount 1 0 (paStack pa)) ?_ ?_
  · exact SameEpoch.trans (t := (s.setPoison (pa / 128) true).noteEvidence (pa / 128)) (.of_regs rfl)
      (sameEpoch_inc (f := F.memUeCount) (by decide) _ _ _ _)
  · generalize ((s.setPoison (pa / 128) true).noteEvidence (pa / 128)).inc F.memUeCount 1 0 (paStack pa) = u
    have hinc : SameEpoch u (if (!s.stackPoison (pa / 128)) = true then u.inc F.memPoisoned 1 0 (paStack pa) else u) :=
      .ite (sameEpoch_inc (by decide) _ _ _ _) (.refl u)
    exact hinc.trans (.ite (.of_regs rfl) (.of_regs rfl))

/-! ## Bursts and lines of device memory (R275 to R284) -/

theorem sameEpoch_copyDone (s : State) (n : Nat) (c : DieRow × Nat) : SameEpoch s (s.copyDone n c) := by
  unfold State.copyDone
  dsimp only
  generalize hu : s.modStack n (fun k => { k with copying := k.copying.erase c, cam := k.cam ++ [c] }) = u
  have hsu : SameEpoch s u := hu ▸ .of_regs rfl
  exact ((hsu.trans (sameEpoch_wr (f := F.memCamUsed) (by decide) _ _ _ _)).trans (sameEpoch_inc (f := F.memRemaps) (by decide) _ _ _ _)).trans
    (sameEpoch_repairEvent _ _ _ _)

theorem sameEpoch_rowReady (s : State) (pa : Nat) : SameEpoch s (s.rowReady pa) := .folds (fun _ _ => sameEpoch_copyDone _ _ _) _ _

theorem sameEpoch_clearErrs (s : State) (l : List Nat) : SameEpoch s (s.clearErrs l) := by
  unfold State.clearErrs
  exact .ite (.refl s) (.of_regs rfl)

theorem sameEpoch_burstRead (s : State) (b p source : Nat) (po : Bool) : SameEpoch s (s.burstRead b p source po).2 := by
  unfold State.burstRead
  split
  · exact .refl s
  next f hf =>
    dsimp only
    split
    · refine SameEpoch.trans ?_ (.ite (.refl _) (sameEpoch_correctedBurst _ _ _))
      exact .ite (.of_regs rfl) (.of_regs rfl)
    · split
      · refine SameEpoch.trans ?_ (sameEpoch_correctedBurst _ _ _)
        exact .ite (.of_regs rfl) (.of_regs rfl)
      · refine SameEpoch.trans ?_ (sameEpoch_poisonLine _ _ _ _)
        refine SameEpoch.trans ?_ (.ite (.refl _) (sameEpoch_correctedBurst _ _ _))
        exact .ite (.of_regs rfl) (.of_regs rfl)

theorem sameEpoch_stackFetch (s : State) (line p source : Nat) (l : List Nat) : SameEpoch s (s.stackFetch line p source l) := by
  unfold State.stackFetch
  dsimp only
  refine SameEpoch.trans (sameEpoch_rowReady s (line * 128)) ?_
  generalize s.rowReady (line * 128) = u
  have hfold := SameEpoch.foldl (fun a : Bool × State => a.2)
    (f := fun (a : Bool × State) i => (a.1 || (a.2.burstRead (2 * line + i) p source (u.stackPoison line)).1, (a.2.burstRead (2 * line + i) p source (u.stackPoison line)).2))
    (fun a i => sameEpoch_burstRead _ _ _ _ _) l (false, u)
  exact .ite (hfold.trans (sameEpoch_clearErrs _ _)) hfold

theorem sameEpoch_stackPut (s : State) (line : Nat) (d : List Byte) : SameEpoch s (s.stackPut line d) := .of_regs rfl

theorem sameEpoch_setPoison (s : State) (line : Nat) (v : Bool) : SameEpoch s (s.setPoison line v) := .of_regs rfl

theorem sameEpoch_stackStore (s : State) (line : Nat) (d : List Byte) : SameEpoch s (s.stackStore line d) :=
  (sameEpoch_stackPut _ _ _).trans (sameEpoch_clearErrs _ _)

theorem sameEpoch_drawLines (s : State) (p stk cls n : Nat) : SameEpoch s (s.drawLines p stk cls n) := by
  unfold State.drawLines
  dsimp only
  refine .ite (.refl s) (SameEpoch.trans (.of_regs rfl) (sameEpoch_add ?_ _ _ _ _))
  split <;> decide

theorem sameEpoch_charge (s : State) (p stk n : Nat) (early : Bool) : SameEpoch s (s.charge p stk n early) := by
  unfold State.charge
  dsimp only
  refine .ite (.refl s) ?_
  have hdraw := (sameEpoch_drawLines s p stk 0 (if early then 0 else s.mayDraw p stk 0 n)).trans (sameEpoch_drawLines _ p stk 1
    ((s.drawLines p stk 0 (if early then 0 else s.mayDraw p stk 0 n)).mayDraw p stk 1 (n - (if early then 0 else s.mayDraw p stk 0 n))))
  exact .ite hdraw (hdraw.trans (.of_regs rfl))

/-! ## The Mere (R293 to R306) -/

theorem sameEpoch_countMere (s : State) (p : Nat) (hit : Bool) : SameEpoch s (s.countMere p hit) := by
  unfold State.countMere
  exact .ite (.refl s) (.ite (SameEpoch.trans (.of_regs rfl) (sameEpoch_wr (f := F.pMereHits) (by decide) _ _ _ _))
    (SameEpoch.trans (.of_regs rfl) (sameEpoch_wr (f := F.pMereMiss) (by decide) _ _ _ _)))

theorem sameEpoch_keepNow (s : State) (p : Nat) : SameEpoch s (s.keepNow p) := by
  unfold State.keepNow
  exact .ite (.refl s) (sameEpoch_wr (by decide) _ _ _ _)

theorem sameEpoch_setMere (s : State) (m : Tab MereLine) : SameEpoch s (s.setMere m) := .of_regs rfl

theorem sameEpoch_pinHit (s : State) (p line : Nat) (m : MereLine) : SameEpoch s (s.pinHit p line m) := by
  unfold State.pinHit
  refine .ite (.refl s) (.ite ?_ ?_)
  · exact (sameEpoch_setMere _ _).trans (sameEpoch_keepNow _ _)
  · exact (sameEpoch_setMere _ _).trans (sameEpoch_inc (by decide) _ _ _ _)

theorem sameEpoch_writeBack (s : State) (line : Nat) (m : MereLine) (early : Bool) : SameEpoch s (s.writeBack line m early) := by
  unfold State.writeBack
  exact (((sameEpoch_rowReady _ _).trans (sameEpoch_stackStore _ _ _)).trans (sameEpoch_setPoison _ _ _)).trans (sameEpoch_charge _ _ _ _ _)

theorem sameEpoch_makeRoom (s : State) (line : Nat) (early : Bool) : SameEpoch s (s.makeRoom line early) := by
  unfold State.makeRoom
  dsimp only
  refine .ite (.refl s) ?_
  split
  · exact .of_regs rfl
  next l m hlm =>
    have hdel : SameEpoch s (s.fresh.2.setMere (tdel s.fresh.2.mem.mere l)) := .of_regs rfl
    exact .ite (hdel.trans (sameEpoch_writeBack _ _ _ _)) hdel

theorem sameEpoch_place (s : State) (line : Nat) (m : MereLine) (early : Bool) : SameEpoch s (s.place line m early) := by
  unfold State.place
  dsimp only
  refine SameEpoch.trans ((sameEpoch_makeRoom s line early).trans (sameEpoch_setMere _ _)) (SameEpoch.trans (.ite (.refl _) ?_) (sameEpoch_keepNow _ _))
  exact sameEpoch_inc (by decide) _ _ _ _

/-! ## Writes of a partition's memory (R37, R300) -/

theorem sameEpoch_stackWrite (s : State) (p line ofs : Nat) (bs : List Byte) (po early : Bool) : SameEpoch s (s.stackWrite p line ofs bs po early) := by
  unfold State.stackWrite
  dsimp only
  exact ((((sameEpoch_stackFetch _ _ _ _ _).trans (sameEpoch_stackPut _ _ _)).trans (sameEpoch_clearErrs _ _)).trans (sameEpoch_setPoison _ _ _)).trans
    (sameEpoch_charge _ _ _ _ _)

theorem sameEpoch_lineWrite (s : State) (p hint line ofs : Nat) (bs : List Byte) (po early : Bool) :
    SameEpoch s (s.lineWrite p hint line ofs bs po early) := by
  unfold State.lineWrite
  dsimp only
  split
  next m hm =>
    have hhit := fun t => (sameEpoch_setMere s t).trans (sameEpoch_countMere _ p true)
    exact .ite (hhit _) (.ite ((hhit _).trans (sameEpoch_pinHit _ _ _ _)) ((hhit _).trans (sameEpoch_setMere _ _)))
  · refine (sameEpoch_countMere s p false).trans (.ite (sameEpoch_stackWrite _ _ _ _ _ _ _) ?_)
    refine SameEpoch.trans (.ite (.refl _) ?_) (sameEpoch_place _ _ _ _)
    exact (sameEpoch_charge _ _ _ _ _).trans (sameEpoch_stackFetch _ _ _ _ _)

theorem sameEpoch_sampleReq (s : State) (p pva : Nat) : SameEpoch s (s.sampleReq p pva) := by
  unfold State.sampleReq
  split
  · exact .refl s
  · exact .ite (.refl s) (.of_regs rfl)

theorem sameEpoch_xfault (s : State) (p who pva kind cause : Nat) : SameEpoch s (s.xfault p who pva kind cause) :=
  SameEpoch.trans (.of_regs rfl) (sameEpoch_inc (f := F.pTrFaults) (by decide) _ _ _ _)

theorem sameEpoch_writePva (s : State) (c : Ctx) (pva : Nat) (bs : List Byte) (po : Bool) : SameEpoch s (s.writePva c pva bs po).2 := by
  unfold State.writePva
  refine SameEpoch.foldl (fun a : Bool × State => a.2) (fun a ch => ?_) _ (false, s)
  split
  · exact .refl _
  · split
    · exact sameEpoch_xfault _ _ _ _ _ _
    · exact sameEpoch_xfault _ _ _ _ _ _
    · split
      · exact sameEpoch_xfault _ _ _ _ _ _
      · exact (sameEpoch_sampleReq _ _ _).trans (sameEpoch_lineWrite _ _ _ _ _ _ _ _)

/-! ## Messages and buffers that a release gives back (R370 to R378, R430 to R450) -/

theorem sameEpoch_returnBuf (s : State) (cid : Nat) (b : GnxBuf) (status : Nat) : SameEpoch s (s.returnBuf cid b status) := by
  unfold State.returnBuf
  split
  · exact SameEpoch.trans (.of_regs rfl) (sameEpoch_complete _ _ _ _ _)
  · exact .of_regs rfl

theorem sameEpoch_revoke (s : State) (cid : Nat) (b : GnxBuf) : SameEpoch s (s.revoke cid b) := by
  unfold State.revoke
  split
  · exact sameEpoch_returnBuf _ _ _ _
  · exact SameEpoch.trans (.of_regs (modChan_regs _ _ _)) (sameEpoch_returnBuf _ _ _ _)

theorem sameEpoch_returnPool (s : State) (p g : Nat) (x : CollGroup) : SameEpoch s (s.returnPool p g x) := by
  refine .folds (fun s m => ?_) _ _
  split
  · exact .refl s
  · exact SameEpoch.trans (.folds (fun _ _ => sameEpoch_revoke _ _ _) _ _) (.of_regs (modChan_regs _ _ _))

theorem sameEpoch_collRepost (s : State) (p g cid : Nat) (b : GnxBuf) : SameEpoch s (s.collRepost p g cid b) := by
  unfold State.collRepost
  split
  · exact .refl s
  · exact .of_regs (modChan_regs _ _ _)

theorem sameEpoch_dropContribs (s : State) (p n : Nat) (pick : Contrib → Bool) : SameEpoch s (s.dropContribs p n pick) := by
  unfold State.dropContribs
  split
  · exact .refl s
  · exact SameEpoch.trans (.of_regs (putSheaf_regs _ _ _ _)) (.folds (fun _ _ => .folds (fun _ _ => sameEpoch_collRepost _ _ _ _ _) _ _) _ _)

theorem sameEpoch_chaffEntry (s : State) (p n shard src kind step dec : Nat) (arr : Option Nat) :
    SameEpoch s (s.chaffEntry p n shard src kind step dec arr) := by
  unfold State.chaffEntry
  exact .ite (.refl s) ((sameEpoch_writePva _ _ _ _ _).trans (sameEpoch_wr (by decide) _ _ _ _))

theorem sameEpoch_sheafGone (s : State) (p n : Nat) : SameEpoch s (s.sheafGone p n) := by
  unfold State.sheafGone
  split
  · exact .refl s
  · exact ((((SameEpoch.folds (fun _ _ => sameEpoch_chaffEntry _ _ _ _ _ _ _ _ _) _ _).trans (sameEpoch_add (f := F.pChaff) (by decide) _ _ _ _)).trans
      (sameEpoch_wr (f := F.pPending) (by decide) _ _ _ _)).trans (sameEpoch_dropContribs _ _ _ _)).trans (.of_regs (modColl_regs _ _ _))

/-! ## Releases that waited for a step (R662) -/

theorem sameEpoch_done (s : State) (d : DRef) : SameEpoch s (s.done d) := sameEpoch_complete _ _ _ _ _

theorem sameEpoch_planTryRelease (s : State) (p n : Nat) : SameEpoch s (s.planTryRelease p n) := by
  unfold State.planTryRelease
  split
  · exact .refl s
  · split
    · exact .refl s
    · exact .ite (.refl s) (SameEpoch.trans (.of_regs (modCad_regs _ _ _)) (sameEpoch_done _ _))

theorem sameEpoch_countShards (s : State) (p : Nat) : SameEpoch s (s.countShards p) := sameEpoch_wr (by decide) _ _ _ _

theorem sameEpoch_shardTryRelease (s : State) (p i : Nat) : SameEpoch s (s.shardTryRelease p i) := by
  unfold State.shardTryRelease
  split
  · exact .refl s
  · split
    · exact .refl s
    · exact .ite (.refl s) (SameEpoch.trans (SameEpoch.trans (.of_regs (modPart_regs _ _ _)) (sameEpoch_countShards _ _)) (sameEpoch_done _ _))

theorem sameEpoch_listTryRelease (s : State) (p plan : Nat) : SameEpoch s (s.listTryRelease p plan) := by
  unfold State.listTryRelease
  split
  · exact .refl s
  · split
    · exact .refl s
    · exact .ite (.refl s) (SameEpoch.trans (.of_regs (modColl_regs _ _ _)) (sameEpoch_done _ _))

theorem sameEpoch_ledgerTryRelease (s : State) (p plan : Nat) : SameEpoch s (s.ledgerTryRelease p plan) := by
  unfold State.ledgerTryRelease
  split
  · exact .refl s
  · split
    · exact .refl s
    · exact .ite (.refl s) (SameEpoch.trans (.of_regs (modColl_regs _ _ _)) (sameEpoch_done _ _))

theorem sameEpoch_sheafTryRelease (s : State) (p n : Nat) : SameEpoch s (s.sheafTryRelease p n) := by
  unfold State.sheafTryRelease
  split
  · exact .refl s
  · split
    · exact .refl s
    · exact .ite (.refl s) ((sameEpoch_sheafGone _ _ _).trans (sameEpoch_done _ _))

theorem sameEpoch_groupTryRelease (s : State) (p g : Nat) : SameEpoch s (s.groupTryRelease p g) := by
  unfold State.groupTryRelease
  split
  · exact .refl s
  · split
    · exact .refl s
    · exact .ite (.refl s) (((sameEpoch_returnPool _ _ _ _).trans (.of_regs (modColl_regs _ _ _))).trans (sameEpoch_done _ _))

theorem sameEpoch_releaseLook (s : State) (p : Nat) : SameEpoch s (s.releaseLook p) := by
  unfold State.releaseLook
  dsimp only
  refine SameEpoch.trans ?_ (.folds (fun _ _ => sameEpoch_groupTryRelease _ _ _) _ _)
  refine SameEpoch.trans ?_ (.folds (fun _ _ => sameEpoch_sheafTryRelease _ _ _) _ _)
  refine SameEpoch.trans ?_ (.folds (fun _ _ => sameEpoch_ledgerTryRelease _ _ _) _ _)
  refine SameEpoch.trans ?_ (.folds (fun _ _ => sameEpoch_listTryRelease _ _ _) _ _)
  refine SameEpoch.trans ?_ (.folds (fun _ _ => sameEpoch_shardTryRelease _ _ _) _ _)
  exact .folds (fun _ _ => sameEpoch_planTryRelease _ _ _) _ _

/-! ## The end of a step (R74, R81, R493) -/

theorem sameEpoch_ledgerEnd (s : State) (p plan stepNo : Nat) : SameEpoch s (s.ledgerEnd p plan stepNo) := by
  unfold State.ledgerEnd
  split
  · exact .refl s
  · refine SameEpoch.trans (.folds (fun u i => ?_) _ _) (sameEpoch_wr (by decide) _ _ _ _)
    refine SameEpoch.trans ?_ (sameEpoch_writePva _ _ _ _ _)
    exact .ite (.of_regs rfl) (.ite (.of_regs rfl) (.refl u))

theorem sameEpoch_ticksOver (s : State) (p : Nat) (r : StepRun) : SameEpoch s (s.ticksOver p r) := by
  unfold State.ticksOver
  exact .ite (.refl s) ((sameEpoch_ledgerEnd _ _ _ _).trans (.of_regs (modStep_regs _ _ _ _)))

theorem sameEpoch_flagsEvent (s : State) (p stepNo trigger core gid : Nat) : SameEpoch s (s.flagsEvent p stepNo trigger core gid) := by
  unfold State.flagsEvent
  exact ((((SameEpoch.of_regs (event_regs _ _ _ _)).trans (sameEpoch_wr (f := F.pFlMtx) (by decide) _ _ _ _)).trans
    (sameEpoch_wr (f := F.pFlVec) (by decide) _ _ _ _)).trans (sameEpoch_wr (f := F.pFlIntk) (by decide) _ _ _ _)).trans
    (sameEpoch_wr (f := F.pFlCru) (by decide) _ _ _ _)

theorem sameEpoch_dispReport (s : State) (p n stepNo : Nat) : SameEpoch s (s.dispReport p n stepNo) := by
  unfold State.dispReport
  split
  · exact .refl s
  · exact .ite (.refl s) (.of_regs rfl)

theorem sameEpoch_completeStep (s : State) (p : Nat) (r : StepRun) (status result : Nat) : SameEpoch s (s.completeStep p r status result) := by
  have hreports : ∀ u : State, SameEpoch u (u.dispReports p r.stepNo) := fun u => .folds (fun _ _ => sameEpoch_dispReport _ _ _ _) _ _
  have hflags := fun c : Bool => SameEpoch.ite (c := c = true) (sameEpoch_flagsEvent s p r.stepNo 1 0 0) (.refl s)
  unfold State.completeStep
  dsimp only
  split
  · exact (hflags _).trans (hreports _)
  · exact ((hflags _).trans (hreports _)).trans (sameEpoch_complete _ _ _ _ _)

theorem sameEpoch_countSteps (s : State) (p : Nat) : SameEpoch s (s.countSteps p) := by
  unfold State.countSteps
  exact (sameEpoch_wr (by decide) _ _ _ _).trans (sameEpoch_wr (by decide) _ _ _ _)

theorem sameEpoch_skipStatus (s : State) (p pva gid : Nat) : SameEpoch s (s.skipStatus p pva gid) := sameEpoch_writePva _ _ _ _ _

theorem sameEpoch_commitEvent (s : State) (p stepNo cause rank : Nat) : SameEpoch s (s.commitEvent p stepNo cause rank) := .of_regs (event_regs _ _ _ _)

theorem sameEpoch_discardShards (s : State) (p run : Nat) : SameEpoch s (s.discardShards p run) := .of_regs (modPart_regs _ _ _)

theorem sameEpoch_sheafStepOver (s : State) (p stepNo : Nat) : SameEpoch s (s.sheafStepOver p stepNo) := .of_regs (modColl_regs _ _ _)

theorem sameEpoch_leaveStep (s : State) (p : Nat) (r : StepRun) : SameEpoch s (s.leaveStep p r) := by
  unfold State.leaveStep
  dsimp only
  refine SameEpoch.trans ?_ (sameEpoch_releaseLook _ _)
  refine SameEpoch.trans ?_ (sameEpoch_countSteps _ _)
  have hskip : SameEpoch s (((s.part p).cad.work.filter (fun g => g.run == r.id)).foldl (fun s g => s.skipStatus p g.statPva (gId g.word)) s) :=
    .folds (fun _ _ => sameEpoch_skipStatus _ _ _ _) _ _
  refine SameEpoch.trans (hskip.trans ?_)
    (.ite (SameEpoch.trans (.of_regs (modCad_regs _ _ _)) (.folds (fun _ _ => sameEpoch_done _ _) _ _)) (.refl _))
  exact .of_regs rfl

theorem sameEpoch_endStep (s : State) (p : Nat) (r : StepRun) (reason : Nat) (abandoned : Bool) : SameEpoch s (s.endStep p r reason abandoned) := by
  unfold State.endStep
  dsimp only
  refine SameEpoch.trans ?_ (sameEpoch_leaveStep _ _ _)
  refine SameEpoch.trans ?_ (sameEpoch_completeStep _ _ _ _ _)
  refine SameEpoch.trans ?_ (.ite (sameEpoch_commitEvent _ _ _ _ _) (.refl _))
  refine SameEpoch.trans ?_ (.ite (.of_regs (modCont_regs _ _ _)) (.ite (.of_regs (modCont_regs _ _ _)) (.refl _)))
  exact ((sameEpoch_ticksOver _ _ _).trans (sameEpoch_discardShards _ _ _)).trans (.ite (sameEpoch_sheafStepOver _ _ _) (.refl _))

theorem sameEpoch_abandonAll (s : State) (p reason : Nat) : SameEpoch s (s.abandonAll p reason) :=
  .folds (fun _ _ => sameEpoch_endStep _ _ _ _ _) _ _

end Sys2Proof.Machine.EpochLaws
end

section
/-! PROOF. The descriptors of a job (13_continuity.md, R457 to R493): O54. -/
namespace Sys2Proof.Machine.JobLaws
open Sys2Proof Sys2Proof.Machine.Laws Sys2Proof.Machine.RingLaws Sys2Proof.Machine.DispatchLaws Sys2Proof.Machine.ChannelLaws
  Sys2Proof.Machine.EpochLaws

section
variable {t u : State} {r : DRef} {d : Desc}

/-! ## JOB_REGISTER (R457, R459) -/

theorem runJobRegister_of_unreadable (h : t.descRead r.part (d.at 16 64) 2112 = (none, u)) : t.runJobRegister r d = u.noop r := by
  simp only [State.runJobRegister, h]

theorem runJobRegister_of_bad {bs : List Byte} (h : t.descRead r.part (d.at 16 64) 2112 = (some bs, u)) (hok : u.jobOk r.part (leNat bs) = false) :
    t.runJobRegister r d = u.nullDesc r contNull (d.at 16 64) := by
  simp only [State.runJobRegister, h, hok, Bool.not_false, if_true]

/-- The members an image names. -/
def imageMembers (b : Nat) : List JobMember := (List.range (fldN b 8 7)).map (jobMember b)

/-- The members whose role is active. -/
def imageActive (b : Nat) : List Nat := (List.range (fldN b 8 7)).filter (fun i => (((imageMembers b)[i]?).map (fun m => m.role)) == some 0)

/-- The job an image registers, all its buddies kept. -/
def imageJob (u : State) (b : Nat) : Job :=
  { n := fldN b 8 7, self := fldN b 15 6, anchor := fldN b 21 6, jobId := fldN b 64 64, members := imageMembers b, active := imageActive b,
    version := u.rd F.idCifMax, heard := (imageActive b).map (fun i => (i, u.tick)), reports := [], excused := [], accepted := none,
    accepts := [], readies := [], roots := [], ckdone := [], joined := [], stated := [], lastRenew := u.tick, pauseAt := none,
    pauseAcks := [], restarting := false, joinOwed := false, leaving := none }

/-- The state in which the job of an image is registered. -/
def jobSet (u : State) (p b : Nat) : State :=
  let v := (u.modCont p (fun c => { c with job := some (imageJob u b) })).wr F.pEpoch (fldN b 128 64) p
  let v := (v.wr F.pRank (fldN b 15 6) p).wr F.pNAct (imageActive b).length p
  v.wr F.pJstate (if fldN b 15 6 ∈ imageActive b then jsActive else jsSpare) p

/-- A member with the buddy bits that stand. -/
def keepBuddies (ms : List JobMember) (m : JobMember) : JobMember := { m with buddy0 := buddyKept ms m m.buddy0, buddy1 := buddyKept ms m m.buddy1 }

theorem keepBuddies_of_all {ms : List JobMember} (h : ∀ m ∈ ms, buddyKept ms m m.buddy0 = m.buddy0 ∧ buddyKept ms m m.buddy1 = m.buddy1) :
    ms.map (keepBuddies ms) = ms := by
  refine (List.map_congr_left fun m hm => ?_).trans (List.map_id ms)
  obtain ⟨h0, h1⟩ := h m hm
  unfold keepBuddies
  rw [h0, h1]
  rfl

theorem sumOf_zero {l : List Nat} (h : ∀ x ∈ l, x = 0) : sumOf l = 0 := by
  induction l with
  | nil => rfl
  | cons x l ih =>
    have hx := h x (List.mem_cons_self ..)
    have hl := ih fun y hy => h y (List.mem_cons_of_mem _ hy)
    simp only [sumOf] at hl ⊢
    simpa [hx] using hl

/-- The buddy bits cleared of two lists of members, pair by pair. -/
def cutBuddies (ms ks : List JobMember) : Nat := sumOf ((ms.zip ks).map (fun e => b2n (e.1.buddy0 != e.2.buddy0) + b2n (e.1.buddy1 != e.2.buddy1)))

theorem cutBuddies_self (ms : List JobMember) : cutBuddies ms ms = 0 := by
  refine sumOf_zero fun x hx => ?_
  obtain ⟨e, he, rfl⟩ := List.mem_map.mp hx
  have heq : e.1 = e.2 := by
    obtain ⟨i, hi, rfl⟩ := List.getElem_of_mem he
    rw [List.getElem_zip]
  simp [heq, b2n]

/-- What a registration of an image within its rules does. -/
theorem runJobRegister_eq {bs : List Byte} (h : t.descRead r.part (d.at 16 64) 2112 = (some bs, u)) (hok : u.jobOk r.part (leNat bs) = true) :
    t.runJobRegister r d =
      (let b := leNat bs
       let kept := (imageMembers b).map (keepBuddies (imageMembers b))
       let cut := cutBuddies (imageMembers b) kept
       let s := iterN cut (fun _ s => s.clampDesc r 9 0x0A05 1 0) u
       let s := s.modCont r.part (fun c => { c with job := some { imageJob s b with members := kept } })
       let s := ((s.wr F.pEpoch (fldN b 128 64) r.part).wr F.pRank (fldN b 15 6) r.part).wr F.pNAct (imageActive b).length r.part
       let s := s.wr F.pJstate (if (imageActive b).contains (fldN b 15 6) then jsActive else jsSpare) r.part
       (s.memberEvent r.part (fldN b 64 64) 0 (fldN b 128 64) (maskOf (imageActive b)) 1 0).done { r with clamped := r.clamped || cut != 0 }) := by
  unfold State.runJobRegister
  dsimp only
  rw [h]
  dsimp only
  rw [if_neg (by rw [hok]; decide)]
  rfl

theorem runJobRegister_of_kept {bs : List Byte} (h : t.descRead r.part (d.at 16 64) 2112 = (some bs, u)) (hok : u.jobOk r.part (leNat bs) = true)
    (hkept : ∀ m ∈ imageMembers (leNat bs), buddyKept (imageMembers (leNat bs)) m m.buddy0 = m.buddy0 ∧
      buddyKept (imageMembers (leNat bs)) m m.buddy1 = m.buddy1) : t.runJobRegister r d =
      ((jobSet u r.part (leNat bs)).memberEvent r.part (fldN (leNat bs) 64 64) 0 (fldN (leNat bs) 128 64) (maskOf (imageActive (leNat bs))) 1 0).done
        { r with clamped := r.clamped || false } := by
  have hself : (if (imageActive (leNat bs)).contains (fldN (leNat bs) 15 6) then jsActive else jsSpare) =
      (if fldN (leNat bs) 15 6 ∈ imageActive (leNat bs) then jsActive else jsSpare) := if_congr List.contains_iff_mem rfl rfl
  rw [runJobRegister_eq h hok]
  dsimp only
  rw [keepBuddies_of_all hkept, cutBuddies_self, hself]
  rfl

/-! ## JOB_LEAVE (R467) -/

theorem runJobLeave_of_null (h : ∀ j, t.job? r.part = some j → j.leaving.isSome = true) : t.runJobLeave r d = t.nullDesc r contNull 0 := by
  unfold State.runJobLeave
  dsimp only
  split
  · rfl
  next j hj => exact if_pos (h j hj)

/-- A member alone in its job leaves at once: what ends its steps leaves the EPOCH it leaves under. -/
theorem runJobLeave_of_member {j : Job} (hp : r.part < 36) (h : t.job? r.part = some j) (hl : j.leaving = none) : t.runJobLeave r d =
    (let u := t.modJob r.part (fun j => { j with leaving := some r })
     if j.others = [] then (u.abandonAll r.part 7).leftJob r.part ((u.abandonAll r.part 7).rd F.pEpoch r.part)
     else (u.abandonAll r.part 8).wr F.pJstate jsHold r.part) := by
  unfold State.runJobLeave
  dsimp only
  rw [h]
  dsimp only
  rw [if_neg (by rw [hl]; decide), sameEpoch_abandonAll _ r.part 7 r.part hp]

/-! ## Checkpoints and the cursor (R478 to R490) -/

theorem runCkptSet_of_no_job (h : t.job? r.part = none) : t.runCkptSet r d = t.nullDesc r contNull 0 := by
  simp only [State.runCkptSet, h]

theorem runCkptSet_of_no_buddies {j : Job} {m : JobMember} (h : t.job? r.part = some j) (hm : j.members[j.self]? = some m) (h0 : m.buddy0 = none)
    (h1 : m.buddy1 = none) : t.runCkptSet r d = (t.modCont r.part (fun c => { c with buddies := [], slotLen := d.at 32 64 })).done r := by
  unfold State.runCkptSet
  dsimp only
  rw [h]
  dsimp only
  rw [hm]
  dsimp only
  rw [h0, h1]
  rfl

section
variable (hn : d.at 24 13 ≤ 4096)
include hn

theorem runCursor_of_unreadable (h : t.descRead r.part (d.at 16 64) (d.at 24 13) = (none, u)) : t.runCursor r d = u.noop r := by
  have hmin : Nat.min (d.at 24 13) 4096 = d.at 24 13 := Nat.min_eq_left hn
  simp only [State.runCursor, hmin, if_true, h]

theorem runCursor_of_read {b : List Byte} (h : t.descRead r.part (d.at 16 64) (d.at 24 13) = (some b, u)) : t.runCursor r d =
    (u.modCont r.part (fun c => { c with cursor := b })).done { r with clamped := r.clamped || false } := by
  have hmin : Nat.min (d.at 24 13) 4096 = d.at 24 13 := Nat.min_eq_left hn
  simp only [State.runCursor, hmin, if_true, h, bne_self_eq_false]

end

/-! ## Replay, rollback and restore (R470 to R476, R491) -/

theorem runStepReplay_of_none (h : (t.part r.part).cont.failed = none) : t.runStepReplay r d = t.nullDesc r contNull (d.at 16 64) := by
  simp only [State.runStepReplay, h]

section
variable {f : FailedStep} {x : Plan} (h : (t.part r.part).cont.failed = some f) (hx : tget? (t.part r.part).cad.plans f.plan = some x)
include h hx

theorem runStepReplay_of_refused (hno : f.stepNo ≠ d.at 16 64 ∨ (∃ y ∈ t.actives r.part, y.replay = true) ∨ t.rd F.pJstate r.part = jsHold) :
    t.runStepReplay r d = t.nullDesc r contNull (d.at 16 64) := by
  unfold State.runStepReplay
  dsimp only
  rw [h]
  simp only [Option.map_some, Option.getD_some, hx]
  exact if_pos (by simpa [or_assoc] using hno)

/-- The run of a failed step's update grains. -/
def replayRun (t : State) (r : DRef) (d : Desc) (f : FailedStep) (x : Plan) : StepRun :=
  ⟨(t.part r.part).cad.nextRun, f.plan, d.at 16 64, some r, t.tick, t.tick, 0, x.statStride, x.tptPva, x.statPva, .running, 0, none, none, false,
    f.updates, true, false⟩

/-- The state in which the failed step is run again, told and counted. -/
def replayed (t : State) (r : DRef) (d : Desc) (f : FailedStep) (x : Plan) : State :=
  let id := (t.part r.part).cad.nextRun
  let v := (t.modCad r.part (fun c => { c with
    steps := replayRun t r d f x :: c.steps, nextRun := id + 1, work := f.updates.map (fun g => t.toAgain id g) ++ c.work })).inc F.pStepRpl 1 r.part
  v.commitEvent r.part (d.at 16 64) 0x10 (v.rd F.pRank r.part)

theorem runStepReplay_of_failed (hs : f.stepNo = d.at 16 64) (hr : ∀ y ∈ t.actives r.part, y.replay = false) (hj : t.rd F.pJstate r.part ≠ jsHold)
    (hp : tget? ((replayed t r d f x).part r.part).tier.promos f.plan = none) :
    t.runStepReplay r d = ((replayed t r d f x).countSteps r.part).stepLook r.part := by
  have hany : (t.actives r.part).any (fun y => y.replay) = false := List.any_eq_false.mpr fun y hy => by rw [hr y hy]; decide
  unfold State.runStepReplay
  dsimp only
  rw [h]
  simp only [Option.map_some, Option.getD_some, hx]
  rw [if_neg (by simp [hs, hany, hj])]
  have hrank : ∀ w : State, w.rd F.pRank r.part = (w.inc F.pStepRpl 1 r.part).rd F.pRank r.part :=
    fun w => (FunctionLaws.rd_wr_apart (f := F.pStepRpl) (by decide) w _ _).symm
  unfold replayed replayRun at hp ⊢
  dsimp only at hp
  rw [hrank (State.modCad _ _ _), hp]

end

/-- The checkpoint a rollback names. -/
def rollbackTarget (t : State) (r : DRef) (d : Desc) : Nat := if d.at 16 64 = 0 then t.rd F.pCkjob r.part else d.at 16 64

theorem runRollback_of_refused (h : rollbackTarget t r d = 0 ∨ t.rd F.pCommit r.part < rollbackTarget t r d) :
    t.runRollback r d = t.nullDesc r contNull (d.at 16 64) :=
  if_pos (by unfold rollbackTarget at h; simpa using h)

theorem runRollback_of_reached (h0 : rollbackTarget t r d ≠ 0) (h : rollbackTarget t r d ≤ t.rd F.pCommit r.part) :
    t.runRollback r d = t.rollback r.part (rollbackTarget t r d) (some r) :=
  if_neg (by
    rw [Bool.or_eq_true, decide_eq_true_eq, decide_eq_true_eq]
    exact not_or.mpr ⟨h0, Nat.not_lt.mpr h⟩)

theorem runMemberRestore_of_no_job (h : t.job? r.part = none) : t.runMemberRestore r d = t.nullDesc r contNull (d.fld 0 6) := by
  simp only [State.runMemberRestore, h]

section
variable {j : Job} (h : t.job? r.part = some j)
include h

theorem runMemberRestore_of_no_rank (hn : j.n ≤ d.fld 0 6) : t.runMemberRestore r d = t.nullDesc r contNull (d.fld 0 6) := by
  simp only [State.runMemberRestore, h, if_pos hn]

variable (hn : d.fld 0 6 < j.n)
include hn

theorem runMemberRestore_of_unreadable (hr : t.descRead r.part (d.at 24 64) (136 * d.fld 6 12) = (none, u)) : t.runMemberRestore r d = u.noop r := by
  simp only [State.runMemberRestore, h, if_neg (Nat.not_le.mpr hn), hr]

theorem runMemberRestore_of_read {bs : List Byte} (hr : t.descRead r.part (d.at 24 64) (136 * d.fld 6 12) = (some bs, u)) : t.runMemberRestore r d =
    u.restoreStart r.part ⟨some r, false, d.fld 0 6, u.rd F.pCkjob r.part,
      (List.range (d.fld 6 12)).map (fun i => (leAt bs (136 * i) 8 % 4096, bytesAt bs (136 * i + 8) 128)), d.at 32 64, [], 0, 0, 0, false, [], [], [], []⟩ := by
  simp only [State.runMemberRestore, h, if_neg (Nat.not_le.mpr hn), hr]

end
end

/-! ## The obligation -/

/-- A descriptor that starts names one of the 36 partitions. -/
theorem part_lt_of_starts {s t : State} {op : Nat} {d : Desc} {r : DRef} (h : s.starts op d r t) : r.part < 36 := by
  obtain ⟨u, hc, -⟩ := h
  obtain ⟨x, -, -, rfl, -⟩ := consume_eq_some hc
  exact d.part.isLt

/-- Settles O54: each descriptor by the branch its image, its job or its step takes. -/
theorem jobDescriptors : Obligations.JobDescriptors := by
  refine ⟨fun s d r t hs => ⟨?_, ?_⟩, fun s d r t hs => ⟨?_, ?_⟩, fun s d r t hs => ⟨?_, ?_⟩, fun s d r t hs hn => ⟨?_, ?_⟩, fun s d r t hs => ?_,
    fun s d r t hs h => ?_, fun s d r t f x hs h hx => ⟨?_, ?_⟩, fun s d r t hs => ?_, fun s d r t hs => ⟨?_, ?_⟩⟩
  case refine_1 => exact fun u hu hh => closed_descriptor hs (runJobRegister_of_unreadable hu) hh
  case refine_2 =>
    intro bs u hu b n ms active
    refine ⟨fun hok hh => closed_descriptor hs (runJobRegister_of_bad hu hok) hh, fun hok hkept => ?_⟩
    intro j v v' v'' y hh
    exact closed_descriptor hs (runJobRegister_of_kept hu hok hkept) hh
  case refine_3 => exact fun h hh => closed_descriptor hs (runJobLeave_of_null h) hh
  case refine_4 => exact fun j h hl hh => closed_descriptor hs (runJobLeave_of_member (part_lt_of_starts hs) h hl) hh
  case refine_5 => exact fun h hh => closed_descriptor hs (runCkptSet_of_no_job h) hh
  case refine_6 => exact fun j m h hm h0 h1 hh => closed_descriptor hs (runCkptSet_of_no_buddies h hm h0 h1) hh
  case refine_7 => exact fun u hu hh => closed_descriptor hs (runCursor_of_unreadable hn hu) hh
  case refine_8 => exact fun b u hu hh => closed_descriptor hs (runCursor_of_read hn hu) hh
  case refine_9 => exact fun hh => closed_descriptor hs rfl hh
  case refine_10 => exact fun hh => closed_descriptor hs (runStepReplay_of_none h) hh
  case refine_11 => exact fun hno hh => closed_descriptor hs (runStepReplay_of_refused h hx hno) hh
  case refine_12 =>
    intro hst hr hj _ id y u v w hp y' hh
    exact closed_descriptor hs (runStepReplay_of_failed h hx hst hr hj hp) hh
  case refine_13 =>
    exact ⟨fun h hh => closed_descriptor hs (runRollback_of_refused h) hh, fun h0 h hh => closed_descriptor hs (runRollback_of_reached h0 h) hh⟩
  case refine_14 => exact fun h hh => closed_descriptor hs (runMemberRestore_of_no_job h) hh
  case refine_15 =>
    exact fun j h => ⟨fun hn hh => closed_descriptor hs (runMemberRestore_of_no_rank h hn) hh,
      fun hn => ⟨fun u hu hh => closed_descriptor hs (runMemberRestore_of_unreadable h hn hu) hh,
        fun bs u hu hh => closed_descriptor hs (runMemberRestore_of_read h hn hu) hh⟩⟩

end Sys2Proof.Machine.JobLaws
end
